-- ==== Sys2Proof/Word.lean ====
section
/-! DEFINITION. The word types of the Vernik-9 (R2, R110, R117, R169) and their plainest arithmetic. -/

namespace Sys2Proof

/-- An instruction word (R110). -/
abbrev Word := BitVec 32

/-- A scalar register or a data word of a frame (R12, R21). -/
abbrev W64 := BitVec 64

/-- A vector register or a vector word of a frame (R12, R21). -/
abbrev VWord := BitVec 2048

/-- A byte. -/
abbrev Byte := BitVec 8

/-- A global virtual address (R382). -/
abbrev VAddr := BitVec 72

end Sys2Proof
end

