-- ==== Sys2Proof/Fields.lean ====
section
/-! DEFINITION. The names that the fields of an instruction word stand for (R62, R117 to R121, R50), and the
operand of the step that handles a hardware error (R411). -/

namespace Sys2Proof

/-- A 5-bit register field: a scalar or a vector register by number (R117). -/
abbrev Reg := BitVec 5

/-- A mask register `m0` to `m7` by number (R117). -/
abbrev MReg := BitVec 3

/-- A slot number (R116). -/
abbrev SlotNo := BitVec 4

/-- The even-odd pair `s`2j, `s`2j+1 of a tile descriptor, by j (R117). -/
abbrev PairNo := BitVec 4

/-- A rounding direction (R62). -/
inductive Round where
  | rne | rtz | rdn | rup | rod
  deriving DecidableEq, Repr, Inhabited

/-- An integer element type, codes 0 to 7 of R120. -/
inductive IntTy where
  | i8 | i16 | i32 | i64 | n8 | n16 | n32 | n64
  deriving DecidableEq, Repr, Inhabited

/-- A floating type: the FT field of R120, and codes 8 to 11 of its T field. -/
inductive FloatTy where
  | f64 | f32 | bf16 | f16
  deriving DecidableEq, Repr, Inhabited

/-- An element type of a T field (R120). -/
inductive ElemTy where
  | int (t : IntTy)
  | flt (t : FloatTy)
  deriving DecidableEq, Repr, Inhabited

/-- The narrow element formats of codes 0x04 to 0x08, which are also the element formats of the MX codes 0x09 to
0x0D, in the same order (R50). -/
inductive NarrowFmt where
  | e4m3 | e5m2 | e2m3 | e3m2 | e2m1
  deriving DecidableEq, Repr, Inhabited

/-- A scope (R93, R121). -/
inductive Scope where
  | cell | die | pkg | sys
  deriving DecidableEq, Repr, Inhabited

/-- An ordering of an atomic (R99, R121). -/
inductive Ord where
  | rlx | acq | rel | ar | sc
  deriving DecidableEq, Repr, Inhabited

/-- The type of a scalar load (R127, majors 0x11, 0x48 and 0x49). -/
inductive LoadTy where
  | n8 | n16 | n32 | n64 | i8 | i16 | i32
  deriving DecidableEq, Repr, Inhabited

/-- An access size of 1, 2, 4 or 8 bytes (R121: ESZ and SZ). -/
inductive Size where
  | b1 | b2 | b4 | b8
  deriving DecidableEq, Repr, Inhabited

/-- The special registers that `rds` reads (R118). -/
inductive Special where
  | tag | ctx | cb | cell | frame | cyc
  deriving DecidableEq, Repr, Inhabited

/-- What a step of a running engine command does (R266 to R272). -/
inductive EngineAct where
  /-- The next access or the next element at the cursor. -/
  | perform
  /-- An access to the first or the second input ahead of the cursor. -/
  | stage (second : Bool)
  /-- The oldest result of the buffer written. -/
  | write
  deriving DecidableEq, Repr, Inhabited

/-- What a detected storage or link error concerns (R411). -/
inductive HwError where
  /-- A corrected error of any structure, found by a cell (or the H-die, site 2047). -/
  | corrected (site : Nat)
  /-- An uncorrectable error in a unit of package HBM or Ringmaster memory. -/
  | memory (pa : Nat)
  /-- An uncorrectable error in a unit of scratch. -/
  | scratch (site ctx off : Nat)
  /-- An uncorrectable error in a data word of a frame. -/
  | frameWord (site ctx cb tag word : Nat)
  /-- An uncorrectable error in an element of an accumulator tile. -/
  | tile (site acc i j : Nat)
  /-- An uncorrectable error in the instruction cache, TLB, local cache or a walker entry of a cell. -/
  | cacheEntry (site : Nat)
  /-- An uncorrectable error in the register files of a runner. -/
  | registerFile (site runner : Nat)
  /-- An uncorrectable error in the matching store, ready queue or request table. -/
  | control (site ctx : Nat)
  /-- An uncorrectable error in the park buffer. -/
  | parkBuffer (site ctx : Nat)
  /-- An uncorrectable error or signature mismatch in the descriptor store. -/
  | descriptor (site ctx cb : Nat)
  /-- A retry of one flit on a link. -/
  | linkRetry (site : Nat)
  /-- A link retry rate above 1 in 10^6 flits, as the H-die finds it (R414). -/
  | linkRate
  /-- Sixteen failed retries of one flit on a torus link or a die-to-die link. -/
  | linkFailed (site : Nat)
  /-- A VLP link failure. -/
  | vlpFailed
  deriving DecidableEq, Repr, Inhabited

end Sys2Proof
end

