-- ==== Sys2Proof/Syntax.lean ====
section
/-! DEFINITION. The instructions and device steps of the Vernik-9: one constructor for each row of the opcode
table (R126, R127, R259, and the steps that no instruction word names). -/

namespace Sys2Proof

/-- The rows of the opcode table. A register operand is a register number; an immediate or an offset is the one value
that R114 and R116 make of the base field and, in a long form, of XIMM; a mask operand is named by K; `z` is ZRO,
`sat` is SAT and `r` the rounding direction. The rows after `wrsr` name steps of the device, with the operands that
choose what each step acts on. -/
inductive Instr where
  /-- ADD, R142. Adds two scalar registers modulo 2^64. -/
  | add (d : Reg) (a : Reg) (b : Reg)
  /-- SUB, R142. Subtracts sB from sA modulo 2^64. -/
  | sub (d : Reg) (a : Reg) (b : Reg)
  /-- MUL, R142. Low 64 bits of the product. -/
  | mul (d : Reg) (a : Reg) (b : Reg)
  /-- MULH_I64, R142. High 64 bits of the signed product. -/
  | mulhI64 (d : Reg) (a : Reg) (b : Reg)
  /-- MULH_N64, R142. High 64 bits of the unsigned product. -/
  | mulhN64 (d : Reg) (a : Reg) (b : Reg)
  /-- DIV_I64, R143. Signed quotient by DivRem. -/
  | divI64 (d : Reg) (a : Reg) (b : Reg)
  /-- DIV_N64, R143. Unsigned quotient by DivRem. -/
  | divN64 (d : Reg) (a : Reg) (b : Reg)
  /-- REM_I64, R143. Signed remainder by DivRem. -/
  | remI64 (d : Reg) (a : Reg) (b : Reg)
  /-- REM_N64, R143. Unsigned remainder by DivRem. -/
  | remN64 (d : Reg) (a : Reg) (b : Reg)
  /-- AND, R142. Bitwise AND. -/
  | and (d : Reg) (a : Reg) (b : Reg)
  /-- OR, R142. Bitwise OR. -/
  | or (d : Reg) (a : Reg) (b : Reg)
  /-- XOR, R142. Bitwise exclusive OR. -/
  | xor (d : Reg) (a : Reg) (b : Reg)
  /-- ANDN, R142. sA AND NOT sB. -/
  | andn (d : Reg) (a : Reg) (b : Reg)
  /-- SHL, R142. Logical shift left by sB[5:0]. -/
  | shl (d : Reg) (a : Reg) (b : Reg)
  /-- SHR, R142. Logical shift right by sB[5:0]. -/
  | shr (d : Reg) (a : Reg) (b : Reg)
  /-- SRA, R142. Arithmetic shift right by sB[5:0]. -/
  | sra (d : Reg) (a : Reg) (b : Reg)
  /-- ROL, R142. Rotate left by sB[5:0]. -/
  | rol (d : Reg) (a : Reg) (b : Reg)
  /-- ROR, R142. Rotate right by sB[5:0]. -/
  | ror (d : Reg) (a : Reg) (b : Reg)
  /-- CLZ, R142. Counts leading zero bits. -/
  | clz (d : Reg) (a : Reg)
  /-- CTZ, R142. Counts trailing zero bits. -/
  | ctz (d : Reg) (a : Reg)
  /-- POPC, R142. Counts one bits. -/
  | popc (d : Reg) (a : Reg)
  /-- MIN_I64, R142. Signed minimum. -/
  | minI64 (d : Reg) (a : Reg) (b : Reg)
  /-- MAX_I64, R142. Signed maximum. -/
  | maxI64 (d : Reg) (a : Reg) (b : Reg)
  /-- MIN_N64, R142. Unsigned minimum. -/
  | minN64 (d : Reg) (a : Reg) (b : Reg)
  /-- MAX_N64, R142. Unsigned maximum. -/
  | maxN64 (d : Reg) (a : Reg) (b : Reg)
  /-- SEL, R142. Selects sA when sC is non-zero, else sB. -/
  | sel (d : Reg) (a : Reg) (b : Reg) (c : Reg)
  /-- CLMUL, R144. Low half of the carry-less product. -/
  | clmul (d : Reg) (a : Reg) (b : Reg)
  /-- CLMULH, R144. High half of the carry-less product. -/
  | clmulh (d : Reg) (a : Reg) (b : Reg)
  /-- BGAT, R144. Gathers bits of sA at ones of sB. -/
  | bgat (d : Reg) (a : Reg) (b : Reg)
  /-- BSCT, R144. Scatters low bits of sA to ones of sB. -/
  | bsct (d : Reg) (a : Reg) (b : Reg)
  /-- MADD, R142. a × b + c modulo 2^64. -/
  | madd (d : Reg) (a : Reg) (b : Reg) (c : Reg)
  /-- MSUB, R142. c − a × b modulo 2^64. -/
  | msub (d : Reg) (a : Reg) (b : Reg) (c : Reg)
  /-- SLT_I64, R145. Sets 1 when signed a < b. -/
  | sltI64 (d : Reg) (a : Reg) (b : Reg)
  /-- SLT_N64, R145. Sets 1 when unsigned a < b. -/
  | sltN64 (d : Reg) (a : Reg) (b : Reg)
  /-- SEQ, R145. Sets 1 when a = b. -/
  | seq (d : Reg) (a : Reg) (b : Reg)
  /-- SNE, R145. Sets 1 when a ≠ b. -/
  | sne (d : Reg) (a : Reg) (b : Reg)
  /-- EXTD_I8, R145. Sign-extends a[7:0]. -/
  | extdI8 (d : Reg) (a : Reg)
  /-- EXTD_I16, R145. Sign-extends a[15:0]. -/
  | extdI16 (d : Reg) (a : Reg)
  /-- EXTD_I32, R145. Sign-extends a[31:0]. -/
  | extdI32 (d : Reg) (a : Reg)
  /-- EXTD_N8, R145. Zero-extends a[7:0]. -/
  | extdN8 (d : Reg) (a : Reg)
  /-- EXTD_N16, R145. Zero-extends a[15:0]. -/
  | extdN16 (d : Reg) (a : Reg)
  /-- EXTD_N32, R145. Zero-extends a[31:0]. -/
  | extdN32 (d : Reg) (a : Reg)
  /-- BSWAP, R145. Reverses the eight bytes. -/
  | bswap (d : Reg) (a : Reg)
  /-- ADD_IMM, R146. Adds a sign-extended immediate. -/
  | addImm (d : Reg) (a : Reg) (i : BitVec 27)
  /-- AND_IMM, R146. AND with an immediate. -/
  | andImm (d : Reg) (a : Reg) (i : BitVec 27)
  /-- OR_IMM, R146. OR with an immediate. -/
  | orImm (d : Reg) (a : Reg) (i : BitVec 27)
  /-- XOR_IMM, R146. Exclusive OR with an immediate. -/
  | xorImm (d : Reg) (a : Reg) (i : BitVec 27)
  /-- SHL_IMM, R146. Shift left by an immediate 0–63. -/
  | shlImm (d : Reg) (a : Reg) (i : BitVec 27)
  /-- SHR_IMM, R146. Logical shift right by an immediate. -/
  | shrImm (d : Reg) (a : Reg) (i : BitVec 27)
  /-- SRA_IMM, R146. Arithmetic shift right by an immediate. -/
  | sraImm (d : Reg) (a : Reg) (i : BitVec 27)
  /-- ROR_IMM, R146. Rotate right by an immediate. -/
  | rorImm (d : Reg) (a : Reg) (i : BitVec 27)
  /-- SLT_I64_IMM, R146. Signed less-than against an immediate. -/
  | sltI64Imm (d : Reg) (a : Reg) (i : BitVec 27)
  /-- SLT_N64_IMM, R146. Unsigned less-than against a sign-extended immediate. -/
  | sltN64Imm (d : Reg) (a : Reg) (i : BitVec 27)
  /-- SEQ_IMM, R146. Equality with an immediate. -/
  | seqImm (d : Reg) (a : Reg) (i : BitVec 27)
  /-- SNE_IMM, R146. Inequality with an immediate. -/
  | sneImm (d : Reg) (a : Reg) (i : BitVec 27)
  /-- MUL_IMM, R146. Multiply by an immediate. -/
  | mulImm (d : Reg) (a : Reg) (i : BitVec 27)
  /-- MIN_I64_IMM, R146. Signed minimum with an immediate. -/
  | minI64Imm (d : Reg) (a : Reg) (i : BitVec 27)
  /-- MAX_I64_IMM, R146. Signed maximum with an immediate. -/
  | maxI64Imm (d : Reg) (a : Reg) (i : BitVec 27)
  /-- MOVI, R147. Writes a sign-extended wide immediate. -/
  | movi (d : Reg) (i : BitVec 35)
  /-- MOVH, R147. Replaces bits [63:35] with an immediate. -/
  | movh (d : Reg) (i : BitVec 35)
  /-- RDS, R148. Reads a special register. -/
  | rds (d : Reg) (x : Special)
  /-- FADD, R150. Floating add, rounded once. -/
  | fadd (d : Reg) (a : Reg) (b : Reg) (r : Round) (f : FloatTy)
  /-- FSUB, R150. Floating subtract. -/
  | fsub (d : Reg) (a : Reg) (b : Reg) (r : Round) (f : FloatTy)
  /-- FMUL, R150. Floating multiply. -/
  | fmul (d : Reg) (a : Reg) (b : Reg) (r : Round) (f : FloatTy)
  /-- FDIV, R150. Floating divide. -/
  | fdiv (d : Reg) (a : Reg) (b : Reg) (r : Round) (f : FloatTy)
  /-- FSQRT, R150. Floating square root. -/
  | fsqrt (d : Reg) (a : Reg) (r : Round) (f : FloatTy)
  /-- FMA, R150. a × b + old sD, rounded once. -/
  | fma (d : Reg) (a : Reg) (b : Reg) (r : Round) (f : FloatTy)
  /-- FNMA, R150. old sD − a × b, rounded once. -/
  | fnma (d : Reg) (a : Reg) (b : Reg) (r : Round) (f : FloatTy)
  /-- FMIN, R153. Floating minimum. -/
  | fmin (d : Reg) (a : Reg) (b : Reg) (f : FloatTy)
  /-- FMAX, R153. Floating maximum. -/
  | fmax (d : Reg) (a : Reg) (b : Reg) (f : FloatTy)
  /-- FCEQ, R153. Floating equality compare. -/
  | fceq (d : Reg) (a : Reg) (b : Reg) (f : FloatTy)
  /-- FCLT, R153. Floating less-than compare. -/
  | fclt (d : Reg) (a : Reg) (b : Reg) (f : FloatTy)
  /-- FCLE, R153. Floating less-or-equal compare. -/
  | fcle (d : Reg) (a : Reg) (b : Reg) (f : FloatTy)
  /-- FCVT, R152. Float-to-float conversion. -/
  | fcvt (d : Reg) (a : Reg) (x : FloatTy) (r : Round) (f : FloatTy) (sat : Bool)
  /-- FCVTI, R152. Float-to-integer conversion, saturating. -/
  | fcvti (d : Reg) (a : Reg) (x : IntTy) (r : Round) (f : FloatTy) (sat : Bool)
  /-- ICVTF, R152. Integer-to-float conversion. -/
  | icvtf (d : Reg) (a : Reg) (x : IntTy) (r : Round) (f : FloatTy) (sat : Bool)
  /-- FNEG, R150. Inverts the sign bit. -/
  | fneg (d : Reg) (a : Reg) (f : FloatTy)
  /-- FABS, R150. Clears the sign bit. -/
  | fabs (d : Reg) (a : Reg) (f : FloatTy)
  /-- FSGN, R150. Copies the sign bit of b. -/
  | fsgn (d : Reg) (a : Reg) (b : Reg) (f : FloatTy)
  /-- FCLS, R154. Writes the one-hot class of a. -/
  | fcls (d : Reg) (a : Reg) (f : FloatTy)
  /-- BEQ, R155. Branches when a = sB. -/
  | beq (a : Reg) (b : Reg) (o : BitVec 27)
  /-- BNE, R155. Branches when a ≠ sB. -/
  | bne (a : Reg) (b : Reg) (o : BitVec 27)
  /-- BLT_I64, R155. Branches on signed less-than. -/
  | bltI64 (a : Reg) (b : Reg) (o : BitVec 27)
  /-- BGE_I64, R155. Branches on signed greater-or-equal. -/
  | bgeI64 (a : Reg) (b : Reg) (o : BitVec 27)
  /-- BLT_N64, R155. Branches on unsigned less-than. -/
  | bltN64 (a : Reg) (b : Reg) (o : BitVec 27)
  /-- BGE_N64, R155. Branches on unsigned greater-or-equal. -/
  | bgeN64 (a : Reg) (b : Reg) (o : BitVec 27)
  /-- BBS, R155. Branches when bit sB[5:0] of a is set. -/
  | bbs (a : Reg) (b : Reg) (o : BitVec 27)
  /-- BBC, R155. Branches when bit sB[5:0] of a is clear. -/
  | bbc (a : Reg) (b : Reg) (o : BitVec 27)
  /-- BEQ_IMM, R155. Branches when a equals a small immediate. -/
  | beqImm (a : Reg) (b : BitVec 5) (o : BitVec 27)
  /-- BNE_IMM, R155. Branches when a differs from a small immediate. -/
  | bneImm (a : Reg) (b : BitVec 5) (o : BitVec 27)
  /-- BLT_I64_IMM, R155. Signed less-than against an immediate. -/
  | bltI64Imm (a : Reg) (b : BitVec 5) (o : BitVec 27)
  /-- BGE_I64_IMM, R155. Signed greater-or-equal against an immediate. -/
  | bgeI64Imm (a : Reg) (b : BitVec 5) (o : BitVec 27)
  /-- BLT_N64_IMM, R155. Unsigned less-than against an immediate. -/
  | bltN64Imm (a : Reg) (b : BitVec 5) (o : BitVec 27)
  /-- BGE_N64_IMM, R155. Unsigned greater-or-equal against an immediate. -/
  | bgeN64Imm (a : Reg) (b : BitVec 5) (o : BitVec 27)
  /-- BBS_IMM, R155. Branches when immediate bit n of a is set. -/
  | bbsImm (a : Reg) (b : BitVec 5) (o : BitVec 27)
  /-- BBC_IMM, R155. Branches when immediate bit n of a is clear. -/
  | bbcImm (a : Reg) (b : BitVec 5) (o : BitVec 27)
  /-- J, R156. Jumps to a word offset. -/
  | j (o : BitVec 35)
  /-- JT, R157. Jumps through a table of n words by sA. -/
  | jt (a : Reg) (n : BitVec 10)
  /-- FLD, R159. Reads a frame data word. -/
  | fld (d : Reg) (a : Reg) (i : BitVec 27)
  /-- FST, R159. Makes a pending write of a frame data word. -/
  | fst (d : Reg) (a : Reg) (i : BitVec 27)
  /-- FLDV, R160. Reads a frame vector word. -/
  | fldv (d : Reg) (a : Reg) (i : BitVec 27)
  /-- FSTV, R160. Makes a pending write of a frame vector word. -/
  | fstv (d : Reg) (a : Reg) (i : BitVec 27)
  /-- FLD_FSW, R161. Reads the frame status word. -/
  | fldFsw (d : Reg)
  /-- SLD, R162. Loads a scalar from scratch. -/
  | sld (d : Reg) (a : Reg) (t : LoadTy) (i : BitVec 27)
  /-- SST, R162. Makes a pending scalar write to scratch. -/
  | sst (d : Reg) (a : Reg) (t : Size) (i : BitVec 27)
  /-- SLDV, R163. Loads consecutive scratch elements into a vector. -/
  | sldv (d : Reg) (a : Reg) (b : Reg) (k : MReg) (t : ElemTy)
  /-- SSTV, R163. Pending write of vector elements to consecutive scratch. -/
  | sstv (d : Reg) (a : Reg) (b : Reg) (k : MReg) (t : ElemTy)
  /-- SLDX, R163. Indexed scratch load into a vector. -/
  | sldx (d : Reg) (a : Reg) (b : Reg) (k : MReg) (t : ElemTy)
  /-- SSTX, R163. Indexed pending scratch store from a vector. -/
  | sstx (d : Reg) (a : Reg) (b : Reg) (k : MReg) (t : ElemTy)
  /-- SAMO_ADD, R164. Scratch atomic add, validated at commit. -/
  | samoAdd (d : Reg) (a : Reg) (b : Reg) (w : Bool)
  /-- SAMO_AND, R164. Scratch atomic AND. -/
  | samoAnd (d : Reg) (a : Reg) (b : Reg) (w : Bool)
  /-- SAMO_OR, R164. Scratch atomic OR. -/
  | samoOr (d : Reg) (a : Reg) (b : Reg) (w : Bool)
  /-- SAMO_XOR, R164. Scratch atomic exclusive OR. -/
  | samoXor (d : Reg) (a : Reg) (b : Reg) (w : Bool)
  /-- SAMO_MIN, R164. Scratch atomic minimum, signed or unsigned. -/
  | samoMin (d : Reg) (a : Reg) (b : Reg) (w : Bool) (u : Bool)
  /-- SAMO_MAX, R164. Scratch atomic maximum, signed or unsigned. -/
  | samoMax (d : Reg) (a : Reg) (b : Reg) (w : Bool) (u : Bool)
  /-- SAMO_SWAP, R164. Scratch atomic swap. -/
  | samoSwap (d : Reg) (a : Reg) (b : Reg) (w : Bool)
  /-- SAMO_CAS, R164. Scratch atomic compare-and-swap. -/
  | samoCas (d : Reg) (a : Reg) (b : Reg) (c : Reg) (w : Bool)
  /-- VADD, R173. Vector integer add. -/
  | vadd (d : Reg) (a : Reg) (b : Reg) (k : MReg) (t : IntTy) (z : Bool)
  /-- VSUB, R173. Vector integer subtract. -/
  | vsub (d : Reg) (a : Reg) (b : Reg) (k : MReg) (t : IntTy) (z : Bool)
  /-- VMUL, R173. Vector integer multiply, low part. -/
  | vmul (d : Reg) (a : Reg) (b : Reg) (k : MReg) (t : IntTy) (z : Bool)
  /-- VMULH, R173. Vector integer multiply, high part. -/
  | vmulh (d : Reg) (a : Reg) (b : Reg) (k : MReg) (t : IntTy) (z : Bool)
  /-- VMIN, R173. Vector integer minimum. -/
  | vmin (d : Reg) (a : Reg) (b : Reg) (k : MReg) (t : IntTy) (z : Bool)
  /-- VMAX, R173. Vector integer maximum. -/
  | vmax (d : Reg) (a : Reg) (b : Reg) (k : MReg) (t : IntTy) (z : Bool)
  /-- VADDS, R173. Vector saturating add. -/
  | vadds (d : Reg) (a : Reg) (b : Reg) (k : MReg) (t : IntTy) (z : Bool)
  /-- VSUBS, R173. Vector saturating subtract. -/
  | vsubs (d : Reg) (a : Reg) (b : Reg) (k : MReg) (t : IntTy) (z : Bool)
  /-- VADD_SCALAR, R173. Vector add with a scalar operand. -/
  | vaddScalar (d : Reg) (a : Reg) (b : Reg) (k : MReg) (t : IntTy) (z : Bool)
  /-- VSUB_SCALAR, R173. Vector subtract of a scalar. -/
  | vsubScalar (d : Reg) (a : Reg) (b : Reg) (k : MReg) (t : IntTy) (z : Bool)
  /-- VMUL_SCALAR, R173. Vector multiply by a scalar. -/
  | vmulScalar (d : Reg) (a : Reg) (b : Reg) (k : MReg) (t : IntTy) (z : Bool)
  /-- VMULH_SCALAR, R173. Vector multiply-high by a scalar. -/
  | vmulhScalar (d : Reg) (a : Reg) (b : Reg) (k : MReg) (t : IntTy) (z : Bool)
  /-- VMIN_SCALAR, R173. Vector minimum with a scalar. -/
  | vminScalar (d : Reg) (a : Reg) (b : Reg) (k : MReg) (t : IntTy) (z : Bool)
  /-- VMAX_SCALAR, R173. Vector maximum with a scalar. -/
  | vmaxScalar (d : Reg) (a : Reg) (b : Reg) (k : MReg) (t : IntTy) (z : Bool)
  /-- VADDS_SCALAR, R173. Vector saturating add of a scalar. -/
  | vaddsScalar (d : Reg) (a : Reg) (b : Reg) (k : MReg) (t : IntTy) (z : Bool)
  /-- VSUBS_SCALAR, R173. Vector saturating subtract of a scalar. -/
  | vsubsScalar (d : Reg) (a : Reg) (b : Reg) (k : MReg) (t : IntTy) (z : Bool)
  /-- VAND, R174. Vector AND. -/
  | vand (d : Reg) (a : Reg) (b : Reg) (k : MReg) (t : IntTy) (z : Bool)
  /-- VOR, R174. Vector OR. -/
  | vor (d : Reg) (a : Reg) (b : Reg) (k : MReg) (t : IntTy) (z : Bool)
  /-- VXOR, R174. Vector exclusive OR. -/
  | vxor (d : Reg) (a : Reg) (b : Reg) (k : MReg) (t : IntTy) (z : Bool)
  /-- VANDN, R174. Vector AND NOT. -/
  | vandn (d : Reg) (a : Reg) (b : Reg) (k : MReg) (t : IntTy) (z : Bool)
  /-- VSHL, R174. Vector shift left. -/
  | vshl (d : Reg) (a : Reg) (b : Reg) (k : MReg) (t : IntTy) (z : Bool)
  /-- VSHR, R174. Vector logical shift right. -/
  | vshr (d : Reg) (a : Reg) (b : Reg) (k : MReg) (t : IntTy) (z : Bool)
  /-- VSRA, R174. Vector arithmetic shift right. -/
  | vsra (d : Reg) (a : Reg) (b : Reg) (k : MReg) (t : IntTy) (z : Bool)
  /-- VROL, R174. Vector rotate left. -/
  | vrol (d : Reg) (a : Reg) (b : Reg) (k : MReg) (t : IntTy) (z : Bool)
  /-- VABS, R175. Vector absolute value. -/
  | vabs (d : Reg) (a : Reg) (k : MReg) (t : IntTy) (z : Bool)
  /-- VNEG, R175. Vector negate. -/
  | vneg (d : Reg) (a : Reg) (k : MReg) (t : IntTy) (z : Bool)
  /-- VCLZ, R175. Vector count leading zeros. -/
  | vclz (d : Reg) (a : Reg) (k : MReg) (t : IntTy) (z : Bool)
  /-- VPOPC, R175. Vector population count. -/
  | vpopc (d : Reg) (a : Reg) (k : MReg) (t : IntTy) (z : Bool)
  /-- VMADD, R175. Vector integer multiply-add with vC. -/
  | vmadd (d : Reg) (a : Reg) (b : Reg) (c : Reg) (k : MReg) (t : IntTy) (z : Bool)
  /-- VSEL, R175. Selects per lane by a mask. -/
  | vsel (d : Reg) (a : Reg) (b : Reg) (k : MReg) (t : IntTy)
  /-- VCLMUL, R175. Vector carry-less product, low part. -/
  | vclmul (d : Reg) (a : Reg) (b : Reg) (t : IntTy) (z : Bool)
  /-- VCLMULH, R175. Vector carry-less product, high part. -/
  | vclmulh (d : Reg) (a : Reg) (b : Reg) (t : IntTy) (z : Bool)
  /-- VFADD, R176. Vector floating add. -/
  | vfadd (d : Reg) (a : Reg) (b : Reg) (k : MReg) (t : FloatTy) (r : Round) (z : Bool)
  /-- VFSUB, R176. Vector floating subtract. -/
  | vfsub (d : Reg) (a : Reg) (b : Reg) (k : MReg) (t : FloatTy) (r : Round) (z : Bool)
  /-- VFMUL, R176. Vector floating multiply. -/
  | vfmul (d : Reg) (a : Reg) (b : Reg) (k : MReg) (t : FloatTy) (r : Round) (z : Bool)
  /-- VFDIV, R176. Vector floating divide. -/
  | vfdiv (d : Reg) (a : Reg) (b : Reg) (k : MReg) (t : FloatTy) (r : Round) (z : Bool)
  /-- VFMA, R176. Vector fused multiply-add. -/
  | vfma (d : Reg) (a : Reg) (b : Reg) (c : Reg) (k : MReg) (t : FloatTy) (r : Round) (z : Bool)
  /-- VFNMA, R176. Vector fused c − a × b. -/
  | vfnma (d : Reg) (a : Reg) (b : Reg) (c : Reg) (k : MReg) (t : FloatTy) (r : Round) (z : Bool)
  /-- VFMIN, R176. Vector floating minimum. -/
  | vfmin (d : Reg) (a : Reg) (b : Reg) (k : MReg) (t : FloatTy) (z : Bool)
  /-- VFMAX, R176. Vector floating maximum. -/
  | vfmax (d : Reg) (a : Reg) (b : Reg) (k : MReg) (t : FloatTy) (z : Bool)
  /-- VFADD_SCALAR, R176. Vector floating add of a scalar. -/
  | vfaddScalar (d : Reg) (a : Reg) (b : Reg) (k : MReg) (t : FloatTy) (r : Round) (z : Bool)
  /-- VFSUB_SCALAR, R176. Vector floating subtract of a scalar. -/
  | vfsubScalar (d : Reg) (a : Reg) (b : Reg) (k : MReg) (t : FloatTy) (r : Round) (z : Bool)
  /-- VFMUL_SCALAR, R176. Vector floating multiply by a scalar. -/
  | vfmulScalar (d : Reg) (a : Reg) (b : Reg) (k : MReg) (t : FloatTy) (r : Round) (z : Bool)
  /-- VFDIV_SCALAR, R176. Vector floating divide by a scalar. -/
  | vfdivScalar (d : Reg) (a : Reg) (b : Reg) (k : MReg) (t : FloatTy) (r : Round) (z : Bool)
  /-- VFMA_SCALAR, R176. Vector fused multiply-add with a scalar factor. -/
  | vfmaScalar (d : Reg) (a : Reg) (b : Reg) (c : Reg) (k : MReg) (t : FloatTy) (r : Round) (z : Bool)
  /-- VFNMA_SCALAR, R176. Vector fused negative multiply-add with a scalar factor. -/
  | vfnmaScalar (d : Reg) (a : Reg) (b : Reg) (c : Reg) (k : MReg) (t : FloatTy) (r : Round) (z : Bool)
  /-- VFMIN_SCALAR, R176. Vector floating minimum with a scalar. -/
  | vfminScalar (d : Reg) (a : Reg) (b : Reg) (k : MReg) (t : FloatTy) (z : Bool)
  /-- VFMAX_SCALAR, R176. Vector floating maximum with a scalar. -/
  | vfmaxScalar (d : Reg) (a : Reg) (b : Reg) (k : MReg) (t : FloatTy) (z : Bool)
  /-- VFSQRT, R177. Vector square root. -/
  | vfsqrt (d : Reg) (a : Reg) (k : MReg) (t : FloatTy) (r : Round) (z : Bool)
  /-- VFABS, R177. Clears sign bits. -/
  | vfabs (d : Reg) (a : Reg) (k : MReg) (t : FloatTy) (z : Bool)
  /-- VFNEG, R177. Inverts sign bits. -/
  | vfneg (d : Reg) (a : Reg) (k : MReg) (t : FloatTy) (z : Bool)
  /-- VFSGN, R177. Copies sign bits from vB. -/
  | vfsgn (d : Reg) (a : Reg) (b : Reg) (k : MReg) (t : FloatTy) (z : Bool)
  /-- VFRND, R177. Rounds to integral values. -/
  | vfrnd (d : Reg) (a : Reg) (k : MReg) (t : FloatTy) (r : Round) (z : Bool)
  /-- VFCLS, R177. Writes one-hot classes. -/
  | vfcls (d : Reg) (a : Reg) (k : MReg) (t : FloatTy) (z : Bool)
  /-- VCVT, R179. Element-wise conversion between types. -/
  | vcvt (d : Reg) (a : Reg) (x : ElemTy) (k : MReg) (t : ElemTy) (r : Round) (sat : Bool) (z : Bool)
  /-- VCVTN, R179. Narrows floats to an 8-bit or smaller format. -/
  | vcvtn (d : Reg) (a : Reg) (x : NarrowFmt) (k : MReg) (t : FloatTy) (r : Round) (sat : Bool) (z : Bool)
  /-- VCVTW, R179. Widens a narrow format to floats. -/
  | vcvtw (d : Reg) (a : Reg) (x : NarrowFmt) (k : MReg) (t : FloatTy) (z : Bool)
  /-- VQMX, R182. Quantises blocks to an MX format. -/
  | vqmx (d : Reg) (a : Reg) (x : NarrowFmt) (t : FloatTy) (r : Round) (sat : Bool)
  /-- VQQ4, R184. Quantises 64 elements to a Q4N block. -/
  | vqq4 (d : Reg) (a : Reg) (c : Reg) (t : FloatTy)
  /-- VDQMX, R183. Decodes MX blocks to floats. -/
  | vdqmx (d : Reg) (a : Reg) (x : NarrowFmt) (t : FloatTy) (r : Round) (sat : Bool)
  /-- VDQQ4, R185. Decodes a Q4N block to floats. -/
  | vdqq4 (d : Reg) (a : Reg) (c : Reg) (t : FloatTy) (r : Round) (sat : Bool)
  /-- VCEQ, R178. Vector equality compare into a mask. -/
  | vceq (d : MReg) (a : Reg) (b : Reg) (k : MReg) (t : ElemTy) (z : Bool)
  /-- VCNE, R178. Vector inequality compare. -/
  | vcne (d : MReg) (a : Reg) (b : Reg) (k : MReg) (t : ElemTy) (z : Bool)
  /-- VCLT, R178. Vector less-than compare. -/
  | vclt (d : MReg) (a : Reg) (b : Reg) (k : MReg) (t : ElemTy) (z : Bool)
  /-- VCLE, R178. Vector less-or-equal compare. -/
  | vcle (d : MReg) (a : Reg) (b : Reg) (k : MReg) (t : ElemTy) (z : Bool)
  /-- VCGT, R178. Vector greater-than compare. -/
  | vcgt (d : MReg) (a : Reg) (b : Reg) (k : MReg) (t : ElemTy) (z : Bool)
  /-- VCGE, R178. Vector greater-or-equal compare. -/
  | vcge (d : MReg) (a : Reg) (b : Reg) (k : MReg) (t : ElemTy) (z : Bool)
  /-- VCEQ_SCALAR, R178. Equality compare against a scalar. -/
  | vceqScalar (d : MReg) (a : Reg) (b : Reg) (k : MReg) (t : ElemTy) (z : Bool)
  /-- VCNE_SCALAR, R178. Inequality compare against a scalar. -/
  | vcneScalar (d : MReg) (a : Reg) (b : Reg) (k : MReg) (t : ElemTy) (z : Bool)
  /-- VCLT_SCALAR, R178. Less-than compare against a scalar. -/
  | vcltScalar (d : MReg) (a : Reg) (b : Reg) (k : MReg) (t : ElemTy) (z : Bool)
  /-- VCLE_SCALAR, R178. Less-or-equal compare against a scalar. -/
  | vcleScalar (d : MReg) (a : Reg) (b : Reg) (k : MReg) (t : ElemTy) (z : Bool)
  /-- VCGT_SCALAR, R178. Greater-than compare against a scalar. -/
  | vcgtScalar (d : MReg) (a : Reg) (b : Reg) (k : MReg) (t : ElemTy) (z : Bool)
  /-- VCGE_SCALAR, R178. Greater-or-equal compare against a scalar. -/
  | vcgeScalar (d : MReg) (a : Reg) (b : Reg) (k : MReg) (t : ElemTy) (z : Bool)
  /-- VPERM, R186. Permutes elements by an index vector. -/
  | vperm (d : Reg) (a : Reg) (b : Reg) (k : MReg) (t : ElemTy) (z : Bool)
  /-- VBCST, R186. Broadcasts a scalar. -/
  | vbcst (d : Reg) (b : Reg) (k : MReg) (t : ElemTy) (z : Bool)
  /-- VSLUP, R186. Slides elements up. -/
  | vslup (d : Reg) (a : Reg) (b : Reg) (k : MReg) (t : ElemTy) (z : Bool)
  /-- VSLDN, R186. Slides elements down. -/
  | vsldn (d : Reg) (a : Reg) (b : Reg) (k : MReg) (t : ElemTy) (z : Bool)
  /-- VCOMPR, R186. Compresses active elements to the bottom. -/
  | vcompr (d : Reg) (a : Reg) (k : MReg) (t : ElemTy)
  /-- VEXPN, R186. Expands elements into active lanes. -/
  | vexpn (d : Reg) (a : Reg) (k : MReg) (t : ElemTy) (z : Bool)
  /-- VZIP, R186. Interleaves two vectors. -/
  | vzip (d : Reg) (a : Reg) (b : Reg) (k : MReg) (t : ElemTy) (z : Bool)
  /-- VUNZIP, R186. Takes even elements of two vectors. -/
  | vunzip (d : Reg) (a : Reg) (b : Reg) (k : MReg) (t : ElemTy) (z : Bool)
  /-- VRED_ADD, R187. Tree sum reduction into a scalar. -/
  | vredAdd (d : Reg) (a : Reg) (k : MReg) (t : ElemTy)
  /-- VRED_MIN, R187. Minimum reduction. -/
  | vredMin (d : Reg) (a : Reg) (k : MReg) (t : ElemTy)
  /-- VRED_MAX, R187. Maximum reduction. -/
  | vredMax (d : Reg) (a : Reg) (k : MReg) (t : ElemTy)
  /-- VRED_AND, R187. AND reduction. -/
  | vredAnd (d : Reg) (a : Reg) (k : MReg) (t : IntTy)
  /-- VRED_OR, R187. OR reduction. -/
  | vredOr (d : Reg) (a : Reg) (k : MReg) (t : IntTy)
  /-- VRED_XOR, R187. Exclusive OR reduction. -/
  | vredXor (d : Reg) (a : Reg) (k : MReg) (t : IntTy)
  /-- VSCAN_ADD, R188. Inclusive sum scan. -/
  | vscanAdd (d : Reg) (a : Reg) (k : MReg) (t : ElemTy) (z : Bool)
  /-- VSCAN_MIN, R188. Inclusive minimum scan. -/
  | vscanMin (d : Reg) (a : Reg) (k : MReg) (t : ElemTy) (z : Bool)
  /-- VSCAN_MAX, R188. Inclusive maximum scan. -/
  | vscanMax (d : Reg) (a : Reg) (k : MReg) (t : ElemTy) (z : Bool)
  /-- VSCAN_XOR, R188. Inclusive exclusive-OR scan. -/
  | vscanXor (d : Reg) (a : Reg) (k : MReg) (t : IntTy) (z : Bool)
  /-- MAND, R189. Mask AND. -/
  | mand (d : MReg) (a : MReg) (b : MReg)
  /-- MOR, R189. Mask OR. -/
  | mor (d : MReg) (a : MReg) (b : MReg)
  /-- MXOR, R189. Mask exclusive OR. -/
  | mxor (d : MReg) (a : MReg) (b : MReg)
  /-- MANDN, R189. Mask AND NOT. -/
  | mandn (d : MReg) (a : MReg) (b : MReg)
  /-- MNOT, R189. Mask complement. -/
  | mnot (d : MReg) (a : MReg)
  /-- MPOPC, R189. Counts mask bits into a scalar. -/
  | mpopc (d : Reg) (a : MReg)
  /-- MGETS, R189. Copies a mask to a scalar. -/
  | mgets (d : Reg) (a : MReg)
  /-- MSETS, R189. Copies a scalar to a mask. -/
  | msets (d : MReg) (a : Reg)
  /-- VMOV, R190. Copies a vector register. -/
  | vmov (d : Reg) (a : Reg) (k : MReg) (t : ElemTy) (z : Bool)
  /-- VINS, R190. Inserts a scalar into one element. -/
  | vins (d : Reg) (a : Reg) (b : Reg) (t : ElemTy)
  /-- VEXT, R190. Extracts one element to a scalar. -/
  | vext (d : Reg) (a : Reg) (b : Reg) (t : ElemTy)
  /-- VMOV_LANE, R190. Writes each lane's own index. -/
  | vmovLane (d : Reg) (k : MReg) (t : IntTy) (z : Bool)
  /-- MZERO, R203. Queues zeroing of an accumulator tile. -/
  | mzero (acc : BitVec 2) (slot : SlotNo)
  /-- MMA, R205. Queues a dense matrix multiply-accumulate. -/
  | mma (acc : BitVec 2) (a : PairNo) (b : PairNo) (slot : SlotNo)
  /-- MMA_SP, R205. Queues a structured-sparse multiply-accumulate. -/
  | mmaSp (acc : BitVec 2) (a : PairNo) (b : PairNo) (slot : SlotNo)
  /-- MLD, R206. Queues a tile load from scratch. -/
  | mld (acc : BitVec 2) (a : PairNo) (slot : SlotNo)
  /-- MST, R206. Queues a tile store to scratch. -/
  | mst (acc : BitVec 2) (a : PairNo) (slot : SlotNo)
  /-- MRD, R207. Queues a converting tile readout. -/
  | mrd (acc : BitVec 2) (a : PairNo) (slot : SlotNo) (r : Round) (sat : Bool)
  /-- MRDX, R208. Queues a readout through a Carousel graph and pins its slot. -/
  | mrdx (acc : BitVec 2) (a : PairNo) (b : PairNo) (slot : SlotNo) (n : BitVec 6) (r : Round) (sat : Bool)
  /-- XOP, R212. Calls a resident Carousel graph on vector registers. -/
  | xop (n : BitVec 6) (d : Reg) (a : Reg) (b : Reg) (c : Reg) (x : Reg) (k : MReg) (z : Bool)
  /-- XLD, R213. Requests loading of a graph onto the cell. -/
  | xld (slot : SlotNo) (a : Reg)
  /-- XUNL, R214. Requests unloading of a graph. -/
  | xunl (slot : SlotNo) (a : Reg)
  /-- XQ, R215. Returns the state of an opcode number. -/
  | xq (d : Reg) (a : Reg)
  /-- SEND, R240. Sends a word token to a frame slot. -/
  | send (a : Reg) (b : Reg) (slot : SlotNo) (idx : BitVec 8) (rels : Option Scope)
  /-- SENDV, R240. Sends a vector token. -/
  | sendv (a : Reg) (b : Reg) (slot : SlotNo) (idx : BitVec 3) (rels : Option Scope)
  /-- SIG, R240. Sends a signal. -/
  | sig (a : Reg) (slot : SlotNo) (rels : Option Scope)
  /-- SW, R242. Steers one signal to one of two frames. -/
  | sw (p : Reg) (a : Reg) (b : Reg) (slot : SlotNo) (rels : Option Scope)
  /-- REARM, R246. Sets a slot's count and reload at commit. -/
  | rearm (slot : SlotNo) (a : Reg) (b : Reg)
  /-- TAGWIN, R248. Sets a codeblock's tag window context-wide. -/
  | tagwin (a : Reg) (b : Reg) (c : Reg)
  /-- MKREF, R249. Forms a CELLV-0 frame reference. -/
  | mkref (d : Reg) (a : Reg) (cb : BitVec 12)
  /-- LD, R252. Split-phase scalar load into a frame word. -/
  | ld (idx : BitVec 8) (a : Reg) (b : Reg) (slot : SlotNo) (t : LoadTy)
  /-- LD_LC, R252. Scalar load through the local cache. -/
  | ldLc (idx : BitVec 8) (a : Reg) (b : Reg) (slot : SlotNo) (t : LoadTy)
  /-- ST, R253. Split-phase scalar store. -/
  | st (d : Reg) (a : Reg) (b : Reg) (slot : SlotNo) (e : Size)
  /-- VLD, R254. Unit-stride vector load into a frame vector word. -/
  | vld (v : BitVec 3) (a : Reg) (b : Reg) (slot : SlotNo) (k : MReg) (e : Size) (z : Bool)
  /-- VLD_STR, R254. Strided vector load. -/
  | vldStr (v : BitVec 3) (a : Reg) (b : Reg) (slot : SlotNo) (k : MReg) (e : Size) (z : Bool)
  /-- VLD_IDX, R254. Indexed vector load. -/
  | vldIdx (v : BitVec 3) (a : Reg) (b : Reg) (slot : SlotNo) (k : MReg) (e : Size) (z : Bool)
  /-- VST, R255. Unit-stride vector store. -/
  | vst (d : Reg) (a : Reg) (b : Reg) (slot : SlotNo) (k : MReg) (e : Size)
  /-- VST_STR, R255. Strided vector store. -/
  | vstStr (d : Reg) (a : Reg) (b : Reg) (slot : SlotNo) (k : MReg) (e : Size)
  /-- PF, R257. Prefetches a line into its home slice. -/
  | pf (a : Reg) (b : Reg)
  /-- PF_LC, R257. Prefetches a line into the local cache too. -/
  | pfLc (a : Reg) (b : Reg)
  /-- GAMO_ADD, R259. Global atomic add at the home slice. -/
  | gamoAdd (idx : BitVec 8) (a : Reg) (b : Reg) (slot : SlotNo) (w : Bool) (ord : Ord) (sc : Scope)
  /-- GAMO_AND, R259. Global atomic AND. -/
  | gamoAnd (idx : BitVec 8) (a : Reg) (b : Reg) (slot : SlotNo) (w : Bool) (ord : Ord) (sc : Scope)
  /-- GAMO_OR, R259. Global atomic OR. -/
  | gamoOr (idx : BitVec 8) (a : Reg) (b : Reg) (slot : SlotNo) (w : Bool) (ord : Ord) (sc : Scope)
  /-- GAMO_XOR, R259. Global atomic exclusive OR. -/
  | gamoXor (idx : BitVec 8) (a : Reg) (b : Reg) (slot : SlotNo) (w : Bool) (ord : Ord) (sc : Scope)
  /-- GAMO_MIN_SIGNED, R259. Global atomic signed minimum. -/
  | gamoMinSigned (idx : BitVec 8) (a : Reg) (b : Reg) (slot : SlotNo) (w : Bool) (ord : Ord) (sc : Scope)
  /-- GAMO_MAX_SIGNED, R259. Global atomic signed maximum. -/
  | gamoMaxSigned (idx : BitVec 8) (a : Reg) (b : Reg) (slot : SlotNo) (w : Bool) (ord : Ord) (sc : Scope)
  /-- GAMO_MIN_UNSIGNED, R259. Global atomic unsigned minimum. -/
  | gamoMinUnsigned (idx : BitVec 8) (a : Reg) (b : Reg) (slot : SlotNo) (w : Bool) (ord : Ord) (sc : Scope)
  /-- GAMO_MAX_UNSIGNED, R259. Global atomic unsigned maximum. -/
  | gamoMaxUnsigned (idx : BitVec 8) (a : Reg) (b : Reg) (slot : SlotNo) (w : Bool) (ord : Ord) (sc : Scope)
  /-- GAMO_SWAP, R259. Global atomic swap. -/
  | gamoSwap (idx : BitVec 8) (a : Reg) (b : Reg) (slot : SlotNo) (w : Bool) (ord : Ord) (sc : Scope)
  /-- GAMO_CAS, R259. Global atomic compare-and-swap. -/
  | gamoCas (idx : BitVec 8) (a : Reg) (b : Reg) (c : Reg) (slot : SlotNo) (w : Bool) (ord : Ord) (sc : Scope)
  /-- GAMO_FADD, R259. Global atomic floating add. -/
  | gamoFadd (idx : BitVec 8) (a : Reg) (b : Reg) (slot : SlotNo) (w : Bool) (ord : Ord) (sc : Scope)
  /-- FENCE, R260. Orders the global accesses of its commit. -/
  | fence (sc : Scope)
  /-- CPY, R266. Issues an affine copy command. -/
  | cpy (a : Reg) (b : Reg) (c : Reg) (slot : SlotNo) (sc : Scope)
  /-- GTH, R267. Issues a gather command. -/
  | gth (a : Reg) (b : Reg) (c : Reg) (slot : SlotNo) (sc : Scope)
  /-- SCT, R267. Issues a scatter command. -/
  | sct (a : Reg) (b : Reg) (c : Reg) (slot : SlotNo) (sc : Scope)
  /-- ISECT, R268. Issues a key-stream intersection command. -/
  | isect (a : Reg) (b : Reg) (c : Reg) (slot : SlotNo) (sc : Scope)
  /-- SMERGE, R269. Issues a sorted merge command. -/
  | smerge (a : Reg) (b : Reg) (c : Reg) (slot : SlotNo) (sc : Scope)
  /-- CMPCT, R270. Issues a compaction command. -/
  | cmpct (a : Reg) (b : Reg) (c : Reg) (slot : SlotNo) (sc : Scope)
  /-- RPLY, R371. Replays the item named by the handler's record. -/
  | rply
  /-- RSUP, R371. Completes the item with a supplied value. -/
  | rsup (a : Reg)
  /-- KILL, R371. Discards the item named by the record. -/
  | kill
  /-- KILL_L, R374. Kills a launch of a context. -/
  | killL (a : Reg)
  /-- FRR, R373. Reads the held data of a handler frame. -/
  | frr (d : Reg)
  /-- TLBI, R377. Invalidates one page's translations package-wide. -/
  | tlbi (slot : SlotNo) (a : Reg) (b : Reg)
  /-- TLBIA, R377. Invalidates all translations of a context. -/
  | tlbia (slot : SlotNo) (a : Reg)
  /-- CTXSV, R376. Saves the context resident on a partition. -/
  | ctxsv (slot : SlotNo) (a : Reg)
  /-- CTXRS, R376. Makes a context resident on a partition. -/
  | ctxrs (slot : SlotNo) (a : Reg) (b : Reg)
  /-- HALT, R375. Discards a user context everywhere. -/
  | halt (slot : SlotNo) (a : Reg)
  /-- RDSR, R369. Reads a system register. -/
  | rdsr (d : Reg) (num : BitVec 12)
  /-- WRSR, R369. Writes a system register at commit. -/
  | wrsr (num : BitVec 12) (d : Reg)
  /-- FIN, R158. Ends the instance's run; its commit follows. -/
  | fin
  /-- FRET, R247. Frees the frame at commit. -/
  | fret
  /-- COMMIT, R41. Once preconditions hold, makes all effects of an instance visible and issues them. -/
  | commit (site : Nat) (runner : Nat)
  /-- TOKEN_RETRY, R41. Sender retries a refused token after 32 clocks. -/
  | tokenRetry (tok : Nat)
  /-- TOKEN_ACCEPT, R26. Receiving cell matches, fills, creates, parks or refuses a token. -/
  | tokenAccept (tok : Nat)
  /-- TOKEN_APPLY, R27. Writes the payload and decrements the slot in one step. -/
  | tokenApply (tok : Nat)
  /-- DESCRIPTOR_LOAD, R302. Loads and checks a codeblock descriptor into the store. -/
  | descriptorLoad (site : Nat) (ctx : Nat) (cb : Nat)
  /-- PARK_REEXAMINE, R37. Re-presents parked tokens once room or window allows. -/
  | parkReexamine (site : Nat) (ctx : Nat) (cb : Nat)
  /-- PARK_OVERFLOW_READBACK, R37. Reads overflowed park entries back in ascending D. -/
  | parkOverflowReadback (site : Nat) (ctx : Nat)
  /-- WAITING_SIGNAL_SERVE, R32. Serves a waiting completion signal or fault token once an entry frees. -/
  | waitingSignalServe (tok : Nat)
  /-- FRAME_FILL, R33. Fills a Spilled frame back into the matching store. -/
  | frameFill (site : Nat) (ctx : Nat) (cb : Nat) (tag : BitVec 32)
  /-- READY_CHOOSE, R45. Chooses a ready entry for a free runner. -/
  | readyChoose (site : Nat) (runner : Nat)
  /-- READY_OVERFLOW_RETURN, R44. Returns an overflowed ready entry to the queue. -/
  | readyOverflowReturn (site : Nat)
  /-- FAULT_TOKEN_DELIVERY, R366. Creates a handler frame from a fault token and queues threadlet 0. -/
  | faultTokenDelivery (tok : Nat)
  /-- FAULT_ACTION_DELIVERY, R372. Applies a handler action to its matching item on a cell. -/
  | faultActionDelivery (act : Nat)
  /-- COMPLETION_SIGNAL, R43. Applies a split-phase completion to its frame slot. -/
  | completionSignal (op : Nat)
  /-- LOAD_PERFORM, R252. Performs a load part at its home slice or window. -/
  | loadPerform (op : Nat) (part : Nat)
  /-- STORE_PERFORM, R253. Performs a store part. -/
  | storePerform (op : Nat) (part : Nat)
  /-- ATOMIC_PERFORM, R100. Checks and performs an atomic at the home slice. -/
  | atomicPerform (op : Nat) (part : Nat)
  /-- PREFETCH_PERFORM, R257. Performs or drops a prefetch. -/
  | prefetchPerform (op : Nat) (part : Nat)
  /-- PAGE_WALK, R382. Walks the page tables for a TLB miss. -/
  | pageWalk (op : Nat) (part : Nat)
  /-- LOCAL_CACHE_FILL, R88. Fills a local cache line from its home slice. -/
  | localCacheFill (op : Nat) (part : Nat)
  /-- ICACHE_FILL, R110. Fills the instruction cache on a miss. -/
  | icacheFill (site : Nat) (runner : Nat)
  /-- MU_PERFORM, R195. MU performs the next instruction in MU order. -/
  | muPerform (site : Nat)
  /-- MU_COMPLETION, R194. MU finishes an instruction and signals its slot. -/
  | muCompletion (site : Nat)
  /-- CAROUSEL_ENTRY, R228. Admits a waiting request into the array. -/
  | carouselEntry (site : Nat)
  /-- CAROUSEL_RESULT, R228. Delivers a graph result at entry plus LAT. -/
  | carouselResult (site : Nat)
  /-- XLD_PROCESS, R213. After commit, reads the entry and starts, joins or defers a load. -/
  | xldProcess (op : Nat)
  /-- XLD_WAIT_RETRY, R213. A waiting xld takes the cases again. -/
  | xldWaitRetry (op : Nat)
  /-- GRAPH_LOAD_COMPLETE, R211. Ends a slot load, signalling its waiting xld instructions. -/
  | graphLoadComplete (site : Nat) (gslot : Nat) (storeError : Bool)
  /-- XUNL_COMPLETE, R214. Empties a slot once unpinned and signals. -/
  | xunlComplete (op : Nat)
  /-- CONFIG_ERROR_RELOAD, R231. Reloads a slot after an uncorrectable configuration error. -/
  | configErrorReload (site : Nat) (gslot : Nat) (again : Bool)
  /-- ENGINE_COMMAND_START, R272. Engine begins a queued command. -/
  | engineCommandStart (op : Nat)
  /-- ENGINE_FAULT_STOP, R271. Stops a command at its faulting element. -/
  | engineFaultStop (op : Nat)
  /-- ENGINE_COMMAND_COMPLETE, R272. Signals the slot once all elements are performed. -/
  | engineCommandComplete (op : Nat)
  /-- TAGWIN_REQUEST, R248. Ringmaster numbers a tagwin request. -/
  | tagwinRequest (site : Nat) (runner : Nat)
  /-- TAGWIN_INSTALL, R248. A cell installs a window request and re-examines parked tokens. -/
  | tagwinInstall (site : Nat) (ctx : Nat)
  /-- LAUNCH_INJECT, R330. Launch unit injects one initial token. -/
  | launchInject (die : Nat) (ctx : Nat) (lid : Nat)
  /-- LAUNCH_WAVE, R351. Sums the launch counters of all dies. -/
  | launchWave (ctx : Nat) (lid : Nat)
  /-- LAUNCH_WATCHDOG, R351. Raises class 3 when TS is unchanged for WDOG. -/
  | launchWatchdog (ctx : Nat) (lid : Nat)
  /-- LAUNCH_KILL_MARK, R374. A cell applies a launch kill mark. -/
  | launchKillMark (site : Nat) (ctx : Nat) (lid : Nat)
  /-- TIMER_EXPIRY, R349. Sends a timer's word token when RTIME reaches TDL. -/
  | timerExpiry (timer : Nat)
  /-- TIME_WORD_STORE, R350. Stores RTIME to the time word every 1,024 ns. -/
  | timeWordStore
  /-- REGISTER_WRITE, R318. Writes a BAR0 register without behaviour of its own. -/
  | registerWrite (bar : Nat) (fn : Nat) (off : Nat) (wide : Bool) (value : BitVec 64)
  /-- QUEUE_ENABLE, R321. Checks and enables a queue. -/
  | queueEnable (fn : Nat) (q : Nat) (value : BitVec 64)
  /-- QUEUE_DISABLE, R321. Stops fetching from a queue. -/
  | queueDisable (fn : Nat) (q : Nat) (value : BitVec 64)
  /-- QUEUE_KICK, R324. Moves a queue's fetch limit or restarts it. -/
  | queueKick (fn : Nat) (q : Nat) (pidx : BitVec 32)
  /-- F1BIND_WRITE, R320. Binds an F1 queue to a context. -/
  | f1bindWrite (q : Nat) (value : BitVec 64)
  /-- APERTURE_READ, R317. Host read through BAR2. -/
  | apertureRead (fn : Nat) (off : Nat) (len : Nat)
  /-- APERTURE_WRITE, R317. Host write through BAR2. -/
  | apertureWrite (fn : Nat) (off : Nat) (len : Nat) (data : BitVec 64) (poison : Bool)
  /-- PACKET_FETCH, R336. All launch units read a packet and compare copies. -/
  | packetFetch (fn : Nat) (q : Nat) (agree : Bool) (readError : Bool)
  /-- PACKET_REREAD, R336. Re-reads a mismatched packet after at least 1 µs. -/
  | packetReread (fn : Nat) (q : Nat) (agree : Bool) (readError : Bool)
  /-- PACKET_START, R325. Starts an accepted packet once its conditions hold. -/
  | packetStart (fn : Nat) (q : Nat)
  /-- LAUNCH_PACKET, R329. Checks a launch and lets the units inject. -/
  | launchPacket (fn : Nat) (q : Nat) (i : Nat)
  /-- LOAD_GRAPH_PACKET, R334. Installs codeblock and Carousel table records. -/
  | loadGraphPacket (fn : Nat) (q : Nat) (i : Nat)
  /-- MEMORY_COPY, R332. Copy-engine copy between virtual ranges. -/
  | memoryCopy (fn : Nat) (q : Nat) (i : Nat)
  /-- MEMORY_FILL, R332. Copy-engine pattern fill. -/
  | memoryFill (fn : Nat) (q : Nat) (i : Nat)
  /-- FENCE_PACKET, R333. Waits for earlier packets, then waits and signals. -/
  | fencePacket (fn : Nat) (q : Nat) (i : Nat)
  /-- FENCE_POLL, R333. Re-reads the waited word at intervals. -/
  | fencePoll (fn : Nat) (q : Nat) (i : Nat)
  /-- FREEZE_PACKET, R402. Freezes contexts to a host buffer. -/
  | freezePacket (fn : Nat) (q : Nat) (i : Nat)
  /-- RESUME_PACKET, R406. Checks a manifest and writes regions back. -/
  | resumePacket (fn : Nat) (q : Nat) (i : Nat)
  /-- COMPLETION_RECORD, R339. Writes a packet's completion record. -/
  | completionRecord (fn : Nat) (q : Nat) (i : Nat)
  /-- QUANTUM_EXPIRY, R401. Switches an equal-priority context after its quantum. -/
  | quantumExpiry (part : Nat)
  /-- DOORBELL, R355. Accepts a mailbox request and raises class 7. -/
  | doorbell (value : BitVec 32)
  /-- POOLS, R357. Mailbox operation returning POOLS. -/
  | pools
  /-- SET_PRIORITY, R357. Sets a context's priority. -/
  | setPriority
  /-- SET_QUANTUM, R357. Sets the time-slice quantum. -/
  | setQuantum
  /-- SET_WATERMARK, R357. Sets the eviction watermark. -/
  | setWatermark
  /-- ATTEST, R418. Returns a signed attestation report. -/
  | attest
  /-- FLASH_WRITE, R357. Writes data into the boot flash image area. -/
  | flashWrite
  /-- ORPHANS, R357. Returns and removes unreported completion records. -/
  | orphans
  /-- PLIM_WRITE, R416. Sets the module power limit. -/
  | plimWrite (value : BitVec 64)
  /-- DRAIN_MARKER, R389. Routers pass drain markers once no token is ahead. -/
  | drainMarker (ctx : Nat)
  /-- CONTEXT_IMAGE_SAVE, R389. Writes cell images and the header, then signals. -/
  | contextImageSave (ctx : Nat)
  /-- CONTEXT_RESTORE, R391. Checks the header and restores cell images and slots. -/
  | contextRestore (ctx : Nat)
  /-- RESTORE_RESUME, R391. Accepts direct tokens and resumes firing. -/
  | restoreResume (ctx : Nat)
  /-- HALT_COMPLETE, R375. Signals once every cell has discarded the context. -/
  | haltComplete (op : Nat)
  /-- TLB_INVALIDATE_COMPLETE, R377. Signals once no covered translation remains in use. -/
  | tlbInvalidateComplete (op : Nat)
  /-- PAGE_EVICTION, R409. Evicts a page below the watermark. -/
  | pageEviction (ctx : Nat) (host : Nat)
  /-- HARDWARE_ERROR, R411. Handles a detected storage or link error. -/
  | hardwareError (e : HwError)
  /-- DROOP_DETECT, R415. Doubles a die's clock period on droop. -/
  | droopDetect (die : Nat)
  /-- DROOP_RECOVERY, R415. Restores the clock 1,024 clocks after recovery. -/
  | droopRecovery (die : Nat)
  /-- POWER_LIMIT_STEP, R416. Adjusts die clocks to hold average power within PLIM. -/
  | powerLimitStep (die : Nat) (up : Bool)
  /-- DEGRADED_EXIT, R414. Leaves Degraded after an hour below the thresholds. -/
  | degradedExit
  /-- PACKAGE_RESET, R354. Verifies and starts the firmware image. -/
  | packageReset
  /-- VLP_TOKEN_RECEIVE, R244. Accepts a token from another package. -/
  | vlpTokenReceive (port : Nat) (ctx : Nat) (cb : Nat) (tag : BitVec 32) (epoch : Bool) (slot : BitVec 4) (kind : Nat) (idx : BitVec 8) (rels : Option Scope) (psn : Bool) (payload : BitVec 2048)
  /-- VLP_ACKNOWLEDGE, R244. A returning VLP acknowledgement counts the token in TR. -/
  | vlpAcknowledge (tok : Nat)
  /-- TORUS_PROTOCOL_ERROR, R238. Discards a token of unassigned kind and reports it. -/
  | torusProtocolError (site : Nat) (kind : Nat)
  /-- ILLEGAL_INSTRUCTION, R128. A runner issues a word whose major is reserved-trapping, whose fields hold unassigned values, or a prefix combination that R112 forbids, and the instance faults synchronously. -/
  | illegalInstruction (w0 : Word) (w1 : Option Word)
  /-- ENGINE_ELEMENT, R271. The stream engine performs one element access of a running command, advancing its cursor, making its write visible and updating its published low-water address. -/
  | engineElement (op : Nat) (act : EngineAct)
  /-- PCIE_COMPLETION_TIMEOUT, R387. A device read to a host window receives no completion within the PCIe completion timeout, and its part completes as poisoned. -/
  | pcieCompletionTimeout (op : Nat) (part : Nat)
  deriving DecidableEq, Repr, Inhabited

end Sys2Proof
end

