-- ==== Sys2Proof/WellFormed.lean ====
section
/-! DEFINITION. The limits on field values that the instructions' entries give beyond the widths of the fields; a
word that breaks one raises ILLEGAL_INSTRUCTION (R114, R128). -/

namespace Sys2Proof

/-- A float-to-float conversion is narrowing when some finite value of the source is no finite value of the
destination (R65, from the formats of R51). -/
def FloatTy.narrows (src dst : FloatTy) : Bool :=
  match src, dst with
  | .f64, .f64 => false
  | .f64, _ => true
  | .f32, .f64 => false
  | .f32, .f32 => false
  | .f32, _ => true
  | .bf16, .f16 => true
  | .bf16, _ => false
  | .f16, .bf16 => true
  | .f16, _ => false

/-- A direction that every rounding instruction admits (R62). -/
def Round.ieee (r : Round) : Bool := r != .rod

/-- The field limits of each instruction (R116, R146, R147, R151, R152, R176 to R181, R240). -/
def Instr.wf (i : Instr) : Bool :=
  match i with
  | .shlImm _ _ i | .shrImm _ _ i | .sraImm _ _ i | .rorImm _ _ i => i.toNat ≤ 63
  | .movh _ i => decide (-(2 ^ 28 : Int) ≤ i.toInt) && decide (i.toInt < 2 ^ 28)
  | .fadd _ _ _ r _ | .fsub _ _ _ r _ | .fmul _ _ _ r _ | .fdiv _ _ _ r _ | .fsqrt _ _ r _
  | .fma _ _ _ r _ | .fnma _ _ _ r _ | .fcvti _ _ _ r _ _ | .icvtf _ _ _ r _ _ => r.ieee
  | .fcvt _ _ src r dst _ => r.ieee || src.narrows dst
  | .vfadd _ _ _ _ _ r _ | .vfsub _ _ _ _ _ r _ | .vfmul _ _ _ _ _ r _ | .vfdiv _ _ _ _ _ r _
  | .vfma _ _ _ _ _ _ r _ | .vfnma _ _ _ _ _ _ r _
  | .vfaddScalar _ _ _ _ _ r _ | .vfsubScalar _ _ _ _ _ r _ | .vfmulScalar _ _ _ _ _ r _
  | .vfdivScalar _ _ _ _ _ r _ | .vfmaScalar _ _ _ _ _ _ r _ | .vfnmaScalar _ _ _ _ _ _ r _
  | .vfsqrt _ _ _ _ r _ | .vfrnd _ _ _ _ r _ => r.ieee
  | .vcvt _ _ src _ dst r _ _ =>
    match src, dst with
    | .int _, .int _ => r == .rne
    | .flt s, .flt d => r.ieee || s.narrows d
    | _, _ => r.ieee
  | .vqmx _ _ _ _ r _ | .vdqmx _ _ _ _ r _ => r.ieee
  | .vqq4 _ _ _ t => t != .f64
  | .vdqq4 _ _ _ t r _ => t != .f64 && r.ieee
  | .sendv _ _ _ idx _ => idx.toNat ≤ 5
  | .vld v _ _ _ _ _ _ | .vldStr v _ _ _ _ _ _ | .vldIdx v _ _ _ _ _ _ => v.toNat ≤ 5
  | _ => true

end Sys2Proof
end

