-- ==== Sys2Proof/Decode.lean ====
section
/-! DEFINITION. The decoder of instruction words (R110 to R128), total on any bytes, and an encoder written from the
same tables. -/

namespace Sys2Proof

/-! An instruction has more constructors with arguments than Lean's compiler can tag, so no code is generated for the
definitions that build one; the kernel evaluates them. -/


/-! ### Field codes -/

/-- Rounding codes (R62). Log 21 (DEDUCED). -/
def Round.ofCode (c : BitVec 3) : Option Round :=
  match c.toNat with
  | 0 => some .rne | 1 => some .rtz | 2 => some .rdn | 3 => some .rup | 4 => some .rod | _ => none

/-- Rounding codes (R62). -/
def Round.code : Round → BitVec 3
  | .rne => 0 | .rtz => 1 | .rdn => 2 | .rup => 3 | .rod => 4

/-- Integer type codes 0 to 7 (R120). -/
def IntTy.ofCode (c : BitVec 3) : IntTy :=
  match c.toNat with
  | 0 => .i8 | 1 => .i16 | 2 => .i32 | 3 => .i64 | 4 => .n8 | 5 => .n16 | 6 => .n32 | _ => .n64

/-- Integer type codes 0 to 7 (R120). -/
def IntTy.code : IntTy → BitVec 3
  | .i8 => 0 | .i16 => 1 | .i32 => 2 | .i64 => 3 | .n8 => 4 | .n16 => 5 | .n32 => 6 | .n64 => 7

/-- The 2-bit FT field (R120). -/
def FloatTy.ofCode (c : BitVec 2) : FloatTy :=
  match c.toNat with
  | 0 => .f64 | 1 => .f32 | 2 => .bf16 | _ => .f16

/-- The 2-bit FT field (R120). -/
def FloatTy.code : FloatTy → BitVec 2
  | .f64 => 0 | .f32 => 1 | .bf16 => 2 | .f16 => 3

/-- The 4-bit T field; codes 12 to 15 are unassigned (R120). -/
def ElemTy.ofCode (c : BitVec 4) : Option ElemTy :=
  if c.toNat < 8 then some (.int (IntTy.ofCode (c.setWidth 3)))
  else if c.toNat < 12 then some (.flt (FloatTy.ofCode (c.setWidth 2)))
  else none

/-- The 4-bit T field (R120). -/
def ElemTy.code : ElemTy → BitVec 4
  | .int t => 0#1 ++ t.code
  | .flt t => 2#2 ++ t.code

/-- A T field where only integer types are admitted (R173). -/
def ElemTy.intOf (c : BitVec 4) : Option IntTy :=
  if c.toNat < 8 then some (IntTy.ofCode (c.setWidth 3)) else none

/-- A T field where only floating types are admitted (R176). -/
def ElemTy.fltOf (c : BitVec 4) : Option FloatTy :=
  if 8 ≤ c.toNat ∧ c.toNat < 12 then some (FloatTy.ofCode (c.setWidth 2)) else none

/-- The narrow element formats in the order of codes 0x04 to 0x08 and 0x09 to 0x0D, counted from `base` (R50). -/
def NarrowFmt.ofCode (base : Nat) (c : BitVec 5) : Option NarrowFmt :=
  if base ≤ c.toNat then
    match c.toNat - base with
    | 0 => some .e4m3 | 1 => some .e5m2 | 2 => some .e2m3 | 3 => some .e3m2 | 4 => some .e2m1 | _ => none
  else none

/-- The format code counted from `base` (R50). -/
def NarrowFmt.code (base : Nat) : NarrowFmt → BitVec 5
  | .e4m3 => BitVec.ofNat 5 base | .e5m2 => BitVec.ofNat 5 (base + 1) | .e2m3 => BitVec.ofNat 5 (base + 2)
  | .e3m2 => BitVec.ofNat 5 (base + 3) | .e2m1 => BitVec.ofNat 5 (base + 4)

/-- Scope codes (R121). -/
def Scope.ofCode (c : BitVec 3) : Option Scope :=
  match c.toNat with
  | 0 => some .cell | 1 => some .die | 2 => some .pkg | 3 => some .sys | _ => none

/-- Scope codes (R121). -/
def Scope.code : Scope → BitVec 3
  | .cell => 0 | .die => 1 | .pkg => 2 | .sys => 3

/-- Release codes: none for no `.rel`, and otherwise the scope (R121). -/
def relsOfCode (c : BitVec 3) : Option (Option Scope) :=
  match c.toNat with
  | 0 => some none | 1 => some (some .cell) | 2 => some (some .die) | 3 => some (some .pkg) | 4 => some (some .sys)
  | _ => none

/-- Release codes (R121). -/
def relsCode : Option Scope → BitVec 3
  | none => 0 | some .cell => 1 | some .die => 2 | some .pkg => 3 | some .sys => 4

/-- Ordering codes (R121). -/
def Ord.ofCode (c : BitVec 3) : Option Ord :=
  match c.toNat with
  | 0 => some .rlx | 1 => some .acq | 2 => some .rel | 3 => some .ar | 4 => some .sc | _ => none

/-- Ordering codes (R121). -/
def Ord.code : Ord → BitVec 3
  | .rlx => 0 | .acq => 1 | .rel => 2 | .ar => 3 | .sc => 4

/-- Load types; code 7 is unassigned (R127). -/
def LoadTy.ofCode (c : BitVec 3) : Option LoadTy :=
  match c.toNat with
  | 0 => some .n8 | 1 => some .n16 | 2 => some .n32 | 3 => some .n64 | 4 => some .i8 | 5 => some .i16 | 6 => some .i32
  | _ => none

/-- Load types (R127). -/
def LoadTy.code : LoadTy → BitVec 3
  | .n8 => 0 | .n16 => 1 | .n32 => 2 | .n64 => 3 | .i8 => 4 | .i16 => 5 | .i32 => 6

/-- Access sizes (R121). -/
def Size.ofCode (c : BitVec 2) : Size :=
  match c.toNat with
  | 0 => .b1 | 1 => .b2 | 2 => .b4 | _ => .b8

/-- Access sizes (R121). -/
def Size.code : Size → BitVec 2
  | .b1 => 0 | .b2 => 1 | .b4 => 2 | .b8 => 3

/-- Special register numbers (R118). -/
def Special.ofCode (c : BitVec 5) : Option Special :=
  match c.toNat with
  | 0 => some .tag | 1 => some .ctx | 2 => some .cb | 3 => some .cell | 4 => some .frame | 5 => some .cyc | _ => none

/-- Special register numbers (R118). -/
def Special.code : Special → BitVec 5
  | .tag => 0 | .ctx => 1 | .cb => 2 | .cell => 3 | .frame => 4 | .cyc => 5

/-! ### Fields of a word (R110, R115) -/

/-- The n bits of a word from bit `lo` upward. -/
def bits (w : Word) (lo n : Nat) : BitVec n := w.extractLsb' lo n

/-- The major opcode, bits [31:25] (R110). -/
def majorOf (w : Word) : Nat := (bits w 25 7).toNat

/-- The prefix fields of R113. -/
structure Pfx where
  x3 : BitVec 3
  sat : Bool
  zro : Bool
  c : BitVec 5
  ximm : BitVec 15
  deriving DecidableEq, Repr, Inhabited

/-- A prefix with every field zero, as which a short form behaves (R111). -/
def Pfx.zero : Pfx := ⟨0, false, false, 0, 0⟩

/-- The fields of a prefix word (R113). -/
def Pfx.ofWord (w : Word) : Pfx :=
  ⟨bits w 22 3, bits w 21 1 == 1#1, bits w 20 1 == 1#1, bits w 15 5, bits w 0 15⟩

/-- Every prefix field but those marked true must be zero (R112). -/
def Pfx.only (p : Pfx) (x3 sat zro c ximm : Bool) : Bool :=
  (x3 || p.x3 == 0) && (sat || !p.sat) && (zro || !p.zro) && (c || p.c == 0) && (ximm || p.ximm == 0)

/-- A bit of a word as a Bool. -/
def bitOf (w : Word) (lo : Nat) : Bool := bits w lo 1 == 1#1

/-- The 27-bit immediate or offset of formats IM and BR: sign-extended from bit 11 in the short form, XIMM above the
field in the long form (R114, R116). -/
def imm27 (long : Bool) (p : Pfx) (w : Word) : BitVec 27 :=
  if long then p.ximm ++ bits w 0 12 else (bits w 0 12).signExtend 27

/-- The 35-bit immediate or offset of formats WI and JP (R114, R116). -/
def imm35 (long : Bool) (p : Pfx) (w : Word) : BitVec 35 :=
  if long then p.ximm ++ bits w 0 20 else (bits w 0 20).signExtend 35

/-- `some x` when every listed condition holds (R128). -/
def guarded {α : Type} (ok : Bool) (x : Option α) : Option α := if ok then x else none

/-! ### The majors -/

/-- Major 0x01 (R142 to R144). -/
def dec01 (w : Word) : Option Instr :=
  match (bits w 0 5).toNat with
  | 0 => guarded (bits w 5 5 == 0) (some (.add (bits w 20 5) (bits w 15 5) (bits w 10 5)))
  | 1 => guarded (bits w 5 5 == 0) (some (.sub (bits w 20 5) (bits w 15 5) (bits w 10 5)))
  | 2 => guarded (bits w 5 5 == 0) (some (.mul (bits w 20 5) (bits w 15 5) (bits w 10 5)))
  | 3 => guarded (bits w 5 5 == 0) (some (.mulhI64 (bits w 20 5) (bits w 15 5) (bits w 10 5)))
  | 4 => guarded (bits w 5 5 == 0) (some (.mulhN64 (bits w 20 5) (bits w 15 5) (bits w 10 5)))
  | 5 => guarded (bits w 5 5 == 0) (some (.divI64 (bits w 20 5) (bits w 15 5) (bits w 10 5)))
  | 6 => guarded (bits w 5 5 == 0) (some (.divN64 (bits w 20 5) (bits w 15 5) (bits w 10 5)))
  | 7 => guarded (bits w 5 5 == 0) (some (.remI64 (bits w 20 5) (bits w 15 5) (bits w 10 5)))
  | 8 => guarded (bits w 5 5 == 0) (some (.remN64 (bits w 20 5) (bits w 15 5) (bits w 10 5)))
  | 9 => guarded (bits w 5 5 == 0) (some (.and (bits w 20 5) (bits w 15 5) (bits w 10 5)))
  | 10 => guarded (bits w 5 5 == 0) (some (.or (bits w 20 5) (bits w 15 5) (bits w 10 5)))
  | 11 => guarded (bits w 5 5 == 0) (some (.xor (bits w 20 5) (bits w 15 5) (bits w 10 5)))
  | 12 => guarded (bits w 5 5 == 0) (some (.andn (bits w 20 5) (bits w 15 5) (bits w 10 5)))
  | 13 => guarded (bits w 5 5 == 0) (some (.shl (bits w 20 5) (bits w 15 5) (bits w 10 5)))
  | 14 => guarded (bits w 5 5 == 0) (some (.shr (bits w 20 5) (bits w 15 5) (bits w 10 5)))
  | 15 => guarded (bits w 5 5 == 0) (some (.sra (bits w 20 5) (bits w 15 5) (bits w 10 5)))
  | 16 => guarded (bits w 5 5 == 0) (some (.rol (bits w 20 5) (bits w 15 5) (bits w 10 5)))
  | 17 => guarded (bits w 5 5 == 0) (some (.ror (bits w 20 5) (bits w 15 5) (bits w 10 5)))
  | 18 => guarded (bits w 10 5 == 0 && bits w 5 5 == 0) (some (.clz (bits w 20 5) (bits w 15 5)))
  | 19 => guarded (bits w 10 5 == 0 && bits w 5 5 == 0) (some (.ctz (bits w 20 5) (bits w 15 5)))
  | 20 => guarded (bits w 10 5 == 0 && bits w 5 5 == 0) (some (.popc (bits w 20 5) (bits w 15 5)))
  | 21 => guarded (bits w 5 5 == 0) (some (.minI64 (bits w 20 5) (bits w 15 5) (bits w 10 5)))
  | 22 => guarded (bits w 5 5 == 0) (some (.maxI64 (bits w 20 5) (bits w 15 5) (bits w 10 5)))
  | 23 => guarded (bits w 5 5 == 0) (some (.minN64 (bits w 20 5) (bits w 15 5) (bits w 10 5)))
  | 24 => guarded (bits w 5 5 == 0) (some (.maxN64 (bits w 20 5) (bits w 15 5) (bits w 10 5)))
  | 25 => guarded (true) (some (.sel (bits w 20 5) (bits w 15 5) (bits w 10 5) (bits w 5 5)))
  | 26 => guarded (bits w 5 5 == 0) (some (.clmul (bits w 20 5) (bits w 15 5) (bits w 10 5)))
  | 27 => guarded (bits w 5 5 == 0) (some (.clmulh (bits w 20 5) (bits w 15 5) (bits w 10 5)))
  | 28 => guarded (bits w 5 5 == 0) (some (.bgat (bits w 20 5) (bits w 15 5) (bits w 10 5)))
  | 29 => guarded (bits w 5 5 == 0) (some (.bsct (bits w 20 5) (bits w 15 5) (bits w 10 5)))
  | 30 => guarded (true) (some (.madd (bits w 20 5) (bits w 15 5) (bits w 10 5) (bits w 5 5)))
  | 31 => guarded (true) (some (.msub (bits w 20 5) (bits w 15 5) (bits w 10 5) (bits w 5 5)))
  | _ => none

/-- Major 0x02 (R145). -/
def dec02 (w : Word) : Option Instr :=
  match (bits w 0 5).toNat with
  | 0 => guarded (bits w 5 5 == 0) (some (.sltI64 (bits w 20 5) (bits w 15 5) (bits w 10 5)))
  | 1 => guarded (bits w 5 5 == 0) (some (.sltN64 (bits w 20 5) (bits w 15 5) (bits w 10 5)))
  | 2 => guarded (bits w 5 5 == 0) (some (.seq (bits w 20 5) (bits w 15 5) (bits w 10 5)))
  | 3 => guarded (bits w 5 5 == 0) (some (.sne (bits w 20 5) (bits w 15 5) (bits w 10 5)))
  | 4 => guarded (bits w 10 5 == 0 && bits w 5 5 == 0) (some (.extdI8 (bits w 20 5) (bits w 15 5)))
  | 5 => guarded (bits w 10 5 == 0 && bits w 5 5 == 0) (some (.extdI16 (bits w 20 5) (bits w 15 5)))
  | 6 => guarded (bits w 10 5 == 0 && bits w 5 5 == 0) (some (.extdI32 (bits w 20 5) (bits w 15 5)))
  | 7 => guarded (bits w 10 5 == 0 && bits w 5 5 == 0) (some (.extdN8 (bits w 20 5) (bits w 15 5)))
  | 8 => guarded (bits w 10 5 == 0 && bits w 5 5 == 0) (some (.extdN16 (bits w 20 5) (bits w 15 5)))
  | 9 => guarded (bits w 10 5 == 0 && bits w 5 5 == 0) (some (.extdN32 (bits w 20 5) (bits w 15 5)))
  | 10 => guarded (bits w 10 5 == 0 && bits w 5 5 == 0) (some (.bswap (bits w 20 5) (bits w 15 5)))
  | _ => none

/-- Major 0x03 (R146). -/
def dec03 (long : Bool) (p : Pfx) (w : Word) : Option Instr :=
  match (bits w 12 3).toNat with
  | 0 => some (.addImm (bits w 20 5) (bits w 15 5) (imm27 long p w))
  | 1 => some (.andImm (bits w 20 5) (bits w 15 5) (imm27 long p w))
  | 2 => some (.orImm (bits w 20 5) (bits w 15 5) (imm27 long p w))
  | 3 => some (.xorImm (bits w 20 5) (bits w 15 5) (imm27 long p w))
  | 4 => some (.shlImm (bits w 20 5) (bits w 15 5) (imm27 long p w))
  | 5 => some (.shrImm (bits w 20 5) (bits w 15 5) (imm27 long p w))
  | 6 => some (.sraImm (bits w 20 5) (bits w 15 5) (imm27 long p w))
  | 7 => some (.rorImm (bits w 20 5) (bits w 15 5) (imm27 long p w))
  | _ => none

/-- Major 0x04 (R146). -/
def dec04 (long : Bool) (p : Pfx) (w : Word) : Option Instr :=
  match (bits w 12 3).toNat with
  | 0 => some (.sltI64Imm (bits w 20 5) (bits w 15 5) (imm27 long p w))
  | 1 => some (.sltN64Imm (bits w 20 5) (bits w 15 5) (imm27 long p w))
  | 2 => some (.seqImm (bits w 20 5) (bits w 15 5) (imm27 long p w))
  | 3 => some (.sneImm (bits w 20 5) (bits w 15 5) (imm27 long p w))
  | 4 => some (.mulImm (bits w 20 5) (bits w 15 5) (imm27 long p w))
  | 5 => some (.minI64Imm (bits w 20 5) (bits w 15 5) (imm27 long p w))
  | 6 => some (.maxI64Imm (bits w 20 5) (bits w 15 5) (imm27 long p w))
  | _ => none

/-- Major 0x05 (R147). -/
def dec05 (long : Bool) (p : Pfx) (w : Word) : Option Instr :=
  some (.movi (bits w 20 5) (imm35 long p w))

/-- Major 0x06 (R147). -/
def dec06 (long : Bool) (p : Pfx) (w : Word) : Option Instr :=
  some (.movh (bits w 20 5) (imm35 long p w))

/-- Major 0x07 (R148). -/
def dec07 (w : Word) : Option Instr :=
  match (bits w 0 5).toNat with
  | 0 => guarded (bits w 10 5 == 0 && bits w 5 5 == 0) ((Special.ofCode (bits w 15 5)).map (.rds (bits w 20 5)))
  | _ => none

/-- Major 0x08 (R150 to R152). -/
def dec08 (long : Bool) (p : Pfx) (w : Word) : Option Instr :=
  match (bits w 0 5).toNat with
  | 0 => guarded (!long) ((Round.ofCode (bits w 7 3)).map fun r => .fadd (bits w 20 5) (bits w 15 5) (bits w 10 5) r (FloatTy.ofCode (bits w 5 2)))
  | 1 => guarded (!long) ((Round.ofCode (bits w 7 3)).map fun r => .fsub (bits w 20 5) (bits w 15 5) (bits w 10 5) r (FloatTy.ofCode (bits w 5 2)))
  | 2 => guarded (!long) ((Round.ofCode (bits w 7 3)).map fun r => .fmul (bits w 20 5) (bits w 15 5) (bits w 10 5) r (FloatTy.ofCode (bits w 5 2)))
  | 3 => guarded (!long) ((Round.ofCode (bits w 7 3)).map fun r => .fdiv (bits w 20 5) (bits w 15 5) (bits w 10 5) r (FloatTy.ofCode (bits w 5 2)))
  | 4 => guarded (!long && bits w 10 5 == 0) ((Round.ofCode (bits w 7 3)).map fun r => .fsqrt (bits w 20 5) (bits w 15 5) r (FloatTy.ofCode (bits w 5 2)))
  | 5 => guarded (!long) ((Round.ofCode (bits w 7 3)).map fun r => .fma (bits w 20 5) (bits w 15 5) (bits w 10 5) r (FloatTy.ofCode (bits w 5 2)))
  | 6 => guarded (!long) ((Round.ofCode (bits w 7 3)).map fun r => .fnma (bits w 20 5) (bits w 15 5) (bits w 10 5) r (FloatTy.ofCode (bits w 5 2)))
  | 7 => guarded (!long && bits w 7 3 == 0) (some (.fmin (bits w 20 5) (bits w 15 5) (bits w 10 5) (FloatTy.ofCode (bits w 5 2))))
  | 8 => guarded (!long && bits w 7 3 == 0) (some (.fmax (bits w 20 5) (bits w 15 5) (bits w 10 5) (FloatTy.ofCode (bits w 5 2))))
  | 9 => guarded (!long && bits w 7 3 == 0) (some (.fceq (bits w 20 5) (bits w 15 5) (bits w 10 5) (FloatTy.ofCode (bits w 5 2))))
  | 10 => guarded (!long && bits w 7 3 == 0) (some (.fclt (bits w 20 5) (bits w 15 5) (bits w 10 5) (FloatTy.ofCode (bits w 5 2))))
  | 11 => guarded (!long && bits w 7 3 == 0) (some (.fcle (bits w 20 5) (bits w 15 5) (bits w 10 5) (FloatTy.ofCode (bits w 5 2))))
  | 12 => guarded (p.only false true false false false && bits w 12 3 == 0) ((Round.ofCode (bits w 7 3)).map fun r => .fcvt (bits w 20 5) (bits w 15 5) (FloatTy.ofCode (bits w 10 2)) r (FloatTy.ofCode (bits w 5 2)) p.sat)
  | 13 => guarded (p.only false true false false false && bits w 13 2 == 0) ((Round.ofCode (bits w 7 3)).map fun r => .fcvti (bits w 20 5) (bits w 15 5) (IntTy.ofCode (bits w 10 3)) r (FloatTy.ofCode (bits w 5 2)) p.sat)
  | 14 => guarded (p.only false true false false false && bits w 13 2 == 0) ((Round.ofCode (bits w 7 3)).map fun r => .icvtf (bits w 20 5) (bits w 15 5) (IntTy.ofCode (bits w 10 3)) r (FloatTy.ofCode (bits w 5 2)) p.sat)
  | 15 => guarded (!long && bits w 10 5 == 0 && bits w 7 3 == 0) (some (.fneg (bits w 20 5) (bits w 15 5) (FloatTy.ofCode (bits w 5 2))))
  | 16 => guarded (!long && bits w 10 5 == 0 && bits w 7 3 == 0) (some (.fabs (bits w 20 5) (bits w 15 5) (FloatTy.ofCode (bits w 5 2))))
  | 17 => guarded (!long && bits w 7 3 == 0) (some (.fsgn (bits w 20 5) (bits w 15 5) (bits w 10 5) (FloatTy.ofCode (bits w 5 2))))
  | 18 => guarded (!long && bits w 10 5 == 0 && bits w 7 3 == 0) (some (.fcls (bits w 20 5) (bits w 15 5) (FloatTy.ofCode (bits w 5 2))))
  | _ => none

/-- Major 0x09 (R155). -/
def dec09 (long : Bool) (p : Pfx) (w : Word) : Option Instr :=
  match (bits w 12 3).toNat with
  | 0 => some (.beq (bits w 20 5) (bits w 15 5) (imm27 long p w))
  | 1 => some (.bne (bits w 20 5) (bits w 15 5) (imm27 long p w))
  | 2 => some (.bltI64 (bits w 20 5) (bits w 15 5) (imm27 long p w))
  | 3 => some (.bgeI64 (bits w 20 5) (bits w 15 5) (imm27 long p w))
  | 4 => some (.bltN64 (bits w 20 5) (bits w 15 5) (imm27 long p w))
  | 5 => some (.bgeN64 (bits w 20 5) (bits w 15 5) (imm27 long p w))
  | 6 => some (.bbs (bits w 20 5) (bits w 15 5) (imm27 long p w))
  | 7 => some (.bbc (bits w 20 5) (bits w 15 5) (imm27 long p w))
  | _ => none

/-- Major 0x0A (R155). -/
def dec0A (long : Bool) (p : Pfx) (w : Word) : Option Instr :=
  match (bits w 12 3).toNat with
  | 0 => some (.beqImm (bits w 20 5) (bits w 15 5) (imm27 long p w))
  | 1 => some (.bneImm (bits w 20 5) (bits w 15 5) (imm27 long p w))
  | 2 => some (.bltI64Imm (bits w 20 5) (bits w 15 5) (imm27 long p w))
  | 3 => some (.bgeI64Imm (bits w 20 5) (bits w 15 5) (imm27 long p w))
  | 4 => some (.bltN64Imm (bits w 20 5) (bits w 15 5) (imm27 long p w))
  | 5 => some (.bgeN64Imm (bits w 20 5) (bits w 15 5) (imm27 long p w))
  | 6 => some (.bbsImm (bits w 20 5) (bits w 15 5) (imm27 long p w))
  | 7 => some (.bbcImm (bits w 20 5) (bits w 15 5) (imm27 long p w))
  | _ => none

/-- Major 0x0B (R156). -/
def dec0B (long : Bool) (p : Pfx) (w : Word) : Option Instr :=
  guarded (bits w 20 5 == 0) (some (.j (imm35 long p w)))

/-- Major 0x0C (R157). -/
def dec0C (w : Word) : Option Instr :=
  guarded (bits w 10 10 == 0) (some (.jt (bits w 20 5) (bits w 0 10)))

/-- Major 0x0D (R158). -/
def dec0D (w : Word) : Option Instr :=
  guarded (bits w 0 25 == 0) (some .fin)

/-- Major 0x10 (R159 to R161). -/
def dec10 (long : Bool) (p : Pfx) (w : Word) : Option Instr :=
  match (bits w 12 3).toNat with
  | 0 => some (.fld (bits w 20 5) (bits w 15 5) (imm27 long p w))
  | 1 => some (.fst (bits w 20 5) (bits w 15 5) (imm27 long p w))
  | 2 => some (.fldv (bits w 20 5) (bits w 15 5) (imm27 long p w))
  | 3 => some (.fstv (bits w 20 5) (bits w 15 5) (imm27 long p w))
  | 4 => guarded (p.only false false false false false && bits w 15 5 == 0 && bits w 0 12 == 0) (some (.fldFsw (bits w 20 5)))
  | _ => none

/-- Major 0x11 (R162). -/
def dec11 (long : Bool) (p : Pfx) (w : Word) : Option Instr :=
  (LoadTy.ofCode (bits w 12 3)).map fun t => .sld (bits w 20 5) (bits w 15 5) t (imm27 long p w)

/-- Major 0x12 (R162). -/
def dec12 (long : Bool) (p : Pfx) (w : Word) : Option Instr :=
  guarded (bits w 14 1 == 0) (some (.sst (bits w 20 5) (bits w 15 5) (Size.ofCode (bits w 12 2)) (imm27 long p w)))

/-- Major 0x13 (R163). -/
def dec13 (w : Word) : Option Instr :=
  match (bits w 0 3).toNat with
  | 0 => guarded (true) ((ElemTy.ofCode (bits w 3 4)).map fun t => .sldv (bits w 20 5) (bits w 15 5) (bits w 10 5) (bits w 7 3) t)
  | 1 => guarded (true) ((ElemTy.ofCode (bits w 3 4)).map fun t => .sstv (bits w 20 5) (bits w 15 5) (bits w 10 5) (bits w 7 3) t)
  | 2 => guarded (true) ((ElemTy.ofCode (bits w 3 4)).map fun t => .sldx (bits w 20 5) (bits w 15 5) (bits w 10 5) (bits w 7 3) t)
  | 3 => guarded (true) ((ElemTy.ofCode (bits w 3 4)).map fun t => .sstx (bits w 20 5) (bits w 15 5) (bits w 10 5) (bits w 7 3) t)
  | _ => none

/-- Major 0x14 (R164). -/
def dec14 (w : Word) : Option Instr :=
  match (bits w 0 3).toNat with
  | 0 => guarded (bits w 5 5 == 0 && bits w 3 1 == 0) (some (.samoAdd (bits w 20 5) (bits w 15 5) (bits w 10 5) (bitOf w 4)))
  | 1 => guarded (bits w 5 5 == 0 && bits w 3 1 == 0) (some (.samoAnd (bits w 20 5) (bits w 15 5) (bits w 10 5) (bitOf w 4)))
  | 2 => guarded (bits w 5 5 == 0 && bits w 3 1 == 0) (some (.samoOr (bits w 20 5) (bits w 15 5) (bits w 10 5) (bitOf w 4)))
  | 3 => guarded (bits w 5 5 == 0 && bits w 3 1 == 0) (some (.samoXor (bits w 20 5) (bits w 15 5) (bits w 10 5) (bitOf w 4)))
  | 4 => guarded (bits w 5 5 == 0) (some (.samoMin (bits w 20 5) (bits w 15 5) (bits w 10 5) (bitOf w 4) (bitOf w 3)))
  | 5 => guarded (bits w 5 5 == 0) (some (.samoMax (bits w 20 5) (bits w 15 5) (bits w 10 5) (bitOf w 4) (bitOf w 3)))
  | 6 => guarded (bits w 5 5 == 0 && bits w 3 1 == 0) (some (.samoSwap (bits w 20 5) (bits w 15 5) (bits w 10 5) (bitOf w 4)))
  | 7 => guarded (bits w 3 1 == 0) (some (.samoCas (bits w 20 5) (bits w 15 5) (bits w 10 5) (bits w 5 5) (bitOf w 4)))
  | _ => none

/-- Major 0x18 (R173). -/
def dec18 (p : Pfx) (w : Word) : Option Instr :=
  match (bits w 0 3).toNat with
  | 0 => guarded (p.only false false true false false) ((ElemTy.intOf (bits w 3 4)).map fun t => .vadd (bits w 20 5) (bits w 15 5) (bits w 10 5) (bits w 7 3) t p.zro)
  | 1 => guarded (p.only false false true false false) ((ElemTy.intOf (bits w 3 4)).map fun t => .vsub (bits w 20 5) (bits w 15 5) (bits w 10 5) (bits w 7 3) t p.zro)
  | 2 => guarded (p.only false false true false false) ((ElemTy.intOf (bits w 3 4)).map fun t => .vmul (bits w 20 5) (bits w 15 5) (bits w 10 5) (bits w 7 3) t p.zro)
  | 3 => guarded (p.only false false true false false) ((ElemTy.intOf (bits w 3 4)).map fun t => .vmulh (bits w 20 5) (bits w 15 5) (bits w 10 5) (bits w 7 3) t p.zro)
  | 4 => guarded (p.only false false true false false) ((ElemTy.intOf (bits w 3 4)).map fun t => .vmin (bits w 20 5) (bits w 15 5) (bits w 10 5) (bits w 7 3) t p.zro)
  | 5 => guarded (p.only false false true false false) ((ElemTy.intOf (bits w 3 4)).map fun t => .vmax (bits w 20 5) (bits w 15 5) (bits w 10 5) (bits w 7 3) t p.zro)
  | 6 => guarded (p.only false false true false false) ((ElemTy.intOf (bits w 3 4)).map fun t => .vadds (bits w 20 5) (bits w 15 5) (bits w 10 5) (bits w 7 3) t p.zro)
  | 7 => guarded (p.only false false true false false) ((ElemTy.intOf (bits w 3 4)).map fun t => .vsubs (bits w 20 5) (bits w 15 5) (bits w 10 5) (bits w 7 3) t p.zro)
  | _ => none

/-- Major 0x19 (R174). -/
def dec19 (p : Pfx) (w : Word) : Option Instr :=
  match (bits w 0 3).toNat with
  | 0 => guarded (p.only false false true false false) ((ElemTy.intOf (bits w 3 4)).map fun t => .vand (bits w 20 5) (bits w 15 5) (bits w 10 5) (bits w 7 3) t p.zro)
  | 1 => guarded (p.only false false true false false) ((ElemTy.intOf (bits w 3 4)).map fun t => .vor (bits w 20 5) (bits w 15 5) (bits w 10 5) (bits w 7 3) t p.zro)
  | 2 => guarded (p.only false false true false false) ((ElemTy.intOf (bits w 3 4)).map fun t => .vxor (bits w 20 5) (bits w 15 5) (bits w 10 5) (bits w 7 3) t p.zro)
  | 3 => guarded (p.only false false true false false) ((ElemTy.intOf (bits w 3 4)).map fun t => .vandn (bits w 20 5) (bits w 15 5) (bits w 10 5) (bits w 7 3) t p.zro)
  | 4 => guarded (p.only false false true false false) ((ElemTy.intOf (bits w 3 4)).map fun t => .vshl (bits w 20 5) (bits w 15 5) (bits w 10 5) (bits w 7 3) t p.zro)
  | 5 => guarded (p.only false false true false false) ((ElemTy.intOf (bits w 3 4)).map fun t => .vshr (bits w 20 5) (bits w 15 5) (bits w 10 5) (bits w 7 3) t p.zro)
  | 6 => guarded (p.only false false true false false) ((ElemTy.intOf (bits w 3 4)).map fun t => .vsra (bits w 20 5) (bits w 15 5) (bits w 10 5) (bits w 7 3) t p.zro)
  | 7 => guarded (p.only false false true false false) ((ElemTy.intOf (bits w 3 4)).map fun t => .vrol (bits w 20 5) (bits w 15 5) (bits w 10 5) (bits w 7 3) t p.zro)
  | _ => none

/-- Major 0x1A (R175). -/
def dec1A (p : Pfx) (w : Word) : Option Instr :=
  match (bits w 0 3).toNat with
  | 0 => guarded (p.only false false true false false && bits w 10 5 == 0) ((ElemTy.intOf (bits w 3 4)).map fun t => .vabs (bits w 20 5) (bits w 15 5) (bits w 7 3) t p.zro)
  | 1 => guarded (p.only false false true false false && bits w 10 5 == 0) ((ElemTy.intOf (bits w 3 4)).map fun t => .vneg (bits w 20 5) (bits w 15 5) (bits w 7 3) t p.zro)
  | 2 => guarded (p.only false false true false false && bits w 10 5 == 0) ((ElemTy.intOf (bits w 3 4)).map fun t => .vclz (bits w 20 5) (bits w 15 5) (bits w 7 3) t p.zro)
  | 3 => guarded (p.only false false true false false && bits w 10 5 == 0) ((ElemTy.intOf (bits w 3 4)).map fun t => .vpopc (bits w 20 5) (bits w 15 5) (bits w 7 3) t p.zro)
  | 4 => guarded (p.only false false true true false) ((ElemTy.intOf (bits w 3 4)).map fun t => .vmadd (bits w 20 5) (bits w 15 5) (bits w 10 5) p.c (bits w 7 3) t p.zro)
  | 5 => guarded (p.only false false false false false) ((ElemTy.intOf (bits w 3 4)).map fun t => .vsel (bits w 20 5) (bits w 15 5) (bits w 10 5) (bits w 7 3) t)
  | 6 => guarded (p.only false false true false false && bits w 7 3 == 0) ((ElemTy.intOf (bits w 3 4)).map fun t => .vclmul (bits w 20 5) (bits w 15 5) (bits w 10 5) t p.zro)
  | 7 => guarded (p.only false false true false false && bits w 7 3 == 0) ((ElemTy.intOf (bits w 3 4)).map fun t => .vclmulh (bits w 20 5) (bits w 15 5) (bits w 10 5) t p.zro)
  | _ => none

/-- Major 0x1B (R173). -/
def dec1B (p : Pfx) (w : Word) : Option Instr :=
  match (bits w 0 3).toNat with
  | 0 => guarded (p.only false false true false false) ((ElemTy.intOf (bits w 3 4)).map fun t => .vaddScalar (bits w 20 5) (bits w 15 5) (bits w 10 5) (bits w 7 3) t p.zro)
  | 1 => guarded (p.only false false true false false) ((ElemTy.intOf (bits w 3 4)).map fun t => .vsubScalar (bits w 20 5) (bits w 15 5) (bits w 10 5) (bits w 7 3) t p.zro)
  | 2 => guarded (p.only false false true false false) ((ElemTy.intOf (bits w 3 4)).map fun t => .vmulScalar (bits w 20 5) (bits w 15 5) (bits w 10 5) (bits w 7 3) t p.zro)
  | 3 => guarded (p.only false false true false false) ((ElemTy.intOf (bits w 3 4)).map fun t => .vmulhScalar (bits w 20 5) (bits w 15 5) (bits w 10 5) (bits w 7 3) t p.zro)
  | 4 => guarded (p.only false false true false false) ((ElemTy.intOf (bits w 3 4)).map fun t => .vminScalar (bits w 20 5) (bits w 15 5) (bits w 10 5) (bits w 7 3) t p.zro)
  | 5 => guarded (p.only false false true false false) ((ElemTy.intOf (bits w 3 4)).map fun t => .vmaxScalar (bits w 20 5) (bits w 15 5) (bits w 10 5) (bits w 7 3) t p.zro)
  | 6 => guarded (p.only false false true false false) ((ElemTy.intOf (bits w 3 4)).map fun t => .vaddsScalar (bits w 20 5) (bits w 15 5) (bits w 10 5) (bits w 7 3) t p.zro)
  | 7 => guarded (p.only false false true false false) ((ElemTy.intOf (bits w 3 4)).map fun t => .vsubsScalar (bits w 20 5) (bits w 15 5) (bits w 10 5) (bits w 7 3) t p.zro)
  | _ => none

/-- Major 0x1C (R176). -/
def dec1C (p : Pfx) (w : Word) : Option Instr :=
  match (bits w 0 3).toNat with
  | 0 => guarded (p.only true false true false false) ((Round.ofCode p.x3).bind fun r => (ElemTy.fltOf (bits w 3 4)).map fun t => .vfadd (bits w 20 5) (bits w 15 5) (bits w 10 5) (bits w 7 3) t r p.zro)
  | 1 => guarded (p.only true false true false false) ((Round.ofCode p.x3).bind fun r => (ElemTy.fltOf (bits w 3 4)).map fun t => .vfsub (bits w 20 5) (bits w 15 5) (bits w 10 5) (bits w 7 3) t r p.zro)
  | 2 => guarded (p.only true false true false false) ((Round.ofCode p.x3).bind fun r => (ElemTy.fltOf (bits w 3 4)).map fun t => .vfmul (bits w 20 5) (bits w 15 5) (bits w 10 5) (bits w 7 3) t r p.zro)
  | 3 => guarded (p.only true false true false false) ((Round.ofCode p.x3).bind fun r => (ElemTy.fltOf (bits w 3 4)).map fun t => .vfdiv (bits w 20 5) (bits w 15 5) (bits w 10 5) (bits w 7 3) t r p.zro)
  | 4 => guarded (p.only true false true true false) ((Round.ofCode p.x3).bind fun r => (ElemTy.fltOf (bits w 3 4)).map fun t => .vfma (bits w 20 5) (bits w 15 5) (bits w 10 5) p.c (bits w 7 3) t r p.zro)
  | 5 => guarded (p.only true false true true false) ((Round.ofCode p.x3).bind fun r => (ElemTy.fltOf (bits w 3 4)).map fun t => .vfnma (bits w 20 5) (bits w 15 5) (bits w 10 5) p.c (bits w 7 3) t r p.zro)
  | 6 => guarded (p.only false false true false false) ((ElemTy.fltOf (bits w 3 4)).map fun t => .vfmin (bits w 20 5) (bits w 15 5) (bits w 10 5) (bits w 7 3) t p.zro)
  | 7 => guarded (p.only false false true false false) ((ElemTy.fltOf (bits w 3 4)).map fun t => .vfmax (bits w 20 5) (bits w 15 5) (bits w 10 5) (bits w 7 3) t p.zro)
  | _ => none

/-- Major 0x1D (R176). -/
def dec1D (p : Pfx) (w : Word) : Option Instr :=
  match (bits w 0 3).toNat with
  | 0 => guarded (p.only true false true false false) ((Round.ofCode p.x3).bind fun r => (ElemTy.fltOf (bits w 3 4)).map fun t => .vfaddScalar (bits w 20 5) (bits w 15 5) (bits w 10 5) (bits w 7 3) t r p.zro)
  | 1 => guarded (p.only true false true false false) ((Round.ofCode p.x3).bind fun r => (ElemTy.fltOf (bits w 3 4)).map fun t => .vfsubScalar (bits w 20 5) (bits w 15 5) (bits w 10 5) (bits w 7 3) t r p.zro)
  | 2 => guarded (p.only true false true false false) ((Round.ofCode p.x3).bind fun r => (ElemTy.fltOf (bits w 3 4)).map fun t => .vfmulScalar (bits w 20 5) (bits w 15 5) (bits w 10 5) (bits w 7 3) t r p.zro)
  | 3 => guarded (p.only true false true false false) ((Round.ofCode p.x3).bind fun r => (ElemTy.fltOf (bits w 3 4)).map fun t => .vfdivScalar (bits w 20 5) (bits w 15 5) (bits w 10 5) (bits w 7 3) t r p.zro)
  | 4 => guarded (p.only true false true true false) ((Round.ofCode p.x3).bind fun r => (ElemTy.fltOf (bits w 3 4)).map fun t => .vfmaScalar (bits w 20 5) (bits w 15 5) (bits w 10 5) p.c (bits w 7 3) t r p.zro)
  | 5 => guarded (p.only true false true true false) ((Round.ofCode p.x3).bind fun r => (ElemTy.fltOf (bits w 3 4)).map fun t => .vfnmaScalar (bits w 20 5) (bits w 15 5) (bits w 10 5) p.c (bits w 7 3) t r p.zro)
  | 6 => guarded (p.only false false true false false) ((ElemTy.fltOf (bits w 3 4)).map fun t => .vfminScalar (bits w 20 5) (bits w 15 5) (bits w 10 5) (bits w 7 3) t p.zro)
  | 7 => guarded (p.only false false true false false) ((ElemTy.fltOf (bits w 3 4)).map fun t => .vfmaxScalar (bits w 20 5) (bits w 15 5) (bits w 10 5) (bits w 7 3) t p.zro)
  | _ => none

/-- Major 0x1E (R177). -/
def dec1E (p : Pfx) (w : Word) : Option Instr :=
  match (bits w 0 3).toNat with
  | 0 => guarded (p.only true false true false false && bits w 10 5 == 0) ((Round.ofCode p.x3).bind fun r => (ElemTy.fltOf (bits w 3 4)).map fun t => .vfsqrt (bits w 20 5) (bits w 15 5) (bits w 7 3) t r p.zro)
  | 1 => guarded (p.only false false true false false && bits w 10 5 == 0) ((ElemTy.fltOf (bits w 3 4)).map fun t => .vfabs (bits w 20 5) (bits w 15 5) (bits w 7 3) t p.zro)
  | 2 => guarded (p.only false false true false false && bits w 10 5 == 0) ((ElemTy.fltOf (bits w 3 4)).map fun t => .vfneg (bits w 20 5) (bits w 15 5) (bits w 7 3) t p.zro)
  | 3 => guarded (p.only false false true false false) ((ElemTy.fltOf (bits w 3 4)).map fun t => .vfsgn (bits w 20 5) (bits w 15 5) (bits w 10 5) (bits w 7 3) t p.zro)
  | 4 => guarded (p.only true false true false false && bits w 10 5 == 0) ((Round.ofCode p.x3).bind fun r => (ElemTy.fltOf (bits w 3 4)).map fun t => .vfrnd (bits w 20 5) (bits w 15 5) (bits w 7 3) t r p.zro)
  | 5 => guarded (p.only false false true false false && bits w 10 5 == 0) ((ElemTy.fltOf (bits w 3 4)).map fun t => .vfcls (bits w 20 5) (bits w 15 5) (bits w 7 3) t p.zro)
  | _ => none

/-- Major 0x1F (R179, R181). -/
def dec1F (p : Pfx) (w : Word) : Option Instr :=
  match (bits w 0 3).toNat with
  | 0 => guarded (p.only true true true false false && bits w 14 1 == 0) ((Round.ofCode p.x3).bind fun r => (ElemTy.ofCode (bits w 10 4)).bind fun x => (ElemTy.ofCode (bits w 3 4)).map fun t => .vcvt (bits w 20 5) (bits w 15 5) x (bits w 7 3) t r p.sat p.zro)
  | 1 => guarded (p.only true true true false false) ((Round.ofCode p.x3).bind fun r => (NarrowFmt.ofCode 4 (bits w 10 5)).bind fun x => (ElemTy.fltOf (bits w 3 4)).map fun t => .vcvtn (bits w 20 5) (bits w 15 5) x (bits w 7 3) t r p.sat p.zro)
  | 2 => guarded (p.only false false true false false) ((NarrowFmt.ofCode 4 (bits w 10 5)).bind fun x => (ElemTy.fltOf (bits w 3 4)).map fun t => .vcvtw (bits w 20 5) (bits w 15 5) x (bits w 7 3) t p.zro)
  | 3 => guarded (p.only true true false false false && bits w 7 3 == 0) ((Round.ofCode p.x3).bind fun r => (NarrowFmt.ofCode 9 (bits w 10 5)).bind fun x => (ElemTy.fltOf (bits w 3 4)).map fun t => .vqmx (bits w 20 5) (bits w 15 5) x t r p.sat)
  | 4 => guarded (p.only false false false true false && bits w 7 3 == 0 && bits w 10 5 == 0x10) ((ElemTy.fltOf (bits w 3 4)).map fun t => .vqq4 (bits w 20 5) (bits w 15 5) p.c t)
  | 5 => guarded (p.only true true false false false && bits w 7 3 == 0) ((Round.ofCode p.x3).bind fun r => (NarrowFmt.ofCode 9 (bits w 10 5)).bind fun x => (ElemTy.fltOf (bits w 3 4)).map fun t => .vdqmx (bits w 20 5) (bits w 15 5) x t r p.sat)
  | 6 => guarded (p.only true true false true false && bits w 7 3 == 0 && bits w 10 5 == 0x10) ((Round.ofCode p.x3).bind fun r => (ElemTy.fltOf (bits w 3 4)).map fun t => .vdqq4 (bits w 20 5) (bits w 15 5) p.c t r p.sat)
  | _ => none

/-- Major 0x20 (R178). -/
def dec20 (p : Pfx) (w : Word) : Option Instr :=
  match (bits w 0 3).toNat with
  | 0 => guarded (p.only false false true false false && bits w 23 2 == 0) ((ElemTy.ofCode (bits w 3 4)).map fun t => .vceq (bits w 20 3) (bits w 15 5) (bits w 10 5) (bits w 7 3) t p.zro)
  | 1 => guarded (p.only false false true false false && bits w 23 2 == 0) ((ElemTy.ofCode (bits w 3 4)).map fun t => .vcne (bits w 20 3) (bits w 15 5) (bits w 10 5) (bits w 7 3) t p.zro)
  | 2 => guarded (p.only false false true false false && bits w 23 2 == 0) ((ElemTy.ofCode (bits w 3 4)).map fun t => .vclt (bits w 20 3) (bits w 15 5) (bits w 10 5) (bits w 7 3) t p.zro)
  | 3 => guarded (p.only false false true false false && bits w 23 2 == 0) ((ElemTy.ofCode (bits w 3 4)).map fun t => .vcle (bits w 20 3) (bits w 15 5) (bits w 10 5) (bits w 7 3) t p.zro)
  | 4 => guarded (p.only false false true false false && bits w 23 2 == 0) ((ElemTy.ofCode (bits w 3 4)).map fun t => .vcgt (bits w 20 3) (bits w 15 5) (bits w 10 5) (bits w 7 3) t p.zro)
  | 5 => guarded (p.only false false true false false && bits w 23 2 == 0) ((ElemTy.ofCode (bits w 3 4)).map fun t => .vcge (bits w 20 3) (bits w 15 5) (bits w 10 5) (bits w 7 3) t p.zro)
  | _ => none

/-- Major 0x21 (R178). -/
def dec21 (p : Pfx) (w : Word) : Option Instr :=
  match (bits w 0 3).toNat with
  | 0 => guarded (p.only false false true false false && bits w 23 2 == 0) ((ElemTy.ofCode (bits w 3 4)).map fun t => .vceqScalar (bits w 20 3) (bits w 15 5) (bits w 10 5) (bits w 7 3) t p.zro)
  | 1 => guarded (p.only false false true false false && bits w 23 2 == 0) ((ElemTy.ofCode (bits w 3 4)).map fun t => .vcneScalar (bits w 20 3) (bits w 15 5) (bits w 10 5) (bits w 7 3) t p.zro)
  | 2 => guarded (p.only false false true false false && bits w 23 2 == 0) ((ElemTy.ofCode (bits w 3 4)).map fun t => .vcltScalar (bits w 20 3) (bits w 15 5) (bits w 10 5) (bits w 7 3) t p.zro)
  | 3 => guarded (p.only false false true false false && bits w 23 2 == 0) ((ElemTy.ofCode (bits w 3 4)).map fun t => .vcleScalar (bits w 20 3) (bits w 15 5) (bits w 10 5) (bits w 7 3) t p.zro)
  | 4 => guarded (p.only false false true false false && bits w 23 2 == 0) ((ElemTy.ofCode (bits w 3 4)).map fun t => .vcgtScalar (bits w 20 3) (bits w 15 5) (bits w 10 5) (bits w 7 3) t p.zro)
  | 5 => guarded (p.only false false true false false && bits w 23 2 == 0) ((ElemTy.ofCode (bits w 3 4)).map fun t => .vcgeScalar (bits w 20 3) (bits w 15 5) (bits w 10 5) (bits w 7 3) t p.zro)
  | _ => none

/-- Major 0x22 (R186). -/
def dec22 (p : Pfx) (w : Word) : Option Instr :=
  match (bits w 0 3).toNat with
  | 0 => guarded (p.only false false true false false) ((ElemTy.ofCode (bits w 3 4)).map fun t => .vperm (bits w 20 5) (bits w 15 5) (bits w 10 5) (bits w 7 3) t p.zro)
  | 1 => guarded (p.only false false true false false && bits w 15 5 == 0) ((ElemTy.ofCode (bits w 3 4)).map fun t => .vbcst (bits w 20 5) (bits w 10 5) (bits w 7 3) t p.zro)
  | 2 => guarded (p.only false false true false false) ((ElemTy.ofCode (bits w 3 4)).map fun t => .vslup (bits w 20 5) (bits w 15 5) (bits w 10 5) (bits w 7 3) t p.zro)
  | 3 => guarded (p.only false false true false false) ((ElemTy.ofCode (bits w 3 4)).map fun t => .vsldn (bits w 20 5) (bits w 15 5) (bits w 10 5) (bits w 7 3) t p.zro)
  | 4 => guarded (p.only false false false false false && bits w 10 5 == 0) ((ElemTy.ofCode (bits w 3 4)).map fun t => .vcompr (bits w 20 5) (bits w 15 5) (bits w 7 3) t)
  | 5 => guarded (p.only false false true false false && bits w 10 5 == 0) ((ElemTy.ofCode (bits w 3 4)).map fun t => .vexpn (bits w 20 5) (bits w 15 5) (bits w 7 3) t p.zro)
  | 6 => guarded (p.only false false true false false) ((ElemTy.ofCode (bits w 3 4)).map fun t => .vzip (bits w 20 5) (bits w 15 5) (bits w 10 5) (bits w 7 3) t p.zro)
  | 7 => guarded (p.only false false true false false) ((ElemTy.ofCode (bits w 3 4)).map fun t => .vunzip (bits w 20 5) (bits w 15 5) (bits w 10 5) (bits w 7 3) t p.zro)
  | _ => none

/-- Major 0x23 (R187). -/
def dec23 (w : Word) : Option Instr :=
  match (bits w 0 3).toNat with
  | 0 => guarded (bits w 10 5 == 0) ((ElemTy.ofCode (bits w 3 4)).map fun t => .vredAdd (bits w 20 5) (bits w 15 5) (bits w 7 3) t)
  | 1 => guarded (bits w 10 5 == 0) ((ElemTy.ofCode (bits w 3 4)).map fun t => .vredMin (bits w 20 5) (bits w 15 5) (bits w 7 3) t)
  | 2 => guarded (bits w 10 5 == 0) ((ElemTy.ofCode (bits w 3 4)).map fun t => .vredMax (bits w 20 5) (bits w 15 5) (bits w 7 3) t)
  | 3 => guarded (bits w 10 5 == 0) ((ElemTy.intOf (bits w 3 4)).map fun t => .vredAnd (bits w 20 5) (bits w 15 5) (bits w 7 3) t)
  | 4 => guarded (bits w 10 5 == 0) ((ElemTy.intOf (bits w 3 4)).map fun t => .vredOr (bits w 20 5) (bits w 15 5) (bits w 7 3) t)
  | 5 => guarded (bits w 10 5 == 0) ((ElemTy.intOf (bits w 3 4)).map fun t => .vredXor (bits w 20 5) (bits w 15 5) (bits w 7 3) t)
  | _ => none

/-- Major 0x24 (R188). -/
def dec24 (p : Pfx) (w : Word) : Option Instr :=
  match (bits w 0 3).toNat with
  | 0 => guarded (p.only false false true false false && bits w 10 5 == 0) ((ElemTy.ofCode (bits w 3 4)).map fun t => .vscanAdd (bits w 20 5) (bits w 15 5) (bits w 7 3) t p.zro)
  | 1 => guarded (p.only false false true false false && bits w 10 5 == 0) ((ElemTy.ofCode (bits w 3 4)).map fun t => .vscanMin (bits w 20 5) (bits w 15 5) (bits w 7 3) t p.zro)
  | 2 => guarded (p.only false false true false false && bits w 10 5 == 0) ((ElemTy.ofCode (bits w 3 4)).map fun t => .vscanMax (bits w 20 5) (bits w 15 5) (bits w 7 3) t p.zro)
  | 3 => guarded (p.only false false true false false && bits w 10 5 == 0) ((ElemTy.intOf (bits w 3 4)).map fun t => .vscanXor (bits w 20 5) (bits w 15 5) (bits w 7 3) t p.zro)
  | _ => none

/-- Major 0x25 (R189). -/
def dec25 (w : Word) : Option Instr :=
  match (bits w 0 3).toNat with
  | 0 => guarded (bits w 7 3 == 0 && bits w 3 4 == 0 && bits w 23 2 == 0 && bits w 18 2 == 0 && bits w 13 2 == 0) (some (.mand (bits w 20 3) (bits w 15 3) (bits w 10 3)))
  | 1 => guarded (bits w 7 3 == 0 && bits w 3 4 == 0 && bits w 23 2 == 0 && bits w 18 2 == 0 && bits w 13 2 == 0) (some (.mor (bits w 20 3) (bits w 15 3) (bits w 10 3)))
  | 2 => guarded (bits w 7 3 == 0 && bits w 3 4 == 0 && bits w 23 2 == 0 && bits w 18 2 == 0 && bits w 13 2 == 0) (some (.mxor (bits w 20 3) (bits w 15 3) (bits w 10 3)))
  | 3 => guarded (bits w 7 3 == 0 && bits w 3 4 == 0 && bits w 23 2 == 0 && bits w 18 2 == 0 && bits w 13 2 == 0) (some (.mandn (bits w 20 3) (bits w 15 3) (bits w 10 3)))
  | 4 => guarded (bits w 7 3 == 0 && bits w 3 4 == 0 && bits w 23 2 == 0 && bits w 18 2 == 0 && bits w 10 5 == 0) (some (.mnot (bits w 20 3) (bits w 15 3)))
  | 5 => guarded (bits w 7 3 == 0 && bits w 3 4 == 0 && bits w 18 2 == 0 && bits w 10 5 == 0) (some (.mpopc (bits w 20 5) (bits w 15 3)))
  | 6 => guarded (bits w 7 3 == 0 && bits w 3 4 == 0 && bits w 18 2 == 0 && bits w 10 5 == 0) (some (.mgets (bits w 20 5) (bits w 15 3)))
  | 7 => guarded (bits w 7 3 == 0 && bits w 3 4 == 0 && bits w 23 2 == 0 && bits w 10 5 == 0) (some (.msets (bits w 20 3) (bits w 15 5)))
  | _ => none

/-- Major 0x26 (R190). -/
def dec26 (p : Pfx) (w : Word) : Option Instr :=
  match (bits w 0 3).toNat with
  | 0 => guarded (p.only false false true false false && bits w 10 5 == 0) ((ElemTy.ofCode (bits w 3 4)).map fun t => .vmov (bits w 20 5) (bits w 15 5) (bits w 7 3) t p.zro)
  | 1 => guarded (p.only false false false false false && bits w 7 3 == 0) ((ElemTy.ofCode (bits w 3 4)).map fun t => .vins (bits w 20 5) (bits w 15 5) (bits w 10 5) t)
  | 2 => guarded (p.only false false false false false && bits w 7 3 == 0) ((ElemTy.ofCode (bits w 3 4)).map fun t => .vext (bits w 20 5) (bits w 15 5) (bits w 10 5) t)
  | 3 => guarded (p.only false false true false false && bits w 15 5 == 0 && bits w 10 5 == 0) ((ElemTy.intOf (bits w 3 4)).map fun t => .vmovLane (bits w 20 5) (bits w 7 3) t p.zro)
  | _ => none

/-- Major 0x38 (R202). -/
def dec38 (long : Bool) (p : Pfx) (w : Word) : Option Instr :=
  match (bits w 0 3).toNat with
  | 0 => guarded (!long && bits w 18 5 == 0 && bits w 13 5 == 0 && bits w 3 6 == 0) (some (.mzero (bits w 23 2) (bits w 9 4)))
  | 1 => guarded (!long && bits w 18 1 == 0 && bits w 13 1 == 0 && bits w 3 6 == 0) (some (.mma (bits w 23 2) (bits w 19 4) (bits w 14 4) (bits w 9 4)))
  | 2 => guarded (!long && bits w 18 1 == 0 && bits w 13 1 == 0 && bits w 3 6 == 0) (some (.mmaSp (bits w 23 2) (bits w 19 4) (bits w 14 4) (bits w 9 4)))
  | 3 => guarded (!long && bits w 18 1 == 0 && bits w 13 5 == 0 && bits w 3 6 == 0) (some (.mld (bits w 23 2) (bits w 19 4) (bits w 9 4)))
  | 4 => guarded (!long && bits w 18 1 == 0 && bits w 13 5 == 0 && bits w 3 6 == 0) (some (.mst (bits w 23 2) (bits w 19 4) (bits w 9 4)))
  | 5 => guarded (p.only true true false false false && bits w 18 1 == 0 && bits w 13 5 == 0 && bits w 3 6 == 0) ((Round.ofCode p.x3).map fun r => .mrd (bits w 23 2) (bits w 19 4) (bits w 9 4) r p.sat)
  | 6 => guarded (p.only true true false false false && bits w 18 1 == 0 && bits w 13 1 == 0) ((Round.ofCode p.x3).map fun r => .mrdx (bits w 23 2) (bits w 19 4) (bits w 14 4) (bits w 9 4) (bits w 3 6) r p.sat)
  | _ => none

/-- Major 0x39 (R212). -/
def dec39 (p : Pfx) (w : Word) : Option Instr :=
  guarded (p.only false false true true true && p.ximm.extractLsb' 5 10 == 0 && bits w 0 1 == 0) (some (.xop (bits w 19 6) (bits w 14 5) (bits w 9 5) (bits w 4 5) p.c (p.ximm.extractLsb' 0 5) (bits w 1 3) p.zro))

/-- Major 0x3A (R213 to R215). -/
def dec3A (w : Word) : Option Instr :=
  match (bits w 0 5).toNat with
  | 0 => guarded (bits w 24 1 == 0 && bits w 10 5 == 0 && bits w 5 5 == 0) (some (.xld (bits w 20 4) (bits w 15 5)))
  | 1 => guarded (bits w 24 1 == 0 && bits w 10 5 == 0 && bits w 5 5 == 0) (some (.xunl (bits w 20 4) (bits w 15 5)))
  | 2 => guarded (bits w 10 5 == 0 && bits w 5 5 == 0) (some (.xq (bits w 20 5) (bits w 15 5)))
  | _ => none

/-- Major 0x40 (R240). -/
def dec40 (w : Word) : Option Instr :=
  guarded (true) ((relsOfCode (bits w 0 3)).map fun r => .send (bits w 20 5) (bits w 15 5) (bits w 11 4) (bits w 3 8) r)

/-- Major 0x41 (R240). -/
def dec41 (w : Word) : Option Instr :=
  guarded (bits w 6 5 == 0) ((relsOfCode (bits w 0 3)).map fun r => .sendv (bits w 20 5) (bits w 15 5) (bits w 11 4) (bits w 3 3) r)

/-- Major 0x42 (R240). -/
def dec42 (w : Word) : Option Instr :=
  guarded (bits w 15 5 == 0 && bits w 3 8 == 0) ((relsOfCode (bits w 0 3)).map fun r => .sig (bits w 20 5) (bits w 11 4) r)

/-- Major 0x43 (R242). -/
def dec43 (w : Word) : Option Instr :=
  guarded (bits w 0 3 == 0) ((relsOfCode (bits w 3 3)).map fun r => .sw (bits w 20 5) (bits w 15 5) (bits w 10 5) (bits w 6 4) r)

/-- Major 0x44 (R246 to R248). -/
def dec44 (w : Word) : Option Instr :=
  match (bits w 0 5).toNat with
  | 0 => guarded (bits w 24 1 == 0 && bits w 5 5 == 0) (some (.rearm (bits w 20 4) (bits w 15 5) (bits w 10 5)))
  | 1 => guarded (bits w 20 5 == 0 && bits w 15 5 == 0 && bits w 10 5 == 0 && bits w 5 5 == 0) (some .fret)
  | 2 => guarded (bits w 20 5 == 0) (some (.tagwin (bits w 15 5) (bits w 10 5) (bits w 5 5)))
  | _ => none

/-- Major 0x45 (R249). -/
def dec45 (p : Pfx) (w : Word) : Option Instr :=
  match (bits w 12 3).toNat with
  | 0 => guarded (p.only false false false false false) (some (.mkref (bits w 20 5) (bits w 15 5) (bits w 0 12)))
  | _ => none

/-- Major 0x48 (R252). -/
def dec48 (w : Word) : Option Instr :=
  (LoadTy.ofCode (bits w 0 3)).map fun t => .ld (bits w 17 8) (bits w 12 5) (bits w 7 5) (bits w 3 4) t

/-- Major 0x49 (R252). -/
def dec49 (w : Word) : Option Instr :=
  (LoadTy.ofCode (bits w 0 3)).map fun t => .ldLc (bits w 17 8) (bits w 12 5) (bits w 7 5) (bits w 3 4) t

/-- Major 0x4A (R253). -/
def dec4A (w : Word) : Option Instr :=
  guarded (bits w 0 4 == 0) (some (.st (bits w 20 5) (bits w 15 5) (bits w 10 5) (bits w 6 4) (Size.ofCode (bits w 4 2))))

/-- Major 0x4B (R254). -/
def dec4B (p : Pfx) (w : Word) : Option Instr :=
  match (bits w 0 3).toNat with
  | 0 => guarded (p.only false false true false false) (some (.vld (bits w 22 3) (bits w 17 5) (bits w 12 5) (bits w 8 4) (bits w 5 3) (Size.ofCode (bits w 3 2)) p.zro))
  | 1 => guarded (p.only false false true false false) (some (.vldStr (bits w 22 3) (bits w 17 5) (bits w 12 5) (bits w 8 4) (bits w 5 3) (Size.ofCode (bits w 3 2)) p.zro))
  | 2 => guarded (p.only false false true false false) (some (.vldIdx (bits w 22 3) (bits w 17 5) (bits w 12 5) (bits w 8 4) (bits w 5 3) (Size.ofCode (bits w 3 2)) p.zro))
  | _ => none

/-- The instructions of the majors from 0x4C on, as the decoder forms them before they become instructions. -/
inductive Tail where
  | vst (d : Reg) (a : Reg) (b : Reg) (slot : SlotNo) (k : MReg) (e : Size)
  | vstStr (d : Reg) (a : Reg) (b : Reg) (slot : SlotNo) (k : MReg) (e : Size)
  | pf (a : Reg) (b : Reg)
  | pfLc (a : Reg) (b : Reg)
  | gamoAdd (idx : BitVec 8) (a : Reg) (b : Reg) (slot : SlotNo) (w : Bool) (ord : Ord) (sc : Scope)
  | gamoAnd (idx : BitVec 8) (a : Reg) (b : Reg) (slot : SlotNo) (w : Bool) (ord : Ord) (sc : Scope)
  | gamoOr (idx : BitVec 8) (a : Reg) (b : Reg) (slot : SlotNo) (w : Bool) (ord : Ord) (sc : Scope)
  | gamoXor (idx : BitVec 8) (a : Reg) (b : Reg) (slot : SlotNo) (w : Bool) (ord : Ord) (sc : Scope)
  | gamoMinSigned (idx : BitVec 8) (a : Reg) (b : Reg) (slot : SlotNo) (w : Bool) (ord : Ord) (sc : Scope)
  | gamoMaxSigned (idx : BitVec 8) (a : Reg) (b : Reg) (slot : SlotNo) (w : Bool) (ord : Ord) (sc : Scope)
  | gamoMinUnsigned (idx : BitVec 8) (a : Reg) (b : Reg) (slot : SlotNo) (w : Bool) (ord : Ord) (sc : Scope)
  | gamoMaxUnsigned (idx : BitVec 8) (a : Reg) (b : Reg) (slot : SlotNo) (w : Bool) (ord : Ord) (sc : Scope)
  | gamoSwap (idx : BitVec 8) (a : Reg) (b : Reg) (slot : SlotNo) (w : Bool) (ord : Ord) (sc : Scope)
  | gamoCas (idx : BitVec 8) (a : Reg) (b : Reg) (c : Reg) (slot : SlotNo) (w : Bool) (ord : Ord) (sc : Scope)
  | gamoFadd (idx : BitVec 8) (a : Reg) (b : Reg) (slot : SlotNo) (w : Bool) (ord : Ord) (sc : Scope)
  | fence (sc : Scope)
  | cpy (a : Reg) (b : Reg) (c : Reg) (slot : SlotNo) (sc : Scope)
  | gth (a : Reg) (b : Reg) (c : Reg) (slot : SlotNo) (sc : Scope)
  | sct (a : Reg) (b : Reg) (c : Reg) (slot : SlotNo) (sc : Scope)
  | isect (a : Reg) (b : Reg) (c : Reg) (slot : SlotNo) (sc : Scope)
  | smerge (a : Reg) (b : Reg) (c : Reg) (slot : SlotNo) (sc : Scope)
  | cmpct (a : Reg) (b : Reg) (c : Reg) (slot : SlotNo) (sc : Scope)
  | rply
  | rsup (a : Reg)
  | kill
  | killL (a : Reg)
  | frr (d : Reg)
  | tlbi (slot : SlotNo) (a : Reg) (b : Reg)
  | tlbia (slot : SlotNo) (a : Reg)
  | ctxsv (slot : SlotNo) (a : Reg)
  | ctxrs (slot : SlotNo) (a : Reg) (b : Reg)
  | halt (slot : SlotNo) (a : Reg)
  | rdsr (d : Reg) (num : BitVec 12)
  | wrsr (num : BitVec 12) (d : Reg)
  deriving DecidableEq, Repr, Inhabited

/-- The instruction that stands for such a value. -/
noncomputable def Tail.toInstr (t : Tail) : Instr :=
  match t with
  | .vst d a b slot k e => .vst d a b slot k e
  | .vstStr d a b slot k e => .vstStr d a b slot k e
  | .pf a b => .pf a b
  | .pfLc a b => .pfLc a b
  | .gamoAdd idx a b slot w ord sc => .gamoAdd idx a b slot w ord sc
  | .gamoAnd idx a b slot w ord sc => .gamoAnd idx a b slot w ord sc
  | .gamoOr idx a b slot w ord sc => .gamoOr idx a b slot w ord sc
  | .gamoXor idx a b slot w ord sc => .gamoXor idx a b slot w ord sc
  | .gamoMinSigned idx a b slot w ord sc => .gamoMinSigned idx a b slot w ord sc
  | .gamoMaxSigned idx a b slot w ord sc => .gamoMaxSigned idx a b slot w ord sc
  | .gamoMinUnsigned idx a b slot w ord sc => .gamoMinUnsigned idx a b slot w ord sc
  | .gamoMaxUnsigned idx a b slot w ord sc => .gamoMaxUnsigned idx a b slot w ord sc
  | .gamoSwap idx a b slot w ord sc => .gamoSwap idx a b slot w ord sc
  | .gamoCas idx a b c slot w ord sc => .gamoCas idx a b c slot w ord sc
  | .gamoFadd idx a b slot w ord sc => .gamoFadd idx a b slot w ord sc
  | .fence sc => .fence sc
  | .cpy a b c slot sc => .cpy a b c slot sc
  | .gth a b c slot sc => .gth a b c slot sc
  | .sct a b c slot sc => .sct a b c slot sc
  | .isect a b c slot sc => .isect a b c slot sc
  | .smerge a b c slot sc => .smerge a b c slot sc
  | .cmpct a b c slot sc => .cmpct a b c slot sc
  | .rply => .rply
  | .rsup a => .rsup a
  | .kill => .kill
  | .killL a => .killL a
  | .frr d => .frr d
  | .tlbi slot a b => .tlbi slot a b
  | .tlbia slot a => .tlbia slot a
  | .ctxsv slot a => .ctxsv slot a
  | .ctxrs slot a b => .ctxrs slot a b
  | .halt slot a => .halt slot a
  | .rdsr d num => .rdsr d num
  | .wrsr num d => .wrsr num d

/-- Major 0x4C (R255). -/
def dec4C (w : Word) : Option Tail :=
  match (bits w 0 1).toNat with
  | 0 => some (.vst (bits w 20 5) (bits w 15 5) (bits w 10 5) (bits w 6 4) (bits w 3 3) (Size.ofCode (bits w 1 2)))
  | 1 => some (.vstStr (bits w 20 5) (bits w 15 5) (bits w 10 5) (bits w 6 4) (bits w 3 3) (Size.ofCode (bits w 1 2)))
  | _ => none

/-- Major 0x4D (R257). -/
def dec4D (w : Word) : Option Tail :=
  match (bits w 0 3).toNat with
  | 0 => guarded (bits w 17 8 == 0 && bits w 3 4 == 0) (some (.pf (bits w 12 5) (bits w 7 5)))
  | 1 => guarded (bits w 17 8 == 0 && bits w 3 4 == 0) (some (.pfLc (bits w 12 5) (bits w 7 5)))
  | _ => none

/-- Major 0x4E (R259). -/
def dec4E (p : Pfx) (w : Word) : Option Tail :=
  match (p.ximm.extractLsb' 0 4).toNat with
  | 0 => guarded (p.only true false false false true && p.ximm.extractLsb' 5 10 == 0) ((Ord.ofCode (bits w 0 3)).bind fun o => (Scope.ofCode p.x3).map fun s => .gamoAdd (bits w 17 8) (bits w 12 5) (bits w 7 5) (bits w 3 4) (p.ximm.getLsbD 4) o s)
  | 1 => guarded (p.only true false false false true && p.ximm.extractLsb' 5 10 == 0) ((Ord.ofCode (bits w 0 3)).bind fun o => (Scope.ofCode p.x3).map fun s => .gamoAnd (bits w 17 8) (bits w 12 5) (bits w 7 5) (bits w 3 4) (p.ximm.getLsbD 4) o s)
  | 2 => guarded (p.only true false false false true && p.ximm.extractLsb' 5 10 == 0) ((Ord.ofCode (bits w 0 3)).bind fun o => (Scope.ofCode p.x3).map fun s => .gamoOr (bits w 17 8) (bits w 12 5) (bits w 7 5) (bits w 3 4) (p.ximm.getLsbD 4) o s)
  | 3 => guarded (p.only true false false false true && p.ximm.extractLsb' 5 10 == 0) ((Ord.ofCode (bits w 0 3)).bind fun o => (Scope.ofCode p.x3).map fun s => .gamoXor (bits w 17 8) (bits w 12 5) (bits w 7 5) (bits w 3 4) (p.ximm.getLsbD 4) o s)
  | 4 => guarded (p.only true false false false true && p.ximm.extractLsb' 5 10 == 0) ((Ord.ofCode (bits w 0 3)).bind fun o => (Scope.ofCode p.x3).map fun s => .gamoMinSigned (bits w 17 8) (bits w 12 5) (bits w 7 5) (bits w 3 4) (p.ximm.getLsbD 4) o s)
  | 5 => guarded (p.only true false false false true && p.ximm.extractLsb' 5 10 == 0) ((Ord.ofCode (bits w 0 3)).bind fun o => (Scope.ofCode p.x3).map fun s => .gamoMaxSigned (bits w 17 8) (bits w 12 5) (bits w 7 5) (bits w 3 4) (p.ximm.getLsbD 4) o s)
  | 6 => guarded (p.only true false false false true && p.ximm.extractLsb' 5 10 == 0) ((Ord.ofCode (bits w 0 3)).bind fun o => (Scope.ofCode p.x3).map fun s => .gamoMinUnsigned (bits w 17 8) (bits w 12 5) (bits w 7 5) (bits w 3 4) (p.ximm.getLsbD 4) o s)
  | 7 => guarded (p.only true false false false true && p.ximm.extractLsb' 5 10 == 0) ((Ord.ofCode (bits w 0 3)).bind fun o => (Scope.ofCode p.x3).map fun s => .gamoMaxUnsigned (bits w 17 8) (bits w 12 5) (bits w 7 5) (bits w 3 4) (p.ximm.getLsbD 4) o s)
  | 8 => guarded (p.only true false false false true && p.ximm.extractLsb' 5 10 == 0) ((Ord.ofCode (bits w 0 3)).bind fun o => (Scope.ofCode p.x3).map fun s => .gamoSwap (bits w 17 8) (bits w 12 5) (bits w 7 5) (bits w 3 4) (p.ximm.getLsbD 4) o s)
  | 9 => guarded (p.only true false false true true && p.ximm.extractLsb' 5 10 == 0) ((Ord.ofCode (bits w 0 3)).bind fun o => (Scope.ofCode p.x3).map fun s => .gamoCas (bits w 17 8) (bits w 12 5) (bits w 7 5) p.c (bits w 3 4) (p.ximm.getLsbD 4) o s)
  | 10 => guarded (p.only true false false false true && p.ximm.extractLsb' 5 10 == 0) ((Ord.ofCode (bits w 0 3)).bind fun o => (Scope.ofCode p.x3).map fun s => .gamoFadd (bits w 17 8) (bits w 12 5) (bits w 7 5) (bits w 3 4) (p.ximm.getLsbD 4) o s)
  | _ => none

/-- Major 0x50 (R260). -/
def dec50 (w : Word) : Option Tail :=
  guarded (bits w 3 22 == 0) ((Scope.ofCode (bits w 0 3)).map .fence)

/-- Major 0x51 (R261). -/
def dec51 (w : Word) : Option Tail :=
  match (bits w 0 3).toNat with
  | 0 => (Scope.ofCode (bits w 3 3)).map fun s => .cpy (bits w 20 5) (bits w 15 5) (bits w 10 5) (bits w 6 4) s
  | 1 => (Scope.ofCode (bits w 3 3)).map fun s => .gth (bits w 20 5) (bits w 15 5) (bits w 10 5) (bits w 6 4) s
  | 2 => (Scope.ofCode (bits w 3 3)).map fun s => .sct (bits w 20 5) (bits w 15 5) (bits w 10 5) (bits w 6 4) s
  | 3 => (Scope.ofCode (bits w 3 3)).map fun s => .isect (bits w 20 5) (bits w 15 5) (bits w 10 5) (bits w 6 4) s
  | 4 => (Scope.ofCode (bits w 3 3)).map fun s => .smerge (bits w 20 5) (bits w 15 5) (bits w 10 5) (bits w 6 4) s
  | 5 => (Scope.ofCode (bits w 3 3)).map fun s => .cmpct (bits w 20 5) (bits w 15 5) (bits w 10 5) (bits w 6 4) s
  | _ => none

/-- Major 0x60 (R369). -/
def dec60 (w : Word) : Option Tail :=
  match (bits w 0 5).toNat with
  | 0 => guarded (bits w 20 5 == 0 && bits w 15 5 == 0 && bits w 10 5 == 0 && bits w 5 5 == 0) (some .rply)
  | 1 => guarded (bits w 20 5 == 0 && bits w 10 5 == 0 && bits w 5 5 == 0) (some (.rsup (bits w 15 5)))
  | 2 => guarded (bits w 20 5 == 0 && bits w 15 5 == 0 && bits w 10 5 == 0 && bits w 5 5 == 0) (some .kill)
  | 3 => guarded (bits w 20 5 == 0 && bits w 10 5 == 0 && bits w 5 5 == 0) (some (.killL (bits w 15 5)))
  | 4 => guarded (bits w 15 5 == 0 && bits w 10 5 == 0 && bits w 5 5 == 0) (some (.frr (bits w 20 5)))
  | 5 => guarded (bits w 24 1 == 0 && bits w 5 5 == 0) (some (.tlbi (bits w 20 4) (bits w 15 5) (bits w 10 5)))
  | 6 => guarded (bits w 24 1 == 0 && bits w 10 5 == 0 && bits w 5 5 == 0) (some (.tlbia (bits w 20 4) (bits w 15 5)))
  | 7 => guarded (bits w 24 1 == 0 && bits w 10 5 == 0 && bits w 5 5 == 0) (some (.ctxsv (bits w 20 4) (bits w 15 5)))
  | 8 => guarded (bits w 24 1 == 0 && bits w 5 5 == 0) (some (.ctxrs (bits w 20 4) (bits w 15 5) (bits w 10 5)))
  | 9 => guarded (bits w 24 1 == 0 && bits w 10 5 == 0 && bits w 5 5 == 0) (some (.halt (bits w 20 4) (bits w 15 5)))
  | _ => none

/-- Major 0x61 (R369). -/
def dec61 (p : Pfx) (w : Word) : Option Tail :=
  match (bits w 12 3).toNat with
  | 0 => guarded (p.only false false false false false && bits w 15 5 == 0) (some (.rdsr (bits w 20 5) (bits w 0 12)))
  | 1 => guarded (p.only false false false false false && bits w 15 5 == 0) (some (.wrsr (bits w 0 12) (bits w 20 5)))
  | _ => none

/-- A base word of a major below 0x4C with the fields of its prefix, or with every prefix field zero when `long` is false
(R111 to R114, R126, R127), before the limits of `Instr.wf`. A major that is not listed is reserved-trapping. -/
def decodeHead (long : Bool) (p : Pfx) (w : Word) : Option Instr :=
  match majorOf w with
  | 0x01 => guarded (!long) (dec01 w)
  | 0x02 => guarded (!long) (dec02 w)
  | 0x03 => guarded (p.only false false false false true) (dec03 long p w)
  | 0x04 => guarded (p.only false false false false true) (dec04 long p w)
  | 0x05 => guarded (p.only false false false false true) (dec05 long p w)
  | 0x06 => guarded (p.only false false false false true) (dec06 long p w)
  | 0x07 => guarded (!long) (dec07 w)
  | 0x08 => dec08 long p w
  | 0x09 => guarded (p.only false false false false true) (dec09 long p w)
  | 0x0A => guarded (p.only false false false false true) (dec0A long p w)
  | 0x0B => guarded (p.only false false false false true) (dec0B long p w)
  | 0x0C => guarded (!long) (dec0C w)
  | 0x0D => guarded (!long) (dec0D w)
  | 0x10 => guarded (p.only false false false false true) (dec10 long p w)
  | 0x11 => guarded (p.only false false false false true) (dec11 long p w)
  | 0x12 => guarded (p.only false false false false true) (dec12 long p w)
  | 0x13 => guarded (!long) (dec13 w)
  | 0x14 => guarded (!long) (dec14 w)
  | 0x18 => dec18 p w
  | 0x19 => dec19 p w
  | 0x1A => dec1A p w
  | 0x1B => dec1B p w
  | 0x1C => dec1C p w
  | 0x1D => dec1D p w
  | 0x1E => dec1E p w
  | 0x1F => dec1F p w
  | 0x20 => dec20 p w
  | 0x21 => dec21 p w
  | 0x22 => dec22 p w
  | 0x23 => guarded (!long) (dec23 w)
  | 0x24 => dec24 p w
  | 0x25 => guarded (!long) (dec25 w)
  | 0x26 => dec26 p w
  | 0x38 => dec38 long p w
  | 0x39 => dec39 p w
  | 0x3A => guarded (!long) (dec3A w)
  | 0x40 => guarded (!long) (dec40 w)
  | 0x41 => guarded (!long) (dec41 w)
  | 0x42 => guarded (!long) (dec42 w)
  | 0x43 => guarded (!long) (dec43 w)
  | 0x44 => guarded (!long) (dec44 w)
  | 0x45 => dec45 p w
  | 0x48 => guarded (!long) (dec48 w)
  | 0x49 => guarded (!long) (dec49 w)
  | 0x4A => guarded (!long) (dec4A w)
  | 0x4B => dec4B p w
  | _ => none

/-- A base word of a major from 0x4C on. A major that is not listed is reserved-trapping, or is the prefix. -/
def decodeTail (long : Bool) (p : Pfx) (w : Word) : Option Tail :=
  match majorOf w with
  | 0x4C => guarded (!long) (dec4C w)
  | 0x4D => guarded (!long) (dec4D w)
  | 0x4E => guarded long (dec4E p w)
  | 0x50 => guarded (!long) (dec50 w)
  | 0x51 => guarded (!long) (dec51 w)
  | 0x60 => guarded (!long) (dec60 w)
  | 0x61 => dec61 p w
  | _ => none

/-- A base word decoded, with the limits of the instruction's entry, which the majors from 0x4C on do not have (R114,
R128). -/
noncomputable def decodeLimited (long : Bool) (p : Pfx) (w : Word) : Option Instr :=
  if majorOf w < 0x4C then
    match decodeHead long p w with
    | some i => if i.wf then some i else none
    | none => none
  else (decodeTail long p w).map Tail.toInstr

/-- Whether a word is a prefix word (R111). -/
def isPrefix (w : Word) : Bool := majorOf w == 0x7F

/-- The instruction that starts with word `w0`, where `w1` is the word at the next address, which is looked at only
when `w0` is a prefix word; none where the words raise ILLEGAL_INSTRUCTION (R111, R112, R128). Log 21 (DEDUCED). -/
noncomputable def decodeWords (w0 w1 : Word) : Option Instr :=
  if isPrefix w0 then
    if isPrefix w1 then none else decodeLimited true (Pfx.ofWord w0) w1
  else decodeLimited false Pfx.zero w0

/-- The bytes that the instruction at `w0` takes: 8 for a long form, 4 otherwise (R111). -/
def lengthOf (w0 : Word) : Nat := if isPrefix w0 then 8 else 4

/-- Why bytes are no instruction. -/
inductive Reject where
  /-- The bytes end before the instruction does. -/
  | truncated
  /-- A prefix word whose next word is also a prefix word (R112). -/
  | doublePrefix
  /-- A word that R128 names. -/
  | illegalWord
  deriving DecidableEq, Repr

/-- A word from its four bytes, little-endian (R3, R110). -/
def wordOfBytes (b0 b1 b2 b3 : Byte) : Word := b3 ++ b2 ++ b1 ++ b0

/-- The instruction at the front of a list of bytes, with the bytes after it. -/
noncomputable def decodeBytes (bs : List Byte) : Except Reject (Instr × List Byte) :=
  match bs with
  | b0 :: b1 :: b2 :: b3 :: rest =>
    let w0 := wordOfBytes b0 b1 b2 b3
    if isPrefix w0 then
      match rest with
      | c0 :: c1 :: c2 :: c3 :: rest' =>
        let w1 := wordOfBytes c0 c1 c2 c3
        if isPrefix w1 then .error .doublePrefix
        else match decodeWords w0 w1 with
          | some i => .ok (i, rest')
          | none => .error .illegalWord
      | _ => .error .truncated
    else match decodeWords w0 0 with
      | some i => .ok (i, rest)
      | none => .error .illegalWord
  | _ => .error .truncated

/-- Byte k of a number. -/
def byteOfNat (n k : Nat) : Byte := BitVec.ofNat 8 (n >>> (8 * k))

/-- The instruction that the decoder reads from an instruction whose bits are `w`, numbered as the opcode table numbers
them; every bit from `nbits` upward is 0. -/
noncomputable def decodeTableWord (nbits w : Nat) : Option Instr :=
  let v := w % 2 ^ nbits
  match decodeBytes [byteOfNat v 0, byteOfNat v 1, byteOfNat v 2, byteOfNat v 3,
      byteOfNat v 4, byteOfNat v 5, byteOfNat v 6, byteOfNat v 7] with
  | .ok (i, _) => some i
  | .error _ => none

/-- The scalar register that is the destination of an instruction, when its destination is one (R371). Log 30 (DEDUCED). -/
def scalarDestination (i : Instr) : Option Reg :=
  match i with
  | .fld d _ _ | .fldFsw d | .sld d _ _ _ | .rdsr d _ | .mkref d _ _ | .xq d _ | .movi d _ | .movh d _ | .rds d _
  | .vredAdd d _ _ _ | .vredMin d _ _ _ | .vredMax d _ _ _ | .vredAnd d _ _ _ | .vredOr d _ _ _ | .vredXor d _ _ _
  | .mpopc d _ | .mgets d _ | .vext d _ _ _
  | .samoAdd d _ _ _ | .samoAnd d _ _ _ | .samoOr d _ _ _ | .samoXor d _ _ _ | .samoMin d _ _ _ _
  | .samoMax d _ _ _ _ | .samoSwap d _ _ _ | .samoCas d _ _ _ _
  | .add d _ _ | .sub d _ _ | .mul d _ _ | .mulhI64 d _ _ | .mulhN64 d _ _ | .divI64 d _ _ | .divN64 d _ _
  | .remI64 d _ _ | .remN64 d _ _ | .and d _ _ | .or d _ _ | .xor d _ _ | .andn d _ _ | .shl d _ _ | .shr d _ _
  | .sra d _ _ | .rol d _ _ | .ror d _ _ | .clz d _ | .ctz d _ | .popc d _ | .minI64 d _ _ | .maxI64 d _ _
  | .minN64 d _ _ | .maxN64 d _ _ | .sel d _ _ _ | .clmul d _ _ | .clmulh d _ _ | .bgat d _ _ | .bsct d _ _
  | .madd d _ _ _ | .msub d _ _ _ | .sltI64 d _ _ | .sltN64 d _ _ | .seq d _ _ | .sne d _ _ | .extdI8 d _
  | .extdI16 d _ | .extdI32 d _ | .extdN8 d _ | .extdN16 d _ | .extdN32 d _ | .bswap d _ | .addImm d _ _
  | .andImm d _ _ | .orImm d _ _ | .xorImm d _ _ | .shlImm d _ _ | .shrImm d _ _ | .sraImm d _ _ | .rorImm d _ _
  | .sltI64Imm d _ _ | .sltN64Imm d _ _ | .seqImm d _ _ | .sneImm d _ _ | .mulImm d _ _ | .minI64Imm d _ _
  | .maxI64Imm d _ _ | .fadd d _ _ _ _ | .fsub d _ _ _ _ | .fmul d _ _ _ _ | .fdiv d _ _ _ _ | .fsqrt d _ _ _
  | .fma d _ _ _ _ | .fnma d _ _ _ _ | .fmin d _ _ _ | .fmax d _ _ _ | .fceq d _ _ _ | .fclt d _ _ _
  | .fcle d _ _ _ | .fcvt d _ _ _ _ _ | .fcvti d _ _ _ _ _ | .icvtf d _ _ _ _ _ | .fneg d _ _ | .fabs d _ _
  | .fsgn d _ _ _ | .fcls d _ _ => some d
  | _ => none

/-! ### The encoder -/

/-- Format RG (R115). -/
def encRG (maj : BitVec 7) (d a b c mn : BitVec 5) : Word := maj ++ d ++ a ++ b ++ c ++ mn
/-- Format IM (R115). -/
def encIM (maj : BitVec 7) (d a : BitVec 5) (mn : BitVec 3) (i : BitVec 12) : Word := maj ++ d ++ a ++ mn ++ i
/-- Formats WI and JP (R115). -/
def encWI (maj : BitVec 7) (d : BitVec 5) (i : BitVec 20) : Word := maj ++ d ++ i
/-- Format SF, major 0x08 (R115). -/
def encSF (d a b : BitVec 5) (r : BitVec 3) (f : BitVec 2) (mn : BitVec 5) : Word := 0x08#7 ++ d ++ a ++ b ++ r ++ f ++ mn
/-- Format BR (R115). -/
def encBR (maj : BitVec 7) (a b : BitVec 5) (cc : BitVec 3) (o : BitVec 12) : Word := maj ++ a ++ b ++ cc ++ o
/-- Format VR (R115). -/
def encVR (maj : BitVec 7) (d a b : BitVec 5) (k : BitVec 3) (t : BitVec 4) (mn : BitVec 3) : Word :=
  maj ++ d ++ a ++ b ++ k ++ t ++ mn
/-- Format MU, major 0x38 (R115). -/
def encMU (acc : BitVec 2) (a b : BitVec 5) (slot : BitVec 4) (xn : BitVec 6) (mn : BitVec 3) : Word :=
  0x38#7 ++ acc ++ a ++ b ++ slot ++ xn ++ mn
/-- Format XO, major 0x39 (R115). -/
def encXO (n : BitVec 6) (d a b : BitVec 5) (k : BitVec 3) : Word := 0x39#7 ++ n ++ d ++ a ++ b ++ k ++ 0#1
/-- Format TK (R115). -/
def encTK (maj : BitVec 7) (a b : BitVec 5) (slot : BitVec 4) (idx : BitVec 8) (rels : BitVec 3) : Word :=
  maj ++ a ++ b ++ slot ++ idx ++ rels
/-- Formats SW and SE (R115). -/
def encSW (maj : BitVec 7) (p a b : BitVec 5) (slot : BitVec 4) (rels mn : BitVec 3) : Word :=
  maj ++ p ++ a ++ b ++ slot ++ rels ++ mn
/-- Formats GL and AT (R115). -/
def encGL (maj : BitVec 7) (idx : BitVec 8) (a b : BitVec 5) (slot : BitVec 4) (mn : BitVec 3) : Word :=
  maj ++ idx ++ a ++ b ++ slot ++ mn
/-- Format GS, major 0x4A (R115). -/
def encGS (d a b : BitVec 5) (slot : BitVec 4) (sz : BitVec 2) : Word := 0x4A#7 ++ d ++ a ++ b ++ slot ++ sz ++ 0#4
/-- Format GV, major 0x4B (R115). -/
def encGV (v : BitVec 3) (a b : BitVec 5) (slot : BitVec 4) (k : BitVec 3) (e : BitVec 2) (mn : BitVec 3) : Word :=
  0x4B#7 ++ v ++ a ++ b ++ slot ++ k ++ e ++ mn
/-- Format GW, major 0x4C (R115). -/
def encGW (d a b : BitVec 5) (slot : BitVec 4) (k : BitVec 3) (e : BitVec 2) (mode : BitVec 1) : Word :=
  0x4C#7 ++ d ++ a ++ b ++ slot ++ k ++ e ++ mode
/-- A prefix word (R113). -/
def encPfx (p : Pfx) : Word :=
  0x7F#7 ++ p.x3 ++ BitVec.ofBool p.sat ++ BitVec.ofBool p.zro ++ p.c ++ p.ximm
/-- A base word with its prefix, which is emitted exactly when some prefix field is not zero (R134). -/
def withPfx (p : Pfx) (w : Word) : List Word := if p = Pfx.zero then [w] else [encPfx p, w]
/-- A word of format IM or BR for an immediate: the short form when it fits (R134). -/
def encImm27 (i : BitVec 27) (w : BitVec 12 → Word) : List Word :=
  if (i.setWidth 12).signExtend 27 = i then [w (i.setWidth 12)]
  else [encPfx ⟨0, false, false, 0, i.extractLsb' 12 15⟩, w (i.setWidth 12)]
/-- A word of format WI or JP for an immediate: the short form when it fits (R134). -/
def encImm35 (i : BitVec 35) (w : BitVec 20 → Word) : List Word :=
  if (i.setWidth 20).signExtend 35 = i then [w (i.setWidth 20)]
  else [encPfx ⟨0, false, false, 0, i.extractLsb' 20 15⟩, w (i.setWidth 20)]

/-- The words of an instruction, from the formats of R115 and the codes of R126 and R127; a row that no instruction
word names has none. Log 57 (DESIGN CHOICE). -/
def encode (i : Instr) : List Word :=
  match i with
  | .add d a b => [encRG 0x01 d a b 0#5 0]
  | .sub d a b => [encRG 0x01 d a b 0#5 1]
  | .mul d a b => [encRG 0x01 d a b 0#5 2]
  | .mulhI64 d a b => [encRG 0x01 d a b 0#5 3]
  | .mulhN64 d a b => [encRG 0x01 d a b 0#5 4]
  | .divI64 d a b => [encRG 0x01 d a b 0#5 5]
  | .divN64 d a b => [encRG 0x01 d a b 0#5 6]
  | .remI64 d a b => [encRG 0x01 d a b 0#5 7]
  | .remN64 d a b => [encRG 0x01 d a b 0#5 8]
  | .and d a b => [encRG 0x01 d a b 0#5 9]
  | .or d a b => [encRG 0x01 d a b 0#5 10]
  | .xor d a b => [encRG 0x01 d a b 0#5 11]
  | .andn d a b => [encRG 0x01 d a b 0#5 12]
  | .shl d a b => [encRG 0x01 d a b 0#5 13]
  | .shr d a b => [encRG 0x01 d a b 0#5 14]
  | .sra d a b => [encRG 0x01 d a b 0#5 15]
  | .rol d a b => [encRG 0x01 d a b 0#5 16]
  | .ror d a b => [encRG 0x01 d a b 0#5 17]
  | .clz d a => [encRG 0x01 d a 0#5 0#5 18]
  | .ctz d a => [encRG 0x01 d a 0#5 0#5 19]
  | .popc d a => [encRG 0x01 d a 0#5 0#5 20]
  | .minI64 d a b => [encRG 0x01 d a b 0#5 21]
  | .maxI64 d a b => [encRG 0x01 d a b 0#5 22]
  | .minN64 d a b => [encRG 0x01 d a b 0#5 23]
  | .maxN64 d a b => [encRG 0x01 d a b 0#5 24]
  | .sel d a b c => [encRG 0x01 d a b c 25]
  | .clmul d a b => [encRG 0x01 d a b 0#5 26]
  | .clmulh d a b => [encRG 0x01 d a b 0#5 27]
  | .bgat d a b => [encRG 0x01 d a b 0#5 28]
  | .bsct d a b => [encRG 0x01 d a b 0#5 29]
  | .madd d a b c => [encRG 0x01 d a b c 30]
  | .msub d a b c => [encRG 0x01 d a b c 31]
  | .sltI64 d a b => [encRG 0x02 d a b 0#5 0]
  | .sltN64 d a b => [encRG 0x02 d a b 0#5 1]
  | .seq d a b => [encRG 0x02 d a b 0#5 2]
  | .sne d a b => [encRG 0x02 d a b 0#5 3]
  | .extdI8 d a => [encRG 0x02 d a 0#5 0#5 4]
  | .extdI16 d a => [encRG 0x02 d a 0#5 0#5 5]
  | .extdI32 d a => [encRG 0x02 d a 0#5 0#5 6]
  | .extdN8 d a => [encRG 0x02 d a 0#5 0#5 7]
  | .extdN16 d a => [encRG 0x02 d a 0#5 0#5 8]
  | .extdN32 d a => [encRG 0x02 d a 0#5 0#5 9]
  | .bswap d a => [encRG 0x02 d a 0#5 0#5 10]
  | .addImm d a i => encImm27 i (encIM 0x03 d a 0)
  | .andImm d a i => encImm27 i (encIM 0x03 d a 1)
  | .orImm d a i => encImm27 i (encIM 0x03 d a 2)
  | .xorImm d a i => encImm27 i (encIM 0x03 d a 3)
  | .shlImm d a i => encImm27 i (encIM 0x03 d a 4)
  | .shrImm d a i => encImm27 i (encIM 0x03 d a 5)
  | .sraImm d a i => encImm27 i (encIM 0x03 d a 6)
  | .rorImm d a i => encImm27 i (encIM 0x03 d a 7)
  | .sltI64Imm d a i => encImm27 i (encIM 0x04 d a 0)
  | .sltN64Imm d a i => encImm27 i (encIM 0x04 d a 1)
  | .seqImm d a i => encImm27 i (encIM 0x04 d a 2)
  | .sneImm d a i => encImm27 i (encIM 0x04 d a 3)
  | .mulImm d a i => encImm27 i (encIM 0x04 d a 4)
  | .minI64Imm d a i => encImm27 i (encIM 0x04 d a 5)
  | .maxI64Imm d a i => encImm27 i (encIM 0x04 d a 6)
  | .movi d i => encImm35 i (encWI 0x05 d)
  | .movh d i => encImm35 i (encWI 0x06 d)
  | .rds d x => [encRG 0x07 d x.code 0 0 0]
  | .fadd d a b r f => [encSF d a b r.code f.code 0]
  | .fsub d a b r f => [encSF d a b r.code f.code 1]
  | .fmul d a b r f => [encSF d a b r.code f.code 2]
  | .fdiv d a b r f => [encSF d a b r.code f.code 3]
  | .fsqrt d a r f => [encSF d a 0 r.code f.code 4]
  | .fma d a b r f => [encSF d a b r.code f.code 5]
  | .fnma d a b r f => [encSF d a b r.code f.code 6]
  | .fmin d a b f => [encSF d a b 0 f.code 7]
  | .fmax d a b f => [encSF d a b 0 f.code 8]
  | .fceq d a b f => [encSF d a b 0 f.code 9]
  | .fclt d a b f => [encSF d a b 0 f.code 10]
  | .fcle d a b f => [encSF d a b 0 f.code 11]
  | .fcvt d a x r f sat => withPfx ⟨0, sat, false, 0, 0⟩ (encSF d a (0#3 ++ x.code) r.code f.code 12)
  | .fcvti d a x r f sat => withPfx ⟨0, sat, false, 0, 0⟩ (encSF d a (0#2 ++ x.code) r.code f.code 13)
  | .icvtf d a x r f sat => withPfx ⟨0, sat, false, 0, 0⟩ (encSF d a (0#2 ++ x.code) r.code f.code 14)
  | .fneg d a f => [encSF d a 0 0 f.code 15]
  | .fabs d a f => [encSF d a 0 0 f.code 16]
  | .fsgn d a b f => [encSF d a b 0 f.code 17]
  | .fcls d a f => [encSF d a 0 0 f.code 18]
  | .beq a b o => encImm27 o (encBR 0x09 a b 0)
  | .bne a b o => encImm27 o (encBR 0x09 a b 1)
  | .bltI64 a b o => encImm27 o (encBR 0x09 a b 2)
  | .bgeI64 a b o => encImm27 o (encBR 0x09 a b 3)
  | .bltN64 a b o => encImm27 o (encBR 0x09 a b 4)
  | .bgeN64 a b o => encImm27 o (encBR 0x09 a b 5)
  | .bbs a b o => encImm27 o (encBR 0x09 a b 6)
  | .bbc a b o => encImm27 o (encBR 0x09 a b 7)
  | .beqImm a b o => encImm27 o (encBR 0x0A a b 0)
  | .bneImm a b o => encImm27 o (encBR 0x0A a b 1)
  | .bltI64Imm a b o => encImm27 o (encBR 0x0A a b 2)
  | .bgeI64Imm a b o => encImm27 o (encBR 0x0A a b 3)
  | .bltN64Imm a b o => encImm27 o (encBR 0x0A a b 4)
  | .bgeN64Imm a b o => encImm27 o (encBR 0x0A a b 5)
  | .bbsImm a b o => encImm27 o (encBR 0x0A a b 6)
  | .bbcImm a b o => encImm27 o (encBR 0x0A a b 7)
  | .j o => encImm35 o (encWI 0x0B 0)
  | .jt a n => [encWI 0x0C a (0#10 ++ n)]
  | .fin => [encWI 0x0D 0 0]
  | .fld d a i => encImm27 i (encIM 0x10 d a 0)
  | .fst d a i => encImm27 i (encIM 0x10 d a 1)
  | .fldv d a i => encImm27 i (encIM 0x10 d a 2)
  | .fstv d a i => encImm27 i (encIM 0x10 d a 3)
  | .fldFsw d => [encIM 0x10 d 0 4 0]
  | .sld d a t i => encImm27 i (encIM 0x11 d a t.code)
  | .sst d a t i => encImm27 i (encIM 0x12 d a (0#1 ++ t.code))
  | .sldv d a b k t => [encVR 0x13 d a b k t.code 0]
  | .sstv d a b k t => [encVR 0x13 d a b k t.code 1]
  | .sldx d a b k t => [encVR 0x13 d a b k t.code 2]
  | .sstx d a b k t => [encVR 0x13 d a b k t.code 3]
  | .samoAdd d a b w => [encRG 0x14 d a b 0 (BitVec.ofBool w ++ 0#1 ++ 0#3)]
  | .samoAnd d a b w => [encRG 0x14 d a b 0 (BitVec.ofBool w ++ 0#1 ++ 1#3)]
  | .samoOr d a b w => [encRG 0x14 d a b 0 (BitVec.ofBool w ++ 0#1 ++ 2#3)]
  | .samoXor d a b w => [encRG 0x14 d a b 0 (BitVec.ofBool w ++ 0#1 ++ 3#3)]
  | .samoMin d a b w u => [encRG 0x14 d a b 0 (BitVec.ofBool w ++ BitVec.ofBool u ++ 4#3)]
  | .samoMax d a b w u => [encRG 0x14 d a b 0 (BitVec.ofBool w ++ BitVec.ofBool u ++ 5#3)]
  | .samoSwap d a b w => [encRG 0x14 d a b 0 (BitVec.ofBool w ++ 0#1 ++ 6#3)]
  | .samoCas d a b c w => [encRG 0x14 d a b c (BitVec.ofBool w ++ 0#1 ++ 7#3)]
  | .vadd d a b k t z => withPfx ⟨0, false, z, 0, 0⟩ (encVR 0x18 d a b k (0#1 ++ t.code) 0)
  | .vsub d a b k t z => withPfx ⟨0, false, z, 0, 0⟩ (encVR 0x18 d a b k (0#1 ++ t.code) 1)
  | .vmul d a b k t z => withPfx ⟨0, false, z, 0, 0⟩ (encVR 0x18 d a b k (0#1 ++ t.code) 2)
  | .vmulh d a b k t z => withPfx ⟨0, false, z, 0, 0⟩ (encVR 0x18 d a b k (0#1 ++ t.code) 3)
  | .vmin d a b k t z => withPfx ⟨0, false, z, 0, 0⟩ (encVR 0x18 d a b k (0#1 ++ t.code) 4)
  | .vmax d a b k t z => withPfx ⟨0, false, z, 0, 0⟩ (encVR 0x18 d a b k (0#1 ++ t.code) 5)
  | .vadds d a b k t z => withPfx ⟨0, false, z, 0, 0⟩ (encVR 0x18 d a b k (0#1 ++ t.code) 6)
  | .vsubs d a b k t z => withPfx ⟨0, false, z, 0, 0⟩ (encVR 0x18 d a b k (0#1 ++ t.code) 7)
  | .vaddScalar d a b k t z => withPfx ⟨0, false, z, 0, 0⟩ (encVR 0x1B d a b k (0#1 ++ t.code) 0)
  | .vsubScalar d a b k t z => withPfx ⟨0, false, z, 0, 0⟩ (encVR 0x1B d a b k (0#1 ++ t.code) 1)
  | .vmulScalar d a b k t z => withPfx ⟨0, false, z, 0, 0⟩ (encVR 0x1B d a b k (0#1 ++ t.code) 2)
  | .vmulhScalar d a b k t z => withPfx ⟨0, false, z, 0, 0⟩ (encVR 0x1B d a b k (0#1 ++ t.code) 3)
  | .vminScalar d a b k t z => withPfx ⟨0, false, z, 0, 0⟩ (encVR 0x1B d a b k (0#1 ++ t.code) 4)
  | .vmaxScalar d a b k t z => withPfx ⟨0, false, z, 0, 0⟩ (encVR 0x1B d a b k (0#1 ++ t.code) 5)
  | .vaddsScalar d a b k t z => withPfx ⟨0, false, z, 0, 0⟩ (encVR 0x1B d a b k (0#1 ++ t.code) 6)
  | .vsubsScalar d a b k t z => withPfx ⟨0, false, z, 0, 0⟩ (encVR 0x1B d a b k (0#1 ++ t.code) 7)
  | .vand d a b k t z => withPfx ⟨0, false, z, 0, 0⟩ (encVR 0x19 d a b k (0#1 ++ t.code) 0)
  | .vor d a b k t z => withPfx ⟨0, false, z, 0, 0⟩ (encVR 0x19 d a b k (0#1 ++ t.code) 1)
  | .vxor d a b k t z => withPfx ⟨0, false, z, 0, 0⟩ (encVR 0x19 d a b k (0#1 ++ t.code) 2)
  | .vandn d a b k t z => withPfx ⟨0, false, z, 0, 0⟩ (encVR 0x19 d a b k (0#1 ++ t.code) 3)
  | .vshl d a b k t z => withPfx ⟨0, false, z, 0, 0⟩ (encVR 0x19 d a b k (0#1 ++ t.code) 4)
  | .vshr d a b k t z => withPfx ⟨0, false, z, 0, 0⟩ (encVR 0x19 d a b k (0#1 ++ t.code) 5)
  | .vsra d a b k t z => withPfx ⟨0, false, z, 0, 0⟩ (encVR 0x19 d a b k (0#1 ++ t.code) 6)
  | .vrol d a b k t z => withPfx ⟨0, false, z, 0, 0⟩ (encVR 0x19 d a b k (0#1 ++ t.code) 7)
  | .vabs d a k t z => withPfx ⟨0, false, z, 0, 0⟩ (encVR 0x1A d a 0 k (0#1 ++ t.code) 0)
  | .vneg d a k t z => withPfx ⟨0, false, z, 0, 0⟩ (encVR 0x1A d a 0 k (0#1 ++ t.code) 1)
  | .vclz d a k t z => withPfx ⟨0, false, z, 0, 0⟩ (encVR 0x1A d a 0 k (0#1 ++ t.code) 2)
  | .vpopc d a k t z => withPfx ⟨0, false, z, 0, 0⟩ (encVR 0x1A d a 0 k (0#1 ++ t.code) 3)
  | .vmadd d a b c k t z => withPfx ⟨0, false, z, c, 0⟩ (encVR 0x1A d a b k (0#1 ++ t.code) 4)
  | .vsel d a b k t => [encVR 0x1A d a b k (0#1 ++ t.code) 5]
  | .vclmul d a b t z => withPfx ⟨0, false, z, 0, 0⟩ (encVR 0x1A d a b 0 (0#1 ++ t.code) 6)
  | .vclmulh d a b t z => withPfx ⟨0, false, z, 0, 0⟩ (encVR 0x1A d a b 0 (0#1 ++ t.code) 7)
  | .vfadd d a b k t r z => withPfx ⟨r.code, false, z, 0, 0⟩ (encVR 0x1C d a b k (2#2 ++ t.code) 0)
  | .vfsub d a b k t r z => withPfx ⟨r.code, false, z, 0, 0⟩ (encVR 0x1C d a b k (2#2 ++ t.code) 1)
  | .vfmul d a b k t r z => withPfx ⟨r.code, false, z, 0, 0⟩ (encVR 0x1C d a b k (2#2 ++ t.code) 2)
  | .vfdiv d a b k t r z => withPfx ⟨r.code, false, z, 0, 0⟩ (encVR 0x1C d a b k (2#2 ++ t.code) 3)
  | .vfma d a b c k t r z => withPfx ⟨r.code, false, z, c, 0⟩ (encVR 0x1C d a b k (2#2 ++ t.code) 4)
  | .vfnma d a b c k t r z => withPfx ⟨r.code, false, z, c, 0⟩ (encVR 0x1C d a b k (2#2 ++ t.code) 5)
  | .vfmin d a b k t z => withPfx ⟨0, false, z, 0, 0⟩ (encVR 0x1C d a b k (2#2 ++ t.code) 6)
  | .vfmax d a b k t z => withPfx ⟨0, false, z, 0, 0⟩ (encVR 0x1C d a b k (2#2 ++ t.code) 7)
  | .vfaddScalar d a b k t r z => withPfx ⟨r.code, false, z, 0, 0⟩ (encVR 0x1D d a b k (2#2 ++ t.code) 0)
  | .vfsubScalar d a b k t r z => withPfx ⟨r.code, false, z, 0, 0⟩ (encVR 0x1D d a b k (2#2 ++ t.code) 1)
  | .vfmulScalar d a b k t r z => withPfx ⟨r.code, false, z, 0, 0⟩ (encVR 0x1D d a b k (2#2 ++ t.code) 2)
  | .vfdivScalar d a b k t r z => withPfx ⟨r.code, false, z, 0, 0⟩ (encVR 0x1D d a b k (2#2 ++ t.code) 3)
  | .vfmaScalar d a b c k t r z => withPfx ⟨r.code, false, z, c, 0⟩ (encVR 0x1D d a b k (2#2 ++ t.code) 4)
  | .vfnmaScalar d a b c k t r z => withPfx ⟨r.code, false, z, c, 0⟩ (encVR 0x1D d a b k (2#2 ++ t.code) 5)
  | .vfminScalar d a b k t z => withPfx ⟨0, false, z, 0, 0⟩ (encVR 0x1D d a b k (2#2 ++ t.code) 6)
  | .vfmaxScalar d a b k t z => withPfx ⟨0, false, z, 0, 0⟩ (encVR 0x1D d a b k (2#2 ++ t.code) 7)
  | .vfsqrt d a k t r z => withPfx ⟨r.code, false, z, 0, 0⟩ (encVR 0x1E d a 0 k (2#2 ++ t.code) 0)
  | .vfabs d a k t z => withPfx ⟨0, false, z, 0, 0⟩ (encVR 0x1E d a 0 k (2#2 ++ t.code) 1)
  | .vfneg d a k t z => withPfx ⟨0, false, z, 0, 0⟩ (encVR 0x1E d a 0 k (2#2 ++ t.code) 2)
  | .vfsgn d a b k t z => withPfx ⟨0, false, z, 0, 0⟩ (encVR 0x1E d a b k (2#2 ++ t.code) 3)
  | .vfrnd d a k t r z => withPfx ⟨r.code, false, z, 0, 0⟩ (encVR 0x1E d a 0 k (2#2 ++ t.code) 4)
  | .vfcls d a k t z => withPfx ⟨0, false, z, 0, 0⟩ (encVR 0x1E d a 0 k (2#2 ++ t.code) 5)
  | .vcvt d a x k t r sat z => withPfx ⟨r.code, sat, z, 0, 0⟩ (encVR 0x1F d a (0#1 ++ x.code) k t.code 0)
  | .vcvtn d a x k t r sat z => withPfx ⟨r.code, sat, z, 0, 0⟩ (encVR 0x1F d a (x.code 4) k (2#2 ++ t.code) 1)
  | .vcvtw d a x k t z => withPfx ⟨0, false, z, 0, 0⟩ (encVR 0x1F d a (x.code 4) k (2#2 ++ t.code) 2)
  | .vqmx d a x t r sat => withPfx ⟨r.code, sat, false, 0, 0⟩ (encVR 0x1F d a (x.code 9) 0 (2#2 ++ t.code) 3)
  | .vqq4 d a c t => withPfx ⟨0, false, false, c, 0⟩ (encVR 0x1F d a 0x10 0 (2#2 ++ t.code) 4)
  | .vdqmx d a x t r sat => withPfx ⟨r.code, sat, false, 0, 0⟩ (encVR 0x1F d a (x.code 9) 0 (2#2 ++ t.code) 5)
  | .vdqq4 d a c t r sat => withPfx ⟨r.code, sat, false, c, 0⟩ (encVR 0x1F d a 0x10 0 (2#2 ++ t.code) 6)
  | .vceq d a b k t z => withPfx ⟨0, false, z, 0, 0⟩ (encVR 0x20 (0#2 ++ d) a b k t.code 0)
  | .vcne d a b k t z => withPfx ⟨0, false, z, 0, 0⟩ (encVR 0x20 (0#2 ++ d) a b k t.code 1)
  | .vclt d a b k t z => withPfx ⟨0, false, z, 0, 0⟩ (encVR 0x20 (0#2 ++ d) a b k t.code 2)
  | .vcle d a b k t z => withPfx ⟨0, false, z, 0, 0⟩ (encVR 0x20 (0#2 ++ d) a b k t.code 3)
  | .vcgt d a b k t z => withPfx ⟨0, false, z, 0, 0⟩ (encVR 0x20 (0#2 ++ d) a b k t.code 4)
  | .vcge d a b k t z => withPfx ⟨0, false, z, 0, 0⟩ (encVR 0x20 (0#2 ++ d) a b k t.code 5)
  | .vceqScalar d a b k t z => withPfx ⟨0, false, z, 0, 0⟩ (encVR 0x21 (0#2 ++ d) a b k t.code 0)
  | .vcneScalar d a b k t z => withPfx ⟨0, false, z, 0, 0⟩ (encVR 0x21 (0#2 ++ d) a b k t.code 1)
  | .vcltScalar d a b k t z => withPfx ⟨0, false, z, 0, 0⟩ (encVR 0x21 (0#2 ++ d) a b k t.code 2)
  | .vcleScalar d a b k t z => withPfx ⟨0, false, z, 0, 0⟩ (encVR 0x21 (0#2 ++ d) a b k t.code 3)
  | .vcgtScalar d a b k t z => withPfx ⟨0, false, z, 0, 0⟩ (encVR 0x21 (0#2 ++ d) a b k t.code 4)
  | .vcgeScalar d a b k t z => withPfx ⟨0, false, z, 0, 0⟩ (encVR 0x21 (0#2 ++ d) a b k t.code 5)
  | .vperm d a b k t z => withPfx ⟨0, false, z, 0, 0⟩ (encVR 0x22 d a b k t.code 0)
  | .vbcst d b k t z => withPfx ⟨0, false, z, 0, 0⟩ (encVR 0x22 d 0 b k t.code 1)
  | .vslup d a b k t z => withPfx ⟨0, false, z, 0, 0⟩ (encVR 0x22 d a b k t.code 2)
  | .vsldn d a b k t z => withPfx ⟨0, false, z, 0, 0⟩ (encVR 0x22 d a b k t.code 3)
  | .vcompr d a k t => [encVR 0x22 d a 0 k t.code 4]
  | .vexpn d a k t z => withPfx ⟨0, false, z, 0, 0⟩ (encVR 0x22 d a 0 k t.code 5)
  | .vzip d a b k t z => withPfx ⟨0, false, z, 0, 0⟩ (encVR 0x22 d a b k t.code 6)
  | .vunzip d a b k t z => withPfx ⟨0, false, z, 0, 0⟩ (encVR 0x22 d a b k t.code 7)
  | .vredAdd d a k t => [encVR 0x23 d a 0 k t.code 0]
  | .vredMin d a k t => [encVR 0x23 d a 0 k t.code 1]
  | .vredMax d a k t => [encVR 0x23 d a 0 k t.code 2]
  | .vredAnd d a k t => [encVR 0x23 d a 0 k (0#1 ++ t.code) 3]
  | .vredOr d a k t => [encVR 0x23 d a 0 k (0#1 ++ t.code) 4]
  | .vredXor d a k t => [encVR 0x23 d a 0 k (0#1 ++ t.code) 5]
  | .vscanAdd d a k t z => withPfx ⟨0, false, z, 0, 0⟩ (encVR 0x24 d a 0 k t.code 0)
  | .vscanMin d a k t z => withPfx ⟨0, false, z, 0, 0⟩ (encVR 0x24 d a 0 k t.code 1)
  | .vscanMax d a k t z => withPfx ⟨0, false, z, 0, 0⟩ (encVR 0x24 d a 0 k t.code 2)
  | .vscanXor d a k t z => withPfx ⟨0, false, z, 0, 0⟩ (encVR 0x24 d a 0 k (0#1 ++ t.code) 3)
  | .mand d a b => [encVR 0x25 (0#2 ++ d) (0#2 ++ a) (0#2 ++ b) 0 0 0]
  | .mor d a b => [encVR 0x25 (0#2 ++ d) (0#2 ++ a) (0#2 ++ b) 0 0 1]
  | .mxor d a b => [encVR 0x25 (0#2 ++ d) (0#2 ++ a) (0#2 ++ b) 0 0 2]
  | .mandn d a b => [encVR 0x25 (0#2 ++ d) (0#2 ++ a) (0#2 ++ b) 0 0 3]
  | .mnot d a => [encVR 0x25 (0#2 ++ d) (0#2 ++ a) 0 0 0 4]
  | .mpopc d a => [encVR 0x25 d (0#2 ++ a) 0 0 0 5]
  | .mgets d a => [encVR 0x25 d (0#2 ++ a) 0 0 0 6]
  | .msets d a => [encVR 0x25 (0#2 ++ d) a 0 0 0 7]
  | .vmov d a k t z => withPfx ⟨0, false, z, 0, 0⟩ (encVR 0x26 d a 0 k t.code 0)
  | .vins d a b t => [encVR 0x26 d a b 0 t.code 1]
  | .vext d a b t => [encVR 0x26 d a b 0 t.code 2]
  | .vmovLane d k t z => withPfx ⟨0, false, z, 0, 0⟩ (encVR 0x26 d 0 0 k (0#1 ++ t.code) 3)
  | .mzero acc slot => [encMU acc 0 0 slot 0 0]
  | .mma acc a b slot => [encMU acc (a ++ 0#1) (b ++ 0#1) slot 0 1]
  | .mmaSp acc a b slot => [encMU acc (a ++ 0#1) (b ++ 0#1) slot 0 2]
  | .mld acc a slot => [encMU acc (a ++ 0#1) 0 slot 0 3]
  | .mst acc a slot => [encMU acc (a ++ 0#1) 0 slot 0 4]
  | .mrd acc a slot r sat => withPfx ⟨r.code, sat, false, 0, 0⟩ (encMU acc (a ++ 0#1) 0 slot 0 5)
  | .mrdx acc a b slot n r sat => withPfx ⟨r.code, sat, false, 0, 0⟩ (encMU acc (a ++ 0#1) (b ++ 0#1) slot n 6)
  | .xop n d a b c x k z => withPfx ⟨0, false, z, c, 0#10 ++ x⟩ (encXO n d a b k)
  | .xld slot a => [encRG 0x3A (0#1 ++ slot) a 0#5 0#5 0]
  | .xunl slot a => [encRG 0x3A (0#1 ++ slot) a 0#5 0#5 1]
  | .xq d a => [encRG 0x3A d a 0#5 0#5 2]
  | .send a b slot idx rels => [encTK 0x40 a b slot idx (relsCode rels)]
  | .sendv a b slot idx rels => [encTK 0x41 a b slot (0#5 ++ idx) (relsCode rels)]
  | .sig a slot rels => [encTK 0x42 a 0 slot 0 (relsCode rels)]
  | .sw p a b slot rels => [encSW 0x43 p a b slot (relsCode rels) 0]
  | .rearm slot a b => [encRG 0x44 (0#1 ++ slot) a b 0#5 0]
  | .fret => [encRG 0x44 0 0 0 0 1]
  | .tagwin a b c => [encRG 0x44 0#5 a b c 2]
  | .mkref d a cb => [encIM 0x45 d a 0 cb]
  | .ld idx a b slot t => [encGL 0x48 idx a b slot t.code]
  | .ldLc idx a b slot t => [encGL 0x49 idx a b slot t.code]
  | .st d a b slot e => [encGS d a b slot e.code]
  | .vld v a b slot k e z => withPfx ⟨0, false, z, 0, 0⟩ (encGV v a b slot k e.code 0)
  | .vldStr v a b slot k e z => withPfx ⟨0, false, z, 0, 0⟩ (encGV v a b slot k e.code 1)
  | .vldIdx v a b slot k e z => withPfx ⟨0, false, z, 0, 0⟩ (encGV v a b slot k e.code 2)
  | .vst d a b slot k e => [encGW d a b slot k e.code 0]
  | .vstStr d a b slot k e => [encGW d a b slot k e.code 1]
  | .pf a b => [encGL 0x4D 0 a b 0 0]
  | .pfLc a b => [encGL 0x4D 0 a b 0 1]
  | .gamoAdd idx a b slot w ord sc => [encPfx ⟨sc.code, false, false, 0, 0#10 ++ BitVec.ofBool w ++ 0#4⟩, encGL 0x4E idx a b slot ord.code]
  | .gamoAnd idx a b slot w ord sc => [encPfx ⟨sc.code, false, false, 0, 0#10 ++ BitVec.ofBool w ++ 1#4⟩, encGL 0x4E idx a b slot ord.code]
  | .gamoOr idx a b slot w ord sc => [encPfx ⟨sc.code, false, false, 0, 0#10 ++ BitVec.ofBool w ++ 2#4⟩, encGL 0x4E idx a b slot ord.code]
  | .gamoXor idx a b slot w ord sc => [encPfx ⟨sc.code, false, false, 0, 0#10 ++ BitVec.ofBool w ++ 3#4⟩, encGL 0x4E idx a b slot ord.code]
  | .gamoMinSigned idx a b slot w ord sc => [encPfx ⟨sc.code, false, false, 0, 0#10 ++ BitVec.ofBool w ++ 4#4⟩, encGL 0x4E idx a b slot ord.code]
  | .gamoMaxSigned idx a b slot w ord sc => [encPfx ⟨sc.code, false, false, 0, 0#10 ++ BitVec.ofBool w ++ 5#4⟩, encGL 0x4E idx a b slot ord.code]
  | .gamoMinUnsigned idx a b slot w ord sc => [encPfx ⟨sc.code, false, false, 0, 0#10 ++ BitVec.ofBool w ++ 6#4⟩, encGL 0x4E idx a b slot ord.code]
  | .gamoMaxUnsigned idx a b slot w ord sc => [encPfx ⟨sc.code, false, false, 0, 0#10 ++ BitVec.ofBool w ++ 7#4⟩, encGL 0x4E idx a b slot ord.code]
  | .gamoSwap idx a b slot w ord sc => [encPfx ⟨sc.code, false, false, 0, 0#10 ++ BitVec.ofBool w ++ 8#4⟩, encGL 0x4E idx a b slot ord.code]
  | .gamoCas idx a b c slot w ord sc => [encPfx ⟨sc.code, false, false, c, 0#10 ++ BitVec.ofBool w ++ 9#4⟩, encGL 0x4E idx a b slot ord.code]
  | .gamoFadd idx a b slot w ord sc => [encPfx ⟨sc.code, false, false, 0, 0#10 ++ BitVec.ofBool w ++ 10#4⟩, encGL 0x4E idx a b slot ord.code]
  | .fence sc => [0x50#7 ++ 0#22 ++ sc.code]
  | .cpy a b c slot sc => [encSW 0x51 a b c slot sc.code 0]
  | .gth a b c slot sc => [encSW 0x51 a b c slot sc.code 1]
  | .sct a b c slot sc => [encSW 0x51 a b c slot sc.code 2]
  | .isect a b c slot sc => [encSW 0x51 a b c slot sc.code 3]
  | .smerge a b c slot sc => [encSW 0x51 a b c slot sc.code 4]
  | .cmpct a b c slot sc => [encSW 0x51 a b c slot sc.code 5]
  | .rply => [encRG 0x60 0 0 0 0 0]
  | .rsup a => [encRG 0x60 0#5 a 0#5 0#5 1]
  | .kill => [encRG 0x60 0 0 0 0 2]
  | .killL a => [encRG 0x60 0#5 a 0#5 0#5 3]
  | .frr d => [encRG 0x60 d 0#5 0#5 0#5 4]
  | .tlbi slot a b => [encRG 0x60 (0#1 ++ slot) a b 0#5 5]
  | .tlbia slot a => [encRG 0x60 (0#1 ++ slot) a 0#5 0#5 6]
  | .ctxsv slot a => [encRG 0x60 (0#1 ++ slot) a 0#5 0#5 7]
  | .ctxrs slot a b => [encRG 0x60 (0#1 ++ slot) a b 0#5 8]
  | .halt slot a => [encRG 0x60 (0#1 ++ slot) a 0#5 0#5 9]
  | .rdsr d num => [encIM 0x61 d 0 0 num]
  | .wrsr num d => [encIM 0x61 d 0 1 num]
  | _ => []

end Sys2Proof
end

