-- ==== Sys2Proof/Machine/Numbers.lean ====
section
/-! DEFINITION. Number formats, exact values and the one rounding of each result (R50 to R68). -/

namespace Sys2Proof.Machine

/-! ### Exact values -/

/-- The exact number `num` × 2^`exp` / `den`, with `den` positive. -/
structure Exact where
  num : Int
  exp : Int
  den : Nat
  deriving DecidableEq, Repr, Inhabited

/-- 2^k as a natural number, 1 when k is negative. -/
def pow2 (k : Int) : Nat := 2 ^ k.toNat

/-- An integer as an exact number. -/
def Exact.ofInt (n : Int) : Exact := ⟨n, 0, 1⟩

/-- The sum, exactly. -/
def Exact.add (x y : Exact) : Exact :=
  let e := min x.exp y.exp
  let a := x.num * pow2 (x.exp - e)
  let b := y.num * pow2 (y.exp - e)
  if x.den = y.den then ⟨a + b, e, x.den⟩ else ⟨a * y.den + b * x.den, e, x.den * y.den⟩

/-- The negation. -/
def Exact.neg (x : Exact) : Exact := ⟨-x.num, x.exp, x.den⟩

/-- The difference, exactly. -/
def Exact.sub (x y : Exact) : Exact := x.add y.neg

/-- The product, exactly. -/
def Exact.mul (x y : Exact) : Exact := ⟨x.num * y.num, x.exp + y.exp, x.den * y.den⟩

/-- The quotient, exactly, for a divisor that is not zero. -/
def Exact.div (x y : Exact) : Exact :=
  ⟨x.num * y.num.sign * y.den, x.exp - y.exp, x.den * y.num.natAbs⟩

/-- The number times 2^k. -/
def Exact.scale (x : Exact) (k : Int) : Exact := ⟨x.num, x.exp + k, x.den⟩

/-- The magnitude. -/
def Exact.abs (x : Exact) : Exact := ⟨x.num.natAbs, x.exp, x.den⟩

/-- Whether the number is below another. -/
def Exact.lt (x y : Exact) : Bool := (x.sub y).num < 0

/-- Whether two numbers are equal. -/
def Exact.eq (x y : Exact) : Bool := (x.sub y).num == 0

/-- Whether the number is zero. -/
def Exact.isZero (x : Exact) : Bool := x.num == 0

/-- The magnitude as a quotient of natural numbers in units of 2^u. -/
def Exact.units (x : Exact) (u : Int) : Nat × Nat :=
  (x.num.natAbs * pow2 (x.exp - u), x.den * pow2 (u - x.exp))

/-- The largest integer at most the number (R223, Floor). -/
def Exact.floor (x : Exact) : Int :=
  let n := x.num * pow2 x.exp
  let d : Int := x.den * pow2 (-x.exp)
  n.fdiv d

/-- The least integer at least the number (R184, Ceil). -/
def Exact.ceil (x : Exact) : Int := -(x.neg.floor)

/-- The exponent of the leading bit of a number that is not zero (R182: Floor(Log2(m))). -/
def Exact.log2 (x : Exact) : Int :=
  let e : Int := (x.num.natAbs.log2 : Int) - (x.den.log2 : Int) + x.exp
  let (n, d) := x.units e
  if n < d then e - 1 else e

/-! ### Rounding an exact magnitude to an integer -/

/-- A quotient n / d rounded to an integer in a direction, for a value of the given sign, and whether it was exact
(R62, R63). -/
def roundQuotient (r : Round) (negative : Bool) (n d : Nat) : Nat × Bool :=
  let q := n / d
  let rem := n % d
  if rem = 0 then (q, true) else
  match r with
  | .rne => (if 2 * rem < d then q else if d < 2 * rem then q + 1 else q + q % 2, false)
  | .rtz => (q, false)
  | .rdn => (if negative then q + 1 else q, false)
  | .rup => (if negative then q else q + 1, false)
  | .rod => (q ||| 1, false)

/-! ### Floating formats -/

/-- What the encodings above the finite numbers are (R52). -/
inductive FKind where
  /-- Infinities and NaNs at the exponent of all ones. -/
  | ieee
  /-- No infinity; all ones is NaN (E4M3). -/
  | nanOnly
  /-- Finite numbers only. -/
  | finite
  deriving DecidableEq, Repr, Inhabited

/-- A floating format: exponent and mantissa widths, bias and special encodings (R51, R52). -/
structure FFmt where
  ebits : Nat
  mbits : Nat
  bias : Nat
  kind : FKind
  deriving DecidableEq, Repr, Inhabited

def fmtF64 : FFmt := ⟨11, 52, 1023, .ieee⟩
def fmtF32 : FFmt := ⟨8, 23, 127, .ieee⟩
def fmtBf16 : FFmt := ⟨8, 7, 127, .ieee⟩
def fmtF16 : FFmt := ⟨5, 10, 15, .ieee⟩
def fmtE4m3 : FFmt := ⟨4, 3, 7, .nanOnly⟩
def fmtE5m2 : FFmt := ⟨5, 2, 15, .ieee⟩
def fmtE2m3 : FFmt := ⟨2, 3, 1, .finite⟩
def fmtE3m2 : FFmt := ⟨3, 2, 3, .finite⟩
def fmtE2m1 : FFmt := ⟨2, 1, 1, .finite⟩

end Sys2Proof.Machine

namespace Sys2Proof

/-- The format of a floating type (R120, R51). -/
def FloatTy.fmt : FloatTy → Machine.FFmt
  | .f64 => Machine.fmtF64 | .f32 => Machine.fmtF32 | .bf16 => Machine.fmtBf16 | .f16 => Machine.fmtF16

/-- The format of a narrow element (R51). -/
def NarrowFmt.fmt : NarrowFmt → Machine.FFmt
  | .e4m3 => Machine.fmtE4m3 | .e5m2 => Machine.fmtE5m2 | .e2m3 => Machine.fmtE2m3 | .e3m2 => Machine.fmtE3m2 | .e2m1 => Machine.fmtE2m1

end Sys2Proof

namespace Sys2Proof.Machine

/-- The width of an encoding. -/
def FFmt.width (f : FFmt) : Nat := 1 + f.ebits + f.mbits

/-- The exponent field of the largest finite number. -/
def FFmt.maxExp (f : FFmt) : Nat :=
  match f.kind with
  | .ieee => 2 ^ f.ebits - 2
  | _ => 2 ^ f.ebits - 1

/-- The mantissa field of the largest finite number. -/
def FFmt.maxMan (f : FFmt) : Nat :=
  match f.kind with
  | .nanOnly => 2 ^ f.mbits - 2
  | _ => 2 ^ f.mbits - 1

/-- What an encoding stands for: a NaN, an infinity, or a finite number with its sign. -/
inductive FVal where
  | nan (signalling : Bool)
  | inf (negative : Bool)
  | fin (negative : Bool) (x : Exact)
  deriving DecidableEq, Repr, Inhabited

/-- The value of an encoding (R52). -/
def FFmt.decode (f : FFmt) (w : Nat) : FVal :=
  let s := w / 2 ^ (f.ebits + f.mbits) % 2 == 1
  let e := w / 2 ^ f.mbits % 2 ^ f.ebits
  let m := w % 2 ^ f.mbits
  let top := 2 ^ f.ebits - 1
  let sg (n : Nat) : Int := if s then -(n : Int) else n
  let finite : FVal :=
    if e = 0 then .fin s ⟨sg m, 1 - (f.bias : Int) - f.mbits, 1⟩
    else .fin s ⟨sg (2 ^ f.mbits + m), (e : Int) - f.bias - f.mbits, 1⟩
  match f.kind with
  | .ieee =>
    if e = top then
      if m = 0 then .inf s else .nan (m / 2 ^ (f.mbits - 1) == 0)
    else finite
  | .nanOnly => if e = top ∧ m = 2 ^ f.mbits - 1 then .nan false else finite
  | .finite => finite

/-- The encoding of a sign, an exponent field and a mantissa field. -/
def FFmt.pack (f : FFmt) (s : Bool) (e m : Nat) : Nat :=
  (if s then 2 ^ (f.ebits + f.mbits) else 0) + e * 2 ^ f.mbits + m

/-- The canonical NaN (R53); a format without a NaN gives +0 (R66). -/
def FFmt.canonicalNan (f : FFmt) : Nat :=
  match f.kind with
  | .ieee => f.pack false (2 ^ f.ebits - 1) (2 ^ (f.mbits - 1))
  | .nanOnly => f.pack false (2 ^ f.ebits - 1) (2 ^ f.mbits - 1)
  | .finite => 0

/-- The infinity of a sign, for a format that has infinities. -/
def FFmt.infinity (f : FFmt) (s : Bool) : Nat := f.pack s (2 ^ f.ebits - 1) 0

/-- The largest finite number of a sign. -/
def FFmt.largest (f : FFmt) (s : Bool) : Nat := f.pack s f.maxExp f.maxMan

/-- The zero of a sign. -/
def FFmt.zero (f : FFmt) (s : Bool) : Nat := f.pack s 0 0

/-! ### Flags (R28, R68) -/

def flagInvalid : BitVec 5 := 1
def flagDivZero : BitVec 5 := 2
def flagOverflow : BitVec 5 := 4
def flagUnderflow : BitVec 5 := 8
def flagInexact : BitVec 5 := 16

/-- A result with the flags it raises. -/
abbrev Flagged := Nat × BitVec 5

/-- An overflowing result of a sign (R64, R66). -/
def overflowed (f : FFmt) (r : Round) (sat : Bool) (s : Bool) : Nat :=
  let infinite : Bool :=
    match r with
    | .rne => true
    | .rtz | .rod => false
    | .rdn => s
    | .rup => !s
  if infinite && !sat then
    match f.kind with
    | .ieee => f.infinity s
    | .nanOnly => f.canonicalNan
    | .finite => f.largest s
  else f.largest s

/-- An exact number that is not zero, rounded once (R63, R64, R66). -/
def roundTo (f : FFmt) (r : Round) (sat : Bool) (x : Exact) : Flagged :=
  let s : Bool := x.num < 0
  let emin : Int := 1 - (f.bias : Int)
  let lead := x.log2
  -- with an unbounded exponent
  let u0 := lead - f.mbits
  let (n0, d0) := x.units u0
  let (q0, _) := roundQuotient r s n0 d0
  let unbounded : Exact := ⟨q0, u0, 1⟩
  let largest : Exact := ⟨2 ^ f.mbits + f.maxMan, (f.maxExp : Int) - f.bias - f.mbits, 1⟩
  if largest.lt unbounded then (overflowed f r sat s, flagOverflow ||| flagInexact)
  else
    let u := max lead emin - f.mbits
    let (n, d) := x.units u
    let (q, exact) := roundQuotient r s n d
    let tiny := unbounded.lt ⟨1, emin, 1⟩
    let fl := if exact then 0 else if tiny then flagUnderflow ||| flagInexact else flagInexact
    if q < 2 ^ f.mbits then (f.pack s 0 q, fl)
    else if q < 2 ^ (f.mbits + 1) then (f.pack s (u + f.mbits + f.bias).toNat (q - 2 ^ f.mbits), fl)
    else (f.pack s (u + f.mbits + f.bias + 1).toNat 0, fl)

/-- The exact sum of two finite numbers rounded once, with the sign of an exact zero of R53. -/
def roundSum (f : FFmt) (r : Round) (sx : Bool) (x : Exact) (sy : Bool) (y : Exact) : Flagged :=
  let z := x.add y
  if z.isZero then
    if x.isZero && y.isZero && sx == sy then (f.zero sx, 0) else (f.zero (r == .rdn), 0)
  else roundTo f r false z

/-- Invalid when some operand is a signalling NaN (R68). -/
def signals (vs : List FVal) : BitVec 5 :=
  if vs.any (fun v => v == .nan true) then flagInvalid else 0

/-- Whether a value is a NaN. -/
def FVal.isNan : FVal → Bool
  | .nan _ => true
  | _ => false

end Sys2Proof.Machine
end

