-- ==== Sys2Proof/Machine/Flags.lean ====
section
/-! DEFINITION. The floating operations with the flags they raise (R53, R63 to R68, R153, R154, R177), on encodings. -/

namespace Sys2Proof.Machine

/-- a + b (R53, R63, R68). -/
def floatAdd (f : FFmt) (r : Round) (a b : Nat) : Flagged :=
  match f.decode a, f.decode b with
  | .fin sx x, .fin sy y => roundSum f r sx x sy y
  | .inf s, .inf t => if s == t then (f.infinity s, 0) else (f.canonicalNan, flagInvalid)
  | .inf s, .fin _ _ => (f.infinity s, 0)
  | .fin _ _, .inf t => (f.infinity t, 0)
  | va, vb => (f.canonicalNan, signals [va, vb])

/-- An encoding with its sign bit inverted (R53). -/
def floatNegBits (f : FFmt) (a : Nat) : Nat := (a ^^^ 2 ^ (f.ebits + f.mbits)) % 2 ^ f.width

/-- An encoding with its sign bit cleared. -/
def floatAbsBits (f : FFmt) (a : Nat) : Nat := a % 2 ^ (f.ebits + f.mbits)

/-- An encoding with the sign bit of another. -/
def floatSignBits (f : FFmt) (a b : Nat) : Nat :=
  floatAbsBits f a + (b / 2 ^ (f.ebits + f.mbits) % 2) * 2 ^ (f.ebits + f.mbits)

/-- a − b (R53, R63, R68): the sum with b's sign inverted, where a NaN gives the canonical NaN. -/
def floatSub (f : FFmt) (r : Round) (a b : Nat) : Flagged := floatAdd f r a (floatNegBits f b)

/-- a × b (R63, R68). -/
def floatMul (f : FFmt) (r : Round) (a b : Nat) : Flagged :=
  match f.decode a, f.decode b with
  | .fin sx x, .fin sy y => if x.isZero || y.isZero then (f.zero (sx != sy), 0) else roundTo f r false (x.mul y)
  | .inf s, .inf t => (f.infinity (s != t), 0)
  | .inf s, .fin t y => if y.isZero then (f.canonicalNan, flagInvalid) else (f.infinity (s != t), 0)
  | .fin t y, .inf s => if y.isZero then (f.canonicalNan, flagInvalid) else (f.infinity (s != t), 0)
  | va, vb => (f.canonicalNan, signals [va, vb])

/-- a / b (R63, R68). -/
def floatDiv (f : FFmt) (r : Round) (a b : Nat) : Flagged :=
  match f.decode a, f.decode b with
  | .fin sx x, .fin sy y =>
    if y.isZero then
      if x.isZero then (f.canonicalNan, flagInvalid) else (f.infinity (sx != sy), flagDivZero)
    else if x.isZero then (f.zero (sx != sy), 0)
    else roundTo f r false (x.div y)
  | .inf _, .inf _ => (f.canonicalNan, flagInvalid)
  | .inf s, .fin t _ => (f.infinity (s != t), 0)
  | .fin s _, .inf t => (f.zero (s != t), 0)
  | va, vb => (f.canonicalNan, signals [va, vb])

/-- The integer square root of n, one bit at a time from bit `k` − 1 down. -/
def isqrt (n : Nat) (k : Nat) (r : Nat) : Nat :=
  match k with
  | 0 => r
  | k + 1 =>
    let t := r + 2 ^ k
    isqrt n k (if t * t ≤ n then t else r)

/-- The square root of a positive exact number with denominator 1, exactly or as a number that every format here rounds
alike: the root cut after 70 bits or more and half a unit added when it is not exact. -/
def sqrtExact (x : Exact) : Exact :=
  let n := x.num.natAbs
  let e := x.exp
  let sh : Nat := 160 + (if e % 2 == 0 then 0 else 1)
  let m := n * 2 ^ sh
  let e' := (e - sh) / 2
  let r := isqrt m (m.log2 / 2 + 1) 0
  if r * r = m then ⟨r, e', 1⟩ else ⟨2 * r + 1, e' - 1, 1⟩

/-- The square root (R63, R68); −0 for −0. -/
def floatSqrt (f : FFmt) (r : Round) (a : Nat) : Flagged :=
  match f.decode a with
  | .fin s x =>
    if x.isZero then (f.zero s, 0)
    else if s then (f.canonicalNan, flagInvalid)
    else roundTo f r false (sqrtExact x)
  | .inf s => if s then (f.canonicalNan, flagInvalid) else (f.infinity false, 0)
  | .nan sg => (f.canonicalNan, if sg then flagInvalid else 0)

/-- a × b + c rounded once (R63, R68): ∞ × 0 is invalid whatever the addend. -/
def floatFma (f : FFmt) (r : Round) (a b c : Nat) : Flagged :=
  let va := f.decode a
  let vb := f.decode b
  let vc := f.decode c
  let prodInvalid : Bool :=
    match va, vb with
    | .inf _, .fin _ y => y.isZero
    | .fin _ x, .inf _ => x.isZero
    | _, _ => false
  if prodInvalid then (f.canonicalNan, flagInvalid)
  else if va.isNan || vb.isNan || vc.isNan then (f.canonicalNan, signals [va, vb, vc])
  else
    let sp : Bool := (a / 2 ^ (f.ebits + f.mbits) % 2 == 1) != (b / 2 ^ (f.ebits + f.mbits) % 2 == 1)
    match va, vb, vc with
    | .fin _ x, .fin _ y, .fin sc z => roundSum f r sp (x.mul y) sc z
    | .fin _ _, .fin _ _, .inf t => (f.infinity t, 0)
    | _, _, .inf t => if sp == t then (f.infinity t, 0) else (f.canonicalNan, flagInvalid)
    | _, _, _ => (f.infinity sp, 0)

/-- c − a × b rounded once, taken as c + (−(a × b)) (R150). -/
def floatFnma (f : FFmt) (r : Round) (a b c : Nat) : Flagged := floatFma f r (floatNegBits f a) b c

/-- The order of two values that are no NaNs: −1, 0 or 1; −0 equals +0. -/
def FVal.compare : FVal → FVal → Int
  | .inf s, .inf t => if s == t then 0 else if s then -1 else 1
  | .inf s, _ => if s then -1 else 1
  | _, .inf t => if t then 1 else -1
  | .fin _ x, .fin _ y => (x.sub y).num.sign
  | _, _ => 0

/-- The smaller (or larger) operand with −0 below +0, NaNs as R153 gives. -/
def floatMinMax (f : FFmt) (larger : Bool) (a b : Nat) : Flagged :=
  let va := f.decode a
  let vb := f.decode b
  let fl := signals [va, vb]
  if va.isNan && vb.isNan then (f.canonicalNan, fl)
  else if va.isNan then (b, fl)
  else if vb.isNan then (a, fl)
  else
    let c := va.compare vb
    let aFirst : Bool :=      -- a is the smaller
      if c = 0 then a / 2 ^ (f.ebits + f.mbits) % 2 == 1 else decide (c < 0)
    (if aFirst != larger then a else b, fl)

/-- The relation tested by a compare. -/
inductive Rel where
  | eq | ne | lt | le | gt | ge
  deriving DecidableEq, Repr, Inhabited

/-- Whether a relation holds of an order. -/
def Rel.holds (p : Rel) (c : Int) : Bool :=
  match p with
  | .eq => c == 0 | .ne => c != 0 | .lt => decide (c < 0) | .le => decide (c ≤ 0) | .gt => decide (0 < c)
  | .ge => decide (0 ≤ c)

/-- A floating compare (R153, R178): an unordered pair gives false, but true for `ne`; `eq` and `ne` raise invalid for a
signalling NaN, the others for any NaN. -/
def floatCompare (f : FFmt) (p : Rel) (a b : Nat) : Bool × BitVec 5 :=
  let va := f.decode a
  let vb := f.decode b
  if va.isNan || vb.isNan then
    (p == .ne, if p == .eq || p == .ne then signals [va, vb] else flagInvalid)
  else (p.holds (va.compare vb), 0)

/-- The one-hot class of R154. -/
def floatClass (f : FFmt) (a : Nat) : Nat :=
  let e := a / 2 ^ f.mbits % 2 ^ f.ebits
  match f.decode a with
  | .nan sg => if sg then 2 ^ 8 else 2 ^ 9
  | .inf s => if s then 2 ^ 0 else 2 ^ 7
  | .fin s x =>
    if x.isZero then if s then 2 ^ 3 else 2 ^ 4
    else if e = 0 then if s then 2 ^ 2 else 2 ^ 5
    else if s then 2 ^ 1 else 2 ^ 6

/-- Rounded to an integral value (R177, `vfrnd`): never inexact. A non-zero element that rounds to zero gives the zero of its own
sign. Log 68 (DESIGN CHOICE). -/
def floatToIntegral (f : FFmt) (r : Round) (a : Nat) : Flagged :=
  match f.decode a with
  | .nan sg => (f.canonicalNan, if sg then flagInvalid else 0)
  | .inf _ => (a % 2 ^ f.width, 0)
  | .fin s x =>
    if x.isZero then (a % 2 ^ f.width, 0)
    else
      let (n, d) := x.units 0
      let (q, _) := roundQuotient r s n d
      if q = 0 then (f.zero s, 0)
      else ((roundTo f .rtz false ⟨if s then -(q : Int) else q, 0, 1⟩).1, 0)

/-! ### Conversions (R65 to R67) -/

/-- Every finite value of the source is one of the destination (R65, from R51). -/
def widens (src dst : FFmt) : Bool :=
  decide (src.mbits ≤ dst.mbits) &&
  decide ((1 : Int) - dst.bias - dst.mbits ≤ 1 - (src.bias : Int) - src.mbits) &&
  !(Exact.lt ⟨2 ^ dst.mbits + dst.maxMan, (dst.maxExp : Int) - dst.bias - dst.mbits, 1⟩
      ⟨2 ^ src.mbits + src.maxMan, (src.maxExp : Int) - src.bias - src.mbits, 1⟩)

/-- An infinity of a sign as a narrowing conversion delivers it (R66). -/
def convertInfinity (dst : FFmt) (sat : Bool) (s : Bool) : Flagged :=
  match dst.kind with
  | .ieee => if sat then (dst.largest s, 0) else (dst.infinity s, 0)
  | .nanOnly => if sat then (dst.largest s, 0) else (dst.canonicalNan, flagInvalid)
  | .finite => (dst.largest s, flagInvalid)

/-- A NaN as a narrowing conversion delivers it (R66). -/
def convertNan (dst : FFmt) (signalling : Bool) : Flagged :=
  match dst.kind with
  | .finite => (0, flagInvalid)
  | _ => (dst.canonicalNan, if signalling then flagInvalid else 0)

/-- An exact value converted to a format, with the rounding, saturation and flags of R64 and R66. -/
def convertValue (dst : FFmt) (r : Round) (sat : Bool) (v : FVal) : Flagged :=
  match v with
  | .nan sg => convertNan dst sg
  | .inf s => convertInfinity dst sat s
  | .fin s x => if x.isZero then (dst.zero s, 0) else roundTo dst r sat x

/-- A float-to-float conversion: a widening keeps an infinity whatever SAT (R65), a narrowing follows R66. -/
def convertFloat (src dst : FFmt) (r : Round) (sat : Bool) (a : Nat) : Flagged :=
  convertValue dst r (sat && !(widens src dst)) (src.decode a)

/-- The range of an integer type of `w` bits. -/
def intRange (signed : Bool) (w : Nat) : Int × Int :=
  if signed then (-(2 ^ (w - 1) : Nat), (2 ^ (w - 1) : Nat) - 1) else (0, (2 ^ w : Nat) - 1)

/-- A float-to-integer conversion (R67): the integer and the flags. Whether a value lies beyond the range is judged of the
rounded integer. Log 58 (DESIGN CHOICE). -/
def floatToInt (src : FFmt) (signed : Bool) (w : Nat) (r : Round) (a : Nat) : Int × BitVec 5 :=
  let (lo, hi) := intRange signed w
  match src.decode a with
  | .nan _ => (0, flagInvalid)
  | .inf s => (if s then lo else hi, flagInvalid)
  | .fin s x =>
    let (n, d) := x.units 0
    let (q, exact) := roundQuotient r s n d
    let z : Int := if s then -(q : Int) else q
    if z < lo then (lo, flagInvalid)
    else if hi < z then (hi, flagInvalid)
    else (z, if exact then 0 else flagInexact)

/-- An integer-to-float conversion (R65, R66). -/
def intToFloat (dst : FFmt) (r : Round) (sat : Bool) (z : Int) : Flagged :=
  if z = 0 then (dst.zero false, 0) else roundTo dst r sat (.ofInt z)

/-- An integer-to-integer conversion (R65): keeps the low bits, or clamps with `.sat`. -/
def intToInt (signed : Bool) (w : Nat) (sat : Bool) (z : Int) : Int :=
  let (lo, hi) := intRange signed w
  if sat then max lo (min hi z) else z

end Sys2Proof.Machine
end

