-- ==== Sys2Proof/Config.lean ====
section
/-! DEFINITION. What the specification leaves open: free values, which no proof can see, and values that each device
fixes. Every constant here is opaque; the assumption log names each one. -/

namespace Sys2Proof.Config

/-- An undefined scalar register of an instance with this seed (R6, R40). Log 3 (DESIGN CHOICE). -/
opaque freeScalar (seed reg : Nat) : W64

/-- An undefined vector register of an instance with this seed (R6, R40). Log 3 (DESIGN CHOICE). -/
opaque freeVector (seed reg : Nat) : VWord

/-- An undefined mask register of an instance with this seed (R6, R189). Log 3 (DESIGN CHOICE). -/
opaque freeMask (seed reg : Nat) : W64

/-- An undefined data word of a frame created with this seed (R6, R33). Log 3 (DESIGN CHOICE). -/
opaque freeFrameWord (seed word : Nat) : W64

/-- The clocks of its own that a site counts in the step with this number (R14). Log 12 (DESIGN CHOICE). -/
opaque clocks (tick : Nat) : Nat

/-- The ticks of the 100 MHz oscillator that pass in the step with this number (R348). Log 12 (DESIGN CHOICE). -/
opaque oscillatorTicks (tick : Nat) : Nat

/-- A choice that the specification leaves to the hardware, in the step with this number: which free entry of a
matching store or request table is taken, which value of a race is seen, and the like. Log 11 (DESIGN CHOICE), 65 (DESIGN CHOICE). -/
opaque choice (tick which : Nat) : Nat

/-- Whether a racing read of a unit of scratch returns the old contents in the step with this number, for the command or MU
instruction with this request-table entry (R102, R196). Log 65 (DESIGN CHOICE). -/
opaque raceReads (tick hidx unit : Nat) : Bool

/-- Whether a racing write of a unit of scratch in the step with this number gives way to the commands and MU instructions that
write the unit (R102, R196). Log 65 (DESIGN CHOICE). -/
opaque raceYields (tick unit : Nat) : Bool

/-- The silicon revision of the device (R318, R393, R405). Log 13 (DESIGN CHOICE). -/
opaque revision : BitVec 8

/-- Whether the Ed25519 signature over these bytes verifies under the fused key (R354). Log 14 (DESIGN CHOICE). -/
opaque ed25519Verifies (message signature : List Byte) : Bool

/-- Whether the ML-DSA-65 signature over these bytes verifies under the fused key (R354). Log 14 (DESIGN CHOICE). -/
opaque mldsa65Verifies (message signature : List Byte) : Bool

/-- The fused minimum of the security version number (R354). Log 14 (DESIGN CHOICE). -/
opaque fusedMinimumSvn : Nat

/-- Whether the read of the boot flash fails at this package reset (R414, BOOTERR 5). Log 15 (DESIGN CHOICE). -/
opaque flashReadFails (tick : Nat) : Bool

/-- The SHA-384 digest of a message, 48 bytes (R405, R418). Log 14 (DESIGN CHOICE). -/
opaque sha384 (message : List Byte) : BitVec 384

/-- The Ed25519 signature of the device identity over a message, 64 bytes (R405, R417). Log 14 (DESIGN CHOICE). -/
opaque ed25519Sign (message : List Byte) : BitVec 512

/-- The ML-DSA-65 signature of the device identity over a message, 3,309 bytes (R405, R417). Log 14 (DESIGN CHOICE). -/
opaque mldsa65Sign (message : List Byte) : BitVec 26472

/-- The public keys of the device identity, Ed25519 of 32 bytes and ML-DSA-65 of 1,952 (R417). Log 13 (DESIGN CHOICE). -/
opaque ed25519Public : BitVec 256

/-- The ML-DSA-65 public key of the device identity (R417). Log 13 (DESIGN CHOICE). -/
opaque mldsa65Public : BitVec 15616

/-- The Sahevo certificate chain for both public keys (R417). Log 13 (DESIGN CHOICE). -/
opaque certificateChain (ed25519 : BitVec 256) (mldsa65 : BitVec 15616) : List Byte

/-- The 128-bit serial of the device identity (R405, R417). Log 13 (DESIGN CHOICE). -/
opaque deviceSerial : BitVec 128

/-- Whether a host read or write leaving through a window succeeds in the step with this number (R387).
Log 16 (DESIGN CHOICE). -/
opaque hostAnswers (tick : Nat) : Bool

/-- The bytes that a device read of a host which fails leaves in the poisoned units that it returns, as one number
(R105, R387). Log 16 (DESIGN CHOICE). -/
opaque failedRead (tick pa : Nat) : Nat

/-- The free package memory that the firmware counts, in bytes (R409). Log 17 (DESIGN CHOICE). -/
opaque freePackageMemory (tick : Nat) : Nat

/-- Whether the links run as four x8 after the package reset in this step (R314). Log 5 (DESIGN CHOICE). -/
opaque fourLinks (tick : Nat) : Bool

/-- Where the launch units put the copy of a packet in Ringmaster memory, in units of 128 bytes (R347).
Log 18 (DESIGN CHOICE). -/
opaque packetCopy (tick : Nat) : Nat

/-- Where the security root puts the sections of the firmware body in Ringmaster memory (R354): for each, at 2 × its number,
the bytes that it leaves free before it, and at the next number its place among the others. Log 18 (DESIGN CHOICE). -/
opaque sectionPlace (tick sect : Nat) : Nat

/-- A word of the record that escalates a hardware error in a control structure (R411). Log 19 (DESIGN CHOICE). -/
opaque errorRecord (tick word : Nat) : W64

/-- A byte that a unit holds after an uncorrectable error (R104, R411). Log 19 (DESIGN CHOICE). -/
opaque damagedByte (tick off : Nat) : Byte

/-- The host bus address at which a resume finds the buffer of a manifest (R405, R406). Log 18 (DESIGN CHOICE). -/
opaque resumeBuffer (tick : Nat) : Nat

/-- The offset of the first unit of a freeze's buffer at which a host write fails, if one does (R404).
Log 16 (DESIGN CHOICE). -/
opaque freezeFailsAt (tick : Nat) : Option Nat

/-- Whether an Ed25519 signature that this device did not make verifies under its identity (R406). Log 14 (DESIGN CHOICE). -/
opaque otherEd25519 (message signature : List Byte) : Bool

/-- Whether an ML-DSA-65 signature that this device did not make verifies under its identity (R406).
Log 14 (DESIGN CHOICE). -/
opaque otherMldsa65 (message signature : List Byte) : Bool

end Sys2Proof.Config
end

