-- ==== Sys2Proof/Machine/State.lean ====
section
/-! DEFINITION. The state of the Vernik-9 as plain data, its faults and refusals, and the state right after package
reset. A list keyed by numbers holds what differs from what an unlisted key stands for. -/

namespace Sys2Proof.Machine

/-- The site number of the Ringmaster, which is what `%cell` reads there (R341); cells are sites 0 to 1,151. -/
def ringmaster : Nat := 2047

/-! ### Memory -/

/-- Bytes by address, with poison by naturally aligned 8-byte unit (R89, R104). `cells` lists strictly rising addresses
and no zero byte; `poison` lists strictly rising unit addresses (multiples of 8). Log 6 (DESIGN CHOICE). -/
structure Memory where
  cells : List Host.Cell := []
  poison : List Nat := []
  deriving DecidableEq, Repr, Inhabited

/-! ### Keys, descriptors, frames -/

/-- The key of a frame (R22). -/
structure Key where
  ctx : Nat
  cb : Nat
  tag : BitVec 32
  deriving DecidableEq, Repr, Inhabited

/-- A placement policy (R34, R300). -/
inductive Place where
  | hash | fixed | sender | near
  deriving DecidableEq, Repr, Inhabited

/-- A slot declaration of a descriptor (R301). -/
structure SlotDecl where
  init : Nat
  reload : Nat
  thr : Nat
  deriving DecidableEq, Repr, Inhabited

/-- An entry point of a descriptor (R301). -/
structure ThreadDecl where
  entry : Nat
  cls : Nat
  deriving DecidableEq, Repr, Inhabited

/-- A loaded codeblock descriptor (R300, R301). Slots and threadlets are listed by number; those not listed are not
declared. -/
structure Desc where
  large : Bool
  place : Place
  wlog : Nat
  cellix : Nat
  code : VAddr
  base : VAddr
  stride : W64
  slots : List (Nat × SlotDecl)
  threads : List (Nat × ThreadDecl)
  deriving DecidableEq, Repr, Inhabited

/-- A descriptor in a cell's descriptor store (R302). -/
structure DescEntry where
  site : Nat
  ctx : Nat
  cb : Nat
  desc : Desc
  deriving DecidableEq, Repr, Inhabited

/-- A window entry with SET 1 of a codeblock on a cell (R302): W is 2^wlog. -/
structure Window where
  site : Nat
  ctx : Nat
  cb : Nat
  wlog : Nat
  origin : BitVec 32
  deriving DecidableEq, Repr, Inhabited

/-- The state of a frame that is not Absent (R33). -/
inductive Life where
  | live | spilled | dying
  deriving DecidableEq, Repr, Inhabited

/-- The counters of a declared slot (R29). -/
structure SlotState where
  count : Nat
  reload : Nat
  deriving DecidableEq, Repr, Inhabited

/-- What a frame created by a fault token keeps (R366, R372, R373). -/
structure HandlerMark where
  /-- The item for which the frame was created. -/
  item : Nat
  held : Option VWord
  deriving DecidableEq, Repr, Inhabited

/-- A frame (R21, R22, R28, R29, R33). `words` lists the data words that have been written since creation; the others
are the free values that `seed` names. -/
structure Frame where
  site : Nat
  key : Key
  life : Life
  /-- Matching-store entry (R32). -/
  entry : Nat
  /-- First chunk of the frame store (R79). -/
  chunk : Nat
  desc : Desc
  epoch : Bool
  lid : Nat
  flags : BitVec 5
  psn : Bool
  words : List (Nat × W64)
  /-- The poisoned data words (R104). -/
  poison : List Nat
  slots : List (Nat × SlotState)
  handler : Option HandlerMark
  /-- No token has been applied since creation, so an abandoned reservation removes it (R243). -/
  fresh : Bool
  seed : Nat
  /-- A Spilled frame that was Dying: it is Dying again once it is filled back (R12, R33). -/
  doomed : Bool := false
  deriving DecidableEq, Repr, Inhabited

/-- An entry of the ready queue (R44, R45), or a suspended entry's threadlet. -/
structure Ready where
  site : Nat
  key : Key
  thr : Nat
  cls : Nat
  stamp : Nat
  waited : Nat
  urgent : Bool
  overflow : Bool
  /-- An overflowed entry that stands in the spill area (R79). -/
  inSpill : Bool
  /-- A substitution that the next run carries out: dynamic index, opcode, value (R371). -/
  subst : Option (Nat × (Nat × Nat × Bool) × W64)
  deriving DecidableEq, Repr, Inhabited

/-! ### Races over scratch -/

/-- The contents of an aligned 8-byte unit of scratch, by the key of its first byte (R102, R104). -/
structure UnitCopy where
  at_ : Nat
  val : Nat
  psn : Bool
  deriving DecidableEq, Repr, Inhabited

/-- What decides the races over scratch of an engine command or an MU instruction (R102, R196): one choice for each unit.
Log 65 (DESIGN CHOICE). -/
structure Race where
  /-- The units as the command reads them: as it found them, or as they stood before a write that races with it. -/
  seen : List UnitCopy := []
  /-- Bytes that stay as a racing write left them, by unit, bit b for byte b. -/
  kept : List (Nat × Nat) := []
  /-- Bytes that the command has written and that are its own, by unit, bit b for byte b. -/
  wrote : List (Nat × Nat) := []
  /-- For an MU instruction: the units that it has written as they would stand without it, which a threadlet may still
  read. -/
  before : List UnitCopy := []
  deriving DecidableEq, Repr, Inhabited

/-! ### Tokens -/

/-- The payload of a token (R25), of a fault token (R366) or of an event (R347). `keep` marks the bits of a vector
completion that leave the frame's old contents in place (R254). -/
inductive Payload where
  | none
  | word (w : W64)
  | vector (v : VWord) (keep : VWord)
  | words (ws : List W64)
  deriving DecidableEq, Repr, Inhabited

/-- Why a token is parked (R36, R37). -/
inductive ParkReason where
  | window | sameKey | noEntry
  deriving DecidableEq, Repr, Inhabited

/-- Where a token stands (R26, R37, R41, R243). -/
inductive TokPhase where
  /-- Not yet accepted by the receiving cell. -/
  | offered
  /-- Refused: the sender retries (R41). -/
  | refused
  /-- Accepted into the matching entry of its frame. -/
  | accepted
  /-- Accepted into a park entry before the sender's commit instant (R243). -/
  | parkReserved (r : ParkReason)
  | parked (r : ParkReason)
  /-- In the park overflow area, with the reason for which it was parked (R37). -/
  | overflowed (r : ParkReason)
  /-- A completion signal or a fault token waits for an entry (R32, R366). -/
  | waiting
  /-- Held by a receiver-side fault (R31, R367). -/
  | held
  /-- Left the package as a VLP packet and not yet acknowledged (R244). -/
  | vlp
  deriving DecidableEq, Repr, Inhabited

/-- What sent a token. -/
inductive TokSource where
  | send | completion | fault (item : Nat) (heldData : Option VWord) | launch | event (cls src : Nat) | timer | start | vlpIn (port : Nat)
  deriving DecidableEq, Repr, Inhabited

/-- A token (R25, R237, R238). -/
structure Token where
  id : Nat
  key : Key
  epoch : Bool
  lid : Nat
  slot : Nat
  kind : Nat
  idx : Nat
  rels : Option Scope
  psn : Bool
  dcell : Nat
  scell : Nat
  payload : Payload
  /-- Flags that the token ORs into the FSW (R207, R259). -/
  flags : BitVec 5
  source : TokSource
  phase : TokPhase
  /-- The sending commit has taken its commit instant. -/
  committed : Bool
  /-- The runner of an uncommitted sender. -/
  owner : Option (Nat × Nat)
  /-- Commit number and place in program order (R243). -/
  seq : Nat
  prog : Nat
  /-- An initial token whose near placement faulted: a `rply` resolves it again (R420). -/
  unplaced : Bool
  /-- Arrival number at the receiving cell (R37). -/
  arrival : Nat
  /-- Remote target: package, port (R244). -/
  remote : Option (Nat × Nat)
  /-- It came back from a mailbox at a restore (R391). -/
  mailed : Bool
  /-- The request-table entry that a completion signal keeps until it is applied (R291). -/
  hidx : Option Nat
  /-- The graph slot that an `mrdx`'s signal keeps pinned until it is applied (R208). -/
  pin : Option Nat := none
  /-- The races of the command or instruction whose completion this signal is, which end when it is applied (R102, R196). -/
  race : Race := {}
  deriving DecidableEq, Repr, Inhabited

/-! ### Split-phase operations -/

/-- The operations of `gamo` (R259). -/
inductive AtomicFn where
  | add | and | or | xor | minS | maxS | minU | maxU | swap | cas | fadd
  deriving DecidableEq, Repr, Inhabited

/-- Where a part of an access stands (R258, R386). -/
inductive PartState where
  | issued
  | translated (pa : Nat)
  | held (cause : Nat) (level : Nat)
  /-- Performed, or completed by `rsup`; `v` holds the bytes read. -/
  | done (v : W64) (poison : Bool)
  deriving DecidableEq, Repr, Inhabited

/-- A part of an access (R258): bytes `off` to `off` + `len` − 1 of element `elem`, at `va`. -/
structure Part where
  elem : Nat
  half : Nat
  off : Nat
  len : Nat
  va : VAddr
  data : W64
  st : PartState
  /-- The bytes of an unaligned part that have been performed, bit b for byte b (R89). -/
  seen : Nat := 0
  /-- The bytes that an unaligned load part has read so far, and whether any is poisoned. -/
  got : Nat := 0
  bad : Bool := false
  /-- It was held and is performed again, so that what an edge orders after it waits for its performing (R380). -/
  again : Bool := false
  /-- The step in which it was forwarded, by which its home slice orders it (R94). -/
  fwd : Nat := 0
  /-- Where it went when it was forwarded (R386). -/
  pa : Option Nat := none
  deriving DecidableEq, Repr, Inhabited

/-- The six stream-engine commands (R261). -/
inductive EngineCmd where
  | cpy | gth | sct | isect | smerge | cmpct
  deriving DecidableEq, Repr, Inhabited

/-- A result of an engine command that is not yet written (R272): `n` bytes `v` at a displacement from location `loc`,
with the element number and the VALUE that a fault of its write records (R365). -/
structure EngineOut where
  loc : Nat
  disp : Int
  n : Nat
  v : Nat
  psn : Bool
  elem : Nat
  value : Nat
  /-- The bytes already written, bit b for byte b (R89), and the address with the translation that the rest keeps: physical
  runs of address and length (R386). -/
  put : Nat := 0
  va : Nat := 0
  runs : List (Nat × Nat) := []
  deriving DecidableEq, Repr, Inhabited

/-- An access of an engine command to global memory of which only some bytes have been read (R89): of an input's
element, or of the rest of a record. -/
structure EnginePart where
  input : Option Bool
  idx : Nat
  /-- Its address, and the translation that it keeps: physical runs of address and length (R386). -/
  va : Nat
  runs : List (Nat × Nat)
  seen : Nat
  got : Nat
  bad : Bool
  deriving DecidableEq, Repr, Inhabited

/-- The architectural state of an engine command (R272). -/
structure Engine where
  cmd : EngineCmd
  /-- Scratch offset of the descriptor, and its sixteen words as read at issue. -/
  descOff : Nat
  dw : List W64
  sB : W64
  sC : W64
  scope : Scope
  started : Bool
  /-- The cursor: i or r, j or c, and m. -/
  i : Nat
  j : Nat
  m : Nat
  /-- For `cmpct`: the row's offset has been written. -/
  rowPut : Bool
  /-- The inputs read at and ahead of the cursor, by index, with their poison: the comparator windows of staged keys, the
  elements that `cpy`, `gth`, `sct` and `cmpct` have read, and the index words of `gth` and `sct`. -/
  winA : List (Nat × Nat × Bool)
  winB : List (Nat × Nat × Bool)
  /-- The rest of the record that `smerge` takes, behind its key. -/
  rest : Option (Nat × Bool)
  /-- A read of which some bytes are outstanding. -/
  part : Option EnginePart
  /-- The partial result buffer, oldest first. -/
  buf : List EngineOut
  /-- The count of `isect` or the final offset of `cmpct` stands in the buffer or is written. -/
  closed : Bool
  /-- The races over its scratch since the issue (R102). -/
  race : Race := {}
  /-- The key that the loop read last from each stream, for the order check (R268, R269). -/
  prevA : Option Nat
  prevB : Option Nat
  /-- Every element has been performed. -/
  finished : Bool
  /-- The published low-water address (R273). -/
  lowWater : Option VAddr
  deriving DecidableEq, Repr, Inhabited

/-- The instructions of the MU (R202). -/
inductive MuCmd where
  | zero | mma | mmaSp | ld | st | rd | rdx
  deriving DecidableEq, Repr, Inhabited

/-- A queued MU instruction with its descriptor values and position (R195, R197, R198). -/
structure Mu where
  cmd : MuCmd
  acc : Nat
  /-- TD0 and TD1 of A or of the source or destination, and of B or the auxiliary descriptor. -/
  a0 : W64
  a1 : W64
  b0 : W64
  b1 : W64
  /-- `mrdx`: an auxiliary descriptor is named. -/
  aux : Bool
  round : Round
  sat : Bool
  n : Nat
  /-- `mrdx`: the graph slot that it pins. -/
  gslot : Nat
  /-- The rows that the graph of an `mrdx` has returned, row 0 first; they are written when all of them are there. -/
  out : List VWord
  flags : BitVec 5
  performed : Bool
  /-- The races over its scratch since the issue (R196). -/
  race : Race := {}
  deriving DecidableEq, Repr, Inhabited

/-- Where an `xld` stands (R213). -/
inductive XldState where
  /-- Takes the cases of R213 at its next step. -/
  | fresh
  /-- Started the load of the slot, or waits on it. -/
  | on (gslot : Nat) (loader : Bool)
  | ready
  deriving DecidableEq, Repr, Inhabited

/-- A request of a system instruction (R375 to R377). -/
inductive SysReq where
  | tlbi (ctx : Nat) (va : VAddr)
  | tlbia (ctx : Option Nat)
  | ctxsv (part : Nat)
  | ctxrs (ctx : Nat) (part : Nat)
  | halt (ctx : Nat)
  deriving DecidableEq, Repr, Inhabited

/-- What a split-phase operation does. -/
inductive OpKind where
  | load (t : LoadTy) (lc : Bool) (idx : Nat)
  | vload (vidx : Nat) (e : Size) (mask : W64) (zero : Bool)
  | store (e : Size)
  | vstore (e : Size)
  | atomic (f : AtomicFn) (wide : Bool) (ord : Ord) (sc : Scope) (idx : Nat) (b c : W64)
  | prefetch (lc : Bool)
  | engine (e : Engine)
  | mu (m : Mu)
  | xld (n : Nat) (st : XldState)
  | xunl (n : Nat) (ready : Bool)
  | sys (r : SysReq) (ready : Bool)
  deriving DecidableEq, Repr, Inhabited

/-- What is held of a faulting operation that is not divided into parts, and why (R197, R271). -/
structure HeldOp where
  cause : Nat
  detail : W64
  faddr : VAddr
  value : W64
  level : Nat
  deriving DecidableEq, Repr, Inhabited

/-- An entry of the request table (R12, R41, R258, R291). -/
structure Op where
  id : Nat
  site : Nat
  /-- Request-table entry. -/
  hidx : Nat
  key : Key
  epoch : Bool
  lid : Nat
  slot : Nat
  thr : Nat
  dyn : Nat
  iaddr : VAddr
  w0 : Word
  w1 : Option Word
  /-- Number of the commit, and place in its program order. -/
  seq : Nat
  prog : Nat
  /-- The fences of the commit before it in program order, by place and scope (R92). -/
  fences : List (Nat × Scope)
  kind : OpKind
  parts : List Part
  /-- A fault waits to be delivered, or the operation is held, as a whole. -/
  heldOp : Option HeldOp
  /-- The item of its held parts (R367). -/
  item : Option Nat
  /-- Killed: it performs on, and its signal is discarded (R374, R375). -/
  dropped : Bool
  /-- The issuing frame was a handler frame (R368). -/
  fromHandler : Bool
  deriving DecidableEq, Repr, Inhabited

/-! ### Runners -/

/-- Where an instruction of an instance stood: its dynamic index, address and words (R364). -/
structure At where
  dyn : Nat
  addr : VAddr
  w0 : Word
  w1 : Option Word
  deriving DecidableEq, Repr, Inhabited

/-- A pending effect of an instance (R41, R139, R236). -/
inductive EffBody where
  | frameWord (idx : Nat) (w : W64)
  | frameVector (j : Nat) (v : VWord)
  /-- Scratch bytes, in the order in which they are written. -/
  | scratch (bytes : List (Nat × Byte))
  | token (t : Token) (cellv : Bool) (by_ : At)
  | rearm (slot count reload : Nat)
  | fret
  | tagwin (cb : Nat) (origin : BitVec 32) (wlog : Nat)
  | op (o : Op)
  | fence (sc : Scope)
  | act (a : Nat) (value : W64) (record : List W64)
  | killLaunch (ctx lid : Nat)
  | writeSys (num : Nat) (value : W64)
  /-- An effect that was counted and changes nothing (R235: a failed compare of a samo). -/
  | nothing
  deriving DecidableEq, Repr, Inhabited

/-- What a runner is doing (R40, R41, R165, R212, R248). -/
inductive RunPhase where
  | running
  /-- Waits for the Carousel: result register, mask, zeroing (R212). -/
  | waitXop (d : Nat) (mask : W64) (zero : Bool)
  /-- Executed `fin`; validation waits for another instance's reservation (R165, R167). -/
  | finished
  /-- Validation failed; the next run starts in the next clock (R165). -/
  | retrying
  /-- Seeks the preconditions of R41. -/
  | offering
  /-- Its `tagwin` requests have this number (R248). -/
  | tagwin (no : Nat)
  deriving DecidableEq, Repr, Inhabited

/-- A threadlet instance on a runner (R40). Registers list what this run has written; the others are the free values
that `seed` names. -/
structure Inst where
  site : Nat
  runner : Nat
  key : Key
  thr : Nat
  cls : Nat
  pc : VAddr
  /-- Dynamic index of the next instruction. -/
  dyn : Nat
  nEff : Nat
  s : List (Nat × W64)
  v : List (Nat × VWord)
  m : List (Nat × W64)
  seed : Nat
  effects : List EffBody
  flags : BitVec 5
  /-- Scratch bytes that `samo` took from scratch, with their values (R164). -/
  recorded : List (Nat × Byte)
  /-- Validated: the recorded units are reserved (R165). -/
  reserved : Bool
  /-- Failed validations in a row (R167). -/
  fails : Nat
  phase : RunPhase
  subst : Option (Nat × (Nat × Nat × Bool) × W64)
  /-- The graph slots that its `mrdx` instructions have pinned (R208). -/
  pins : List Nat
  deriving DecidableEq, Repr, Inhabited

/-- What is executing now: the site and runner, the address of the instruction and its words. -/
structure Cur where
  site : Nat
  runner : Nat
  addr : VAddr
  w0 : Word
  w1 : Option Word
  deriving DecidableEq, Repr, Inhabited

/-- Which item waits for an action (R367). -/
inductive ItemBody where
  | suspended (thr cls : Nat)
  | op (id : Nat)
  | token (id : Nat)
  deriving DecidableEq, Repr, Inhabited

/-- An item that awaits an action (R367). -/
structure Item where
  id : Nat
  site : Nat
  kind : Nat
  ctx : Nat
  lid : Nat
  key : Key
  fref : W64
  thr : Nat
  hidx : Nat
  gen : Nat
  body : ItemBody
  /-- The handler frame created for it, once delivered. -/
  handler : Option Key
  deriving DecidableEq, Repr, Inhabited

/-- What an action does (R371). -/
inductive ActKind where
  | rply | rsup (v : W64) | kill
  deriving DecidableEq, Repr, Inhabited

/-- An action on its way to, or kept on, a cell (R372). -/
structure Action where
  id : Nat
  site : Nat
  /-- Context of the acting frame; 0 may act on every context. -/
  by_ : Nat
  ctx : Nat
  kind : Nat
  fref : W64
  thr : Nat
  hidx : Nat
  gen : Nat
  didx : Nat
  opcode : Nat × Nat × Bool
  act : ActKind
  /-- Number of the acting commit, whose own accesses come before what the action starts (R372). -/
  seq : Nat
  deriving DecidableEq, Repr, Inhabited

/-! ### The Carousel -/

/-- A node record of a graph image (R305). -/
structure GNode where
  row : Nat
  col : Nat
  kind : Nat
  op : Nat
  rnd : Nat
  delay : Nat
  imm : Bool
  bus : Nat
  drv : Bool
  src0 : Nat
  src1 : Nat
  src2 : Nat
  value : Nat
  deriving DecidableEq, Repr, Inhabited

/-- A lookup table of a graph image (R307). -/
structure GTable where
  node : Nat
  x0 : Nat
  s : Int
  entries : List Nat
  deriving DecidableEq, Repr, Inhabited

/-- A graph as its slot holds it: the declaration, the nodes and the tables (R227, R304 to R307). -/
structure Graph where
  lat : Nat
  nvop : Nat
  scal : Bool
  two : Bool
  res0 : Nat
  res1 : Nat
  nodes : List GNode
  tables : List GTable
  deriving DecidableEq, Repr, Inhabited

/-- The state of a graph slot that is not Empty (R211). -/
inductive GState where
  | loading
  | resident
  deriving DecidableEq, Repr, Inhabited

/-- A graph slot that is not Empty (R211). -/
structure GSlot where
  site : Nat
  slot : Nat
  st : GState
  n : Nat
  image : VAddr
  graph : Graph
  pins : Nat
  lastUse : Nat
  /-- Discards results and admits nothing until reloaded (R231). -/
  broken : Bool
  /-- Its reload has failed and has halted the context on the cell: it stands damaged until a restore (R211, R231). -/
  stuck : Bool := false
  deriving DecidableEq, Repr, Inhabited

/-- Who waits for a graph result (R228). -/
inductive CarWho where
  | runner (r : Nat)
  | mu (op : Nat)
  deriving DecidableEq, Repr, Inhabited

/-- A request to the Carousel, waiting or in the array (R228). -/
structure CarJob where
  site : Nat
  who : CarWho
  gslot : Nat
  since : Nat
  entered : Option Nat
  op0 : VWord
  op1 : VWord
  op2 : VWord
  sc : W64
  mask : W64
  /-- What it has reserved since it entered: nodes, buses and the result port, each at a clock. -/
  holds : List (Nat × Nat) := []
  /-- Its result has been taken, or nobody waits for it any more; the job keeps its reservations until the last of them ends
  (R228). -/
  delivered : Bool := false
  deriving DecidableEq, Repr, Inhabited

/-! ### Translation and caches -/

/-- A leaf translation in a TLB (R385): the page of 2^(12 + 10 level) bytes at number `page`. -/
structure TlbEntry where
  site : Nat
  ctx : Nat
  level : Nat
  page : Nat
  leaf : W64
  deriving DecidableEq, Repr, Inhabited

/-- A word in an instruction cache (R110). -/
structure IcWord where
  site : Nat
  ctx : Nat
  addr : VAddr
  word : Word
  deriving DecidableEq, Repr, Inhabited

/-- A line of 128 bytes in a local cache (R88). -/
structure LcLine where
  site : Nat
  ctx : Nat
  pa : Nat
  data : BitVec 1024
  /-- Poisoned 8-byte units of the line. -/
  poison : List Nat
  deriving DecidableEq, Repr, Inhabited

/-- The launch counters TS and TR of a site (a cell, or 1,152 + d for the launch unit of die d), context and LID
(R48, R330). Log 44 (DEDUCED). -/
structure LaunchCount where
  site : Nat
  ctx : Nat
  lid : Nat
  ts : Nat
  tr : Nat
  deriving DecidableEq, Repr, Inhabited

/-! ### Contexts -/

/-- Where a resident context stands in a save (R389) or a restore (R391). -/
inductive ResPhase where
  | up
  /-- Steps 1 to 3: stopping, running out, settling. -/
  | stopping
  /-- Step 4 has ended: every link has carried the marker. -/
  | drained
  /-- Step 5 of a restore: mailbox tokens are presented and direct tokens refused. -/
  | presenting
  deriving DecidableEq, Repr, Inhabited

/-- A user context that is resident on its partition, with the fields of its descriptor as read at the restore
(R359, R361). -/
structure Resident where
  ctx : Nat
  part : Nat
  cells : List Nat
  funits : Nat
  sunits : Nat
  lunits : Nat
  carve : W64
  ptroot : Nat
  cbtab : Nat
  xtab : Nat
  htab : Nat
  spill : Nat
  spilln : Nat
  mbox : Nat
  mblen : Nat
  save : Nat
  savelen : Nat
  phase : ResPhase
  /-- RTIME of the last restore (R401). -/
  since : Nat
  /-- The handler table and the Carousel table as read at the restore (R361): what their bytes from the first on say. -/
  handlers : List Nat
  xops : List W64
  deriving DecidableEq, Repr, Inhabited

/-- Who asked for a save or a restore. -/
inductive SwitchBy where
  | op (id : Nat)
  | firmware
  deriving DecidableEq, Repr, Inhabited

/-- A save or a restore in progress (R376, R389, R391). -/
structure Switch where
  /-- The context to be restored, or none for a save alone. -/
  restore : Option Nat
  part : Nat
  by_ : SwitchBy
  deriving DecidableEq, Repr, Inhabited

/-- The control block of a cell image, which only the device reads (R394). -/
structure Image where
  /-- The number that the device wrote into the control block in memory. -/
  id : Nat
  ctx : Nat
  seq : Nat
  site : Nat
  frames : List Frame
  tokens : List Token
  ready : List Ready
  ops : List Op
  items : List Item
  gslots : List GSlot
  windows : List Window
  counts : List LaunchCount
  deriving DecidableEq, Repr, Inhabited

/-- A partition's share of the shadow carve, when it holds images that are not written back (R390): bytes by the
physical address in the save area for which they stand. -/
structure Shadow where
  part : Nat
  ctx : Nat
  seq : Nat
  /-- The images whose first MiB the share holds, by their addresses. -/
  bases : List Nat
  mem : Memory
  deriving DecidableEq, Repr, Inhabited

/-- A live launch (R47, R328 to R330, R351). Log 67 (DEDUCED). -/
structure Launch where
  ctx : Nat
  lid : Nat
  /-- Number of its packet in the order of acceptance (R401). -/
  pkt : Nat
  fn : Nat
  q : Nat
  i : Nat
  usertag : W64
  cb : Nat
  slot : Nat
  word : Bool
  idx : Nat
  epoch : Bool
  tbase : Nat
  ntag : Nat
  arg : W64
  astep : W64
  cells : List Nat
  /-- Tags injected so far by each die of the list. -/
  injected : List (Nat × Nat)
  prev : Option Nat
  lastTs : Nat
  /-- For how many ns its waves have found TS unchanged, since its watchdog was last raised (R351). -/
  idle : Nat := 0
  /-- RTIME of the last wave (R351). -/
  lastWave : Nat
  /-- The last wave found TS unchanged for WDOG, and class 3 is still to be raised (R351). -/
  watch : Bool
  killed : Bool
  /-- Its context was halted by a double fault while it was live (R339). -/
  halted : Bool
  ended : Bool
  /-- The packet of the launch was on a queue before a freeze (R407). -/
  orphan : Bool
  /-- IRQ of its packet. -/
  irq : Bool
  deriving DecidableEq, Repr, Inhabited

/-- The `tagwin` requests of one commit, numbered by the Ringmaster (R248). -/
structure TagwinReq where
  no : Nat
  ctx : Nat
  site : Nat
  runner : Nat
  sets : List (Nat × BitVec 32 × Nat)
  cells : List Nat
  installed : List Nat
  deriving DecidableEq, Repr, Inhabited

/-! ### The Ringmaster and the host interface -/

/-- A timer (R349), with the RTIME and the commit of its last arming. -/
structure Timer where
  tdl : W64
  tref : W64
  ctl : W64
  armedAt : Nat
  armedBy : Nat
  deriving DecidableEq, Repr, Inhabited

/-- A queue block, with the fetch limit and the record count (R318, R319, R321). -/
structure Queue where
  en : Bool
  loc : Bool
  qlog : Nat
  ctx : Nat
  ctl : Bool
  vec : Nat
  ien : Bool
  qbase : Nat
  cqbase : Nat
  cqlog : Nat
  status : Nat
  misses : Nat
  cidx : Nat
  cqhead : Nat
  limit : Nat
  k : Nat
  /-- The queue stands stopped until an accepted kick (R337). -/
  stopped : Bool
  /-- RTIME of the last read of the current packet (R336). -/
  readAt : Nat
  deriving DecidableEq, Repr, Inhabited

/-- Where an accepted packet stands (R325). -/
inductive PktPhase where
  | accepted
  /-- Started, and not yet begun by the unit that performs it. -/
  | started
  /-- Begun: a launch is live, a fence waits, a freeze or load-graph packet waits for a save. -/
  | running
  /-- Its record can be written. -/
  | finished
  deriving DecidableEq, Repr, Inhabited

/-- An accepted packet whose record is not yet written (R325, R326). -/
structure Packet where
  /-- Number in the order of acceptance (R325, R401). -/
  uid : Nat
  fn : Nat
  q : Nat
  i : Nat
  /-- The context for which it acts. -/
  ctx : Nat
  words : List W64
  phase : PktPhase
  status : Nat
  detail : W64
  lid : Nat
  /-- Bytes moved so far, or step of a procedure. -/
  progress : Nat
  /-- Contexts that a load-graph or freeze packet saved and restores again. -/
  saved : List Nat
  deriving DecidableEq, Repr, Inhabited

/-- An MSI-X message (R339). -/
structure Msix where
  fn : Nat
  vec : Nat
  deriving DecidableEq, Repr, Inhabited

/-- The state of the device as HSTAT shows it (R414). -/
inductive Health where
  | healthy | degraded | replace | fatal
  deriving DecidableEq, Repr, Inhabited

/-- What an aperture read returned to the host (R317). -/
inductive HostRead where
  | none
  | data (v : W64) (poison : Bool)
  | unsupported
  deriving DecidableEq, Repr, Inhabited

/-- The next step of the machine: a runner issues an instruction, or a step that no instruction word names. -/
inductive Move where
  | issue (site runner : Nat)
  | device (i : Instr)
  deriving DecidableEq, Repr, Inhabited

/-- Why a call of the machine is no step of it. -/
inductive Fault where
  /-- Raised by the meaning of an instruction word when no instance is executing it; safe, since no step makes that
  call. -/
  | noInstance
  deriving DecidableEq, Repr, Inhabited

/-- Why the model does not answer. -/
inductive Refusal where
  /-- Raised by the dispatcher for an instruction that has no meaning yet; safe. -/
  | notModelled (mnemonic : String)
  deriving DecidableEq, Repr, Inhabited

/-- What a freeze keeps in the device for its resume beside the copy of memory (R407): its number, its live launches with the launch
units' counts, and the control blocks and the mailbox entries of its contexts. -/
structure Frozen where
  freeze : Nat
  launches : List (Launch × List LaunchCount)
  images : List Image
  mailed : List (Nat × Nat × TokSource)
  deriving DecidableEq, Repr, Inhabited

/-- Contexts, launches and what firmware keeps of them. -/
structure Contexts where
  residents : List Resident
  switches : List Switch
  images : List Image
  shadows : List Shadow
  launches : List Launch
  tagwins : List TagwinReq
  /-- Priority by context; unlisted contexts have priority 8 (R357). -/
  prio : List (Nat × Nat)
  quantum : Nat
  watermark : Nat
  /-- Contexts that wait for their partition, oldest launch first (R401). -/
  waiting : List Nat
  /-- Completion records not yet reported (R407). -/
  orphans : List (List W64)
  fseq : Nat
  /-- Contexts of a freeze in progress or completed and not resumed (R402, R408). -/
  frozen : List Nat
  /-- What each freeze keeps for its resume (R407). A context that is made anew under the number of a frozen one touches nothing of
  it. -/
  asleep : List Frozen
  /-- Tokens in mailboxes: context, first slot number, and what sent each, which its flits do not say (R392). -/
  mailed : List (Nat × Nat × TokSource)
  /-- Last walks: die, context, page, RTIME (R410). -/
  walks : List (Nat × Nat × Nat × Nat)
  deriving DecidableEq, Repr, Inhabited

/-- The system registers (R346, R378, R379, R396). -/
structure SysRegs where
  ctxtab : Nat
  /-- CTXTAB has been written: the entries that the security root installed no longer stand (R354). -/
  ctxtabWritten : Bool
  shadow : Nat
  pools : W64
  poolsWritten : Bool
  wins : List (Nat × W64)
  /-- Registers whose last write has not yet reached the cells: number, old value, commit number (R378). -/
  old : List (Nat × W64 × Nat)
  /-- PART0 to PART63 without RES (R396). -/
  parts : List (Nat × W64)
  rtime : Nat
  tsel : Nat
  timers : List (Nat × Timer)
  evtbase : Nat
  drops : BitVec 16
  timeaddr : W64
  wdog : Nat
  /-- RTIME of the last store of the time word (R350). -/
  lastTimeWord : Nat
  /-- The codeblock entries that the security root installed: number, descriptor address (R354). -/
  bootEntries : List (Nat × Nat)
  deriving DecidableEq, Repr, Inhabited

/-- The host interface (R314 to R339, R355). -/
structure HostIo where
  linkX8 : Bool
  apbase : List (Nat × Nat)
  /-- Queue blocks by 256 × function + queue; unlisted blocks are all zero. -/
  queues : List (Nat × Queue)
  f1bind : List (Nat × Nat)
  packets : List Packet
  doorbell : BitVec 32
  doorbells : BitVec 32
  mbBusy : Bool
  /-- What units of REQ held before the host wrote them while BUSY was 1, by their offsets (R356). -/
  reqOld : List UnitCopy := []
  nofw : Bool
  msix : List Msix
  hostRead : HostRead
  deriving DecidableEq, Repr, Inhabited

/-- Health, clocks and power (R411 to R416). -/
structure HealthRegs where
  health : Health
  replaceFlag : Bool
  bootok : Bool
  booterr : Nat
  retired : List Nat
  /-- RETIRED of HSTAT, as the device or firmware wrote it last (R355, R414). -/
  retiredShown : BitVec 11 := 0
  /-- Cells that are retired once the resident context of their partition is saved (R413). -/
  retiring : List Nat
  plim : Nat
  /-- Sixteenths of 1.1 GHz by which a die's clock is lowered (R416). -/
  dieClock : List (Nat × Nat)
  /-- Dies whose clock period is doubled (R415). -/
  droop : List Nat
  /-- RTIME of each die's last droop event. -/
  droopEvent : List (Nat × Nat)
  /-- RTIME of the corrected errors, and of the last link rate above the threshold (R414). -/
  corrected : List Nat
  linkRateAt : Option Nat
  /-- Uncorrectable errors by cell, RTIME and whether in a control structure (R413). -/
  uncorrected : List (Nat × Nat × Bool)
  eventSeq : Nat
  rmHalted : Bool
  /-- Digest and SVN of the running firmware image (R418). -/
  fwDigest : BitVec 384
  fwSvn : Nat
  deriving DecidableEq, Repr, Inhabited

/-- The Vernik-9 package with its host's memory. Log 2 (DESIGN CHOICE). -/
structure State where
  agenda : List Move
  tick : Nat
  nextId : Nat
  cur : Option Cur
  cyc : List (Nat × W64)
  insts : List Inst
  frames : List Frame
  tokens : List Token
  ready : List Ready
  ops : List Op
  items : List Item
  actions : List Action
  descs : List DescEntry
  windows : List Window
  tlb : List TlbEntry
  icache : List IcWord
  lcache : List LcLine
  /-- Accumulator rows by (site × 4 + tile) × 64 + row: element j in bits [64j+63:64j]; unlisted rows are +0. -/
  tiles : List (Nat × BitVec 4096)
  /-- Poisoned accumulator elements, by row key × 64 + column. -/
  tilePoison : List Nat
  /-- Scratch by (context × 2048 + site) × 2^20 + offset. -/
  scratch : Memory
  gslots : List GSlot
  carJobs : List CarJob
  /-- Clock of each cell's Carousel. -/
  carClock : List (Nat × Nat)
  counts : List LaunchCount
  /-- Launches marked killed, by site, context and LID (R374). -/
  killed : List (Nat × Nat × Nat)
  /-- Contexts halted on cells: site, context (R368). -/
  halted : List (Nat × Nat)
  /-- Fault tokens that each site has formed (R366). -/
  faultCount : List (Nat × Nat)
  /-- Items that each site has formed, for GEN (R364). -/
  genCount : List (Nat × Nat)
  mem : Memory
  host : Memory
  flash : Memory
  ctl : Contexts
  sys : SysRegs
  io : HostIo
  hw : HealthRegs
  deriving DecidableEq, Repr, Inhabited

/-- The machine right after reset: the package reset step (R354) comes first, and nothing else has happened.
Log 1 (DESIGN CHOICE), 2 (DESIGN CHOICE), 4 (DESIGN CHOICE), 5 (DESIGN CHOICE). -/
def State.reset : State :=
  { agenda := [.device .packageReset], tick := 0, nextId := 0, cur := none,
    cyc := [], insts := [], frames := [], tokens := [], ready := [], ops := [], items := [], actions := [],
    descs := [], windows := [], tlb := [], icache := [], lcache := [], tiles := [], tilePoison := [], scratch := {},
    gslots := [], carJobs := [], carClock := [], counts := [], killed := [], halted := [], faultCount := [],
    genCount := [], mem := {}, host := {}, flash := {},
    ctl :=
    { residents := [], switches := [], images := [], shadows := [], launches := [], tagwins := [],
      prio := [], quantum := 10000, watermark := 0, waiting := [], orphans := [], fseq := 0, frozen := [],
      asleep := [], mailed := [], walks := [] },
    sys :=
    { ctxtab := 0, ctxtabWritten := false, shadow := 0, pools := 0, poolsWritten := false, wins := [], old := [], parts := [],
      rtime := 0, tsel := 0, timers := [], evtbase := 0, drops := 0, timeaddr := 0, wdog := 0, lastTimeWord := 0,
      bootEntries := [] },
    io :=
    { linkX8 := false, apbase := [], queues := [], f1bind := [], packets := [], doorbell := 0, doorbells := 0,
      mbBusy := false, reqOld := [], nofw := true, msix := [], hostRead := .none },
    hw :=
    { health := .healthy, replaceFlag := false, bootok := false, booterr := 0, retired := [], retiredShown := 0, retiring := [], plim := 3200,
      dieClock := [], droop := [], droopEvent := [], corrected := [], linkRateAt := none, uncorrected := [],
      eventSeq := 0, rmHalted := false, fwDigest := 0, fwSvn := 0 } }

end Sys2Proof.Machine

namespace Sys2Proof.Config

/-- The next move of a machine whose agenda is empty, in the step with this number (R41, R45, R91, R243 leave the order
to the hardware). Log 10 (DESIGN CHOICE). -/
opaque nextMove (tick : Nat) : Machine.Move

end Sys2Proof.Config
end

