-- ==== Sys2Proof/Machine/Memory.lean ====
section
/-! DEFINITION. Operations on lists keyed by numbers and on memory in its canonical form (R3, R89, R104). -/

namespace Sys2Proof.Machine

/-! ### Lists keyed by numbers, in rising order -/

/-- The entry of a key. -/
def keyed {α : Type} (l : List (Nat × α)) (k : Nat) : Option α :=
  match l with
  | [] => none
  | (j, x) :: t => if j = k then some x else keyed t k

/-- The list with an entry put in its place. -/
def putKeyed {α : Type} (l : List (Nat × α)) (k : Nat) (x : α) : List (Nat × α) :=
  match l with
  | [] => [(k, x)]
  | (j, y) :: t => if k < j then (k, x) :: (j, y) :: t else if k = j then (k, x) :: t else (j, y) :: putKeyed t k x

/-- The list without an entry. -/
def dropKeyed {α : Type} (l : List (Nat × α)) (k : Nat) : List (Nat × α) := l.filter (fun e => e.1 != k)

/-- A number put into a rising list without repeats. -/
def putNat (l : List Nat) (k : Nat) : List Nat :=
  match l with
  | [] => [k]
  | j :: t => if k < j then k :: j :: t else if k = j then j :: t else j :: putNat t k

/-- The list without a number. -/
def dropNat (l : List Nat) (k : Nat) : List Nat := l.filter (· != k)

/-- The first element that satisfies a test, updated; the others as they stand. -/
def updateFirst {α : Type} (p : α → Bool) (f : α → α) (l : List α) : List α :=
  match l with
  | [] => []
  | x :: t => if p x then f x :: t else x :: updateFirst p f t

/-- The numbers lo, lo + 1, … of the given count. -/
def upFrom (lo count : Nat) : List Nat :=
  match count with
  | 0 => []
  | n + 1 => lo :: upFrom (lo + 1) n

/-- The element with the least measure, the earliest of several. -/
def leastBy {α : Type} (f : α → Nat) (l : List α) : Option α :=
  match l with
  | [] => none
  | x :: t =>
    match leastBy f t with
    | none => some x
    | some y => if f y < f x then some y else some x

/-- The element with the greatest measure, the earliest of several. -/
def greatestBy {α : Type} (f : α → Nat) (l : List α) : Option α :=
  match l with
  | [] => none
  | x :: t =>
    match greatestBy f t with
    | none => some x
    | some y => if f x < f y then some y else some x

/-- An element of a list, chosen by a number that the specification leaves open; none of an empty list.
Log 11 (DESIGN CHOICE). -/
def pick {α : Type} (l : List α) (n : Nat) : Option α :=
  match l with
  | [] => none
  | x :: t => some ((x :: t).getD (n % (t.length + 1)) x)

/-! ### Bytes -/

/-- The byte at an address; an unlisted byte reads as zero. -/
def cellsRead (l : List Host.Cell) (a : Nat) : Byte :=
  match l with
  | [] => 0
  | (k, v) :: t => if k = a then v else cellsRead t a

/-- The list with a byte written; a zero byte is not listed. -/
def cellsWrite (l : List Host.Cell) (a : Nat) (b : Byte) : List Host.Cell :=
  match l with
  | [] => if b = 0 then [] else [(a, b)]
  | (k, v) :: t =>
    if a < k then if b = 0 then (k, v) :: t else (a, b) :: (k, v) :: t
    else if a = k then if b = 0 then t else (a, b) :: t
    else (k, v) :: cellsWrite t a b

/-- The canonical form: rising addresses, no byte that an unlisted address reads as, rising units of poison.
Log 6 (DESIGN CHOICE). -/
abbrev Memory.wf (m : Memory) : Prop :=
  m.cells.Pairwise (fun x y => x.1 < y.1) ∧ (∀ c ∈ m.cells, c.2 ≠ 0) ∧ m.poison.Pairwise (· < ·)

/-- One byte. Log 6 (DESIGN CHOICE). -/
def Memory.byte (m : Memory) (a : Nat) : Byte := cellsRead m.cells a

/-- Memory with one byte written, poison as it was. Log 6 (DESIGN CHOICE). -/
def Memory.putByte (m : Memory) (a : Nat) (b : Byte) : Memory := { m with cells := cellsWrite m.cells a b }

/-- The n bytes from an address as a little-endian number (R3). -/
def Memory.read (m : Memory) (a n : Nat) : Nat :=
  match n with
  | 0 => 0
  | k + 1 => (m.byte a).toNat + 256 * m.read (a + 1) k

/-- Memory with the low n bytes of a number written from an address, little-endian (R3). -/
def Memory.write (m : Memory) (a n v : Nat) : Memory :=
  match n with
  | 0 => m
  | k + 1 => (m.putByte a (BitVec.ofNat 8 v)).write (a + 1) k (v / 256)

/-- The aligned 8-byte unit of an address (R104). -/
def unitOf (a : Nat) : Nat := a / 8 * 8

/-- The units that n bytes from an address touch. -/
def unitsOf (a n : Nat) : List Nat :=
  if n = 0 then [] else (upFrom 0 ((a + n - 1) / 8 - a / 8 + 1)).map (fun k => unitOf a + 8 * k)

/-- Whether any unit of n bytes holds poison (R104). -/
def Memory.poisoned (m : Memory) (a n : Nat) : Bool := (unitsOf a n).any (fun u => m.poison.contains u)

/-- Memory with a unit poisoned. -/
def Memory.poisonUnit (m : Memory) (u : Nat) : Memory := { m with poison := putNat m.poison (unitOf u) }

/-- Memory with the poison of a unit cleared. -/
def Memory.clearUnit (m : Memory) (u : Nat) : Memory := { m with poison := dropNat m.poison u }

/-- The poison after a write of n bytes: poisoned data poison every unit they touch; other data clear the poison of
every unit that they write whole (R104). -/
def Memory.markWritten (m : Memory) (a n : Nat) (psn : Bool) : Memory :=
  (unitsOf a n).foldl (fun m u =>
    if psn then m.poisonUnit u else if a ≤ u ∧ u + 8 ≤ a + n then m.clearUnit u else m) m

/-- A store of n bytes with its poison (R104). -/
def Memory.store (m : Memory) (a n v : Nat) (psn : Bool) : Memory := (m.write a n v).markWritten a n psn

/-- A list of bytes written from an address. -/
def Memory.putBytes (m : Memory) (a : Nat) (bs : List Byte) : Memory :=
  match bs with
  | [] => m
  | b :: t => (m.putByte a b).putBytes (a + 1) t

/-- The n bytes from an address as a list. -/
def Memory.bytes (m : Memory) (a n : Nat) : List Byte := (upFrom a n).map m.byte

/-- Memory with the n bytes from `d` replaced, poison included, by those from `a` of another memory. -/
def Memory.blit (m src : Memory) (d a n : Nat) : Memory :=
  { cells := m.cells.filter (fun c => decide (c.1 < d))
      ++ ((src.cells.filter (fun c => decide (a ≤ c.1 ∧ c.1 < a + n))).map (fun c => (c.1 - a + d, c.2)))
      ++ m.cells.filter (fun c => decide (d + n ≤ c.1))
    poison := ((src.poison.filter (fun u => decide (a ≤ u ∧ u < a + n))).flatMap (fun u => unitsOf (u - a + d) 8)).foldl putNat
      (m.poison.filter (fun u => decide (u < d) || decide (d + n ≤ u))) }

end Sys2Proof.Machine
end

