-- ==== Sys2Proof/Machine/Access.lean ====
section
/-! DEFINITION. Places of the package: cells and dies (R7 to R15), partitions and contexts (R358, R359, R396), physical
addresses and their homes (R84 to R86, R344, R379), page walks and their checks (R382 to R385). -/

namespace Sys2Proof.Machine

/-! ### Bit fields -/

/-- The `n` bits of a number from bit `lo` upward. -/
def field (w lo n : Nat) : Nat := w / 2 ^ lo % 2 ^ n

/-- The `n` bits of a 64-bit word from bit `lo` upward, as a number. -/
def wfield (w : W64) (lo n : Nat) : Nat := field w.toNat lo n

/-- One bit of a word. -/
def wbit (w : W64) (lo : Nat) : Bool := wfield w lo 1 == 1

/-- A number of `n` bits read as signed. -/
def signedOf (n w : Nat) : Int := if w % 2 ^ n < 2 ^ (n - 1) then (w % 2 ^ n : Nat) else (w % 2 ^ n : Nat) - (2 ^ n : Nat)

/-- An integer as `n` bits, modulo 2^n. -/
def wrapOf (n : Nat) (z : Int) : Nat := (z % (2 ^ n : Nat)).toNat

/-! ### Cells (R7 to R15) -/

/-- The cells of the package, in ascending number. -/
def packageCells : List Nat := upFrom 0 1152

/-- The die of a cell (R7). -/
def dieOf (c : Nat) : Nat := c / 48 / 12 * 4 + c % 48 / 12

/-- The cell at a local position of a die (R8). -/
def cellAt (d lx ly : Nat) : Nat := (d / 4 * 12 + ly) * 48 + (d % 4 * 12 + lx)

/-- The cells of a die, in ascending number. -/
def dieCells (d : Nat) : List Nat :=
  (upFrom 0 144).map (fun k => cellAt d (k % 12) (k / 12))

/-- The distance of two numbers around a ring. -/
def ringDistance (m a b : Nat) : Nat := min (max a b - min a b) (m - (max a b - min a b))

/-- The hop distance (R11). -/
def hops (a b : Nat) : Nat := ringDistance 48 (a % 48) (b % 48) + ringDistance 24 (a / 48) (b / 48)

/-- The home cell of a global slice (R15). -/
def sliceCell (g : Nat) : Nat := cellAt (g / 64) (g % 64 % 8 * 3 / 2) (g % 64 / 8 * 3 / 2)

/-- `%cell` of a site (R13, R341). -/
def cellWord (c : Nat) : W64 :=
  if c = ringmaster then 0x7FF
  else BitVec.ofNat 64 (c + c % 48 * 2 ^ 16 + c / 48 * 2 ^ 24 + dieOf c * 2 ^ 32 + c % 48 % 12 * 2 ^ 36
    + c / 48 % 12 * 2 ^ 40)

/-! ### Physical addresses (R84 to R86, R344, R379) -/

/-- The near size N of R84. -/
def State.nearSize (s : State) : Nat := wfield s.sys.pools 0 5 * 2 ^ 32

/-- The spread size P of R84. -/
def State.spreadSize (s : State) : Nat := wfield s.sys.pools 8 24 * 2 ^ 15

/-- Whether `n` bytes lie within a near pool of a given die. -/
def State.inNear (s : State) (d a n : Nat) : Bool :=
  decide (d < 8 ∧ d * 2 ^ 37 ≤ a ∧ a + n ≤ d * 2 ^ 37 + s.nearSize)

/-- Whether `n` bytes lie within the spread pool. -/
def State.inSpread (s : State) (a n : Nat) : Bool := decide (2 ^ 40 ≤ a ∧ a + n ≤ 2 ^ 40 + 8 * s.spreadSize)

/-- Whether `n` bytes lie within one of the pools of R84. -/
def State.inPools (s : State) (a n : Nat) : Bool := s.inNear (a / 2 ^ 37) a n || s.inSpread a n

/-- The exclusive OR of the `k`-bit fields of a number, taking at most `fuel` of them (R85, R86). -/
def foldBits (k fuel x : Nat) : Nat :=
  match fuel with
  | 0 => 0
  | f + 1 => x % 2 ^ k ^^^ foldBits k f (x / 2 ^ k)

/-- The global slice number that is the home of an address of package HBM (R85, R86). -/
def homeSlice (a : Nat) : Nat :=
  if a < 2 ^ 40 then
    let g := a % 2 ^ 37 / 512
    (g % 64 ^^^ foldBits 6 6 (g / 64)) + 64 * (a / 2 ^ 37)
  else
    let g := (a - 2 ^ 40) / 512
    g % 512 ^^^ foldBits 9 4 (g / 512)

/-- The window register of a physical address at or above 2^48 (R379). -/
def State.window (s : State) (a : Nat) : W64 := (keyed s.sys.wins (a / 2 ^ 48)).getD 0

/-- Whether an address lies in a window that maps, through a port that exists (R379, R384). -/
def State.windowOpen (s : State) (a : Nat) : Bool :=
  wbit (s.window a) 0 && (s.io.linkX8 || decide (wfield (s.window a) 1 2 < 2))

/-- The host bus address of a window address (R387). -/
def State.busAddress (s : State) (a : Nat) : Nat := wfield (s.window a) 48 16 * 2 ^ 48 + a % 2 ^ 48

/-- Ringmaster memory and the mailbox region (R344). -/
def rmMemBase : Nat := 0xFF0000000000
/-- The mailbox region (R344). -/
def rmBoxBase : Nat := 0xFF0001000000

/-- Whether the Ringmaster reaches `n` bytes at a physical address (R344). Log 36 (DEDUCED). -/
def State.ringReaches (s : State) (a n : Nat) : Bool :=
  s.inPools a n || decide (rmMemBase ≤ a ∧ a + n ≤ rmBoxBase) || decide (rmBoxBase ≤ a ∧ a + n ≤ rmBoxBase + 0x10000)
    || (decide (2 ^ 48 ≤ a) && s.windowOpen a)

/-! ### The mailbox region (R344, R355, R414, R416) -/

/-- Whether an offset of the mailbox region lies in REQ or RSP. -/
def boxBuffer (off : Nat) : Bool := decide (0x100 ≤ off ∧ off < 0x8000)

/-- The number of a health state (R414). -/
def Health.code : Health → Nat
  | .healthy => 0 | .degraded => 1 | .replace => 2 | .fatal => 3

/-- The health state that a number names. -/
def Health.ofCode : Nat → Health
  | 0 => .healthy | 1 => .degraded | 2 => .replace | _ => .fatal

/-- HSTAT (R414). -/
def State.hstat (s : State) : Nat :=
  s.hw.health.code + s.hw.replaceFlag.toNat * 2 ^ 2 + s.hw.retiredShown.toNat * 2 ^ 3 + s.hw.bootok.toNat * 2 ^ 14
    + s.hw.booterr % 16 * 2 ^ 15

/-- The retirement map as one number: bit c for cell c (R414). -/
def State.retirementMap (s : State) : Nat := (s.hw.retired.dedup.map (fun c => 2 ^ c)).sum

/-- The register unit of 8 bytes at an offset of the mailbox region, outside REQ and RSP, as a reader finds it. -/
def State.boxUnit (s : State) (off : Nat) : Nat :=
  if off = 0 then s.io.doorbells.toNat
  else if off = 8 then s.io.mbBusy.toNat + s.io.nofw.toNat * 2
  else if off = 0x8000 then s.hstat
  else if off = 0x8010 then s.hw.plim
  else if 0x8040 ≤ off ∧ off < 0x80D0 then field s.retirementMap (8 * (off - 0x8040)) 64
  else 0

/-- A register unit of the mailbox region as the Ringmaster writes it, for whom every entry is RW (R355). -/
def State.putBoxUnit (s : State) (off v : Nat) : State :=
  if off = 0 then { s with io := { s.io with doorbells := BitVec.ofNat 32 v } }
  else if off = 8 then
    { s with io := { s.io with mbBusy := v.testBit 0, nofw := v.testBit 1, reqOld := if v.testBit 0 then s.io.reqOld else [] } }
  else if off = 0x10 then { s with io := { s.io with mbBusy := false, reqOld := [] } }
  else if off = 0x8000 then
    { s with hw := { s.hw with health := Health.ofCode (v % 4), replaceFlag := v.testBit 2, bootok := v.testBit 14,
                               booterr := field v 15 4, retiredShown := BitVec.ofNat 11 (field v 3 11) } }
  else if off = 0x8010 then { s with hw := { s.hw with plim := v % 2 ^ 16 } }
  else if 0x8040 ≤ off ∧ off < 0x80D0 then
    let base := 8 * (off - 0x8040)
    { s with hw := { s.hw with
        retired := s.hw.retired.filter (fun c => !(decide (base ≤ c) && decide (c < base + 64)))
          ++ (upFrom base 64).filter (fun c => v.testBit (c - base)) } }
  else s

/-- A byte of the mailbox region (R355). -/
def State.boxByte (s : State) (off : Nat) : Nat :=
  if boxBuffer off then (s.mem.byte (rmBoxBase + off)).toNat else s.boxUnit (unitOf off) / 256 ^ (off % 8) % 256

/-- Bytes of the mailbox region as a little-endian number. -/
def State.boxRead (s : State) (off n : Nat) : Nat :=
  match n with
  | 0 => 0
  | k + 1 => s.boxByte off + 256 * s.boxRead (off + 1) k

/-- A byte of a number replaced. -/
def withByte (v k b : Nat) : Nat := v % 256 ^ k + b % 256 * 256 ^ k + v / 256 ^ (k + 1) * 256 ^ (k + 1)

/-- Bytes stored by the Ringmaster to the mailbox region. -/
def State.boxStore (s : State) (off n v : Nat) : State :=
  match n with
  | 0 => s
  | k + 1 =>
    let s1 : State :=
      if boxBuffer off then { s with mem := s.mem.putByte (rmBoxBase + off) (BitVec.ofNat 8 v) }
      else s.putBoxUnit (unitOf off) (withByte (s.boxUnit (unitOf off)) (off % 8) (v % 256))
    s1.boxStore (off + 1) k (v / 256)

/-- Bytes stored by the Ringmaster to the mailbox region, with the poison of REQ and RSP. -/
def State.boxPut (s : State) (off n v : Nat) (psn : Bool) : State :=
  let s1 := s.boxStore off n v
  if boxBuffer off then { s1 with mem := s1.mem.markWritten (rmBoxBase + off) n psn } else s1

/-- Whether an address lies in the mailbox region. -/
def inBox (a : Nat) : Bool := decide (rmBoxBase ≤ a ∧ a < rmBoxBase + 0x10000)

/-- The value and the poison of `n` bytes at a physical address. -/
def State.physRead (s : State) (a n : Nat) : Nat × Bool :=
  if inBox a then (s.boxRead (a - rmBoxBase) n, s.mem.poisoned a n)
  else if a < 2 ^ 48 then (s.mem.read a n, s.mem.poisoned a n)
  else (s.host.read (s.busAddress a) n, s.host.poisoned (s.busAddress a) n)

/-- Bytes as a unit of the device reads them at a physical address: a read that a host does not answer brings poisoned units
(R387). Log 16 (DESIGN CHOICE). -/
def State.deviceRead (s : State) (pa n : Nat) : Nat × Bool :=
  if 2 ^ 48 ≤ pa ∧ !Config.hostAnswers s.tick then (Config.failedRead s.tick pa % 256 ^ n, true) else s.physRead pa n

/-- A store of `n` bytes at a physical address. -/
def State.physStore (s : State) (a n v : Nat) (psn : Bool) : State :=
  if inBox a then s.boxPut (a - rmBoxBase) n v psn
  else if a < 2 ^ 48 then { s with mem := s.mem.store a n v psn }
  else { s with host := s.host.store (s.busAddress a) n v psn }

/-- An 8-byte word at a physical address. -/
def State.physWord (s : State) (a : Nat) : W64 := BitVec.ofNat 64 (s.physRead a 8).1

/-! ### Partitions and contexts (R20, R358, R359, R396) -/

/-- The cells of partition p (R396, R397): those of its rectangle, when it exists. -/
def State.partCells (s : State) (p : Nat) : List Nat :=
  match keyed s.sys.parts p with
  | none => []
  | some w =>
    if wbit w 0 then
      let x0 := wfield w 1 6; let y0 := wfield w 7 5; let xw := wfield w 12 6; let yh := wfield w 18 5
      packageCells.filter (fun c => decide (x0 ≤ c % 48 ∧ c % 48 < x0 + xw ∧ y0 ≤ c / 48 ∧ c / 48 < y0 + yh))
    else []

/-- The partition of a cell (R20). -/
def State.partOf (s : State) (c : Nat) : Option Nat :=
  (s.sys.parts.find? (fun e => (s.partCells e.1).contains c)).map (·.1)

/-- The live cells of a list: those that are not retired (R35). -/
def State.live (s : State) (l : List Nat) : List Nat := l.filter (fun c => !s.hw.retired.contains c)

/-- Word k of the descriptor of a context in the context table (R358, R359). Log 46 (DEDUCED). -/
def State.ctxWord (s : State) (c k : Nat) : W64 := s.physWord (s.sys.ctxtab + 128 * c + 8 * k)

/-- Whether `n` bytes of an area of a descriptor lie in the pools (R359). -/
def State.areaSound (s : State) (a n : Nat) : Bool := n == 0 || s.inPools a n

/-- Whether the descriptor of context 0 is accepted (R359): only V, PTROOT, CBTAB and HTAB are used, and every other bit is
zero. Log 60 (DEDUCED). -/
def State.systemSound (s : State) : Bool :=
  let w (k : Nat) : W64 := s.ctxWord 0 k
  w 0 == 1 && wfield (w 2) 0 13 == 0 && wfield (w 2) 52 12 == 0
    && [1, 4, 6, 7, 8, 9, 10, 11, 12, 13, 14, 15].all (fun k => w k == 0)
    && (w 3).toNat % 4096 == 0 && (w 5).toNat % 256 == 0
    && s.areaSound (wfield (w 2) 13 39 * 8192) 8192 && s.areaSound (w 3).toNat (4096 * 32) && s.areaSound (w 5).toNat 256

/-- Whether a context's descriptor has V 1 (R358); one of context 0 that is rejected counts as none (R359).
Log 60 (DEDUCED). -/
def State.ctxValid (s : State) (c : Nat) : Bool := if c = 0 then s.systemSound else wbit (s.ctxWord c 0) 0

/-- The residence of a user context. -/
def State.resident (s : State) (c : Nat) : Option Resident := s.ctl.residents.find? (fun r => r.ctx == c)

/-- Whether a context is resident on a site (R20): context 0 on every site, a user context on the cells of its
partition. -/
def State.residentAt (s : State) (site c : Nat) : Bool :=
  if c = 0 then true
  else
    match s.resident c with
    | some r => r.cells.contains site
    | none => false

/-- Whether a context is halted on a cell by a double fault (R368). -/
def State.haltedAt (s : State) (site c : Nat) : Bool := s.halted.contains (site, c)

/-- The table addresses of a context that a walk or a lookup uses (R359, R361). -/
structure Tables where
  ptroot : Nat
  cbtab : Nat
  xtab : Nat
  htab : Nat
  deriving DecidableEq, Repr, Inhabited

/-- The tables of context 0, which are read from its descriptor, or of a user context, which were read at its restore
(R361). Log 46 (DEDUCED). -/
def State.tables (s : State) (c : Nat) : Tables :=
  match s.resident c with
  | some r => ⟨r.ptroot, r.cbtab, r.xtab, r.htab⟩
  | none =>
    ⟨wfield (s.ctxWord c 2) 13 39, (s.ctxWord c 3).toNat, (s.ctxWord c 4).toNat, (s.ctxWord c 5).toNat⟩

/-! ### The save area (R390, R394) -/

/-- The bytes of one image in the save area (R394). -/
def imageSize : Nat := 1152 * 1024

/-- The physical address of the image of the k-th cell (R394). -/
def imageBase (save k : Nat) : Nat := save + 4096 + k * imageSize

/-- Memory as the device finds an image there: the bytes that a shadow share holds come first (R390). -/
def State.savedWord (s : State) (a : Nat) : Nat :=
  match s.ctl.shadows.find? (fun h => h.bases.any (fun b => decide (b ≤ a ∧ a < b + 2 ^ 20))) with
  | some h => h.mem.read a 8
  | none => s.mem.read a 8

/-- The image whose number stands in a control block of a context's save area (R394). -/
def State.imageAt (s : State) (ctx save k : Nat) : Option Image :=
  s.ctl.images.find? (fun m => m.ctx == ctx && m.id == s.savedWord (imageBase save k))

/-- The saved images of a context that stand for its cells while it is not resident. -/
def State.absentImages (s : State) (ctx : Nat) : List Image :=
  if (s.resident ctx).isSome then []
  else (s.partCells (wfield (s.ctxWord ctx 0) 1 6)).zipIdx.filterMap (fun (_, k) => s.imageAt ctx (s.ctxWord ctx 10).toNat k)

/-- The item with a number that a saved image holds for a context that is not resident, a frozen one among them (R372, R389,
R407). -/
def State.awayItem (s : State) (id : Nat) : Option Item :=
  let saved := s.ctl.images.filter (fun m => m.items.any (fun x => x.id == id) && (s.absentImages m.ctx).any (fun a => a.id == m.id))
  let frozen := s.ctl.asleep.flatMap (fun f => f.images.filter (fun m => s.ctl.frozen.contains m.ctx))
  (saved ++ frozen).findSome? (fun m => m.items.find? (fun x => x.id == id))

/-! ### Translation (R363, R382 to R385) -/

/-- An access kind of R363. -/
inductive Access where
  | fetch | load | store | atomic | engineRead | engineWrite | image | descriptor | placement
  deriving DecidableEq, Repr, Inhabited

/-- The number `a` of an access kind (R363). -/
def Access.code : Access → Nat
  | .fetch => 0 | .load => 1 | .store => 2 | .atomic => 3 | .engineRead => 4 | .engineWrite => 5 | .image => 6
  | .descriptor => 7 | .placement => 7

/-- Whether the permission bits of a leaf suffice for an access kind (R363). -/
def Access.permitted (a : Access) (leaf : W64) : Bool :=
  match a with
  | .fetch => wbit leaf 4
  | .load | .engineRead | .image | .descriptor => wbit leaf 2
  | .store | .engineWrite => wbit leaf 3
  | .atomic => wbit leaf 2 && wbit leaf 3
  | .placement => true

/-- Whether an access kind writes (R384). -/
def Access.writes : Access → Bool
  | .store | .engineWrite | .atomic => true
  | _ => false

/-- The translation causes of R362, without the access kind. -/
inductive WalkFault where
  | notMapped | evicted | permission | homeMismatch | physRange | tableFormat | tablePoison | dirtyTrack
  deriving DecidableEq, Repr, Inhabited

/-- The cause code of a translation fault (R362). -/
def WalkFault.code (f : WalkFault) (a : Access) : Nat :=
  a.code +
  match f with
  | .notMapped => 0x40 | .evicted => 0x48 | .permission => 0x50 | .homeMismatch => 0x58 | .physRange => 0x60
  | .tableFormat => 0x68 | .tablePoison => 0x70 | .dirtyTrack => 0x78

/-- A failed translation: the cause and the level (R364). -/
structure NoPage where
  fault : WalkFault
  level : Nat
  deriving DecidableEq, Repr, Inhabited

/-- Whether a valid leaf at a level sets a reserved bit (R383). -/
def leafReserved (e : W64) (lvl : Nat) : Bool :=
  wbit e 5 || wbit e 63 || decide (wfield e 9 2 = 3) || (decide (wfield e 9 2 ≠ 1) && decide (wfield e 52 3 ≠ 0))
    || (wbit e 11 && decide (lvl ≠ 0)) || decide (wfield e 12 (10 * lvl) ≠ 0)

/-- The walk of R382 from a table at a level. -/
def State.walkFrom (s : State) (va : Nat) (lvl base : Nat) : Except NoPage (W64 × Nat) :=
  if !s.inPools base 8192 then .error ⟨.tableFormat, lvl⟩
  else
    let at_ := base + 8 * field va (12 + 10 * lvl) 10
    let e := s.physWord at_
    if (s.physRead at_ 8).2 then .error ⟨.tablePoison, lvl⟩
    else if !wbit e 0 then .error ⟨if wbit e 8 then .evicted else .notMapped, lvl⟩
    else if !wbit e 1 then
      match lvl with
      | 0 => .error ⟨.tableFormat, 0⟩
      | l + 1 =>
        if wbit e 12 || decide (wfield e 2 10 ≠ 0) || decide (wfield e 52 12 ≠ 0) then .error ⟨.tableFormat, l + 1⟩
        else s.walkFrom va l (wfield e 13 39 * 8192)
    else if decide (2 < lvl) || leafReserved e lvl then .error ⟨.tableFormat, lvl⟩
    else .ok (e, lvl)

/-- The physical address that a leaf at a level gives. -/
def leafAddress (leaf : W64) (lvl va : Nat) : Nat := wfield leaf 12 40 * 4096 + va % 2 ^ (12 + 10 * lvl)

/-- The checks of R384, in their order. -/
def State.checkLeaf (s : State) (a : Access) (leaf : W64) (lvl va : Nat) : Except NoPage Nat :=
  let pa := leafAddress leaf lvl va
  let home := wfield leaf 9 2
  if (if pa < 2 ^ 48 then !s.inPools pa 1 else !s.windowOpen pa) then .error ⟨.physRange, lvl⟩
  else if !(if pa < 2 ^ 48 then (home == 0 && s.inSpread pa 1) || (home == 1 && s.inNear (wfield leaf 52 3) pa 1)
            else home == 2) then .error ⟨.homeMismatch, lvl⟩
  else if !a.permitted leaf then .error ⟨.permission, lvl⟩
  else if a.writes && wbit leaf 7 && !wbit leaf 6 then .error ⟨.dirtyTrack, lvl⟩
  else .ok pa

/-- The level-0 leaves of the 64 KiB group of a page, when all sixteen are valid and have CONTIG 1 (R385). -/
def State.contigLeaves (s : State) (root va : Nat) : Option (List W64) :=
  (upFrom 0 16).mapM (fun k =>
    match s.walkFrom (va / 65536 * 65536 + 4096 * k) 5 root with
    | .ok (e, 0) => if wbit e 11 then some e else none
    | _ => none)

/-- The leaf that the device uses for a page of a group with CONTIG 1: any of the sixteen that it read, offset by page
within the group (R385). Log 11 (DESIGN CHOICE), 52 (DESIGN CHOICE). -/
def State.contigLeaf (s : State) (root va : Nat) (leaf : W64) : W64 :=
  match s.contigLeaves root va with
  | none => leaf
  | some l =>
    let j := Config.choice s.tick 11 % 16
    let e := l.getD j leaf
    let page := (wfield e 12 40 + 2 ^ 40 - j + va / 4096 % 16) % 2 ^ 40
    BitVec.ofNat 64 (wfield e 0 12 + page * 2 ^ 12 + wfield e 52 12 * 2 ^ 52)

/-- The walk of a context's tables, from the root to a leaf. -/
def State.walk (s : State) (ctx va : Nat) : Except NoPage (W64 × Nat) :=
  let root := (s.tables ctx).ptroot * 8192
  match s.walkFrom va 5 root with
  | .ok (e, 0) => .ok (if wbit e 11 then s.contigLeaf root va e else e, 0)
  | r => r

/-- A walk with its checks: the physical address of a virtual one (R382, R384). -/
def State.translate (s : State) (ctx : Nat) (a : Access) (va : Nat) : Except NoPage Nat := do
  let (leaf, lvl) ← s.walk ctx va
  s.checkLeaf a leaf lvl va

/-- The TLB entry of a site that covers a page (R385). -/
def State.tlbEntry (s : State) (site ctx va : Nat) : Option TlbEntry :=
  s.tlb.find? (fun e => e.site == site && e.ctx == ctx && e.page == va / 2 ^ (12 + 10 * e.level))

/-- The TLB with a leaf filled; a full TLB of 64 entries gives up one (R12, R385).
Log 11 (DESIGN CHOICE), 52 (DESIGN CHOICE). -/
def State.fillTlb (s : State) (site ctx va : Nat) (leaf : W64) (lvl : Nat) : State :=
  let mine := s.tlb.filter (fun e => e.site == site)
  let kept :=
    if mine.length < 64 then s.tlb
    else
      match pick mine (Config.choice s.tick 1) with
      | some v => s.tlb.filter (fun e => e != v)
      | none => s.tlb
  { s with tlb := ⟨site, ctx, lvl, va / 2 ^ (12 + 10 * lvl), leaf⟩ :: kept }

/-- The RTIME of a walk kept by the walker of a die, which remembers the 4,096 pages of each context that it walked last (R410).
Pages are numbered by their first 4 KiB. Log 52 (DESIGN CHOICE). -/
def State.noteWalkOn (s : State) (d ctx va lvl : Nat) : State :=
  let page := va / 2 ^ (12 + 10 * lvl) * 2 ^ (10 * lvl)
  let mine (w : Nat × Nat × Nat × Nat) : Bool := w.1 == d && w.2.1 == ctx
  let rest := s.ctl.walks.filter (fun w => !(mine w && w.2.2.1 == page))
  let kept := (rest.filter mine).take 4095 ++ rest.filter (fun w => !mine w)
  { s with ctl := { s.ctl with walks := (d, ctx, page, s.sys.rtime) :: kept } }

/-- The RTIME of a walk kept by the walker of a site's die (R385, R410). -/
def State.noteWalk (s : State) (site ctx va lvl : Nat) : State :=
  s.noteWalkOn (if site = ringmaster then 8 else dieOf site) ctx va lvl

/-- The walk of a page for a unit of a die that has no TLB, kept by the die's walker (R385, R410). -/
def State.noteDie (s : State) (d ctx va : Nat) : State :=
  match s.walk ctx va with
  | .ok (_, lvl) => s.noteWalkOn d ctx va lvl
  | .error _ => s

/-- The walks of the H-die's copy engine for `n` bytes at a virtual address, at most a page, which the walker of some die serves;
where the first byte does not translate the last is not walked (R385, R410). Log 11 (DESIGN CHOICE). -/
def State.noteCopy (s : State) (ctx : Nat) (a : Access) (va n : Nat) : State :=
  let d := Config.choice s.tick 12 % 8
  let s1 := s.noteDie d ctx (va % 2 ^ 72)
  match s.translate ctx a (va % 2 ^ 72) with
  | .ok _ => s1.noteDie d ctx ((va + n - 1) % 2 ^ 72)
  | .error _ => s1

/-- The walk that an access of a site to a page makes when the TLB lacks it, kept by the walker and, where the context is resident,
by the TLB, whether or not the leaf then passes the checks of R384 (R385, R386, R410). -/
def State.noteFetch (s : State) (site ctx va : Nat) : State :=
  if site = ringmaster || (s.tlbEntry site ctx va).isSome then s
  else
    match s.walk ctx va with
    | .ok (leaf, lvl) => (if s.residentAt site ctx then s.fillTlb site ctx va leaf lvl else s).noteWalk site ctx va lvl
    | .error _ => s

/-- How a hardware unit of a site turns an address into a physical one: the Ringmaster by R344, a cell by its TLB or a
walk (R386). -/
def State.locate (s : State) (site ctx : Nat) (a : Access) (va n : Nat) : Except NoPage Nat :=
  if site = ringmaster then if s.ringReaches va n then .ok va else .error ⟨.physRange, 0⟩
  else
    match s.tlbEntry site ctx va with
    | some e => s.checkLeaf a e.leaf e.level va
    | none => s.translate ctx a va

end Sys2Proof.Machine
end

