-- ==== Sys2Proof/Machine/Frames.lean ====
section
/-! DEFINITION. Causes (R362), codeblocks and descriptors (R299 to R302), placement (R34, R35), frames, their creation,
spilling and filling (R26, R32, R33, R79, R422), slots (R29) and the ready queue (R44). -/

namespace Sys2Proof.Machine

/-! ### Causes and traps -/

/-- The causes of R362. -/
inductive Cause where
  | illegalInstruction | systemOnly | threadletLength | effectBudget | frameRange | slotUndeclared | tagwinRange
  | placementFault | codeblockAbsent | codeblockDesc | scratchRange | scratchAlign | poisonConsumed | tileFormat
  | xopUnloaded | xopOperands | engineAlign | engineDesc | sparseMask | streamOrder | sparseFieldOverflow
  | atomicAlign | atomicTarget | poisonAtomic | poisonIndex | xgraphConfig | slotSpent | tagExhaust
  | mailboxFull | contextState | noContext
  | walk (f : WalkFault) (a : Access)
  deriving DecidableEq, Repr, Inhabited

/-- The code of a cause (R362). -/
def Cause.code : Cause → Nat
  | .illegalInstruction => 0x00 | .systemOnly => 0x01 | .threadletLength => 0x02 | .effectBudget => 0x03
  | .frameRange => 0x04 | .slotUndeclared => 0x05 | .tagwinRange => 0x06 | .placementFault => 0x07
  | .codeblockAbsent => 0x08 | .codeblockDesc => 0x09 | .scratchRange => 0x0A | .scratchAlign => 0x0B
  | .poisonConsumed => 0x0C | .tileFormat => 0x0D | .xopUnloaded => 0x0E | .xopOperands => 0x0F
  | .engineAlign => 0x10 | .engineDesc => 0x11 | .sparseMask => 0x12 | .streamOrder => 0x13
  | .sparseFieldOverflow => 0x14 | .atomicAlign => 0x15 | .atomicTarget => 0x16 | .poisonAtomic => 0x17
  | .poisonIndex => 0x18 | .xgraphConfig => 0x19 | .slotSpent => 0x1A | .tagExhaust => 0x1B
  | .mailboxFull => 0x20 | .contextState => 0x21 | .noContext => 0x22
  | .walk f a => f.code a

/-- Whose handler table designates the handler of a cause code: true for context 0 (R362). -/
def systemCause (code : Nat) : Bool := decide (0x20 ≤ code)

/-- A fault before its record: the cause and the fields of R365. -/
structure Trap where
  cause : Cause
  lane : Nat := 0
  detail : W64 := 0
  faddr : Nat := 0
  value : W64 := 0
  level : Nat := 0
  deriving DecidableEq, Repr, Inhabited

/-- A failed translation as a trap at an address. -/
def NoPage.trap (e : NoPage) (a : Access) (va : Nat) : Trap :=
  { cause := .walk e.fault a, faddr := va, level := e.level }

/-! ### Codeblock table entries and descriptors (R299 to R302) -/

/-- Where a remote codeblock lives (R299). -/
structure Remote where
  port : Nat
  pkg : Nat
  rctx : Nat
  rcb : Nat
  large : Bool
  deriving DecidableEq, Repr, Inhabited

/-- A codeblock table entry with V 1 (R299). -/
structure Codeblock where
  ring : Bool
  remote : Option Remote
  desc : Nat
  /-- The address of the descriptor and the reserved bits are as R299 requires. -/
  sound : Bool
  deriving DecidableEq, Repr, Inhabited

/-- The codeblock that a number names in a context's table (R241, R299, R345). An entry with REMOTE 1 is that of a remote
codeblock, whatever RING holds. Until CTXTAB is written, context 0 has no table, and the entries that the security root
installed stand for it (R313, R354). Log 46 (DEDUCED), 61 (DEDUCED), 64 (DESIGN CHOICE). -/
def State.codeblock (s : State) (ctx cb : Nat) : Option Codeblock :=
  let at_ := (s.tables ctx).cbtab + 32 * cb
  let w (k : Nat) : W64 := s.physWord (at_ + 8 * k)
  let ring := wbit (w 0) 2
  if ctx == 0 && !s.sys.ctxtabWritten then
    (keyed s.sys.bootEntries cb).map (fun d => { ring := true, remote := none, desc := d, sound := decide (d % 256 = 0) })
  else if !wbit (w 0) 0 || (ring && ctx != 0) then none
  else if wbit (w 0) 1 then
    some { ring := false, desc := 0,
           sound := decide (wfield (w 0) 3 61 = 0 ∧ wfield (w 1) 3 5 = 0 ∧ wfield (w 1) 45 19 = 0 ∧ w 2 = 0 ∧ w 3 = 0),
           remote := some ⟨wfield (w 1) 0 3, wfield (w 1) 8 16, wfield (w 1) 24 8, wfield (w 1) 32 12, wbit (w 1) 44⟩ }
  else
    let d := (w 1).toNat + wfield (w 2) 0 8 * 2 ^ 64
    some { ring := ring, remote := none, desc := d,
           sound := decide (d % 256 = 0 ∧ wfield (w 0) 3 61 = 0 ∧ wfield (w 2) 8 56 = 0 ∧ w 3 = 0) }

/-- A descriptor from its bytes (R300, R301), or none when it is rejected (R302). `rd off n` reads `n` bytes. A CODE that is not
a multiple of 4 is accepted: R302 does not list it. Log 64 (DESIGN CHOICE). -/
def parseDesc (rd : Nat → Nat → Nat) (ring : Bool) : Option Desc :=
  let h (k : Nat) : Nat := rd (8 * k) 8
  let slotWord (k : Nat) : Nat := rd (64 + 4 * k) 4
  let thrWord (k : Nat) : Nat := rd (128 + 8 * k) 8
  let slots : List (Nat × SlotDecl) :=
    (upFrom 0 16).filterMap (fun k =>
      let w := slotWord k
      if field w 31 1 = 1 then some (k, ⟨field w 0 12, field w 12 12, field w 24 4⟩) else none)
  let threads : List (Nat × ThreadDecl) :=
    (upFrom 0 16).filterMap (fun k =>
      let w := thrWord k
      if field w 34 1 = 1 then some (k, ⟨field w 0 32, field w 32 2⟩) else none)
  let clean : Bool :=
    decide (field (h 0) 18 46 = 0 ∧ field (h 2) 8 56 = 0 ∧ field (h 4) 8 56 = 0 ∧ h 6 = 0 ∧ h 7 = 0)
      && (upFrom 0 16).all (fun k =>
        (if field (slotWord k) 31 1 = 1 then field (slotWord k) 28 3 == 0 else slotWord k == 0)
          && (if field (thrWord k) 34 1 = 1 then field (thrWord k) 35 29 == 0 else thrWord k == 0))
  let large := field (h 0) 0 1 == 1
  let place : Place :=
    match field (h 0) 1 2 with
    | 0 => .hash | 1 => .fixed | 2 => .sender | _ => .near
  if clean && decide (field (h 0) 3 4 ≤ 12) && !threads.isEmpty
      && slots.all (fun e => (keyed threads e.2.thr).isSome) && threads.all (fun e => e.2.entry % 4 == 0)
      && !(ring && large) then
    some { large := large, place := place, wlog := field (h 0) 3 4, cellix := field (h 0) 7 11,
           code := BitVec.ofNat 72 (h 1 + field (h 2) 0 8 * 2 ^ 64),
           base := BitVec.ofNat 72 (h 3 + field (h 4) 0 8 * 2 ^ 64), stride := BitVec.ofNat 64 (h 5),
           slots := slots, threads := threads }
  else none

/-- The descriptor that a site's store holds (R302). -/
def State.descAt (s : State) (site ctx cb : Nat) : Option Desc :=
  (s.descs.find? (fun e => e.site == site && e.ctx == ctx && e.cb == cb)).map (·.desc)

/-- The window entry with SET 1 of a codeblock on a site (R302). -/
def State.windowAt (s : State) (site ctx cb : Nat) : Option Window :=
  s.windows.find? (fun w => w.site == site && w.ctx == ctx && w.cb == cb)

/-- A frame under a descriptor that its cell has loaded again (R303); its frame type stays. Log 61 (DEDUCED). -/
def Frame.under (f : Frame) (d : Desc) : Frame := { f with desc := { d with large := f.desc.large } }

/-- A site's descriptor store, window entry and frames after a load (R302, R303).
Log 52 (DESIGN CHOICE), 61 (DEDUCED). -/
def State.installDesc (s : State) (site ctx cb : Nat) (d : Desc) : State :=
  { s with
    descs := ⟨site, ctx, cb, d⟩ :: s.descs
    frames := s.frames.map (fun f =>
      if f.site == site && f.key.ctx == ctx && f.key.cb == cb then f.under d else f)
    windows :=
      match s.windowAt site ctx cb with
      | some _ => s.windows
      | none => ⟨site, ctx, cb, d.wlog, 0⟩ :: s.windows }

/-- A descriptor of a codeblock needed on a site: the site afterwards, and the descriptor or the fault. One that the store lacks
is read, checked and loaded; the walk for it is kept even where the descriptor is rejected (R302, R386, R387, R410). Only a cell on
which the context is resident loads it. A receiver whose own entry names a remote codeblock raises CODEBLOCK_DESC.
Log 16 (DESIGN CHOICE), 64 (DESIGN CHOICE). -/
def State.loadDesc (s : State) (site ctx cb : Nat) : State × Except Trap Desc :=
  match s.descAt site ctx cb with
  | some d => (s, .ok d)
  | none =>
    match s.codeblock ctx cb with
    | none => (s, .error { cause := .codeblockAbsent })
    | some c =>
      if c.remote.isSome || !c.sound then (s, .error { cause := .codeblockDesc })
      else
        let s1 := s.noteFetch site ctx c.desc
        match s.locate site ctx .descriptor c.desc 256 with
        | .error e => (s1, .error (e.trap .descriptor c.desc))
        | .ok pa =>
          match parseDesc (fun off n => (s.deviceRead (pa + off) n).1) c.ring with
          | none => (s1, .error { cause := .codeblockDesc })
          | some d => (if s.residentAt site ctx then s1.installDesc site ctx cb d else s1, .ok d)

/-- The window origin of a codeblock on a site; 0 before any is set (R21, R302). -/
def State.origin (s : State) (site ctx cb : Nat) : BitVec 32 :=
  match s.windowAt site ctx cb with
  | some w => w.origin
  | none => 0

/-- The tag order D of a key on a site (R36). -/
def State.tagOrder (s : State) (site : Nat) (k : Key) : Nat := (k.tag - s.origin site k.ctx k.cb).toNat

/-! ### Placement (R34, R35, R345) -/

/-- The hash of R34. -/
def placeHash (cb : Nat) (tag : BitVec 32) : Nat := (tag.toNat * 0x9E3779B1 + cb * 0x85EBCA77) % 2 ^ 32

/-- The list entry that stands for entry `k`: itself, or when it is retired the next live one, wrapping (R35). -/
def State.replacement (s : State) (l : List Nat) (k : Nat) : Option Nat :=
  (l.drop (k % l.length) ++ l.take (k % l.length)).find? (fun c => !s.hw.retired.contains c)

/-- The launch of a context and LID. -/
def State.launch (s : State) (ctx lid : Nat) : Option Launch :=
  s.ctl.launches.find? (fun l => l.ctx == ctx && l.lid == lid)

/-- The cell list of a sender (R35, R345): the list of its frame's launch, or for a sender of context 0 the cells of
its partition, or of its die. Where the LID of a user context names no live launch, the model takes the cells of the
context's residence, and for the Ringmaster, which has neither partition nor die, the cells of the package.
Log 58 (DESIGN CHOICE). -/
def State.cellList (s : State) (site ctx lid : Nat) : List Nat :=
  if ctx = 0 then
    if site = ringmaster then packageCells
    else
      match s.partOf site with
      | some p => s.partCells p
      | none => dieCells (dieOf site)
  else
    match s.launch ctx lid with
    | some l => l.cells
    | none =>
      match s.resident ctx with
      | some r => r.cells
      | none => []

/-- The address by which near placement chooses a cell (R34). -/
def Desc.nearAddress (d : Desc) (tag : BitVec 32) : Nat := (d.base + BitVec.ofNat 72 tag.toNat * d.stride.signExtend 72).toNat

/-- The walk that near placement makes on a site, kept by the TLB and the walker whatever comes of it (R386, R410). -/
def State.notePlacement (s : State) (site : Nat) (d : Desc) (ctx : Nat) (tag : BitVec 32) : State :=
  match d.place with
  | .near => s.noteFetch site ctx (d.nearAddress tag)
  | _ => s

/-- The home cell of a CELLV-0 reference (R34). By the Sender policy that is the sender's own cell, a retired one too where a thread
of the system context still runs there (R9). Log 47 (DEDUCED), 68 (DESIGN CHOICE). -/
def State.resolve (s : State) (site : Nat) (l : List Nat) (d : Desc) (ctx cb : Nat) (tag : BitVec 32) :
    Except Trap Nat :=
  let orFault (o : Option Nat) : Except Trap Nat :=
    match o with
    | some c => .ok c
    | none => .error { cause := .placementFault }
  match d.place with
  | .sender => .ok site
  | .hash => orFault (s.replacement l (placeHash cb tag / 2 ^ 20 % l.length))
  | .fixed => orFault (s.replacement l (d.cellix % l.length))
  | .near =>
    let va := d.nearAddress tag
    match s.locate site ctx .placement va 1 with
    | .error e => .error (e.trap .placement va)
    | .ok pa =>
      if pa < 2 ^ 48 then orFault (leastBy (fun c => hops c (sliceCell (homeSlice pa)) * 2048 + c) (s.live l))
      else orFault (pick (s.live l) (Config.choice s.tick 2))

/-- A CELLV-0 reference resolved on a site (R34): the descriptor is loaded, and the walk of near placement made, whatever comes of
it (R302, R410). -/
def State.resolveHome (s : State) (site : Nat) (l : List Nat) (ctx cb : Nat) (tag : BitVec 32) : State × Except Trap Nat :=
  let (s1, r) := s.loadDesc site ctx cb
  match r with
  | .error e => (s1, .error e)
  | .ok d => (s1.notePlacement site d ctx tag, s1.resolve site l d ctx cb tag)

/-! ### Frames -/

/-- The frame of a key on a site. -/
def State.frameAt (s : State) (site : Nat) (k : Key) : Option Frame :=
  s.frames.find? (fun f => f.site == site && f.key == k)

/-- A frame replaced by what a function makes of it. -/
def State.updateFrame (s : State) (site : Nat) (k : Key) (f : Frame → Frame) : State :=
  { s with frames := updateFirst (fun x => x.site == site && x.key == k) f s.frames }

/-- The frame removed. -/
def State.dropFrame (s : State) (site : Nat) (k : Key) : State :=
  { s with frames := s.frames.filter (fun f => !(f.site == site && f.key == k)) }

/-- The number of data words (R21). -/
def Desc.words (d : Desc) : Nat := if d.large then 256 else 64

/-- The frame reference of a key on a site, with CELLV 1 (R23, R24). -/
def frameRef (site : Nat) (k : Key) (epoch : Bool) : W64 :=
  BitVec.ofNat 64 (k.tag.toNat + k.cb * 2 ^ 32 + site % 2 ^ 11 * 2 ^ 44 + 2 ^ 55 + epoch.toNat * 2 ^ 56)

/-- The frame status word (R28). -/
def Frame.fsw (f : Frame) : W64 :=
  BitVec.ofNat 64 (f.flags.toNat + f.psn.toNat * 2 ^ 8 + f.lid * 2 ^ 16 + f.epoch.toNat * 2 ^ 22
    + f.desc.large.toNat * 2 ^ 23)

/-- A data word; one that nothing has written since the creation is the frame's own free value (R6, R33).
Log 3 (DESIGN CHOICE). -/
def Frame.word (f : Frame) (k : Nat) : W64 := (keyed f.words k).getD (Config.freeFrameWord f.seed k)

/-- A data word written, poisoned or not (R27, R104); a word beyond the frame type is not there. -/
def Frame.putWord (f : Frame) (k : Nat) (w : W64) (psn : Bool) : Frame :=
  if k < f.desc.words then
    { f with words := putKeyed f.words k w, poison := if psn then putNat f.poison k else dropNat f.poison k }
  else f

/-- The words of a vector word, lowest first (R21). -/
def vectorWords (v : VWord) : List W64 := (upFrom 0 32).map (fun k => v.extractLsb' (64 * k) 64)

/-- 32 words as a vector word, lowest first. -/
def wordsVector (ws : List W64) : VWord :=
  ws.foldr (fun w acc => (acc <<< 64) ||| w.setWidth 2048) 0

/-- Vector word j (R21). -/
def Frame.vector (f : Frame) (j : Nat) : VWord := wordsVector ((upFrom (64 + 32 * j) 32).map f.word)

/-- Vector word j written; the bits marked in `keep` stay as they are (R254). A word of which every bit is kept keeps
its poison. -/
def Frame.putVector (f : Frame) (j : Nat) (v keep : VWord) (psn : Bool) : Frame :=
  (upFrom 0 32).foldl (fun f k =>
    let kw : W64 := keep.extractLsb' (64 * k) 64
    let w : W64 := v.extractLsb' (64 * k) 64
    let at_ := 64 + 32 * j + k
    if kw = BitVec.allOnes 64 then f
    else f.putWord at_ ((f.word at_ &&& kw) ||| (w &&& ~~~kw)) (psn || (kw != 0 && f.poison.contains at_))) f

/-- Whether an instance of a frame is on a runner, other than the one named. -/
def State.running (s : State) (site : Nat) (k : Key) (but : Option Nat) : Bool :=
  s.insts.any (fun i => i.site == site && i.key == k && some i.runner != but)

/-- Whether a frame has a queued or a suspended entry (R32, R367). -/
def State.queued (s : State) (site : Nat) (k : Key) : Bool :=
  s.ready.any (fun r => r.site == site && r.key == k)
    || s.items.any (fun i => i.site == site && i.key == k
      && match i.body with
         | .suspended _ _ => true
         | _ => false)

/-! ### Room: entries, chunks and the spill area (R12, R79, R341, R422) -/

/-- Matching-store entries of a site (R12, R341). Log 48 (DEDUCED). -/
def storeEntries (site : Nat) : Nat := if site = ringmaster then 512 else 4096

/-- Chunks of 512 B that the frame store of a context has on a cell (R77, R79). -/
def State.storeChunks (s : State) (ctx : Nat) : Nat :=
  if ctx = 0 then 128
  else
    match s.resident ctx with
    | some r => r.funits * 128
    | none => 0

/-- The chunks that a frame needs (R79). -/
def Desc.chunks (d : Desc) : Nat := if d.large then 4 else 1

/-- Whether two contexts share a frame store: both are context 0 or neither is (R76). -/
def sameStore (a b : Nat) : Bool := (a == 0) == (b == 0)

/-- The frames of a site that hold an entry (R32). -/
def State.held (s : State) (site : Nat) : List Frame := s.frames.filter (fun f => f.site == site && f.life != .spilled)

/-- Chunks that overflowed ready entries occupy, 32 entries to a chunk (R79). -/
def State.overflowChunks (s : State) (site ctx : Nat) : Nat :=
  ((s.ready.filter (fun r => r.site == site && sameStore r.key.ctx ctx && r.overflow && !r.inSpill)).length + 31) / 32

/-- The first chunks at which `n` contiguous free chunks stand (R79). -/
def State.freeChunks (s : State) (site ctx n : Nat) : List Nat :=
  let fs := (s.held site).filter (fun f => sameStore f.key.ctx ctx)
  let used := (fs.map (fun f => f.desc.chunks)).sum + s.overflowChunks site ctx
  if used + n ≤ s.storeChunks ctx then
    (upFrom 0 (s.storeChunks ctx + 1 - n)).filter (fun c =>
      fs.all (fun f => decide (f.chunk + f.desc.chunks ≤ c ∨ c + n ≤ f.chunk)))
  else []

/-- The matching-store entries of a site that are free. -/
def State.freeEntries (s : State) (site : Nat) : List Nat :=
  (upFrom 0 (storeEntries site)).filter (fun e => (s.held site).all (fun f => f.entry != e))

/-- Whether a frame can take an entry and chunks without a victim. -/
def State.hasRoom (s : State) (site ctx : Nat) (d : Desc) : Bool :=
  decide ((s.held site).length < storeEntries site)
    && (site == ringmaster || !(s.freeChunks site ctx d.chunks).isEmpty)

/-- Units of the spill area that a spilled frame claims (R422). -/
def Desc.spillUnits (d : Desc) : Nat := if d.large then 33 else 9

/-- Units that a park-overflow entry claims (R422). -/
def Token.spillUnits (t : Token) : Nat := if t.kind = 2 then 5 else 1

/-- Units that the overflowed ready entries of a context in its spill area claim (R422). -/
def State.readyUnits (s : State) (ctx : Nat) : Nat :=
  let l := s.ready.filter (fun r => r.key.ctx == ctx && r.inSpill)
  ((l.map (·.site)).dedup.map (fun c => ((l.filter (fun r => r.site == c)).length + 3) / 4)).sum

/-- Whether a token stands in the park overflow area (R37). -/
def Token.inOverflow (t : Token) : Bool :=
  match t.phase with
  | .overflowed _ => true
  | _ => false

/-- Units of a context's spill area in use (R422). -/
def State.spillUsed (s : State) (ctx : Nat) : Nat :=
  ((s.frames.filter (fun f => f.key.ctx == ctx && f.life == .spilled)).map (fun f => f.desc.spillUnits)).sum
    + ((s.tokens.filter (fun t => t.key.ctx == ctx && t.inOverflow)).map Token.spillUnits).sum
    + s.readyUnits ctx

/-- Whether the spill area of a context has room for `n` units; the firmware spill area of the Ringmaster has (R341).
Log 48 (DEDUCED). -/
def State.spillRoom (s : State) (site ctx n : Nat) : Bool :=
  site == ringmaster ||
    match s.resident ctx with
    | some r => decide (s.spillUsed ctx + n ≤ r.spilln * 1024)
    | none => false

/-- Whether a frame can be a victim (R32). A frame that holds a reservation is none (R243). -/
def State.eligible (s : State) (f : Frame) : Bool :=
  f.life == .live && !s.running f.site f.key none && !s.queued f.site f.key && !f.fresh
    && !s.tokens.any (fun t => t.dcell == f.site && t.key == f.key && t.phase == .accepted)

/-- The victim of R32: the tag furthest from its origin, the lower entry of two; of one frame store when only chunks
are short. Log 32 (DESIGN CHOICE). -/
def State.victim (s : State) (site : Nat) (store : Option Nat) : Option Frame :=
  greatestBy (fun f => s.tagOrder site f.key * 8192 + (8191 - f.entry))
    ((s.held site).filter (fun f => s.eligible f && (store.map (sameStore f.key.ctx)).getD true))

/-- What the search for room ends with (R32). -/
inductive Room where
  | made (s : State)
  | noVictim
  | noSpill

/-- Room for a frame, spilling victims as R32 says; a large frame may need several. Each victim gives up its entry, so
that `fuel` bounds their number. -/
def State.spillFor (s : State) (site ctx : Nat) (d : Desc) (fuel : Nat) : Room :=
  if s.hasRoom site ctx d then .made s
  else
    match fuel with
    | 0 => .noVictim
    | n + 1 =>
      match s.victim site (if (s.held site).length < storeEntries site then some ctx else none) with
      | none => .noVictim
      | some v =>
        if s.spillRoom site v.key.ctx v.desc.spillUnits then
          (s.updateFrame site v.key (fun f => { f with life := .spilled })).spillFor site ctx d n
        else .noSpill

/-- Room for a frame (R32), with as many victims as frames hold entries. -/
def State.makeRoom (s : State) (site ctx : Nat) (d : Desc) : Room := s.spillFor site ctx d ((s.held site).length + 1)

/-- The entry and the first chunk that a frame takes (R32, R79). -/
def State.takeEntry (s : State) (site ctx : Nat) (d : Desc) : Nat × Nat :=
  ((pick (s.freeEntries site) (Config.choice s.tick 3)).getD 0,
   if site = ringmaster then 0 else (pick (s.freeChunks site ctx d.chunks) (Config.choice s.tick 4)).getD 0)

/-- The slots of a new frame (R29). -/
def newSlots (d : Desc) : List (Nat × SlotState) :=
  d.slots.map (fun e => (e.1, { count := e.2.init, reload := e.2.reload }))

/-- A frame created where there is room (R26, R33). Log 11 (DESIGN CHOICE). -/
def State.createFrame (s : State) (site : Nat) (k : Key) (epoch : Bool) (lid : Nat) (d : Desc)
    (handler : Option HandlerMark) (fresh : Bool) : State :=
  let (e, c) := s.takeEntry site k.ctx d
  { s with
    nextId := s.nextId + 1
    frames := { site := site, key := k, life := .live, entry := e, chunk := c, desc := d, epoch := epoch, lid := lid,
                flags := 0, psn := false, words := [], poison := [], slots := newSlots d, handler := handler,
                fresh := fresh, seed := s.nextId } :: s.frames }

/-- A frame put into the spill area; one that was Dying is Dying again once it is filled back (R33, R78). -/
def Frame.spill (f : Frame) : Frame := { f with life := .spilled, doomed := f.doomed || f.life == .dying }

/-- A spilled frame filled back where there is room (R33). -/
def State.fillFrame (s : State) (f : Frame) : State :=
  let (e, c) := s.takeEntry f.site f.key.ctx f.desc
  s.updateFrame f.site f.key (fun x =>
    { x with life := if x.doomed then .dying else .live, doomed := false, entry := e, chunk := c })

/-! ### The ready queue (R44, R79) -/

/-- Whether one more overflowed ready entry finds a place in the frame store of a context: in a chunk that such entries have begun,
or in a free one (R79). -/
def State.overflowRoom (s : State) (site ctx : Nat) : Bool :=
  (s.ready.filter (fun x => x.site == site && sameStore x.key.ctx ctx && x.overflow && !x.inSpill)).length % 32 != 0
    || !(s.freeChunks site ctx 1).isEmpty

/-- A ready entry queued: on the cell while it holds fewer than 1,024, else in the frame store or, when no chunk can be
had, in the spill area, for which no room is asked (R44, R79). Log 64 (DESIGN CHOICE). -/
def State.enqueueWith (s : State) (site : Nat) (k : Key) (thr cls : Nat)
    (sub : Option (Nat × (Nat × Nat × Bool) × W64)) : State :=
  let onCell := (s.ready.filter (fun r => r.site == site && !r.overflow)).length
  let r : Ready :=
    { site := site, key := k, thr := thr, cls := cls, stamp := s.nextId, waited := 0, urgent := false,
      overflow := decide (1024 ≤ onCell), inSpill := false, subst := sub }
  let s1 : State := { s with nextId := s.nextId + 1 }
  if !r.overflow || s.overflowRoom site k.ctx then { s1 with ready := s1.ready ++ [r] }
  else
    match s.victim site (some k.ctx) with
    | some v =>
      if s.spillRoom site v.key.ctx v.desc.spillUnits then
        let s2 := s1.updateFrame site v.key (fun f => { f with life := .spilled })
        { s2 with ready := s2.ready ++ [r] }
      else { s1 with ready := s1.ready ++ [{ r with inSpill := true }] }
    | none => { s1 with ready := s1.ready ++ [{ r with inSpill := true }] }

/-- A firing: the slot's threadlet enqueued on the frame in its declared class (R29, R44). Log 32 (DESIGN CHOICE). -/
def State.enqueue (s : State) (f : Frame) (thr : Nat) : State :=
  s.enqueueWith f.site f.key thr (((keyed f.desc.threads thr).map (·.cls)).getD 0) none

/-- A decrement of a slot (R29): none when the slot is spent. -/
def Frame.decrement (f : Frame) (slot : Nat) : Option (Frame × Option Nat) :=
  match keyed f.slots slot with
  | none => none
  | some st =>
    if st.count = 0 then none
    else if st.count = 1 then
      some ({ f with slots := putKeyed f.slots slot { st with count := st.reload } },
            (keyed f.desc.slots slot).map (·.thr))
    else some ({ f with slots := putKeyed f.slots slot { st with count := st.count - 1 } }, none)

end Sys2Proof.Machine
end

