-- ==== Sys2Proof/Machine/Ops.lean ====
section
/-! DEFINITION. The operations that every meaning is written over: registers of an instance (R6, R117), pending effects
(R40, R139), events (R347), fault records and the taking of a fault (R42, R364 to R368), and the ending of an item
(R371, R372). -/

namespace Sys2Proof.Machine

/-- What a step of the machine answers. -/
abbrev Out := Host.Outcome State Fault Refusal

/-! ### Registers of an instance (R6, R117) -/

/-- A scalar register: `s0` reads zero; one that the run has not written is the run's own free value.
Log 3 (DESIGN CHOICE). -/
def Inst.getS (i : Inst) (r : Reg) : W64 :=
  if r = 0 then 0 else (keyed i.s r.toNat).getD (Config.freeScalar i.seed r.toNat)

/-- A scalar register written; a write to `s0` is discarded. -/
def Inst.setS (i : Inst) (r : Reg) (v : W64) : Inst :=
  if r = 0 then i else { i with s := putKeyed i.s r.toNat v }

/-- A vector register. Log 3 (DESIGN CHOICE). -/
def Inst.getV (i : Inst) (r : Reg) : VWord := (keyed i.v r.toNat).getD (Config.freeVector i.seed r.toNat)

/-- A vector register written. -/
def Inst.setV (i : Inst) (r : Reg) (v : VWord) : Inst := { i with v := putKeyed i.v r.toNat v }

/-- A mask register: `m0` reads as all ones. Log 3 (DESIGN CHOICE). -/
def Inst.getM (i : Inst) (r : MReg) : W64 :=
  if r = 0 then BitVec.allOnes 64 else (keyed i.m r.toNat).getD (Config.freeMask i.seed r.toNat)

/-- A mask register written; `m0` goes on reading as all ones. -/
def Inst.setM (i : Inst) (r : MReg) (v : W64) : Inst :=
  if r = 0 then i else { i with m := putKeyed i.m r.toNat v }

/-- Flags raised by an instruction, sticky in its runner (R69). -/
def Inst.raise (i : Inst) (fl : BitVec 5) : Inst := { i with flags := i.flags ||| fl }

/-- A pending effect that counts `n` towards the bound of 32 (R40). Log 22 (DEDUCED). -/
def Inst.effect (i : Inst) (e : EffBody) (n : Nat := 1) : Except Trap Inst :=
  if 32 < i.nEff + n then .error { cause := .effectBudget }
  else .ok { i with nEff := i.nEff + n, effects := i.effects ++ [e] }

/-! ### The executing instance -/

/-- The instance on a runner of a site. -/
def State.instAt (s : State) (site runner : Nat) : Option Inst :=
  s.insts.find? (fun i => i.site == site && i.runner == runner)

/-- An instance put back on its runner. -/
def State.putInst (s : State) (i : Inst) : State :=
  { s with insts := updateFirst (fun x => x.site == i.site && x.runner == i.runner) (fun _ => i) s.insts }

/-- The instance removed from its runner. -/
def State.dropInst (s : State) (site runner : Nat) : State :=
  { s with insts := s.insts.filter (fun x => !(x.site == site && x.runner == runner)) }

/-- Where the instruction that is executing stands (R364). -/
def Cur.at_ (c : Cur) (i : Inst) : At := ⟨i.dyn, c.addr, c.w0, c.w1⟩

/-- The words of an instruction as INSTR records them (R364). -/
def instrWord (w0 : Word) (w1 : Option Word) : W64 := (w1.getD 0).zeroExtend 64 <<< 32 ||| w0.zeroExtend 64

/-- The instance after the instruction has issued: the counter moved past its words, and counted once (R40, R111). -/
def Inst.past (i : Inst) (c : Cur) : Inst :=
  { i with pc := c.addr + (if c.w1.isSome then 8 else 4), dyn := i.dyn + 1 }

/-- The frame of an instance; one exists as long as an instance runs on it (R33). -/
def State.frameOf (s : State) (i : Inst) : Frame := (s.frameAt i.site i.key).getD default

/-! ### Counters of launches (R48) -/

/-- Whether a token counts in TS and TR: one that an instruction of a user context or a launch sent (R48). A token from
another package counts there, when its acknowledgement returns (R244). -/
def Token.counted (t : Token) : Bool :=
  t.key.ctx != 0 &&
    match t.source with
    | .send | .launch => true
    | _ => false

/-- TS and TR of a site, context and LID changed. -/
def State.count (s : State) (site ctx lid ts tr : Nat) : State :=
  let hit (c : LaunchCount) : Bool := c.site == site && c.ctx == ctx && c.lid == lid
  if s.counts.any hit then
    { s with counts := updateFirst hit (fun c => { c with ts := c.ts + ts, tr := c.tr + tr }) s.counts }
  else { s with counts := ⟨site, ctx, lid, ts, tr⟩ :: s.counts }

/-- A token counted in TR on a cell (R48). -/
def State.countTr (s : State) (t : Token) : State :=
  if t.counted then s.count t.dcell t.key.ctx t.lid 0 1 else s

/-! ### Tokens -/

/-- The token with a number. -/
def State.token (s : State) (id : Nat) : Option Token := s.tokens.find? (fun t => t.id == id)

/-- A token replaced by what a function makes of it. -/
def State.updateToken (s : State) (id : Nat) (f : Token → Token) : State :=
  { s with tokens := updateFirst (fun t => t.id == id) f s.tokens }

/-- A token removed. -/
def State.dropToken (s : State) (id : Nat) : State := { s with tokens := s.tokens.filter (fun t => t.id != id) }

/-- A token that a unit of the device sends, put under way under a new number. -/
def State.sendToken (s : State) (t : Token) : State :=
  { s with nextId := s.nextId + 1, tokens := s.tokens ++ [{ t with id := s.nextId, arrival := s.nextId }] }

/-- A committed token of a unit, with the fields that its sender leaves zero. -/
def unitToken (src : TokSource) (k : Key) (slot kind idx dcell scell lid : Nat) (p : Payload) : Token :=
  { id := 0, key := k, epoch := false, lid := lid, slot := slot, kind := kind, idx := idx, rels := none, psn := false,
    dcell := dcell, scell := scell, payload := p, flags := 0, source := src, phase := .offered, committed := true,
    owner := none, seq := 0, prog := 0, unplaced := false, arrival := 0, remote := none,
    mailed := false, hidx := none }

/-- A pin of a graph slot released (R208, R211). Log 28 (DEDUCED). -/
def State.unpin (s : State) (site n : Nat) : State :=
  { s with gslots := updateFirst (fun g => g.site == site && g.slot == n) (fun g => { g with pins := g.pins - 1 }) s.gslots }

/-- A token at its end: it counts in TR, and the pin that it keeps is released (R48, R208, R371). -/
def State.discardToken (s : State) (t : Token) : State :=
  let s1 := (s.dropToken t.id).countTr t
  match t.pin with
  | some n => s1.unpin t.dcell n
  | none => s1

/-- The first 16 bytes of the header flit of a token (R237). -/
def Token.header (t : Token) : Nat :=
  let rels : Nat :=
    match t.rels with
    | none => 0 | some .cell => 1 | some .die => 2 | some .pkg => 3 | some .sys => 4
  t.key.ctx + t.key.cb * 2 ^ 8 + t.key.tag.toNat * 2 ^ 20 + t.epoch.toNat * 2 ^ 52 + t.lid * 2 ^ 53 + t.slot * 2 ^ 59
    + t.psn.toNat * 2 ^ 63 + t.dcell * 2 ^ 64 + t.scell * 2 ^ 75 + t.kind * 2 ^ 86 + t.idx * 2 ^ 89 + rels * 2 ^ 97

/-! ### Events (R347) -/

/-- The codeblock and slot of an event class, when its entry names a Ringmaster codeblock (R347). -/
def State.eventTarget (s : State) (cls : Nat) : Option (Nat × Nat) :=
  let e := s.physWord (s.sys.evtbase + 8 * cls)
  match s.codeblock 0 (wfield e 0 12) with
  | some c => if wbit e 16 && c.ring then some (wfield e 0 12, wfield e 12 4) else none
  | none => none

/-- The source of an event (R347): a cell for class 5, what the source word names for class 6, and the Ringmaster's
hardware units or the mailbox for the others. Log 59 (DEDUCED). -/
def eventSource (cls tag : Nat) (ws : List W64) : Nat :=
  if cls = 5 then tag / 256 else if cls = 6 then (ws.getD 1 0).toNat else 0

/-- An event raised: a token to the Ringmaster, or a bit of DROPS (R347). Log 59 (DEDUCED). -/
def State.raiseEvent (s : State) (cls tag : Nat) (ws : List W64) : State :=
  match s.eventTarget cls with
  | some (cb, slot) =>
    s.sendToken (unitToken (.event cls (eventSource cls tag ws)) ⟨0, cb, BitVec.ofNat 32 tag⟩ slot 1 0 ringmaster ringmaster 0 (.words ws))
  | none => { s with sys := { s.sys with drops := s.sys.drops ||| BitVec.ofNat 16 (2 ^ cls) } }

/-- A health event: class 6, tagged with its sequence number (R347, R414). -/
def State.healthEvent (s : State) (code source : Nat) : State :=
  let s1 : State := { s with hw := { s.hw with eventSeq := s.hw.eventSeq + 1 } }
  s1.raiseEvent 6 s.hw.eventSeq [BitVec.ofNat 64 code, BitVec.ofNat 64 source]

/-! ### Freeing frames and ending items (R33, R371, R372) -/

/-- An operation replaced by what a function makes of it. -/
def State.updateOp (s : State) (id : Nat) (f : Op → Op) : State :=
  { s with ops := updateFirst (fun o => o.id == id) f s.ops }

/-- The operation with a number. -/
def State.op (s : State) (id : Nat) : Option Op := s.ops.find? (fun o => o.id == id)

/-- An operation removed from the request table, its pin released (R291). -/
def State.dropOp (s : State) (id : Nat) : State :=
  match s.ops.find? (fun o => o.id == id) with
  | none => s
  | some o =>
    let s1 : State := { s with ops := s.ops.filter (fun x => x.id != id) }
    match o.kind with
    | .mu m => if m.cmd == .rdx then s1.unpin o.site m.gslot else s1
    | _ => s1

/-- A `kill` of an item sent to its cell, behind every action sent before (R368, R372). -/
def State.sendKill (s : State) (it : Item) : State :=
  { s with
    nextId := s.nextId + 1
    actions := s.actions ++ [{ id := s.nextId, site := it.site, by_ := 0, ctx := it.ctx, kind := it.kind,
                               fref := it.fref, thr := it.thr, hidx := it.hidx, gen := it.gen, didx := 0,
                               opcode := (0, 0, false), act := .kill, seq := 0 }] }

/-- A frame removed; when it is a handler frame whose item still waits, on its cell or in the image of a context that is not
resident, a `kill` of that item follows whatever its own commit sent (R372). -/
def State.freeFrame (s : State) (site : Nat) (k : Key) : State :=
  match s.frameAt site k with
  | none => s
  | some f =>
    let s1 := s.dropFrame site k
    match f.handler with
    | none => s1
    | some h =>
      match (s1.items.find? (fun x => x.id == h.item)).or (s1.awayItem h.item) with
      | some it => s1.sendKill it
      | none => s1

/-- A Dying frame freed once nothing holds it (R33). -/
def State.settle (s : State) (site : Nat) (k : Key) : State :=
  match s.frameAt site k with
  | some f =>
    if (f.life == .dying || f.life == .spilled && f.doomed) && !s.running site k none && !s.queued site k then s.freeFrame site k else s
  | none => s

/-- What is left of an item discarded, as `kill` does (R371); the frame of a suspended entry then follows R33. -/
def State.discardBody (s : State) (it : Item) : State :=
  match it.body with
  | .suspended _ _ => s.settle it.site it.key
  | .op id => s.dropOp id
  | .token id =>
    match s.token id with
    | some t => s.discardToken t
    | none => s

/-- The item with a number removed from the items that await an action. -/
def State.takeItem (s : State) (id : Nat) : State := { s with items := s.items.filter (fun x => x.id != id) }

/-- An item killed (R371). -/
def State.killItem (s : State) (it : Item) : State := (s.takeItem it.id).discardBody it

/-- The requests of a Carousel when nobody waits any longer for those of a runner: what is in the array stays there until
its reservations end (R228). -/
def leaveArray (site runner : Nat) (l : List CarJob) : List CarJob :=
  let mine (j : CarJob) : Bool := j.site == site && j.who == .runner runner
  (l.filter (fun j => !(mine j && j.entered.isNone))).map (fun j => if mine j then { j with delivered := true } else j)

/-- Whether a token holds the matching entry of a frame: it is accepted for its key and its EPOCH (R26, R243). -/
def Token.reserves (t : Token) (f : Frame) : Bool :=
  t.dcell == f.site && t.key == f.key && t.epoch == f.epoch && t.phase == .accepted

/-- An instance taken off its runner: the reservations of its tokens are released (R42, R243), and a frame that only one of
them had created is gone. -/
def State.releaseInst (s : State) (i : Inst) : State :=
  let mine (t : Token) : Bool := !t.committed && t.owner == some (i.site, i.runner)
  let s1 : State :=
    { s with
      tokens := s.tokens.filter (fun t => !mine t)
      carJobs := leaveArray i.site i.runner s.carJobs }
  let s2 : State :=
    { s1 with frames := s1.frames.filter (fun f =>
        !(f.fresh && s.tokens.any (fun t => mine t && t.reserves f) && !s1.tokens.any (fun t => t.reserves f))) }
  (i.pins.foldl (fun s n => s.unpin i.site n) s2).dropInst i.site i.runner

/-- The window request of a commit that is over (R248). Log 58 (DESIGN CHOICE). -/
def State.dropRequest (s : State) (i : Inst) : State :=
  match i.phase with
  | .tagwin no => { s with ctl := { s.ctl with tagwins := s.ctl.tagwins.filter (fun r => r.no != no) } }
  | _ => s

/-- An instance abandoned: it returns to the ready queue in its class and runs again later (R42). Its class is the one that
its entry had when it was chosen, and its failed validations are forgotten. Its entry is a new one in the queue: the last to have
arrived, with Waited 0 and Urgent 0. A `tagwin` request of its own that is under way is withdrawn, and the cells that have
installed it keep it. Log 55 (DEDUCED), 58 (DESIGN CHOICE). -/
def State.abandon (s : State) (i : Inst) : State :=
  ((s.dropRequest i).releaseInst i).enqueueWith i.site i.key i.thr i.cls i.subst

/-! ### Taking a fault (R42, R364 to R368) -/

/-- What a fault record is made of (R364), with the item it leaves (R367). -/
structure FaultSpec where
  site : Nat
  kind : Nat
  cause : Nat
  lane : Nat := 0
  dyn : Nat := 0
  thr : Nat := 0
  ctx : Nat
  lid : Nat
  hidx : Nat := 0
  key : Key
  epoch : Bool
  iaddr : VAddr := 0
  detail : W64 := 0
  faddr : Nat := 0
  value : W64 := 0
  level : Nat := 0
  instr : W64 := 0
  held : Option VWord := none
  body : ItemBody
  /-- FREF names a handler frame (R368). -/
  fromHandler : Bool
  deriving DecidableEq, Repr, Inhabited

/-- The words FW0 to FW7 of a record (R364). -/
def FaultSpec.record (f : FaultSpec) (held double : Bool) (gen : Nat) : List W64 :=
  [BitVec.ofNat 64 (f.cause + f.kind * 2 ^ 7 + held.toNat * 2 ^ 9 + f.lane % 64 * 2 ^ 10 + f.dyn % 512 * 2 ^ 16
     + f.thr * 2 ^ 25 + f.site * 2 ^ 29 + f.ctx * 2 ^ 40 + f.lid * 2 ^ 48 + f.hidx * 2 ^ 54),
   frameRef f.site f.key f.epoch,
   f.iaddr.setWidth 64,
   f.detail,
   BitVec.ofNat 64 f.faddr,
   f.value,
   BitVec.ofNat 64 (f.faddr / 2 ^ 64 % 2 ^ 8 + f.iaddr.toNat / 2 ^ 64 * 2 ^ 8 + f.level * 2 ^ 16 + double.toNat * 2 ^ 19
     + gen % 256 * 2 ^ 20),
   f.instr]

/-- The codeblock that a handler table names for a cause (R360): entry c of the table of a context, as the restore of a
user context read it (R361). Log 46 (DEDUCED). -/
def State.handlerEntry (s : State) (ctx cause : Nat) : Option Nat :=
  let e :=
    match s.resident ctx with
    | some r => r.handlers.getD cause 0
    | none => (s.physRead ((s.tables ctx).htab + 2 * cause) 2).1
  if field e 15 1 = 1 then some (field e 0 12) else none

/-- The fault token of a record sent, or false when it cannot create its handler frame as far as the faulting cell can tell; what
the cell has loaded for it stays (R302, R366, R368). Log 4 (DESIGN CHOICE), 47 (DEDUCED). -/
def State.faultToken (s : State) (f : FaultSpec) (item : Nat) (record : List W64) : State × Bool :=
  let hctx := if systemCause f.cause then 0 else f.ctx
  match if hctx == 0 && !s.ctxValid 0 then none else s.handlerEntry hctx f.cause with
  | none => (s, false)
  | some cb =>
    match s.codeblock hctx cb with
    | none => (s, false)
    | some c =>
      if c.ring || c.remote.isSome then (s, false)
      else
        let (s1, r) := s.loadDesc f.site hctx cb
        match r with
        | .error _ => (s1, false)
        | .ok d =>
          let n := (keyed s1.faultCount f.site).getD 0
          let tag : BitVec 32 := BitVec.ofNat 32 (f.site * 2 ^ 21 + n % 2 ^ 21)
          let cells := s1.cellList f.site (if systemCause f.cause then 0 else f.ctx) f.lid
          if (keyed d.threads 0).isNone || (s1.live cells).isEmpty then (s1, false)
          else
            let s2 := s1.notePlacement f.site d hctx tag
            match s1.resolve f.site cells d hctx cb tag with
            | .error _ => (s2, false)
            | .ok home =>
              ({ s2 with faultCount := putKeyed s2.faultCount f.site (n + 1) }.sendToken
                (unitToken (.fault item f.held) ⟨hctx, cb, tag⟩ 0 4 0 home f.site f.lid (.words record)), true)

/-- The context of an item halted on the item's cell, and event class 5 raised with the record (R368): its live launches will
end as halted (R339). Log 35 (DEDUCED). -/
def State.haltAt (s : State) (it : Item) (record : List W64) : State :=
  let s1 : State := if s.haltedAt it.site it.ctx then s else { s with halted := (it.site, it.ctx) :: s.halted }
  let s2 : State := { s1 with ctl := { s1.ctl with launches := s1.ctl.launches.map (fun l =>
    if l.ctx == it.ctx && !l.ended then { l with halted := true } else l) } }
  s2.raiseEvent 5 (256 * it.site + it.ctx) record

/-- The steps of a double fault on a cell (R368): the item is discarded, the context stops on the cell, every instance of it that
a runner holds is abandoned, and event class 5 carries the record. Log 31 (DEDUCED), 35 (DEDUCED), 47 (DEDUCED). -/
def State.doubleFault (s : State) (it : Item) (record : List W64) : State :=
  let s1 := s.discardBody it
  ((s1.insts.filter (fun i => i.site == it.site && i.key.ctx == it.ctx)).foldl State.abandon s1).haltAt it record

/-- A record with HELD 0 and DOUBLE 1 (R364, R368). -/
def doubleRecord (ws : List W64) : List W64 :=
  ws.zipIdx.map (fun (w, k) => if k = 0 then w &&& ~~~((1 : W64) <<< 9) else if k = 6 then w ||| ((1 : W64) <<< 19) else w)

/-- A fault of the Ringmaster (R343): its record goes to the codeblock of event class 5; a fault of that codeblock's
own instances halts the Ringmaster. Log 31 (DEDUCED). -/
def State.ringFault (s : State) (f : FaultSpec) (it : Item) (gen : Nat) : State :=
  match s.eventTarget 5 with
  | some (cb, _) =>
    if f.key.cb = cb then { s with hw := { s.hw with rmHalted := true, health := .fatal }, items := it :: s.items }
    else { s with items := it :: s.items }.raiseEvent 5 0x7FF00 (f.record true false gen)
  | none => { s with items := it :: s.items }.raiseEvent 5 0x7FF00 (f.record true false gen)

/-- A fault raised: its record made, its item left to await an action, and its token sent to the designated handler;
or a double fault (R364 to R368). -/
def State.raiseFault (s : State) (f : FaultSpec) : State :=
  let gen := (keyed s.genCount f.site).getD 0
  let it : Item :=
    { id := s.nextId, site := f.site, kind := f.kind, ctx := f.ctx, lid := f.lid, key := f.key,
      fref := frameRef f.site f.key f.epoch, thr := f.thr, hidx := f.hidx, gen := gen % 256, body := f.body,
      handler := none }
  let s1 : State := { s with nextId := s.nextId + 1, genCount := putKeyed s.genCount f.site (gen + 1) }
  if f.site = ringmaster then s1.ringFault f it gen
  else if f.fromHandler then s1.doubleFault it (f.record false true gen)
  else
    let (s2, sent) := s1.faultToken f it.id (f.record true false gen)
    if sent then { s2 with items := it :: s2.items } else s2.doubleFault it (f.record false true gen)

/-- A split-phase fault of an operation, which is held in its request-table entry (R258, R271, R364, R367). -/
def State.faultOp (s : State) (o : Op) (h : HeldOp) (lane : Nat) (data : Option VWord) : State :=
  { s with ops := updateFirst (fun x => x.id == o.id) (fun x => { x with heldOp := some h, item := some s.nextId }) s.ops
  }.raiseFault
    { site := o.site, kind := 1, cause := h.cause, lane := lane, dyn := o.dyn, thr := o.thr, ctx := o.key.ctx,
      lid := o.lid, hidx := o.hidx, key := o.key, epoch := o.epoch, iaddr := o.iaddr, detail := h.detail,
      faddr := h.faddr.toNat, value := h.value, level := h.level, instr := instrWord o.w0 o.w1, held := data,
      body := .op o.id, fromHandler := o.fromHandler }

/-- Whether the launch of an instance is marked killed on its cell (R374). -/
def State.underKill (s : State) (i : Inst) : Bool :=
  i.key.ctx != 0 && s.killed.contains (i.site, i.key.ctx, (s.frameOf i).lid)

/-- The end of a run under a kill mark: no effect, and the frame frees once no runner holds it (R374). -/
def State.endKilled (s : State) (i : Inst) : State :=
  let s1 := s.releaseInst i
  if s1.running i.site i.key none then s1 else s1.freeFrame i.site i.key

/-- The synchronous fault of an instance (R42): every effect is discarded, the runner is free, the frame is unchanged,
and a suspended entry awaits the handler's action; under a kill mark nothing is left of it (R374).
Log 4 (DESIGN CHOICE). -/
def State.takeFault (s : State) (i : Inst) (w : At) (t : Trap) : State :=
  let f := s.frameOf i
  if s.underKill i then s.endKilled i
  else (s.releaseInst i).raiseFault
    { site := i.site, kind := 0, cause := t.cause.code, lane := t.lane, dyn := w.dyn, thr := i.thr, ctx := i.key.ctx,
      lid := f.lid, key := i.key, epoch := f.epoch, iaddr := w.addr, detail := t.detail, faddr := t.faddr,
      value := t.value, level := t.level, instr := instrWord w.w0 w.w1, body := .suspended i.thr i.cls,
      fromHandler := f.handler.isSome }

/-- The meaning of an instruction word, which acts on its own instance and on what the cell keeps beside it: the
counter moves on, or a fault is taken (R40, R42). What the cell has come to keep stays when a fault is taken. -/
def liftS (f : State → Inst → Cur → State × Except Trap Inst) (s : State) : Out :=
  match s.cur with
  | none => .fault .noInstance
  | some c =>
    match s.instAt c.site c.runner with
    | none => .fault .noInstance
    | some i =>
      match f s (i.past c) c with
      | (s', .ok i') => .next (s'.putInst i')
      | (s', .error t) => .next (s'.takeFault i (c.at_ i) t)

/-- The meaning of an instruction word that changes its own instance only. Log 22 (DEDUCED), 56 (DESIGN CHOICE). -/
def lift (f : State → Inst → Cur → Except Trap Inst) : State → Out :=
  liftS (fun s i c => (s, f s i c))

/-- The meaning of an instruction word that changes its own instance and the cell, or neither when it faults. -/
def liftBoth (f : State → Inst → Cur → Except Trap (State × Inst)) : State → Out :=
  liftS (fun s i c =>
    match f s i c with
    | .ok (s', i') => (s', .ok i')
    | .error t => (s, .error t))

/-- The meaning of an instruction word that reads registers only and cannot fault. -/
def liftPure (f : Inst → Inst) : State → Out := lift (fun _ i _ => .ok (f i))

end Sys2Proof.Machine
end

