-- ==== Sys2Proof/Machine/Races.lean ====
section
/-! DEFINITION. Races over scratch (R102, R196): between a stream-engine command or an MU instruction, from its issue until its
completion signal is applied, and the writes and reads of others in that time. -/

namespace Sys2Proof.Machine

/-! ### Bytes by unit -/

/-- The n low bytes of a number at an offset, lowest first. -/
def bytesAt (o n v : Nat) : List (Nat × Byte) := (upFrom 0 n).map (fun k => (o + k, BitVec.ofNat 8 (v / 256 ^ k)))

/-- The bytes of a unit for which a test holds, bit b for byte b. -/
def unitMask (u : Nat) (p : Nat → Bool) : Nat := ((upFrom 0 8).map (fun b => if p (u + b) then 2 ^ b else 0)).sum

/-- The bytes that a list marks in a unit. -/
def maskIn (l : List (Nat × Nat)) (u : Nat) : Nat := (l.filter (fun e => e.1 == u)).foldl (fun acc e => acc ||| e.2) 0

/-- The bytes of a mask that are not in another. -/
def maskMinus (a b : Nat) : Nat := a ^^^ (a &&& b)

/-- A unit with its contents. -/
def Memory.copyUnit (m : Memory) (u : Nat) : UnitCopy := ⟨u, m.read u 8, m.poisoned u 8⟩

/-- Memory with a unit as a copy has it. -/
def Memory.putUnit (m : Memory) (c : UnitCopy) : Memory := m.store c.at_ 8 c.val c.psn

/-- A copy of a unit with those of some written bytes that lie in it, and their poison (R104). -/
def UnitCopy.over (c : UnitCopy) (bs : List (Nat × Byte)) (psn : Bool) : UnitCopy :=
  let mine := bs.filter (fun b => unitOf b.1 == c.at_)
  { c with
    val := mine.foldl (fun v b => withByte v (b.1 % 8) b.2.toNat) c.val
    psn := if mine.isEmpty then c.psn else psn || (c.psn && unitMask c.at_ (fun a => mine.any (fun b => b.1 == a)) != 255) }

/-! ### The races of one command (R102) -/

/-- Whether a command has its own contents of a unit. -/
def Race.has (r : Race) (u : Nat) : Bool := r.seen.any (fun c => c.at_ == u)

/-- Scratch as a command reads it. -/
def Race.view (r : Race) (m : Memory) : Memory := r.seen.foldl Memory.putUnit m

/-- The units of a run of bytes that a command reads: each keeps, for the command, what its first read of it found. -/
def Race.look (r : Race) (m : Memory) (a n : Nat) : Race :=
  { r with seen := r.seen ++ ((unitsOf a n).filter (fun u => !r.has u)).map m.copyUnit }

/-- Bytes written by a command, but for those that a racing write keeps. -/
def Race.write (r : Race) (m : Memory) (a n v : Nat) (psn : Bool) : Memory :=
  if (unitsOf a n).all (fun u => maskIn r.kept u == 0) then m.store a n v psn
  else (upFrom 0 n).foldl (fun (m : Memory) k =>
    if (maskIn r.kept (unitOf (a + k))).testBit ((a + k) % 8) then m else m.store (a + k) 1 (v / 256 ^ k) psn) m

/-- What a command keeps of bytes that it has written. -/
def Race.written (r : Race) (a n v : Nat) (psn : Bool) : Race :=
  { r with
    seen := r.seen.map (fun c => c.over (bytesAt a n v) psn)
    wrote := r.wrote ++ (unitsOf a n).map (fun u =>
      (u, maskMinus (unitMask u (fun x => decide (a ≤ x ∧ x < a + n))) (maskIn r.kept u))) }

/-- A racing write of bytes of a unit: `old` says whether the command reads the unit's former contents, and `yields` whether its
own value stays in the unit, which it can while no racing write has stayed there. Log 65 (DESIGN CHOICE). -/
def Race.meet (r : Race) (m : Memory) (u mask : Nat) (old yields : Bool) : Race :=
  let own : Bool := yields && maskIn r.kept u == 0
  { r with
    seen := if old && !r.has u then r.seen ++ [m.copyUnit u] else r.seen
    kept := if own then r.kept else r.kept ++ [(u, mask)]
    wrote := if own then r.wrote else r.wrote.map (fun e => if e.1 == u then (u, maskMinus e.2 mask) else e) }

/-- Scratch after an MU instruction has written it, with the bytes that racing writes keep as they were. -/
def Race.merge (r : Race) (old new : Memory) : Memory :=
  r.kept.foldl (fun (m : Memory) e =>
    if e.2 = 255 then m.putUnit (old.copyUnit e.1)
    else (upFrom 0 8).foldl (fun (m : Memory) b =>
      if e.2.testBit b then m.putByte (e.1 + b) (old.byte (e.1 + b)) else m) m) new

/-- What a later MU instruction reads in a unit, after an earlier one has written some runs (R196). -/
def UnitCopy.follow (c : UnitCopy) (new : Memory) (runs : List (Nat × Nat)) : UnitCopy :=
  let mine := (upFrom c.at_ 8).filter (fun a => runs.any (fun x => decide (x.1 ≤ a ∧ a < x.1 + x.2)))
  c.over (mine.map (fun a => (a, new.byte a))) (new.poisoned c.at_ 8)

/-- What an MU instruction keeps of the runs that it has written (R196). -/
def Race.placed (r : Race) (old : Memory) (runs : List (Nat × Nat)) : Race :=
  { r with
    before := r.before ++ ((runs.flatMap (fun x => unitsOf x.1 x.2)).dedup).map old.copyUnit
    wrote := r.wrote ++ runs.flatMap (fun x => (unitsOf x.1 x.2).map (fun u =>
      (u, maskMinus (unitMask u (fun y => decide (x.1 ≤ y ∧ y < x.1 + x.2))) (maskIn r.kept u)))) }

/-! ### The races of a cell (R102, R196) -/

/-- Whether a kind of operation races with a write: an engine command or an MU instruction with that of a commit, an MU
instruction alone with that of an engine. -/
def OpKind.races (k : OpKind) (byEngine : Bool) : Bool :=
  match k with
  | .engine _ => !byEngine
  | .mu _ => true
  | _ => false

/-- An operation with its races changed. -/
def OpKind.mapRace (k : OpKind) (f : Race → Race) : OpKind :=
  match k with
  | .engine e => .engine { e with race := f e.race }
  | .mu m => .mu { m with race := f m.race }
  | k => k

/-- The races of an operation. -/
def OpKind.race (k : OpKind) : Race :=
  match k with
  | .engine e => e.race
  | .mu m => m.race
  | _ => {}

/-- Whether a completion signal that is not yet applied stands for a command or instruction that races with a write. -/
def Token.races (t : Token) (byEngine : Bool) : Bool :=
  t.source == .completion && (!byEngine || !t.race.before.isEmpty)

/-- The commands and instructions of a context on a cell whose completion signals are not applied, by their request-table
entries, with their races. -/
def State.racesOf (s : State) (site ctx : Nat) (byEngine : Bool) : List (Nat × Race) :=
  ((s.ops.filter (fun o => o.site == site && o.key.ctx == ctx && o.kind.races byEngine)).map (fun o => (o.hidx, o.kind.race)))
    ++ ((s.tokens.filter (fun t => t.dcell == site && t.key.ctx == ctx && t.races byEngine)).map
      (fun t => (t.hidx.getD 0, t.race)))

/-- A write of bytes to scratch, by a commit or by an engine command, as what races with it takes it (R102, R196). A unit of the
write yields to all that race there or to none, so that of two which write the unit in order the later one's value or that of the
write stays. Log 65 (DESIGN CHOICE). -/
def State.meetRaces (s : State) (site ctx : Nat) (byEngine : Bool) (bs : List (Nat × Byte)) (psn : Bool) : State :=
  let units := (bs.map (fun b => unitOf b.1)).dedup
  let met (h : Nat) (r : Race) : Race :=
    let r1 := units.foldl (fun r u =>
      r.meet s.scratch u (unitMask u (fun a => bs.any (fun b => b.1 == a))) (Config.raceReads s.tick h u)
        (Config.raceYields s.tick u)) r
    { r1 with before := r1.before.map (fun c => c.over bs psn) }
  { s with
    ops := s.ops.map (fun o =>
      if o.site == site && o.key.ctx == ctx && o.kind.races byEngine then { o with kind := o.kind.mapRace (met o.hidx) } else o)
    tokens := s.tokens.map (fun t =>
      if t.dcell == site && t.key.ctx == ctx && t.races byEngine then { t with race := met (t.hidx.getD 0) t.race } else t) }

/-- Whether a byte of scratch keeps the value that a command or instruction has given it, against a racing write. -/
def State.shielded (s : State) (site ctx : Nat) (byEngine : Bool) (a : Nat) : Bool :=
  (s.racesOf site ctx byEngine).any (fun x => (maskIn x.2.wrote (unitOf a)).testBit (a % 8))

/-- Scratch as a threadlet finds it: a unit that an MU instruction has written stands as before or as written, for each unit by
itself, until the instruction's signal is applied (R196). Log 65 (DESIGN CHOICE). -/
def State.scratchFor (s : State) (site ctx : Nat) : Memory :=
  ((s.racesOf site ctx true).flatMap (fun x => x.2.before.filter (fun c => Config.raceReads s.tick x.1 c.at_))).foldl
    Memory.putUnit s.scratch

end Sys2Proof.Machine
end

