-- ==== Sys2Proof/Machine/Operands.lean ====
section
/-! DEFINITION. Operand forms: frame word indices and pending frame writes (R139, R159, R160), scratch offsets and
pending scratch writes (R80, R139, R162 to R164), vector lanes under a mask (R169, R170), frame references (R23, R241)
and global addresses (R251, R258). -/

namespace Sys2Proof

/-! ### Element types -/

/-- The width of an integer type (R120). -/
def IntTy.width : IntTy → Nat
  | .i8 | .n8 => 8 | .i16 | .n16 => 16 | .i32 | .n32 => 32 | .i64 | .n64 => 64

/-- Whether an integer type is signed (R55). -/
def IntTy.signed : IntTy → Bool
  | .i8 | .i16 | .i32 | .i64 => true
  | .n8 | .n16 | .n32 | .n64 => false

/-- The width of an element type (R120). -/
def ElemTy.width : ElemTy → Nat
  | .int t => t.width
  | .flt t => t.fmt.width

/-- The bytes of an access size (R121). -/
def Size.bytes : Size → Nat
  | .b1 => 1 | .b2 => 2 | .b4 => 4 | .b8 => 8

/-- The bytes of a load type (R127). -/
def LoadTy.bytes : LoadTy → Nat
  | .n8 | .i8 => 1 | .n16 | .i16 => 2 | .n32 | .i32 => 4 | .n64 => 8

/-- Whether a load type extends the sign (R162, R252). -/
def LoadTy.signed : LoadTy → Bool
  | .i8 | .i16 | .i32 => true
  | _ => false

end Sys2Proof

namespace Sys2Proof.Machine

/-- An integer of a type as its bits say (R55). -/
def valueOf (t : IntTy) (x : Nat) : Int := if t.signed then signedOf t.width x else (x % 2 ^ t.width : Nat)

/-- The low bits of a number extended to a register: the sign when `sg`, else zeros. -/
def extendTo64 (sg : Bool) (w x : Nat) : W64 :=
  if sg then BitVec.ofInt 64 (signedOf w x) else BitVec.ofNat 64 (x % 2 ^ w)

/-! ### Frame words (R139, R159, R160) -/

/-- A sum of a base register, read as unsigned, and a sign-extended immediate, not reduced (R159, R162). Log 9 (DEDUCED). -/
def baseOffset (a : W64) (imm : BitVec 27) : Int := a.toNat + imm.toInt

/-- A frame word index within the frame's word count (R159). Log 9 (DEDUCED). -/
def frameIndex (f : Frame) (i : Int) : Except Trap Nat :=
  if 0 ≤ i ∧ i < f.desc.words then .ok i.toNat
  else .error { cause := .frameRange, value := BitVec.ofInt 64 i }

/-- A vector word index of a large frame (R160). Log 9 (DEDUCED). -/
def vectorIndex (f : Frame) (j : Int) : Except Trap Nat :=
  if f.desc.large ∧ 0 ≤ j ∧ j ≤ 5 then .ok j.toNat
  else .error { cause := .frameRange, value := BitVec.ofInt 64 j }

/-- The latest pending write of a data word (R139). -/
def Inst.pendingWord (i : Inst) (k : Nat) : Option W64 :=
  i.effects.foldl (fun acc e =>
    match e with
    | .frameWord n w => if n = k then some w else acc
    | .frameVector j v =>
      if 64 + 32 * j ≤ k ∧ k < 96 + 32 * j then some (v.extractLsb' (64 * (k - 64 - 32 * j)) 64) else acc
    | _ => acc) none

/-- A data word as an instruction of the instance reads it: its own pending write, or the frame, where poison faults
(R104, R139). -/
def readWord (f : Frame) (i : Inst) (k : Nat) : Except Trap W64 :=
  match i.pendingWord k with
  | some w => .ok w
  | none => if f.poison.contains k then .error { cause := .poisonConsumed } else .ok (f.word k)

/-- A vector word as an instruction of the instance reads it (R160). The record of a poisoned word names lane 0, whichever
word it is: the instruction has no element type. Log 58 (DESIGN CHOICE). -/
def readVector (f : Frame) (i : Inst) (j : Nat) : Except Trap VWord := do
  let ws ← (upFrom (64 + 32 * j) 32).mapM (readWord f i)
  return wordsVector ws

/-! ### Scratch (R80, R139, R162 to R164) -/

/-- The key of a scratch byte. Log 54 (DESIGN CHOICE). -/
def scratchKey (site ctx o : Nat) : Nat := (ctx * 2048 + site) * 2 ^ 20 + o

/-- The bound of a context's scratch (R80); context 0 has none (R77). -/
def State.scratchBound (s : State) (ctx : Nat) : Nat :=
  if ctx = 0 then 0
  else
    match s.resident ctx with
    | some r => r.sunits * 65536
    | none => 0

/-- The bytes of an access that lie within scratch (R80). The record names the first that does not. Log 9 (DEDUCED). -/
def scratchSpan (bound : Nat) (o : Int) (n : Nat) : Except Trap Nat :=
  if 0 ≤ o ∧ o + n ≤ bound then .ok o.toNat
  else .error { cause := .scratchRange, faddr := wrapOf 64 (if 0 ≤ o ∧ o < bound then bound else o) }

/-- The latest pending write of a scratch byte (R139). -/
def Inst.pendingByte (i : Inst) (o : Nat) : Option Byte :=
  i.effects.foldl (fun acc e =>
    match e with
    | .scratch bs => bs.foldl (fun acc b => if b.1 = o then some b.2 else acc) acc
    | _ => acc) none

/-- The bytes at a scratch offset as an instruction of the instance reads them, and those that it took from scratch,
where poison faults (R104, R139, R164, R196). -/
def State.readScratch (s : State) (i : Inst) (o n : Nat) : Except Trap (List Byte × List (Nat × Byte)) :=
  match n with
  | 0 => .ok ([], [])
  | k + 1 =>
    match i.pendingByte o with
    | some b => do
      let (bs, taken) ← s.readScratch i (o + 1) k
      return (b :: bs, taken)
    | none =>
      let key := scratchKey i.site i.key.ctx o
      let m := s.scratchFor i.site i.key.ctx
      if m.poisoned key 1 then .error { cause := .poisonConsumed, faddr := o }
      else do
        let b := m.byte key
        let (bs, taken) ← s.readScratch i (o + 1) k
        return (b :: bs, (o, b) :: taken)

/-- Bytes as a little-endian number (R3). -/
def numberOf (bs : List Byte) : Nat := bs.foldr (fun b acc => b.toNat + 256 * acc) 0

/-! ### Vector lanes under a mask (R169, R170) -/

/-- The elements of a register for elements of `e` bits (R169). -/
def elemCount (e : Nat) : Nat := if e = 64 then 32 else 64

/-- The bits that one element occupies (R169). -/
def laneWidth (e : Nat) : Nat := if e = 64 then 64 else 32

/-- The lanes of a register, whole. -/
def lanes (e : Nat) (v : VWord) : List Nat :=
  (upFrom 0 (elemCount e)).map (fun i => v.toNat / 2 ^ (laneWidth e * i) % 2 ^ laneWidth e)

/-- The elements of a register (R169): an instruction reads only their bits. -/
def elems (e : Nat) (v : VWord) : List Nat := (lanes e v).map (· % 2 ^ e)

/-- A register from its lanes, lowest first. -/
def ofLanes (e : Nat) (l : List Nat) : VWord :=
  BitVec.ofNat 2048 (l.foldr (fun x acc => x % 2 ^ laneWidth e + 2 ^ laneWidth e * acc) 0)

/-- Bit i of a mask. -/
def active (m : W64) (i : Nat) : Bool := m.getLsbD i

/-- What a masked instruction makes of an element that is not active: the lane as it stood, or zero (R170). -/
def masked (z : Bool) (m : W64) (e : Nat) (old : VWord) (res : Nat → Nat) : VWord :=
  ofLanes e (((lanes e old).zipIdx).map (fun (x, i) => if active m i then res i % 2 ^ e else if z then 0 else x))

/-- The flags of the active elements (R170, R172). -/
def flagsOf (m : W64) (n : Nat) (fl : Nat → BitVec 5) : BitVec 5 :=
  (upFrom 0 n).foldl (fun acc i => if active m i then acc ||| fl i else acc) 0

/-- Element i of a register, as a number. -/
def elemAt (e : Nat) (v : VWord) (i : Nat) : Nat := v.toNat / 2 ^ (laneWidth e * i) % 2 ^ e

/-- Byte q of a register (R169). -/
def vbyte (v : VWord) (q : Nat) : Nat := v.toNat / 2 ^ (8 * q) % 256

/-- A register from bytes, lowest first; the bytes beyond the list are zero. -/
def ofBytes (l : List Nat) : VWord := BitVec.ofNat 2048 (l.foldr (fun x acc => x % 256 + 256 * acc) 0)

/-! ### Frame references (R23, R241) -/

/-- The key that a reference names in a context. -/
def refKey (ctx : Nat) (r : W64) : Key := ⟨ctx, wfield r 32 12, r.setWidth 32⟩

/-- The cells of a sender's partition (R23): the whole package for context 0. -/
def State.senderCells (s : State) (ctx : Nat) : List Nat :=
  if ctx = 0 then packageCells
  else
    match s.resident ctx with
    | some r => r.cells
    | none => []

/-- What the checks of R241 leave to build the token of: the frame type (1 for large), and the remote target. -/
structure Checked where
  large : Bool
  remote : Option Remote
  ring : Bool

/-- The descriptor of a local codeblock, loaded for the check of its frame type or for a CELLV-0 reference (R241). -/
def State.checkDesc (s : State) (site ctx : Nat) (r : W64) (needed ring : Bool) : State × Except Trap Checked :=
  if needed then
    let (s1, d) := s.loadDesc site ctx (wfield r 32 12)
    (s1, d.map (fun d => ⟨d.large, none, ring⟩))
  else (s, .ok ⟨false, none, ring⟩)

/-- The checks of R241 on a reference, in their order; `needType` for a `send` or `sendv`. A descriptor that they load stays loaded
where they fail. A reference to a Ringmaster
codeblock goes there whatever CELL and CELLV hold, and the Ringmaster sends to a cell codeblock only with CELLV 1 (R341,
R345). An entry of a remote codeblock with a reserved bit set is rejected as a descriptor is. Log 61 (DEDUCED). -/
def State.checkRef (s : State) (site ctx : Nat) (r : W64) (needType : Bool) : State × Except Trap Checked :=
  let cellv := wbit r 55
  if wfield r 57 7 ≠ 0 then (s, .error { cause := .placementFault })
  else
    match s.codeblock ctx (wfield r 32 12) with
    | none =>
      if cellv && !(s.senderCells ctx).contains (wfield r 44 11) then (s, .error { cause := .placementFault })
      else (s, .error { cause := .codeblockAbsent })
    | some c =>
      if c.ring then s.checkDesc site ctx r (needType || !cellv) true
      else if cellv && !(s.senderCells ctx).contains (wfield r 44 11) then (s, .error { cause := .placementFault })
      else
        match c.remote with
        | some m =>
          if cellv then (s, .error { cause := .placementFault })
          else if !c.sound then (s, .error { cause := .codeblockDesc })
          else (s, .ok ⟨m.large, some m, false⟩)
        | none =>
          if site = ringmaster ∧ !cellv then (s, .error { cause := .placementFault })
          else s.checkDesc site ctx r (needType || !cellv) false

/-! ### Global addresses (R251, R258) -/

/-- The 72-bit address of a 64-bit sum (R251). -/
def globalAddr (v : W64) : VAddr := v.signExtend 72

/-- The parts of `n` bytes at an address (R258): two where they cross a 4 KiB page boundary. `data` holds the bytes to be
stored, lowest first. -/
def partsOf (elem : Nat) (va : VAddr) (n : Nat) (data : W64) : List Part :=
  let room := 4096 - va.toNat % 4096
  if n ≤ room then
    [{ elem := elem, half := 0, off := 0, len := n, va := va, data := data, st := .issued }]
  else
    [{ elem := elem, half := 0, off := 0, len := room, va := va, data := data, st := .issued },
     { elem := elem, half := 1, off := room, len := n - room, va := va + BitVec.ofNat 72 room,
       data := data >>> (8 * room), st := .issued }]

end Sys2Proof.Machine
end

