-- ==== Sys2Proof/Machine/Tokens.lean ====
section
/-! DEFINITION. Tokens where they arrive: acceptance (R26, R32, R36, R38, R41, R243), application (R27, R30), parking (R37),
mailboxes (R392), receiver-side faults (R31), fault delivery (R366), and the ready queue's choice (R45). -/

namespace Sys2Proof.Machine

/-! ### The request table (R12, R291, R367) -/

/-- The request-table entries of a site that are in use. -/
def State.usedEntries (s : State) (site : Nat) : List Nat :=
  ((s.ops.filter (fun o => o.site == site)).map (·.hidx))
    ++ ((s.tokens.filter (fun t => t.dcell == site)).filterMap (·.hidx))
    ++ ((s.items.filter (fun i => i.site == site && i.kind == 2)).map (·.hidx))

/-- The request-table entries of a site that are free. Log 48 (DEDUCED). -/
def State.openEntries (s : State) (site : Nat) : List Nat :=
  (upFrom 0 256).filter (fun e => !(s.usedEntries site).contains e)

/-- The request-table entries of an image's held items, which fault records name (R364, R367). -/
def Image.heldEntries (m : Image) : List Nat :=
  (m.ops.filter (fun o => o.item.isSome)).map (·.hidx) ++ (m.items.filter (fun i => i.kind == 2)).map (·.hidx)

/-- The free entries of a site from which one is taken for a held token: those that no held item in a saved image of the
context has there, while there are any, so that the image finds its entries again (R372). Log 63 (DESIGN CHOICE). -/
def State.entriesFor (s : State) (site ctx : Nat) : List Nat :=
  let open_ := s.openEntries site
  let kept := (s.ctl.images.filter (fun m => m.ctx == ctx && m.site == site)).flatMap Image.heldEntries
  let rest := open_.filter (fun e => !kept.contains e)
  if rest.isEmpty then open_ else rest

/-! ### Local cache (R88) -/

/-- Every line of a context's local cache on a cell invalidated (R88). -/
def State.dropLines (s : State) (site ctx : Nat) : State :=
  { s with lcache := s.lcache.filter (fun l => !(l.site == site && l.ctx == ctx)) }

/-- Whether a scope is `.die` or wider (R88). -/
def Scope.wide : Scope → Bool
  | .cell => false
  | _ => true

/-! ### Receiver-side faults (R31, R365, R373) -/

/-- The held data of a held token (R373): a poisoned unit reads as zero. -/
def Token.heldData (t : Token) : Option VWord :=
  match t.payload with
  | .word w => some (if t.psn then 0 else w.setWidth 2048)
  | .vector v _ => some (if t.psn then 0 else v)
  | _ => none

/-- A token held by a receiver-side fault (R31): the record is made and the handler told. It needs a request-table
entry of the receiving cell, and waits for one. `NO_CONTEXT` is a fault of the system context (R358). -/
def State.rejectToken (s : State) (t : Token) (c : Trap) : State :=
  match pick (s.entriesFor t.dcell t.key.ctx) (Config.choice s.tick 5) with
  | none => s
  | some h =>
    let translation := decide (0x40 ≤ c.cause.code)
    let instr : W64 :=
      match t.payload with
      | .word w => if t.psn then 0 else w
      | _ => 0
    (s.updateToken t.id (fun t => { t with phase := .held, hidx := none })).raiseFault
      { site := t.dcell, kind := 2, cause := c.cause.code, ctx := if c.cause = .noContext then 0 else t.key.ctx, lid := t.lid, hidx := h, key := t.key,
        epoch := t.epoch, detail := c.detail,
        faddr := if translation then c.faddr else t.header % 2 ^ 64,
        value := if translation then 0 else BitVec.ofNat 64 (t.header / 2 ^ 64),
        level := c.level, instr := instr, held := t.heldData, body := .token t.id,
        fromHandler :=
          match s.frameAt t.dcell t.key with
          | some f => f.handler.isSome
          | none => false }

/-! ### Mailboxes (R392) -/

/-- The 8-byte words of a token as it stands in a mailbox: its flits, 8 words each (R237, R366, R392). -/
def Token.flits (t : Token) (mark : W64) : List W64 :=
  let h := t.header
  let head (w : W64) : List W64 := [BitVec.ofNat 64 h, BitVec.ofNat 64 (h / 2 ^ 64), w, 0, 0, 0, 0, mark]
  match t.payload with
  | .none => head 0
  | .word w => head w
  | .vector v _ => head 0 ++ vectorWords v
  | .words ws =>
    head 0 ++ ws ++
      match t.source with
      | .fault _ (some v) => vectorWords v
      | _ => []

/-- The mailbox of a context: its base and its number of slots (R359). -/
def State.mailbox (s : State) (ctx : Nat) : Nat × Nat :=
  match s.resident ctx with
  | some r => (r.mbox, r.mblen)
  | none => ((s.ctxWord ctx 8).toNat, wfield (s.ctxWord ctx 9) 0 24)

/-- The words of flits stored in the slots of a mailbox from slot `first` upward (R392). -/
def State.storeFlits (s : State) (base len first : Nat) (ws : List W64) : State :=
  ws.zipIdx.foldl (fun s (w, k) =>
    s.physStore (base + 64 + 64 * ((first + k / 8) % len) + 8 * (k % 8)) 8 w.toNat false) s

/-- A token written into its context's mailbox, or held for want of room (R392). Log 34 (DESIGN CHOICE). -/
def State.mailToken (s : State) (t : Token) : State :=
  let (base, len) := s.mailbox t.key.ctx
  let resv := (s.physWord base).toNat
  let cons := (s.physWord (base + 8)).toNat
  let n := (t.flits 0).length / 8
  if len = 0 then s.rejectToken t { cause := .mailboxFull }
  else if resv + n ≤ cons + len then
    let s1 := ((s.physStore base 8 (resv + n) false).storeFlits base len resv
      (t.flits (BitVec.ofNat 64 (2 ^ 63 + resv)))).dropToken t.id
    { s1 with ctl := { s1.ctl with mailed := (t.key.ctx, resv, t.source) :: s1.ctl.mailed } }
  else s.rejectToken t { cause := .mailboxFull, detail := BitVec.ofNat 64 resv }

/-! ### Acceptance (R26, R36, R38) -/

/-- Whether a token occupies an entry of the park buffer (R37, R243). -/
def Token.inPark (t : Token) : Bool :=
  match t.phase with
  | .parked _ | .parkReserved _ => true
  | _ => false

/-- What the receiving cell finds for a token (R26), with the cell as the search leaves it: a descriptor that it needed is loaded
(R302). -/
inductive Presented where
  /-- Its frame stands in the matching store. -/
  | frame (s : State)
  | park (s : State) (r : ParkReason)
  /-- It waits for an entry (R32). -/
  | wait (s : State)
  | reject (s : State) (c : Trap)
  | mailbox
  /-- Its launch is killed (R374). -/
  | discard

/-- Whether a completion signal: never parked, and admitted whatever the window (R43). -/
def Token.isSignal (t : Token) : Bool := t.source == .completion

/-- The least D over the frames of a codeblock on a cell, when there is a frame (R36). -/
def State.leastOrder (s : State) (site ctx cb : Nat) : Option Nat :=
  ((s.frames.filter (fun f => f.site == site && f.key.ctx == ctx && f.key.cb == cb)).map
    (fun f => s.tagOrder site f.key)).min?

/-- Whether the window keeps a tag out (R36); the Ringmaster parks nothing for it (R341). -/
def State.outsideWindow (s : State) (site : Nat) (k : Key) (wlog : Nat) : Bool :=
  site != ringmaster &&
    match s.leastOrder site k.ctx k.cb with
    | some l => decide (l + 2 ^ wlog ≤ s.tagOrder site k)
    | none => false

/-- Whether an earlier parked token has the same key (R36). -/
def State.keyParked (s : State) (t : Token) : Bool :=
  s.tokens.any (fun u => u.id != t.id && u.dcell == t.dcell && u.key == t.key
    && (u.inPark || u.inOverflow) && (!t.inPark || u.arrival < t.arrival))

/-- What the receiving cell finds for a token (R26, R32, R36, R38, R244, R302, R358, R374). A plain token for a Spilled
frame for which no victim is eligible, or has no room, is neither parked nor refused: it stays offered, and its sender
waits, until the fill can be made. Log 58 (DESIGN CHOICE), 61 (DEDUCED). -/
def State.present (s : State) (t : Token) : Presented :=
  let site := t.dcell
  let ctx := t.key.ctx
  if ctx != 0 && s.killed.contains (site, ctx, t.lid) then .discard
  else if ctx == 0 && site != ringmaster && !s.ctxValid 0 then .reject s { cause := .noContext }
  else if !s.residentAt site ctx || s.haltedAt site ctx then
    if ctx != 0 && !s.ctxValid ctx then .reject s { cause := .noContext } else .mailbox
  else
    match s.frameAt site t.key with
    | some f =>
      if f.epoch != t.epoch then .reject s { cause := .tagExhaust, detail := 1 }
      else
        let (s1, r) := s.loadDesc site ctx t.key.cb
        match r with
        | .error c => .reject s1 c
        | .ok _ =>
          if f.life == .spilled then
            match s1.makeRoom site ctx f.desc with
            | .made s2 => .frame (s2.fillFrame f)
            | _ => .wait s1
          else .frame s1
    | none =>
      let (s1, r) := s.loadDesc site ctx t.key.cb
      match r with
      | .error c => .reject s1 c
      | .ok d =>
        let wlog := ((s1.windowAt site ctx t.key.cb).map (·.wlog)).getD d.wlog
        if !t.isSignal && s1.keyParked t then .park s1 .sameKey
        else if !t.isSignal && s1.outsideWindow site t.key wlog then .park s1 .window
        else
          match s1.makeRoom site ctx d with
          | .made s2 => .frame (s2.createFrame site t.key t.epoch t.lid d none true)
          | .noVictim => if t.isSignal then .wait s1 else .park s1 .noEntry
          | .noSpill => .reject s1 { cause := .tagExhaust, detail := 0 }

/-- Entries of the park buffer in use on a cell (R37). -/
def State.parkCount (s : State) (site : Nat) : Nat := (s.tokens.filter (fun t => t.dcell == site && t.inPark)).length

/-- The reason for which a committed token stands in the park buffer. -/
def Token.parkedFor (t : Token) : Option ParkReason :=
  match t.phase with
  | .parked r => some r
  | _ => none

/-- The park entry with the greatest D written to its overflow area, when the area has room (R37). Among equal D of
several codeblocks or contexts it is the one that stands first in the list of tokens, and an entry reserved for a sender
that has not committed is never moved. Log 58 (DESIGN CHOICE). -/
def State.overflowPark (s : State) (site : Nat) : State :=
  match greatestBy (fun t => s.tagOrder site t.key)
      (s.tokens.filter (fun t => t.dcell == site && t.parkedFor.isSome)) with
  | none => s
  | some v =>
    if s.spillRoom site v.key.ctx v.spillUnits then
      s.updateToken v.id (fun t => { t with phase := .overflowed (v.parkedFor.getD .window) })
    else s

/-- A token parked, or refused because the buffer is full (R37, R41). -/
def State.parkToken (s : State) (t : Token) (r : ParkReason) : State :=
  if s.parkCount t.dcell < 256 then
    { s with nextId := s.nextId + 1 }.updateToken t.id (fun t =>
      { t with phase := if t.committed then .parked r else .parkReserved r, arrival := s.nextId })
  else (s.overflowPark t.dcell).updateToken t.id (fun t => { t with phase := .refused })

/-- Whether some parked token of a cell could now be admitted: such tokens come before a newly arriving one (R37). -/
def State.parkReady (s : State) (site : Nat) : Bool :=
  s.tokens.any (fun u => u.dcell == site && u.inPark
    && match s.present u with
       | .frame _ => true
       | _ => false)

/-- Whether a key takes a matching-store entry when a token for it arrives: it has no frame, or a Spilled one (R26, R33). -/
def State.needsEntry (s : State) (site : Nat) (k : Key) : Bool :=
  match s.frameAt site k with
  | some f => f.life == .spilled
  | none => true

/-- Whether a token waits until the parked tokens of its cell are examined again (R37). A token for a key with a frame in the
matching store takes nothing from them and never waits (R36, R49). Log 63 (DESIGN CHOICE). -/
def State.parkDue (s : State) (t : Token) : Bool := !t.inPark && s.needsEntry t.dcell t.key && s.parkReady t.dcell

/-- A token dealt with as its receiving cell finds it. A fault, a mailbox and a discard concern it only once its sender
has committed; until then the reservation stands for them (R243). Log 55 (DEDUCED). -/
def State.acceptToken (s : State) (t : Token) : State :=
  match s.present t with
  | .frame s1 => s1.updateToken t.id (fun t => { t with phase := .accepted })
  | .park s1 r => s1.parkToken t r
  | .wait s1 => if t.isSignal then s1.updateToken t.id (fun t => { t with phase := .waiting }) else s1
  | .reject s1 c => if t.committed then s1.rejectToken t c else s1.updateToken t.id (fun t => { t with phase := .accepted })
  | .mailbox => if t.committed then s.mailToken t else s.updateToken t.id (fun t => { t with phase := .accepted })
  | .discard => if t.committed then s.discardToken t else s.updateToken t.id (fun t => { t with phase := .accepted })

/-! ### Application (R27, R29) -/

/-- A frame with the payload of a token written (R27, R104, R207, R259). -/
def Frame.receive (f : Frame) (t : Token) : Frame :=
  let f1 : Frame :=
    match t.payload with
    | .none => f
    | .word w => f.putWord t.idx w t.psn
    | .vector v keep => if f.desc.large && decide (t.idx ≤ 5) then f.putVector t.idx v keep t.psn else f
    | .words ws => ws.zipIdx.foldl (fun f (w, k) => f.putWord k w false) f
  { f1 with psn := f1.psn || (t.psn && t.payload != .none), flags := f1.flags ||| t.flags, fresh := false }

/-- A frame that a committed token has created stands, whatever becomes of the token (R33, R243). -/
def State.keepFrame (s : State) (site : Nat) (k : Key) : State := s.updateFrame site k (fun f => { f with fresh := false })

/-- A token applied to the frame of its key: the payload and the decrement in one step (R27), or `SLOT_SPENT`, which
applies nothing (R29). -/
def State.applyTo (s : State) (t : Token) (f : Frame) : State :=
  match f.decrement t.slot with
  | none => (s.keepFrame f.site f.key).rejectToken t { cause := .slotSpent }
  | some (f1, fires) =>
    let s1 := (s.updateFrame f.site f.key (fun _ => f1.receive t)).discardToken t
    let s2 := if (t.rels.map Scope.wide).getD false then s1.dropLines f.site f.key.ctx else s1
    match fires with
    | some thr => s2.enqueue f1 thr
    | none => s2

/-- A committed token refused when it is applied (R31): a frame of its own EPOCH stands, unless it is but the reservation of another
token whose sender has not committed, and which goes with that one (R42, R48, R243). -/
def State.refuseApplied (s : State) (t : Token) (c : Trap) : State :=
  let own (f : Frame) : Bool := f.epoch == t.epoch && !s.tokens.any (fun u => u.id != t.id && !u.committed && u.reserves f)
  ((match s.frameAt t.dcell t.key with
    | some f => if own f then s.keepFrame t.dcell t.key else s
    | none => s)).rejectToken t c

/-- A committed token applied: to its frame, or dealt with afresh where the frame is gone or could not be had (R33,
R243). -/
def State.applyToken (s : State) (t : Token) : State :=
  match s.present t with
  | .frame s1 =>
    match s1.frameAt t.dcell t.key with
    | some f => s1.applyTo t f
    | none => s
  | .park s1 r => s1.parkToken t r
  | .wait s1 => s1.updateToken t.id (fun t => { t with phase := .waiting })
  | .reject s1 c => s1.refuseApplied t c
  | .mailbox => s.mailToken t
  | .discard => s.discardToken t

/-- Whether an earlier token must be applied before a token (R243): one of the same sending cell and key from an
earlier commit or earlier in program order; of events of one class and source, an earlier one (R347). Tokens that a
mailbox gave back come before every later commit, in slot order (R391). Log 59 (DEDUCED). -/
def State.mustWait (s : State) (t : Token) : Bool :=
  s.tokens.any (fun u => u.id != t.id && u.committed && u.dcell == t.dcell && u.phase != .held && u.phase != .vlp
    && match t.source, u.source with
       | .send, .send =>
         u.scell == t.scell && u.key == t.key && (decide (u.seq < t.seq) || (u.seq == t.seq && decide (u.prog < t.prog)))
       | .event c x, .event d y => c == d && x == y && decide (u.id < t.id)
       | _, _ => u.mailed && t.mailed && u.key == t.key && decide (u.id < t.id))

/-! ### Fault delivery (R366, R368) -/

/-- A fault token turned into its handler frame, waiting for an entry, or a double fault of the faulting cell (R366,
R368), whose item a `kill` discards at the next restore where its context is not resident (R372). On a cell that is halted for its context, or where the context is not resident, it goes to the mailbox, and for a
context with V 0 it is refused (R358). -/
def State.deliverFault (s : State) (t : Token) (item : Nat) (held : Option VWord) (record : List W64) : State :=
  let double (s : State) : State :=
    match s.items.find? (fun x => x.id == item) with
    | some it => ((s.dropToken t.id).takeItem item).doubleFault it (doubleRecord record)
    | none =>
      match s.awayItem item with
      | some it => ((s.dropToken t.id).sendKill it).haltAt it (doubleRecord record)
      | none => s.dropToken t.id
  let site := t.dcell
  if t.key.ctx != 0 && s.killed.contains (site, t.key.ctx, t.lid) then s.dropToken t.id
  else if t.key.ctx == 0 && !s.ctxValid 0 then double s
  else if !s.residentAt site t.key.ctx || s.haltedAt site t.key.ctx then
    if s.ctxValid t.key.ctx then s.mailToken t else s.rejectToken t { cause := .noContext }
  else if (s.frameAt site t.key).isSome then double s
  else
    let (s1, r) := s.loadDesc site t.key.ctx t.key.cb
    match r with
    | .error _ => double s1
    | .ok d =>
      match keyed d.threads 0, s1.makeRoom site t.key.ctx d with
      | some _, .made s2 =>
        let s3 := s2.createFrame site t.key t.epoch t.lid d (some ⟨item, held⟩) false
        let s4 := s3.updateFrame site t.key (fun f => record.zipIdx.foldl (fun f (w, k) => f.putWord k w false) f)
        let s5 : State :=
          { s4 with items := updateFirst (fun x => x.id == item) (fun x => { x with handler := some t.key }) s4.items }
        (s5.dropToken t.id).enqueueWith site t.key 0 3 none
      | some _, .noVictim => s1.updateToken t.id (fun t => { t with phase := .waiting })
      | _, _ => double s1

/-! ### The choice of a ready entry (R45) -/

/-- Whether entries of a context on a site take part in the choice: the context is resident, not halted there, and not
being saved or restored (R45, R368, R389). -/
def State.fires (s : State) (site ctx : Nat) : Bool :=
  !s.haltedAt site ctx && (ctx == 0 ||
    match s.resident ctx with
    | some r => r.phase == .up && r.cells.contains site
    | none => false)

/-- The entries of a site from which a runner can take one. -/
def State.candidates (s : State) (site : Nat) : List Ready :=
  s.ready.filter (fun r => r.site == site && !r.overflow && s.fires site r.key.ctx)

/-- The entry of a class that ChooseReady returns: the lowest tag of the oldest codeblock (R45). -/
def State.chooseIn (s : State) (site : Nat) (l : List Ready) : Option Ready :=
  match leastBy (·.stamp) l with
  | none => none
  | some o =>
    leastBy (fun r => (s.tagOrder site r.key * 16 + r.thr) * 2 ^ 64 + r.stamp)
      (l.filter (fun r => r.key.ctx == o.key.ctx && r.key.cb == o.key.cb))

/-- ChooseReady (R45). -/
def State.chooseReady (s : State) (site : Nat) : Option Ready :=
  let l := s.candidates site
  match leastBy (·.stamp) (l.filter (fun r => r.cls == 3 && r.urgent)) with
  | some r => some r
  | none =>
    [3, 2, 1, 0].findSome? (fun c => s.chooseIn site (l.filter (fun r => r.cls == c)))

/-- Age for one waiting entry (R45). -/
def Ready.age (r : Ready) : Ready :=
  if r.waited + 1 = 65536 then
    if r.cls < 3 then { r with cls := r.cls + 1, waited := 0 } else { r with waited := r.waited + 1, urgent := true }
  else { r with waited := r.waited + 1 }

/-- The entry point of a threadlet (R301). -/
def Desc.entryOf (d : Desc) (thr : Nat) : VAddr :=
  d.code + BitVec.ofNat 72 (((keyed d.threads thr).map (·.entry)).getD 0)

/-- An instance at its entry point: no effects, flags zero, registers undefined (R40, R69). -/
def newInst (f : Frame) (runner thr cls seed : Nat) (sub : Option (Nat × (Nat × Nat × Bool) × W64)) : Inst :=
  { site := f.site, runner := runner, key := f.key, thr := thr, cls := cls, pc := f.desc.entryOf thr, dyn := 0, nEff := 0,
    s := [], v := [], m := [], seed := seed, effects := [], flags := 0, recorded := [], reserved := false, fails := 0,
    phase := .running, subst := sub, pins := [] }

/-- The runners of a site (R12, R341). -/
def runnerCount (site : Nat) : Nat := if site = ringmaster then 4 else 8

end Sys2Proof.Machine
end

