-- ==== Sys2Proof/Machine/Commit.lean ====
section
/-! DEFINITION. The end of a run and the commit: validation of scratch atomics (R165, R167), the homes of CELLV-0
references (R34, R35), the offering of tokens (R41, R243), the preconditions, and the effects of the commit instant (R29,
R33, R39, R41, R69, R246 to R248, R372, R374, R378). -/

namespace Sys2Proof.Machine

/-! ### Validation (R165, R167) -/

/-- The 8-byte units of scratch that an instance has recorded (R164, R165). -/
def Inst.recordedUnits (i : Inst) : List Nat := i.recorded.map (fun b => b.1 / 8)

/-- Whether the exclusive runs of an instance have begun (R167): the first of them begins once no other instance of the cell
holds a reservation, and from then on the instance is exclusive until it commits or faults, between its runs too.
Log 32 (DESIGN CHOICE). -/
def Inst.exclusive (j : Inst) : Bool := decide (8 ≤ j.fails) && (j.phase != .retrying || decide (9 ≤ j.fails))

/-- Whether another instance of the cell is exclusive: no one else commits a scratch write (R167). Log 32 (DESIGN CHOICE). -/
def State.exclusiveRun (s : State) (i : Inst) : Bool :=
  s.insts.any (fun j => j.site == i.site && j.runner != i.runner && j.exclusive)

/-- Whether another instance of the cell has failed validation eight times in a row: no one else validates (R167). Of two
such instances, the one whose exclusive runs have begun validates, and the other waits. Log 32 (DESIGN CHOICE). -/
def State.otherExclusive (s : State) (i : Inst) : Bool :=
  s.exclusiveRun i || s.insts.any (fun j => j.site == i.site && j.runner != i.runner && decide (8 ≤ j.fails ∧ i.fails < 8))

/-- Whether another instance of the cell has reserved one of these units of the context's scratch (R165). -/
def State.unitsReserved (s : State) (i : Inst) (units : List Nat) : Bool :=
  s.insts.any (fun j => j.site == i.site && j.runner != i.runner && j.key.ctx == i.key.ctx && j.reserved
    && j.recordedUnits.any (fun u => units.contains u))

/-- Whether every recorded byte still holds its recorded value (R165). A write by the MU or the stream engine that leaves
the value as it was does not make validation fail: R166 says that such a write does, R165 that the value decides.
Log 58 (DESIGN CHOICE). -/
def State.validates (s : State) (i : Inst) : Bool :=
  i.recorded.all (fun b => s.scratch.byte (scratchKey i.site i.key.ctx b.1) == b.2)

/-! ### Homes of the tokens (R34, R35, R41) -/

/-- The cell to which a CELLV-1 token goes: the cell named, or when it is retired the replacement of R35. Where the list
holds no live cell, it stays the retired cell. Log 58 (DESIGN CHOICE). -/
def State.standIn (s : State) (l : List Nat) (c : Nat) : Nat :=
  if s.hw.retired.contains c then (s.replacement l ((l.filter (· < c)).length)).getD c else c

/-- The receiving site of a token that an instance sends, or the fault of its resolution, with what the cell keeps of it (R302,
R410). -/
def State.homeOf (s : State) (i : Inst) (t : Token) (cellv : Bool) : State × Except Trap Nat :=
  let l := s.cellList i.site i.key.ctx t.lid
  if t.remote.isSome then (s, .ok t.dcell)
  else if (s.codeblock t.key.ctx t.key.cb).map (·.ring) = some true then (s, .ok ringmaster)
  else if cellv then (s, .ok (s.standIn l t.dcell))
  else s.resolveHome i.site l t.key.ctx t.key.cb t.key.tag

/-- The tokens of an instance with their homes, in program order, or the first that fails with the place of its
instruction. -/
def State.homes (s : State) (i : Inst) : List (EffBody × Nat) → State × Except (Trap × At) (List Token)
  | [] => (s, .ok [])
  | (.token t cellv w, k) :: rest =>
    match s.homeOf i t cellv with
    | (s1, .error e) => (s1, .error (e, w))
    | (s1, .ok c) =>
      let (s2, ts) := s1.homes i rest
      (s2, ts.map (fun ts => { t with dcell := c, prog := k, owner := some (i.site, i.runner) } :: ts))
  | _ :: rest => s.homes i rest

/-- The tokens of an instance offered to their receiving cells (R41, R243). Log 55 (DEDUCED). -/
def State.offer (s : State) (ts : List Token) : State := ts.foldl (fun s t => s.sendToken t) s

/-- What follows `fin`: validation, retry or waiting, then resolution and the offering of tokens (R34, R41, R165). -/
def State.finishRun (s : State) (i : Inst) : State :=
  let resolved (i : Inst) : State :=
    match s.homes i i.effects.zipIdx with
    | (s1, .error (e, w)) => s1.takeFault i w e
    | (s1, .ok ts) => (s1.putInst { i with phase := .offering }).offer ts
  if i.recorded.isEmpty then resolved i
  else if s.otherExclusive i || s.unitsReserved i i.recordedUnits then s.putInst { i with phase := .finished }
  else if s.validates i then resolved { i with reserved := true }
  else
    (i.pins.foldl (fun s n => s.unpin i.site n) s).putInst
      { i with phase := .retrying, fails := i.fails + 1, effects := [], nEff := 0, flags := 0, recorded := [], pins := [] }

/-! ### The preconditions of a commit (R41, R165, R167, R248) -/

/-- Whether an effect takes a request-table entry (R41, R201, R235, R369). -/
def EffBody.takesEntry : EffBody → Bool
  | .op _ => true
  | _ => false

/-- The scratch units that an instance writes at its commit. -/
def Inst.writtenUnits (i : Inst) : List Nat :=
  i.effects.flatMap (fun e =>
    match e with
    | .scratch bs => bs.map (fun b => b.1 / 8)
    | _ => [])

/-- The tokens of an instance that are not yet committed. -/
def State.offeredBy (s : State) (i : Inst) : List Token :=
  s.tokens.filter (fun t => !t.committed && t.owner == some (i.site, i.runner))

/-- Whether a token's receiving cell has accepted it (R41); a VLP packet needs no acceptance here (R244). -/
def Token.taken (t : Token) : Bool :=
  match t.phase with
  | .accepted | .parkReserved _ | .vlp => true
  | _ => false

/-- The preconditions of R41, with those of R165 and R167. Log 55 (DEDUCED). -/
def State.canCommit (s : State) (i : Inst) : Bool :=
  (s.offeredBy i).all Token.taken
    && decide ((i.effects.filter EffBody.takesEntry).length ≤ (s.openEntries i.site).length)
    && !s.unitsReserved i i.writtenUnits
    && (i.writtenUnits.isEmpty || !s.exclusiveRun i)

/-- The window settings that an instance asks for, in program order (R248). -/
def Inst.windowSets (i : Inst) : List (Nat × BitVec 32 × Nat) :=
  i.effects.filterMap (fun e =>
    match e with
    | .tagwin cb o k => some (cb, o, k)
    | _ => none)

/-- Whether the window request of an instance is installed on every cell, or it has none (R248). -/
def State.windowsIn (s : State) (i : Inst) : Bool :=
  match i.phase with
  | .tagwin no =>
    match s.ctl.tagwins.find? (fun r => r.no == no) with
    | some r => r.cells.all (fun c => r.installed.contains c)
    | none => true
  | _ => i.windowSets.isEmpty

/-! ### Scratch writes (R41, R104, R139) -/

/-- Scratch bytes written; a unit that the instruction writes whole loses its poison (R104, R162). -/
def Memory.applyScratch (m : Memory) (base : Nat) (bs : List (Nat × Byte)) : Memory :=
  let m1 := bs.foldl (fun m b => m.putByte (base + b.1) b.2) m
  let whole (u : Nat) : Bool := (upFrom 0 8).all (fun k => bs.any (fun b => b.1 == u * 8 + k))
  ((bs.map (fun b => b.1 / 8)).dedup).foldl (fun m u => if whole u then m.clearUnit (base + u * 8) else m) m1

/-! ### Registers written by the Ringmaster (R346, R378, R379, R396, R397) -/

/-- The RES field of a partition (R396). -/
def State.residentOn (s : State) (p : Nat) : Nat := ((s.ctl.residents.find? (fun r => r.part == p)).map (·.ctx)).getD 0

/-- The dies that a partition word's rectangle touches. -/
def rectDies (w : W64) : List Nat :=
  let x0 := wfield w 1 6; let y0 := wfield w 7 5; let xw := wfield w 12 6; let yh := wfield w 18 5
  (upFrom 0 8).filter (fun d => (dieCells d).any (fun c =>
    decide (x0 ≤ c % 48 ∧ c % 48 < x0 + xw ∧ y0 ≤ c / 48 ∧ c / 48 < y0 + yh)))

/-- Whether the rectangles of two partition words overlap. -/
def rectsMeet (a b : W64) : Bool :=
  decide (wfield a 1 6 < wfield b 1 6 + wfield b 12 6 ∧ wfield b 1 6 < wfield a 1 6 + wfield a 12 6
    ∧ wfield a 7 5 < wfield b 7 5 + wfield b 18 5 ∧ wfield b 7 5 < wfield a 7 5 + wfield a 18 5)

/-- Whether a write to PARTp is discarded (R397). -/
def State.partRejected (s : State) (p : Nat) (w : W64) : Bool :=
  let x0 := wfield w 1 6; let y0 := wfield w 7 5; let xw := wfield w 12 6; let yh := wfield w 18 5
  let others := s.sys.parts.filter (fun e => e.1 != p && wbit e.2 0)
  let old := (keyed s.sys.parts p).getD 0
  let oneDie : Bool := decide (x0 / 12 = (x0 + xw - 1) / 12 ∧ y0 / 12 = (y0 + yh - 1) / 12)
  let whole : Bool := decide (x0 % 12 = 0 ∧ xw % 12 = 0 ∧ y0 % 12 = 0 ∧ yh % 12 = 0)
  let mine (d : Nat) : Nat := if wbit w 0 && (rectDies w).contains d then wfield w 23 6 else 0
  decide (48 < x0 + xw) || decide (24 < y0 + yh) || (!oneDie && !whole)
    || others.any (fun e => rectsMeet w e.2)
    || (upFrom 0 8).any (fun d =>
      decide (s.sys.shadow < mine d + ((others.filter (fun e => (rectDies e.2).contains d)).map
        (fun e => wfield e.2 23 6)).sum))
    || (s.residentOn p != 0 && wfield w 0 29 != wfield old 0 29)

/-- A timer register written under TSEL (R346, R349). Log 31 (DEDUCED). -/
def SysRegs.putTimer (r : SysRegs) (f : Timer → Timer) : SysRegs :=
  { r with timers := putKeyed r.timers r.tsel (f ((keyed r.timers r.tsel).getD default)) }

/-- A timer whose deadline or reference is rewritten: an arming by an earlier commit is cancelled (R349).
Log 45 (DEDUCED). -/
def Timer.rewrite (t : Timer) (seq : Nat) : Timer :=
  if t.armedBy = seq then t else { t with ctl := t.ctl &&& ~~~1 }

/-- The value that a system register reads on the Ringmaster, or none for a number that names nothing (R346, R378,
R396). Log 31 (DEDUCED). -/
def State.readSys (s : State) (num : Nat) : Option W64 :=
  let timer : Timer := (keyed s.sys.timers s.sys.tsel).getD default
  if num = 0 then some (BitVec.ofNat 64 s.sys.ctxtab)
  else if num = 1 then some (BitVec.ofNat 64 s.sys.shadow)
  else if num = 2 then some s.sys.pools
  else if 0x11 ≤ num ∧ num ≤ 0x1F then some ((keyed s.sys.wins (num - 0x10)).getD 0)
  else if 0x40 ≤ num ∧ num ≤ 0x7F then
    some (((keyed s.sys.parts (num - 0x40)).getD 0) ||| BitVec.ofNat 64 (s.residentOn (num - 0x40) * 2 ^ 29))
  else if num = 0x100 then some (BitVec.ofNat 64 s.sys.rtime)
  else if num = 0x101 then some (BitVec.ofNat 64 s.sys.tsel)
  else if num = 0x102 then some timer.tdl
  else if num = 0x103 then some timer.tref
  else if num = 0x104 then some timer.ctl
  else if num = 0x105 then some (BitVec.ofNat 64 s.sys.evtbase)
  else if num = 0x106 then some (s.sys.drops.setWidth 64)
  else if num = 0x107 then some s.sys.timeaddr
  else if num = 0x108 then some (BitVec.ofNat 64 s.sys.wdog)
  else none

/-- Whether cells read a register (R378). -/
def cellReads (num : Nat) : Bool := decide (num ≤ 2) || (decide (0x11 ≤ num) && decide (num ≤ 0x1F))

/-- A register written by a Ringmaster commit; a write to RTIME, which is read-only, is discarded (R346, R348, R378, R379,
R396, R397). Log 51 (DEDUCED), 62 (DESIGN CHOICE). -/
def State.putSys (s : State) (num : Nat) (v : W64) (seq : Nat) : State :=
  let set (r : SysRegs) : State := { s with sys := r }
  if num = 0 then set { s.sys with ctxtab := v.toNat, ctxtabWritten := true }
  else if num = 1 then if v.toNat ≤ 48 then set { s.sys with shadow := v.toNat } else s
  else if num = 2 then
    let w : W64 := BitVec.ofNat 64 (wfield v 0 5 + wfield v 8 24 * 2 ^ 8)
    if s.sys.poolsWritten || decide (96 * 10 ^ 9 < wfield v 0 5 * 2 ^ 32 + wfield v 8 24 * 2 ^ 15) then s
    else set { s.sys with pools := w, poolsWritten := true }
  else if 0x11 ≤ num ∧ num ≤ 0x1F then
    set { s.sys with wins := putKeyed s.sys.wins (num - 0x10) (BitVec.ofNat 64 (wfield v 0 3 + wfield v 48 16 * 2 ^ 48)) }
  else if 0x40 ≤ num ∧ num ≤ 0x7F then
    if s.partRejected (num - 0x40) v then s
    else set { s.sys with parts := putKeyed s.sys.parts (num - 0x40) (BitVec.ofNat 64 (wfield v 0 29)) }
  else if num = 0x101 then set { s.sys with tsel := wfield v 0 6 }
  else if num = 0x102 then set (s.sys.putTimer (fun t => { t.rewrite seq with tdl := v }))
  else if num = 0x103 then set (s.sys.putTimer (fun t => { t.rewrite seq with tref := v }))
  else if num = 0x104 then set (s.sys.putTimer (fun t =>
      { t with ctl := BitVec.ofNat 64 (wfield v 0 13), armedAt := s.sys.rtime, armedBy := seq }))
  else if num = 0x105 then set { s.sys with evtbase := v.toNat }
  else if num = 0x106 then set { s.sys with drops := s.sys.drops &&& ~~~(v.setWidth 16) }
  else if num = 0x107 then
    set { s.sys with timeaddr := BitVec.ofNat 64 (wfield v 0 1 + wfield v 3 49 * 2 ^ 3)
                     lastTimeWord := (s.sys.rtime + 9) / 1024 * 1024 }
  else if num = 0x108 then set { s.sys with wdog := v.toNat }
  else s

/-- A register write with its commit number; cells may go on reading the old value until a token of that commit or a
later one has been applied (R378). Log 51 (DEDUCED). -/
def State.writeSys (s : State) (num : Nat) (v : W64) (seq : Nat) : State :=
  let s1 := s.putSys num v seq
  if cellReads num then
    { s1 with sys := { s1.sys with old := (num, (s.readSys num).getD 0, seq) :: s1.sys.old } }
  else s1

/-! ### Effects (R41) -/

/-- The commit's tokens: counted in TS, and those with a park reservation parked (R37, R48, R243). -/
def State.commitToken (s : State) (i : Inst) (prog seq : Nat) : State :=
  match s.tokens.find? (fun t => !t.committed && t.owner == some (i.site, i.runner) && t.prog == prog) with
  | none => s
  | some t =>
    let s1 := s.updateToken t.id (fun t =>
      { t with
        committed := true
        seq := seq
        phase :=
          match t.phase with
          | .parkReserved r => .parked r
          | p => p })
    if t.counted then s1.count i.site t.key.ctx t.lid 1 0 else s1

/-- The local cache lines that hold `n` bytes at a physical address, invalidated for a context on a cell (R88). -/
def State.dropLine (s : State) (site ctx pa n : Nat) : State :=
  { s with lcache := s.lcache.filter (fun l => !(l.site == site && l.ctx == ctx
      && (l.pa == pa / 128 * 128 || l.pa == (pa + n - 1) / 128 * 128))) }

/-- The local cache lines that the bytes of an operation's parts lie in, invalidated at its issue (R88). -/
def State.dropTouched (s : State) (o : Op) : State :=
  o.parts.foldl (fun s p =>
    match s.locate o.site o.key.ctx .store p.va.toNat 1 with
    | .ok pa => s.dropLine o.site o.key.ctx pa p.len
    | .error _ => s) s

/-- Whether an operation writes memory at the addresses of its parts (R88). -/
def OpKind.writes : OpKind → Bool
  | .store _ | .vstore _ | .atomic .. => true
  | _ => false

/-! ### Requests of saves and restores (R376) -/

/-- What asked for a save or a restore is told that it is complete: the operation can signal its slot (R376). -/
def State.endSwitch (s : State) (w : Switch) : State :=
  let s1 : State := { s with ctl := { s.ctl with switches := s.ctl.switches.filter (fun x => x != w) } }
  match w.by_ with
  | .op id =>
    s1.updateOp id (fun o =>
      { o with
        kind :=
          match o.kind with
          | .sys r _ => .sys r true
          | k => k })
  | .firmware => s1

/-- The resident user context of a partition. -/
def State.residentIn (s : State) (part : Nat) : Option Resident := s.ctl.residents.find? (fun r => r.part == part)

/-- The residence of a context replaced by what a function makes of it. -/
def State.setResident (s : State) (ctx : Nat) (f : Resident → Resident) : State :=
  { s with ctl := { s.ctl with residents := updateFirst (fun x => x.ctx == ctx) f s.ctl.residents } }

/-- The first save or restore that a partition has waiting taken up: a resident context stops firing (R389 step 1), and
a save of a partition without one is complete at once (R376). -/
def State.pumpSwitch (s : State) (part fuel : Nat) : State :=
  match fuel with
  | 0 => s
  | n + 1 =>
    match s.ctl.switches.find? (fun w => w.part == part), s.residentIn part with
    | some w, none => if w.restore.isNone then (s.endSwitch w).pumpSwitch part n else s
    | some _, some r =>
      if r.phase == .up then s.setResident r.ctx (fun x => { x with phase := .stopping }) else s
    | none, _ => s

/-- A save or a restore asked for. Log 34 (DESIGN CHOICE). -/
def State.addSwitch (s : State) (w : Switch) : State :=
  { s with ctl := { s.ctl with switches := s.ctl.switches ++ [w] } }.pumpSwitch w.part (s.ctl.switches.length + 1)

/-- A system request begun at its commit (R375 to R377). A restore of context 0, of a context of another partition or of
a resident one faults, with nothing restored. -/
def State.beginSys (s : State) (o : Op) (r : SysReq) : State :=
  match r with
  | .ctxsv p => s.addSwitch ⟨none, p, .op o.id⟩
  | .ctxrs c p =>
    if c = 0 || wfield (s.ctxWord c 0) 1 6 != p || (s.resident c).isSome then
      s.faultOp o { cause := Cause.contextState.code, detail := 0, faddr := 0, value := 0, level := 0 } 0 none
    else s.addSwitch ⟨some c, p, .op o.id⟩
  | _ => s

/-- An operation issued into a free request-table entry (R12, R291). -/
def State.issueOp (s : State) (o : Op) (seq prog : Nat) (fences : List (Nat × Scope)) : State :=
  let h := (pick (s.openEntries o.site) (Config.choice s.tick (64 + prog))).getD 0
  let o1 : Op := { o with id := s.nextId, hidx := h, seq := seq, prog := prog, fences := fences }
  let s1 : State := { s with nextId := s.nextId + 1, ops := s.ops ++ [o1] }
  match o.kind with
  | .sys r _ => s1.beginSys o1 r
  | k => if k.writes then s1.dropTouched o else s1

/-- The opcode of an instruction from its words (R122): the major, the MIN or CC field, and whether a prefix stands
before it. Log 30 (DEDUCED). -/
def opcodeOf (w0 w1 : Word) : Nat × Nat × Bool :=
  let long := decide (field w0.toNat 25 7 = 0x7F)
  let w := if long then w1.toNat else w0.toNat
  let maj := field w 25 7
  let min :=
    if [0x01, 0x02, 0x07, 0x08, 0x14, 0x3A, 0x44, 0x60].contains maj then field w 0 5
    else if [0x03, 0x04, 0x09, 0x0A, 0x10, 0x11, 0x12, 0x45, 0x61].contains maj then field w 12 3
    else if decide (0x13 ≤ maj ∧ maj ≤ 0x26) || [0x38, 0x48, 0x49, 0x4B, 0x4D, 0x51].contains maj then field w 0 3
    else 0
  (maj, min, long)

/-- An action sent to the cell that a record names (R371, R372). -/
def State.sendAction (s : State) (i : Inst) (a : Nat) (v : W64) (ws : List W64) (seq : Nat) : State :=
  let w (k : Nat) : W64 := ws.getD k 0
  { s with
    nextId := s.nextId + 1
    actions := s.actions ++
      [{ id := s.nextId, site := wfield (w 0) 29 11, by_ := i.key.ctx, ctx := wfield (w 0) 40 8, kind := wfield (w 0) 7 2,
         fref := w 1, thr := wfield (w 0) 25 4, hidx := wfield (w 0) 54 8, gen := wfield (w 6) 20 8,
         didx := wfield (w 0) 16 9, opcode := opcodeOf ((w 7).setWidth 32) (((w 7) >>> 32).setWidth 32),
         act := if a = 0 then .rply else if a = 1 then .rsup v else .kill, seq := seq }] }

/-- A launch marked killed by the Ringmaster; a launch that is not live is unaffected (R374). -/
def State.markKilled (s : State) (ctx lid : Nat) : State :=
  { s with ctl := { s.ctl with
      launches := updateFirst (fun l => l.ctx == ctx && l.lid == lid) (fun l => { l with killed := true }) s.ctl.launches } }

/-- A slot rearmed (R29, R246). -/
def Frame.rearm (f : Frame) (slot count reload : Nat) : Frame :=
  let old := ((keyed f.slots slot).map (·.reload)).getD 0
  { f with slots := putKeyed f.slots slot (if 0 < count then ⟨count, reload⟩ else ⟨0, old⟩) }

/-- The scratch bytes that a commit writes, in order, by their keys. -/
def Inst.scratchBytes (i : Inst) : List (Nat × Byte) :=
  i.effects.flatMap (fun e =>
    match e with
    | .scratch bs => bs.map (fun b => (scratchKey i.site i.key.ctx b.1, b.2))
    | _ => [])

/-- An instance whose commit leaves out the scratch bytes for which a test holds. -/
def Inst.without (i : Inst) (p : Nat → Bool) : Inst :=
  { i with effects := i.effects.map (fun e =>
      match e with
      | .scratch bs => .scratch (bs.filter (fun b => !p (scratchKey i.site i.key.ctx b.1)))
      | e => e) }

/-- One effect of a commit, with the fences before it in program order. -/
def State.applyEffect (i : Inst) (seq : Nat) (acc : State × List (Nat × Scope)) (e : EffBody × Nat) :
    State × List (Nat × Scope) :=
  let (s, fences) := acc
  match e.1 with
  | .frameWord k w => (s.updateFrame i.site i.key (fun f => f.putWord k w false), fences)
  | .frameVector j v => (s.updateFrame i.site i.key (fun f => f.putVector j v 0 false), fences)
  | .scratch bs => ({ s with scratch := s.scratch.applyScratch (scratchKey i.site i.key.ctx 0) bs }, fences)
  | .token _ _ _ => (s.commitToken i e.2 seq, fences)
  | .rearm slot c q => (s.updateFrame i.site i.key (fun f => f.rearm slot c q), fences)
  | .fret => (s, fences)
  | .tagwin _ _ _ => (s, fences)
  | .op o => (s.issueOp o seq e.2 fences, fences)
  | .fence sc => (if Scope.wide sc then s.dropLines i.site i.key.ctx else s, fences ++ [(e.2, sc)])
  | .act a v ws => (s.sendAction i a v ws seq, fences)
  | .killLaunch ctx lid => (s.markKilled ctx lid, fences)
  | .writeSys num v => (s.writeSys num v seq, fences)
  | .nothing => (s, fences)

/-- Every effect of an instance, in program order (R41, R139). Its scratch writes race, as one, with the engine commands and MU
instructions of its context on the cell that are under way (R102, R196). -/
def State.applyEffects (s : State) (i : Inst) (seq : Nat) : State :=
  let bs := i.scratchBytes
  if bs.isEmpty then (i.effects.zipIdx.foldl (State.applyEffect i seq) (s, [])).1
  else
    let s1 := s.meetRaces i.site i.key.ctx false bs false
    let i1 := i.without (s1.shielded i.site i.key.ctx false)
    (i1.effects.zipIdx.foldl (State.applyEffect i1 seq) (s1, [])).1

/-- What becomes of the frame of an instance that has left its runner at its commit: `fret` takes effect (R33, R41). -/
def State.endInst (s : State) (i : Inst) : State :=
  if i.effects.contains .fret then
    if s.running i.site i.key none || s.queued i.site i.key then
      s.updateFrame i.site i.key (fun f => { f with life := .dying })
    else s.freeFrame i.site i.key
  else s.settle i.site i.key

/-- A commit under a kill mark: no effect, and the frame frees once no runner holds it (R374). -/
def State.commitKilled (s : State) (i : Inst) : State :=
  (s.dropRequest i).endKilled i

/-- The commit instant of an instance, which leaves its runner (R41, R69). Log 32 (DESIGN CHOICE). -/
def State.commitInst (s : State) (i : Inst) : State :=
  if s.underKill i then s.commitKilled i
  else
    ((((({ s with nextId := s.nextId + 1 }.dropInst i.site i.runner).applyEffects i s.nextId).updateFrame i.site i.key
      (fun f => { f with flags := f.flags ||| i.flags })).dropRequest i).endInst i)

/-- The COMMIT step of a runner: the commit instant when the preconditions hold; for an instance whose validation
waited, the validation again. A halted Ringmaster commits nothing (R343). -/
def execCommit (site runner : Nat) (s : State) : Out :=
  match s.instAt site runner with
  | none => .next s
  | some i =>
    if site = ringmaster ∧ s.hw.rmHalted then .next s
    else
    match i.phase with
    | .finished => .next (s.finishRun i)
    | .offering | .tagwin _ => if s.canCommit i && s.windowsIn i then .next (s.commitInst i) else .next s
    | _ => .next s

end Sys2Proof.Machine
end

