-- ==== Sys2Proof/Machine/Order.lean ====
section
/-! DEFINITION. Which accesses and tokens wait for which (R91 to R102, R256, R380): the edges of R92 within a commit, the
order in which a cell's requests leave for a home slice and are performed there, and what a `.rel` token waits for. -/

namespace Sys2Proof.Machine

/-! ### Parts -/

/-- Whether a part has been performed. -/
def Part.performed (p : Part) : Bool :=
  match p.st with
  | .done _ _ => true
  | _ => false

/-- Whether a part is held. -/
def Part.isHeld (p : Part) : Bool :=
  match p.st with
  | .held _ _ => true
  | _ => false

/-- Whether a part has been forwarded to its home slice or window, as what an edge orders after it sees it: one that was
held counts once it has been performed (R380). -/
def Part.forwarded (p : Part) : Bool :=
  match p.st with
  | .translated _ => !p.again
  | .done _ _ => true
  | _ => false

/-- Whether a part is held, or was held and is not yet performed. -/
def Part.detained (p : Part) : Bool := p.isHeld || (p.again && !p.performed)

/-- Whether an operation is a global access in the sense of R92: a load, a store or an atomic. -/
def OpKind.access : OpKind → Bool
  | .load .. | .vload .. | .store _ | .vstore _ | .atomic .. => true
  | _ => false

/-- Whether an operation writes memory. -/
def OpKind.stores : OpKind → Bool
  | .store _ | .vstore _ | .atomic .. => true
  | _ => false

/-- Whether an operation is an atomic. -/
def OpKind.isAtomic : OpKind → Bool
  | .atomic .. => true
  | _ => false

/-- Whether a part of an operation has gone ahead of what an edge orders after it: forwarded, or for an atomic, which its home
slice may still hold for poison (R104), performed (R380). Log 66 (DEDUCED). -/
def Op.sent (o : Op) (p : Part) : Bool := if o.kind.isAtomic then p.performed else p.forwarded

/-- The access kind of an operation (R363). -/
def OpKind.accessKind : OpKind → Access
  | .store _ | .vstore _ => .store
  | .atomic .. => .atomic
  | _ => .load

/-! ### Edges within a commit (R92, R99, R380) -/

/-- The scopes of the edges that order an earlier access of a commit before a later one, beside the same-location edge
(R92, R99): fences between them, a releasing later atomic, an acquiring earlier atomic. -/
def edgeScopes (early late : Op) : List Scope :=
  let fences := (late.fences.filter (fun f => decide (early.prog < f.1))).map (·.2)
  let rel :=
    match late.kind with
    | .atomic _ _ o sc _ _ _ => if o == .rel || o == .ar || o == .sc then [sc] else []
    | _ => []
  let acq :=
    match early.kind with
    | .atomic _ _ o sc _ _ _ => if o == .acq || o == .ar || o == .sc then [sc] else []
    | _ => []
  fences ++ rel ++ acq

/-- The same address and the same size (R92). -/
def samePlace (p q : Part) : Bool := p.va == q.va && p.len == q.len

/-- Whether two runs of bytes meet. -/
def runsMeet (a n b m : Nat) : Bool := decide (a < b + m ∧ b < a + n)

/-- Whether two accesses of the Ringmaster meet in its memory or in the mailbox region, where accesses are performed in issue
order for each address (R344). -/
def ringMeet (e : Op) (q p : Part) : Bool :=
  e.site == ringmaster && decide (rmMemBase ≤ q.va.toNat ∧ q.va.toNat < 2 ^ 48) && runsMeet q.va.toNat q.len p.va.toNat p.len

/-- Whether an earlier access of the same commit precedes another in program order. -/
def precedes (early late : Op) : Bool :=
  early.site == late.site && early.seq == late.seq && decide (early.prog < late.prog) && early.kind.access

/-- Whether an edge of R92, or the issue order of R344, orders part `q` of an earlier access before part `p` of a later one of
the same commit. -/
def ordersParts (e o : Op) (q p : Part) : Bool :=
  precedes e o && (samePlace q p || !(edgeScopes e o).isEmpty || ringMeet e q p)

/-- Whether a part may be translated and forwarded as far as its own commit goes: every access that an edge of R92 orders
before it has been forwarded, so that a held part keeps it from being sent, faulting or being recorded (R380). -/
def State.mayForward (s : State) (o : Op) (p : Part) : Bool :=
  s.ops.all (fun e => e.parts.all (fun q => e.sent q || !ordersParts e o q p))

/-- Whether a part waits, directly or behind others, for one that is held (R380). -/
def State.behindHeld (s : State) (fuel : Nat) (o : Op) (p : Part) : Bool :=
  match fuel with
  | 0 => false
  | n + 1 => s.ops.any (fun e => e.parts.any (fun q =>
      ordersParts e o q p && (q.detained || (!e.sent q && s.behindHeld n e q))))

/-! ### The order of commits at a home slice (R94) -/

/-- Where a request for a byte goes: its home slice, or its window. -/
def destination (pa : Nat) : Nat := if pa < 2 ^ 48 then homeSlice pa else 1024 + pa / 2 ^ 48

/-- Whether some byte of two accesses goes to the same place; an access is shorter than a granule, and so at most two.
Log 66 (DEDUCED). -/
def meetAt (a n b m : Nat) : Bool :=
  [destination a, destination (a + n - 1)].any (fun d => d == destination b || d == destination (b + m - 1))

/-- Where a part stands in physical memory, or will stand when it is forwarded now. -/
def State.partPlace (s : State) (o : Op) (p : Part) : Option Nat :=
  match p.st with
  | .issued =>
    match s.locate o.site o.key.ctx o.kind.accessKind p.va.toNat p.len with
    | .ok pa => some pa
    | .error _ => none
  | .translated pa => some pa
  | _ => none

/-- Whether an earlier commit of the cell still has a request to forward to a place of `n` bytes, one that no held part keeps
back: requests leave in the order of commit instants (R94). -/
def State.forwardBusy (s : State) (site seq pa n : Nat) : Bool :=
  s.ops.any (fun e => e.site == site && decide (e.seq < seq) && e.kind.access && e.parts.any (fun q =>
    q.st == .issued && (s.partPlace e q).any (fun a => meetAt a q.len pa n) && !s.behindHeld (s.ops.length + 1) e q))

/-- Whether an earlier element of the same access on the same bytes has still to leave: elements that overlap take effect in
ascending order, but for one that a fault holds (R256). Log 66 (DEDUCED). -/
def State.elementBusy (s : State) (o : Op) (p : Part) : Bool :=
  o.parts.any (fun q => decide (q.elem < p.elem) && q.st == .issued
    && (runsMeet q.va.toNat q.len p.va.toNat p.len
        || match s.partPlace o q, s.partPlace o p with
           | some a, some b => runsMeet a q.len b p.len
           | _, _ => false))

/-- Whether a part may be sent now: its own commit and the elements before it allow it, and no earlier commit has a request for
the same place that has still to leave (R94, R256). -/
def State.maySend (s : State) (o : Op) (p : Part) : Bool :=
  s.mayForward o p && !s.elementBusy o p &&
    match s.partPlace o p with
    | some pa => !s.forwardBusy o.site o.seq pa p.len
    | none => true

/-- Whether a request that the cell forwarded to the same place before a step is not yet performed: a home slice performs the
requests of one cell in the order in which it receives them (R94). Log 66 (DEDUCED). -/
def State.slotBusy (s : State) (site pa n since : Nat) : Bool :=
  s.ops.any (fun e => e.site == site && e.parts.any (fun q =>
    match q.st with
    | .translated a => meetAt a q.len pa n && decide (q.fwd < since)
    | _ => false))

/-- Whether an access of an engine command to `n` bytes may be performed now at a physical address: it reaches its home slice in
this step, behind every request that the cell has forwarded there and every one of an earlier commit (R92, R94, R101). -/
def State.engineMay (s : State) (o : Op) (pa n : Nat) : Bool :=
  !s.slotBusy o.site pa n s.tick && !s.forwardBusy o.site o.seq pa n

/-- Whether every write that a cell forwarded before a step for commits before one has been performed (R94). -/
def State.writesDone (s : State) (site seq since : Nat) : Bool :=
  s.ops.all (fun e => !(e.site == site && decide (e.seq < seq) && e.kind.stores && e.parts.any (fun q =>
    match q.st with
    | .translated _ => decide (q.fwd < since)
    | _ => false)))

/-- Whether a forwarded part may be performed (R91, R92, R94, R98, R99, R344): behind every request that its cell forwarded
before it to the same home slice, behind the same location, and behind what fences and atomics of scope
`.die` or wider cover. Log 7 (DEDUCED). -/
def State.mayPerform (s : State) (o : Op) (p : Part) (pa : Nat) : Bool :=
  !s.slotBusy o.site pa p.len p.fwd
    && s.ops.all (fun e => !precedes e o || e.parts.all (fun q =>
      q.performed || !(samePlace q p || ringMeet e q p || (edgeScopes e o).any Scope.wide)))
    && (!(s.ops.any (fun e => precedes e o && (edgeScopes e o).any Scope.wide)
          || o.fences.any (fun f => Scope.wide f.2)) || s.writesDone o.site o.seq p.fwd)

/-! ### Releases (R95, R372) -/

/-- Whether a `.rel` token may be applied: the accesses of its commit are forwarded for `.cell`, and performed, with
every write that the cell forwarded earlier, for a wider scope (R92, R94, R95, R380). -/
def State.released (s : State) (t : Token) : Bool :=
  match t.rels, t.source with
  | some sc, .send =>
    let wide := Scope.wide sc
    s.ops.all (fun e => !(e.site == t.scell && e.seq == t.seq && e.kind.access)
        || e.parts.all (fun q => if wide then q.performed else e.sent q))
      && (!wide || s.writesDone t.scell t.seq s.tick)
  | _, _ => true

/-- Whether every access of an acting commit has been performed (R372). -/
def State.commitDone (s : State) (seq : Nat) : Bool :=
  s.ops.all (fun e => !(e.seq == seq && e.kind.access) || e.parts.all Part.performed)

end Sys2Proof.Machine
end

