-- ==== Sys2Proof/Machine/Signals.lean ====
section
/-! DEFINITION. Steps of tokens, frames and ready entries that no instruction word names: TOKEN_RETRY, TOKEN_ACCEPT,
TOKEN_APPLY, DESCRIPTOR_LOAD, PARK_REEXAMINE, PARK_OVERFLOW_READBACK, WAITING_SIGNAL_SERVE, FRAME_FILL, READY_CHOOSE,
READY_OVERFLOW_RETURN, FAULT_TOKEN_DELIVERY, FAULT_ACTION_DELIVERY, COMPLETION_SIGNAL, VLP_TOKEN_RECEIVE and
VLP_ACKNOWLEDGE. A step whose conditions do not hold changes nothing. -/

namespace Sys2Proof.Machine

/-! ### Tokens -/

/-- A refused token is offered again (R41). -/
def execTokenRetry (tok : Nat) (s : State) : Out :=
  .next (s.updateToken tok (fun t => if t.phase == .refused then { t with phase := .offered } else t))

/-- Whether a cell refuses a direct token because the restore of its context stands at step 5 (R41, R391). -/
def State.refusesDirect (s : State) (t : Token) : Bool :=
  !t.mailed &&
    match s.resident t.key.ctx with
    | some r => r.phase == .presenting && r.cells.contains t.dcell
    | none => false

/-- Whether a token carries a fault record (R238, R366). -/
def Token.isFault (t : Token) : Bool :=
  match t.source with
  | .fault _ _ => true
  | _ => false

/-- A token met by its receiving cell (R26, R41, R243). A token for a remote codeblock leaves as a VLP packet (R244). -/
def execTokenAccept (tok : Nat) (s : State) : Out :=
  match s.token tok with
  | none => .next s
  | some t =>
    if t.phase != .offered || t.isFault then .next s
    else if t.remote.isSome then .next (s.updateToken tok (fun t => { t with phase := .vlp }))
    else if s.refusesDirect t then .next (s.updateToken tok (fun t => { t with phase := .refused }))
    else if s.parkDue t then .next s
    else .next (s.acceptToken t)

/-- What a Ringmaster token tells every cell once it is applied: the register writes of its commit and of those before
(R378). -/
def State.learnSys (s : State) (t : Token) : State :=
  if t.scell = ringmaster then { s with sys := { s.sys with old := s.sys.old.filter (fun e => decide (t.seq < e.2.2)) } }
  else s

/-- An accepted token applied, in the orders of R243, and behind what a release orders before it (R27, R95). In the
Fatal state nothing fires (R414). Log 33 (DEDUCED). -/
def execTokenApply (tok : Nat) (s : State) : Out :=
  match s.token tok with
  | none => .next s
  | some t =>
    if t.phase != .accepted || !t.committed || s.mustWait t || !s.released t || s.hw.health == .fatal then .next s
    else .next ((s.applyToken t).learnSys t)

/-- A cell as the search for a token leaves it, for which it has needed the descriptor of the token's codeblock or not. -/
def Presented.after (p : Presented) (s : State) : State :=
  match p with
  | .frame s1 | .park s1 _ | .wait s1 | .reject s1 _ => s1
  | .mailbox | .discard => s

/-- Whether a cell needs the descriptor of a codeblock that its store lacks (R302): to present a token that it has or is offered,
to resolve a CELLV-0 reference of an instance that has finished, or to run a ready entry. Log 61 (DEDUCED). -/
def State.needsDesc (s : State) (site ctx cb : Nat) : Bool :=
  (s.descAt site ctx cb).isNone && s.residentAt site ctx && !s.haltedAt site ctx
    && (s.tokens.any (fun t => t.dcell == site && t.key.ctx == ctx && t.key.cb == cb
          && (t.phase == .accepted || t.phase == .waiting || t.inPark || (t.phase == .offered && !s.refusesDirect t))
          && (((s.present t).after s).descAt site ctx cb).isSome)
        || s.insts.any (fun i => i.site == site && i.key.ctx == ctx && i.phase == .finished
          && i.effects.any (fun e =>
            match e with
            | .token t false _ => t.key.cb == cb && t.remote.isNone
            | _ => false))
        || s.ready.any (fun r => r.site == site && r.key.ctx == ctx && r.key.cb == cb))

/-- A descriptor that a cell needs loaded into its store ahead of what needs it (R302). -/
def execDescriptorLoad (site ctx cb : Nat) (s : State) : Out :=
  .next (if s.needsDesc site ctx cb then (s.loadDesc site ctx cb).1 else s)

/-! ### Parking -/

/-- A list in rising order of a measure; equal measures keep their order. -/
def sortBy {α : Type} (f : α → Nat) (l : List α) : List α :=
  l.foldr (fun x acc => acc.takeWhile (fun y => decide (f y < f x)) ++ x :: acc.dropWhile (fun y => decide (f y < f x))) []

/-- A parked token presented again (R37). -/
def State.unpark (s : State) (id : Nat) : State :=
  match s.token id with
  | none => s
  | some t =>
    match s.present t with
    | .frame s1 => s1.updateToken id (fun t => { t with phase := .accepted })
    | .park s1 r =>
      s1.updateToken id (fun t =>
        { t with
          phase :=
            match t.phase with
            | .parkReserved _ => .parkReserved r
            | .parked _ => .parked r
            | p => p })
    | .reject s1 c => if t.committed then s1.rejectToken t c else s1
    | .mailbox => if t.committed then s.mailToken t else s
    | .discard => if t.committed then s.discardToken t else s
    | .wait s1 => s1

/-- Whether a parked token is of a codeblock, or parked for want of an entry (R37). -/
def Token.parkConcerns (u : Token) (ctx cb : Nat) : Bool :=
  match u.phase with
  | .parked r | .parkReserved r => r == .noEntry || (u.key.ctx == ctx && u.key.cb == cb)
  | _ => false

/-- The parked tokens of a codeblock on a cell, and those that want an entry, re-examined in ascending D and in arrival order
(R37). -/
def State.reexamine (s : State) (site ctx cb : Nat) : State :=
  let l := s.tokens.filter (fun t => t.dcell == site && t.parkConcerns ctx cb)
  (sortBy (fun t => s.tagOrder site t.key * 2 ^ 64 + t.arrival) l).foldl (fun s t => s.unpark t.id) s

def execParkReexamine (site ctx cb : Nat) (s : State) : Out := .next (s.reexamine site ctx cb)

/-- An overflowed park entry read back in ascending D when the buffer has room (R37). -/
def execParkOverflowReadback (site ctx : Nat) (s : State) : Out :=
  if s.parkCount site < 256 then
    match leastBy (fun t => s.tagOrder site t.key * 2 ^ 64 + t.arrival)
        (s.tokens.filter (fun t => t.dcell == site && t.key.ctx == ctx && t.inOverflow)) with
    | some t =>
      .next (s.updateToken t.id (fun t =>
        { t with
          phase :=
            match t.phase with
            | .overflowed r => .parked r
            | p => p }))
    | none => .next s
  else .next s

/-- A waiting completion signal or fault token served once it can be (R32, R43, R366), but not in the Fatal state (R414).
Log 33 (DEDUCED). -/
def execWaitingSignalServe (tok : Nat) (s : State) : Out :=
  match s.token tok with
  | none => .next s
  | some t =>
    if t.phase != .waiting || s.hw.health == .fatal then .next s
    else
      match t.source, t.payload with
      | .fault item held, .words ws => .next (s.deliverFault t item held ws)
      | _, _ => .next (s.applyToken t)

/-! ### Frames and the ready queue -/

/-- The Spilled frame of an instance on a runner filled back (R33, R46). -/
def execFrameFill (site ctx cb : Nat) (tag : BitVec 32) (s : State) : Out :=
  let k : Key := ⟨ctx, cb, tag⟩
  match s.frameAt site k with
  | none => .next s
  | some f =>
    if f.life == .spilled && s.running site k none then
      match s.makeRoom site ctx f.desc with
      | .made s1 => .next (s1.fillFrame f)
      | _ => .next s
    else .next s

/-- A free runner takes the entry that R45 chooses, and the entries that wait age. A Ringmaster that has halted, or that no
firmware has started, takes none (R343, R354). A cell that does not hold the codeblock's
descriptor, as after a restore, loads it first (R302, R303); when it does not load, the instance runs under the descriptor of its
frame. Log 33 (DEDUCED), 61 (DEDUCED), 64 (DESIGN CHOICE). -/
def execReadyChoose (site runner : Nat) (s : State) : Out :=
  if runner < runnerCount site ∧ (s.instAt site runner).isNone ∧ s.hw.health ≠ .fatal
      ∧ !(decide (site = ringmaster) && (s.hw.rmHalted || s.io.nofw)) then
    match s.chooseReady site with
    | none => .next s
    | some r =>
      match s.frameAt site r.key with
      | none => .next s
      | some f =>
        let s1 := (s.loadDesc site r.key.ctx r.key.cb).1
        .next { s1 with
          nextId := s1.nextId + 1
          insts := newInst ((s1.frameAt site r.key).getD f) runner r.thr r.cls s1.nextId r.subst :: s1.insts
          ready := (s1.ready.filter (fun x => x.stamp != r.stamp)).map (fun x => if x.site == site then x.age else x) }
  else .next s

/-- The earliest overflowed ready entry returns when the cell has room (R44). -/
def execReadyOverflowReturn (site : Nat) (s : State) : Out :=
  if (s.ready.filter (fun r => r.site == site && !r.overflow)).length < 1024 then
    match leastBy (·.stamp) (s.ready.filter (fun r => r.site == site && r.overflow)) with
    | none => .next s
    | some v =>
      let l := updateFirst (fun r => r.stamp == v.stamp) (fun r => { r with overflow := false, inSpill := false }) s.ready
      .next { s with ready := l }
  else .next s

/-! ### Faults and actions -/

/-- A fault token delivered (R366, R368), but not in the Fatal state (R414), and behind parked tokens that could now be
admitted (R37). Log 33 (DEDUCED). -/
def execFaultTokenDelivery (tok : Nat) (s : State) : Out :=
  match s.token tok with
  | none => .next s
  | some t =>
    if t.phase != .offered || s.refusesDirect t || s.hw.health == .fatal || s.parkDue t then .next s
    else
      match t.source, t.payload with
      | .fault item held, .words ws => .next (s.deliverFault t item held ws)
      | _, _ => .next s

/-- The item that an action names (R372): a user context finds items of its own context only. -/
def State.itemOf (s : State) (a : Action) : Option Item :=
  s.items.find? (fun x => x.site == a.site && x.kind == a.kind && x.fref == a.fref && x.thr == a.thr && x.hidx == a.hidx
    && x.gen == a.gen && (a.by_ == 0 || x.ctx == a.by_))

/-- Whether an earlier action for the same item is still on its way (R372). -/
def State.actionBefore (s : State) (a : Action) : Bool :=
  s.actions.any (fun b => decide (b.id < a.id) && b.site == a.site && b.kind == a.kind && b.fref == a.fref
    && b.thr == a.thr && b.hidx == a.hidx && b.gen == a.gen)

/-- An MU instruction performed again from its start (R197). -/
def Mu.again (m : Mu) : Mu := { m with out := [], flags := 0, performed := false, race := { m.race with seen := [] } }

/-- An engine command taken up again: it goes on at its cursor with inputs that it reads anew (R271), but for the index words of a
gather or scatter that it has, each of which is read once (R103). -/
def Engine.again (e : Engine) : Engine :=
  { e with
    winA := [], rest := none, part := none, race := { e.race with seen := [] }
    winB := if e.cmd == .gth || e.cmd == .sct then e.winB.filter (fun x => !x.2.2) else [] }

/-- The held parts of an operation performed again (R258, R371). -/
def Op.replay (o : Op) : Op :=
  { o with
    heldOp := none
    item := none
    parts := o.parts.map (fun p =>
      match p.st with
      | .held _ _ => { p with st := .issued, seen := 0, got := 0, bad := false, again := true, pa := none }
      | _ => p)
    kind :=
      match o.kind with
      | .xld n _ => .xld n .fresh
      | .mu m => .mu m.again
      | .engine e => .engine e.again
      | k => k }

/-- The held parts of an access completed without any access, with the bytes of a value at their offsets (R371). A
floating-point addition that was not performed raises no flag, so it is kept as an exchange. -/
def Op.substitute (o : Op) (v : W64) : Op :=
  { o with
    heldOp := none
    item := none
    kind :=
      match o.kind with
      | .atomic .fadd w ord sc k b c => .atomic .swap w ord sc k b c
      | k => k
    parts := o.parts.map (fun p =>
      match p.st with
      | .held _ _ => { p with st := .done (BitVec.ofNat 64 (v.toNat / 256 ^ p.off % 256 ^ p.len)) false }
      | _ => p) }

/-- A held operation taken up again; a request to save or restore a context begins anew (R371, R376). -/
def State.restartOp (s : State) (o : Op) : State :=
  let s1 := s.updateOp o.id Op.replay
  match o.kind with
  | .sys r _ => s1.beginSys o.replay r
  | _ => s1

/-- A held operation acted on (R371). -/
def State.actOnOp (s : State) (o : Op) (a : ActKind) : State :=
  match a with
  | .kill => s.dropOp o.id
  | .rsup v => if o.kind.access then s.updateOp o.id (fun o => o.substitute v) else s.restartOp o
  | .rply => s.restartOp o

/-- A suspended entry made a ready entry of its threadlet's class (R371). -/
def State.requeue (s : State) (it : Item) (thr : Nat) (sub : Option (Nat × (Nat × Nat × Bool) × W64)) : State :=
  let cls := ((s.frameAt it.site it.key).bind (fun f => (keyed f.desc.threads thr).map (·.cls))).getD 0
  (s.takeItem it.id).enqueueWith it.site it.key thr cls sub

/-- A held token presented again (R31, R371); the placement of an initial token that faulted is resolved again first, and
may fault again (R420). -/
def State.presentAgain (s : State) (id : Nat) : State :=
  match s.token id with
  | none => s
  | some t =>
    if t.unplaced then
      match s.resolveHome t.dcell (s.cellList t.dcell t.key.ctx t.lid) t.key.ctx t.key.cb t.key.tag with
      | (s1, .ok c) => s1.updateToken id (fun t => { t with phase := .offered, dcell := c, unplaced := false })
      | (s1, .error e) => s1.rejectToken t e
    else s.updateToken id (fun t => { t with phase := .offered })

/-- An action applied to its item (R371). -/
def State.applyAction (s : State) (a : Action) (it : Item) : State :=
  match it.body with
  | .suspended thr _ =>
    match a.act with
    | .kill => (s.killItem it).settle it.site it.key
    | .rply => s.requeue it thr none
    | .rsup v => s.requeue it thr (some (a.didx, a.opcode, v))
  | .op id =>
    match s.op id with
    | none => s.takeItem it.id
    | some o => (s.takeItem it.id).actOnOp o a.act
  | .token id =>
    match a.act with
    | .kill => s.killItem it
    | _ => (s.takeItem it.id).presentAgain id

/-- An action delivered to its cell; one that finds no item has no effect (R372). -/
def State.deliverAction (s : State) (a : Action) : State :=
  let s1 : State := { s with actions := s.actions.filter (fun x => x.id != a.id) }
  match s.itemOf a with
  | some it => s1.applyAction a it
  | none => s1

/-- An action reaches its cell once the acting commit's accesses are performed; for a context that is not resident there
it is kept (R372). -/
def execFaultActionDelivery (act : Nat) (s : State) : Out :=
  match s.actions.find? (fun a => a.id == act) with
  | none => .next s
  | some a =>
    if s.residentAt a.site a.ctx && !s.actionBefore a && s.commitDone a.seq then .next (s.deliverAction a) else .next s

/-! ### Completion (R43, R88, R96, R250, R291) -/

/-- The value that the parts of an element make up. -/
def partsValue (l : List Part) : Nat :=
  (l.map (fun p =>
    match p.st with
    | .done v _ => v.toNat % 256 ^ p.len * 256 ^ p.off
    | _ => 0)).sum

/-- Whether any part returned poison. -/
def partsPoison (l : List Part) : Bool :=
  l.any (fun p =>
    match p.st with
    | .done _ b => b
    | _ => false)

/-- The rounded sum of a `.fadd` and its flags (R53, R63, R259). -/
def atomicAdd (wide : Bool) (x y : Nat) : Nat × BitVec 5 :=
  floatAdd (if wide then FloatTy.f64.fmt else FloatTy.f32.fmt) .rne x y

/-- The old value of an atomic as its frame word receives it (R259). -/
def atomicWord (f : AtomicFn) (wide : Bool) (old : Nat) : W64 :=
  extendTo64 (f == .minS || f == .maxS) (if wide then 64 else 32) old

/-- The payload, word index, kind and flags of a completion signal (R25, R207, R238, R254, R259). -/
def Op.signal (o : Op) : Payload × Nat × Nat × BitVec 5 :=
  match o.kind with
  | .load t _ k => (.word (extendTo64 t.signed (8 * t.bytes) (partsValue o.parts)), k, 1, 0)
  | .vload j e m z =>
    let w := 8 * e.bytes
    let v := ofLanes w ((upFrom 0 (elemCount w)).map (fun k => partsValue (o.parts.filter (fun p => p.elem == k))))
    let keep := ofLanes w ((upFrom 0 (elemCount w)).map (fun k => if active m k || z then 0 else 2 ^ laneWidth w - 1))
    (.vector v keep, j, 2, 0)
  | .atomic f wide _ _ k b _ =>
    let old := partsValue o.parts
    (.word (atomicWord f wide old), k, 1,
     if f == .fadd then (atomicAdd wide old (if wide then b.toNat else b.toNat % 2 ^ 32)).2 else 0)
  | .mu m => (.none, 0, 3, m.flags)
  | _ => (.none, 0, 3, 0)

/-- The graph slot that an operation pins (R208). -/
def Op.pinned (o : Op) : Option Nat :=
  match o.kind with
  | .mu m => if m.cmd == .rdx then some m.gslot else none
  | _ => none

/-- Whether an operation has completed and can signal its slot. -/
def Op.complete (o : Op) : Bool :=
  o.heldOp.isNone &&
    match o.kind with
    | .engine e => e.finished
    | .mu m => m.performed
    | .xld _ .ready => true
    | .xld _ _ => false
    | .xunl _ r => r
    | .sys _ r => r
    | .prefetch _ => false
    | _ => o.parts.all Part.performed

/-- Whether the completion of an operation invalidates the local cache (R88, R99). -/
def Op.acquires (o : Op) : Bool :=
  match o.kind with
  | .atomic _ _ ord sc _ _ _ => (ord == .acq || ord == .ar || ord == .sc) && Scope.wide sc
  | _ => false

/-- The completion signal of an operation: it leaves the request table, and the signal is applied, creating its frame
when it has to, or waits (R43, R250, R291). The signal of a dropped operation is discarded (R374). -/
def State.signalOp (s : State) (o : Op) : State :=
  let s1 := if o.acquires then s.dropLines o.site o.key.ctx else s
  if o.dropped then s1.dropOp o.id
  else
    let s2 : State := { s1 with ops := s1.ops.filter (fun x => x.id != o.id) }
    let (p, idx, kind, fl) := o.signal
    let t : Token :=
      { unitToken .completion o.key o.slot kind idx o.site o.site o.lid p with
        id := s2.nextId, arrival := s2.nextId, epoch := o.epoch, psn := partsPoison o.parts && kind != 3, flags := fl,
        phase := .accepted, hidx := some o.hidx, pin := o.pinned, race := o.kind.race }
    { s2 with nextId := s2.nextId + 1, tokens := s2.tokens ++ [t] }.applyToken t

/-- Whether the completion signal of an operation waits until the parked tokens of its cell are examined again: it takes an entry
that they may have (R37). Log 63 (DESIGN CHOICE). -/
def State.signalWaits (s : State) (o : Op) : Bool := !o.dropped && s.needsEntry o.site o.key && s.parkReady o.site

/-- Log 33 (DEDUCED). -/
def execCompletionSignal (op : Nat) (s : State) : Out :=
  match s.op op with
  | none => .next s
  | some o => if o.complete && s.hw.health != .fatal && !s.signalWaits o then .next (s.signalOp o) else .next s

/-! ### Other packages (R17, R244) -/

/-- The home of a token from another package, by the placement policy of the codeblock here; where the policy gives none,
a live cell of the context that will find the reason, and where the context's list holds no live cell, cell 0, whatever its
state. Log 53 (DESIGN CHOICE), 58 (DESIGN CHOICE). -/
def State.arrivalCell (s : State) (ctx cb : Nat) (tag : BitVec 32) : State × Nat :=
  let l := if ctx = 0 then packageCells else s.senderCells ctx
  let first := (pick (s.live l) (Config.choice s.tick 7)).getD 0
  match s.resolveHome first l ctx cb tag with
  | (s1, .ok c) => (s1, c)
  | (s1, .error _) => (s1, first)

/-- A token from another package (R244). It takes LID 0, so that its frames count under launch 0 of their context.
Log 53 (DESIGN CHOICE), 58 (DESIGN CHOICE). -/
def execVlpTokenReceive (port ctx cb : Nat) (tag : BitVec 32) (epoch : Bool) (slot : BitVec 4) (kind : Nat)
    (idx : BitVec 8) (rels : Option Scope) (psn : Bool) (payload : BitVec 2048) (s : State) : Out :=
  let p : Payload :=
    match kind with
    | 1 => .word (payload.setWidth 64)
    | 2 => .vector payload 0
    | _ => .none
  if 2 < kind ∨ 255 < ctx ∨ 4095 < cb then .next s
  else
    let (s1, home) := if (s.codeblock ctx cb).map (·.ring) = some true then (s, ringmaster) else s.arrivalCell ctx cb tag
    .next (s1.sendToken
      { unitToken (.vlpIn port) ⟨ctx, cb, tag⟩ slot.toNat kind idx.toNat home home 0 p with
        epoch := epoch, rels := rels, psn := psn && kind != 0 })

/-- The acknowledgement of a token sent to another package: it counts in TR (R48, R244). Log 53 (DESIGN CHOICE). -/
def execVlpAcknowledge (tok : Nat) (s : State) : Out :=
  match s.token tok with
  | none => .next s
  | some t =>
    if t.phase == .vlp && t.committed && s.released t then
      let s1 := s.dropToken tok
      .next (if t.counted then s1.count t.scell t.key.ctx t.lid 0 1 else s1)
    else .next s

end Sys2Proof.Machine
end

