-- ==== Sys2Proof/Machine/Parts.lean ====
section
/-! DEFINITION. The performing of split-phase accesses (R83 to R105, R252 to R259, R382 to R387): LOAD_PERFORM,
STORE_PERFORM, ATOMIC_PERFORM, PREFETCH_PERFORM, PAGE_WALK, LOCAL_CACHE_FILL, ICACHE_FILL, TLB_INVALIDATE_COMPLETE and
PCIE_COMPLETION_TIMEOUT. A part is first translated and forwarded, and performed in a later step. -/

namespace Sys2Proof.Machine

/-- The source word of a health event of a site and context (R412). -/
def sourceWord (site ctx : Nat) : Nat :=
  if site = ringmaster then 2 ^ 14 + ctx * 2 ^ 15 else site + dieOf site * 2 ^ 11 + ctx * 2 ^ 15

/-- Whether the context of an operation is being stopped for a save or has not resumed, so that its units stand still
(R274, R389). -/
def State.drained (s : State) (ctx : Nat) : Bool :=
  match s.resident ctx with
  | some r => r.phase != .up
  | none => false

/-! ### Parts of an operation -/

/-- Part number k of an operation replaced by what a function makes of it. -/
def State.modifyPart (s : State) (op k : Nat) (f : Part → Part) : State :=
  s.updateOp op (fun o => { o with parts := o.parts.modify k f })

/-- Part number k of an operation in a new state. -/
def State.setPart (s : State) (op k : Nat) (st : PartState) : State := s.modifyPart op k (fun p => { p with st := st })

/-- The number that DETAIL gives a part (R365): its element for a vector access, its half for a scalar one. -/
def Op.partBit (o : Op) (p : Part) : Nat :=
  match o.kind with
  | .vload .. | .vstore _ => p.elem
  | _ => p.half

/-- The held data of an access that has held parts: that of every element of which a part is held (R373). -/
def Op.heldData (o : Op) : Option VWord :=
  match o.kind with
  | .store e | .vstore e =>
    let w := 8 * e.bytes
    some (ofLanes w ((upFrom 0 (elemCount w)).map (fun k =>
      if o.parts.any (fun p => p.elem == k && p.isHeld) then
        ((o.parts.filter (fun p => p.elem == k)).map (fun p => p.data.toNat % 256 ^ p.len * 256 ^ p.off)).sum
      else 0)))
  | .atomic _ _ _ _ _ b c => some (c.setWidth 2048 <<< 64 ||| b.setWidth 2048)
  | _ => none

/-- What follows when a part has been performed or held: once no part is under way and some are held, the fault of the
lowest held part is recorded (R258, R365). What is left of a dropped operation is discarded (R374). -/
def State.closeParts (s : State) (op : Nat) : State :=
  match s.op op with
  | none => s
  | some o =>
    if o.parts.all (fun p => p.performed || p.isHeld) then
      match o.parts.find? Part.isHeld with
      | none => s
      | some p =>
        if o.dropped then s.dropOp op
        else
          match p.st with
          | .held cause level =>
            let bits := ((o.parts.filter Part.isHeld).map (fun p => 2 ^ o.partBit p)).dedup.sum
            s.faultOp o
              { cause := cause, detail := if 0x40 ≤ cause then BitVec.ofNat 64 bits else 0, faddr := p.va, value := 0,
                level := level }
              (match o.kind with
               | .vload .. | .vstore _ => p.elem
               | _ => 0)
              o.heldData
          | _ => s
    else s

/-- A part held by a fault. -/
def State.holdPart (s : State) (op k : Nat) (cause level : Nat) : State := (s.setPart op k (.held cause level)).closeParts op

/-- A part that has been performed. -/
def State.donePart (s : State) (op k : Nat) (v : Nat) (psn : Bool) : State :=
  (s.setPart op k (.done (BitVec.ofNat 64 v) psn)).closeParts op

/-- A part with its translation: forwarded, with the local-cache lines that it writes invalidated (R88), or held for a
window that atomics do not reach (R100). -/
def State.forwardTo (s : State) (o : Op) (p : Part) (k pa : Nat) : State :=
  if o.kind.isAtomic && decide (2 ^ 48 ≤ pa) then s.holdPart o.id k Cause.atomicTarget.code 0
  else
    let s1 := s.modifyPart o.id k (fun p => { p with st := .translated pa, fwd := s.tick, pa := some pa })
    if o.kind.stores then s1.dropLine o.site o.key.ctx pa p.len else s1

/-- A misaligned atomic faults before its translation (R100). -/
def Op.misaligned (o : Op) (p : Part) : Bool :=
  match o.kind with
  | .atomic .. => p.va.toNat % p.len != 0
  | _ => false

/-- A part translated by what the site holds: the checks of the Ringmaster (R344), or a leaf in the TLB (R384 to R386).
A miss waits for the walk. -/
def State.translatePart (s : State) (o : Op) (p : Part) (k : Nat) : State :=
  if o.misaligned p then s.holdPart o.id k Cause.atomicAlign.code 0
  else
    let a := o.kind.accessKind
    let result : Option (Except NoPage Nat) :=
      if o.site = ringmaster then
        some (if s.ringReaches p.va.toNat p.len then .ok p.va.toNat else .error ⟨.physRange, 0⟩)
      else (s.tlbEntry o.site o.key.ctx p.va.toNat).map (fun e => s.checkLeaf a e.leaf e.level p.va.toNat)
    match result with
    | none => s
    | some (.error e) => s.holdPart o.id k (e.fault.code a) e.level
    | some (.ok pa) => s.forwardTo o p k pa

/-! ### The local cache (R88) -/

/-- The local-cache lines that a context has on a cell (R12, R77). Log 11 (DESIGN CHOICE). -/
def State.lineRoom (s : State) (site ctx : Nat) : Nat :=
  if site = ringmaster then 0
  else
    match s.resident ctx with
    | some r => r.lunits * 512
    | none => 0

/-- The line that holds a physical address. -/
def State.lineAt (s : State) (site ctx pa : Nat) : Option LcLine :=
  s.lcache.find? (fun l => l.site == site && l.ctx == ctx && l.pa == pa / 128 * 128)

/-- A line filled from its home slice; a full cache gives up one (R88). Log 52 (DESIGN CHOICE). -/
def State.fillLine (s : State) (site ctx pa : Nat) : State :=
  let base := pa / 128 * 128
  if pa < 2 ^ 48 ∧ 0 < s.lineRoom site ctx ∧ (s.lineAt site ctx pa).isNone then
    let mine := s.lcache.filter (fun l => l.site == site && l.ctx == ctx)
    let kept :=
      if mine.length < s.lineRoom site ctx then s.lcache
      else
        match pick mine (Config.choice s.tick 8) with
        | some v => s.lcache.filter (fun l => l != v)
        | none => s.lcache
    { s with lcache := ⟨site, ctx, base, BitVec.ofNat 1024 (s.mem.read base 128),
                        (unitsOf base 128).filter (fun u => s.mem.poison.contains u)⟩ :: kept }
  else s

/-- The lines of the bytes of a part filled. -/
def State.fillLines (s : State) (site ctx pa n : Nat) : State :=
  (s.fillLine site ctx pa).fillLine site ctx (pa + n - 1)

/-- A byte as the local cache holds it. -/
def State.cachedByte (s : State) (site ctx pa : Nat) : Nat × Bool :=
  match s.lineAt site ctx pa with
  | some l => (l.data.toNat / 256 ^ (pa % 128) % 256, l.poison.contains (unitOf pa))
  | none => ((s.mem.byte pa).toNat, s.mem.poison.contains (unitOf pa))

/-- Bytes read through the local cache, as a little-endian number, and whether any is poisoned. -/
def State.cachedRead (s : State) (site ctx pa n : Nat) : Nat × Bool :=
  match n with
  | 0 => (0, false)
  | k + 1 =>
    let (b, p) := s.cachedByte site ctx pa
    let (r, q) := s.cachedRead site ctx (pa + 1) k
    (b + 256 * r, p || q)

/-! ### Performing -/

/-- The bytes of an access or of one element of it. -/
def OpKind.bytes : OpKind → Nat
  | .load t _ _ => t.bytes
  | .vload _ e _ _ => e.bytes
  | .store e | .vstore e => e.bytes
  | .atomic _ wide .. => if wide then 8 else 4
  | _ => 0

/-- Whether a part is single-copy atomic: a whole, naturally aligned access or element (R89). -/
def Op.whole (o : Op) (p : Part) : Bool := p.len == o.kind.bytes && p.va.toNat % p.len == 0

/-- The outstanding bytes of `n` that one step takes, at least one: an access that is not single-copy atomic may tear at
byte grain (R89). Log 11 (DESIGN CHOICE), 49 (DESIGN CHOICE). -/
def tornBytes (tick n seen : Nat) : List Nat :=
  match (upFrom 0 n).filter (fun b => !seen.testBit b) with
  | [b] => [b]
  | rest =>
    let some_ := rest.filter (fun b => (Config.choice tick 10).testBit b)
    if some_.isEmpty then rest else some_

/-- Whether an address lies in Ringmaster memory or in the mailbox region, where an access is single-copy atomic per aligned unit of
8 bytes (R344). -/
def ringUnits (pa : Nat) : Bool := decide (rmMemBase ≤ pa ∧ pa < rmMemBase + 2 ^ 24) || inBox pa

/-- The outstanding bytes of `n` at a physical address that one step takes: in Ringmaster memory and the mailbox region those of
whole units (R89, R344). -/
def tornAt (tick n seen pa : Nat) : List Nat :=
  let bs := tornBytes tick n seen
  if ringUnits pa then
    (upFrom 0 n).filter (fun b => !seen.testBit b && bs.any (fun c => unitOf (pa + c) == unitOf (pa + b)))
  else bs

/-- Every byte of `n`, as a mask. -/
def allBytes (n : Nat) : Nat := 2 ^ n - 1

/-- Bytes of a load part read, each by itself. -/
def Part.gather (p : Part) (bs : List Nat) (rd : Nat → Nat × Bool) : Part :=
  bs.foldl (fun p b =>
    { p with seen := p.seen ||| 2 ^ b, got := p.got + (rd b).1 % 256 * 256 ^ b, bad := p.bad || (rd b).2 }) p

/-- A part with the bytes that it has read so far, performed once they are all there. -/
def State.takePart (s : State) (o : Op) (k : Nat) (p : Part) : State :=
  if p.seen = allBytes p.len then s.donePart o.id k p.got p.bad else s.modifyPart o.id k (fun _ => p)

/-- Whether a load is served by the local cache (R88). -/
def State.cached (s : State) (o : Op) : Bool :=
  match o.kind with
  | .load _ lc _ => lc && decide (0 < s.lineRoom o.site o.key.ctx)
  | _ => false

/-- A load part performed (R88, R89, R104, R252, R254, R344, R387): whole, or some of its bytes.
Log 7 (DEDUCED), 16 (DESIGN CHOICE), 49 (DESIGN CHOICE). -/
def State.performLoad (s : State) (o : Op) (p : Part) (k pa : Nat) : State :=
  let bs := tornAt s.tick p.len p.seen pa
  if 2 ^ 48 ≤ pa then
    if Config.hostAnswers s.tick then
      if o.whole p then s.donePart o.id k (s.physRead pa p.len).1 (s.physRead pa p.len).2
      else s.takePart o k (p.gather bs (fun b => s.physRead (pa + b) 1))
    else s.donePart o.id k (Config.failedRead s.tick pa % 256 ^ p.len) true
  else if s.cached o then
    let s1 := s.fillLines o.site o.key.ctx pa p.len
    if o.whole p then
      let (v, q) := s1.cachedRead o.site o.key.ctx pa p.len
      s1.donePart o.id k v q
    else s1.takePart o k (p.gather bs (fun b => s1.cachedByte o.site o.key.ctx (pa + b)))
  else if o.whole p then s.donePart o.id k (s.physRead pa p.len).1 (s.physRead pa p.len).2
  else s.takePart o k (p.gather bs (fun b => s.physRead (pa + b) 1))

/-- Whether a higher element of the same access has already written a byte: the lower one, which a fault held, then leaves the byte
as it is (R256). Log 66 (DEDUCED). -/
def Op.overwritten (o : Op) (p : Part) (a : Nat) : Bool :=
  o.parts.any (fun q => decide (p.elem < q.elem) && q.performed
    && match q.pa with
       | some b => decide (b ≤ a ∧ a < b + q.len)
       | none => false)

/-- One byte of a store part written, where no higher element has written it. Log 66 (DEDUCED). -/
def State.storeByte (s : State) (o : Op) (p : Part) (pa b : Nat) : State :=
  if o.overwritten p (pa + b) then s else s.physStore (pa + b) 1 (p.data.toNat / 256 ^ b % 256) false

/-- A store part performed, whole or some of its bytes; a write that a host refuses is dropped, with a health event (R89,
R104, R344, R253, R255, R256, R387, R412). A part clears the poison of the units that it alone writes whole.
Log 7 (DEDUCED), 49 (DESIGN CHOICE), 64 (DESIGN CHOICE). -/
def State.performStore (s : State) (o : Op) (p : Part) (k pa : Nat) : State :=
  if 2 ^ 48 ≤ pa ∧ !Config.hostAnswers s.tick then (s.donePart o.id k 0 false).healthEvent 0x07 (sourceWord o.site o.key.ctx)
  else if o.whole p && (upFrom pa p.len).all (fun a => !o.overwritten p a) then
    (s.physStore pa p.len p.data.toNat false).donePart o.id k 0 false
  else
    let bs := if o.whole p then upFrom 0 p.len else tornAt s.tick p.len p.seen pa
    let s1 := bs.foldl (fun s b => s.storeByte o p pa b) s
    let p1 := p.gather bs (fun _ => (0, false))
    if p1.seen = allBytes p.len then s1.donePart o.id k 0 false else s1.modifyPart o.id k (fun _ => p1)

/-- The new value of an atomic, or none when nothing is written (R259). -/
def atomicNew (f : AtomicFn) (wide : Bool) (old b c : Nat) : Option Nat :=
  let n := if wide then 64 else 32
  match f with
  | .add => some ((old + b) % 2 ^ n)
  | .and => some (old &&& b)
  | .or => some (old ||| b)
  | .xor => some (old ^^^ b)
  | .minS => some (if signedOf n b < signedOf n old then b else old)
  | .maxS => some (if signedOf n old < signedOf n b then b else old)
  | .minU => some (min old b)
  | .maxU => some (max old b)
  | .swap => some b
  | .cas => if old = c then some b else none
  | .fadd => some (atomicAdd wide old b).1

/-- An atomic performed at its home slice in one step (R100, R104, R259). -/
def State.performAtomic (s : State) (o : Op) (p : Part) (k pa : Nat) : State :=
  match o.kind with
  | .atomic f wide _ _ _ b c =>
    let (old, psn) := s.physRead pa p.len
    let low (x : W64) : Nat := if wide then x.toNat else x.toNat % 2 ^ 32
    if psn then s.holdPart o.id k Cause.poisonAtomic.code 0
    else
      match atomicNew f wide old (low b) (low c) with
      | some v => (s.physStore pa p.len v false).donePart o.id k old false
      | none => s.donePart o.id k old false
  | _ => s

/-- One step of a part: an issued part is translated, a forwarded one is performed when its order allows. -/
def stepPart (ok : OpKind → Bool) (perform : State → Op → Part → Nat → Nat → State) (op k : Nat) (s : State) : Out :=
  match s.op op with
  | none => .next s
  | some o =>
    match o.parts[k]? with
    | none => .next s
    | some p =>
      if !ok o.kind then .next s
      else
        match p.st with
        | .issued => if s.maySend o p then .next (s.translatePart o p k) else .next s
        | .translated pa => if s.mayPerform o p pa then .next (perform s o p k pa) else .next s
        | _ => .next s

/-- Whether an operation is a load. -/
def OpKind.isLoad : OpKind → Bool
  | .load .. | .vload .. => true
  | _ => false

/-- Whether an operation is a plain store. -/
def OpKind.isStore : OpKind → Bool
  | .store _ | .vstore _ => true
  | _ => false

def execLoadPerform (op part : Nat) (s : State) : Out := stepPart OpKind.isLoad State.performLoad op part s
def execStorePerform (op part : Nat) (s : State) : Out := stepPart OpKind.isStore State.performStore op part s
def execAtomicPerform (op part : Nat) (s : State) : Out := stepPart OpKind.isAtomic State.performAtomic op part s

/-- A prefetch performed or dropped: it never faults and signals nothing (R257). -/
def execPrefetchPerform (op part : Nat) (s : State) : Out :=
  match s.op op with
  | none => .next s
  | some o =>
    match o.kind, o.parts[part]? with
    | .prefetch lc, some p =>
      let s1 := (s.dropOp op).noteFetch o.site o.key.ctx p.va.toNat
      match s.locate o.site o.key.ctx .load p.va.toNat 1 with
      | .error _ => .next s1
      | .ok pa => .next (if lc then s1.fillLine o.site o.key.ctx pa else s1)
    | _, _ => .next s

/-- A walk for a part that missed the TLB: the leaf is kept and checked, or the part is held (R382 to R386). -/
def execPageWalk (op part : Nat) (s : State) : Out :=
  match s.op op with
  | none => .next s
  | some o =>
    match o.parts[part]? with
    | none => .next s
    | some p =>
      let va := p.va.toNat
      if p.st != .issued || o.site == ringmaster || !o.kind.access || !s.maySend o p || o.misaligned p
          || (s.tlbEntry o.site o.key.ctx va).isSome then .next s
      else
        let a := o.kind.accessKind
        match s.walk o.key.ctx va with
        | .error e => .next (s.holdPart op part (e.fault.code a) e.level)
        | .ok (leaf, lvl) =>
          .next (((s.fillTlb o.site o.key.ctx va leaf lvl).noteWalk o.site o.key.ctx va lvl).translatePart o p part)

/-- The lines of a `.lc` load filled ahead of the load (R88). -/
def execLocalCacheFill (op part : Nat) (s : State) : Out :=
  match s.op op with
  | none => .next s
  | some o =>
    match o.kind, o.parts[part]? with
    | .load _ true _, some p =>
      match p.st with
      | .translated pa => .next (s.fillLines o.site o.key.ctx pa p.len)
      | _ => .next s
    | _, _ => .next s

/-- A read of a host window that no completion answered in time (R387). Log 16 (DESIGN CHOICE). -/
def execPcieCompletionTimeout (op part : Nat) (s : State) : Out :=
  match s.op op with
  | none => .next s
  | some o =>
    match o.kind.isLoad, o.parts[part]? with
    | true, some p =>
      match p.st with
      | .translated pa => if 2 ^ 48 ≤ pa then
        .next (s.donePart op part (Config.failedRead s.tick pa % 256 ^ p.len) true) else .next s
      | _ => .next s
    | _, _ => .next s

/-! ### Instruction fetch (R110, R111) -/

/-- The word that a site's instruction cache holds at an address. -/
def State.cachedWord (s : State) (site ctx : Nat) (a : VAddr) : Option Word :=
  (s.icache.find? (fun w => w.site == site && w.ctx == ctx && w.addr == a)).map (·.word)

/-- A word filled into a site's instruction cache, which holds 64 KiB (R12, R110).
Log 11 (DESIGN CHOICE), 52 (DESIGN CHOICE). -/
def State.fillWord (s : State) (site ctx : Nat) (a : VAddr) (w : Word) : State :=
  let mine := s.icache.filter (fun x => x.site == site)
  let kept :=
    if mine.length < 16384 then s.icache
    else
      match pick mine (Config.choice s.tick 9) with
      | some v => s.icache.filter (fun x => x != v)
      | none => s.icache
  { s with icache := ⟨site, ctx, a, w⟩ :: kept }

/-- The next word that a runner lacks: that of its counter, or the word behind a prefix (R111). -/
def State.missingWord (s : State) (i : Inst) : Option VAddr :=
  match s.cachedWord i.site i.key.ctx i.pc with
  | none => some i.pc
  | some w =>
    if field w.toNat 25 7 = 0x7F ∧ (s.cachedWord i.site i.key.ctx (i.pc + 4)).isNone then some (i.pc + 4) else none

/-- A fetch that missed: the word comes from memory, or the instruction faults (R110, R386). A fetch from a window that a
host does not answer brings the poisoned unit's contents (R104, R387). Log 16 (DESIGN CHOICE), 50 (DEDUCED). -/
def execIcacheFill (site runner : Nat) (s : State) : Out :=
  match s.instAt site runner with
  | none => .next s
  | some i =>
    if i.phase != .running then .next s
    else
      match s.missingWord i with
      | none => .next s
      | some a =>
        let w0 : Word := (s.cachedWord i.site i.key.ctx i.pc).getD 0
        let here : At := ⟨i.dyn, i.pc, w0, none⟩
        match s.locate site i.key.ctx .fetch a.toNat 4 with
        | .error e => .next ((s.noteFetch site i.key.ctx a.toNat).takeFault i here { e.trap .fetch a.toNat with detail := 1 })
        | .ok pa =>
          let w := (s.deviceRead pa 4).1
          .next ((s.noteFetch site i.key.ctx a.toNat).fillWord site i.key.ctx a (BitVec.ofNat 32 w))

/-! ### Invalidation of translations (R377) -/

/-- Whether a request covers the translation of a context's page. Log 51 (DEDUCED). -/
def SysReq.covers (r : SysReq) (ctx va level : Nat) : Bool :=
  match r with
  | .tlbi c a => c == ctx && a.toNat / 2 ^ (12 + 10 * level) == va / 2 ^ (12 + 10 * level)
  | .tlbia none => true
  | .tlbia (some c) => c == ctx
  | _ => false

/-- Whether a request is an invalidation. -/
def SysReq.invalidates : SysReq → Bool
  | .tlbi _ _ | .tlbia _ => true
  | _ => false

/-- Whether an access in flight uses a translation that a request covers. Which page size it used is not recorded, so the
largest is taken. Log 51 (DEDUCED). -/
def State.inFlight (s : State) (r : SysReq) : Bool :=
  s.ops.any (fun o => o.site != ringmaster && (o.parts.any (fun p =>
    match p.st with
    | .translated _ => r.covers o.key.ctx p.va.toNat 2
    | _ => false)
    || match o.kind with
       | .engine e => (e.part.map (·.va)).any (fun va => r.covers o.key.ctx va 2)
           || e.buf.any (fun x => !x.runs.isEmpty && r.covers o.key.ctx x.va 2)
       | _ => false))

/-- The covered translations removed from every TLB; the slot can be signalled once no access under way uses one
(R377). -/
def execTlbInvalidateComplete (op : Nat) (s : State) : Out :=
  match s.op op with
  | none => .next s
  | some o =>
    match o.kind with
    | .sys r false =>
      if r.invalidates then
        let s1 : State := { s with tlb := s.tlb.filter (fun e => !r.covers e.ctx (e.page * 2 ^ (12 + 10 * e.level)) e.level) }
        if s1.inFlight r then .next s1 else .next (s1.updateOp op (fun o => { o with kind := .sys r true }))
      else .next s
    | _ => .next s

end Sys2Proof.Machine
end

