-- ==== Sys2Proof/Machine/Errors.lean ====
section
/-! DEFINITION. The uncorrectable errors that a cell reports, and the retirement that they bring about (R413, R414). -/

namespace Sys2Proof.Machine

/-- One hour in nanoseconds. -/
def hour : Nat := 3600 * 10 ^ 9

/-- A cell retired; a 17th cell of one die makes the package Fatal instead (R413, R414). Log 42 (DEDUCED). -/
def State.retireCell (s : State) (c : Nat) : State :=
  let s1 : State := { s with hw := { s.hw with retiring := dropNat s.hw.retiring c } }
  if s.hw.retired.contains c then s1
  else if 16 ≤ (s.hw.retired.filter (fun x => dieOf x == dieOf c)).length then { s1 with hw := { s1.hw with health := .fatal } }
  else
    let hw := { s1.hw with
      retired := putNat s1.hw.retired c, retiredShown := BitVec.ofNat 11 (s1.hw.retired.length + 1), replaceFlag := true
      health := if s1.hw.health = .fatal then .fatal else .replace }
    ({ s1 with hw := hw }).healthEvent 0x09 (sourceWord c 0)

/-- The cells of a list whose retirement waits are retired: the context that kept them from it is saved, or cannot be, or is gone
(R413). Log 42 (DEDUCED). -/
def State.retirePending (s : State) (cells : List Nat) : State :=
  (s.hw.retiring.filter (fun c => cells.contains c)).foldl State.retireCell s

/-- The retirement of a cell begun: the resident context of its partition is saved first (R413). Log 42 (DEDUCED). -/
def State.beginRetire (s : State) (c : Nat) : State :=
  if s.hw.retired.contains c || s.hw.retiring.contains c then s
  else
    match (s.partOf c).bind s.residentIn with
    | none => s.retireCell c
    | some r =>
      let waits : Bool := s.ctl.launches.any (fun l => l.ctx == r.ctx) && !s.ctl.waiting.contains r.ctx
      let s1 : State :=
        { s with
          hw := { s.hw with retiring := putNat s.hw.retiring c }
          ctl := { s.ctl with waiting := if waits then s.ctl.waiting ++ [r.ctx] else s.ctl.waiting } }
      s1.addSwitch ⟨none, r.part, .firmware⟩

/-- An uncorrectable error that a cell reports, with the retirement that three in 24 hours or one in a control structure
bring about (R413). -/
def State.reportError (s : State) (c : Nat) (control : Bool) : State :=
  if c = ringmaster then s
  else
    let l := (c, s.sys.rtime, control) :: s.hw.uncorrected
    let s1 : State := { s with hw := { s.hw with uncorrected := l } }
    if control || decide (3 ≤ (l.filter (fun e => e.1 == c && decide (s.sys.rtime < e.2.1 + 24 * hour))).length) then s1.beginRetire c
    else s1

end Sys2Proof.Machine
end

