-- ==== Sys2Proof/Machine/Global.lean ====
section
/-! DEFINITION. The issue of global accesses, atomics and fences, majors 0x48 to 0x50 (R251 to R260). Each is a pending
effect; it is performed after the commit instant. -/

namespace Sys2Proof.Machine

/-- The request-table entry that an instruction's commit issues (R236, R250). -/
def opOf (s : State) (i : Inst) (c : Cur) (slot : Nat) (k : OpKind) (ps : List Part) : Op :=
  let f := s.frameOf i
  { id := 0, site := i.site, hidx := 0, key := i.key, epoch := f.epoch, lid := f.lid, slot := slot, thr := i.thr,
    dyn := i.dyn - 1, iaddr := c.addr, w0 := c.w0, w1 := c.w1, seq := 0, prog := 0, fences := [], kind := k, parts := ps,
    heldOp := none, item := none, dropped := false, fromHandler := f.handler.isSome }

/-- A split-phase effect. -/
def issue (s : State) (i : Inst) (c : Cur) (slot : SlotNo) (k : OpKind) (ps : List Part) : Except Trap Inst :=
  i.effect (.op (opOf s i c slot.toNat k ps))

/-- A scalar load (R252). -/
def loadOf (lc : Bool) (idx : BitVec 8) (a b : Reg) (slot : SlotNo) (t : LoadTy) : State → Out :=
  lift (fun s i c => do
    let k ← frameIndex (s.frameOf i) idx.toNat
    issue s i c slot (.load t lc k) (partsOf 0 (globalAddr (i.getS a + i.getS b)) t.bytes 0))

def execLd (idx : BitVec 8) (a b : Reg) (slot : SlotNo) (t : LoadTy) : State → Out := loadOf false idx a b slot t
def execLdLc (idx : BitVec 8) (a b : Reg) (slot : SlotNo) (t : LoadTy) : State → Out := loadOf true idx a b slot t

/-- `st` (R253). -/
def execSt (d a b : Reg) (slot : SlotNo) (e : Size) : State → Out :=
  lift (fun s i c => issue s i c slot (.store e) (partsOf 0 (globalAddr (i.getS a + i.getS b)) e.bytes (i.getS d)))

/-- The parts of the active elements of a vector access (R254, R255, R258). -/
def vectorParts (m : W64) (e : Size) (va : Nat → W64) (data : Nat → Nat) : List Part :=
  (upFrom 0 (elemCount (8 * e.bytes))).flatMap (fun k =>
    if active m k then partsOf k (globalAddr (va k)) e.bytes (BitVec.ofNat 64 (data k)) else [])

/-- Unit-stride element addresses (R254). -/
def unitAddr (i : Inst) (a b : Reg) (e : Size) (k : Nat) : W64 := i.getS a + i.getS b + BitVec.ofNat 64 (k * e.bytes)

/-- Strided element addresses (R254). -/
def strideAddr (i : Inst) (a b : Reg) (k : Nat) : W64 := i.getS a + BitVec.ofNat 64 k * i.getS b

/-- Indexed element addresses (R254): X(i) is signed. -/
def indexAddr (i : Inst) (a b : Reg) (e : Size) (k : Nat) : W64 :=
  i.getS a + BitVec.ofInt 64 (signedOf 32 (elemAt 32 (i.getV b) k) * e.bytes)

/-- A vector load into a vector word of the issuing frame (R254). -/
def vloadOf (addr : Inst → Nat → W64) (v : BitVec 3) (slot : SlotNo) (k : MReg) (e : Size) (z : Bool) : State → Out :=
  lift (fun s i c => do
    let j ← vectorIndex (s.frameOf i) v.toNat
    let m := i.getM k
    issue s i c slot (.vload j e m z) (vectorParts m e (addr i) (fun _ => 0)))

def execVld (v : BitVec 3) (a b : Reg) (slot : SlotNo) (k : MReg) (e : Size) (z : Bool) : State → Out :=
  vloadOf (fun i => unitAddr i a b e) v slot k e z
def execVldStr (v : BitVec 3) (a b : Reg) (slot : SlotNo) (k : MReg) (e : Size) (z : Bool) : State → Out :=
  vloadOf (fun i => strideAddr i a b) v slot k e z
def execVldIdx (v : BitVec 3) (a b : Reg) (slot : SlotNo) (k : MReg) (e : Size) (z : Bool) : State → Out :=
  vloadOf (fun i => indexAddr i a b e) v slot k e z

/-- A vector store (R255). -/
def vstoreOf (addr : Inst → Nat → W64) (d : Reg) (slot : SlotNo) (k : MReg) (e : Size) : State → Out :=
  lift (fun s i c =>
    issue s i c slot (.vstore e) (vectorParts (i.getM k) e (addr i) (elemAt (8 * e.bytes) (i.getV d))))

def execVst (d a b : Reg) (slot : SlotNo) (k : MReg) (e : Size) : State → Out :=
  vstoreOf (fun i => unitAddr i a b e) d slot k e
def execVstStr (d a b : Reg) (slot : SlotNo) (k : MReg) (e : Size) : State → Out :=
  vstoreOf (fun i => strideAddr i a b) d slot k e

/-- A prefetch (R257). -/
def prefetchOf (lc : Bool) (a b : Reg) : State → Out :=
  lift (fun s i c => issue s i c 0 (.prefetch lc) (partsOf 0 (globalAddr (i.getS a + i.getS b)) 1 0))

def execPf (a b : Reg) : State → Out := prefetchOf false a b
def execPfLc (a b : Reg) : State → Out := prefetchOf true a b

/-- An atomic (R259). A misaligned one is never translated (R100), so it has one part. -/
def gamo (f : AtomicFn) (idx : BitVec 8) (a b c : Reg) (slot : SlotNo) (w : Bool) (ord : Ord) (sc : Scope) : State → Out :=
  lift (fun s i u => do
    let k ← frameIndex (s.frameOf i) idx.toNat
    let va := globalAddr (i.getS a)
    issue s i u slot (.atomic f w ord sc k (i.getS b) (i.getS c))
      [{ elem := 0, half := 0, off := 0, len := if w then 8 else 4, va := va, data := 0, st := .issued }])

def execGamoAdd (idx : BitVec 8) (a b : Reg) (slot : SlotNo) (w : Bool) (ord : Ord) (sc : Scope) : State → Out :=
  gamo .add idx a b 0 slot w ord sc
def execGamoAnd (idx : BitVec 8) (a b : Reg) (slot : SlotNo) (w : Bool) (ord : Ord) (sc : Scope) : State → Out :=
  gamo .and idx a b 0 slot w ord sc
def execGamoOr (idx : BitVec 8) (a b : Reg) (slot : SlotNo) (w : Bool) (ord : Ord) (sc : Scope) : State → Out :=
  gamo .or idx a b 0 slot w ord sc
def execGamoXor (idx : BitVec 8) (a b : Reg) (slot : SlotNo) (w : Bool) (ord : Ord) (sc : Scope) : State → Out :=
  gamo .xor idx a b 0 slot w ord sc
def execGamoMinSigned (idx : BitVec 8) (a b : Reg) (slot : SlotNo) (w : Bool) (ord : Ord) (sc : Scope) : State → Out :=
  gamo .minS idx a b 0 slot w ord sc
def execGamoMaxSigned (idx : BitVec 8) (a b : Reg) (slot : SlotNo) (w : Bool) (ord : Ord) (sc : Scope) : State → Out :=
  gamo .maxS idx a b 0 slot w ord sc
def execGamoMinUnsigned (idx : BitVec 8) (a b : Reg) (slot : SlotNo) (w : Bool) (ord : Ord) (sc : Scope) : State → Out :=
  gamo .minU idx a b 0 slot w ord sc
def execGamoMaxUnsigned (idx : BitVec 8) (a b : Reg) (slot : SlotNo) (w : Bool) (ord : Ord) (sc : Scope) : State → Out :=
  gamo .maxU idx a b 0 slot w ord sc
def execGamoSwap (idx : BitVec 8) (a b : Reg) (slot : SlotNo) (w : Bool) (ord : Ord) (sc : Scope) : State → Out :=
  gamo .swap idx a b 0 slot w ord sc
def execGamoCas (idx : BitVec 8) (a b c : Reg) (slot : SlotNo) (w : Bool) (ord : Ord) (sc : Scope) : State → Out :=
  gamo .cas idx a b c slot w ord sc
def execGamoFadd (idx : BitVec 8) (a b : Reg) (slot : SlotNo) (w : Bool) (ord : Ord) (sc : Scope) : State → Out :=
  gamo .fadd idx a b 0 slot w ord sc

/-- `fence` (R260). -/
def execFence (sc : Scope) : State → Out := lift (fun _ i _ => i.effect (.fence sc))

end Sys2Proof.Machine
end

