-- ==== Sys2Proof/Machine/ScalarInt.lean ====
section
/-! DEFINITION. Scalar integer instructions, majors 0x01 to 0x07 (R141 to R148). -/

namespace Sys2Proof.Machine

/-! ### Shared operations -/

/-- d := f(a, b) on two registers. -/
def intBinary (f : W64 → W64 → W64) (d a b : Reg) : State → Out :=
  liftPure (fun i => i.setS d (f (i.getS a) (i.getS b)))

/-- d := f(a). -/
def intUnary (f : W64 → W64) (d a : Reg) : State → Out := liftPure (fun i => i.setS d (f (i.getS a)))

/-- d := f(a, imm), with the immediate sign-extended (R146). -/
def intImm (f : W64 → W64 → W64) (d a : Reg) (m : BitVec 27) : State → Out :=
  liftPure (fun i => i.setS d (f (i.getS a) (m.signExtend 64)))

/-- A truth value as a register holds it (R145). -/
def boolWord (b : Bool) : W64 := if b then 1 else 0

/-- The shift amount b[5:0] (R142). -/
def amount (b : W64) : Nat := b.toNat % 64

/-- (Signed(a) × Signed(b)) div 2^64 (R142). -/
def mulHighSigned (a b : W64) : W64 := BitVec.ofInt 64 (a.toInt * b.toInt / 2 ^ 64)

/-- (a × b) div 2^64 (R142). -/
def mulHighUnsigned (a b : W64) : W64 := BitVec.ofNat 64 (a.toNat * b.toNat / 2 ^ 64)

/-- DivRem of R143. -/
def divRem (x y : Int) : Int × Int := if y = 0 then (-1, x) else (x.tdiv y, x - x.tdiv y * y)

/-- The leading zeros of a number within `e` bits (R142, R175). -/
def leadingZeros (e a : Nat) : Nat := if a = 0 then e else e - 1 - a.log2

/-- The trailing zeros of a number within `fuel` bits (R142). -/
def trailingZeros (fuel a : Nat) : Nat :=
  match fuel with
  | 0 => 0
  | n + 1 => if a % 2 = 1 then 0 else 1 + trailingZeros n (a / 2)

/-- The one bits of a number, of its low `fuel` bits (R142, R175). -/
def popCount (fuel a : Nat) : Nat :=
  match fuel with
  | 0 => 0
  | n + 1 => a % 2 + popCount n (a / 2)

/-- CarrylessProduct of R144, on factors of `n` bits. -/
def carryless (n a b : Nat) : Nat :=
  match n with
  | 0 => 0
  | k + 1 => (if b % 2 = 1 then a else 0) ^^^ carryless k (2 * a) (b / 2)

/-- BitGather of R144, on `n` bits. -/
def bitGather (n a m : Nat) : Nat :=
  match n with
  | 0 => 0
  | k + 1 => if m % 2 = 1 then a % 2 + 2 * bitGather k (a / 2) (m / 2) else bitGather k (a / 2) (m / 2)

/-- BitScatter of R144, on `n` bits. -/
def bitScatter (n a m : Nat) : Nat :=
  match n with
  | 0 => 0
  | k + 1 => if m % 2 = 1 then a % 2 + 2 * bitScatter k (a / 2) (m / 2) else 2 * bitScatter k a (m / 2)

/-- The smaller or larger of two registers by signed order (R142). -/
def signedMin (a b : W64) : W64 := if b.slt a then b else a
def signedMax (a b : W64) : W64 := if a.slt b then b else a
/-- The smaller or larger of two registers by unsigned order (R142). -/
def unsignedMin (a b : W64) : W64 := if b.ult a then b else a
def unsignedMax (a b : W64) : W64 := if a.ult b then b else a

/-- Byte k of the result is byte 7 − k of the operand (R145). -/
def byteSwap (a : W64) : W64 :=
  BitVec.ofNat 64 ((upFrom 0 8).foldr (fun k acc => a.toNat / 256 ^ (7 - k) % 256 + 256 * acc) 0)

/-! ### Major 0x01 (R142 to R144) -/

def execAdd (d a b : Reg) : State → Out := intBinary (· + ·) d a b
def execSub (d a b : Reg) : State → Out := intBinary (· - ·) d a b
def execMul (d a b : Reg) : State → Out := intBinary (· * ·) d a b
def execMulhI64 (d a b : Reg) : State → Out := intBinary mulHighSigned d a b
def execMulhN64 (d a b : Reg) : State → Out := intBinary mulHighUnsigned d a b
def execDivI64 (d a b : Reg) : State → Out :=
  intBinary (fun x y => BitVec.ofInt 64 (divRem x.toInt y.toInt).1) d a b
def execDivN64 (d a b : Reg) : State → Out :=
  intBinary (fun x y => BitVec.ofInt 64 (divRem x.toNat y.toNat).1) d a b
def execRemI64 (d a b : Reg) : State → Out :=
  intBinary (fun x y => BitVec.ofInt 64 (divRem x.toInt y.toInt).2) d a b
def execRemN64 (d a b : Reg) : State → Out :=
  intBinary (fun x y => BitVec.ofInt 64 (divRem x.toNat y.toNat).2) d a b
def execAnd (d a b : Reg) : State → Out := intBinary (· &&& ·) d a b
def execOr (d a b : Reg) : State → Out := intBinary (· ||| ·) d a b
def execXor (d a b : Reg) : State → Out := intBinary (· ^^^ ·) d a b
def execAndn (d a b : Reg) : State → Out := intBinary (fun x y => x &&& ~~~y) d a b
def execShl (d a b : Reg) : State → Out := intBinary (fun x y => x <<< amount y) d a b
def execShr (d a b : Reg) : State → Out := intBinary (fun x y => x >>> amount y) d a b
def execSra (d a b : Reg) : State → Out := intBinary (fun x y => x.sshiftRight (amount y)) d a b
def execRol (d a b : Reg) : State → Out := intBinary (fun x y => x.rotateLeft (amount y)) d a b
def execRor (d a b : Reg) : State → Out := intBinary (fun x y => x.rotateRight (amount y)) d a b
def execClz (d a : Reg) : State → Out := intUnary (fun x => BitVec.ofNat 64 (leadingZeros 64 x.toNat)) d a
def execCtz (d a : Reg) : State → Out := intUnary (fun x => BitVec.ofNat 64 (trailingZeros 64 x.toNat)) d a
def execPopc (d a : Reg) : State → Out := intUnary (fun x => BitVec.ofNat 64 (popCount 64 x.toNat)) d a
def execMinI64 (d a b : Reg) : State → Out := intBinary signedMin d a b
def execMaxI64 (d a b : Reg) : State → Out := intBinary signedMax d a b
def execMinN64 (d a b : Reg) : State → Out := intBinary unsignedMin d a b
def execMaxN64 (d a b : Reg) : State → Out := intBinary unsignedMax d a b
def execSel (d a b c : Reg) : State → Out :=
  liftPure (fun i => i.setS d (if i.getS c ≠ 0 then i.getS a else i.getS b))
def execClmul (d a b : Reg) : State → Out :=
  intBinary (fun x y => BitVec.ofNat 64 (carryless 64 x.toNat y.toNat)) d a b
def execClmulh (d a b : Reg) : State → Out :=
  intBinary (fun x y => BitVec.ofNat 64 (carryless 64 x.toNat y.toNat / 2 ^ 64)) d a b
def execBgat (d a b : Reg) : State → Out :=
  intBinary (fun x y => BitVec.ofNat 64 (bitGather 64 x.toNat y.toNat)) d a b
def execBsct (d a b : Reg) : State → Out :=
  intBinary (fun x y => BitVec.ofNat 64 (bitScatter 64 x.toNat y.toNat)) d a b
def execMadd (d a b c : Reg) : State → Out :=
  liftPure (fun i => i.setS d (i.getS a * i.getS b + i.getS c))
def execMsub (d a b c : Reg) : State → Out :=
  liftPure (fun i => i.setS d (i.getS c - i.getS a * i.getS b))

/-! ### Major 0x02 (R145) -/

def execSltI64 (d a b : Reg) : State → Out := intBinary (fun x y => boolWord (x.slt y)) d a b
def execSltN64 (d a b : Reg) : State → Out := intBinary (fun x y => boolWord (x.ult y)) d a b
def execSeq (d a b : Reg) : State → Out := intBinary (fun x y => boolWord (x == y)) d a b
def execSne (d a b : Reg) : State → Out := intBinary (fun x y => boolWord (x != y)) d a b
def execExtdI8 (d a : Reg) : State → Out := intUnary (fun x => (x.setWidth 8).signExtend 64) d a
def execExtdI16 (d a : Reg) : State → Out := intUnary (fun x => (x.setWidth 16).signExtend 64) d a
def execExtdI32 (d a : Reg) : State → Out := intUnary (fun x => (x.setWidth 32).signExtend 64) d a
def execExtdN8 (d a : Reg) : State → Out := intUnary (fun x => (x.setWidth 8).setWidth 64) d a
def execExtdN16 (d a : Reg) : State → Out := intUnary (fun x => (x.setWidth 16).setWidth 64) d a
def execExtdN32 (d a : Reg) : State → Out := intUnary (fun x => (x.setWidth 32).setWidth 64) d a
def execBswap (d a : Reg) : State → Out := intUnary byteSwap d a

/-! ### Majors 0x03 and 0x04 (R146) -/

def execAddImm (d a : Reg) (i : BitVec 27) : State → Out := intImm (· + ·) d a i
def execAndImm (d a : Reg) (i : BitVec 27) : State → Out := intImm (· &&& ·) d a i
def execOrImm (d a : Reg) (i : BitVec 27) : State → Out := intImm (· ||| ·) d a i
def execXorImm (d a : Reg) (i : BitVec 27) : State → Out := intImm (· ^^^ ·) d a i
def execShlImm (d a : Reg) (i : BitVec 27) : State → Out := intImm (fun x y => x <<< amount y) d a i
def execShrImm (d a : Reg) (i : BitVec 27) : State → Out := intImm (fun x y => x >>> amount y) d a i
def execSraImm (d a : Reg) (i : BitVec 27) : State → Out := intImm (fun x y => x.sshiftRight (amount y)) d a i
def execRorImm (d a : Reg) (i : BitVec 27) : State → Out := intImm (fun x y => x.rotateRight (amount y)) d a i
def execSltI64Imm (d a : Reg) (i : BitVec 27) : State → Out := intImm (fun x y => boolWord (x.slt y)) d a i
def execSltN64Imm (d a : Reg) (i : BitVec 27) : State → Out := intImm (fun x y => boolWord (x.ult y)) d a i
def execSeqImm (d a : Reg) (i : BitVec 27) : State → Out := intImm (fun x y => boolWord (x == y)) d a i
def execSneImm (d a : Reg) (i : BitVec 27) : State → Out := intImm (fun x y => boolWord (x != y)) d a i
def execMulImm (d a : Reg) (i : BitVec 27) : State → Out := intImm (· * ·) d a i
def execMinI64Imm (d a : Reg) (i : BitVec 27) : State → Out := intImm signedMin d a i
def execMaxI64Imm (d a : Reg) (i : BitVec 27) : State → Out := intImm signedMax d a i

/-! ### Majors 0x05 to 0x07 (R147, R148) -/

/-- `movi` writes the sign-extended immediate (R147). -/
def execMovi (d : Reg) (m : BitVec 35) : State → Out := liftPure (fun i => i.setS d (m.signExtend 64))

/-- `movh` replaces bits [63:35] by imm[28:0] (R147). -/
def execMovh (d : Reg) (m : BitVec 35) : State → Out :=
  liftPure (fun i => i.setS d (m.setWidth 29 ++ (i.getS d).setWidth 35))

/-- The value of a special register (R13, R14, R24, R118). -/
def specialValue (s : State) (i : Inst) (x : Special) : W64 :=
  match x with
  | .tag => i.key.tag.setWidth 64
  | .ctx => BitVec.ofNat 64 i.key.ctx
  | .cb => BitVec.ofNat 64 i.key.cb
  | .cell => cellWord i.site
  | .frame => frameRef i.site i.key (s.frameOf i).epoch
  | .cyc => (keyed s.cyc i.site).getD 0

def execRds (d : Reg) (x : Special) : State → Out :=
  lift (fun s i _ => .ok (i.setS d (specialValue s i x)))

end Sys2Proof.Machine
end

