-- ==== Sys2Proof/Machine/VectorInt.lean ====
section
/-! DEFINITION. Vector integer arithmetic, majors 0x18 to 0x1B (R173 to R175). -/

namespace Sys2Proof.Machine

/-- The elements of a vector operand. -/
def vectorSrc (e : Nat) (r : Reg) (i : Inst) (k : Nat) : Nat := elemAt e (i.getV r) k

/-- The low bits of a scalar operand, for every element (R171). -/
def scalarSrc (e : Nat) (r : Reg) (i : Inst) (_k : Nat) : Nat := (i.getS r).toNat % 2 ^ e

/-- d := f(element) under a mask, without flags (R170). -/
def vectorOp (e : Nat) (f : Inst → Nat → Nat) (d : Reg) (k : MReg) (z : Bool) : State → Out :=
  liftPure (fun i => i.setV d (masked z (i.getM k) e (i.getV d) (f i)))

/-- An integer operation on two vectors (R173). -/
def vectorInt (t : IntTy) (f : Int → Int → Int) (d a b : Reg) (k : MReg) (z : Bool) : State → Out :=
  vectorOp t.width (fun i j => wrapOf t.width
    (f (valueOf t (vectorSrc t.width a i j)) (valueOf t (vectorSrc t.width b i j)))) d k z

/-- An integer operation on a vector and a scalar (R171, R173). -/
def vectorIntScalar (t : IntTy) (f : Int → Int → Int) (d a b : Reg) (k : MReg) (z : Bool) : State → Out :=
  vectorOp t.width (fun i j => wrapOf t.width
    (f (valueOf t (vectorSrc t.width a i j)) (valueOf t (scalarSrc t.width b i j)))) d k z

/-- An operation on the bits of two vectors (R174). -/
def vectorBits (t : IntTy) (f : Nat → Nat → Nat) (d a b : Reg) (k : MReg) (z : Bool) : State → Out :=
  vectorOp t.width (fun i j => f (vectorSrc t.width a i j) (vectorSrc t.width b i j)) d k z

/-- An operation on the bits of one vector (R175). -/
def vectorUnary (t : IntTy) (f : Nat → Nat) (d a : Reg) (k : MReg) (z : Bool) : State → Out :=
  vectorOp t.width (fun i j => f (vectorSrc t.width a i j)) d k z

/-- The product div 2^e (R173). -/
def highPart (t : IntTy) (x y : Int) : Int := x * y / (2 ^ t.width : Nat)

/-- A value clamped to a type's range (R173). -/
def clampTo (t : IntTy) (x : Int) : Int := max (intRange t.signed t.width).1 (min (intRange t.signed t.width).2 x)

/-- A rotation to the left by s within e bits (R174). -/
def rotateBits (e x s : Nat) : Nat := x * 2 ^ (s % e) % 2 ^ e + x / 2 ^ (e - s % e)

/-! ### Majors 0x18 and 0x1B (R173) -/

def execVadd (d a b : Reg) (k : MReg) (t : IntTy) (z : Bool) : State → Out :=
  vectorInt t (· + ·) d a b k z
def execVsub (d a b : Reg) (k : MReg) (t : IntTy) (z : Bool) : State → Out :=
  vectorInt t (· - ·) d a b k z
def execVmul (d a b : Reg) (k : MReg) (t : IntTy) (z : Bool) : State → Out :=
  vectorInt t (· * ·) d a b k z
def execVmulh (d a b : Reg) (k : MReg) (t : IntTy) (z : Bool) : State → Out :=
  vectorInt t (highPart t) d a b k z
def execVmin (d a b : Reg) (k : MReg) (t : IntTy) (z : Bool) : State → Out :=
  vectorInt t min d a b k z
def execVmax (d a b : Reg) (k : MReg) (t : IntTy) (z : Bool) : State → Out :=
  vectorInt t max d a b k z
def execVadds (d a b : Reg) (k : MReg) (t : IntTy) (z : Bool) : State → Out :=
  vectorInt t (fun x y => clampTo t (x + y)) d a b k z
def execVsubs (d a b : Reg) (k : MReg) (t : IntTy) (z : Bool) : State → Out :=
  vectorInt t (fun x y => clampTo t (x - y)) d a b k z
def execVaddScalar (d a b : Reg) (k : MReg) (t : IntTy) (z : Bool) : State → Out :=
  vectorIntScalar t (· + ·) d a b k z
def execVsubScalar (d a b : Reg) (k : MReg) (t : IntTy) (z : Bool) : State → Out :=
  vectorIntScalar t (· - ·) d a b k z
def execVmulScalar (d a b : Reg) (k : MReg) (t : IntTy) (z : Bool) : State → Out :=
  vectorIntScalar t (· * ·) d a b k z
def execVmulhScalar (d a b : Reg) (k : MReg) (t : IntTy) (z : Bool) : State → Out :=
  vectorIntScalar t (highPart t) d a b k z
def execVminScalar (d a b : Reg) (k : MReg) (t : IntTy) (z : Bool) : State → Out :=
  vectorIntScalar t min d a b k z
def execVmaxScalar (d a b : Reg) (k : MReg) (t : IntTy) (z : Bool) : State → Out :=
  vectorIntScalar t max d a b k z
def execVaddsScalar (d a b : Reg) (k : MReg) (t : IntTy) (z : Bool) : State → Out :=
  vectorIntScalar t (fun x y => clampTo t (x + y)) d a b k z
def execVsubsScalar (d a b : Reg) (k : MReg) (t : IntTy) (z : Bool) : State → Out :=
  vectorIntScalar t (fun x y => clampTo t (x - y)) d a b k z

/-! ### Major 0x19 (R174): the shift amount is b mod e -/

def execVand (d a b : Reg) (k : MReg) (t : IntTy) (z : Bool) : State → Out :=
  vectorBits t (· &&& ·) d a b k z
def execVor (d a b : Reg) (k : MReg) (t : IntTy) (z : Bool) : State → Out :=
  vectorBits t (· ||| ·) d a b k z
def execVxor (d a b : Reg) (k : MReg) (t : IntTy) (z : Bool) : State → Out :=
  vectorBits t (· ^^^ ·) d a b k z
def execVandn (d a b : Reg) (k : MReg) (t : IntTy) (z : Bool) : State → Out :=
  vectorBits t (fun x y => x &&& (2 ^ t.width - 1 - y)) d a b k z
def execVshl (d a b : Reg) (k : MReg) (t : IntTy) (z : Bool) : State → Out :=
  vectorBits t (fun x y => x * 2 ^ (y % t.width)) d a b k z
def execVshr (d a b : Reg) (k : MReg) (t : IntTy) (z : Bool) : State → Out :=
  vectorBits t (fun x y => x / 2 ^ (y % t.width)) d a b k z
def execVsra (d a b : Reg) (k : MReg) (t : IntTy) (z : Bool) : State → Out :=
  vectorBits t (fun x y => wrapOf t.width (signedOf t.width x / (2 ^ (y % t.width) : Nat))) d a b k z
def execVrol (d a b : Reg) (k : MReg) (t : IntTy) (z : Bool) : State → Out :=
  vectorBits t (rotateBits t.width) d a b k z

/-! ### Major 0x1A (R175) -/

def execVabs (d a : Reg) (k : MReg) (t : IntTy) (z : Bool) : State → Out :=
  vectorUnary t (fun x => wrapOf t.width ((valueOf t x).natAbs : Int)) d a k z
def execVneg (d a : Reg) (k : MReg) (t : IntTy) (z : Bool) : State → Out :=
  vectorUnary t (fun x => wrapOf t.width (-(x : Int))) d a k z
def execVclz (d a : Reg) (k : MReg) (t : IntTy) (z : Bool) : State → Out :=
  vectorUnary t (leadingZeros t.width) d a k z
def execVpopc (d a : Reg) (k : MReg) (t : IntTy) (z : Bool) : State → Out :=
  vectorUnary t (popCount t.width) d a k z
def execVmadd (d a b c : Reg) (k : MReg) (t : IntTy) (z : Bool) : State → Out :=
  vectorOp t.width (fun i j =>
    vectorSrc t.width a i j * vectorSrc t.width b i j + vectorSrc t.width c i j) d k z

/-- `vsel` writes every element; the mask chooses the source (R175). -/
def execVsel (d a b : Reg) (k : MReg) (t : IntTy) : State → Out :=
  vectorOp t.width (fun i j =>
    if active (i.getM k) j then vectorSrc t.width a i j else vectorSrc t.width b i j) d 0 false

def execVclmul (d a b : Reg) (t : IntTy) (z : Bool) : State → Out :=
  vectorBits t (carryless t.width) d a b 0 z
def execVclmulh (d a b : Reg) (t : IntTy) (z : Bool) : State → Out :=
  vectorBits t (fun x y => carryless t.width x y / 2 ^ t.width) d a b 0 z

end Sys2Proof.Machine
end

