-- ==== Sys2Proof/Machine/VectorFloat.lean ====
section
/-! DEFINITION. Vector floating arithmetic and compares, majors 0x1C to 0x1E, 0x20 and 0x21 (R176 to R178). -/

namespace Sys2Proof.Machine

/-- d := f(element) under a mask, with the flags of the active elements (R170, R172). -/
def vectorFlagged (e : Nat) (f : Inst → Nat → Flagged) (d : Reg) (k : MReg) (z : Bool) : State → Out :=
  liftPure (fun i =>
    (i.setV d (masked z (i.getM k) e (i.getV d) (fun j => (f i j).1))).raise
      (flagsOf (i.getM k) (elemCount e) (fun j => (f i j).2)))

/-- A floating operation on two vectors (R176). -/
def vectorFloat (t : FloatTy) (f : Nat → Nat → Flagged) (d a b : Reg) (k : MReg) (z : Bool) : State → Out :=
  vectorFlagged t.fmt.width (fun i j => f (vectorSrc t.fmt.width a i j) (vectorSrc t.fmt.width b i j)) d k z

/-- A floating operation on a vector and a scalar (R171, R176). -/
def vectorFloatScalar (t : FloatTy) (f : Nat → Nat → Flagged) (d a b : Reg) (k : MReg) (z : Bool) : State → Out :=
  vectorFlagged t.fmt.width (fun i j => f (vectorSrc t.fmt.width a i j) (scalarSrc t.fmt.width b i j)) d k z

/-- A fused operation on three vectors (R176). -/
def vectorFused (t : FloatTy) (f : Nat → Nat → Nat → Flagged) (d a b c : Reg) (k : MReg) (z : Bool) : State → Out :=
  vectorFlagged t.fmt.width (fun i j =>
    f (vectorSrc t.fmt.width a i j) (vectorSrc t.fmt.width b i j) (vectorSrc t.fmt.width c i j)) d k z

/-- A fused operation with a scalar factor (R171, R176). -/
def vectorFusedScalar (t : FloatTy) (f : Nat → Nat → Nat → Flagged) (d a b c : Reg) (k : MReg) (z : Bool) :
    State → Out :=
  vectorFlagged t.fmt.width (fun i j =>
    f (vectorSrc t.fmt.width a i j) (scalarSrc t.fmt.width b i j) (vectorSrc t.fmt.width c i j)) d k z

/-- A floating operation on one vector (R177). -/
def vectorFloatUnary (t : FloatTy) (f : Nat → Flagged) (d a : Reg) (k : MReg) (z : Bool) : State → Out :=
  vectorFlagged t.fmt.width (fun i j => f (vectorSrc t.fmt.width a i j)) d k z

/-! ### Majors 0x1C and 0x1D (R176) -/

def execVfadd (d a b : Reg) (k : MReg) (t : FloatTy) (r : Round) (z : Bool) : State → Out :=
  vectorFloat t (floatAdd t.fmt r) d a b k z
def execVfsub (d a b : Reg) (k : MReg) (t : FloatTy) (r : Round) (z : Bool) : State → Out :=
  vectorFloat t (floatSub t.fmt r) d a b k z
def execVfmul (d a b : Reg) (k : MReg) (t : FloatTy) (r : Round) (z : Bool) : State → Out :=
  vectorFloat t (floatMul t.fmt r) d a b k z
def execVfdiv (d a b : Reg) (k : MReg) (t : FloatTy) (r : Round) (z : Bool) : State → Out :=
  vectorFloat t (floatDiv t.fmt r) d a b k z
def execVfma (d a b c : Reg) (k : MReg) (t : FloatTy) (r : Round) (z : Bool) : State → Out :=
  vectorFused t (floatFma t.fmt r) d a b c k z
def execVfnma (d a b c : Reg) (k : MReg) (t : FloatTy) (r : Round) (z : Bool) : State → Out :=
  vectorFused t (floatFnma t.fmt r) d a b c k z
def execVfmin (d a b : Reg) (k : MReg) (t : FloatTy) (z : Bool) : State → Out :=
  vectorFloat t (floatMinMax t.fmt false) d a b k z
def execVfmax (d a b : Reg) (k : MReg) (t : FloatTy) (z : Bool) : State → Out :=
  vectorFloat t (floatMinMax t.fmt true) d a b k z
def execVfaddScalar (d a b : Reg) (k : MReg) (t : FloatTy) (r : Round) (z : Bool) : State → Out :=
  vectorFloatScalar t (floatAdd t.fmt r) d a b k z
def execVfsubScalar (d a b : Reg) (k : MReg) (t : FloatTy) (r : Round) (z : Bool) : State → Out :=
  vectorFloatScalar t (floatSub t.fmt r) d a b k z
def execVfmulScalar (d a b : Reg) (k : MReg) (t : FloatTy) (r : Round) (z : Bool) : State → Out :=
  vectorFloatScalar t (floatMul t.fmt r) d a b k z
def execVfdivScalar (d a b : Reg) (k : MReg) (t : FloatTy) (r : Round) (z : Bool) : State → Out :=
  vectorFloatScalar t (floatDiv t.fmt r) d a b k z
def execVfmaScalar (d a b c : Reg) (k : MReg) (t : FloatTy) (r : Round) (z : Bool) : State → Out :=
  vectorFusedScalar t (floatFma t.fmt r) d a b c k z
def execVfnmaScalar (d a b c : Reg) (k : MReg) (t : FloatTy) (r : Round) (z : Bool) : State → Out :=
  vectorFusedScalar t (floatFnma t.fmt r) d a b c k z
def execVfminScalar (d a b : Reg) (k : MReg) (t : FloatTy) (z : Bool) : State → Out :=
  vectorFloatScalar t (floatMinMax t.fmt false) d a b k z
def execVfmaxScalar (d a b : Reg) (k : MReg) (t : FloatTy) (z : Bool) : State → Out :=
  vectorFloatScalar t (floatMinMax t.fmt true) d a b k z

/-! ### Major 0x1E (R177) -/

def execVfsqrt (d a : Reg) (k : MReg) (t : FloatTy) (r : Round) (z : Bool) : State → Out :=
  vectorFloatUnary t (floatSqrt t.fmt r) d a k z
def execVfabs (d a : Reg) (k : MReg) (t : FloatTy) (z : Bool) : State → Out :=
  vectorFloatUnary t (fun x => (floatAbsBits t.fmt x, 0)) d a k z
def execVfneg (d a : Reg) (k : MReg) (t : FloatTy) (z : Bool) : State → Out :=
  vectorFloatUnary t (fun x => (floatNegBits t.fmt x, 0)) d a k z
def execVfsgn (d a b : Reg) (k : MReg) (t : FloatTy) (z : Bool) : State → Out :=
  vectorFloat t (fun x y => (floatSignBits t.fmt x y, 0)) d a b k z
def execVfrnd (d a : Reg) (k : MReg) (t : FloatTy) (r : Round) (z : Bool) : State → Out :=
  vectorFloatUnary t (floatToIntegral t.fmt r) d a k z
def execVfcls (d a : Reg) (k : MReg) (t : FloatTy) (z : Bool) : State → Out :=
  vectorFloatUnary t (fun x => (floatClass t.fmt x, 0)) d a k z

/-! ### Majors 0x20 and 0x21 (R178) -/

/-- A compare of two elements of a type, with its flags (R178). -/
def compareElems (t : ElemTy) (p : Rel) (x y : Nat) : Bool × BitVec 5 :=
  match t with
  | .int u => (p.holds ((valueOf u x - valueOf u y).sign), 0)
  | .flt f => floatCompare f.fmt p x y

/-- The mask that a compare writes: inactive bits kept or cleared, bits beyond the elements zero (R178). -/
def maskOf (n : Nat) (m old : W64) (z : Bool) (f : Nat → Bool) : W64 :=
  BitVec.ofNat 64 ((upFrom 0 n).foldr (fun i acc =>
    (if active m i then f i else if z then false else active old i).toNat + 2 * acc) 0)

/-- A compare into a mask register. -/
def vectorCompare (t : ElemTy) (p : Rel) (src : Nat → Inst → Nat → Nat) (d : MReg) (a : Reg) (k : MReg) (z : Bool) :
    State → Out :=
  liftPure (fun i =>
    let e := t.width
    let m := i.getM k
    let r (j : Nat) : Bool × BitVec 5 := compareElems t p (vectorSrc e a i j) (src e i j)
    (i.setM d (maskOf (elemCount e) m (i.getM d) z (fun j => (r j).1))).raise
      (flagsOf m (elemCount e) (fun j => (r j).2)))

def execVceq (d : MReg) (a b : Reg) (k : MReg) (t : ElemTy) (z : Bool) : State → Out :=
  vectorCompare t .eq (fun e => vectorSrc e b) d a k z
def execVcne (d : MReg) (a b : Reg) (k : MReg) (t : ElemTy) (z : Bool) : State → Out :=
  vectorCompare t .ne (fun e => vectorSrc e b) d a k z
def execVclt (d : MReg) (a b : Reg) (k : MReg) (t : ElemTy) (z : Bool) : State → Out :=
  vectorCompare t .lt (fun e => vectorSrc e b) d a k z
def execVcle (d : MReg) (a b : Reg) (k : MReg) (t : ElemTy) (z : Bool) : State → Out :=
  vectorCompare t .le (fun e => vectorSrc e b) d a k z
def execVcgt (d : MReg) (a b : Reg) (k : MReg) (t : ElemTy) (z : Bool) : State → Out :=
  vectorCompare t .gt (fun e => vectorSrc e b) d a k z
def execVcge (d : MReg) (a b : Reg) (k : MReg) (t : ElemTy) (z : Bool) : State → Out :=
  vectorCompare t .ge (fun e => vectorSrc e b) d a k z
def execVceqScalar (d : MReg) (a b : Reg) (k : MReg) (t : ElemTy) (z : Bool) : State → Out :=
  vectorCompare t .eq (fun e => scalarSrc e b) d a k z
def execVcneScalar (d : MReg) (a b : Reg) (k : MReg) (t : ElemTy) (z : Bool) : State → Out :=
  vectorCompare t .ne (fun e => scalarSrc e b) d a k z
def execVcltScalar (d : MReg) (a b : Reg) (k : MReg) (t : ElemTy) (z : Bool) : State → Out :=
  vectorCompare t .lt (fun e => scalarSrc e b) d a k z
def execVcleScalar (d : MReg) (a b : Reg) (k : MReg) (t : ElemTy) (z : Bool) : State → Out :=
  vectorCompare t .le (fun e => scalarSrc e b) d a k z
def execVcgtScalar (d : MReg) (a b : Reg) (k : MReg) (t : ElemTy) (z : Bool) : State → Out :=
  vectorCompare t .gt (fun e => scalarSrc e b) d a k z
def execVcgeScalar (d : MReg) (a b : Reg) (k : MReg) (t : ElemTy) (z : Bool) : State → Out :=
  vectorCompare t .ge (fun e => scalarSrc e b) d a k z

end Sys2Proof.Machine
end

