-- ==== Sys2Proof/Machine/VectorConvert.lean ====
section
/-! DEFINITION. Vector conversions and block quantisation, major 0x1F (R179 to R185), and the formats of blocks
(R56 to R59). -/

namespace Sys2Proof.Machine

/-! ### Element conversions (R179) -/

/-- One element from a type to another (R65 to R67). -/
def convertElem (src dst : ElemTy) (r : Round) (sat : Bool) (x : Nat) : Flagged :=
  match src, dst with
  | .int a, .int b => (wrapOf b.width (intToInt b.signed b.width sat (valueOf a x)), 0)
  | .int a, .flt b => intToFloat b.fmt r sat (valueOf a x)
  | .flt a, .int b =>
    let z := floatToInt a.fmt b.signed b.width r x
    (wrapOf b.width z.1, z.2)
  | .flt a, .flt b => convertFloat a.fmt b.fmt r sat x

/-- A conversion of `es`-bit elements to `ed`-bit elements: the smaller count converts, and lanes of the destination
beyond it are zero whatever the mask (R179). -/
def vectorConvert (es ed : Nat) (f : Nat → Flagged) (d a : Reg) (k : MReg) (z : Bool) : State → Out :=
  liftPure (fun i =>
    let n := min (elemCount es) (elemCount ed)
    let m := i.getM k
    let r (j : Nat) : Flagged := f (elemAt es (i.getV a) j)
    let v := masked z m ed (i.getV d) (fun j => (r j).1)
    (i.setV d (ofLanes ed ((lanes ed v).take n))).raise (flagsOf m n (fun j => (r j).2)))

/-- `vcvt` from type `x` to type `t`. -/
def execVcvt (d a : Reg) (x : ElemTy) (k : MReg) (t : ElemTy) (r : Round) (sat z : Bool) : State → Out :=
  vectorConvert x.width t.width (convertElem x t r sat) d a k z

/-- `vcvtn` from floating type `t` to format `x`. -/
def execVcvtn (d a : Reg) (x : NarrowFmt) (k : MReg) (t : FloatTy) (r : Round) (sat z : Bool) : State → Out :=
  vectorConvert t.fmt.width x.fmt.width (convertFloat t.fmt x.fmt r sat) d a k z

/-- `vcvtw` from format `x` to floating type `t`: exact. -/
def execVcvtw (d a : Reg) (x : NarrowFmt) (k : MReg) (t : FloatTy) (z : Bool) : State → Out :=
  vectorConvert x.fmt.width t.fmt.width (convertFloat x.fmt t.fmt .rne false) d a k z

/-! ### Blocks (R56 to R59, R180 to R185) -/

/-- Elements of w bits packed without gaps, lowest first (R56). -/
def packBits (w : Nat) (l : List Nat) : Nat := l.foldr (fun x acc => x % 2 ^ w + 2 ^ w * acc) 0

/-- Element k of a packed number (R56). -/
def packedAt (w v k : Nat) : Nat := v / 2 ^ (w * k) % 2 ^ w

/-- EMax of R182. -/
def NarrowFmt.emax : NarrowFmt → Int
  | .e4m3 => 8 | .e5m2 => 15 | .e2m3 => 2 | .e3m2 => 4 | .e2m1 => 2

/-- The greater of two exact numbers. -/
def Exact.max (x y : Exact) : Exact := if x.lt y then y else x

/-- The greatest magnitude among the finite values. -/
def finiteMax (l : List FVal) : Exact :=
  l.foldl (fun acc v =>
    match v with
    | .fin _ x => acc.max x.abs
    | _ => acc) (.ofInt 0)

/-- A value scaled by 2^k. -/
def FVal.scale (v : FVal) (k : Int) : FVal :=
  match v with
  | .fin s x => .fin s (x.scale k)
  | v => v

/-- QuantiseMX of R182: the scale byte, the element codes and the flags. -/
def quantiseMX (x : NarrowFmt) (r : Round) (sat : Bool) (l : List FVal) : Nat × List Nat × BitVec 5 :=
  if l.any FVal.isNan then (0xFF, l.map (fun _ => 0), signals l)
  else
    let m := finiteMax l
    let e : Int := max (-127) (min 127 (if m.isZero then -127 else m.log2 - NarrowFmt.emax x))
    let ys := l.map (fun v => convertValue x.fmt r sat (v.scale (-e)))
    ((e + 127).toNat, ys.map (·.1), ys.foldl (fun acc y => acc ||| y.2) 0)

/-- The decoded elements of a register of floating type t. -/
def floatElems (t : FloatTy) (v : VWord) : List FVal := (elems t.fmt.width v).map t.fmt.decode

/-- `vqmx` (R182): one block of 32 for `.f64`, otherwise two. -/
def execVqmx (d a : Reg) (x : NarrowFmt) (t : FloatTy) (r : Round) (sat : Bool) : State → Out :=
  liftPure (fun i =>
    let l := floatElems t (i.getV a)
    let b0 := quantiseMX x r sat (l.take 32)
    let b1 := if t.fmt.width = 64 then (0, [], 0) else quantiseMX x r sat (l.drop 32)
    (i.setV d (BitVec.ofNat 2048 (packBits x.fmt.width (b0.2.1 ++ b1.2.1) + b0.1 * 2 ^ 1984 + b1.1 * 2 ^ 1992))).raise
      (b0.2.2 ||| b1.2.2))

/-- An element of an MX block (R57); under a NaN scale it is a quiet NaN, whatever its code. Log 24 (DEDUCED). -/
def mxValue (x : NarrowFmt) (scale code : Nat) : FVal :=
  if scale = 0xFF then .nan false else (x.fmt.decode code).scale (scale - 127)

/-- `vdqmx` (R183). With `.sat` an infinity of an E5M2 element becomes the largest finite value, also of binary64, without a flag, as
R66 has it for a conversion. Log 24 (DEDUCED), 64 (DESIGN CHOICE). -/
def execVdqmx (d a : Reg) (x : NarrowFmt) (t : FloatTy) (r : Round) (sat : Bool) : State → Out :=
  liftPure (fun i =>
    let v := (i.getV a).toNat
    let ys := (upFrom 0 (elemCount t.fmt.width)).map (fun k =>
      convertValue t.fmt r sat (mxValue x (packedAt 8 v (248 + k / 32)) (packedAt x.fmt.width v k)))
    (i.setV d (ofLanes t.fmt.width (ys.map (·.1)))).raise (ys.foldl (fun acc y => acc ||| y.2) 0))

/-- The binary16 encodings of the levels of R58, code 0 first. -/
def levelCodes : List Nat :=
  [0xBC00, 0xB9A9, 0xB856, 0xB6AB, 0xB4F9, 0xB2E9, 0xB013, 0xA963,
   0x2963, 0x3013, 0x32E9, 0x34F9, 0x36AB, 0x3856, 0x39A9, 0x3C00]

/-- The level of a code (R58). -/
def level (c : Nat) : Exact :=
  match fmtF16.decode (levelCodes.getD c 0) with
  | .fin _ x => x
  | _ => .ofInt 0

/-- The super-scale: binary32, or 1.0 where C is 0 (R181). -/
def superScale (i : Inst) (c : Reg) : FVal :=
  if c = 0 then .fin false (.ofInt 1) else fmtF32.decode ((i.getS c).toNat % 2 ^ 32)

/-- The value of a Q4N element (R59). A signalling NaN as the super-scale is a signalling operand (R53, R68), but where b is 0, so that
the value does not depend on it: then it raises no invalid flag. Log 64 (DESIGN CHOICE). -/
def q4nValue (s : FVal) (b code : Nat) : FVal :=
  let neg := decide (code < 8)
  if b = 0 then .fin false (.ofInt 0)
  else
    match s with
    | .nan sig => .nan sig
    | .inf t => .inf (neg != t)
    | .fin t x => .fin (neg != t) (((level code).mul (.div (.ofInt b) (.ofInt 255))).mul x)

/-- The code whose level is nearest, ties to the even code (R184). -/
def nearestCode (q : Exact) : Nat :=
  (upFrom 1 15).foldl (fun best i =>
    let di := ((level i).sub q).abs
    let db := ((level best).sub q).abs
    if di.lt db || (di.eq db && i % 2 == 0) then i else best) 0

/-- QuantiseQ4N of R184: the scale byte, the codes and the flags. -/
def quantiseQ4N (l : List FVal) (s : FVal) : Nat × List Nat × BitVec 5 :=
  let zero : List Nat := l.map (fun _ => 8)
  match s with
  | .fin neg x =>
    if x.isZero || l.any FVal.isNan then (0, zero, flagInvalid)
    else
      let inf := l.any (fun v => match v with
        | .inf _ => true
        | _ => false)
      let fl0 : BitVec 5 := if inf then flagInvalid else 0
      let rat := (finiteMax l).div x.abs
      if !inf && rat.isZero then (0, zero, fl0)
      else
        let above := inf || (Exact.ofInt 1).lt rat
        let b : Nat := if above then 255 else (rat.mul (.ofInt 255)).ceil.toNat
        let u := (Exact.div (.ofInt b) (.ofInt 255)).mul x
        let cs := l.map (fun v =>
          match v with
          | .inf t => (nearestCode (.ofInt (if t != neg then -1 else 1)), flagInexact)
          | .fin _ y =>
            let c := nearestCode (y.div u)
            (c, if ((level c).mul u).eq y then 0 else flagInexact)
          | .nan _ => (8, 0))
        (b, cs.map (·.1), cs.foldl (fun acc c => acc ||| c.2) (fl0 ||| if above then flagOverflow ||| flagInexact else 0))
  | _ => (0, zero, flagInvalid)

/-- `vqq4` (R184). -/
def execVqq4 (d a c : Reg) (t : FloatTy) : State → Out :=
  liftPure (fun i =>
    let b := quantiseQ4N (floatElems t (i.getV a)) (superScale i c)
    (i.setV d (BitVec.ofNat 2048 (packBits 4 b.2.1 + b.1 * 2 ^ 1984))).raise b.2.2)

/-- `vdqq4` (R185). With `.sat` an infinity of the super-scale becomes the largest finite value, without a flag, as R66 has it for a
conversion. Log 64 (DESIGN CHOICE). -/
def execVdqq4 (d a c : Reg) (t : FloatTy) (r : Round) (sat : Bool) : State → Out :=
  liftPure (fun i =>
    let v := (i.getV a).toNat
    let ys := (upFrom 0 64).map (fun k =>
      convertValue t.fmt r sat (q4nValue (superScale i c) (packedAt 8 v 248) (packedAt 4 v k)))
    (i.setV d (ofLanes t.fmt.width (ys.map (·.1)))).raise (ys.foldl (fun acc y => acc ||| y.2) 0))

end Sys2Proof.Machine
end

