-- ==== Sys2Proof/Machine/Graphs.lean ====
section
/-! DEFINITION. Carousel graphs: the image (R304 to R307, R421), its legality (R225 to R227, R230) and what its nodes compute
(R220 to R224). -/

namespace Sys2Proof.Machine

/-! ### Nodes (R220, R225, R306) -/

/-- The inputs that a node's kind, operation and IMM ask for (R220, R306). -/
def GNode.inputs (n : GNode) : Nat :=
  match n.kind with
  | 0 | 1 => 3
  | 2 => if n.imm then 1 else 2
  | 3 => if n.op = 0 then 3 else 2
  | 4 | 5 | 6 => 1
  | _ => 0

/-- The source codes of a node's inputs. -/
def GNode.sources (n : GNode) : List Nat := [n.src0, n.src1, n.src2].take n.inputs

/-- Whether a node is a `dly.k`. -/
def GNode.constant (n : GNode) : Bool := n.kind == 7
/-- Whether a node is a lookup. -/
def GNode.lookup (n : GNode) : Bool := n.kind == 4 || n.kind == 5
/-- Whether a node rounds. -/
def GNode.rounds (n : GNode) : Bool := n.kind == 0 || n.kind == 1 || n.kind == 5

/-- The latency of a node (R220). -/
def GNode.latency (n : GNode) : Nat :=
  match n.kind with
  | 0 | 1 => 4
  | 4 | 5 => 3
  | 6 => n.delay
  | _ => 1

/-- The node that a source code names. -/
def sourceNode (src : Nat) : Option Nat := if 0x80 ≤ src then some (src - 0x80) else none

/-- Whether two nodes are neighbours (R225). -/
def GNode.adjacent (a b : GNode) : Bool :=
  let dist (x y : Nat) : Nat := max x y - min x y
  dist a.row b.row + dist a.col b.col == 1

/-- Whether a reader lies in the reach of the bus that a node drives (R225). -/
def GNode.reaches (a b : GNode) : Bool := a.drv && (b.row == a.row || b.row == a.row + 1)

/-! ### The image (R304 to R307) -/

/-- The bytes of an image as a little-endian number at an offset. -/
def imageWord (bs : List Byte) (off n : Nat) : Nat := numberOf ((bs.drop off).take n)

/-- Node record i (R305). -/
def readNode (bs : List Byte) (i : Nat) : GNode :=
  let w := imageWord bs (64 + 16 * i) 8
  { row := field w 0 3, col := field w 3 4, kind := field w 7 4, op := field w 11 4, rnd := field w 15 3,
    delay := field w 18 5, imm := field w 23 1 == 1, bus := field w 24 2, drv := field w 26 1 == 1,
    src0 := field w 32 8, src1 := field w 40 8, src2 := field w 48 8, value := imageWord bs (72 + 16 * i) 4 }

/-- A lookup table with the bytes it occupies (R307). -/
def readTable (bs : List Byte) (node off : Nat) : GTable × Nat :=
  let w := imageWord bs off 8
  let n := field w 40 9
  ({ node := node, x0 := field w 0 32, s := signedOf 8 (field w 32 8),
     entries := (upFrom 0 n).map (fun k => imageWord bs (off + 8 + 4 * k) 4) },
   8 + (4 * n + 7) / 8 * 8)

/-- The tables of the lookup nodes with their offsets, and the offset behind them. -/
def readTables (bs : List Byte) (nodes : List Nat) (off : Nat) : List (GTable × Nat) × Nat :=
  match nodes with
  | [] => ([], off)
  | i :: rest =>
    let (t, n) := readTable bs i off
    let (ts, stop) := readTables bs rest (off + n)
    ((t, off) :: ts, stop)

/-- The indices of the lookup nodes, ascending. -/
def lookups (nodes : List GNode) : List Nat :=
  nodes.zipIdx.filterMap (fun (n, i) => if n.lookup then some i else none)

/-- The number of nodes that an image declares. -/
def imageNodes (bs : List Byte) : Nat := field (imageWord bs 0 8) 11 8

/-- The graph that an image describes. -/
def readGraph (bs : List Byte) : Graph :=
  let w := imageWord bs 0 8
  let nodes := (upFrom 0 (min 128 (imageNodes bs))).map (readNode bs)
  { lat := field w 0 7, nvop := field w 7 2, scal := field w 9 1 == 1, two := field w 10 1 == 1,
    res0 := field w 21 7, res1 := field w 28 7, nodes := nodes,
    tables := (readTables bs (lookups nodes) (64 + 16 * nodes.length)).1.map (·.1) }

/-! ### Clocks (R226) -/

/-- The clock at which an input arrives, given the ready clocks of the nodes: none for a static source or one whose clock
is not yet known. -/
def Graph.arrival (g : Graph) (ready : List (Option Nat)) (n : GNode) (src : Nat) : Option Nat :=
  match sourceNode src with
  | none => some 0
  | some i =>
    match g.nodes[i]? with
    | none => some 0
    | some d => if d.constant then none else (ready.getD i none).map (fun c => if d.adjacent n then c else c + 1)

/-- Whether a source is static (R226). -/
def Graph.isStatic (g : Graph) (src : Nat) : Bool := ((sourceNode src).bind (g.nodes[·]?)).map GNode.constant == some true

/-- The entry clock of a node once all its non-static inputs are known. -/
def Graph.entry (g : Graph) (ready : List (Option Nat)) (n : GNode) : Option Nat :=
  let l := n.sources.filter (fun x => !g.isStatic x)
  let cs := l.filterMap (g.arrival ready n)
  if cs.length = l.length then some (cs.foldl max 0) else none

/-- The ready clocks after a number of rounds. -/
def Graph.readyAfter (g : Graph) (rounds : Nat) : List (Option Nat) :=
  match rounds with
  | 0 => g.nodes.map (fun n => if n.constant then some 0 else none)
  | k + 1 =>
    let r := g.readyAfter k
    g.nodes.map (fun n => if n.constant then some 0 else (g.entry r n).map (fun c => c + n.latency))

/-- The ready clocks of a graph's nodes; a node behind a cycle has none. -/
def Graph.ready (g : Graph) : List (Option Nat) := g.readyAfter g.nodes.length

/-! ### Legality (R230, R421) -/

/-- Whether a binary32 encoding is finite. -/
def finite32 (x : Nat) : Bool := field x 23 8 != 255

/-- Whether a byte range of an image is zero. -/
def zeroBytes (bs : List Byte) (lo hi : Nat) : Bool := ((bs.drop lo).take (hi - lo)).all (· == 0)

/-- The defects with code 0x03: of the header, the reserved bits, the sizes and the padding. -/
def badForm (bs : List Byte) (g : Graph) : Bool :=
  let w := imageWord bs 0 8
  let size := field w 35 7
  let nl := (lookups g.nodes).length
  let (ts, stop) := readTables bs (lookups g.nodes) (64 + 16 * g.nodes.length)
  imageWord bs 8 8 != 1 || !zeroBytes bs 16 64 || field w 42 22 != 0
    || decide (size < 1 ∨ 64 < size) || decide (imageNodes bs < 1 ∨ 128 < imageNodes bs)
    || field w 19 2 == 3 || (decide (nl ≤ 2) && field w 19 2 != nl)
    || decide (size * 64 < stop)
    || (upFrom 0 g.nodes.length).any (fun i =>
      field (imageWord bs (64 + 16 * i) 8) 27 5 != 0 || field (imageWord bs (64 + 16 * i) 8) 56 8 != 0
        || imageWord bs (76 + 16 * i) 4 != 0)
    || ts.any (fun (t, off) => field (imageWord bs off 8) 49 15 != 0
        || !zeroBytes bs (off + 8 + 4 * t.entries.length) (off + 8 + (4 * t.entries.length + 7) / 8 * 8))
    || !zeroBytes bs stop (size * 64)

/-- Whether an operation code is assigned for a kind (R306). -/
def GNode.opAssigned (n : GNode) : Bool :=
  match n.kind with
  | 2 => decide (n.op ≤ 13)
  | 3 => decide (n.op ≤ 10)
  | _ => n.op == 0

/-- The defects with code 0x06. -/
def GNode.badKind (n : GNode) : Bool :=
  let all := [n.src0, n.src1, n.src2]
  decide (8 ≤ n.kind) || !n.opAssigned || all.any (fun x => decide (0x06 ≤ x ∧ x < 0x80))
    || (all.take n.inputs).any (· == 0) || (all.drop n.inputs).any (· != 0)
    || (!n.rounds && n.rnd != 0) || (n.kind != 6 && n.delay != 0) || (n.kind != 2 && n.imm)
    || (!(n.kind == 7 || (n.kind == 2 && n.imm)) && n.value != 0) || (!n.drv && n.bus != 0)

/-- Whether a table belongs to a `lut.lin` node. -/
def Graph.linear (g : Graph) (t : GTable) : Bool := (g.nodes[t.node]?.map (·.kind)) == some 5

/-- The defects with code 0x07. -/
def Graph.badRange (g : Graph) : Bool :=
  g.nodes.any (fun n => (n.rounds && decide (4 ≤ n.rnd)) || (n.kind == 6 && decide (n.delay < 1 ∨ 16 < n.delay)))
    || g.tables.any (fun t =>
      if g.linear t then decide (t.s < -126 ∨ 127 < t.s) || !finite32 t.x0 else t.x0 != 0 || t.s != 0)

/-- The defects with code 0x08. -/
def Graph.badTables (g : Graph) : Bool :=
  decide (2 < (lookups g.nodes).length)
    || g.tables.any (fun t => decide (t.entries.length < 2 ∨ 256 < t.entries.length)
        || (g.linear t && t.entries.any (fun e => !finite32 e)))

/-- The defects with code 0x0B: a route outside R225. Log 26 (DEDUCED). -/
def Graph.badRoute (g : Graph) : Bool :=
  g.nodes.any (fun n => (n.constant && n.drv) || n.sources.any (fun x =>
      match (sourceNode x).bind (g.nodes[·]?) with
      | some d => !d.adjacent n && (d.constant || !d.reaches n)
      | none => false))
    || g.nodes.zipIdx.any (fun (n, i) => n.drv && g.nodes.zipIdx.any (fun (m, j) =>
      decide (i < j) && m.drv && m.row == n.row && m.bus == n.bus))

/-- The defects with code 0x0F. -/
def Graph.badResult (g : Graph) : Bool :=
  let bad (i : Nat) : Bool := (g.nodes[i]?.map GNode.constant) != some false
  bad g.res0 || (if g.two then bad g.res1 || g.ready.getD g.res0 none != g.ready.getD g.res1 none else g.res1 != 0)

/-- The conditions of R230 that an image breaks, by their codes in ascending order; the first is reported.
Log 26 (DEDUCED). -/
def imageDefects (bs : List Byte) (g : Graph) : List Nat :=
  let src (p : GNode → Nat → Bool) : Bool := g.nodes.any (fun n => n.sources.any (p n))
  let r := g.ready
  let dupes : Bool := g.nodes.zipIdx.any (fun (n, i) => g.nodes.zipIdx.any (fun (m, j) =>
    decide (i < j) && n.row == m.row && n.col == m.col))
  let arrivals (n : GNode) : List Nat := n.sources.filterMap (g.arrival r n)
  [(0x03, badForm bs g), (0x04, decide (g.lat < 4 ∨ 64 < g.lat ∨ g.nvop < 1)), (0x05, dupes),
   (0x06, g.nodes.any GNode.badKind), (0x07, g.badRange), (0x08, g.badTables),
   (0x09, src (fun _ x => (decide (1 ≤ x ∧ x ≤ 3) && decide (g.nvop < x)) || (x == 4 && !g.scal))),
   (0x0A, src (fun _ x => decide (0x80 + g.nodes.length ≤ x))), (0x0B, g.badRoute), (0x0C, r.any Option.isNone),
   (0x0D, g.nodes.any (fun n => !n.constant && n.sources.all g.isStatic)),
   (0x0E, g.nodes.any (fun n => (arrivals n).any (fun c => (arrivals n).any (· != c)))),
   (0x0F, g.badResult), (0x10, (r.getD g.res0 none).map (· + 2) != some g.lat)].filterMap (fun e => if e.2 then some e.1 else none)

/-! ### What a node computes (R220 to R224) -/

/-- The direction of a node. -/
def nodeRound (r : Nat) : Round :=
  match r with
  | 0 => .rne | 1 => .rtz | 2 => .rdn | _ => .rup

/-- The product of two values: NaN for a NaN or a zero times an infinity (R72). -/
def FVal.mul (a b : FVal) : FVal :=
  match a, b with
  | .fin s x, .fin t y => .fin (s != t) (x.mul y)
  | .inf s, .inf t => .inf (s != t)
  | .inf s, .fin t y => if y.isZero then .nan false else .inf (s != t)
  | .fin s x, .inf t => if x.isZero then .nan false else .inf (s != t)
  | _, _ => .nan false

/-- Whether a value is an infinity of a sign. -/
def FVal.isInf (v : FVal) (neg : Bool) : Bool := v == .inf neg

/-- `bpma` (R221). -/
def pairMulAdd (r : Round) (a b c : Nat) : Flagged :=
  let lo (x : Nat) : FVal := fmtBf16.decode (field x 0 16)
  let hi (x : Nat) : FVal := fmtBf16.decode (field x 16 16)
  let vc := fmtF32.decode c
  let ins := [lo a, hi a, lo b, hi b, vc]
  let terms := [(lo a).mul (lo b), (hi a).mul (hi b), vc]
  if ins.any FVal.isNan then (fmtF32.canonicalNan, signals ins)
  else if terms.any FVal.isNan || (terms.any (·.isInf true) && terms.any (·.isInf false)) then
    (fmtF32.canonicalNan, flagInvalid)
  else if terms.any (·.isInf true) then (fmtF32.infinity true, 0)
  else if terms.any (·.isInf false) then (fmtF32.infinity false, 0)
  else
    let num (v : FVal) : Exact :=
      match v with
      | .fin _ x => x
      | _ => .ofInt 0
    let sign (v : FVal) : Bool :=
      match v with
      | .fin s _ => s
      | _ => false
    let z := terms.foldl (fun (acc : Exact) v => acc.add (num v)) (.ofInt 0)
    if z.isZero then
      (if terms.all (fun v => (num v).isZero && sign v) then fmtF32.zero true
       else if terms.all (fun v => (num v).isZero && !sign v) then fmtF32.zero false
       else fmtF32.zero (r == .rdn), 0)
    else roundTo fmtF32 r false z

/-- `ialu` (R222). -/
def integerNode (op a b : Nat) : Nat :=
  match op with
  | 0 => wrapOf 32 ((a : Int) + b)
  | 1 => wrapOf 32 ((a : Int) - b)
  | 2 => wrapOf 32 ((a : Int) * b)
  | 3 => a &&& b
  | 4 => a ||| b
  | 5 => a ^^^ b
  | 6 => a &&& (b ^^^ 0xFFFFFFFF)
  | 7 => a * 2 ^ (b % 32) % 2 ^ 32
  | 8 => a / 2 ^ (b % 32)
  | 9 => wrapOf 32 ((signedOf 32 a).fdiv (2 ^ (b % 32) : Nat))
  | 10 => if signedOf 32 a ≤ signedOf 32 b then a else b
  | 11 => if signedOf 32 a ≤ signedOf 32 b then b else a
  | 12 => min a b
  | _ => max a b

/-- A truth value in a lane (R222). -/
def laneTrue (b : Bool) : Nat := if b then 2 ^ 32 - 1 else 0

/-- `csel` (R222). -/
def selectNode (op a b c : Nat) : Flagged :=
  let flt (p : Rel) : Flagged :=
    let x := floatCompare fmtF32 p a b
    (laneTrue x.1, x.2)
  match op with
  | 0 => (if a ≠ 0 then b else c, 0)
  | 1 => flt .eq
  | 2 => flt .lt
  | 3 => flt .le
  | 4 => (laneTrue (a == b), 0)
  | 5 => (laneTrue (decide (signedOf 32 a < signedOf 32 b)), 0)
  | 6 => (laneTrue (decide (signedOf 32 a ≤ signedOf 32 b)), 0)
  | 7 => (laneTrue (decide (a < b)), 0)
  | 8 => (laneTrue (decide (a ≤ b)), 0)
  | 9 => floatMinMax fmtF32 false a b
  | _ => floatMinMax fmtF32 true a b

/-- Entry i of a table, which its last entry fills up (R223). -/
def GTable.at_ (t : GTable) (i : Nat) : Nat := t.entries.getD (min i (t.entries.length - 1)) 0

/-- A finite binary32 as an exact number. -/
def exact32 (x : Nat) : Exact :=
  match fmtF32.decode x with
  | .fin _ e => e
  | _ => .ofInt 0

/-- `lut.lin` (R223). -/
def lookupLinear (t : GTable) (r : Round) (a : Nat) : Flagged :=
  let at_ (x : Exact) : Flagged :=
    let i := x.floor.toNat
    if i = 255 then (t.at_ 255, 0)
    else
      let f := x.sub (.ofInt i)
      if f.isZero then (t.at_ i, 0)
      else
        let lo := exact32 (t.at_ i)
        let v := lo.add (f.mul ((exact32 (t.at_ (i + 1))).sub lo))
        if v.isZero then (fmtF32.zero (r == .rdn), 0) else roundTo fmtF32 r false v
  match fmtF32.decode a with
  | .nan sg => (fmtF32.canonicalNan, if sg then flagInvalid else 0)
  | .inf s => at_ (.ofInt (if s then 0 else 255))
  | .fin _ x =>
    let y := (x.sub (exact32 t.x0)).scale (-t.s)
    at_ (if y.lt (.ofInt 0) then .ofInt 0 else if (Exact.ofInt 255).lt y then .ofInt 255 else y)

/-- What a node makes of its inputs. -/
def Graph.nodeResult (g : Graph) (n : GNode) (i a b c : Nat) : Flagged :=
  let t := (g.tables.find? (fun t => t.node == i)).getD ⟨i, 0, 0, []⟩
  match n.kind with
  | 0 => floatFma fmtF32 (nodeRound n.rnd) a b c
  | 1 => pairMulAdd (nodeRound n.rnd) a b c
  | 2 => (integerNode n.op a (if n.imm then n.value else b), 0)
  | 3 => selectNode n.op a b c
  | 4 => (t.at_ (a % 256), 0)
  | 5 => lookupLinear t (nodeRound n.rnd) a
  | 6 => (a, 0)
  | _ => (n.value, 0)

/-- What one lane of a call reads: the vector operands, the scalar and its number. -/
structure LaneIn where
  op0 : Nat
  op1 : Nat
  op2 : Nat
  sc : Nat
  lane : Nat

/-- The value of a source in a lane, given the nodes' values. -/
def LaneIn.source (l : LaneIn) (vals : List (Option Flagged)) (src : Nat) : Option Nat :=
  match src with
  | 0 => some 0
  | 1 => some l.op0
  | 2 => some l.op1
  | 3 => some l.op2
  | 4 => some l.sc
  | 5 => some l.lane
  | _ => (vals.getD (src - 0x80) none).map (·.1)

/-- The nodes' values in a lane after a number of rounds. -/
def Graph.valuesAfter (g : Graph) (l : LaneIn) (rounds : Nat) : List (Option Flagged) :=
  match rounds with
  | 0 => g.nodes.map (fun _ => none)
  | k + 1 =>
    let vals := g.valuesAfter l k
    g.nodes.zipIdx.map (fun (n, i) =>
      match vals.getD i none with
      | some v => some v
      | none => do
        let a ← l.source vals n.src0
        let b ← l.source vals n.src1
        let c ← l.source vals n.src2
        return g.nodeResult n i a b c)

/-- The results of a graph in one lane and the flags that its nodes raise there. -/
def Graph.lane (g : Graph) (l : LaneIn) : Nat × Nat × BitVec 5 :=
  let vals := g.valuesAfter l g.nodes.length
  let out (i : Nat) : Nat := ((vals.getD i none).map (·.1)).getD 0
  (out g.res0, out g.res1,
   vals.foldl (fun acc v =>
     match v with
     | some f => acc ||| f.2
     | none => acc) 0)

/-- A graph called on vector operands and a scalar: both results by lanes, and the flags of each lane (R212, R220). -/
def Graph.call (g : Graph) (op0 op1 op2 : VWord) (sc : W64) : List (Nat × Nat × BitVec 5) :=
  (upFrom 0 64).map (fun j =>
    g.lane { op0 := elemAt 32 op0 j, op1 := elemAt 32 op1 j, op2 := elemAt 32 op2 j, sc := sc.toNat % 2 ^ 32, lane := j })

end Sys2Proof.Machine
end

