-- ==== Sys2Proof/Machine/Carousel.lean ====
section
/-! DEFINITION. The Carousel: the slots of a cell (R211), the issue of `xop`, `xld`, `xunl` and `xq` (R212 to R216), and the
steps CAROUSEL_ENTRY, CAROUSEL_RESULT (R228), XLD_PROCESS, XLD_WAIT_RETRY, GRAPH_LOAD_COMPLETE, XUNL_COMPLETE and
CONFIG_ERROR_RELOAD (R231). -/

namespace Sys2Proof.Machine

/-! ### Slots and the Carousel table (R211, R360) -/

/-- V and IMAGE of entry n of a context's Carousel table, as read at its restore (R360, R361); a context that is not
resident has none. -/
def State.graphEntry (s : State) (ctx n : Nat) : Bool × VAddr :=
  match s.resident ctx with
  | none => (false, 0)
  | some r =>
    let w := r.xops.getD (2 * n) 0
    (wbit w 8, BitVec.ofNat 72 ((r.xops.getD (2 * n + 1) 0).toNat + wfield w 16 8 * 2 ^ 64))

/-- The slot of a cell that is Loading or Resident for a number. -/
def State.slotOf (s : State) (site n : Nat) : Option GSlot := s.gslots.find? (fun g => g.site == site && g.n == n)

/-- A slot of a cell by its number. -/
def State.gslot (s : State) (site k : Nat) : Option GSlot := s.gslots.find? (fun g => g.site == site && g.slot == k)

/-- The slot that is current for a number (R211). -/
def State.currentSlot (s : State) (site ctx n : Nat) : Option GSlot :=
  let (v, image) := s.graphEntry ctx n
  (s.slotOf site n).filter (fun g => v && g.st == .resident && g.image == image)

/-- A slot replaced by what a function makes of it. -/
def State.updateSlot (s : State) (site k : Nat) (f : GSlot → GSlot) : State :=
  { s with gslots := updateFirst (fun g => g.site == site && g.slot == k) f s.gslots }

/-- A slot emptied. -/
def State.emptySlot (s : State) (site k : Nat) : State :=
  { s with gslots := s.gslots.filter (fun g => !(g.site == site && g.slot == k)) }

/-- The clock of a cell's Carousel. Log 28 (DEDUCED). -/
def State.carNow (s : State) (site : Nat) : Nat := (keyed s.carClock site).getD 0

/-- Whether the Carousel has accepted a request for a slot that it has not yet answered. -/
def State.slotBusyCar (s : State) (site k : Nat) : Bool :=
  s.carJobs.any (fun j => j.site == site && j.gslot == k && !j.delivered)

/-- XOP_UNLOADED with its number and V (R365). -/
def State.unloaded (s : State) (ctx n : Nat) : Trap :=
  { cause := .xopUnloaded, detail := BitVec.ofNat 64 (n + (s.graphEntry ctx n).1.toNat * 2 ^ 6) }

/-! ### Issue (R212 to R215, R219) -/

/-- `xop` (R212): a request to the Carousel, for which the runner waits. -/
def execXop (n : BitVec 6) (d a b c x : Reg) (k : MReg) (z : Bool) : State → Out :=
  liftBoth (fun s i _ => do
    if i.key.ctx = 0 then throw { cause := .illegalInstruction }
    match s.currentSlot i.site i.key.ctx n.toNat with
    | none => throw (s.unloaded i.key.ctx n.toNat)
    | some g =>
      let f := g.graph
      if (decide (f.nvop < 2) && b != 0) || (decide (f.nvop < 3) && c != 0) || (!f.scal && x != 0) || (f.two && d == 31) then
        throw { cause := .xopOperands, detail := n.setWidth 64 }
      let m := i.getM k
      let j : CarJob :=
        { site := i.site, who := .runner i.runner, gslot := g.slot, since := s.carNow i.site, entered := none,
          op0 := i.getV a, op1 := i.getV b, op2 := i.getV c, sc := i.getS x, mask := m }
      let s1 := s.updateSlot i.site g.slot (fun g => { g with lastUse := s.tick })
      return ({ s1 with carJobs := s1.carJobs ++ [j] }, { i with phase := .waitXop d.toNat m z }))

/-- `xld` (R213). -/
def execXld (slot : SlotNo) (a : Reg) : State → Out :=
  lift (fun s i u => do
    if i.key.ctx = 0 then throw { cause := .illegalInstruction }
    issue s i u slot (.xld (wfield (i.getS a) 0 6) .fresh) [])

/-- `xunl` (R214). -/
def execXunl (slot : SlotNo) (a : Reg) : State → Out :=
  lift (fun s i u => do
    if i.key.ctx = 0 then throw { cause := .illegalInstruction }
    issue s i u slot (.xunl (wfield (i.getS a) 0 6) false) [])

/-- The state of an opcode number (R215). -/
def State.graphStatus (s : State) (site ctx n : Nat) : W64 :=
  let (v, image) := s.graphEntry ctx n
  let free := 8 - (s.gslots.filter (fun g => g.site == site)).length
  let held : Nat :=
    match s.slotOf site n with
    | none => 0
    | some g =>
      let resident := g.st == .resident
      let current := resident && v && g.image == image
      let decl : Nat :=
        if current then
          g.graph.lat * 2 ^ 8 + g.graph.nvop * 2 ^ 15 + g.graph.scal.toNat * 2 ^ 17 + g.graph.two.toNat * 2 ^ 18
        else 0
      current.toNat * 2 + (g.st == .loading).toNat * 4 + (resident && g.image != image).toNat * 8 + g.slot * 2 ^ 4
        + (decide (g.pins ≠ 0)).toNat * 2 ^ 7 + decl
  BitVec.ofNat 64 (v.toNat + held + free * 2 ^ 19)

/-- `xq` (R215). -/
def execXq (d a : Reg) : State → Out :=
  lift (fun s i _ => do
    if i.key.ctx = 0 then throw { cause := .illegalInstruction }
    return i.setS d (s.graphStatus i.site i.key.ctx (wfield (i.getS a) 0 6)))

/-! ### The array (R228) -/

/-- What a request that enters in clock `t` reserves: nodes by position, buses from 128, the result port at 256, each at
a clock (R228). -/
def Graph.reserves (g : Graph) (t : Nat) : List (Nat × Nat) :=
  let r := g.ready
  let nodes := (g.nodes.zip r).flatMap (fun (n, c) =>
    let ready := c.getD 0
    if n.constant then []
    else (n.row * 16 + n.col, t + ready - n.latency) :: if n.drv then [(128 + n.row * 4 + n.bus, t + ready)] else [])
  (256, t + g.lat) :: nodes

/-- Whether a waiting request can enter in a clock. -/
def State.canEnter (s : State) (j : CarJob) (t : Nat) : Bool :=
  match s.gslot j.site j.gslot with
  | some g =>
    let taken := (s.carJobs.filter (fun x => x.site == j.site)).flatMap (·.holds)
    (g.graph.reserves t).all (fun r => !taken.contains r)
  | none => false

/-- The rank of a request among those that became ready in one clock: the MU first, then the runners (R228).
Log 28 (DEDUCED). -/
def CarJob.rank (j : CarJob) : Nat :=
  j.since * 16 +
    match j.who with
    | .mu _ => 0
    | .runner r => r + 1

/-- The requests of a cell that wait for a slot which admits them (R231). -/
def State.waitingJobs (s : State) (site : Nat) : List CarJob :=
  s.carJobs.filter (fun j => j.site == site && j.entered.isNone && !j.delivered && ((s.gslot site j.gslot).map (fun g => !g.broken) == some true))

/-- The request that enters in a clock, when one does (R228). -/
def State.admitted (s : State) (site t : Nat) : Option CarJob :=
  let l := s.waitingJobs site
  match leastBy CarJob.rank (l.filter (fun j => decide (j.since + 64 ≤ t))) with
  | some j => if s.canEnter j t then some j else none
  | none => leastBy CarJob.rank (l.filter (fun j => s.canEnter j t))

/-- Whether a request is over: its result has been taken and no clock that it has reserved is still to come (R228). -/
def CarJob.over (j : CarJob) (t : Nat) : Bool := j.delivered && j.holds.all (fun r => decide (r.2 < t))

/-- One clock of a cell's Carousel. -/
def execCarouselEntry (site : Nat) (s : State) : Out :=
  let t := s.carNow site
  let s1 : State :=
    { s with
      carClock := putKeyed s.carClock site (t + 1)
      carJobs := s.carJobs.filter (fun j => !(j.site == site && j.over (t + 1))) }
  match s.admitted site t with
  | none => .next s1
  | some j =>
    let holds := ((s.gslot site j.gslot).map (fun g => g.graph.reserves t)).getD []
    .next { s1 with carJobs := updateFirst (· == j) (fun j => { j with entered := some t, holds := holds }) s1.carJobs }

/-- The result of a request delivered to its runner or to the MU (R208, R212). Log 28 (DEDUCED). -/
def State.deliverResult (s : State) (j : CarJob) (g : Graph) : State :=
  let l := g.call j.op0 j.op1 j.op2 j.sc
  let r0 : VWord := ofLanes 32 (l.map (·.1))
  let r1 : VWord := ofLanes 32 (l.map (·.2.1))
  let fl := flagsOf j.mask 64 (fun k => (l.getD k (0, 0, 0)).2.2)
  let s1 : State := { s with carJobs := updateFirst (· == j) (fun j => { j with delivered := true }) s.carJobs }
  match j.who with
  | .runner r =>
    match s1.instAt j.site r with
    | none => s1
    | some i =>
      match i.phase with
      | .waitXop d m z =>
        let put (i : Inst) (k : Nat) (v : VWord) : Inst :=
          let reg : Reg := BitVec.ofNat 5 k
          i.setV reg (masked z m 32 (i.getV reg) (elemAt 32 v))
        let i1 := put i d r0
        let i2 := if g.two then put i1 (d + 1) r1 else i1
        s1.putInst { i2.raise fl with phase := .running }
      | _ => s1
  | .mu op =>
    s1.updateOp op (fun o =>
      { o with
        kind :=
          match o.kind with
          | .mu m => .mu { m with out := m.out ++ [r0], flags := m.flags ||| fl }
          | k => k })

/-- The oldest result of a cell's Carousel that is due, delivered: its entry clock plus LAT has come (R228). -/
def execCarouselResult (site : Nat) (s : State) : Out :=
  let due (j : CarJob) : Option Graph :=
    match j.entered, s.gslot site j.gslot with
    | some t, some g => if j.site == site && !j.delivered && decide (t + g.graph.lat ≤ s.carNow site) then some g.graph else none
    | _, _ => none
  match s.carJobs.findSome? (fun j => (due j).map (fun g => (j, g))) with
  | some (j, g) => .next (s.deliverResult j g)
  | none => .next s

/-! ### Loading (R211, R213, R230) -/

/-- An `xld` held by XGRAPH_CONFIG (R365). -/
def State.badGraph (s : State) (o : Op) (n code : Nat) (image : VAddr) : State :=
  s.faultOp o
    { cause := Cause.xgraphConfig.code, detail := BitVec.ofNat 64 (code + n * 2 ^ 8), faddr := (image.setWidth 64).setWidth 72,
      value := 0, level := 0 } 0 none

/-- The state of an `xld` set. -/
def State.setXld (s : State) (op : Nat) (st : XldState) : State :=
  s.updateOp op (fun o =>
    { o with
      kind :=
        match o.kind with
        | .xld n _ => .xld n st
        | k => k })

/-- A slot put into Loading for an `xld` (R211). -/
def State.startLoad (s : State) (o : Op) (k n : Nat) (image : VAddr) : State :=
  let g : GSlot :=
    { site := o.site, slot := k, st := .loading, n := n, image := image, graph := default, pins := 0, lastUse := 0,
      broken := false }
  { s.emptySlot o.site k with gslots := g :: (s.emptySlot o.site k).gslots }.setXld o.id (.on k true)

/-- The cases of R213 taken by an `xld` after its commit. One that stands for the reload of a damaged slot ends here, and
the reload is tried again (R231). In cases 2 and 4 the reload or eviction of a slot waits for the requests that the Carousel has
accepted for it, as that of an `xunl` does (R214). Log 64 (DESIGN CHOICE). -/
def State.xldStep (s : State) (o : Op) (n : Nat) : State :=
  let (v, image) := s.graphEntry o.key.ctx n
  if o.dropped then s.dropOp o.id
  else if !v then s.badGraph o n 0x01 image
  else if image.toNat % 64 ≠ 0 then s.badGraph o n 0x02 image
  else
    match s.slotOf o.site n with
    | some g =>
      if g.image = image then s.setXld o.id (if g.st == .resident then .ready else .on g.slot false)
      else if g.st == .resident && g.pins == 0 && !s.slotBusyCar o.site g.slot then s.startLoad o g.slot n image
      else s
    | none =>
      match (upFrom 0 8).find? (fun k => (s.gslot o.site k).isNone) with
      | some k => s.startLoad o k n image
      | none =>
        match leastBy (fun g => g.lastUse * 8 + g.slot)
            (s.gslots.filter (fun g => g.site == o.site && g.st == .resident && g.pins == 0)) with
        | some g => if s.slotBusyCar o.site g.slot then s else s.startLoad o g.slot n image
        | none => s

/-- An `xld` that has not yet found its case, when its context is not being stopped, or when it stands for the reload of a
damaged slot, which goes on (R231). -/
def State.freshXld (s : State) (op : Nat) : Option (Op × Nat) :=
  match s.op op with
  | none => none
  | some o =>
    match o.kind with
    | .xld n .fresh => if o.heldOp.isNone && (o.dropped || !s.drained o.key.ctx) then some (o, n) else none
    | _ => none

def execXldProcess (op : Nat) (s : State) : Out :=
  match s.freshXld op with
  | some (o, n) => .next (s.xldStep o n)
  | none => .next s

/-- A waiting `xld` takes the cases again (R213). -/
def execXldWaitRetry (op : Nat) (s : State) : Out :=
  match s.freshXld op with
  | some (o, n) => .next (s.xldStep o n)
  | none => .next s

/-- `n` units of 64 bytes of an image from unit k on, or the fault of the first that does not translate (R387). A poisoned unit is
taken as its bytes stand: no rule names a cause for it (R105). Log 16 (DESIGN CHOICE), 68 (DESIGN CHOICE). -/
def State.imageUnits (s : State) (site ctx : Nat) (image : VAddr) (k n : Nat) : Except Trap (List Byte) :=
  match n with
  | 0 => .ok []
  | m + 1 =>
    let va := (image + BitVec.ofNat 72 (64 * k)).toNat
    match s.locate site ctx .image va 64 with
    | .error e =>
      .error { e.trap .image va with detail := BitVec.ofNat 64 (2 ^ ((image.toNat % 4096 + 64 * k) / 4096)) }
    | .ok pa => do
      let rest ← s.imageUnits site ctx image (k + 1) m
      let w := (s.deviceRead pa 64).1
      return (upFrom 0 64).map (fun j => BitVec.ofNat 8 (w / 256 ^ j)) ++ rest

/-- The bytes of an image: its header, and as many units as the header says (R304). -/
def State.fetchImage (s : State) (site ctx : Nat) (image : VAddr) : Except Trap (List Byte) := do
  let head ← s.imageUnits site ctx image 0 1
  let size := field (imageWord head 0 8) 35 7
  if 1 < size ∧ size ≤ 64 then
    let rest ← s.imageUnits site ctx image 1 (size - 1)
    return head ++ rest
  else return head

/-- The walks that the fetch of `n` units of an image from unit k on makes, the first that does not translate among them, kept by the
TLB and the walker (R386, R410). -/
def State.noteUnits (s : State) (site ctx : Nat) (image : VAddr) (k n : Nat) : State :=
  match n with
  | 0 => s
  | m + 1 =>
    let va := (image + BitVec.ofNat 72 (64 * k)).toNat
    let s1 := s.noteFetch site ctx va
    match s.locate site ctx .image va 64 with
    | .error _ => s1
    | .ok _ => s1.noteUnits site ctx image (k + 1) m

/-- The walks that the fetch of an image makes. -/
def State.noteImage (s : State) (site ctx : Nat) (image : VAddr) : State :=
  match s.fetchImage site ctx image with
  | .ok bs => s.noteUnits site ctx image 0 (bs.length / 64)
  | .error _ => s.noteUnits site ctx image 0 64

/-- The user context that owns a cell. -/
def State.userAt (s : State) (site : Nat) : Nat :=
  ((s.ctl.residents.find? (fun r => r.cells.contains site)).map (·.ctx)).getD 0

/-- The operation that loads a slot. -/
def State.loaderOf (s : State) (site k : Nat) : Option Op :=
  s.ops.find? (fun o => o.site == site && o.kind ==
    match o.kind with
    | .xld n _ => .xld n (.on k true)
    | _ => .prefetch false)

/-- Every `xld` that waits on a slot set to a state. -/
def State.settleXlds (s : State) (site k : Nat) (st : XldState) : State :=
  { s with ops := s.ops.map (fun o =>
      match o.kind with
      | .xld n (.on j _) => if o.site == site && j == k then { o with kind := .xld n st } else o
      | _ => o) }

/-- A load that failed: the slot is Empty, the `xld` that began it is held, and the others take the cases again (R213).
Log 26 (DEDUCED). -/
def State.failLoad (s : State) (g : GSlot) (hold : State → Op → State) : State :=
  let s1 := (s.emptySlot g.site g.slot).settleXlds g.site g.slot .fresh
  match s.loaderOf g.site g.slot with
  | none => s1
  | some o => if o.dropped then s1.dropOp o.id else hold s1 o

/-- A graph put into its slot. -/
def State.finishLoad (s : State) (g : GSlot) (f : Graph) : State :=
  (s.updateSlot g.site g.slot (fun g => { g with st := .resident, graph := f, lastUse := s.tick })).settleXlds g.site g.slot .ready

/-- The end of a slot's load (R211, R213). -/
def execGraphLoadComplete (site gslot : Nat) (storeError : Bool) (s : State) : Out :=
  match s.gslot site gslot with
  | none => .next s
  | some g =>
    if g.st != .loading || s.drained (s.userAt site) then .next s
    else
      let s1 := s.noteImage site (s.userAt site) g.image
      match s.fetchImage site (s.userAt site) g.image with
      | .error t =>
        .next (s1.failLoad g (fun s o => s.faultOp o
          { cause := t.cause.code, detail := t.detail, faddr := BitVec.ofNat 72 t.faddr, value := 0, level := t.level } 0 none))
      | .ok bs =>
        match imageDefects bs (readGraph bs) with
        | c :: _ => .next (s1.failLoad g (fun s o => s.badGraph o g.n c g.image))
        | [] =>
          if storeError then .next (s1.failLoad g (fun s o => s.badGraph o g.n 0x11 g.image))
          else .next (s1.finishLoad g (readGraph bs))

/-- An `xunl` takes effect when its slot allows (R214). -/
def execXunlComplete (op : Nat) (s : State) : Out :=
  match s.op op with
  | none => .next s
  | some o =>
    match o.kind with
    | .xunl n false =>
      let done (s : State) : State := s.updateOp op (fun o => { o with kind := .xunl n true })
      match s.slotOf o.site n with
      | none => .next (done s)
      | some g =>
        if g.st == .resident && g.pins == 0 && !s.slotBusyCar o.site g.slot then
          .next (done (s.emptySlot o.site g.slot))
        else .next s
    | _ => .next s

/-! ### Configuration errors (R231) -/

/-- A context halted on a cell because a slot cannot be reloaded (R211, R231), with the record of an XGRAPH_CONFIG; the slot
stays damaged. Log 27 (DEDUCED). -/
def State.haltCarousel (s : State) (g : GSlot) (code : Nat) : State :=
  let ctx := s.userAt g.site
  let it : Item :=
    { id := s.nextId, site := g.site, kind := 1, ctx := ctx, lid := 0, key := ⟨ctx, 0, 0⟩, fref := 0, thr := 0, hidx := 0,
      gen := 0, body := .op s.nextId, handler := none }
  let f : FaultSpec :=
    { site := g.site, kind := 1, cause := Cause.xgraphConfig.code, ctx := ctx, lid := 0, key := ⟨ctx, 0, 0⟩, epoch := false,
      detail := BitVec.ofNat 64 (code + g.n * 2 ^ 8), faddr := g.image.toNat % 2 ^ 64, body := it.body, fromHandler := true }
  { s.updateSlot g.site g.slot (fun g => { g with broken := true, stuck := true }) with nextId := s.nextId + 1 }.doubleFault it
    (f.record false true 0)

/-- Whether a slot stands damaged because its reload has failed, which has halted its context: it is not reloaded before a restore
(R231). Log 27 (DEDUCED). -/
def State.stuckSlot (s : State) (site k : Nat) : Bool := (s.gslot site k).any (·.stuck)

/-- The requests that wait for such slots given up (R231, R233): a drain does not wait for them. Log 27 (DEDUCED). -/
def State.dropStuck (s : State) (cells : List Nat) : State :=
  { s with carJobs := s.carJobs.filter (fun j => !(cells.contains j.site && !j.delivered && s.stuckSlot j.site j.gslot)) }

/-- The request-table entry in which a reload waits for the system context to map its image (R213, R231).
Log 27 (DEDUCED). -/
def State.holdReload (s : State) (g : GSlot) (t : Trap) : State :=
  match s.openEntries g.site with
  | [] => s
  | h :: _ =>
    let o : Op :=
      { id := s.nextId, site := g.site, hidx := h, key := ⟨s.userAt g.site, 0, 0⟩, epoch := false, lid := 0, slot := 0, thr := 0,
        dyn := 0, iaddr := 0, w0 := 0, w1 := none, seq := 0, prog := 0, fences := [], kind := .xld g.n .fresh, parts := [],
        heldOp := none, item := none, dropped := true, fromHandler := false }
    { s with nextId := s.nextId + 1, ops := s.ops ++ [o] }.faultOp o
      { cause := t.cause.code, detail := t.detail, faddr := BitVec.ofNat 72 t.faddr, value := 0, level := t.level } 0 none

/-- An uncorrectable error or a signature mismatch in a slot, which the cell reports (R413): nothing is admitted and what is
in the array is entered again later; then the slot is reloaded from its recorded image. `again` is a second uncorrectable
error. That the context is halted on the cell for another cause changes nothing here: the MU runs on (R368). Event 0x03 is raised
when the reload has ended, well or not (R231, R411). Log 27 (DEDUCED). -/
def execConfigErrorReload (site gslot : Nat) (again : Bool) (s : State) : Out :=
  match s.gslot site gslot with
  | none => .next s
  | some g =>
    let ended (s : State) : State := s.healthEvent 0x03 (sourceWord site (s.userAt site))
    if g.st != .resident || g.stuck then .next s
    else if !g.broken then
      let jobs := s.carJobs.map (fun j =>
        if j.site == site && j.gslot == gslot && !j.delivered then { j with entered := none, holds := [] } else j)
      .next ({ s.updateSlot site gslot (fun g => { g with broken := true }) with carJobs := jobs }.reportError site false)
    else if s.ops.any (fun o => o.site == site && o.dropped && o.kind == .xld g.n .fresh) then .next s
    else if again then .next (ended ((s.haltCarousel g 0x11).reportError site false))
    else
      let s1 := s.noteImage site (s.userAt site) g.image
      match s.fetchImage site (s.userAt site) g.image with
      | .error t => .next (s1.holdReload g t)
      | .ok bs =>
        match imageDefects bs (readGraph bs) with
        | c :: _ => .next (ended (s1.haltCarousel g c))
        | [] => .next (ended (s1.updateSlot site gslot (fun g => { g with graph := readGraph bs, broken := false })))

end Sys2Proof.Machine
end

