-- ==== Sys2Proof/Machine/Engine.lean ====
section
/-! DEFINITION. Stream-engine commands (R101 to R103, R261 to R274): the issue of `cpy`, `gth`, `sct`, `isect`, `smerge` and
`cmpct`, and ENGINE_COMMAND_START, ENGINE_ELEMENT, ENGINE_FAULT_STOP and ENGINE_COMMAND_COMPLETE. A command reads its inputs
at its cursor or ahead of it, forms results from them, and writes the results in their order. -/

namespace Sys2Proof.Machine

/-! ### The command descriptor (R262, R263) -/

/-- The minor of a command (R261). -/
def EngineCmd.code : EngineCmd → Nat
  | .cpy => 0 | .gth => 1 | .sct => 2 | .isect => 3 | .smerge => 4 | .cmpct => 5

/-- Word DWk of a command's descriptor copy. -/
def Engine.word (e : Engine) (k : Nat) : W64 := e.dw.getD k 0

/-- The element or key size in bytes. -/
def Engine.size (e : Engine) : Nat := 2 ^ wfield (e.word 0) 3 2
/-- The index size in bytes. -/
def Engine.indexSize (e : Engine) : Nat := 4 * 2 ^ wfield (e.word 0) 5 2
/-- The width of a column index in bytes. -/
def Engine.columnSize (e : Engine) : Nat := 2 ^ wfield (e.word 0) 7 2
/-- The width of a row offset in bytes. -/
def Engine.offsetSize (e : Engine) : Nat := 2 * 2 ^ wfield (e.word 0) 9 1
/-- The record size of `smerge` in bytes. -/
def Engine.recordSize (e : Engine) : Nat := e.size * 2 ^ wfield (e.word 0) 10 2
/-- WIN. -/
def Engine.windowed (e : Engine) : Bool := wbit (e.word 0) 12
/-- NA. -/
def Engine.countA (e : Engine) : Nat := wfield (e.word 1) 0 32
/-- NB. -/
def Engine.countB (e : Engine) : Nat := wfield (e.word 1) 32 32
/-- Nm + 1. -/
def Engine.extent (e : Engine) (m : Nat) : Nat := wfield (e.word 8) (16 * m) 16 + 1
/-- Sm. -/
def Engine.strideS (e : Engine) (m : Nat) : Int := signedOf 32 (wfield (e.word (9 + m / 2)) (32 * (m % 2)) 32)
/-- Tm. -/
def Engine.strideT (e : Engine) (m : Nat) : Int := signedOf 32 (wfield (e.word (11 + m / 2)) (32 * (m % 2)) 32)
/-- CAP. -/
def Engine.cap (e : Engine) : Nat := wfield (e.word 15) 0 32

/-- The first word of location k. -/
def locWord (k : Nat) : Nat := if k = 3 then 13 else 2 + 2 * k

/-- Whether location k is in scratch. -/
def Engine.inScratch (e : Engine) (k : Nat) : Bool := wbit (e.word (locWord k + 1)) 8

/-- The effective address of a global location, or the effective offset of a scratch one (R263). -/
def Engine.base (e : Engine) (k : Nat) : Nat :=
  let a := (e.word (locWord k)).toNat + wfield (e.word (locWord k + 1)) 0 8 * 2 ^ 64
  if e.inScratch k then a + e.sC.toNat else (a + (e.sB.signExtend 72).toNat) % 2 ^ 72

/-- The place of a displacement from location k. -/
def Engine.place (e : Engine) (k : Nat) (disp : Int) : Int :=
  if e.inScratch k then e.base k + disp else ((e.base k + disp) % (2 ^ 72 : Nat))

/-! ### The checks at issue (R264, R265) -/

/-- The bits of DW0 that a command's fields use, beside CMD, ESZ and WIN. -/
def EngineCmd.usedBits (c : EngineCmd) : Nat :=
  2 ^ 13 - 1 -
    match c with
    | .cpy | .isect => 2 ^ 12 - 2 ^ 5
    | .gth | .sct => 2 ^ 12 - 2 ^ 7
    | .smerge => 2 ^ 10 - 2 ^ 5
    | .cmpct => 2 ^ 12 - 2 ^ 10 + (2 ^ 7 - 2 ^ 5)

/-- The parts of DW1 and DW8 to DW15 that a command's row names, as masks by word (R264). -/
def EngineCmd.usedWords (c : EngineCmd) : List (Nat × Nat) :=
  let full := 2 ^ 64 - 1
  let low := 2 ^ 32 - 1
  match c with
  | .cpy => [(8, full), (9, full), (10, full), (11, full), (12, full)]
  | .gth => [(1, low), (11, low)]
  | .sct => [(1, low), (9, low)]
  | .isect => [(1, full), (15, low)]
  | .smerge => [(1, full)]
  | .cmpct => [(8, low), (9, full)]

/-- For each location that a command uses, whether it may be global and whether it may be in scratch (R264). -/
def EngineCmd.spaces (c : EngineCmd) : List (Bool × Bool) :=
  match c with
  | .cpy => [(true, true), (true, true)]
  | .gth => [(true, false), (true, true), (true, true)]
  | .sct => [(true, true), (true, false), (true, true)]
  | .isect => [(true, true), (true, true), (false, true)]
  | .smerge => [(true, true), (true, true), (true, true)]
  | .cmpct => [(true, true), (true, true), (true, true), (true, true)]

/-- Whether a location is formed and placed as R263 and R264 require; an unused one is zero. -/
def Engine.locSound (e : Engine) (k : Nat) : Bool :=
  let lo := e.word (locWord k)
  let hi := e.word (locWord k + 1)
  match e.cmd.spaces[k]? with
  | none => lo == 0 && hi == 0
  | some (g, sc) =>
    wfield hi 9 55 == 0
      && (if e.inScratch k then sc && wfield lo 20 44 == 0 && wfield hi 0 8 == 0 else g)

/-- Check 2 of R265: every field is assigned, and every unused or reserved field is zero. -/
def Engine.sound (e : Engine) : Bool :=
  wfield (e.word 0) 0 3 == e.cmd.code
    && (e.word 0).toNat == (e.word 0).toNat &&& e.cmd.usedBits
    && decide (wfield (e.word 0) 5 2 < 2) && decide (wfield (e.word 0) 7 2 < 3)
    && [1, 8, 9, 10, 11, 12, 15].all (fun k =>
      (e.word k).toNat == (e.word k).toNat &&& ((keyed e.cmd.usedWords k).getD 0))
    && [0, 1, 2, 3].all (fun k => e.locSound k)
    && !(e.cmd == .cpy && e.inScratch 0 && e.inScratch 1)

/-- The least and the greatest displacement of `n` steps of a stride. -/
def strideSpan (st : Int) (n : Nat) : Int × Int :=
  let last : Int := st * ((n : Int) - 1)
  if n = 0 then (0, 0) else (min 0 last, max 0 last)

/-- The displacements over the four dimensions of `cpy`. -/
def boxSpan (st : Nat → Int) (n : Nat → Nat) : Int × Int :=
  [0, 1, 2, 3].foldl (fun (acc : Int × Int) m =>
    let (a, b) := strideSpan (st m) (n m)
    (acc.1 + a, acc.2 + b)) (0, 0)

/-- The scratch regions whose extent the descriptor fixes: location, least displacement, and bytes (R265). -/
def Engine.regions (e : Engine) : List (Nat × Int × Nat) :=
  let span (k : Nat) (p : Int × Int) (n : Nat) : Nat × Int × Nat := (k, p.1, (p.2 - p.1).toNat + n)
  let run (k n : Nat) : List (Nat × Int × Nat) := if n = 0 then [] else [(k, 0, n)]
  let na := e.countA
  let cells := e.extent 0 * e.extent 1
  match e.cmd with
  | .cpy => [span 0 (boxSpan e.strideS e.extent) e.size, span 1 (boxSpan e.strideT e.extent) e.size]
  | .gth => (if na = 0 then [] else [span 1 (strideSpan (e.strideT 0) na) e.size]) ++ run 2 (na * e.indexSize)
  | .sct => (if na = 0 then [] else [span 0 (strideSpan (e.strideS 0) na) e.size]) ++ run 2 (na * e.indexSize)
  | .isect => run 0 (na * e.size) ++ run 1 (e.countB * e.size) ++ run 2 (8 + 8 * e.cap)
  | .smerge => run 0 (na * e.recordSize) ++ run 1 (e.countB * e.recordSize) ++ run 2 ((na + e.countB) * e.recordSize)
  | .cmpct => run 1 (cells * e.size) ++ run 2 (cells * e.columnSize) ++ run 3 ((e.extent 1 + 1) * e.offsetSize)

/-- DETAIL of an engine fault (R365). Log 50 (DEDUCED). -/
def Engine.detail (e : Engine) (extra elem : Nat) : W64 :=
  BitVec.ofNat 64 (e.descOff % 2 ^ 20 + e.cmd.code * 2 ^ 20 + extra * 2 ^ 23 + elem % 2 ^ 32 * 2 ^ 32)

/-- The checks of R265 on a command with its descriptor. Log 50 (DEDUCED). -/
def Engine.check (e : Engine) (bound : Nat) : Except Trap Unit := do
  if !e.sound then throw { cause := .engineDesc, detail := e.detail 0 0 }
  if (e.cmd == .gth || e.cmd == .sct) && e.base 2 % e.indexSize != 0 then
    throw { cause := .engineAlign, detail := e.detail 0 0, faddr := e.base 2 }
  for (k, lo, n) in e.regions do
    if e.inScratch k then
      let _ ← scratchSpan bound (e.place k lo) n

/-- A command that has not begun. -/
def Engine.blank (cmd : EngineCmd) (off : Nat) (dw : List W64) (sB sC : W64) (sc : Scope) : Engine :=
  { cmd := cmd, descOff := off, dw := dw, sB := sB, sC := sC, scope := sc, started := false, i := 0, j := 0, m := 0,
    rowPut := false, winA := [], winB := [], rest := none, part := none, buf := [], closed := false, prevA := none, prevB := none, finished := false, lowWater := none }

/-- The issue of a command (R236, R261, R265). -/
def engineIssue (cmd : EngineCmd) (a b c : Reg) (slot : SlotNo) (sc : Scope) : State → Out :=
  lift (fun s i u => do
    let off := (i.getS a).toNat
    let bound := s.scratchBound i.key.ctx
    let blank : Engine := .blank cmd off [] (i.getS b) (i.getS c) sc
    if off % 8 ≠ 0 then throw { cause := .engineAlign, detail := blank.detail 0 0 }
    let o ← scratchSpan bound off 128
    let (bs, _) ← s.readScratch i o 128
    let e : Engine :=
      { blank with dw := (upFrom 0 16).map (fun k => BitVec.ofNat 64 (numberOf ((bs.drop (8 * k)).take 8))) }
    e.check bound
    issue s i u slot (.engine e) [])

def execCpy (a b c : Reg) (slot : SlotNo) (sc : Scope) : State → Out := engineIssue .cpy a b c slot sc
def execGth (a b c : Reg) (slot : SlotNo) (sc : Scope) : State → Out := engineIssue .gth a b c slot sc
def execSct (a b c : Reg) (slot : SlotNo) (sc : Scope) : State → Out := engineIssue .sct a b c slot sc
def execIsect (a b c : Reg) (slot : SlotNo) (sc : Scope) : State → Out := engineIssue .isect a b c slot sc
def execSmerge (a b c : Reg) (slot : SlotNo) (sc : Scope) : State → Out := engineIssue .smerge a b c slot sc
def execCmpct (a b c : Reg) (slot : SlotNo) (sc : Scope) : State → Out := engineIssue .cmpct a b c slot sc

/-! ### Places of the inputs (R266 to R270) -/

/-- The four indices of an element of `cpy` by its linear index (R266). -/
def Engine.indices (e : Engine) (l m : Nat) : Nat :=
  match m with
  | 0 => l % e.extent 0
  | 1 => l / e.extent 0 % e.extent 1
  | 2 => l / e.extent 0 / e.extent 1 % e.extent 2
  | _ => l / e.extent 0 / e.extent 1 / e.extent 2

/-- The displacement of an element of `cpy`. -/
def Engine.boxDisp (e : Engine) (st : Nat → Int) (l : Nat) : Int :=
  [0, 1, 2, 3].foldl (fun acc m => acc + (e.indices l m : Int) * st m) 0

/-- The number of elements of `cpy`. -/
def Engine.boxCount (e : Engine) : Nat := e.extent 0 * e.extent 1 * e.extent 2 * e.extent 3

/-- The bytes from one key or record of `isect` or `smerge` to the next. -/
def Engine.unit (e : Engine) : Nat := if e.cmd == .smerge then e.recordSize else e.size

/-- How many entries an input has: input A holds the elements or the keys of LOC0, input B (`second`) the keys of LOC1 or
the index words of LOC2. -/
def Engine.total (e : Engine) (second : Bool) : Nat :=
  match e.cmd with
  | .cpy => if second then 0 else e.boxCount
  | .gth | .sct => e.countA
  | .isect | .smerge => if second then e.countB else e.countA
  | .cmpct => if second then 0 else e.extent 0 * e.extent 1

/-- The entry of an input that the cursor stands at. -/
def Engine.pos (e : Engine) (second : Bool) : Nat :=
  match e.cmd with
  | .cmpct => e.i * e.extent 0 + e.j
  | .isect | .smerge => if second then e.j else e.i
  | _ => e.i

/-- The window of an input. -/
def Engine.win (e : Engine) (second : Bool) : List (Nat × Nat × Bool) := if second then e.winB else e.winA

/-- The staged entry of an input (R272): its value and whether it is poisoned. -/
def Engine.staged (e : Engine) (second : Bool) (idx : Nat) : Option (Nat × Bool) :=
  ((e.win second).find? (fun x => x.1 == idx)).map (·.2)

/-- The first entry of an input, from the cursor on, that is not staged. -/
def Engine.unread (e : Engine) (second : Bool) : Nat :=
  (e.win second).foldl (fun acc x => max acc (x.1 + 1)) (e.pos second)

/-- The windows without what lies behind the cursor. -/
def Engine.trim (e : Engine) : Engine :=
  { e with winA := e.winA.filter (fun x => decide (e.pos false ≤ x.1)), winB := e.winB.filter (fun x => decide (e.pos true ≤ x.1)) }

/-- Whether `smerge` takes its next record from A (R269): B is exhausted, or A's key is not above B's. -/
def Engine.fromA (e : Engine) : Bool :=
  decide (e.j = e.countB) || (decide (e.i < e.countA) &&
    match e.staged false e.i, e.staged true e.j with
    | some a, some b => decide (a.1 ≤ b.1)
    | _, _ => false)

/-- Where an entry of an input stands: location, displacement and bytes. `none` as the input is the rest of the record that
`smerge` takes, behind its key, and a fault of an access to it names the address behind the key (R271). An element of `gth` has a
place once its index word has been read (R103). Log 68 (DESIGN CHOICE). -/
def Engine.source (e : Engine) (input : Option Bool) (idx : Nat) : Option (Nat × Int × Nat) :=
  match e.cmd, input with
  | .cpy, _ => some (0, e.boxDisp e.strideS idx, e.size)
  | .gth, some false =>
    match e.staged true idx with
    | some (x, false) => some (0, (x * e.size : Nat), e.size)
    | _ => none
  | .sct, some false => some (0, idx * e.strideS 0, e.size)
  | .gth, _ | .sct, _ => some (2, (idx * e.indexSize : Nat), e.indexSize)
  | .isect, some k | .smerge, some k => some (k.toNat, (idx * e.unit : Nat), e.size)
  | .smerge, none =>
    some (if e.fromA then 0 else 1, ((if e.fromA then e.i else e.j) * e.unit + e.size : Nat), e.unit - e.size)
  | .isect, none => none
  | .cmpct, _ => some (0, (idx / e.extent 0 : Nat) * e.strideS 1 + (idx % e.extent 0 : Nat) * e.strideS 0, e.size)

/-! ### The fields of a fault (R365) -/

/-- The cursor as VALUE holds it. -/
def Engine.cursor (e : Engine) : Nat := e.i % 2 ^ 32 + e.j % 2 ^ 32 * 2 ^ 32

/-- A fault of the order of keys, or of a field that would overflow (R365). -/
def Engine.fieldTrap (e : Engine) (c : Cause) (f offending : Nat) : Trap :=
  { cause := c, faddr := offending, detail := e.detail f e.m, value := BitVec.ofNat 64 e.cursor }

/-- The element number that a fault at the cursor records. -/
def Engine.elem (e : Engine) : Nat :=
  match e.cmd with
  | .cpy | .gth | .sct => e.i
  | _ => e.m

/-- The VALUE that a fault at the cursor records: the index word, where one has been read, or the cursor. -/
def Engine.atValue (e : Engine) : Nat :=
  match e.cmd with
  | .cpy => 0
  | .gth | .sct =>
    match e.staged true e.i with
    | some (x, false) => x
    | _ => 0
  | _ => e.cursor

/-- A fault of an access at a displacement from location k: the address is that of the element, whichever of its pages or
bytes it is that faults (R365). Log 50 (DEDUCED). -/
def Engine.elementTrap (e : Engine) (k : Nat) (disp : Int) (elem value : Nat) (t : Trap) : Trap :=
  { t with faddr := (e.place k disp).toNat, detail := e.detail 0 elem, value := BitVec.ofNat 64 value }

/-! ### Accesses to global memory (R89, R386, R387) -/

/-- The runs of `n` bytes at a global address that lie within one page each: address and length. -/
def pageRuns (va n : Nat) : List (Nat × Nat) :=
  let room := 4096 - va % 4096
  if n ≤ room then [(va, n)] else [(va, room), ((va + room) % 2 ^ 72, n - room)]

/-- The physical runs of an access (R386), or its fault. -/
def State.elementRuns (s : State) (o : Op) (a : Access) (va n : Nat) : Except Trap (List (Nat × Nat)) :=
  (pageRuns va n).mapM (fun (v, len) =>
    match s.locate o.site o.key.ctx a v len with
    | .ok pa => .ok (pa, len)
    | .error e => .error (e.trap a v))

/-- The walks that an access to some runs made, the first that does not translate among them, kept (R385, R410). -/
def State.noteEach (s : State) (o : Op) (a : Access) (runs : List (Nat × Nat)) : State :=
  match runs with
  | [] => s
  | (va, n) :: rest =>
    let s1 := s.noteFetch o.site o.key.ctx va
    match s.locate o.site o.key.ctx a va n with
    | .error _ => s1
    | .ok _ => s1.noteEach o a rest

/-- The walks that an access made, kept. -/
def State.noteRuns (s : State) (o : Op) (a : Access) (va n : Nat) : State := s.noteEach o a (pageRuns va n)

/-- The physical address of a byte of an access. -/
def runByte (runs : List (Nat × Nat)) (b : Nat) : Nat :=
  match runs with
  | [] => 0
  | (pa, n) :: t => if b < n ∨ t.isEmpty then pa + b else runByte t (b - n)

/-- The bytes that one atomic piece of an access has (R89): an element or a record's field of `u` bytes where it is naturally
aligned, else one byte. -/
def pieceSize (va u : Nat) : Nat := if u ≤ 8 ∧ va % u = 0 then u else 1

/-- Bytes written at a physical address; a write that a host refuses is dropped (R387, R412). Log 16 (DESIGN CHOICE). -/
def State.runWrite (s : State) (o : Op) (pa n v : Nat) (psn : Bool) : State :=
  if 2 ^ 48 ≤ pa ∧ !Config.hostAnswers s.tick then s.healthEvent 0x07 (sourceWord o.site o.key.ctx)
  else s.physStore pa n v psn

/-- The poison of bytes that were written in pieces (R104). Log 49 (DESIGN CHOICE). -/
def State.runMark (s : State) (pa n : Nat) (psn : Bool) : State :=
  if inBox pa then
    if boxBuffer (pa - rmBoxBase) then { s with mem := s.mem.markWritten pa n psn } else s
  else if pa < 2 ^ 48 then { s with mem := s.mem.markWritten pa n psn }
  else { s with host := s.host.markWritten (s.busAddress pa) n psn }

/-! ### Scratch, where others race with a command (R102, R196) -/

/-- Bytes of scratch read by a command, whether any is poisoned, and the command that has found them (R102, R104). -/
def State.scratchRead (s : State) (e : Engine) (a n : Nat) : (Nat × Bool) × Engine :=
  let r := e.race.look s.scratch a n
  let m := r.view s.scratch
  ((m.read a n, m.poisoned a n), { e with race := r })

/-- Bytes of scratch written by a command, where a commit that races with it, or an MU instruction with which it races, has not
the unit (R102, R104, R196). -/
def State.scratchWrite (s : State) (o : Op) (e : Engine) (a n v : Nat) (psn : Bool) : State × Engine :=
  let s1 := s.meetRaces o.site o.key.ctx true (bytesAt a n v) psn
  let held := (unitsOf a n).map (fun u => (u, unitMask u (s1.shielded o.site o.key.ctx true)))
  let r := { e.race with kept := e.race.kept ++ held }
  ({ s1 with scratch := r.write s1.scratch a n v psn }, { e with race := e.race.written a n v psn })

/-! ### Reading an input (R101 to R103) -/

/-- An entry of an input, or the rest of a record, taken into the command's windows. -/
def Engine.take (e : Engine) (input : Option Bool) (idx : Nat) (x : Nat × Bool) : Engine :=
  let e1 : Engine := { e with part := none }
  match input with
  | none => { e1 with rest := some x }
  | some false => { e1 with winA := e1.winA ++ [(idx, x)] }
  | some true => { e1 with winB := e1.winB ++ [(idx, x)] }

/-- Some of the outstanding pieces of a read of global memory performed, all of them in the order of the home slices; none
while a request of the cell stands before one of them (R89, R92, R94, R101). Log 49 (DESIGN CHOICE). -/
def State.readPieces (s : State) (o : Op) (e : Engine) (p : EnginePart) (n u : Nat) : Option Engine :=
  let g := pieceSize p.va u
  let bs := tornBytes s.tick (n / g) p.seen
  if bs.all (fun b => s.engineMay o (runByte p.runs (b * g)) g) then
    let p1 := bs.foldl (fun (p : EnginePart) b =>
      let x := s.deviceRead (runByte p.runs (b * g)) g
      { p with seen := p.seen ||| 2 ^ b, got := p.got + x.1 % 256 ^ g * 256 ^ (b * g), bad := p.bad || x.2 }) p
    some (if p1.seen = allBytes (n / g) then e.take p.input p.idx (p1.got, p1.bad) else { e with part := some p1 })
  else none

/-- A read of an input: scratch whole, global memory in the pieces that it tears into. It answers none while the access must
wait, and a fault as the fields of R365 have it. -/
def State.readInput (s : State) (o : Op) (e : Engine) (input : Option Bool) (idx : Nat) :
    Except Trap (Option (State × Engine)) :=
  match e.source input idx with
  | none => .ok none
  | some (k, disp, n) =>
    if e.inScratch k then
      match scratchSpan (s.scratchBound o.key.ctx) (e.place k disp) n with
      | .error t => .error (e.elementTrap k disp e.elem e.atValue t)
      | .ok off =>
        let (x, e1) := s.scratchRead e (scratchKey o.site o.key.ctx off) n
        .ok (some (s, e1.take input idx x))
    else
      let va := (e.place k disp).toNat
      match s.elementRuns o .engineRead va n with
      | .error t => .error (e.elementTrap k disp e.elem e.atValue t)
      | .ok runs =>
        .ok ((s.readPieces o e ⟨input, idx, va, runs, 0, 0, false⟩ n (if input.isNone then e.size else n)).map
          (fun e1 => (s.noteRuns o .engineRead va n, e1)))

/-- The walks of a read of an input that faults, kept (R385, R410). -/
def State.noteInput (s : State) (o : Op) (e : Engine) (input : Option Bool) (idx : Nat) : State :=
  match e.source input idx with
  | none => s
  | some (k, disp, n) => if e.inScratch k then s else s.noteRuns o .engineRead (e.place k disp).toNat n

/-- A read that has begun, gone on with under the translation that it keeps (R386). -/
def State.continueRead (s : State) (o : Op) (e : Engine) (p : EnginePart) : Option Engine :=
  match e.source p.input p.idx with
  | none => none
  | some (_, _, n) => s.readPieces o e p n (if p.input.isNone then e.size else n)

/-! ### Results (R266 to R270) -/

/-- Whether every element of a command has been performed. -/
def Engine.allPerformed (e : Engine) : Bool :=
  match e.cmd with
  | .cpy => decide (e.boxCount ≤ e.i)
  | .gth | .sct => decide (e.countA ≤ e.i)
  | .isect => !(decide (e.i < e.countA) && decide (e.j < e.countB))
  | .smerge => !(decide (e.i < e.countA) || decide (e.j < e.countB))
  | .cmpct => decide (e.extent 1 ≤ e.i)

/-- A result put into the buffer behind those that stand there. -/
def Engine.push (e : Engine) (k : Nat) (disp : Int) (n v : Nat) (psn : Bool) : Engine :=
  { e with buf := e.buf ++ [{ loc := k, disp := disp, n := n, v := v, psn := psn, elem := e.elem, value := e.atValue }] }

/-- What a command does next: it needs an entry of an input, or it has taken one more turn of its loop. -/
inductive EngineTurn where
  | need (input : Option Bool) (idx : Nat)
  | turned (e : Engine)
  deriving DecidableEq, Repr

/-- A poisoned key or `cmpct` input (R104, R265). -/
def Engine.poisonTrap (e : Engine) (second : Bool) : Trap :=
  match e.source (some second) (e.pos second) with
  | some (k, disp, _) => e.elementTrap k disp e.elem e.atValue { cause := .poisonConsumed }
  | none => { cause := .poisonConsumed }

/-- The next element of `cpy` (R266). -/
def Engine.cpyTurn (e : Engine) : EngineTurn :=
  match e.staged false e.i with
  | none => .need (some false) e.i
  | some (v, p) => .turned { (e.push 1 (e.boxDisp e.strideT e.i) e.size v p) with i := e.i + 1 }.trim

/-- The next element of `gth` or `sct`, whose index word is read once (R103, R267). A poisoned index word stops it. -/
def Engine.indexedTurn (e : Engine) : Except Trap EngineTurn :=
  match e.staged true e.i with
  | none => .ok (.need (some true) e.i)
  | some (_, true) =>
    .error (e.elementTrap 2 (e.i * e.indexSize : Nat) e.i 0 { cause := .poisonIndex })
  | some (x, false) =>
    match e.staged false e.i with
    | none => .ok (.need (some false) e.i)
    | some (v, p) =>
      let d : Int := if e.cmd == EngineCmd.gth then e.i * e.strideT 0 else (x * e.size : Nat)
      .ok (.turned { e.push 1 d e.size v p with i := e.i + 1 }.trim)

/-- One round of the loop of `isect` (R268): A's key is read and its order checked before B's is read. -/
def Engine.isectTurn (e : Engine) : Except Trap EngineTurn :=
  match e.staged false e.i with
  | none => .ok (.need (some false) e.i)
  | some (_, true) => .error (e.poisonTrap false)
  | some (a, false) =>
    if (e.prevA.map (fun p => decide (a ≤ p))).getD false then .error (e.fieldTrap .streamOrder 3 a)
    else
      match e.staged true e.j with
      | none => .ok (.need (some true) e.j)
      | some (_, true) => .error (e.poisonTrap true)
      | some (b, false) =>
        if (e.prevB.map (fun p => decide (b ≤ p))).getD false then .error (e.fieldTrap .streamOrder 4 b)
        else if a = b then
          if e.m = e.cap then .error (e.fieldTrap .sparseFieldOverflow 0 e.m)
          else
            .ok (.turned { (e.push 2 (8 + 8 * e.m : Nat) 8 (e.i % 2 ^ 32 + e.j % 2 ^ 32 * 2 ^ 32) false) with
              i := e.i + 1, j := e.j + 1, m := e.m + 1, prevA := some a, prevB := some b }.trim)
        else if a < b then .ok (.turned { e with i := e.i + 1, prevA := some a }.trim)
        else .ok (.turned { e with j := e.j + 1, prevB := some b }.trim)

/-- The record that `smerge` takes, of a key and of what stands behind it. Poison behind a clean key poisons every unit of the
record that is written, the key's too (R104). Log 68 (DESIGN CHOICE). -/
def Engine.putRecord (e : Engine) (k : Nat) (rest : Nat × Bool) : Engine :=
  let e1 := e.push 2 (e.m * e.recordSize : Nat) e.recordSize (k + rest.1 * 256 ^ e.size) rest.2
  if e.fromA then { e1 with i := e.i + 1, m := e.m + 1, prevA := some k, rest := none }.trim
  else { e1 with j := e.j + 1, m := e.m + 1, prevB := some k, rest := none }.trim

/-- One round of the loop of `smerge` (R269): the keys at the cursor, then the rest of the record that is taken. -/
def Engine.smergeTurn (e : Engine) : Except Trap EngineTurn :=
  let a := if e.i < e.countA then e.staged false e.i else some (0, false)
  let b := if e.j < e.countB then e.staged true e.j else some (0, false)
  match a, b with
  | none, _ => .ok (.need (some false) e.i)
  | some (_, true), _ => .error (e.poisonTrap false)
  | some _, none => .ok (.need (some true) e.j)
  | some _, some (_, true) => .error (e.poisonTrap true)
  | some (a, false), some (b, false) =>
    let k := if e.fromA then a else b
    if ((if e.fromA then e.prevA else e.prevB).map (fun p => decide (k < p))).getD false then
      .error (e.fieldTrap .streamOrder (if e.fromA then 3 else 4) k)
    else if e.recordSize = e.size then .ok (.turned (e.putRecord k (0, false)))
    else
      match e.rest with
      | none => .ok (.need none (if e.fromA then e.i else e.j))
      | some r => .ok (.turned (e.putRecord k r))

/-- A row offset of `cmpct` put (R270). -/
def Engine.putOffset (e : Engine) (r : Nat) : Except Trap Engine :=
  if 256 ^ e.offsetSize ≤ e.m then .error (e.fieldTrap .sparseFieldOverflow 1 e.m)
  else .ok (e.push 3 (r * e.offsetSize : Nat) e.offsetSize e.m false)

/-- The next offset or element of `cmpct` (R270). Log 50 (DEDUCED). -/
def Engine.cmpctTurn (e : Engine) : Except Trap EngineTurn :=
  if !e.rowPut then
    match e.putOffset e.i with
    | .error t => .error t
    | .ok e1 => .ok (.turned { e1 with rowPut := true })
  else
    let next (e : Engine) : Engine :=
      (if e.j + 1 < e.extent 0 then { e with j := e.j + 1 } else { e with i := e.i + 1, j := 0, rowPut := false }).trim
    match e.staged false (e.pos false) with
    | none => .ok (.need (some false) (e.pos false))
    | some (_, true) => .error (e.poisonTrap false)
    | some (x, false) =>
      if x = 0 then .ok (.turned (next e))
      else if 256 ^ e.columnSize ≤ e.j then .error (e.fieldTrap .sparseFieldOverflow 2 e.j)
      else
        .ok (.turned (next { ((e.push 2 (e.m * e.columnSize : Nat) e.columnSize e.j false).push 1
          (e.m * e.size : Nat) e.size x false) with m := e.m + 1 }))

/-- What follows the last element: the count of `isect`, the final offset of `cmpct` (R268, R270). -/
def Engine.close (e : Engine) : Except Trap Engine :=
  match e.cmd with
  | .isect => .ok { (e.push 2 0 8 e.m false) with closed := true }
  | .cmpct =>
    match e.putOffset e.i with
    | .error t => .error t
    | .ok e1 => .ok { e1 with closed := true }
  | _ => .ok { e with closed := true }

/-- The next turn of a command that is not closed, or the fault that stops it. -/
def Engine.turn (e : Engine) : Except Trap EngineTurn :=
  if e.allPerformed then e.close.map .turned
  else
    match e.cmd with
    | .cpy => .ok e.cpyTurn
    | .gth | .sct => e.indexedTurn
    | .isect => e.isectTurn
    | .smerge => e.smergeTurn
    | .cmpct => e.cmpctTurn

/-! ### Writing results (R89, R101, R102, R104) -/

/-- The oldest result of a command written, whole or in some of the pieces that it tears into; none while the write must
wait, and a fault as R365 has it. Log 49 (DESIGN CHOICE). -/
def State.writeOldest (s : State) (o : Op) (e : Engine) : Except Trap (Option (State × Engine)) :=
  match e.buf with
  | [] => .ok none
  | x :: rest =>
    if e.inScratch x.loc then
      match scratchSpan (s.scratchBound o.key.ctx) (e.place x.loc x.disp) x.n with
      | .error t => .error (e.elementTrap x.loc x.disp x.elem x.value t)
      | .ok off =>
        let (s1, e1) := s.scratchWrite o e (scratchKey o.site o.key.ctx off) x.n x.v x.psn
        .ok (some (s1, { e1 with buf := rest }))
    else
      let va := (e.place x.loc x.disp).toNat
      match if x.put = 0 then s.elementRuns o .engineWrite va x.n else .ok x.runs with
      | .error t => .error (e.elementTrap x.loc x.disp x.elem x.value t)
      | .ok runs =>
        let g := pieceSize va (if e.cmd == .smerge then e.size else x.n)
        let bs := tornBytes s.tick (x.n / g) x.put
        if bs.all (fun b => s.engineMay o (runByte runs (b * g)) g) then
          let s1 := bs.foldl (fun s b => s.runWrite o (runByte runs (b * g)) g (x.v / 256 ^ (b * g) % 256 ^ g) x.psn)
            (if x.put = 0 then s.noteRuns o .engineWrite va x.n else s)
          let put := bs.foldl (fun acc b => acc ||| 2 ^ b) x.put
          if put = allBytes (x.n / g) then
            .ok (some (runs.foldl (fun s r => s.runMark r.1 r.2 x.psn) s1, { e with buf := rest }))
          else .ok (some (s1, { e with buf := { x with put := put, va := va, runs := runs } :: rest }))
        else .ok none

/-! ### The low-water address (R273) -/

/-- The displacement of a position in a nest of strides: stride, position and count of each dimension, innermost first. -/
def nestAt (dims : List (Int × Nat × Nat)) : Int := (dims.map (fun d => (d.2.1 : Int) * d.1)).sum

/-- The least of x × stride for x from `p` to `n` − 1. -/
def leastStep (st : Int) (p n : Nat) : Int := min ((p : Int) * st) (((n : Int) - 1) * st)

/-- The least displacement behind a position in a nest, when anything lies behind it. -/
def restAfter (dims : List (Int × Nat × Nat)) : Option Int :=
  match dims with
  | [] => none
  | (st, p, n) :: outer =>
    let here : Option Int := if p + 1 < n then some (leastStep st (p + 1) n + nestAt outer) else none
    let later := (restAfter outer).map (fun d => d + leastStep st 0 n)
    match here, later with
    | some x, some y => some (min x y)
    | some x, none => some x
    | none, y => y

/-- The least displacement from a position in a nest on. -/
def restMin (dims : List (Int × Nat × Nat)) : Int :=
  match restAfter dims with
  | some d => min (nestAt dims) d
  | none => nestAt dims

/-- The same nest with every stride reversed, for the greatest displacement. -/
def nestBack (dims : List (Int × Nat × Nat)) : List (Int × Nat × Nat) := dims.map (fun d => (-d.1, d.2))

/-- The nest of LOC0's displacements at an entry of input A, for the commands that read LOC0 by strides. -/
def Engine.nest (e : Engine) (idx : Nat) : List (Int × Nat × Nat) :=
  match e.cmd with
  | .cpy => [0, 1, 2, 3].map (fun m => (e.strideS m, e.indices idx m, e.extent m))
  | .sct => [(e.strideS 0, idx, e.countA)]
  | .isect | .smerge => [((e.unit : Int), idx, e.countA)]
  | .cmpct => [(e.strideS 0, idx % e.extent 0, e.extent 0), (e.strideS 1, idx / e.extent 0, e.extent 1)]
  | .gth => []

/-- The first entry of input A of which something is still to be read: a record of `smerge` counts until its rest is read. -/
def Engine.outstanding (e : Engine) : Nat :=
  if e.cmd == .smerge && e.recordSize != e.size then e.i + (e.rest.isSome && e.fromA).toNat else e.unread false

/-- The lowest address that bytes at displacements from LOC0 touch, when they reach from `lo` to below `hi`: the lowest of
them, unless they pass the end of the address space, where each entry counts by itself. -/
def Engine.lowest (e : Engine) (lo hi : Int) (disps : List Int) : Nat :=
  let size : Int := 2 ^ 72
  let at_ (d : Int) : Int := e.base 0 + d
  if at_ lo / size = at_ (hi - 1) / size then (at_ lo % size).toNat
  else
    ((disps.map (fun d =>
      let a := (at_ d % size).toNat
      if 2 ^ 72 < a + e.unit then 0 else a)).min?).getD 0

/-- The lowest virtual address of LOC0 that an element not yet read may touch, when there is such an element (R273). An
element of `gth` whose index word has not been read may stand anywhere that an index reaches. -/
def Engine.leastUnread (e : Engine) : Option Nat :=
  let first := e.outstanding
  let count := e.total false - first
  if count = 0 then none
  else if e.cmd == .gth then
    let known := (upFrom first count).filterMap (fun k => (e.source (some false) k).map (·.2.1))
    if e.unread true = e.countA then known.min?.map (fun lo => e.lowest lo ((known.max?).getD 0 + e.size) known)
    else some (if 2 ^ 72 < e.base 0 + 256 ^ e.indexSize * e.size then 0 else e.base 0)
  else
    let d := e.nest first
    some (e.lowest (restMin d) (-restMin (nestBack d) + e.unit)
      ((upFrom first count).filterMap (fun k => (e.source (some false) k).map (·.2.1))))

/-- A command with its low-water address as R273 has it. -/
def Engine.publish (e : Engine) : Engine :=
  { e with lowWater :=
      if e.windowed && !e.inScratch 0 && !e.finished then e.leastUnread.map (BitVec.ofNat 72) else none }

/-! ### Steps -/

/-- The engine command of an operation. -/
def Op.engine (o : Op) : Option Engine :=
  match o.kind with
  | .engine e => some e
  | _ => none

/-- A command put in its operation, with its low-water address. -/
def State.setEngine (s : State) (op : Nat) (e : Engine) : State :=
  s.updateOp op (fun o => { o with kind := .engine e.publish })

/-- Whether a command is running: started, neither finished nor held, in a context that is not drained. A drain lets an
access that has begun come to its end (R274, R389). -/
def State.engineRuns (s : State) (o : Op) (e : Engine) (begun : Bool) : Bool :=
  e.started && !e.finished && o.heldOp.isNone && (begun || !s.drained o.key.ctx)

/-- Whether some pieces of the oldest result have been written and others not. -/
def Engine.halfWritten (e : Engine) : Bool := (e.buf.head?.map (fun x => x.put != 0)).getD false

/-- A queued command begun: in the order of commits and of programs, at most eight at once, those that a fault holds among them
(R272). Log 64 (DESIGN CHOICE). -/
def execEngineCommandStart (op : Nat) (s : State) : Out :=
  match s.op op with
  | none => .next s
  | some o =>
    match o.engine with
    | none => .next s
    | some e =>
      let others := s.ops.filterMap (fun x => if x.site == o.site && x.id != op then x.engine.map (fun y => (x, y)) else none)
      let earlier : Bool := others.any (fun (x, y) => !y.started
        && (decide (x.seq < o.seq) || (x.seq == o.seq && decide (x.prog < o.prog))))
      if e.started || earlier || s.drained o.key.ctx
          || decide (8 ≤ (others.filter (fun (_, y) => y.started && !y.finished)).length) then .next s
      else .next (s.setEngine op { e with started := true })

/-- One turn of a command, or the read that it needs; a turn needs room in the buffer (R272). -/
def State.performTurn (s : State) (o : Op) (e : Engine) : Except Trap (Option (State × Engine)) :=
  match e.part with
  | some p => .ok ((s.continueRead o e p).map (fun e1 => (s, e1)))
  | none =>
    if e.closed || decide (62 < e.buf.length) then .ok none
    else
      match e.turn with
      | .error t => .error t
      | .ok (.turned e1) => .ok (some (s, e1))
      | .ok (.need input idx) => s.readInput o e input idx

/-- An entry of an input read ahead of the cursor; an access that faults raises nothing, and its walks are kept (R271, R272, R410).
Log 49 (DESIGN CHOICE). -/
def State.stageAhead (s : State) (o : Op) (e : Engine) (second : Bool) : Option (State × Engine) :=
  if e.part.isNone && !e.closed && decide ((e.win second).length < 64) && decide (e.unread second < e.total second) then
    match s.readInput o e (some second) (e.unread second) with
    | .ok r => r
    | .error _ => some (s.noteInput o e (some second) (e.unread second), e)
  else none

/-- A step of a running command: a turn of its loop or a read for it, a read ahead of the cursor, or a write of its oldest
result (R266 to R273). -/
def execEngineElement (op : Nat) (act : EngineAct) (s : State) : Out :=
  match s.op op with
  | none => .next s
  | some o =>
    match o.engine with
    | none => .next s
    | some e =>
      let begun : Bool :=
        match act with
        | .perform => e.part.isSome
        | .stage _ => false
        | .write => e.halfWritten
      let r : Except Trap (Option (State × Engine)) :=
        match act with
        | .perform => s.performTurn o e
        | .stage second => .ok (s.stageAhead o e second)
        | .write => s.writeOldest o e
      if s.engineRuns o e begun then
        match r with
        | .ok (some (s1, e1)) => .next (s1.setEngine op e1)
        | _ => .next s
      else .next s

/-- A command stopped at the element that faults, and held (R265, R271). -/
def State.stopEngine (s : State) (o : Op) (t : Trap) : State :=
  if o.dropped then s.dropOp o.id
  else
    s.faultOp o
      { cause := t.cause.code, detail := t.detail, faddr := BitVec.ofNat 72 t.faddr, value := t.value, level := t.level } 0 none

/-- The fault at which a command stops: that of its oldest result, or, when every result before is written, that of the next
turn (R271). -/
def State.engineFault (s : State) (o : Op) (e : Engine) : Option Trap :=
  match if e.buf.isEmpty then s.performTurn o e else s.writeOldest o e with
  | .error t => some t
  | .ok _ => none

/-- The walks of the access at whose fault a command stops, kept (R385, R410). -/
def State.noteFault (s : State) (o : Op) (e : Engine) : State :=
  match e.buf, e.part, e.turn with
  | x :: _, _, _ => if e.inScratch x.loc then s else s.noteRuns o .engineWrite (e.place x.loc x.disp).toNat x.n
  | [], none, .ok (.need input idx) => s.noteInput o e input idx
  | [], _, _ => s

/-- A running command stops at the fault that it has met; a dropped one ends there (R265, R271). -/
def execEngineFaultStop (op : Nat) (s : State) : Out :=
  match s.op op with
  | none => .next s
  | some o =>
    match o.engine with
    | none => .next s
    | some e =>
      if s.engineRuns o e false then
        match s.engineFault o e with
        | some t => .next ((s.noteFault o e).stopEngine o t)
        | none => .next s
      else .next s

/-- The end of a command whose results are all written: it can signal (R268, R270, R272, R273). -/
def execEngineCommandComplete (op : Nat) (s : State) : Out :=
  match s.op op with
  | none => .next s
  | some o =>
    match o.engine with
    | none => .next s
    | some e =>
      if s.engineRuns o e false && e.closed && e.buf.isEmpty && e.part.isNone then
        .next (s.setEngine op { e with finished := true })
      else .next s

end Sys2Proof.Machine
end

