-- ==== Sys2Proof/Machine/Matrix.lean ====
section
/-! DEFINITION. The matrix unit, major 0x38: tile descriptors (R123 to R125, R199 to R201), the issue checks (R194, R202 to
R209), the matrix sum (R71 to R75), and the steps MU_PERFORM and MU_COMPLETION (R195 to R197, R203 to R208). -/

namespace Sys2Proof.Machine

/-! ### Tile descriptors (R123, R124) -/

/-- TD0 and TD1. -/
abbrev Td := W64 × W64

/-- The pair of registers that a descriptor field names; pair 0 reads as zeros (R117). -/
def Inst.getTd (i : Inst) (p : PairNo) : Td :=
  if p = 0 then (0, 0) else (i.getS (BitVec.ofNat 5 (2 * p.toNat)), i.getS (BitVec.ofNat 5 (2 * p.toNat + 1)))

def tdBase (t : Td) : Nat := wfield t.1 0 20
def tdRowPitch (t : Td) : Nat := wfield t.1 20 16
def tdTilePitch (t : Td) : Nat := wfield t.1 36 20
def tdRot (t : Td) : Nat := wfield t.1 56 3
def tdFmt (t : Td) : Nat := wfield t.2 0 5
def tdSparse (t : Td) : Nat := wfield t.2 5 3
def tdDown (t : Td) : Bool := wbit t.2 8
def tdScale (t : Td) : Nat := wfield t.2 16 20
def tdScalePitch (t : Td) : Nat := wfield t.2 36 16
/-- K (R199). -/
def tdK (t : Td) : Nat := wfield t.2 52 9 + 1

/-- Whether no reserved bit is set and FMT and SPARSE are assigned (R50, R61, R125). -/
def tdSound (t : Td) : Bool :=
  wfield t.1 59 5 == 0 && wfield t.2 9 7 == 0 && wfield t.2 61 3 == 0 && decide (tdFmt t ≤ 0x10) && decide (tdSparse t ≤ 5)

/-- The element width of a format code (R50). -/
def fmtWidth (c : Nat) : Nat := [64, 32, 16, 16, 8, 8, 6, 6, 4, 8, 8, 6, 6, 4, 8, 4, 4].getD c 64

/-- The group size of a format code (R50). -/
def fmtGroup (c : Nat) : Nat := [2, 4, 8, 8, 16, 16, 16, 16, 16, 32, 32, 32, 32, 32, 16, 16, 64].getD c 2

/-- Whether a code is an MX format. -/
def fmtIsMx (c : Nat) : Bool := decide (0x09 ≤ c ∧ c ≤ 0x0D)

/-- The stored elements of a group of 24 (R61). -/
def sparseCount (m : Nat) : Nat := [24, 2, 4, 6, 8, 12].getD m 24

/-- The bytes of a stored row of n elements of w bits (R199). -/
def rowBytes (n w : Nat) : Nat := if w = 6 then 3 * ((n + 3) / 4) else (n * w + 7) / 8

/-- Rotate (R82). -/
def rotate (o i k : Nat) : Nat :=
  let bank := o / 64 % 32
  o - bank * 64 + (bank + i * k) % 32 * 64

/-- The runs of a stored row within one line each, from byte `beta` on: offset, first byte, length (R82, R199). -/
def rowRuns (t : Td) (row beta n fuel : Nat) : List (Nat × Nat × Nat) :=
  match fuel with
  | 0 => []
  | f + 1 =>
    if n ≤ beta then []
    else
      let o := tdBase t + row / 64 * tdTilePitch t + row % 64 * tdRowPitch t + beta
      let len := min (n - beta) (64 - o % 64)
      (rotate o (row % 64) (tdRot t), beta, len) :: rowRuns t row (beta + len) n f

/-- The runs of a stored row of n bytes. -/
def rowOf (t : Td) (row n : Nat) : List (Nat × Nat × Nat) := rowRuns t row 0 n (n / 64 + 2)

/-- The elements of a stored row, and the number of stored rows, of an operand (R199). -/
def operandShape (t : Td) : Nat × Nat :=
  let ks := if tdSparse t = 0 then tdK t else tdK t / 24 * sparseCount (tdSparse t)
  if tdDown t then (64, ks) else (ks, 64)

/-- The bytes of the scale area of index r that an operand of the sum requires: offset and count (R200). -/
def scaleRuns (t : Td) (r : Nat) : List (Nat × Nat) :=
  let at_ := tdScale t + r * tdScalePitch t
  (if fmtIsMx (tdFmt t) then [(at_, tdK t / 32)] else [])
    ++ (if tdFmt t = 0x10 then [(at_, tdK t / 64), (at_ + 8, 4)] else [])
    ++ (if tdSparse t ≠ 0 then [(at_ + 16, tdK t / 24 * 3)] else [])

/-- The footprint of an operand of the sum, as offsets and counts (R201). -/
def operandRuns (t : Td) : List (Nat × Nat) :=
  let (n, rows) := operandShape t
  (upFrom 0 rows).flatMap (fun r => (rowOf t r (rowBytes n (fmtWidth (tdFmt t)))).map (fun x => (x.1, x.2.2)))
    ++ (upFrom 0 64).flatMap (scaleRuns t)

/-- The footprint of a tile of 64 rows of 64 elements of w bits. -/
def tileRuns (t : Td) (w : Nat) : List (Nat × Nat) :=
  (upFrom 0 64).flatMap (fun r => (rowOf t r (rowBytes 64 w)).map (fun x => (x.1, x.2.2)))

/-- The footprint of a readout, with its scale bytes (R207). -/
def readoutRuns (t : Td) : List (Nat × Nat) :=
  tileRuns t (fmtWidth (tdFmt t))
    ++ if fmtIsMx (tdFmt t) then (upFrom 0 64).map (fun r => (tdScale t + r * tdScalePitch t, 2)) else []

/-! ### Issue (R194, R202 to R209) -/

/-- The check of R201: the lowest byte of a footprint beyond the carve is recorded. Log 23 (DEDUCED). -/
def checkRuns (bound : Nat) (l : List (Nat × Nat)) : Except Trap Unit :=
  match leastBy id ((l.filter (fun x => decide (0 < x.2 ∧ bound < x.1 + x.2))).map (fun x => max x.1 bound)) with
  | some o => .error { cause := .scratchRange, faddr := o }
  | none => .ok ()

/-- A TILE_FORMAT fault unless a condition holds. -/
def tileFormat (ok : Bool) : Except Trap Unit := if ok then .ok () else .error { cause := .tileFormat }

/-- The class of a format in the table of R204. -/
def fmtClass (c : Nat) : Nat := if c = 0 then 0 else if c = 1 then 1 else if c = 0x0E ∨ c = 0x0F then 3 else 2

/-- The conditions of R204 on two descriptors. -/
def pairingSound (sparse : Bool) (a b : Td) : Bool :=
  let sa := tdSparse a != 0
  let sb := tdSparse b != 0
  fmtClass (tdFmt a) == fmtClass (tdFmt b) && (!sa || decide (2 ≤ fmtClass (tdFmt a))) && (!sb || decide (2 ≤ fmtClass (tdFmt b)))
    && tdK a == tdK b
    && (!(fmtIsMx (tdFmt a) || fmtIsMx (tdFmt b)) || tdK a % 32 == 0)
    && (!(tdFmt a == 0x10 || tdFmt b == 0x10) || tdK a % 64 == 0)
    && (!(sa || sb) || tdK a % 24 == 0)
    && (if sparse then sa || sb else !sa && !sb)

/-- A command with its descriptors and nothing else. -/
def muCommand (cmd : MuCmd) (acc : BitVec 2) (a b : Td) : Mu :=
  { cmd := cmd, acc := acc.toNat, a0 := a.1, a1 := a.2, b0 := b.1, b1 := b.2, aux := false, round := .rne, sat := false, n := 0,
    gslot := 0, out := [], flags := 0, performed := false }

/-- An MU instruction is not the system context's (R193). -/
def userOnly (i : Inst) : Except Trap Unit := if i.key.ctx = 0 then .error { cause := .illegalInstruction } else .ok ()

/-- `mzero` (R203). -/
def execMzero (acc : BitVec 2) (slot : SlotNo) : State → Out :=
  lift (fun s i u => do
    userOnly i
    issue s i u slot (.mu (muCommand .zero acc (0, 0) (0, 0))) [])

/-- The issue of a matrix product (R204). -/
def productIssue (cmd : MuCmd) (sparse : Bool) (acc : BitVec 2) (a b : PairNo) (slot : SlotNo) : State → Out :=
  lift (fun s i u => do
    userOnly i
    let ta := i.getTd a
    let tb := i.getTd b
    tileFormat (tdSound ta && tdSound tb)
    tileFormat (pairingSound sparse ta tb)
    checkRuns (s.scratchBound i.key.ctx) (operandRuns ta)
    checkRuns (s.scratchBound i.key.ctx) (operandRuns tb)
    issue s i u slot (.mu (muCommand cmd acc ta tb)) [])

def execMma (acc : BitVec 2) (a b : PairNo) (slot : SlotNo) : State → Out := productIssue .mma false acc a b slot
def execMmaSp (acc : BitVec 2) (a b : PairNo) (slot : SlotNo) : State → Out := productIssue .mmaSp true acc a b slot

/-- The issue of a copy of a tile (R206). -/
def copyIssue (cmd : MuCmd) (acc : BitVec 2) (a : PairNo) (slot : SlotNo) : State → Out :=
  lift (fun s i u => do
    userOnly i
    let t := i.getTd a
    tileFormat (tdSound t && tdFmt t == 0 && tdSparse t == 0)
    checkRuns (s.scratchBound i.key.ctx) (tileRuns t 64)
    issue s i u slot (.mu (muCommand cmd acc t (0, 0))) [])

def execMld (acc : BitVec 2) (a : PairNo) (slot : SlotNo) : State → Out := copyIssue .ld acc a slot
def execMst (acc : BitVec 2) (a : PairNo) (slot : SlotNo) : State → Out := copyIssue .st acc a slot

/-- `mrd` (R207). Log 21 (DEDUCED). -/
def execMrd (acc : BitVec 2) (a : PairNo) (slot : SlotNo) (r : Round) (sat : Bool) : State → Out :=
  lift (fun s i u => do
    userOnly i
    let t := i.getTd a
    tileFormat (tdSound t && decide (tdFmt t ≤ 0x0F) && tdSparse t == 0 && !(r == .rod && decide (0x08 < tdFmt t)))
    checkRuns (s.scratchBound i.key.ctx) (readoutRuns t)
    issue s i u slot (.mu { muCommand .rd acc t (0, 0) with round := r, sat := sat }) [])

/-- `mrdx` (R208): its graph's slot is pinned from here on. Its issue counts as the last use of the slot, and the MU's calls of the
graph do not (R213). Log 21 (DEDUCED), 64 (DESIGN CHOICE). -/
def execMrdx (acc : BitVec 2) (a b : PairNo) (slot : SlotNo) (n : BitVec 6) (r : Round) (sat : Bool) : State → Out :=
  liftBoth (fun s i u => do
    userOnly i
    let t := i.getTd a
    let y := i.getTd b
    let aux : Bool := b != 0
    tileFormat (tdSound t && (!aux || tdSound y))
    tileFormat (decide (tdFmt t ≤ 0x0F) && tdSparse t == 0 && r != .rod)
    tileFormat (!aux || (tdFmt y == 1 && tdSparse y == 0))
    checkRuns (s.scratchBound i.key.ctx) (readoutRuns t)
    if aux then checkRuns (s.scratchBound i.key.ctx) (tileRuns y 32)
    match s.currentSlot i.site i.key.ctx n.toNat with
    | none => throw (s.unloaded i.key.ctx n.toNat)
    | some g =>
      if g.graph.nvop != (if aux then 2 else 1) then throw { cause := .xopOperands, detail := n.setWidth 64 }
      let i1 ← issue s i u slot
        (.mu { muCommand .rdx acc t y with aux := aux, round := r, sat := sat, n := n.toNat, gslot := g.slot }) []
      return (s.updateSlot i.site g.slot (fun g => { g with pins := g.pins + 1, lastUse := s.tick }),
              { i1 with pins := i1.pins ++ [g.slot] }))

/-! ### Scratch and tiles as the MU sees them -/

/-- A stored row as a number (R199). -/
def State.readRow (s : State) (key : Nat) (t : Td) (row n : Nat) : Nat :=
  ((rowOf t row n).map (fun x => s.scratch.read (key + x.1) x.2.2 * 256 ^ x.2.1)).sum

/-- The first poisoned byte of a list of runs, by offset (R104, R365). Log 23 (DEDUCED). -/
def State.poisonedByte (s : State) (key : Nat) (l : List (Nat × Nat)) : Option Nat :=
  leastBy id (l.flatMap (fun x =>
    ((unitsOf (key + x.1) x.2).filter (fun u => s.scratch.poison.contains u)).map (fun u => max u (key + x.1) - key)))

/-- The bytes of a stored row in which poisoned elements of w bits stand. Log 25 (DEDUCED). -/
def badBytes (key : Nat) (t : Td) (row n w : Nat) (bad : Nat → Bool) : List Nat :=
  (rowOf t row n).flatMap (fun x => (upFrom 0 x.2.2).filterMap (fun k =>
    let byte := x.2.1 + k
    if (upFrom 0 64).any (fun e => bad e && decide (w * e / 8 ≤ byte ∧ byte * 8 < w * e + w)) then some (key + x.1 + k) else none))

/-- A stored row written; a poisoned element poisons the units it stands in (R104, R206, R207). Log 25 (DEDUCED). -/
def State.writeRow (s : State) (key : Nat) (t : Td) (row n w v : Nat) (bad : Nat → Bool) : State :=
  let m := (rowOf t row n).foldl (fun (m : Memory) x => m.store (key + x.1) x.2.2 (v / 256 ^ x.2.1) false) s.scratch
  { s with scratch := (badBytes key t row n w bad).foldl (fun (m : Memory) a => m.poisonUnit a) m }

/-- `n` bits of a number from bit `lo` on replaced. -/
def withBits (old lo n v : Nat) : Nat := old % 2 ^ lo + v % 2 ^ n * 2 ^ lo + old / 2 ^ (lo + n) * 2 ^ (lo + n)

/-- Some bits of a stored row of `n` bytes written, poison as it was (R208). -/
def State.writeBits (s : State) (key : Nat) (t : Td) (row n lo bits v : Nat) : State :=
  let new := withBits (s.readRow key t row n) lo bits v
  let at_ := (rowOf t row n).flatMap (fun x => (upFrom 0 x.2.2).map (fun k => (key + x.1 + k, x.2.1 + k)))
  let hit := at_.filter (fun y => decide (lo < y.2 * 8 + 8 ∧ y.2 * 8 < lo + bits))
  { s with scratch := hit.foldl (fun (m : Memory) y => m.putByte y.1 (BitVec.ofNat 8 (new / 256 ^ y.2))) s.scratch }

/-- The poison of a stored row of which the first n bytes have been written in pieces (R104, R208). Log 25 (DEDUCED). -/
def State.markRow (s : State) (key : Nat) (t : Td) (row n w : Nat) (bad : Nat → Bool) : State :=
  let m := (rowOf t row n).foldl (fun (m : Memory) x => m.markWritten (key + x.1) x.2.2 false) s.scratch
  { s with scratch := (badBytes key t row (rowBytes 64 w) w bad).foldl (fun (m : Memory) a => m.poisonUnit a) m }

/-- The key of an accumulator row. Log 54 (DESIGN CHOICE). -/
def tileKey (site acc i : Nat) : Nat := (site * 4 + acc) * 64 + i

/-- Row i of a tile. -/
def State.tileRow (s : State) (site acc i : Nat) : BitVec 4096 := (keyed s.tiles (tileKey site acc i)).getD 0

/-- The bits of element (i, j) of a tile. -/
def State.tileAt (s : State) (site acc i j : Nat) : Nat := packedAt 64 (s.tileRow site acc i).toNat j

/-- Whether element (i, j) of a tile is poisoned. -/
def State.tileBad (s : State) (site acc i j : Nat) : Bool := s.tilePoison.contains (tileKey site acc i * 64 + j)

/-- A tile written row by row; a row of +0 is not listed. Log 25 (DEDUCED). -/
def State.putTile (s : State) (site acc : Nat) (row : Nat → BitVec 4096) : State :=
  { s with
    tiles := (upFrom 0 64).foldl (fun l i =>
      if row i = 0 then dropKeyed l (tileKey site acc i) else putKeyed l (tileKey site acc i) (row i)) s.tiles }

/-- A tile without poison. Log 25 (DEDUCED). -/
def State.cleanTile (s : State) (site acc : Nat) : State :=
  { s with tilePoison := s.tilePoison.filter (fun p => p / 64 / 64 != site * 4 + acc) }

/-! ### The matrix sum (R71 to R75, R199, R200) -/

/-- Position mask q of index r (R200). -/
def State.maskOf (s : State) (key : Nat) (t : Td) (r q : Nat) : Nat :=
  s.scratch.read (key + tdScale t + r * tdScalePitch t + 16 + 3 * q) 3

/-- The set bits of a mask below a position. -/
def maskBelow (m n : Nat) : Nat := ((upFrom 0 n).filter (fun j => m.testBit j)).length

/-- The value of a stored element by its code, its scale byte and the super-scale (R50, R57, R59). -/
def elementValue (fmt scale super code : Nat) : FVal :=
  match fmt with
  | 0x00 => fmtF64.decode code
  | 0x01 => fmtF32.decode code
  | 0x02 => fmtBf16.decode code
  | 0x03 => fmtF16.decode code
  | 0x04 => fmtE4m3.decode code
  | 0x05 => fmtE5m2.decode code
  | 0x06 => fmtE2m3.decode code
  | 0x07 => fmtE3m2.decode code
  | 0x08 => fmtE2m1.decode code
  | 0x09 => mxValue .e4m3 scale code
  | 0x0A => mxValue .e5m2 scale code
  | 0x0B => mxValue .e2m3 scale code
  | 0x0C => mxValue .e3m2 scale code
  | 0x0D => mxValue .e2m1 scale code
  | 0x0E => .fin (decide (signedOf 8 code < 0)) (.ofInt (signedOf 8 code))
  | 0x0F => .fin (decide (signedOf 4 code < 0)) (.ofInt (signedOf 4 code))
  | _ => q4nValue (fmtF32.decode super) scale code

/-- Dense positions 0 to K − 1 of index r of an operand (R60, R199, R200); `rows` are its stored rows. -/
def State.operandRow (s : State) (key : Nat) (t : Td) (rows : List Nat) (r : Nat) : List FVal :=
  let w := fmtWidth (tdFmt t)
  let area := key + tdScale t + r * tdScalePitch t
  let code (p : Nat) : Nat := if tdDown t then packedAt w (rows.getD p 0) r else packedAt w (rows.getD r 0) p
  let scale (k : Nat) : Nat :=
    if fmtIsMx (tdFmt t) then (s.scratch.byte (area + k / 32)).toNat
    else if tdFmt t = 0x10 then (s.scratch.byte (area + k / 64)).toNat
    else 0
  let super := if tdFmt t = 0x10 then s.scratch.read (area + 8) 4 else 0
  (upFrom 0 (tdK t)).map (fun k =>
    if tdSparse t = 0 then elementValue (tdFmt t) (scale k) super (code k)
    else
      let m := s.maskOf key t r (k / 24)
      if m.testBit (k % 24) then
        elementValue (tdFmt t) (scale k) super (code (k / 24 * sparseCount (tdSparse t) + maskBelow m (k % 24)))
      else .fin false (.ofInt 0))

/-- The rows of an operand, index 0 to 63. -/
def State.operandRows (s : State) (key : Nat) (t : Td) : List (List FVal) :=
  let (n, count) := operandShape t
  let rows := (upFrom 0 count).map (fun r => s.readRow key t r (rowBytes n (fmtWidth (tdFmt t))))
  (upFrom 0 64).map (s.operandRow key t rows)

/-- The value of a group of products (R72), as a binary64 encoding. -/
def groupValue (ps : List FVal) : Nat :=
  if ps.any FVal.isNan || (ps.any (·.isInf true) && ps.any (·.isInf false)) then fmtF64.canonicalNan
  else if ps.any (·.isInf true) then fmtF64.infinity true
  else if ps.any (·.isInf false) then fmtF64.infinity false
  else
    let z := ps.foldl (fun (acc : Exact) v =>
      match v with
      | .fin _ x => acc.add x
      | _ => acc) (.ofInt 0)
    if z.isZero then
      fmtF64.zero (ps.all (fun v =>
        match v with
        | .fin s x => s && x.isZero
        | _ => false))
    else (roundTo fmtF64 .rne false z).1

/-- The group size of two formats (R71). -/
def groupSize (a b : Nat) : Nat :=
  let blocks := ([a, b].filter (fun c => fmtIsMx c || c == 0x10)).map fmtGroup
  (blocks.min?).getD (min (fmtGroup a) (fmtGroup b))

/-- MatrixElement of R73 over the products of one element. -/
def matrixElement (g c : Nat) (ps : List FVal) : Nat :=
  (upFrom 0 ((ps.length + g - 1) / g)).foldl (fun c k =>
    (floatAdd fmtF64 .rne c (groupValue ((ps.drop (k * g)).take g))).1) c

/-- `mma` and `mma.sp` on a tile (R205). -/
def State.product (s : State) (site key : Nat) (m : Mu) : State :=
  let ta : Td := (m.a0, m.a1)
  let tb : Td := (m.b0, m.b1)
  let g := groupSize (tdFmt ta) (tdFmt tb)
  let as := s.operandRows key ta
  let bs := s.operandRows key tb
  s.putTile site m.acc (fun i =>
    BitVec.ofNat 4096 (packBits 64 (bs.zipIdx.map (fun (b, j) =>
      matrixElement g (s.tileAt site m.acc i j) (List.zipWith FVal.mul (as.getD i []) b)))))

/-- Position mask (r, q) of an operand, when its count is wrong. A mask that holds poison is not counted; its poison is
found next. Log 23 (DEDUCED). -/
def State.wrongMask (s : State) (key : Nat) (t : Td) (r q : Nat) : Option Nat :=
  let m := s.maskOf key t r q
  if tdSparse t = 0 ∨ tdK t / 24 ≤ q ∨ s.scratch.poisoned (key + tdScale t + r * tdScalePitch t + 16 + 3 * q) 3 then none
  else if maskBelow m 24 ≠ sparseCount (tdSparse t) then some m
  else none

/-- The lowest position mask whose count is wrong, in ascending r and then q: operand, r, q and the mask (R205). Of two at the
same place, A's comes first. Log 23 (DEDUCED). -/
def State.badMask (s : State) (key : Nat) (ta tb : Td) : Option (Nat × Nat × Nat × Nat) :=
  (upFrom 0 64).findSome? (fun r => (upFrom 0 (max (tdK ta) (tdK tb) / 24)).findSome? (fun q =>
    match s.wrongMask key ta r q, s.wrongMask key tb r q with
    | some m, _ => some (0, r, q, m)
    | none, some m => some (1, r, q, m)
    | none, none => none))

/-! ### Readout (R207, R208) -/

/-- One element as a format takes it, from a source format (R64 to R67, R207). -/
def readoutElement (src : FFmt) (fmt : Nat) (r : Round) (sat : Bool) (x : Nat) : Flagged :=
  let cv (d : FFmt) : Flagged := convertFloat src d r sat x
  let int (w : Nat) : Flagged :=
    let z := floatToInt src true w r x
    (wrapOf w z.1, z.2)
  match fmt with
  | 0x00 => if src = fmtF64 then (x, 0) else cv fmtF64
  | 0x01 => cv fmtF32
  | 0x02 => cv fmtBf16
  | 0x03 => cv fmtF16
  | 0x04 => cv fmtE4m3
  | 0x05 => cv fmtE5m2
  | 0x06 => cv fmtE2m3
  | 0x07 => cv fmtE3m2
  | 0x08 => cv fmtE2m1
  | 0x0E => int 8
  | _ => int 4

/-- The element format of an MX code. -/
def mxElement (fmt : Nat) : NarrowFmt :=
  match fmt with
  | 0x09 => .e4m3 | 0x0A => .e5m2 | 0x0B => .e2m3 | 0x0C => .e3m2 | _ => .e2m1

/-- A block of 32 elements quantised, with the flags of those that hold no poison (R182, R207). Log 25 (DEDUCED). -/
def readoutBlock (x : NarrowFmt) (r : Round) (sat : Bool) (l : List (FVal × Bool)) : Nat × List Nat × BitVec 5 :=
  let (b, cs, _) := quantiseMX x r sat (l.map (·.1))
  let good := (l.filter (fun e => !e.2)).map (·.1)
  (b, cs,
   if b = 0xFF then signals good
   else good.foldl (fun acc v => acc ||| (convertValue x.fmt r sat (v.scale (127 - (b : Int)))).2) 0)

/-- One stored row written by a readout, with its flags: `el e` is element e and whether it is poisoned. -/
def State.readoutRow (s : State) (key : Nat) (t : Td) (src : FFmt) (r : Round) (sat : Bool) (row : Nat)
    (el : Nat → Nat × Bool) : State × BitVec 5 :=
  let w := fmtWidth (tdFmt t)
  let bad (e : Nat) : Bool := (el e).2
  if fmtIsMx (tdFmt t) then
    let half (b : Nat) : Nat × List Nat × BitVec 5 :=
      readoutBlock (mxElement (tdFmt t)) r sat ((upFrom (32 * b) 32).map (fun e => (src.decode (el e).1, (el e).2)))
    let area := key + tdScale t + row * tdScalePitch t
    let s1 := s.writeRow key t row (rowBytes 64 w) w (packBits w ((half 0).2.1 ++ (half 1).2.1)) bad
    ({ s1 with scratch := s1.scratch.store area 2 ((half 0).1 + 256 * (half 1).1) false }, (half 0).2.2 ||| (half 1).2.2)
  else
    let ys := (upFrom 0 64).map (fun e => (readoutElement src (tdFmt t) r sat (el e).1, bad e))
    (s.writeRow key t row (rowBytes 64 w) w (packBits w (ys.map (·.1.1))) bad,
     ys.foldl (fun acc y => if y.2 then acc else acc ||| y.1.2) 0)

/-- A whole tile read out: `el i j` is element (i, j) and whether it is poisoned (R206, R207). -/
def State.readout (s : State) (key : Nat) (t : Td) (src : FFmt) (r : Round) (sat : Bool) (el : Nat → Nat → Nat × Bool) :
    State × BitVec 5 :=
  (upFrom 0 64).foldl (fun acc row =>
    let (s1, fl) := acc.1.readoutRow key t src r sat row (fun e => if tdDown t then el e row else el row e)
    (s1, acc.2 ||| fl)) (s, 0)

/-- Row i of a tile written by an `mrdx` to a destination in which it is column i: its element of every stored row, or for
an MX format, whose blocks take 32 rows, the block that row i ends (R206 to R208). `el r j` is element (r, j) with its poison. -/
def State.readoutColumn (s : State) (key : Nat) (t : Td) (src : FFmt) (r : Round) (sat : Bool) (i : Nat)
    (el : Nat → Nat → Nat × Bool) : State × BitVec 5 :=
  let w := fmtWidth (tdFmt t)
  let n := rowBytes 64 w
  if fmtIsMx (tdFmt t) then
    if i % 32 = 31 then
      (upFrom 0 64).foldl (fun acc row =>
        let (b, cs, fl) := readoutBlock (mxElement (tdFmt t)) r sat
          ((upFrom (i - 31) 32).map (fun e => (src.decode (el e row).1, (el e row).2)))
        let s1 := acc.1.writeBits key t row n ((i - 31) * w) (32 * w) (packBits w cs)
        ({ s1 with scratch := s1.scratch.store (key + tdScale t + row * tdScalePitch t + i / 32) 1 b false }, acc.2 ||| fl)) (s, 0)
    else (s, 0)
  else
    (upFrom 0 64).foldl (fun acc row =>
      let (x, fl) := readoutElement src (tdFmt t) r sat (el i row).1
      (acc.1.writeBits key t row n (i * w) w x, if (el i row).2 then acc.2 else acc.2 ||| fl)) (s, 0)

/-! ### Steps (R195, R197) -/

/-- The MU instruction of an operation. -/
def Op.mu (o : Op) : Option Mu :=
  match o.kind with
  | .mu m => some m
  | _ => none

/-- The first MU instruction of a cell in MU order (R195). -/
def State.muHead (s : State) (site : Nat) : Option (Op × Mu) :=
  (leastBy (fun x : Op × Mu => x.1.seq * 64 + x.1.prog)
    (s.ops.filterMap (fun o => if o.site == site then o.mu.map (fun m => (o, m)) else none)))

/-- An MU instruction replaced by what a function makes of it. -/
def State.updateMu (s : State) (op : Nat) (f : Mu → Mu) : State :=
  s.updateOp op (fun o =>
    { o with
      kind :=
        match o.kind with
        | .mu m => .mu (f m)
        | k => k })

/-- An MU instruction performed, with the flags of its conversions. -/
def State.muDone (s : State) (op : Nat) (fl : BitVec 5) : State :=
  s.updateMu op (fun m => { m with performed := true, flags := m.flags ||| fl })

/-- An MU instruction held by a fault (R197). -/
def State.muHold (s : State) (o : Op) (c : Cause) (detail value : W64) (faddr : Nat) : State :=
  if o.dropped then s.dropOp o.id
  else s.faultOp o { cause := c.code, detail := detail, faddr := BitVec.ofNat 72 faddr, value := value, level := 0 } 0 none

/-- Row i of an `mrdx` sent to the Carousel, with its row of the auxiliary descriptor as a number (R208). -/
def State.sendRow (s : State) (o : Op) (m : Mu) (aux : Nat) : State :=
  let i := m.out.length
  let els := (upFrom 0 64).map (fun j =>
    (convertFloat fmtF64 fmtF32 m.round m.sat (s.tileAt o.site m.acc i j), s.tileBad o.site m.acc i j))
  let y : VWord := if m.aux then BitVec.ofNat 2048 aux else 0
  let fl := els.foldl (fun acc e => if e.2 then acc else acc ||| e.1.2) (0 : BitVec 5)
  let mask : W64 := BitVec.ofNat 64 ((els.zipIdx.map (fun (e, j) => if e.2 then 0 else 2 ^ j)).sum)
  let s1 := s.updateMu o.id (fun m => { m with flags := m.flags ||| fl })
  { s1 with carJobs := s1.carJobs ++
      [{ site := o.site, who := .mu o.id, gslot := m.gslot, since := s.carNow o.site, entered := none,
         op0 := ofLanes 32 (els.map (·.1.1)), op1 := y, op2 := 0, sc := BitVec.ofNat 64 i, mask := mask }] }

/-- The poison of a destination of which an `mrdx` has written columns 0 to n − 1; for an MX format, whole blocks of them. -/
def State.markColumns (s : State) (site key : Nat) (m : Mu) (n : Nat) : State :=
  let t : Td := (m.a0, m.a1)
  let w := fmtWidth (tdFmt t)
  let c := if fmtIsMx (tdFmt t) then n / 32 * 32 else n
  if tdDown t then
    (upFrom 0 64).foldl (fun s row =>
      s.markRow key t row (c * w / 8) w (fun e => decide (e < c) && s.tileBad site m.acc e row)) s
  else s

/-- The first n rows that the graph of an `mrdx` has returned, written to its destination in ascending order, with the flags of
their conversions (R208). -/
def State.putRows (s : State) (o : Op) (m : Mu) (key n : Nat) : State × BitVec 5 :=
  let t : Td := (m.a0, m.a1)
  let el (i j : Nat) : Nat × Bool := (elemAt 32 (m.out.getD i 0) j, s.tileBad o.site m.acc i j)
  let r := (upFrom 0 n).foldl (fun acc i =>
    let (s1, fl) :=
      if tdDown t then acc.1.readoutColumn key t fmtF32 .rne m.sat i el
      else acc.1.readoutRow key t fmtF32 .rne m.sat i (el i)
    (s1, acc.2 ||| fl)) (s, (0 : BitVec 5))
  (r.1.markColumns o.site key m n, r.2)

/-- A cell as an MU instruction finds it, where writes race with it (R102, R196). -/
def State.seenBy (s : State) (m : Mu) : State := { s with scratch := m.race.view s.scratch }

/-- An MU instruction performed that has written some runs of scratch, with the flags of its conversions: `s1` is the state in
which nothing raced with it. Later MU instructions see what it wrote (R102, R196). -/
def State.muWrote (s : State) (o : Op) (m : Mu) (runs : List (Nat × Nat)) (s1 : State) (fl : BitVec 5) : State :=
  let new := m.race.merge s.scratch s1.scratch
  let s2 : State := { s with
    scratch := new
    ops := s.ops.map (fun x =>
      if x.site == o.site && x.key.ctx == o.key.ctx && x.id != o.id && x.mu.isSome then
        { x with kind := x.kind.mapRace (fun r => { r with seen := r.seen.map (fun c => c.follow new runs) }) }
      else x) }
  (s2.updateMu o.id (fun m => { m with race := m.race.placed s.scratch runs })).muDone o.id fl

/-- Runs of the carve of a context as runs of scratch. -/
def runsAt (key : Nat) (l : List (Nat × Nat)) : List (Nat × Nat) := l.map (fun x => (key + x.1, x.2))

/-- The units of some runs of scratch that an MU instruction reads: each keeps what its first read of it found (R102, R196). -/
def Mu.look (m : Mu) (scratch : Memory) (key : Nat) (runs : List (Nat × Nat)) : Mu :=
  { m with race := runs.foldl (fun r x => r.look scratch (key + x.1) x.2) m.race }

/-- The next step of an `mrdx`: the next row sent to the Carousel, in ascending i, or after the last of them its destination
written. It reads row i of the auxiliary descriptor as the rows before it leave scratch, which it does not write until then, since
one that is held has had no effect there; a unit that several rows read holds for all of them what the first found (R102, R196,
R197, R208). It rests on a slot that stands damaged for good (R231). Log 23 (DEDUCED), 25 (DEDUCED), 27 (DEDUCED),
65 (DESIGN CHOICE). -/
def State.muRow (s : State) (o : Op) (m : Mu) (key : Nat) : State :=
  let i := m.out.length
  if i < 64 then
    if s.carJobs.any (fun j => j.who == .mu o.id && !j.delivered) || s.stuckSlot o.site m.gslot then s
    else if m.aux then
      let runs := (rowOf (m.b0, m.b1) i 256).map (fun x => (x.1, x.2.2))
      let m1 := m.look s.scratch key runs
      let y := ((s.seenBy m1).putRows o m1 key i).1
      match y.poisonedByte key runs with
      | some a => s.muHold o .poisonConsumed 0 0 a
      | none => (s.updateMu o.id (fun m => m.look s.scratch key runs)).sendRow o m1 (y.readRow key (m.b0, m.b1) i 256)
    else s.sendRow o m 0
  else
    let r := s.putRows o m key 64
    s.muWrote o m (runsAt key (readoutRuns (m.a0, m.a1))) r.1 r.2

/-- SPARSE_MASK's DETAIL (R365). -/
def maskDetail (operand r q : Nat) : W64 := BitVec.ofNat 64 (operand + r * 2 + q * 2 ^ 7)

/-- A matrix product performed, or held: the lowest bad mask, then poison (R205). Log 23 (DEDUCED). -/
def State.muProduct (s : State) (o : Op) (m : Mu) (key : Nat) : State :=
  let ta : Td := (m.a0, m.a1)
  let tb : Td := (m.b0, m.b1)
  match s.badMask key ta tb with
  | some (side, r, q, k) => s.muHold o .sparseMask (maskDetail side r q) (BitVec.ofNat 64 k) 0
  | none =>
    match s.poisonedByte key (operandRuns ta ++ operandRuns tb) with
    | some a => s.muHold o .poisonConsumed 0 0 a
    | none => (s.product o.site key m).muDone o.id 0

/-- A tile loaded from scratch (R206). -/
def State.muLoad (s : State) (o : Op) (m : Mu) (key : Nat) : State :=
  let t : Td := (m.a0, m.a1)
  match s.poisonedByte key (tileRuns t 64) with
  | some a => s.muHold o .poisonConsumed 0 0 a
  | none =>
    let rows := (upFrom 0 64).map (fun r => s.readRow key t r 512)
    ((s.putTile o.site m.acc (fun i =>
      BitVec.ofNat 4096 (if tdDown t then packBits 64 ((upFrom 0 64).map (fun j => packedAt 64 (rows.getD j 0) i))
        else rows.getD i 0))).cleanTile o.site m.acc).muDone o.id 0

/-- The first MU instruction of a cell performed (R196, R203, R205 to R208). -/
def State.muStep (s : State) (o : Op) (m : Mu) : State :=
  let key := scratchKey o.site o.key.ctx 0
  let el (i j : Nat) : Nat × Bool := (s.tileAt o.site m.acc i j, s.tileBad o.site m.acc i j)
  match m.cmd with
  | .zero => ((s.putTile o.site m.acc (fun _ => 0)).cleanTile o.site m.acc).muDone o.id 0
  | .mma | .mmaSp => { (s.seenBy m).muProduct o m key with scratch := s.scratch }
  | .ld => { (s.seenBy m).muLoad o m key with scratch := s.scratch }
  | .st =>
    let r := s.readout key (m.a0, m.a1) fmtF64 .rne false el
    s.muWrote o m (runsAt key (tileRuns (m.a0, m.a1) 64)) r.1 0
  | .rd =>
    let r := s.readout key (m.a0, m.a1) fmtF64 m.round m.sat el
    s.muWrote o m (runsAt key (readoutRuns (m.a0, m.a1))) r.1 r.2
  | .rdx => s.muRow o m key

def execMuPerform (site : Nat) (s : State) : Out :=
  match s.muHead site with
  | none => .next s
  | some (o, m) =>
    if m.performed || o.heldOp.isSome || s.drained o.key.ctx then .next s else .next (s.muStep o m)

/-- The first MU instruction of a cell signals its slot (R37, R194, R195). Log 33 (DEDUCED). -/
def execMuCompletion (site : Nat) (s : State) : Out :=
  match s.muHead site with
  | none => .next s
  | some (o, m) =>
    if m.performed && o.heldOp.isNone && s.hw.health != .fatal && !s.signalWaits o then .next (s.signalOp o) else .next s

end Sys2Proof.Machine
end

