-- ==== Sys2Proof/Machine/Launch.lean ====
section
/-! DEFINITION. Launches and timers: LAUNCH_INJECT (R330, R420), the end of a launch, LAUNCH_WAVE and LAUNCH_WATCHDOG (R48,
R351), LAUNCH_KILL_MARK (R374), TIMER_EXPIRY (R349), TIME_WORD_STORE (R350), and which context the firmware makes resident
(R399, R401). -/

namespace Sys2Proof.Machine

/-- Whether the Ringmaster's firmware has stopped: a fault has halted it, or the package is Fatal (R343, R414).
Log 33 (DEDUCED). -/
def State.firmwareHalted (s : State) : Bool := s.hw.rmHalted || s.hw.health == .fatal

/-- A launch replaced by what a function makes of it. -/
def State.updateLaunch (s : State) (ctx lid : Nat) (f : Launch → Launch) : State :=
  { s with ctl := { s.ctl with launches := updateFirst (fun l => l.ctx == ctx && l.lid == lid) f s.ctl.launches } }

/-! ### Injection (R330, R331, R420) -/

/-- The dies that hold a cell of a list, ascending. -/
def listDies (l : List Nat) : List Nat := (upFrom 0 8).filter (fun d => l.any (fun c => dieOf c == d))

/-- The number of tags that a launch covers (R328). -/
def Launch.tags (l : Launch) : Nat := l.ntag + 1

/-- The tags injected so far. -/
def Launch.sent (l : Launch) : Nat := (l.injected.map (·.2)).sum

/-- The payload of the tag at an offset from TBASE (R328). -/
def Launch.payload (l : Launch) (off : Nat) : Payload :=
  if l.word then .word (l.arg + BitVec.ofNat 64 off * l.astep) else .none

/-- The next offset that the launch unit of a die injects, when one is left (R330). -/
def Launch.nextOffset (l : Launch) (die : Nat) : Option Nat :=
  let ds := listDies l.cells
  if ds.contains die then
    let off := ds.idxOf die + ds.length * (keyed l.injected die).getD 0
    if off ≤ l.ntag then some off else none
  else none

/-- The sender of a die's initial tokens: the lowest live cell of the list on the die; where every cell there is retired,
the lowest of the list (R420). Log 44 (DEDUCED). -/
def State.injector (s : State) (l : Launch) (die : Nat) : Nat :=
  match (s.live l.cells).find? (fun c => dieOf c == die) with
  | some c => c
  | none => (s.live l.cells).headD 0

/-- The launch unit of a die injects one initial token (R330, R331, R420). Log 44 (DEDUCED). -/
def execLaunchInject (die ctx lid : Nat) (s : State) : Out :=
  match s.launch ctx lid with
  | none => .next s
  | some l =>
    match l.nextOffset die with
    | none => .next s
    | some off =>
      let sender := s.injector l die
      let key : Key := ⟨ctx, l.cb, BitVec.ofNat 32 (l.tbase + off)⟩
      let s1 := (s.updateLaunch ctx lid (fun l =>
        { l with injected := putKeyed l.injected die ((keyed l.injected die).getD 0 + 1) })).count (1152 + die) ctx lid 1 0
      let t : Token :=
        { unitToken .launch key l.slot (if l.word then 1 else 0) (if l.word then l.idx else 0) sender sender lid (l.payload off)
          with epoch := l.epoch, rels := some .sys }
      match s1.resolveHome sender l.cells ctx l.cb key.tag with
      | (s2, .ok c) => .next (s2.sendToken { t with dcell := c })
      | (s2, .error e) =>
        if (s.openEntries sender).isEmpty then .next s
        else
          let t1 : Token := { t with id := s2.nextId, arrival := s2.nextId, unplaced := true }
          .next ({ s2 with nextId := s2.nextId + 1, tokens := s2.tokens ++ [t1] }.rejectToken t1 e)

/-! ### The firmware's choice of a resident context (R399, R401) -/

/-- The priority of a context (R357). -/
def State.priority (s : State) (ctx : Nat) : Nat := (keyed s.ctl.prio ctx).getD 8

/-- Whether a packet is a launch packet that has been accepted and has not come to its end. -/
def Packet.launching (p : Packet) : Bool := wfield (p.words.getD 0 0) 32 4 == 1 && p.phase != .finished

/-- Where the oldest launch of a context that is live or waits stands in the order of acceptance (R401). -/
def State.launchAge (s : State) (ctx : Nat) : Nat :=
  (((s.ctl.launches.filter (fun l => l.ctx == ctx)).map (·.pkt)
    ++ (s.io.packets.filter (fun p => p.launching && p.ctx == ctx)).map (·.uid)).min?).getD (2 ^ 64 - 1)

/-- Whether a freeze of a context is in progress (R402). -/
def State.freezing (s : State) (ctx : Nat) : Bool :=
  s.ctl.frozen.contains ctx && s.io.packets.any (fun p => p.phase == .running && wfield (p.words.getD 0 0) 32 4 == 5)

/-- The context that waits for a partition and comes first: the highest priority, then the oldest waiting launch (R401). -/
def State.firstWaiting (s : State) (part : Nat) : Option Nat :=
  leastBy (fun c => (15 - s.priority c) * 2 ^ 64 + s.launchAge c)
    (s.ctl.waiting.filter (fun c => (s.resident c).isNone && !s.freezing c && s.ctxValid c
      && wfield (s.ctxWord c 0) 1 6 == part))

/-- Whether a context has a live launch, or a launch packet that has started. -/
def State.hasLaunch (s : State) (ctx : Nat) : Bool :=
  s.ctl.launches.any (fun l => l.ctx == ctx)
    || s.io.packets.any (fun p => p.ctx == ctx && p.launching && p.phase == .started)

/-- Whether the resident context of a partition gives way to another (R399, R401). Log 39 (DESIGN CHOICE). -/
def State.yields (s : State) (r : Resident) (u : Nat) : Bool :=
  decide (s.priority r.ctx < s.priority u) || !s.hasLaunch r.ctx
    || (s.priority r.ctx == s.priority u && decide (r.since + 1000 * s.ctl.quantum ≤ s.sys.rtime))

/-- The firmware's decision about a partition: the first waiting context is made resident when the partition is free or
its context gives way, which then waits in its turn when it has a live launch (R399, R401). Firmware decides nothing once the
Ringmaster has halted or the package is Fatal (R343, R414). Log 39 (DESIGN CHOICE). -/
def State.reviewPart (s : State) (part : Nat) : State :=
  if s.firmwareHalted || s.ctl.switches.any (fun w => w.part == part) then s
  else
    match s.firstWaiting part with
    | none => s
    | some u =>
      match s.residentIn part with
      | none => s.addSwitch ⟨some u, part, .firmware⟩
      | some r =>
        if s.yields r u then
          let waits := s.ctl.launches.any (fun l => l.ctx == r.ctx) && !s.ctl.waiting.contains r.ctx
          let s1 : State := if waits then { s with ctl := { s.ctl with waiting := s.ctl.waiting ++ [r.ctx] } } else s
          s1.addSwitch ⟨some u, part, .firmware⟩
        else s

/-- An equal-priority context takes its turn once the quantum is over (R401). -/
def execQuantumExpiry (part : Nat) (s : State) : Out := .next (s.reviewPart part)

/-! ### The end of a launch (R48, R339, R351, R407) -/

/-- The words of a completion record (R338). -/
def recordWords (i type status lid : Nat) (phase : Bool) (usertag : W64) (time : Nat) (detail : W64) : List W64 :=
  [BitVec.ofNat 64 (i % 2 ^ 32 + type * 2 ^ 32 + status * 2 ^ 36 + lid * 2 ^ 44 + phase.toNat * 2 ^ 50), usertag,
   BitVec.ofNat 64 time, detail]

/-- A packet replaced by what a function makes of it. -/
def State.updatePacket (s : State) (uid : Nat) (f : Packet → Packet) : State :=
  { s with io := { s.io with packets := updateFirst (fun p => p.uid == uid) f s.io.packets } }

/-- A packet whose record can be written, with its status and detail. -/
def State.finishPacket (s : State) (uid status : Nat) (detail : W64) : State :=
  s.updatePacket uid (fun p => { p with phase := .finished, status := status, detail := detail })

/-- The queue block of a queue; one that nothing has written is all zero (R319). Log 54 (DESIGN CHOICE). -/
def State.queue (s : State) (fn q : Nat) : Queue := (keyed s.io.queues (256 * fn + q)).getD default

/-- The context for which a queue's packets act (R319, R320). -/
def State.queueCtx (s : State) (fn q : Nat) : Nat := if fn = 1 then (keyed s.io.f1bind q).getD 0 else (s.queue fn q).ctx

/-- A launch ended: its LID is free, and its record is written to its queue, or after a freeze kept for ORPHANS
(R339, R351, R407). Nothing of its counters is left for the next launch of the LID, not in a saved image either (R48). The firmware writes the record,
and nothing writes it once the firmware has stopped (R343, R351). Log 33 (DEDUCED). -/
def State.endLaunch (s : State) (l : Launch) (status : Nat) : State :=
  let detail : W64 := if status = 0 then BitVec.ofNat 64 l.sent else 0
  let s1 : State :=
    { s with
      ctl := { s.ctl with
        launches := s.ctl.launches.filter (fun x => !(x.ctx == l.ctx && x.lid == l.lid))
        images := s.ctl.images.map (fun m => { m with counts := m.counts.filter (fun c => !(c.ctx == l.ctx && c.lid == l.lid)) }) }
      counts := s.counts.filter (fun c => !(c.ctx == l.ctx && c.lid == l.lid))
      killed := s.killed.filter (fun k => !(k.2.1 == l.ctx && k.2.2 == l.lid)) }
  let named (p : Packet) : Bool := p.uid == l.pkt
  if s.firmwareHalted then s1
  else if !l.orphan then s1.finishPacket l.pkt status detail
  else if (s1.queue l.fn l.q).en && s1.queueCtx l.fn l.q == l.ctx then
    if s1.io.packets.any named then s1.finishPacket l.pkt status detail
    else
      let p : Packet :=
        { uid := l.pkt, fn := l.fn, q := l.q, i := l.i, ctx := l.ctx, words := [BitVec.ofNat 64 (2 ^ 32 + l.irq.toNat * 2 ^ 41), l.usertag],
          phase := .finished, status := status, detail := detail, lid := l.lid, progress := 0, saved := [] }
      { s1 with io := { s1.io with packets := s1.io.packets ++ [p] } }
  else
    { s1 with
      io := { s1.io with packets := s1.io.packets.filter (fun p => !named p) }
      ctl := { s1.ctl with
        orphans := s1.ctl.orphans ++ [recordWords l.i 1 status l.lid false l.usertag s1.sys.rtime detail] } }

/-- Whether a token counts in PT (R48): parked, overflowed, or held by a receiver-side fault. -/
def Token.counts (t : Token) : Bool :=
  t.inPark || t.inOverflow || t.phase == .held

/-- The sums of one wave: LF + PT + OA, TS and TR (R48). The counters of a saved context are those of its images. -/
def State.wave (s : State) (ctx lid : Nat) : Nat × Nat × Nat :=
  let imgs := s.absentImages ctx
  let frames := s.frames ++ imgs.flatMap (·.frames)
  let tokens := s.tokens ++ imgs.flatMap (·.tokens)
  let ops := s.ops ++ imgs.flatMap (·.ops)
  let counts := (s.counts ++ imgs.flatMap (·.counts)).filter (fun c => c.ctx == ctx && c.lid == lid)
  ((frames.filter (fun f => f.key.ctx == ctx && f.lid == lid && !f.fresh)).length
     + (tokens.filter (fun t => t.key.ctx == ctx && t.lid == lid && t.committed && (t.counts || t.hidx.isSome))).length
     + (ops.filter (fun o => o.key.ctx == ctx && o.lid == lid)).length,
   (counts.map (·.ts)).sum, (counts.map (·.tr)).sum)

/-- The record status of a launch that ends (R339, R374). Log 35 (DEDUCED). -/
def Launch.endStatus (l : Launch) : Nat := if l.killed then 3 else if l.halted then 4 else 0

/-- What a wave leaves of a launch that has not ended (R351): its TS total at a time, whether it was clean, and for how long TS has
not changed, which is 1,024 ns for each wave that finds it so (R352). Log 67 (DEDUCED). -/
def Launch.waved (l : Launch) (ts rtime wdog : Nat) (clean : Bool) : Launch :=
  let idle := if ts = l.lastTs then l.idle + 1024 else 0
  { l with
    prev := if clean then some ts else none
    lastTs := ts
    idle := idle
    lastWave := rtime
    watch := decide (wdog ≠ 0 ∧ wdog ≤ idle) }

/-- One wave of the join unit over a launch, 1,024 ns after the last one at the earliest (R48, R351). The event of a watchdog
that the last wave found expired comes first. Log 67 (DEDUCED). -/
def execLaunchWave (ctx lid : Nat) (s : State) : Out :=
  match s.launch ctx lid with
  | none => .next s
  | some l =>
    let (busy, ts, tr) := s.wave ctx lid
    let clean : Bool := l.sent == l.tags && busy == 0 && ts == tr
    if l.watch || decide (s.sys.rtime < l.lastWave + 1024) then .next s
    else if clean && l.prev == some ts then
      .next (((s.endLaunch l l.endStatus).raiseEvent 2 (64 * ctx + lid) [BitVec.ofNat 64 ts]).reviewPart
        (wfield (s.ctxWord ctx 0) 1 6))
    else
      .next (s.updateLaunch ctx lid (fun l => l.waved ts s.sys.rtime s.sys.wdog clean))

/-- The launch watchdog, with the TS total of a wave that found it unchanged for WDOG, at most once per WDOG: the time that counts
for the next one begins when it is raised (R351). Log 67 (DEDUCED). -/
def execLaunchWatchdog (ctx lid : Nat) (s : State) : Out :=
  match s.launch ctx lid with
  | none => .next s
  | some l =>
    if l.watch then
      .next ((s.updateLaunch ctx lid (fun l => { l with idle := 0, lastWave := s.sys.rtime, watch := false })).raiseEvent 3
        (64 * ctx + lid) [BitVec.ofNat 64 l.lastTs])
    else .next s

/-! ### Kill marks (R374) -/

/-- Whether an operation is already performing: its discard waits for its end (R374). -/
def Op.performing (o : Op) : Bool :=
  o.heldOp.isNone &&
    match o.kind with
    | .mu m => m.performed || !m.out.isEmpty || m.flags != 0
    | .engine e => e.started
    | .xld _ .fresh => false
    | _ => true

/-- A launch marked killed on one cell, with what the mark discards there (R374). -/
def State.killMark (s : State) (site ctx lid : Nat) : State :=
  let mine (k : Key) (l : Nat) : Bool := k.ctx == ctx && l == lid
  let lidOf (k : Key) : Option Nat := (s.frameAt site k).map (·.lid)
  let gone := s.ops.filter (fun o => o.site == site && mine o.key o.lid && !o.performing)
  let items := s.items.filter (fun i => !(i.site == site && mine i.key i.lid))
  let ready := s.ready.filter (fun r => !(r.site == site && r.key.ctx == ctx && lidOf r.key == some lid))
  let lost := s.tokens.filter (fun t => t.dcell == site && mine t.key t.lid && t.committed
    && (t.counts || t.phase == .waiting))
  let s1 : State := { s with killed := (site, ctx, lid) :: s.killed, items := items, ready := ready }
  let s2 := gone.foldl (fun s o => s.dropOp o.id) s1
  let s3 : State :=
    { s2 with ops := s2.ops.map (fun o => if o.site == site && mine o.key o.lid then { o with dropped := true } else o) }
  let s4 := lost.foldl (fun s t => s.discardToken t) s3
  { s4 with frames := s4.frames.filter (fun f =>
      !(f.site == site && mine f.key f.lid) || s4.running site f.key none) }

/-- A cell applies the mark of a killed launch in one step (R374). -/
def execLaunchKillMark (site ctx lid : Nat) (s : State) : Out :=
  match s.launch ctx lid with
  | none => .next s
  | some l =>
    if l.killed && s.residentAt site ctx && ctx != 0 && !s.killed.contains (site, ctx, lid) then .next (s.killMark site ctx lid)
    else .next s

/-! ### Timers and the time word (R349, R350) -/

/-- Whether a timer is armed. -/
def Timer.armed (t : Timer) : Bool := wbit t.ctl 0

/-- Whether a timer expires at the present tick: RTIME has reached its deadline, at a tick after its arming (R349). -/
def Timer.due (t : Timer) (rtime : Nat) : Bool := t.armed && decide (t.tdl.toNat ≤ rtime) && decide (t.armedAt < rtime)

/-- Where a timer's token goes: the receiving site, and for a remote codeblock the package and the port through which it leaves
(R241, R244); none when its reference names no codeblock that the Ringmaster may send to (R345). Log 45 (DEDUCED). -/
def State.timerTarget (s : State) (r : W64) : Option (Nat × Option (Nat × Nat)) :=
  if (s.codeblock 0 (wfield r 32 12)).map (·.ring) = some true ∧ wfield r 57 7 = 0 then some (ringmaster, none)
  else
    match (s.checkRef ringmaster 0 r false).2 with
    | .ok k =>
      match k.remote with
      | some m => some (wfield r 44 11, some (m.pkg, m.port))
      | none => some (s.standIn packageCells (wfield r 44 11), none)
    | .error _ => none

/-- A timer expires: ARM becomes 0, and a word token carries RTIME to TREF, in another package too (R244, R349). The token
comes behind every commit before it, so that what it tells a cell covers their register writes (R378). Log 45 (DEDUCED). -/
def execTimerExpiry (timer : Nat) (s : State) : Out :=
  match keyed s.sys.timers timer with
  | none => .next s
  | some t =>
    if t.due s.sys.rtime then
      let s1 : State :=
        { s with sys := { s.sys with timers := putKeyed s.sys.timers timer { t with ctl := t.ctl &&& ~~~1 } } }
      match s.timerTarget t.tref with
      | none => .next s1
      | some (c, far) =>
        .next (s1.sendToken
          { unitToken .timer (refKey 0 t.tref) (wfield t.ctl 1 4) 1 (wfield t.ctl 5 8) c ringmaster 0
              (.word (BitVec.ofNat 64 s.sys.rtime)) with epoch := wbit t.tref 56, remote := far, seq := s.nextId })
    else .next s

/-- The multiple of 1,024 ns that the present tick has reached: the time word is stored at each (R350).
Log 62 (DESIGN CHOICE). -/
def SysRegs.timeMark (r : SysRegs) : Nat := (r.rtime + 9) / 1024 * 1024

/-- Whether the time word is due: EN is 1, and a multiple of 1,024 ns has come since the last store (R350).
Log 62 (DESIGN CHOICE). -/
def SysRegs.timeDue (r : SysRegs) : Bool := wbit r.timeaddr 0 && decide (r.lastTimeWord < r.timeMark)

/-- The time word stored, when it is due (R350); an address that nothing reaches takes no store, and a write that a host
refuses is dropped, with a health event (R387). Log 16 (DESIGN CHOICE), 62 (DESIGN CHOICE). -/
def execTimeWordStore (s : State) : Out :=
  let a := wfield s.sys.timeaddr 3 49 * 8
  if s.sys.timeDue then
    let s1 : State := { s with sys := { s.sys with lastTimeWord := s.sys.timeMark } }
    if !s.ringReaches a 8 then .next s1
    else if 2 ^ 48 ≤ a ∧ !Config.hostAnswers s.tick then .next (s1.healthEvent 0x07 (sourceWord ringmaster 0))
    else .next (s1.physStore a 8 s.sys.rtime false)
  else .next s

end Sys2Proof.Machine
end

