-- ==== Sys2Proof/Machine/Contexts.lean ====
section
/-! DEFINITION. Saves and restores of user contexts: TAGWIN_REQUEST and TAGWIN_INSTALL (R248), DRAIN_MARKER and
CONTEXT_IMAGE_SAVE (R389, R390, R393, R394), CONTEXT_RESTORE and RESTORE_RESUME (R391, R392), and HALT_COMPLETE (R375). -/

namespace Sys2Proof.Machine

/-! ### Window requests (R248) -/

/-- The cells of the partition in which a sender stands: the whole package for context 0 (R23, R39). -/
def State.partitionCells (s : State) (i : Inst) : List Nat := s.senderCells i.key.ctx

/-- The Ringmaster numbers the window request of a commit whose other preconditions hold. -/
def execTagwinRequest (site runner : Nat) (s : State) : Out :=
  match s.instAt site runner with
  | none => .next s
  | some i =>
    if i.phase == .offering && !i.windowSets.isEmpty && s.canCommit i then
      let r : TagwinReq :=
        { no := s.nextId, ctx := i.key.ctx, site := site, runner := runner, sets := i.windowSets,
          cells := s.partitionCells i, installed := [] }
      .next ({ s with nextId := s.nextId + 1, ctl := { s.ctl with tagwins := s.ctl.tagwins ++ [r] } }.putInst
        { i with phase := .tagwin s.nextId })
    else .next s

/-- A window entry of a cell set (R39, R302). -/
def State.setWindow (s : State) (site ctx cb wlog : Nat) (origin : BitVec 32) : State :=
  { s with windows := ⟨site, ctx, cb, wlog, origin⟩ ::
      s.windows.filter (fun w => !(w.site == site && w.ctx == ctx && w.cb == cb)) }

/-- A cell installs the first request of a context that it lacks, and re-examines its parked tokens. -/
def execTagwinInstall (site ctx : Nat) (s : State) : Out :=
  match leastBy (·.no) (s.ctl.tagwins.filter (fun r => r.ctx == ctx && r.cells.contains site && !r.installed.contains site)) with
  | none => .next s
  | some r =>
    let s1 : State :=
      { s with ctl := { s.ctl with
          tagwins := updateFirst (fun x => x.no == r.no) (fun x => { x with installed := site :: x.installed }) s.ctl.tagwins } }
    let s2 := r.sets.foldl (fun s e => s.setWindow site ctx e.1 e.2.2 e.2.1) s1
    .next (r.sets.foldl (fun s e => s.reexamine site ctx e.1) s2)

/-! ### The save area (R393, R394) -/

/-- CRC-64 of ECMA-182 over bytes, the high bit of each first. Log 20 (PRESUMED). -/
def crc64 (bs : List Byte) : W64 :=
  bs.foldl (fun (c : W64) (b : Byte) =>
    (upFrom 0 8).foldl (fun (d : W64) _ => if d.msb then (d <<< 1) ^^^ 0x42F0E1EBA9EA3693#64 else d <<< 1)
      (c ^^^ ((b.setWidth 64 : W64) <<< 56))) (0 : W64)

/-- A bitmap of cells by number, 144 bytes. -/
def cellBitmap (l : List Nat) : Nat := (l.dedup.map (fun c => 2 ^ c)).sum

/-- The CHECK of a header that stands in memory: SH0 to SH4 and both bitmaps (R393). Log 20 (PRESUMED). -/
def headerCheck (m : Memory) (save : Nat) : W64 := crc64 (m.bytes save 40 ++ m.bytes (save + 128) 144 ++ m.bytes (save + 512) 144)

/-- A header with its CHECK put right. -/
def sealHeader (m : Memory) (save : Nat) : Memory := m.store (save + 40) 8 (headerCheck m save).toNat false

/-- SH4 of a header rewritten, with its CHECK. -/
def setHeaderFlags (m : Memory) (save flags : Nat) : Memory := sealHeader (m.store (save + 32) 8 flags false) save

/-- The header of a save (R393). -/
def saveHeader (m : Memory) (r : Resident) (seq : Nat) (shadowed : Bool) (halted : List Nat) : Memory :=
  let a := r.save
  let m0 := m.blit {} a a 4096
  let m1 := m0.store a 8 (0x56534358 + Config.revision.toNat * 2 ^ 32 + r.ctx * 2 ^ 48 + r.part * 2 ^ 56) false
  let m2 := (m1.store (a + 8) 8 r.cells.length false).store (a + 16) 8 seq false
  let m3 := (m2.store (a + 24) 8 r.carve.toNat false).store (a + 32) 8 (1 + shadowed.toNat * 2) false
  sealHeader ((m3.store (a + 128) 144 (cellBitmap r.cells) false).store (a + 512) 144 (cellBitmap halted) false) a

/-- Where the regions of an image stand for a CARVE: frame store, scratch, cache lines (R394). -/
def imageRegions (carve : W64) : Nat × Nat × Nat :=
  let f := 192 * 1024
  let s := f + wfield carve 0 4 * 65536
  (f, s, s + wfield carve 4 4 * 65536)

/-- A frame's words in its place of the frame store (R79). -/
def Frame.putImage (f : Frame) (m : Memory) (store : Nat) : Memory :=
  if f.life = .spilled then m
  else
    (upFrom 0 f.desc.words).foldl (fun (m : Memory) k =>
      m.store (store + f.chunk * 512 + 8 * k) 8 (f.word k).toNat (f.poison.contains k)) m

/-- The bytes of a cell's image: tiles, frame store, scratch and cache-line addresses (R388, R394). -/
def State.imageBytes (s : State) (r : Resident) (site base : Nat) : Memory :=
  let (fo, so, lo) := imageRegions r.carve
  let m0 : Memory := ({} : Memory).blit s.mem base base imageSize
  let m1 := (upFrom 0 4).foldl (fun (m : Memory) t => (upFrom 0 64).foldl (fun (m : Memory) i =>
    let a := base + 65536 + 32768 * t + 512 * i
    let m2 := m.store a 512 (s.tileRow site t i).toNat false
    (upFrom 0 64).foldl (fun (m : Memory) j => if s.tileBad site t i j then m.poisonUnit (a + 8 * j) else m) m2) m) m0
  let m2 := (s.frames.filter (fun f => f.site == site && f.key.ctx == r.ctx)).foldl
    (fun (m : Memory) f => f.putImage m (base + fo)) m1
  let m3 := m2.blit s.scratch (base + so) (scratchKey site r.ctx 0) (r.sunits * 65536)
  let lines := s.lcache.filter (fun l => l.site == site && l.ctx == r.ctx)
  lines.zipIdx.foldl (fun (m : Memory) (l, k) => m.store (base + lo + 8 * k) 8 (l.pa + 1) false)
    (m3.blit {} (base + lo) (base + lo) (r.lunits * 4096))

/-- Whether a token is context state on its cell, which a save takes along (R389): accepted, waiting, parked, overflowed or
held, but for one that the system context holds under `NO_CONTEXT` (R358). -/
def State.savedToken (s : State) (t : Token) : Bool :=
  (t.phase == .accepted || t.phase == .waiting || t.counts)
    && !s.items.any (fun x => x.body == .token t.id && x.ctx != t.key.ctx)

/-- The control block of a cell's image (R389, R394). -/
def State.controlBlock (s : State) (r : Resident) (id seq site : Nat) : Image :=
  let here (c : Nat) (k : Key) : Bool := c == site && k.ctx == r.ctx
  { id := id, ctx := r.ctx, seq := seq, site := site,
    frames := s.frames.filter (fun f => here f.site f.key),
    tokens := s.tokens.filter (fun t => here t.dcell t.key && s.savedToken t),
    ready := s.ready.filter (fun x => here x.site x.key), ops := s.ops.filter (fun o => here o.site o.key),
    items := s.items.filter (fun x => x.site == site && x.ctx == r.ctx && x.key.ctx == r.ctx),
    gslots := s.gslots.filter (fun g => g.site == site && g.st == .resident),
    windows := s.windows.filter (fun w => w.site == site && w.ctx == r.ctx),
    counts := s.counts.filter (fun c => c.site == site && c.ctx == r.ctx) }

/-- What the cells of a context hold of it removed: it is not resident there (R389 step 5, R375). -/
def State.evacuate (s : State) (ctx : Nat) (cells : List Nat) : State :=
  let on (site : Nat) (c : Nat) : Bool := c == ctx && cells.contains site
  { s with
    frames := s.frames.filter (fun f => !on f.site f.key.ctx)
    tokens := s.tokens.filter (fun t => !(on t.dcell t.key.ctx && s.savedToken t))
    ready := s.ready.filter (fun r => !on r.site r.key.ctx)
    ops := s.ops.filter (fun o => !on o.site o.key.ctx)
    items := s.items.filter (fun i => !(on i.site i.ctx && i.key.ctx == ctx))
    gslots := s.gslots.filter (fun g => !cells.contains g.site)
    descs := s.descs.filter (fun d => !on d.site d.ctx)
    windows := s.windows.filter (fun w => !on w.site w.ctx)
    tlb := s.tlb.filter (fun e => !on e.site e.ctx)
    icache := s.icache.filter (fun w => !on w.site w.ctx)
    lcache := s.lcache.filter (fun l => !on l.site l.ctx)
    tiles := s.tiles.filter (fun t => !cells.contains (t.1 / 256))
    tilePoison := s.tilePoison.filter (fun p => !cells.contains (p / 64 / 256))
    scratch := cells.foldl (fun (m : Memory) c => m.blit {} (scratchKey c ctx 0) 0 (2 ^ 20)) s.scratch
    counts := s.counts.filter (fun c => !on c.site c.ctx)
    killed := s.killed.filter (fun k => k.2.1 != ctx)
    halted := s.halted.filter (fun h => h.2 != ctx)
    ctl := { s.ctl with residents := s.ctl.residents.filter (fun r => r.ctx != ctx) } }

/-! ### The shadow share (R390, R398) -/

/-- The first MiB of the images that a shadow share holds copied back (R390). -/
def Shadow.copyBack (h : Shadow) (m : Memory) : Memory := h.bases.foldl (fun (m : Memory) b => m.blit h.mem b b (2 ^ 20)) m

/-- A partition's shadow share written back before it is reused or before a freeze; the header's SHADOWED is then 0. -/
def State.writeBack (s : State) (part : Nat) : State :=
  match s.ctl.shadows.find? (fun h => h.part == part) with
  | none => s
  | some h =>
    let save := (s.ctxWord h.ctx 10).toNat
    let m := h.copyBack s.mem
    let m1 := if m.read (save + 16) 8 = h.seq then setHeaderFlags m save (m.read (save + 32) 8 % 2) else m
    { s with mem := m1, ctl := { s.ctl with shadows := s.ctl.shadows.filter (fun x => x.part != part) } }

/-- The positions of the cells whose images the share holds: on each die as many as it has MiB (R390, R398). -/
def shadowedCells (cells : List Nat) (share : Nat) : List Nat :=
  (upFrom 0 8).flatMap (fun d => ((cells.zipIdx.filter (fun e => dieOf e.1 == d)).take share).map (·.2))

/-! ### The save (R389) -/

/-- Whether a receiving cell would take an offered token now (R26, R37, R41). -/
def State.wouldTake (s : State) (t : Token) : Bool :=
  t.remote.isSome
    || (!s.refusesDirect t && !s.parkDue t &&
      match s.present t with
      | .wait _ => t.isSignal
      | .park _ _ => decide (s.parkCount t.dcell < 256)
      | _ => true)

/-- Whether a commit is held: a receiving cell has refused one of its tokens or does not take it, the request table lacks
entries, or another instance keeps it back (R41, R49, R165, R167). -/
def State.heldCommit (s : State) (i : Inst) : Bool :=
  (s.offeredBy i).any (fun t => t.phase == .refused || (t.phase == .offered && !s.wouldTake t))
    || !decide ((i.effects.filter EffBody.takesEntry).length ≤ (s.openEntries i.site).length)
    || s.unitsReserved i i.writtenUnits || (!i.writtenUnits.isEmpty && s.exclusiveRun i)

/-- Whether every instance of a context has run out, or stands where the drain abandons it: a held commit, a validation that
waits for another instance, or a retry (R42, R165, R389 step 2). -/
def State.runnersOut (s : State) (ctx : Nat) : Bool :=
  s.insts.all (fun i => i.key.ctx != ctx ||
    match i.phase with
    | .offering => s.heldCommit i
    | .finished => s.otherExclusive i || s.unitsReserved i i.recordedUnits
    | .retrying => true
    | _ => false)

/-- Whether an operation of a context has an access in flight, other than held ones (R389 step 3). -/
def Op.inFlight (o : Op) : Bool :=
  match o.kind with
  | .prefetch _ => true
  | .engine e => e.part.isSome || e.buf.any (fun x => x.put != 0)
  | _ => o.parts.any (fun p => !p.performed && !p.isHeld)

/-- Whether a token of a context is still on its way inside the package (R389 step 4). -/
def State.tokensOut (s : State) (ctx : Nat) : Bool :=
  s.tokens.any (fun t => t.key.ctx == ctx && t.committed && t.phase == .offered && !t.mailed)

/-- Every Loading slot of a context emptied, with the signals of its `xld` instructions (R213, R389 step 3). -/
def State.dropLoads (s : State) (cells : List Nat) : State :=
  (s.gslots.filter (fun g => cells.contains g.site && g.st == .loading)).foldl (fun s g =>
    (s.emptySlot g.site g.slot).settleXlds g.site g.slot .ready) s

/-- Whether something of a context is unsettled on its cells: an access in flight, a request to the array, or a completion
whose signal is not yet applied (R213, R233, R389 steps 3 and 4). -/
def State.unsettled (s : State) (r : Resident) : Bool :=
  s.ops.any (fun o => o.key.ctx == r.ctx && (o.inFlight || o.complete))
    || s.carJobs.any (fun j => r.cells.contains j.site)
    || s.tokens.any (fun t => t.key.ctx == r.ctx && t.isSignal && t.phase == .accepted)

/-- The drain: once no runner, access, signal or token of the context is under way, the markers have passed every link
(R389, steps 1 to 4). -/
def execDrainMarker (ctx : Nat) (s : State) : Out :=
  match s.resident ctx with
  | none => .next s
  | some r =>
    if r.phase != .stopping || !s.runnersOut ctx then .next s
    else
      let s1 := (((s.insts.filter (fun i => i.key.ctx == ctx)).foldl State.abandon s).dropLoads r.cells).dropStuck r.cells
      if s1.unsettled r || s1.tokensOut ctx then .next s1
      else .next (s1.setResident ctx (fun r => { r with phase := .drained }))

/-- The switch that a partition is carrying out. -/
def State.activeSwitch (s : State) (part : Nat) : Option Switch := s.ctl.switches.find? (fun w => w.part == part)

/-- A save or a restore that fails with CONTEXT_STATE: who asked for it is told, and the next one is taken up (R376,
R394). Log 34 (DESIGN CHOICE). -/
def State.failSwitch (s : State) (w : Switch) : State :=
  let s1 : State := { s with ctl := { s.ctl with switches := s.ctl.switches.filter (fun x => x != w) } }
  let s2 :=
    match w.by_ with
    | .firmware => s1
    | .op id =>
      match s1.op id with
      | none => s1
      | some o => s1.faultOp o { cause := Cause.contextState.code, detail := 0, faddr := 0, value := 0, level := 0 } 0 none
  s2.pumpSwitch w.part (s2.ctl.switches.length + 1)

/-- The images and the header of a context written, and its residence ended (R389 step 5); the cells that were to be
retired then are (R413). Log 34 (DESIGN CHOICE). -/
def State.saveContext (s : State) (r : Resident) : State :=
  let s0 := s.writeBack r.part
  let seq := (s0.physWord (r.save + 16)).toNat + 1
  let shade := shadowedCells r.cells (wfield ((keyed s0.sys.parts r.part).getD 0) 23 6)
  let halted := r.cells.filter (fun c => s0.haltedAt c r.ctx)
  let images := r.cells.zipIdx.map (fun (c, k) =>
    (k, (s0.imageBytes r c (imageBase r.save k)).store (imageBase r.save k) 8 (s0.nextId + k + 1) false))
  let m := images.foldl (fun (m : Memory) (k, img) =>
    let b := imageBase r.save k
    if shade.contains k then m.blit img (b + 2 ^ 20) (b + 2 ^ 20) (imageSize - 2 ^ 20) else m.blit img b b imageSize) s0.mem
  let sh := images.foldl (fun (m : Memory) (k, img) =>
    let b := imageBase r.save k
    if shade.contains k then m.blit img b b (2 ^ 20) else m) {}
  let blocks := r.cells.zipIdx.map (fun (c, k) => s0.controlBlock r (s0.nextId + k + 1) seq c)
  let shadow : List Shadow :=
    if shade.isEmpty then [] else [⟨r.part, r.ctx, seq, shade.map (imageBase r.save), sh⟩]
  let s1 := s0.evacuate r.ctx r.cells
  let s2 : State :=
    { s1 with
      nextId := s1.nextId + r.cells.length + 1
      mem := saveHeader m r seq (!shade.isEmpty) halted
      ctl := { s1.ctl with images := s1.ctl.images ++ blocks, shadows := s1.ctl.shadows ++ shadow } }
  s2.retirePending r.cells

/-- The save of a drained context (R389 step 5, R394). Where its area is too small, the cells that were to be retired behind the
save are retired without it (R413). Log 42 (DEDUCED). -/
def execContextImageSave (ctx : Nat) (s : State) : Out :=
  match s.resident ctx with
  | none => .next s
  | some r =>
    if r.phase != .drained then .next s
    else
      match s.activeSwitch r.part with
      | none => .next s
      | some w =>
        if r.savelen * 65536 < 4096 + r.cells.length * imageSize then
          .next (((s.retirePending r.cells).setResident ctx (fun r => { r with phase := .up })).failSwitch w)
        else
          let s1 := s.saveContext r
          .next (s1.pumpSwitch r.part (s1.ctl.switches.length + 1))

/-! ### The restore (R391) -/

/-- Whether a user context's descriptor is accepted when it is loaded (R77, R359). -/
def State.descriptorSound (s : State) (ctx : Nat) : Bool :=
  let w (k : Nat) : W64 := s.ctxWord ctx k
  let a (k : Nat) : Nat := (w k).toNat
  let mblen := wfield (w 9) 0 24
  wbit (w 0) 0 && wfield (w 0) 7 57 == 0
    && wfield (w 1) 12 52 == 0 && wfield (w 1) 0 4 != 0 && wfield (w 1) 0 4 + wfield (w 1) 4 4 + wfield (w 1) 8 4 == 15
    && wfield (w 2) 0 13 == 0 && wfield (w 2) 52 12 == 0 && wfield (w 7) 32 32 == 0 && wfield (w 9) 24 40 == 0
    && wfield (w 11) 32 32 == 0 && [12, 13, 14, 15].all (fun k => w k == 0)
    && a 3 % 4096 == 0 && a 4 % 1024 == 0 && a 5 % 256 == 0 && a 6 % 65536 == 0 && a 8 % 4096 == 0 && a 10 % 65536 == 0
    && decide (64 ≤ mblen ∧ mblen ≤ 2 ^ 23) && mblen == 2 ^ mblen.log2
    && s.areaSound (wfield (w 2) 13 39 * 8192) 8192 && s.areaSound (a 3) (4096 * 32) && s.areaSound (a 4) 1024
    && s.areaSound (a 5) 256 && s.areaSound (a 6) (a 7 * 65536) && s.areaSound (a 8) (64 + 64 * mblen)
    && s.areaSound (a 10) (a 11 * 65536)

/-- The residence of a context as its descriptor gives it (R359, R361). Log 46 (DEDUCED). -/
def State.newResident (s : State) (ctx part : Nat) : Resident :=
  let w (k : Nat) : W64 := s.ctxWord ctx k
  { ctx := ctx, part := part, cells := s.partCells part, funits := wfield (w 1) 0 4, sunits := wfield (w 1) 4 4,
    lunits := wfield (w 1) 8 4, carve := w 1, ptroot := wfield (w 2) 13 39, cbtab := (w 3).toNat, xtab := (w 4).toNat,
    htab := (w 5).toNat, spill := (w 6).toNat, spilln := wfield (w 7) 0 32, mbox := (w 8).toNat, mblen := wfield (w 9) 0 24,
    save := (w 10).toNat, savelen := wfield (w 11) 0 32, phase := .presenting, since := s.sys.rtime,
    handlers := (upFrom 0 128).map (fun c => (s.physRead ((w 5).toNat + 2 * c) 2).1),
    xops := (upFrom 0 128).map (fun k => s.physWord ((w 4).toNat + 8 * k)) }

/-- Whether the header of a save area passes the checks of R393. -/
def State.headerSound (s : State) (r : Resident) : Bool :=
  let w := s.physWord r.save
  wfield w 0 32 == 0x56534358 && wfield w 32 16 == Config.revision.toNat && wfield w 48 8 == r.ctx && wfield w 56 6 == r.part
    && s.mem.read (r.save + 128) 144 == cellBitmap r.cells && s.physWord (r.save + 40) == headerCheck s.mem r.save

/-- Memory as a restore reads the images: the shadow share where it holds the same SEQ (R391 step 3).
Log 34 (DESIGN CHOICE). -/
def State.imageView (s : State) (r : Resident) : Memory :=
  let seq := s.mem.read (r.save + 16) 8
  match s.ctl.shadows.find? (fun h => h.part == r.part && h.ctx == r.ctx && h.seq == seq) with
  | some h => if wbit (s.physWord (r.save + 32)) 1 then h.copyBack s.mem else s.mem
  | none => s.mem

/-- A frame with its words read back from its image; one that no longer fits is Spilled, and a Dying one is then Dying again when
it is filled back (R33, R78, R391). Log 34 (DESIGN CHOICE). -/
def Frame.getImage (f : Frame) (m : Memory) (store funits : Nat) : Frame :=
  if f.life = .spilled then f
  else
    let at_ (k : Nat) : Nat := store + f.chunk * 512 + 8 * k
    let f1 : Frame :=
      { f with
        words := (upFrom 0 f.desc.words).map (fun k => (k, BitVec.ofNat 64 (m.read (at_ k) 8)))
        poison := (upFrom 0 f.desc.words).filter (fun k => m.poisoned (at_ k) 8) }
    if funits * 128 < f.chunk + f.desc.chunks then f1.spill else f1

/-- The tokens of an image that a retired cell loses count in TR, so that their launches can end (R413). -/
def Image.lostTr (m : Image) (lid : Nat) : Nat := (m.tokens.filter (fun t => t.counted && t.committed && t.lid == lid)).length

/-- What a retired cell's image loses: its launches are killed, and only the launch counters stay (R413).
Log 34 (DESIGN CHOICE). -/
def State.loseImage (s : State) (m : Image) : State :=
  let lids := (m.frames.map (·.lid) ++ m.tokens.map (·.lid) ++ m.items.map (·.lid) ++ m.ops.map (·.lid)).dedup
  let s1 := m.counts.foldl (fun (s : State) c => s.count c.site c.ctx c.lid c.ts (c.tr + m.lostTr c.lid)) s
  lids.foldl (fun s lid => s.markKilled m.ctx lid) s1

/-- Every request-table entry that an image takes. -/
def Image.entries (m : Image) : List Nat :=
  m.ops.map (·.hidx) ++ m.tokens.filterMap (·.hidx) ++ (m.items.filter (fun i => i.kind == 2)).map (·.hidx)

/-- Whether a cell's request table has room for an image: entries enough, and those of its held items free, as they keep
their numbers (R12, R372). Log 63 (DESIGN CHOICE). -/
def State.tableFits (s : State) (m : Image) : Bool :=
  let used := s.usedEntries m.site
  decide (used.length + m.entries.length ≤ 256) && m.heldEntries.all (fun h => !used.contains h)

/-- A frame of an image put back: in its matching-store entry, or in another where context 0 has taken that one meanwhile, or
Spilled where there is none (R12, R32). Log 63 (DESIGN CHOICE). -/
def State.putFrame (s : State) (f : Frame) : State :=
  if f.life == .spilled || (s.held f.site).all (fun x => x.entry != f.entry) then { s with frames := f :: s.frames }
  else
    match (s.freeEntries f.site).head? with
    | some e => { s with frames := { f with entry := e } :: s.frames }
    | none => { s with frames := f.spill :: s.frames }

/-- A ready entry of an image put back: on the cell while it holds fewer than 1,024, else among the overflowed ones, which stand in
the frame store where it still has room for them behind the frames, and in the spill area otherwise (R12, R44, R79).
Log 63 (DESIGN CHOICE). -/
def State.putReady (s : State) (e : Ready) : State :=
  let full : Bool := decide (1024 ≤ (s.ready.filter (fun r => r.site == e.site && !r.overflow)).length)
  let outside : Bool := e.overflow || full
  { s with ready := s.ready ++ [
      { e with overflow := outside, inSpill := outside && (e.inSpill || !s.overflowRoom e.site e.key.ctx) }] }

/-- The request-table entry in which an operation or a waiting signal of an image is put back: its own, or where context 0 has
taken that one meanwhile, one that the image does not take (R12). Log 63 (DESIGN CHOICE). -/
def State.entryFor (s : State) (site h : Nat) (spare : List Nat) : Nat :=
  if (s.usedEntries site).contains h then (((s.openEntries site).filter (fun e => !spare.contains e)).head?).getD h else h

/-- A token of an image put back: in the park buffer while it holds fewer than 256, else in the park overflow area (R37); a
waiting signal in its request-table entry or in another (R12). Log 63 (DESIGN CHOICE). -/
def State.putToken (s : State) (t : Token) (spare : List Nat) : State :=
  let phase : TokPhase :=
    match t.phase with
    | .parked r => if s.parkCount t.dcell < 256 then .parked r else .overflowed r
    | p => p
  { s with tokens := s.tokens ++ [{ t with phase := phase, hidx := t.hidx.map (fun h => s.entryFor t.dcell h spare) }] }

/-- An operation of an image put back: in its request-table entry, or in another where context 0 has taken that one
meanwhile and no record names it (R12). Log 63 (DESIGN CHOICE). -/
def State.putOp (s : State) (o : Op) (spare : List Nat) : State :=
  { s with ops := s.ops ++ [{ o with hidx := s.entryFor o.site o.hidx spare }] }

/-- The control block of an image put back on its cell (R12, R391 step 3). Log 63 (DESIGN CHOICE). -/
def State.loadBlock (s : State) (m : Image) (frames : List Frame) : State :=
  let s1 := frames.foldl State.putFrame s
  let s2 := m.tokens.foldl (fun s t => s.putToken t m.entries) s1
  let s3 := m.ready.foldl State.putReady s2
  let s4 := m.ops.foldl (fun s o => s.putOp o m.entries) s3
  let s5 := m.counts.foldl (fun (s : State) c => s.count c.site c.ctx c.lid c.ts c.tr) s4
  { s5 with
    items := m.items ++ s5.items
    gslots := m.gslots ++ s5.gslots
    windows := m.windows ++ s5.windows }

/-- A cell's image put back (R388, R391 step 3). Log 34 (DESIGN CHOICE). -/
def State.loadImage (s : State) (r : Resident) (view : Memory) (old : W64) (site k : Nat) : State :=
  let base := imageBase r.save k
  let (fo, so, lo) := imageRegions old
  let m := s.ctl.images.find? (fun i => i.ctx == r.ctx && i.site == site && i.id == view.read base 8)
  if s.hw.retired.contains site then (m.map s.loseImage).getD s
  else
    let rows := (upFrom 0 256).filterMap (fun n =>
      let v := view.read (base + 65536 + 512 * n) 512
      if v = 0 then none else some (site * 256 + n, BitVec.ofNat 4096 v))
    let bad := (upFrom 0 256).flatMap (fun n => (upFrom 0 64).filterMap (fun j =>
      if view.poisoned (base + 65536 + 512 * n + 8 * j) 8 then some ((site * 256 + n) * 64 + j) else none))
    let scratch :=
      if wfield old 4 4 = r.sunits then s.scratch.blit view (scratchKey site r.ctx 0) (base + so) (r.sunits * 65536) else s.scratch
    let lines : List LcLine :=
      if old = r.carve then
        (upFrom 0 (r.lunits * 512)).filterMap (fun n =>
          let w := BitVec.ofNat 64 (view.read (base + lo + 8 * n) 8)
          let pa := wfield w 7 45 * 128
          if wbit w 0 && s.inPools pa 128 then
            some ⟨site, r.ctx, pa, BitVec.ofNat 1024 (s.mem.read pa 128),
                  (unitsOf pa 128).filter (fun u => s.mem.poison.contains u)⟩
          else none)
      else []
    let s1 : State :=
      { s with
        tiles := rows.foldl (fun l e => putKeyed l e.1 e.2) s.tiles
        tilePoison := bad ++ s.tilePoison
        scratch := scratch
        lcache := lines ++ s.lcache }
    match m with
    | none => s1
    | some m => s1.loadBlock m (m.frames.map (fun f => f.getImage view (base + fo) r.funits))

/-- A graph slot reloaded at a restore: an unpinned one from the entry's present image, or Empty; a pinned one from its
recorded image, or its context halts on the cell (R211). It became Resident now (R213). Log 27 (DEDUCED). -/
def State.reloadSlot (s : State) (ctx : Nat) (g : GSlot) : State :=
  let (v, image) := s.graphEntry ctx g.n
  let from_ := if g.pins = 0 then image else g.image
  let fetches : Bool := !(g.pins = 0 && (!v || image.toNat % 64 != 0))
  let loaded : Option (List Nat × Graph) :=
    if !fetches then none
    else
      match s.fetchImage g.site ctx from_ with
      | .error _ => none
      | .ok bs => some (imageDefects bs (readGraph bs), readGraph bs)
  let s1 := if fetches then s.noteImage g.site ctx from_ else s
  match loaded with
  | some ([], f) => s1.updateSlot g.site g.slot (fun g => { g with image := from_, graph := f, broken := false, stuck := false, lastUse := s.tick })
  | some (c :: _, _) => if g.pins = 0 then s1.emptySlot g.site g.slot else s1.haltCarousel g c
  | none => if g.pins = 0 then s1.emptySlot g.site g.slot else s1.haltCarousel g 0x11

/-- Words as one number, the lowest first. -/
def numberOf64 (ws : List W64) : Nat := ws.foldr (fun w acc => w.toNat + 2 ^ 64 * acc) 0

/-- Words of the flits of a token in a mailbox, from flit `k` on (R237, R392). -/
def State.mailWords (s : State) (r : Resident) (slot k n : Nat) : List W64 :=
  (upFrom 0 n).map (fun j => s.physWord (r.mbox + 64 + 64 * ((slot + k + j / 8) % r.mblen) + 8 * (j % 8)))

/-- The payload of a token by its kind, and the number of its flits (R237, R366). -/
def State.mailPayload (s : State) (r : Resident) (slot kind : Nat) : Payload × Nat :=
  match kind with
  | 1 => (.word ((s.mailWords r slot 0 3).getD 2 0), 1)
  | 2 => (.vector (wordsVector (s.mailWords r slot 1 32)) 0, 5)
  | 4 => (.words (s.mailWords r slot 1 8), 2)
  | _ => (.none, 1)

/-- What sent a token, with the held data of a fault token, and the number of flits of that data (R366, R392). -/
def State.mailSource (s : State) (r : Resident) (slot : Nat) : TokSource × Nat :=
  match ((s.ctl.mailed.find? (fun e => e.1 == r.ctx && e.2.1 == slot)).map (·.2.2)).getD .send with
  | .fault item (some _) => (.fault item (some (wordsVector (s.mailWords r slot 2 32))), 4)
  | x => (x, 0)

/-- The scope of a header's RELS field (R237). -/
def releaseScope (n : Nat) : Option Scope :=
  match n with
  | 1 => some .cell
  | 2 => some .die
  | 3 => some .pkg
  | 4 => some .sys
  | _ => none

/-- The token that stands in a mailbox from a slot on, and the number of slots it takes (R237, R366, R392). Its commit number
is 0 and its place in program order its slot, so that it comes before every commit since, in slot order (R243, R391). -/
def State.mailAt (s : State) (r : Resident) (slot : Nat) : Token × Nat :=
  let h := numberOf64 (s.mailWords r slot 0 2)
  let kind := field h 86 3
  let p := s.mailPayload r slot kind
  let src := s.mailSource r slot
  ({ unitToken src.1 ⟨r.ctx, field h 8 12, BitVec.ofNat 32 (field h 20 32)⟩ (field h 59 4) kind (field h 89 8)
      (field h 64 11) (field h 75 11) (field h 53 6) p.1 with
      epoch := field h 52 1 == 1, rels := releaseScope (field h 97 3), psn := field h 63 1 == 1, mailed := true, prog := slot },
   p.2 + src.2)

/-- The tokens of a mailbox presented in slot order, from slot number `slot` to `stop` (R391 step 5). -/
def State.presentMail (s : State) (r : Resident) (slot stop fuel : Nat) : State :=
  match fuel with
  | 0 => s
  | k + 1 =>
    if stop ≤ slot then s else (s.sendToken (s.mailAt r slot).1).presentMail r (slot + (s.mailAt r slot).2) stop k

/-- The cells of a partition as a restore finds them, with nothing of an earlier context in their units, their instruction caches
invalidated, and no descriptor loaded and no window entry set for the context (R110, R302, R376, R391). What
cells keep for the context while it is away stays: held tokens with their items, kept actions, and counts (R48, R367,
R372). Log 34 (DESIGN CHOICE). -/
def State.clearUnits (s : State) (ctx : Nat) (cells : List Nat) : State :=
  { s with
    gslots := s.gslots.filter (fun g => !cells.contains g.site)
    descs := s.descs.filter (fun d => !(d.ctx == ctx && cells.contains d.site))
    windows := s.windows.filter (fun w => !(w.ctx == ctx && cells.contains w.site))
    icache := s.icache.filter (fun w => !cells.contains w.site)
    tiles := s.tiles.filter (fun t => !cells.contains (t.1 / 256))
    tilePoison := s.tilePoison.filter (fun p => !cells.contains (p / 64 / 256))
    scratch := cells.foldl (fun (m : Memory) c => m.blit {} (scratchKey c ctx 0) 0 (2 ^ 20)) s.scratch }

/-- Steps 3 to 5 of a restore, up to the presenting of the mailbox (R391). -/
def State.restoreContext (s : State) (r : Resident) : State :=
  let c := s.clearUnits r.ctx r.cells
  let s0 : State := { c with ctl := { c.ctl with residents := r :: c.ctl.residents } }
  let valid := wbit (s.physWord (r.save + 32)) 0
  let s1 :=
    if valid then r.cells.zipIdx.foldl (fun s2 (c, k) => s2.loadImage r (s.imageView r) (s.physWord (r.save + 24)) c k) s0
    else s0
  let marked : List Nat :=
    if valid then r.cells.filter (fun c => (s.mem.read (r.save + 512) 144).testBit c) else []
  let s2 : State := { s1 with halted := marked.map (fun c => (c, r.ctx)) ++ s1.halted }
  let s3 := (s2.gslots.filter (fun g => r.cells.contains g.site)).foldl (fun s g => s.reloadSlot r.ctx g) s2
  let dead := s3.ctl.launches.filter (fun l => l.ctx == r.ctx && l.killed)
  let s4 := dead.foldl (fun s l => r.cells.foldl (fun s c => s.killMark c r.ctx l.lid) s) s3
  let s5 := (s4.actions.filter (fun a => a.ctx == r.ctx && r.cells.contains a.site && s4.commitDone a.seq)).foldl
    (fun s a => s.deliverAction a) s4
  let resv := (s5.physWord r.mbox).toNat
  let cons := (s5.physWord (r.mbox + 8)).toNat
  let s6 := (s5.presentMail r cons resv (resv - cons)).physStore (r.mbox + 8) 8 resv false
  { s6 with ctl := { s6.ctl with mailed := s6.ctl.mailed.filter (fun e => e.1 != r.ctx) } }

/-- Whether every cell's request table has room for its image (R12). Log 63 (DESIGN CHOICE). -/
def State.restoreFits (s : State) (r : Resident) : Bool :=
  !wbit (s.physWord (r.save + 32)) 0
    || r.cells.zipIdx.all (fun (c, k) =>
      match s.ctl.images.find? (fun i => i.ctx == r.ctx && i.site == c && i.id == (s.imageView r).read (imageBase r.save k) 8) with
      | some m => s.hw.retired.contains c || s.tableFits m
      | none => true)

/-- A restore of a context onto its partition, once no user context is resident there and the request tables have room; or
CONTEXT_STATE (R376, R391). -/
def execContextRestore (ctx : Nat) (s : State) : Out :=
  match s.ctl.switches.find? (fun w => w.restore == some ctx && s.activeSwitch w.part == some w && (s.residentIn w.part).isNone) with
  | none => .next s
  | some w =>
    let r := s.newResident ctx w.part
    if (s.resident ctx).isSome || !s.descriptorSound ctx || wfield (s.ctxWord ctx 0) 1 6 != w.part || r.cells.isEmpty
        || (wbit (s.physWord (r.save + 32)) 0 && !s.headerSound r) then .next (s.failSwitch w)
    else if !s.restoreFits r then .next s
    else .next (s.restoreContext r)

/-- Step 6 of a restore: once the mailbox tokens have been met and the kept actions applied, direct tokens are accepted
and firing resumes (R391). -/
def execRestoreResume (ctx : Nat) (s : State) : Out :=
  match s.resident ctx with
  | none => .next s
  | some r =>
    if r.phase != .presenting
        || s.tokens.any (fun t => t.mailed && t.key.ctx == ctx && (t.phase == .offered || t.phase == .refused))
        || s.actions.any (fun a => a.ctx == ctx && r.cells.contains a.site) then .next s
    else
      let s1 := s.setResident ctx (fun r => { r with phase := .up, since := s.sys.rtime })
      let s2 : State :=
        { s1 with
          tokens := s1.tokens.map (fun t => if t.key.ctx == ctx then { t with mailed := false } else t)
          ctl := { s1.ctl with waiting := s1.ctl.waiting.filter (· != ctx) } }
      match s2.activeSwitch r.part with
      | none => .next s2
      | some w =>
        let s3 := s2.endSwitch w
        .next (s3.pumpSwitch r.part (s3.ctl.switches.length + 1))

/-! ### Halt (R375) -/

/-- A user context discarded everywhere (R375); the cells that were to be retired behind its save then are (R413).
Log 35 (DEDUCED), 42 (DEDUCED). -/
def State.haltContext (s : State) (ctx : Nat) : State :=
  let cells := ((s.resident ctx).map (·.cells)).getD []
  let part := ((s.resident ctx).map (·.part)).getD 64
  let save := (s.ctxWord ctx 10).toNat
  let (box, _) := s.mailbox ctx
  let ended := s.ctl.launches.filter (fun l => l.ctx == ctx)
  let s1 := (s.insts.filter (fun i => i.key.ctx == ctx)).foldl (fun s i => s.dropRequest i) s
  let s2 : State := { s1 with
    insts := s1.insts.filter (fun i => i.key.ctx != ctx)
    tokens := s1.tokens.filter (fun t => t.key.ctx != ctx)
    items := s1.items.filter (fun x => x.ctx != ctx && x.key.ctx != ctx)
    carJobs := s1.carJobs.filter (fun j => !cells.contains j.site) }
  let s3 := s2.evacuate ctx cells
  let s4 := s3.physStore (box + 8) 8 (s3.physWord box).toNat false
  let m := if wbit (s4.physWord (save + 32)) 0 then setHeaderFlags s4.mem save 0 else s4.mem
  let s5 : State :=
    { s4 with
      mem := m
      ctl := { s4.ctl with
        shadows := s4.ctl.shadows.filter (fun h => h.ctx != ctx)
        mailed := s4.ctl.mailed.filter (fun e => e.1 != ctx)
        waiting := s4.ctl.waiting.filter (· != ctx) } }
  let s6 := (ended.foldl (fun s l => s.endLaunch l (if l.killed then 3 else 4)) s5).retirePending cells
  s6.pumpSwitch part (s6.ctl.switches.length + 1)

/-- A `halt` carried out once no access of the context is being performed, and its slot can be signalled (R375).
Log 35 (DEDUCED). -/
def execHaltComplete (op : Nat) (s : State) : Out :=
  match s.op op with
  | none => .next s
  | some o =>
    match o.kind with
    | .sys (.halt ctx) false =>
      let busy : Bool := s.ops.any (fun x => x.key.ctx == ctx && x.parts.any (fun p =>
        match p.st with
        | .translated _ => true
        | _ => false))
      if ctx = 0 then .next (s.updateOp op (fun o => { o with kind := .sys (.halt ctx) true }))
      else if busy then .next s
      else .next ((s.haltContext ctx).updateOp op (fun o => { o with kind := .sys (.halt ctx) true }))
    | _ => .next s

end Sys2Proof.Machine
end

