-- ==== Sys2Proof/Machine/Control.lean ====
section
/-! DEFINITION. Threadlet control, majors 0x09 to 0x0D (R155 to R158). -/

namespace Sys2Proof.Machine

/-- The address that lies a number of words from an instruction's first word (R116). -/
def branchTarget (c : Cur) {n : Nat} (o : BitVec n) : VAddr := c.addr + o.signExtend 72 * 4

/-- A compare and branch (R155). -/
def branchIf (test : Inst → Bool) (o : BitVec 27) : State → Out :=
  lift (fun _ i c => .ok (if test i then { i with pc := branchTarget c o } else i))

/-- A comparison of two registers. -/
def branchReg (f : W64 → W64 → Bool) (a b : Reg) (o : BitVec 27) : State → Out :=
  branchIf (fun i => f (i.getS a) (i.getS b)) o

/-- A comparison of a register with a sign-extended immediate. -/
def branchImm (f : W64 → W64 → Bool) (a : Reg) (b : BitVec 5) (o : BitVec 27) : State → Out :=
  branchIf (fun i => f (i.getS a) (b.signExtend 64)) o

/-- Whether a register holds 1 at the bit that the low 6 bits of another number name. -/
def bitSet (x y : W64) : Bool := x.getLsbD (y.toNat % 64)

def execBeq (a b : Reg) (o : BitVec 27) : State → Out := branchReg (· == ·) a b o
def execBne (a b : Reg) (o : BitVec 27) : State → Out := branchReg (· != ·) a b o
def execBltI64 (a b : Reg) (o : BitVec 27) : State → Out := branchReg BitVec.slt a b o
def execBgeI64 (a b : Reg) (o : BitVec 27) : State → Out := branchReg (fun x y => !x.slt y) a b o
def execBltN64 (a b : Reg) (o : BitVec 27) : State → Out := branchReg BitVec.ult a b o
def execBgeN64 (a b : Reg) (o : BitVec 27) : State → Out := branchReg (fun x y => !x.ult y) a b o
def execBbs (a b : Reg) (o : BitVec 27) : State → Out := branchReg bitSet a b o
def execBbc (a b : Reg) (o : BitVec 27) : State → Out := branchReg (fun x y => !bitSet x y) a b o

def execBeqImm (a : Reg) (b : BitVec 5) (o : BitVec 27) : State → Out := branchImm (· == ·) a b o
def execBneImm (a : Reg) (b : BitVec 5) (o : BitVec 27) : State → Out := branchImm (· != ·) a b o
def execBltI64Imm (a : Reg) (b : BitVec 5) (o : BitVec 27) : State → Out := branchImm BitVec.slt a b o
def execBgeI64Imm (a : Reg) (b : BitVec 5) (o : BitVec 27) : State → Out := branchImm (fun x y => !x.slt y) a b o
def execBltN64Imm (a : Reg) (b : BitVec 5) (o : BitVec 27) : State → Out := branchImm BitVec.ult a b o
def execBgeN64Imm (a : Reg) (b : BitVec 5) (o : BitVec 27) : State → Out := branchImm (fun x y => !x.ult y) a b o
def execBbsImm (a : Reg) (b : BitVec 5) (o : BitVec 27) : State → Out :=
  branchIf (fun i => (i.getS a).getLsbD b.toNat) o
def execBbcImm (a : Reg) (b : BitVec 5) (o : BitVec 27) : State → Out :=
  branchIf (fun i => !(i.getS a).getLsbD b.toNat) o

/-- `j` (R156). -/
def execJ (o : BitVec 35) : State → Out := lift (fun _ i c => .ok { i with pc := branchTarget c o })

/-- `jt`: the word of the table that sA selects, or the word after the table (R157); `n` holds the entry count less 1. -/
def execJt (a : Reg) (n : BitVec 10) : State → Out :=
  lift (fun _ i c =>
    let count := n.toNat + 1
    let k := if (i.getS a).toNat < count then (i.getS a).toNat else count
    .ok { i with pc := c.addr + BitVec.ofNat 72 (4 + 4 * k) })

/-- `fin`: the run ends, and its commit proceeds (R41, R158, R165). -/
def execFin (s : State) : Out :=
  match s.cur with
  | none => .fault .noInstance
  | some c =>
    match s.instAt c.site c.runner with
    | none => .fault .noInstance
    | some i => .next (s.finishRun (i.past c))

end Sys2Proof.Machine
end

