-- ==== Sys2Proof/Machine/FrameAccess.lean ====
section
/-! DEFINITION. Frame access, major 0x10 (R159 to R161), and scratch access and scratch atomics, majors 0x11 to 0x14
(R162 to R164). -/

namespace Sys2Proof.Machine

/-! ### Major 0x10 (R159 to R161) -/

def execFld (d a : Reg) (m : BitVec 27) : State → Out :=
  lift (fun s i _ => do
    let f := s.frameOf i
    let k ← frameIndex f (baseOffset (i.getS a) m)
    let w ← readWord f i k
    return i.setS d w)

def execFst (d a : Reg) (m : BitVec 27) : State → Out :=
  lift (fun s i _ => do
    let k ← frameIndex (s.frameOf i) (baseOffset (i.getS a) m)
    i.effect (.frameWord k (i.getS d)))

def execFldv (d a : Reg) (m : BitVec 27) : State → Out :=
  lift (fun s i _ => do
    let f := s.frameOf i
    let j ← vectorIndex f (baseOffset (i.getS a) m)
    let v ← readVector f i j
    return i.setV d v)

def execFstv (d a : Reg) (m : BitVec 27) : State → Out :=
  lift (fun s i _ => do
    let j ← vectorIndex (s.frameOf i) (baseOffset (i.getS a) m)
    i.effect (.frameVector j (i.getV d)))

/-- `fld` of the FSW as it stands at issue, without the flags of the executing instance (R161). -/
def execFldFsw (d : Reg) : State → Out := lift (fun s i _ => .ok (i.setS d (s.frameOf i).fsw))

/-! ### Majors 0x11 and 0x12 (R162) -/

def execSld (d a : Reg) (t : LoadTy) (m : BitVec 27) : State → Out :=
  lift (fun s i _ => do
    let o ← scratchSpan (s.scratchBound i.key.ctx) (baseOffset (i.getS a) m) t.bytes
    let (bs, _) ← s.readScratch i o t.bytes
    return i.setS d (extendTo64 t.signed (8 * t.bytes) (numberOf bs)))

def execSst (d a : Reg) (t : Size) (m : BitVec 27) : State → Out :=
  lift (fun s i _ => do
    let o ← scratchSpan (s.scratchBound i.key.ctx) (baseOffset (i.getS a) m) t.bytes
    i.effect (.scratch (bytesAt o t.bytes (i.getS d).toNat)))

/-! ### Major 0x13 (R163) -/

/-- The offsets of the elements of a vector scratch access: from the sum of two registers upward (R163). -/
def unitOffsets (i : Inst) (a b : Reg) (e : Nat) (k : Nat) : Int := (i.getS a).toNat + (i.getS b).toNat + k * e

/-- The offsets of the elements of an indexed scratch access, X(k) read as unsigned (R163). -/
def indexOffsets (i : Inst) (a b : Reg) (e : Nat) (k : Nat) : Int :=
  (i.getS a).toNat + (elemAt 32 (i.getV b) k * e : Nat)

/-- A trap that names a lane (R364). -/
def atLane {α : Type} (k : Nat) (r : Except Trap α) : Except Trap α := r.mapError (fun t => { t with lane := k })

/-- The active elements read from scratch, checked in ascending lane order before any takes effect (R163). -/
def State.loadLanes (s : State) (i : Inst) (m : W64) (n e : Nat) (off : Nat → Int) : Except Trap (List Nat) := do
  let bound := s.scratchBound i.key.ctx
  (upFrom 0 n).mapM (fun k =>
    if active m k then
      atLane k (do
        let o ← scratchSpan bound (off k) e
        let (bs, _) ← s.readScratch i o e
        return numberOf bs)
    else .ok 0)

/-- The bytes that the active elements write, in ascending lane order (R163). -/
def State.storeLanes (s : State) (i : Inst) (m : W64) (n e : Nat) (v : VWord) (off : Nat → Int) :
    Except Trap (List (Nat × Byte)) := do
  let bound := s.scratchBound i.key.ctx
  let ls ← (upFrom 0 n).mapM (fun k =>
    if active m k then
      atLane k (do
        let o ← scratchSpan bound (off k) e
        return bytesAt o e (elemAt (8 * e) v k))
    else .ok [])
  return ls.flatten

/-- A vector scratch load. -/
def vectorLoad (off : Inst → Reg → Reg → Nat → Nat → Int) (d a b : Reg) (k : MReg) (t : ElemTy) : State → Out :=
  lift (fun s i _ => do
    let e := t.width / 8
    let m := i.getM k
    let l ← s.loadLanes i m (elemCount t.width) e (off i a b e)
    return i.setV d (masked false m t.width (i.getV d) (fun j => l.getD j 0)))

/-- A vector scratch store: pending. -/
def vectorStore (off : Inst → Reg → Reg → Nat → Nat → Int) (d a b : Reg) (k : MReg) (t : ElemTy) : State → Out :=
  lift (fun s i _ => do
    let e := t.width / 8
    let bs ← s.storeLanes i (i.getM k) (elemCount t.width) e (i.getV d) (off i a b e)
    i.effect (.scratch bs))

def execSldv (d a b : Reg) (k : MReg) (t : ElemTy) : State → Out := vectorLoad unitOffsets d a b k t
def execSstv (d a b : Reg) (k : MReg) (t : ElemTy) : State → Out := vectorStore unitOffsets d a b k t
def execSldx (d a b : Reg) (k : MReg) (t : ElemTy) : State → Out := vectorLoad indexOffsets d a b k t
def execSstx (d a b : Reg) (k : MReg) (t : ElemTy) : State → Out := vectorStore indexOffsets d a b k t

/-! ### Major 0x14 (R164) -/

/-- A scratch atomic: `f` gives the new value, or none when a compare fails and nothing is written (R164). The effect
counts either way (R140). An offset that is both out of range and misaligned reports SCRATCH_RANGE. Log 58 (DESIGN CHOICE). -/
def samo (w : Bool) (f : Nat → Inst → Option Nat) (d a : Reg) : State → Out :=
  lift (fun s i _ => do
    let e := if w then 8 else 4
    let o ← scratchSpan (s.scratchBound i.key.ctx) (i.getS a).toNat e
    if o % e ≠ 0 then throw { cause := .scratchAlign, faddr := o }
    let (bs, taken) ← s.readScratch i o e
    let old := numberOf bs
    let i1 := { i with recorded := i.recorded ++ taken }
    let i2 ← i1.effect (match f old i with
      | some v => .scratch (bytesAt o e v)
      | none => .nothing)
    return i2.setS d (BitVec.ofNat 64 old))

/-- The low e bytes of a register (R164). -/
def lowOf (w : Bool) (x : W64) : Nat := if w then x.toNat else x.toNat % 2 ^ 32

/-- The order of two e-byte values, signed or unsigned (R164). -/
def samoLess (w u : Bool) (x y : Nat) : Bool :=
  if u then decide (x < y) else decide (signedOf (if w then 64 else 32) x < signedOf (if w then 64 else 32) y)

def execSamoAdd (d a b : Reg) (w : Bool) : State → Out := samo w (fun o i => some (o + lowOf w (i.getS b))) d a
def execSamoAnd (d a b : Reg) (w : Bool) : State → Out := samo w (fun o i => some (o &&& lowOf w (i.getS b))) d a
def execSamoOr (d a b : Reg) (w : Bool) : State → Out := samo w (fun o i => some (o ||| lowOf w (i.getS b))) d a
def execSamoXor (d a b : Reg) (w : Bool) : State → Out := samo w (fun o i => some (o ^^^ lowOf w (i.getS b))) d a
def execSamoMin (d a b : Reg) (w u : Bool) : State → Out :=
  samo w (fun o i => let x := lowOf w (i.getS b); some (if samoLess w u x o then x else o)) d a
def execSamoMax (d a b : Reg) (w u : Bool) : State → Out :=
  samo w (fun o i => let x := lowOf w (i.getS b); some (if samoLess w u o x then x else o)) d a
def execSamoSwap (d a b : Reg) (w : Bool) : State → Out := samo w (fun _ i => some (lowOf w (i.getS b))) d a
def execSamoCas (d a b c : Reg) (w : Bool) : State → Out :=
  samo w (fun o i => if o = lowOf w (i.getS c) then some (lowOf w (i.getS b)) else none) d a

end Sys2Proof.Machine
end

