-- ==== Sys2Proof/Machine/Queues.lean ====
section
/-! DEFINITION. The host's side (R314 to R326, R336 to R339): REGISTER_WRITE, QUEUE_ENABLE, QUEUE_DISABLE, QUEUE_KICK,
F1BIND_WRITE, APERTURE_READ, APERTURE_WRITE, PACKET_FETCH, PACKET_REREAD and COMPLETION_RECORD; the registers of BAR0 and
BAR4 as the host reads and writes them, with DOORBELL (R355) and PLIM_WRITE (R416). -/

namespace Sys2Proof.Machine

/-! ### Queue blocks (R319 to R322) -/

/-- A queue block replaced by what a function makes of it. -/
def State.updateQueue (s : State) (fn q : Nat) (f : Queue → Queue) : State :=
  { s with io := { s.io with queues := putKeyed s.io.queues (256 * fn + q) (f (s.queue fn q)) } }

/-- Numbers of the queue statuses (R322). -/
def QStatus.ok : Nat := 0
/-- R337. -/
def QStatus.stale : Nat := 1
/-- R324. -/
def QStatus.kickRange : Nat := 2
/-- R337. -/
def QStatus.fetchError : Nat := 3
/-- R321. -/
def QStatus.badConfig : Nat := 4

/-- The first word of a queue block as the host reads it: in F1, CTX is the binding and CTL is 0 (R319, R320). -/
def State.queueWord (s : State) (fn q : Nat) : W64 :=
  let u := s.queue fn q
  BitVec.ofNat 64 (u.en.toNat + u.loc.toNat * 2 + u.qlog % 16 * 2 ^ 2 + s.queueCtx fn q % 256 * 2 ^ 6
    + (if fn = 1 then 0 else u.ctl.toNat * 2 ^ 14) + u.vec % 2 ^ 11 * 2 ^ 15 + u.ien.toNat * 2 ^ 26)

/-- The fields of the first word that a write reaches: VEC and IEN always, LOC, QLOG, CTX and CTL only while EN is 0, and
in F1 never CTX and CTL (R319, R321). -/
def Queue.write (u : Queue) (fn : Nat) (v : W64) : Queue :=
  let u1 : Queue := { u with vec := wfield v 15 11, ien := wbit v 26 }
  if u.en then u1
  else
    let u2 : Queue := { u1 with loc := wbit v 1, qlog := wfield v 2 4 }
    if fn = 1 then u2 else { u2 with ctx := wfield v 6 8, ctl := wbit v 14 }

/-- Whether a queue block passes the checks of an enable (R320, R321). -/
def Queue.sound (u : Queue) (fn ctx : Nat) : Bool :=
  decide (4 ≤ u.qlog ∧ u.qlog ≤ 15) && decide (4 ≤ u.cqlog ∧ u.cqlog ≤ 15) && u.qbase % 4096 == 0 && u.cqbase % 4096 == 0
    && !(fn == 1 && ctx == 0)

/-- A queue block after the write that sets EN (R321). Log 36 (DEDUCED). -/
def Queue.enable (u : Queue) (fn ctx : Nat) : Queue :=
  if u.sound fn ctx then
    { u with en := true, status := QStatus.ok, misses := 0, cidx := 0, cqhead := 0, limit := 0, k := 0, stopped := false }
  else { u with status := QStatus.badConfig }

/-- A write of the first word of a queue block (R319 to R321). -/
def State.writeQueueWord (s : State) (fn q : Nat) (v : W64) : State :=
  let ctx := if fn = 1 then (keyed s.io.f1bind q).getD 0 else 0
  s.updateQueue fn q (fun u =>
    if wbit v 0 then if u.en then u.write fn v else (u.write fn v).enable fn ctx
    else { u.write fn v with en := false })

/-- Whether a queue number and a function exist. -/
def queueExists (fn q : Nat) : Bool := decide (fn < 2 ∧ q < 256)

/-- A write that sets EN of a queue (R321). -/
def execQueueEnable (fn q : Nat) (value : BitVec 64) (s : State) : Out :=
  if queueExists fn q && wbit value 0 then .next (s.writeQueueWord fn q value) else .next s

/-- A write that clears EN of a queue: the fetching stops (R321). -/
def execQueueDisable (fn q : Nat) (value : BitVec 64) (s : State) : Out :=
  if queueExists fn q && !wbit value 0 then .next (s.writeQueueWord fn q value) else .next s

/-- The tag and the payload of a queue's events (R347). -/
def State.queueEvent (s : State) (cls fn q : Nat) (w : W64) : State := s.raiseEvent cls (256 * fn + q) [w]

/-- Distance of two packet counts modulo 2^32 (R324). -/
def countUp (a b : Nat) : Nat := (a + 2 ^ 32 - b % 2 ^ 32) % 2 ^ 32

/-- A kick (R322, R324, R337, R347). Log 36 (DEDUCED). -/
def State.kick (s : State) (fn q pidx : Nat) : State :=
  let u := s.queue fn q
  if !u.en then s
  else if countUp pidx u.cidx ≤ 2 ^ u.qlog then
    let s1 := s.updateQueue fn q (fun u =>
      { u with
        limit := if countUp pidx u.limit ≤ 2 ^ u.qlog then pidx else u.limit
        misses := if u.stopped then 0 else u.misses
        stopped := false
        status := QStatus.ok })
    s1.queueEvent 0 fn q (BitVec.ofNat 64 pidx)
  else s.updateQueue fn q (fun u => { u with status := QStatus.kickRange })

/-- A write of PIDX (R324). -/
def execQueueKick (fn q : Nat) (pidx : BitVec 32) (s : State) : Out :=
  if queueExists fn q then .next (s.kick fn q pidx.toNat) else .next s

/-- The binding of a queue of F1 written, while that queue is not enabled (R320). -/
def State.bindF1 (s : State) (q : Nat) (v : W64) : State :=
  if (s.queue 1 q).en then s else { s with io := { s.io with f1bind := putKeyed s.io.f1bind q (wfield v 0 8) } }

/-- A write of F1BIND through F0 (R320). -/
def execF1bindWrite (q : Nat) (value : BitVec 64) (s : State) : Out :=
  if q < 256 then .next (s.bindF1 q value) else .next s

/-! ### The mailbox registers (R355, R416) -/

/-- A write of DOORBELL: accepted when BUSY is 0 (R355). Log 37 (DEDUCED). -/
def State.doorbell (s : State) (v : BitVec 32) : State :=
  if s.io.mbBusy then s
  else
    let n := s.io.doorbells + 1
    { s with io := { s.io with mbBusy := true, doorbell := v, doorbells := n } }.raiseEvent 7 n.toNat [v.setWidth 64]

/-- A write of DOORBELL (R355). -/
def execDoorbell (value : BitVec 32) (s : State) : Out := .next (s.doorbell value)

/-- A write of PLIM (R416). -/
def State.writePlim (s : State) (v : W64) : State := { s with hw := { s.hw with plim := wfield v 0 16 } }

/-- A write of PLIM (R416). -/
def execPlimWrite (value : BitVec 64) (s : State) : Out := .next (s.writePlim value)

/-! ### BAR0 and BAR4 (R316, R318, R355) -/

/-- A register of BAR0 as the host reads it, at an offset that is a multiple of 8 (R318, R319, R320). -/
def State.readBar0 (s : State) (fn off : Nat) : W64 :=
  if off = 0 then BitVec.ofNat 64 (0x5609 + fn * 2 ^ 16 + Config.revision.toNat * 2 ^ 24 + 256 * 2 ^ 32)
  else if off = 8 then BitVec.ofNat 64 ((keyed s.io.apbase fn).getD 0 * 2 ^ 36)
  else if off = 0x10 then s.sys.pools
  else if 0x1000 ≤ off ∧ off < 0x5000 then
    let q := (off - 0x1000) / 64
    let u := s.queue fn q
    match off % 64 with
    | 0 => s.queueWord fn q
    | 8 => BitVec.ofNat 64 u.qbase
    | 16 => BitVec.ofNat 64 u.cqbase
    | 24 => BitVec.ofNat 64 (u.cqlog % 16)
    | 32 => BitVec.ofNat 64 (u.status % 256 + u.misses % 128 * 2 ^ 16)
    | 40 => BitVec.ofNat 64 (u.cidx % 2 ^ 32)
    | 48 => BitVec.ofNat 64 (u.cqhead % 2 ^ 32)
    | _ => 0
  else if 0x20000 ≤ off ∧ off < 0x20800 then BitVec.ofNat 64 ((s.queue fn ((off - 0x20000) / 8)).limit % 2 ^ 32)
  else if 0x30000 ≤ off ∧ off < 0x30800 ∧ fn = 0 then BitVec.ofNat 64 ((keyed s.io.f1bind ((off - 0x30000) / 8)).getD 0)
  else 0

/-- A register of BAR0 written whole. -/
def State.writeBar0 (s : State) (fn off : Nat) (v : W64) : State :=
  if off = 8 then { s with io := { s.io with apbase := putKeyed s.io.apbase fn (wfield v 36 5) } }
  else if 0x1000 ≤ off ∧ off < 0x5000 then
    let q := (off - 0x1000) / 64
    let closed (f : Queue → Queue) : State := s.updateQueue fn q (fun u => if u.en then u else f u)
    match off % 64 with
    | 0 => s.writeQueueWord fn q v
    | 8 => closed (fun u => { u with qbase := v.toNat })
    | 16 => closed (fun u => { u with cqbase := v.toNat })
    | 24 => closed (fun u => { u with cqlog := wfield v 0 4 })
    | 48 => s.updateQueue fn q (fun u => { u with cqhead := wfield v 0 32 })
    | _ => s
  else if 0x20000 ≤ off ∧ off < 0x20800 then s.kick fn ((off - 0x20000) / 8) (wfield v 0 32)
  else if 0x30000 ≤ off ∧ off < 0x30800 ∧ fn = 0 then s.bindF1 ((off - 0x30000) / 8) v
  else s

/-- Whether a register acts on the write of its low half alone, so that a write of its high half does nothing. -/
def lowHalfActs (off : Nat) : Bool := decide (0x20000 ≤ off ∧ off < 0x20800)

/-- A naturally aligned write of 4 or 8 bytes to BAR0; the half that a 4-byte write leaves out stays as it reads (R318).
Log 36 (DEDUCED). -/
def State.hostWrite0 (s : State) (fn off : Nat) (wide : Bool) (v : W64) : State :=
  if wide then s.writeBar0 fn off v
  else
    let base := off / 8 * 8
    let old := s.readBar0 fn base
    if off % 8 = 0 then s.writeBar0 fn base ((old >>> 32) <<< 32 ||| (v.setWidth 32 : Word).setWidth 64)
    else if lowHalfActs base then s
    else s.writeBar0 fn base (v <<< 32 ||| (old.setWidth 32 : Word).setWidth 64)

/-- What the host reads in BAR4, one aligned unit (R355). -/
def State.readBar4 (s : State) (off : Nat) : W64 :=
  if off = 0x10 then 0 else BitVec.ofNat 64 (s.physRead (rmBoxBase + off) 8).1

/-- A naturally aligned write of 4 or 8 bytes to BAR4 of F0 (R355): REQ, DOORBELL and PLIM take writes. One to REQ while BUSY is 1
leaves what the unit held for the copy that the server may have made (R356). Log 65 (DESIGN CHOICE). -/
def State.hostWrite4 (s : State) (off : Nat) (wide : Bool) (v : W64) : State :=
  if off = 0 then s.doorbell (v.setWidth 32)
  else if off = 0x8010 then
    s.writePlim v
  else if 0x100 ≤ off ∧ off < 0x1000 then
    let s1 : State :=
      if s.io.mbBusy then { s with io := { s.io with reqOld := s.io.reqOld ++ [s.mem.copyUnit (unitOf (rmBoxBase + off))] } } else s
    s1.physStore (rmBoxBase + off) (if wide then 8 else 4) v.toNat false
  else s

/-- A write of the host to a register of BAR0, or of BAR4 of F0 (R316, R318, R355). -/
def execRegisterWrite (bar fn off : Nat) (wide : Bool) (value : BitVec 64) (s : State) : Out :=
  if !decide (fn < 2) || off % (if wide then 8 else 4) != 0 then .next s
  else if bar = 0 then .next (s.hostWrite0 fn off wide value)
  else if bar = 4 ∧ fn = 0 then .next (s.hostWrite4 off wide value)
  else .next s

/-! ### The aperture (R317) -/

/-- The physical address that an aperture offset reaches. -/
def State.apertureAddress (s : State) (fn off : Nat) : Nat := (keyed s.io.apbase fn).getD 0 * 2 ^ 36 + off

/-- Whether an access of `n` bytes at an aperture offset is one: inside the 64 GiB and inside one aligned unit of 8 bytes. -/
def apertureAccess (fn off n : Nat) : Bool := decide (fn < 2 ∧ 0 < n ∧ off % 8 + n ≤ 8 ∧ off + n ≤ 2 ^ 36)

/-- A host read through BAR2 (R317). -/
def execApertureRead (fn off len : Nat) (s : State) : Out :=
  if apertureAccess fn off len then
    let a := s.apertureAddress fn off
    if s.inPools a len then
      let r := s.physRead a len
      .next { s with io := { s.io with hostRead := .data (BitVec.ofNat 64 r.1) r.2 } }
    else .next { s with io := { s.io with hostRead := .unsupported } }
  else .next s

/-- A host write through BAR2; one outside the pools is discarded (R317). -/
def execApertureWrite (fn off len : Nat) (data : BitVec 64) (poison : Bool) (s : State) : Out :=
  if apertureAccess fn off len && s.inPools (s.apertureAddress fn off) len then
    .next (s.physStore (s.apertureAddress fn off) len data.toNat poison)
  else .next s

/-! ### Fetching packets (R323, R325, R336, R337) -/

/-- SeqOf (R323). -/
def seqOf (i : Nat) : Nat := 0x80000000 + i % 2 ^ 31

/-- Whether a ring of a queue lies where the device reaches it: host memory, or the pools and windows of the package
(R319). -/
def State.ringReached (s : State) (u : Queue) (a n : Nat) : Bool :=
  !u.loc || s.inPools a n || (decide (2 ^ 48 ≤ a) && s.windowOpen a)

/-- A word of a ring, with its poison. -/
def State.ringWord (s : State) (u : Queue) (a : Nat) : W64 × Bool :=
  let (v, p) := if u.loc then s.physRead a 8 else (s.host.read a 8, s.host.poisoned a 8)
  (BitVec.ofNat 64 v, p)

/-- A word of a ring stored. -/
def State.ringStore (s : State) (u : Queue) (a : Nat) (w : W64) : State :=
  if u.loc then if s.ringReached u a 8 then s.physStore a 8 w.toNat false else s
  else { s with host := s.host.store a 8 w.toNat false }

/-- Whether the launch units may fetch from a queue: it is enabled and not stopped, a packet is below the limit, the
Ringmaster has started, the package is not Fatal, and no freeze of the queue's context is in progress (R325, R354, R402,
R414). Log 33 (DEDUCED). -/
def State.fetches (s : State) (fn q : Nat) : Bool :=
  let u := s.queue fn q
  queueExists fn q && u.en && !u.stopped && u.cidx != u.limit && !s.io.nofw && s.hw.health != .fatal
    && !s.freezing (s.queueCtx fn q)

/-- A queue stopped with a status, and event class 4 (R337, R347). Log 36 (DEDUCED). -/
def State.stopQueue (s : State) (fn q status : Nat) : State :=
  (s.updateQueue fn q (fun u => { u with status := status, stopped := true })).queueEvent 4 fn q (BitVec.ofNat 64 status)

/-- TYPE of a packet (R326). -/
def packetType (ws : List W64) : Nat := wfield (ws.getD 0 0) 32 4

/-- An accepted packet: CIDX advances, and the Ringmaster is told of one that it performs, with a copy in its memory
(R325, R327, R347). -/
def State.acceptPacket (s : State) (fn q : Nat) (ws : List W64) : State :=
  let u := s.queue fn q
  let p : Packet :=
    { uid := s.nextId, fn := fn, q := q, i := u.cidx, ctx := s.queueCtx fn q, words := ws, phase := .accepted, status := 0, detail := 0, lid := 0,
      progress := 0, saved := [] }
  let s1 := s.updateQueue fn q (fun u => { u with cidx := (u.cidx + 1) % 2 ^ 32, misses := 0 })
  let s2 : State := { s1 with nextId := s1.nextId + 1, io := { s1.io with packets := s1.io.packets ++ [p] } }
  if [2, 4, 5, 6].contains (packetType ws) then
    let a := rmMemBase + Config.packetCopy s.tick % 2 ^ 17 * 128
    let m := ws.zipIdx.foldl (fun (m : Memory) (w, k) => m.store (a + 8 * k) 8 w.toNat false) s2.mem
    { s2 with mem := m }.raiseEvent 1 (2 ^ 16 * (256 * fn + q) + u.cidx % 2 ^ 16) [BitVec.ofNat 64 a]
  else s2

/-- One read of the current packet by all launch units (R336). -/
def State.readPacket (s : State) (fn q : Nat) (agree readError : Bool) : State :=
  let u := s.queue fn q
  let a := u.qbase + 128 * (u.cidx % 2 ^ u.qlog)
  let ws := (upFrom 0 16).map (fun k => s.ringWord u (a + 8 * k))
  let words := ws.map (·.1)
  if readError || !s.ringReached u a 128 || ws.any (·.2) then s.stopQueue fn q QStatus.fetchError
  else if agree && wfield (words.getD 0 0) 0 32 == seqOf u.cidx then s.acceptPacket fn q words
  else if u.misses = 64 then s.stopQueue fn q QStatus.stale
  else s.updateQueue fn q (fun u => { u with misses := u.misses + 1, readAt := s.sys.rtime })

/-- The first read of a packet. `agree`: the copies of the eight units are equal; `readError`: a read returned an error
(R336). Log 18 (DESIGN CHOICE). -/
def execPacketFetch (fn q : Nat) (agree readError : Bool) (s : State) : Out :=
  if s.fetches fn q && (s.queue fn q).misses == 0 then .next (s.readPacket fn q agree readError) else .next s

/-- A re-read, 1 µs after the last read at the earliest (R336). -/
def execPacketReread (fn q : Nat) (agree readError : Bool) (s : State) : Out :=
  let u := s.queue fn q
  if s.fetches fn q && u.misses != 0 && decide (u.readAt + 1000 ≤ s.sys.rtime) then .next (s.readPacket fn q agree readError)
  else .next s

/-! ### Completion records (R338, R339) -/

/-- The first packet of a queue with a number that meets a condition. Packets that started before the queue was last enabled
may have the numbers of later ones (R321). -/
def State.packet (s : State) (fn q i : Nat) (ok : Packet → Bool) : Option Packet :=
  s.io.packets.find? (fun p => p.fn == fn && p.q == q && p.i == i && ok p)

/-- A packet's record written and its message sent (R338, R339). -/
def State.writeRecord (s : State) (p : Packet) : State :=
  let u := s.queue p.fn p.q
  let t := packetType p.words
  let ws := recordWords p.i (if t ≤ 6 then t else 0) p.status (if t = 1 then p.lid else 0) (u.k / 2 ^ u.cqlog % 2 == 0)
    (p.words.getD 1 0) s.sys.rtime p.detail
  let a := u.cqbase + 32 * (u.k % 2 ^ u.cqlog)
  let s1 := (upFrom 1 3).foldl (fun (s : State) k => s.ringStore u (a + 8 * k) (ws.getD k 0)) s
  let s2 := (s1.ringStore u a (ws.getD 0 0)).updateQueue p.fn p.q (fun u => { u with k := u.k + 1 })
  { s2 with
    io := { s2.io with
      packets := s2.io.packets.filter (fun x => x.uid != p.uid)
      msix := if wbit (p.words.getD 0 0) 41 && u.ien then s2.io.msix ++ [⟨p.fn, u.vec⟩] else s2.io.msix } }

/-- The completion record of a packet that has finished (R339). -/
def execCompletionRecord (fn q i : Nat) (s : State) : Out :=
  match s.packet fn q i (fun p => p.phase == .finished) with
  | none => .next s
  | some p => .next (s.writeRecord p)

end Sys2Proof.Machine
end

