-- ==== Sys2Proof/Machine/Packets.lean ====
section
/-! DEFINITION. The packets of a queue (R325 to R335): PACKET_START, LAUNCH_PACKET, LOAD_GRAPH_PACKET, MEMORY_COPY,
MEMORY_FILL, FENCE_PACKET, FENCE_POLL, FREEZE_PACKET and RESUME_PACKET (R402 to R408). -/

namespace Sys2Proof.Machine

/-! ### The form of a packet (R326 to R328, R332 to R335) -/

/-- Word k of a packet. -/
def Packet.w (p : Packet) (k : Nat) : W64 := p.words.getD k 0

/-- Whether the words of a packet from k on are zero. -/
def Packet.zeroFrom (p : Packet) (k : Nat) : Bool := (p.words.drop k).all (· == 0)

/-- A 72-bit address in two words. -/
def Packet.addr (p : Packet) (k : Nat) : Nat := (p.w k).toNat + wfield (p.w (k + 1)) 0 8 * 2 ^ 64

/-- Whether a 64-bit word has no bit at or above a place. -/
def below (w : W64) (n : Nat) : Bool := decide (w.toNat < 2 ^ n)

/-- The body of a launch packet (R328). -/
def Packet.goodLaunch (p : Packet) : Bool :=
  let w6 := p.w 6
  below (p.w 2) 26 && below w6 29 && wfield w6 6 2 == 0 && wfield w6 13 3 == 0 && wfield w6 22 2 == 0 && p.zeroFrom 7
    && (wbit (p.w 2) 16 || (wfield (p.w 2) 17 8 == 0 && p.w 4 == 0 && p.w 5 == 0))
    && decide (wfield w6 16 6 ≤ 48 ∧ wfield w6 24 5 ≤ 24)

/-- The body of a load-graph packet (R334). -/
def Packet.goodLoadGraph (p : Packet) : Bool :=
  below (p.w 3) 8 && below (p.w 4) 23 && wfield (p.w 4) 13 3 == 0 && decide (wfield (p.w 4) 0 13 ≤ 4096)
    && decide (wfield (p.w 4) 16 7 ≤ 64) && (p.w 2).toNat % 8 == 0 && p.zeroFrom 5

/-- The body of a memory operation packet (R332). -/
def Packet.goodMemory (p : Packet) : Bool :=
  below (p.w 2) 1 && below (p.w 4) 8 && below (p.w 6) 8 && below (p.w 7) 41 && p.w 7 != 0
    && decide ((p.w 7).toNat ≤ 2 ^ 40) && p.zeroFrom 9
    && (if p.w 2 = 0 then p.w 8 == 0 else p.w 3 == 0 && p.w 4 == 0)

/-- The body of a fence packet (R333). -/
def Packet.goodFence (p : Packet) : Bool :=
  below (p.w 2) 2 && below (p.w 4) 8 && below (p.w 7) 8 && p.zeroFrom 9
    && (!wbit (p.w 2) 0 || (p.w 3).toNat % 8 == 0) && (!wbit (p.w 2) 1 || (p.w 6).toNat % 8 == 0)

/-- The body of a freeze packet (R335). -/
def Packet.goodFreeze (p : Packet) : Bool :=
  below (p.w 2) 7 && (!wbit (p.w 2) 6 || wfield (p.w 2) 0 6 == 0) && p.zeroFrom 6

/-- Whether a packet has the form of R326 and of its type (R327). -/
def State.wellFormedPacket (s : State) (p : Packet) : Bool :=
  let ctl : Bool := p.fn == 0 && (s.queue p.fn p.q).ctl
  wfield (p.w 0) 36 4 == 0 && wfield (p.w 0) 42 22 == 0 &&
    match packetType p.words with
    | 1 => p.goodLaunch
    | 2 => p.goodLoadGraph
    | 3 => p.goodMemory
    | 4 => p.goodFence
    | 5 => ctl && p.goodFreeze
    | 6 => ctl && p.zeroFrom 3
    | _ => false

/-! ### Starting (R325, R327, R408) -/

/-- Whether a packet has started and its record is not written. -/
def Packet.open_ (p : Packet) : Bool := p.phase != .accepted

/-- The LIDs of a context that live launches and launch packets under way hold. -/
def State.lidsUsed (s : State) (ctx : Nat) : List Nat :=
  (s.ctl.launches.filter (fun l => l.ctx == ctx)).map (·.lid)
    ++ (s.io.packets.filter (fun p => p.ctx == ctx && packetType p.words == 1 && p.phase == .started)).map (·.lid)

/-- The lowest LID that is free in a context (R330). -/
def State.freeLid (s : State) (ctx : Nat) : Option Nat := (upFrom 0 64).find? (fun l => !(s.lidsUsed ctx).contains l)

/-- The user contexts that a freeze concerns: V 1, and their partition in scope (R402). -/
def State.freezeSet (s : State) (p : Packet) : List Nat :=
  (upFrom 1 255).filter (fun c => s.ctxValid c && (wbit (p.w 2) 6 || wfield (s.ctxWord c 0) 1 6 == wfield (p.w 2) 0 6))

/-- The contexts that a packet of type 5 or 6 concerns; those of a resume are in its manifest, read from host memory. -/
def State.concerns (s : State) (p : Packet) : List Nat :=
  if packetType p.words = 5 then s.freezeSet p
  else
    let m := (p.w 2).toNat
    let n := s.host.read (m + 24) 2
    ((upFrom 0 n).map (fun k => s.host.read (m + 128 + 32 * k) 8)).filterMap (fun w =>
      if w % 16 = 1 then some (field w 4 8) else none)

/-- Whether a packet is under way: it has started and not come to its end. -/
def Packet.underWay (p : Packet) : Bool := p.phase == .started || p.phase == .running

/-- Whether a freeze or a resume may start: every one accepted earlier, on whichever queue, is complete with its record written
(R402 step 5), and no seizure and
no load-graph packet of one of its contexts is in progress (R408). Log 40 (DEDUCED). -/
def State.mayFreeze (s : State) (p : Packet) : Bool :=
  let set := s.concerns p
  !s.io.packets.any (fun x => decide (x.uid < p.uid)
      && (packetType x.words == 5 || packetType x.words == 6))
    && !s.io.packets.any (fun x => x.underWay && packetType x.words == 2 && set.contains x.ctx)
    && !s.ctl.switches.any (fun w =>
      (match w.restore with
       | some c => set.contains c
       | none => false) || set.contains (s.residentOn w.part))

/-- Whether a launch may start: a LID is free, its context is not frozen, and no load-graph packet of it is under way
(R325, R334, R408). Log 40 (DEDUCED). -/
def State.mayLaunch (s : State) (p : Packet) : Bool :=
  (s.freeLid p.ctx).isSome && !(s.ctl.frozen.contains p.ctx && (s.freezing p.ctx || !s.ctxValid p.ctx))
    && !s.io.packets.any (fun x => x.underWay && packetType x.words == 2 && x.ctx == p.ctx)

/-- Whether an accepted packet, the first of its queue that has not started, may start (R325). `before` are the packets of
its queue in front of it. Log 36 (DEDUCED). -/
def State.mayStart (s : State) (p : Packet) (before : List Packet) : Bool :=
  let u := s.queue p.fn p.q
  let t := packetType p.words
  let room : Bool :=
    decide ((s.io.packets.filter (fun x => x.fn == p.fn && x.q == p.q && x.open_)).length + countUp (u.k % 2 ^ 32) u.cqhead
      < 2 ^ u.cqlog)
  let barrier : Bool := wbit (p.w 0) 40 || t == 4 || t == 2
  room && (!barrier || before.isEmpty)
    && (!s.wellFormedPacket p
        || (if t = 1 then s.mayLaunch p else if t = 5 ∨ t = 6 then s.mayFreeze p else true))

/-- The next accepted packet of a queue starts; a malformed one completes with BAD_PACKET (R325, R327). Log 38 (DEDUCED). -/
def execPacketStart (fn q : Nat) (s : State) : Out :=
  let mine := s.io.packets.filter (fun p => p.fn == fn && p.q == q)
  match mine.find? (fun p => p.phase == .accepted) with
  | none => .next s
  | some p =>
    let before := mine.takeWhile (fun x => x.phase != .accepted)
    if !s.mayStart p before then .next s
    else if !s.wellFormedPacket p then .next (s.finishPacket p.uid 1 0)
    else
      .next (s.updatePacket p.uid (fun x =>
        { x with phase := .started, lid := if packetType p.words = 1 then (s.freeLid p.ctx).getD 0 else 0 }))

/-- A packet of a type in a phase. -/
def State.startedPacket (s : State) (fn q i : Nat) (t : Nat) (ph : PktPhase) : Option Packet :=
  s.packet fn q i (fun p => packetType p.words == t && p.phase == ph)

/-- A packet of a type that is under way. -/
def State.openPacket (s : State) (fn q i : Nat) (t : Nat) : Option Packet :=
  s.packet fn q i (fun p => packetType p.words == t && p.underWay)

/-! ### Launch (R328 to R331, R399, R401) -/

/-- The launch cell list of a packet on its context's partition, or none when the rectangle leaves it (R329). -/
def Packet.cells (p : Packet) (part : List Nat) : Option (List Nat) :=
  let w := p.w 6
  let x0 := wfield w 0 6; let y0 := wfield w 8 5; let xw := wfield w 16 6; let yh := wfield w 24 5
  if xw = 0 then some part
  else
    let l := part.filter (fun c => decide (x0 ≤ c % 48 ∧ c % 48 < x0 + xw ∧ y0 ≤ c / 48 ∧ c / 48 < y0 + yh))
    if l.length = xw * yh then some l else none

/-- The root descriptor of a launch, when the launch units accept it (R302, R329, R387). -/
def State.rootDesc (s : State) (ctx cb : Nat) : Option Desc :=
  match s.codeblock ctx cb with
  | none => none
  | some c =>
    if c.remote.isSome || !c.sound then none
    else
      match s.translate ctx .descriptor c.desc with
      | .error _ => none
      | .ok pa => parseDesc (fun off n => (s.deviceRead (pa + off) n).1) c.ring

/-- The walks of the launch units that read a root descriptor, one of each die of the list (R329, R410). -/
def State.noteRoot (s : State) (ctx cb : Nat) (cells : List Nat) : State :=
  match s.codeblock ctx cb with
  | some c => if c.remote.isSome || !c.sound then s else (listDies cells).foldl (fun s d => s.noteDie d ctx c.desc) s
  | none => s

/-- The launch cell list of a launch packet, or the status with which it ends before its root descriptor is read (R329).
Log 38 (DEDUCED). -/
def State.launchCells (s : State) (p : Packet) : Except Nat (List Nat) :=
  let part := s.partCells (wfield (s.ctxWord p.ctx 0) 1 6)
  let x := wfield (p.w 6) 16 6
  let y := wfield (p.w 6) 24 5
  if 2 ^ 32 ≤ wfield (p.w 3) 0 32 + wfield (p.w 3) 32 32 ∨ decide (x = 0) ≠ decide (y = 0) then .error 1
  else if p.ctx = 0 ∨ !s.ctxValid p.ctx ∨ part.isEmpty then .error 2
  else
    match p.cells part with
    | some l => .ok l
    | none => .error 2

/-- The status with which the checks of R329 end a launch, or none when every report is clean. Log 38 (DEDUCED). -/
def State.launchDefect (s : State) (p : Packet) : Option Nat :=
  match s.launchCells p with
  | .error st => some st
  | .ok l =>
    match s.rootDesc p.ctx (wfield (p.w 2) 0 12) with
    | some d =>
      if (wbit (p.w 2) 16 && decide (d.words ≤ wfield (p.w 2) 17 8)) || (s.live l).isEmpty then some 2 else none
    | none => some 2

/-- The walks that the checks of a launch make, whatever they find (R329, R410). -/
def State.noteLaunch (s : State) (p : Packet) : State :=
  match s.launchCells p with
  | .error _ => s
  | .ok l => s.noteRoot p.ctx (wfield (p.w 2) 0 12) l

/-- The launch of a packet that passes its checks. -/
def State.newLaunch (s : State) (p : Packet) : Launch :=
  let part := s.partCells (wfield (s.ctxWord p.ctx 0) 1 6)
  { ctx := p.ctx, lid := p.lid, pkt := p.uid, fn := p.fn, q := p.q, i := p.i, usertag := p.w 1, cb := wfield (p.w 2) 0 12,
    slot := wfield (p.w 2) 12 4, word := wbit (p.w 2) 16, idx := wfield (p.w 2) 17 8, epoch := wbit (p.w 2) 25,
    tbase := wfield (p.w 3) 0 32, ntag := wfield (p.w 3) 32 32, arg := p.w 4, astep := p.w 5,
    cells := (p.cells part).getD [], injected := [], prev := none, lastTs := 0,
    lastWave := s.sys.rtime, watch := false, killed := false, halted := false, ended := false, orphan := false, irq := wbit (p.w 0) 41 }

/-- A context put among those that wait for their partition, and the decision about it (R399, R401).
Log 39 (DESIGN CHOICE). -/
def State.await (s : State) (ctx : Nat) : State :=
  let s1 : State :=
    if (s.resident ctx).isSome || s.ctl.waiting.contains ctx then s
    else { s with ctl := { s.ctl with waiting := s.ctl.waiting ++ [ctx] } }
  s1.reviewPart (wfield (s.ctxWord ctx 0) 1 6)

/-- Whether a launch of a context waits for a seizure: a context of lower priority is resident on its partition, or its
own restore is under way there and has not signalled (R399). Log 39 (DESIGN CHOICE). -/
def State.seizes (s : State) (ctx : Nat) : Bool :=
  match s.resident ctx with
  | some r => r.phase == .presenting
  | none =>
    match s.residentIn (wfield (s.ctxWord ctx 0) 1 6) with
    | some r => decide (s.priority r.ctx < s.priority ctx)
    | none => s.ctl.switches.any (fun w => w.restore == some ctx)

/-- The start of a launch on its cells: the lines that its context has in their local caches, and their whole instruction caches,
are invalidated (R88, R110). -/
def State.freshCaches (s : State) (ctx : Nat) (cells : List Nat) : State :=
  { s with
    lcache := s.lcache.filter (fun l => !(l.ctx == ctx && cells.contains l.site))
    icache := s.icache.filter (fun w => !cells.contains w.site) }

/-- The launch units check a launch and are let inject, or its record follows (R329, R336). A launch whose context seizes
its partition waits for the restore (R399); another that is not resident starts at once, and its context waits (R401). -/
def execLaunchPacket (fn q i : Nat) (s : State) : Out :=
  match s.startedPacket fn q i 1 .started with
  | none => .next s
  | some p =>
    match s.launchDefect p with
    | some st => .next ((s.noteLaunch p).finishPacket p.uid st 0)
    | none =>
      if s.seizes p.ctx then .next ((s.noteLaunch p).await p.ctx)
      else
        let l := s.newLaunch p
        let s1 := ((s.updatePacket p.uid (fun x => { x with phase := .running })).noteLaunch p).freshCaches p.ctx l.cells
        let s2 : State := { s1 with ctl := { s1.ctl with launches := s1.ctl.launches ++ [l] } }
        .next (if (s.resident p.ctx).isSome then s2 else s2.await p.ctx)

/-! ### Memory operations and fences (R332, R333) -/

/-- `n` bytes at a virtual address of a context that lie in one aligned unit of 8 bytes. Addresses wrap at 2^72.
Log 68 (DESIGN CHOICE). -/
def State.unitRead (s : State) (ctx va n : Nat) : Except NoPage (Nat × Bool) := do
  let pa ← s.translate ctx .load (va % 2 ^ 72)
  return s.deviceRead pa n

/-- `n` bytes, at most 8, at a virtual address of a context: those of one unit, then those of the next. -/
def State.virtRead (s : State) (ctx va n : Nat) : Except NoPage (Nat × Bool) := do
  let m := min n (8 - va % 8)
  let (v, p) ← s.unitRead ctx va m
  if m = n then return (v, p)
  else
    let (w, r) ← s.unitRead ctx (va + m) (n - m)
    return (v + w * 256 ^ m, p || r)

/-- `n` bytes of one aligned unit stored at a virtual address of a context, which wraps at 2^72; a write that a host refuses is
dropped, with a health event (R387). Log 16 (DESIGN CHOICE), 68 (DESIGN CHOICE). -/
def State.virtStore (s : State) (ctx va n v : Nat) (psn : Bool) : Except NoPage State := do
  let pa ← s.translate ctx .store (va % 2 ^ 72)
  if 2 ^ 48 ≤ pa ∧ !Config.hostAnswers s.tick then return s.healthEvent 0x07 (sourceWord ringmaster ctx)
  else return s.physStore pa n v psn

/-- The bytes of the fill pattern from an offset on. -/
def patternAt (pat : W64) (off n : Nat) : Nat := (pat.rotateRight (8 * (off % 8))).toNat % 256 ^ n

/-- One unit of a memory operation moved: the part of one aligned 8-byte unit of the destination, in ascending order (R332, R410).
Where source and destination overlap, each unit is read after every lower one has been written. Log 38 (DEDUCED), 68 (DESIGN CHOICE). -/
def State.moveUnit (s : State) (p : Packet) : State :=
  let len := (p.w 7).toNat
  let off := p.progress
  let dst := p.addr 5 + off
  let n := min (8 - dst % 8) (len - off)
  let data : Except NoPage (Nat × Bool) :=
    if p.w 2 = 0 then s.virtRead p.ctx (p.addr 3 + off) n else .ok (patternAt (p.w 8) off n, false)
  let s0 := if p.w 2 = 0 then s.noteCopy p.ctx .load (p.addr 3 + off) n else s
  match data with
  | .error _ => s0.finishPacket p.uid 5 (BitVec.ofNat 64 off)
  | .ok (v, psn) =>
    let s1 := s0.noteCopy p.ctx .store dst n
    match s1.virtStore p.ctx dst n v psn with
    | .error _ => s1.finishPacket p.uid 5 (BitVec.ofNat 64 off)
    | .ok s2 =>
      if off + n = len then s2.finishPacket p.uid 0 0
      else s2.updatePacket p.uid (fun x => { x with phase := .running, progress := off + n })

/-- One step of a memory operation of one kind; a context with V 0 gives BAD_TARGET (R332). -/
def State.moveStep (s : State) (fn q i op : Nat) : State :=
  match s.packet fn q i (fun p => packetType p.words == 3 && p.w 2 == BitVec.ofNat 64 op && p.underWay) with
  | none => s
  | some p => if p.phase == .started && !s.ctxValid p.ctx then s.finishPacket p.uid 2 0 else s.moveUnit p

/-- One unit of a copy (R332). -/
def execMemoryCopy (fn q i : Nat) (s : State) : Out := .next (s.moveStep fn q i 0)

/-- One unit of a fill (R332). -/
def execMemoryFill (fn q i : Nat) (s : State) : Out := .next (s.moveStep fn q i 1)

/-- The end of a fence: SVAL is written when SIGNAL is 1 (R333). -/
def State.fenceSignal (s : State) (p : Packet) : State :=
  if wbit (p.w 2) 1 then
    let s1 := s.noteCopy p.ctx .store (p.addr 6) 8
    match s1.virtStore p.ctx (p.addr 6) 8 (p.w 8).toNat false with
    | .error _ => s1.finishPacket p.uid 5 0
    | .ok s2 => s2.finishPacket p.uid 0 0
  else s.finishPacket p.uid 0 0

/-- A read of the word that a fence waits on (R333, R410). Its bytes are compared whatever poison they carry, those of a window read
that no host answered too. Log 38 (DEDUCED), 68 (DESIGN CHOICE). -/
def State.fenceRead (s : State) (p : Packet) : State :=
  let s1 := s.noteCopy p.ctx .load (p.addr 3) 8
  match s.virtRead p.ctx (p.addr 3) 8 with
  | .error _ => s1.finishPacket p.uid 5 0
  | .ok (v, _) =>
    if (p.w 5).toNat ≤ v then s1.fenceSignal p
    else s1.updatePacket p.uid (fun x => { x with phase := .running, progress := s.sys.rtime })

/-- A started fence, whose earlier packets have all completed; it is a packet of the firmware's (R325, R333, R347). -/
def execFencePacket (fn q i : Nat) (s : State) : Out :=
  match s.startedPacket fn q i 4 .started with
  | none => .next s
  | some p =>
    if s.firmwareHalted then .next s
    else if p.w 2 != 0 && !s.ctxValid p.ctx then .next (s.finishPacket p.uid 2 0)
    else if wbit (p.w 2) 0 then .next (s.fenceRead p)
    else .next (s.fenceSignal p)

/-- The waited word read again, 1 µs after the last read at the earliest (R333). -/
def execFencePoll (fn q i : Nat) (s : State) : Out :=
  match s.startedPacket fn q i 4 .running with
  | none => .next s
  | some p => if !s.firmwareHalted && decide (p.progress + 1000 ≤ s.sys.rtime) then .next (s.fenceRead p) else .next s

/-! ### Load graph (R334) -/

/-- Words of a list in virtual memory of a context, or none where it does not translate. -/
def State.virtWords (s : State) (ctx va n : Nat) : Option (List W64) :=
  (upFrom 0 n).mapM (fun k =>
    match s.virtRead ctx (va + 8 * k) 8 with
    | .ok (v, _) => some (BitVec.ofNat 64 v)
    | .error _ => none)

/-- Whether a codeblock record has no reserved bit set, whatever its V (R299, R334). -/
def goodCodeblock (ctx : Nat) (r : List W64) : Bool :=
  let w (k : Nat) : W64 := r.getD k 0
  below (w 0) 12 && below (w 1) 3 && !(ctx != 0 && wbit (w 1) 2)
    && (if wbit (w 1) 1 then below (w 2) 45 && wfield (w 2) 3 5 == 0 && w 3 == 0 && w 4 == 0 else below (w 3) 8 && w 4 == 0)

/-- Whether a Carousel record has no reserved bit set (R334). -/
def goodGraphRecord (r : List W64) : Bool :=
  let w := r.getD 0 0
  below w 24 && wfield w 6 2 == 0 && wfield w 9 7 == 0

/-- Words stored at a physical address. -/
def State.physWords (s : State) (a : Nat) (ws : List W64) : State :=
  ws.zipIdx.foldl (fun (s : State) (w, k) => s.physStore (a + 8 * k) 8 w.toNat false) s

/-- The records of a load-graph packet: codeblocks of 5 words, then Carousel entries of 2. -/
def State.graphRecords (s : State) (p : Packet) : Option (List (List W64) × List (List W64)) := do
  let ncb := wfield (p.w 4) 0 13
  let nx := wfield (p.w 4) 16 7
  let cbs ← (upFrom 0 ncb).mapM (fun k => s.virtWords p.ctx (p.addr 2 + 40 * k) 5)
  let gs ← (upFrom 0 nx).mapM (fun k => s.virtWords p.ctx (p.addr 2 + 40 * ncb + 16 * k) 2)
  return (cbs, gs)

/-- The window entries of codeblock numbers cleared on every cell of a context, and in its images (R302). -/
def State.clearWindows (s : State) (ctx : Nat) (cbs : List Nat) : State :=
  let keep (w : Window) : Bool := !(w.ctx == ctx && cbs.contains w.cb)
  { s with
    windows := s.windows.filter keep
    ctl := { s.ctl with images := s.ctl.images.map (fun m => { m with windows := m.windows.filter keep }) } }

/-- The records written in list order, or none when one has a reserved bit set or the list cannot be read; descriptors are
loaded again, and the windows of the recorded codeblocks are set anew (R302, R334, R360). The V of the context's descriptor is not
looked at: its fields name the tables and translate the list. Log 68 (DESIGN CHOICE). -/
def State.installRecords (s : State) (p : Packet) : Option State :=
  match s.graphRecords p with
  | none => none
  | some (cbs, gs) =>
    if cbs.all (goodCodeblock p.ctx) && gs.all goodGraphRecord then
      let t := s.tables p.ctx
      let s1 := cbs.foldl (fun (s : State) r => s.physWords (t.cbtab + 32 * wfield (r.getD 0 0) 0 12) (r.drop 1)) s
      let s2 := gs.foldl (fun (s : State) r => s.physWords (t.xtab + 16 * wfield (r.getD 0 0) 0 6) r) s1
      some ({ s2 with descs := s2.descs.filter (fun d => d.ctx != p.ctx) }.clearWindows p.ctx
        (cbs.map (fun (r : List W64) => wfield (r.getD 0 0) 0 12)))
    else none

/-- The walks that the read of some records makes, up to the first that does not translate (R410). -/
def State.noteRecords (s : State) (ctx : Nat) (l : List (Nat × Nat)) : State :=
  match l with
  | [] => s
  | (va, n) :: rest =>
    let s1 := s.noteCopy ctx .load va n
    match s.translate ctx .load (va % 2 ^ 72), s.translate ctx .load ((va + n - 1) % 2 ^ 72) with
    | .ok _, .ok _ => s1.noteRecords ctx rest
    | _, _ => s1

/-- The walks that the read of the list of a load-graph packet makes (R410). -/
def State.noteList (s : State) (p : Packet) : State :=
  let ncb := wfield (p.w 4) 0 13
  s.noteRecords p.ctx ((upFrom 0 ncb).map (fun k => (p.addr 2 + 40 * k, 40))
    ++ (upFrom 0 (wfield (p.w 4) 16 7)).map (fun k => (p.addr 2 + 40 * ncb + 16 * k, 16)))

/-- The records of a load-graph packet installed, or its failure; the packet is done, unless a context that was saved for it
is restored first (R334). -/
def State.loadGraph (s : State) (p : Packet) (saved : List Nat) : State :=
  let s0 := s.noteList p
  let r : State × Nat :=
    match s0.installRecords p with
    | some s1 => (s1, 0)
    | none => (s0, 1)
  if saved.isEmpty then r.1.finishPacket p.uid r.2 0
  else
    (r.1.addSwitch ⟨some p.ctx, wfield (s.ctxWord p.ctx 0) 1 6, .firmware⟩).updatePacket p.uid
      (fun x => { x with progress := 2, status := r.2 })

/-- The Ringmaster's steps of a load-graph packet: wait for the launches, save, write, restore (R334). Log 38 (DEDUCED). -/
def execLoadGraphPacket (fn q i : Nat) (s : State) : Out :=
  match s.openPacket fn q i 2 with
  | none => .next s
  | some p =>
    let part := wfield (s.ctxWord p.ctx 0) 1 6
    let pending : Bool := s.ctl.switches.any (fun w => w.part == part)
    if s.firmwareHalted then .next s
    else
      match p.phase, p.progress with
      | .started, _ =>
        if s.hasLaunch p.ctx || (pending && p.ctx != 0) then .next s
        else if (s.resident p.ctx).isSome then
          .next ((s.updatePacket p.uid (fun x => { x with phase := .running, progress := 1, saved := [p.ctx] })).addSwitch
            ⟨none, part, .firmware⟩)
        else .next (s.loadGraph p [])
      | .running, 1 => if pending then .next s else .next (s.loadGraph p p.saved)
      | .running, 2 =>
        if s.ctl.switches.any (fun w => w.restore == some p.ctx) then .next s else .next (s.finishPacket p.uid p.status 0)
      | _, _ => .next s

/-! ### The regions of a context (R402, R405, R409) -/

/-- A page that a leaf maps. -/
structure LeafPage where
  va : Nat
  level : Nat
  /-- Where the entry stands. -/
  at_ : Nat
  leaf : W64
  deriving DecidableEq, Repr, Inhabited

/-- The table page at an address and what stands below it: its leaves, and what `below` finds at each of its tables. -/
def State.pagesOf (s : State) (lvl base va : Nat) (below : Nat → Nat → List Nat × List LeafPage) :
    List Nat × List LeafPage :=
  if !s.inPools base 8192 then ([], [])
  else
    let step (k : Nat) : List Nat × List LeafPage :=
      let a := base + 8 * k
      let e := s.physWord a
      let v := va + k * 2 ^ (12 + 10 * lvl)
      if !wbit e 0 then ([], [])
      else if wbit e 1 then (([], if lvl ≤ 2 then [⟨v, lvl, a, e⟩] else []))
      else below (wfield e 13 39 * 8192) v
    let parts := (upFrom 0 1024).map step
    (base :: parts.flatMap (·.1), parts.flatMap (·.2))

/-- The table pages and the valid leaves below a table of a level, in the order of their virtual addresses. -/
def State.pagesFrom (s : State) (lvl base va : Nat) : List Nat × List LeafPage :=
  match lvl with
  | 0 => s.pagesOf 0 base va (fun _ _ => ([], []))
  | l + 1 => s.pagesOf (l + 1) base va (s.pagesFrom l)

/-- The tables and leaves of a context. -/
def State.contextPages (s : State) (ctx : Nat) : List Nat × List LeafPage :=
  s.pagesFrom 5 (wfield (s.ctxWord ctx 2) 13 39 * 8192) 0

/-- The bytes that a leaf maps. -/
def LeafPage.size (p : LeafPage) : Nat := 2 ^ (12 + 10 * p.level)

/-- The physical address that a leaf maps. -/
def LeafPage.pa (p : LeafPage) : Nat := wfield p.leaf 12 40 * 4096

/-- A region of a freeze: KIND, context, physical address, length (R405). -/
structure Region where
  kind : Nat
  ctx : Nat
  addr : Nat
  len : Nat
  deriving DecidableEq, Repr, Inhabited

/-- The regions of KIND 1 to 6 of a context (R402, R405). Context 0 uses only its descriptor, its codeblock and handler tables
and its page tables (R359). -/
def State.fixedRegions (s : State) (ctx : Nat) : List Region :=
  let a (k : Nat) : Nat := (s.ctxWord ctx k).toNat
  let r (kind addr len : Nat) : Region := ⟨kind, ctx, addr, len⟩
  [r 1 (s.sys.ctxtab + 128 * ctx) 128, r 2 (a 3) (4096 * 32), r 2 (a 5) 256]
  ++ (if ctx = 0 then []
      else
        [r 2 (a 4) 1024, r 3 (a 10) (wfield (s.ctxWord ctx 11) 0 32 * 65536), r 4 (a 6) (wfield (s.ctxWord ctx 7) 0 32 * 65536),
         r 5 (a 8) (64 + 64 * wfield (s.ctxWord ctx 9) 0 24)])
  ++ (s.contextPages ctx).1.map (fun t => r 6 t 8192)

/-- The leaves of a context that map package memory: V 1 and HOME SPREAD or NEAR (R402). -/
def State.dataPages (s : State) (ctx : Nat) : List LeafPage :=
  (s.contextPages ctx).2.filter (fun p => decide (wfield p.leaf 9 2 ≤ 1))

/-- Every region of a context but its launches (R402). -/
def State.regions (s : State) (ctx : Nat) : List Region :=
  s.fixedRegions ctx ++ (s.dataPages ctx).map (fun p => ⟨7, ctx, p.pa, p.size⟩)

/-! ### Freeze (R335, R402 to R405) -/

/-- The bytes of a number, the least first. -/
def numBytes (n v : Nat) : List Byte := (upFrom 0 n).map (fun k => BitVec.ofNat 8 (v / 256 ^ k))

/-- The bytes of words. -/
def wordsBytes (ws : List W64) : List Byte := ws.flatMap (fun w => numBytes 8 w.toNat)

/-- The records of regions, with the offsets at which they stand in the buffer. -/
def regionRecords (rs : List Region) (off : Nat) : List (List W64) :=
  match rs with
  | [] => []
  | r :: t =>
    [BitVec.ofNat 64 (r.kind + r.ctx * 2 ^ 4), BitVec.ofNat 64 r.addr, BitVec.ofNat 64 r.len, BitVec.ofNat 64 off]
      :: regionRecords t (off + r.len)

/-- The record of a live launch (R405). -/
def Launch.region (l : Launch) : List W64 :=
  [BitVec.ofNat 64 (8 + l.ctx * 2 ^ 4), BitVec.ofNat 64 (l.lid + (l.fn * 2 ^ 8 + l.q) * 2 ^ 8), BitVec.ofNat 64 l.i, l.usertag]

/-- The header words MH0 to MH7 of a manifest (R405). -/
def State.manifestHeader (s : State) (p : Packet) (valid : Bool) (needed used nreg nlive : Nat) : List W64 :=
  [BitVec.ofNat 64 (0x4E4D5A46 + Config.revision.toNat * 2 ^ 32 + valid.toNat * 2 ^ 48 + wfield (p.w 2) 6 1 * 2 ^ 49
     + wfield (p.w 2) 0 6 * 2 ^ 50),
   BitVec.ofNat 64 needed, BitVec.ofNat 64 used, BitVec.ofNat 64 (nreg % 2 ^ 16 + nlive * 2 ^ 16), BitVec.ofNat 64 (s.ctl.fseq + 1),
   BitVec.ofNat 64 s.sys.rtime, Config.deviceSerial.setWidth 64, (Config.deviceSerial >>> 64).setWidth 64]

/-- The signed part of a manifest: header, digest and records (R405). -/
def manifestBody (header : List W64) (digest : BitVec 384) (records : List (List W64)) : List Byte :=
  wordsBytes header ++ numBytes 48 digest.toNat ++ numBytes 16 0 ++ records.flatMap wordsBytes

/-- The bytes of both signatures over a message under the device identity (R405, R417). -/
def signatures (msg : List Byte) : List Byte :=
  numBytes 64 (Config.ed25519Sign msg).toNat ++ numBytes 3309 (Config.mldsa65Sign msg).toNat

/-- Regions copied to the host buffer in list order, poison included, up to a number of bytes (R105, R402, R404). -/
def State.copyRegions (s : State) (rs : List Region) (dst room : Nat) : State :=
  match rs with
  | [] => s
  | r :: t =>
    let n := min r.len room
    { s with host := s.host.blit s.mem dst r.addr n }.copyRegions t (dst + r.len) (room - n)

/-- The contexts of a freeze that did not complete are frozen no more. -/
def State.unfreeze (s : State) (set : List Nat) : State :=
  { s with ctl := { s.ctl with frozen := s.ctl.frozen.filter (fun c => !set.contains c) } }

/-- A freeze whose buffer is too small: the contexts that it saved are restored, and its record waits for them (R404).
Log 40 (DEDUCED). -/
def State.freezeRefused (s : State) (p : Packet) (set : List Nat) : State :=
  (p.saved.foldl (fun (s : State) c => s.addSwitch ⟨some c, wfield (s.ctxWord c 0) 1 6, .firmware⟩) (s.unfreeze set)).updatePacket
    p.uid (fun x => { x with progress := 2 })

/-- A freeze that a failing host write stopped, at an offset of its buffer: its contexts stay saved with V 1, and those with
launches wait for their partitions (R401, R404). Log 40 (DEDUCED). -/
def State.freezeFails (s : State) (p : Packet) (set : List Nat) (off : Nat) : State :=
  ((set.filter s.hasLaunch).foldl State.await (s.unfreeze set)).finishPacket p.uid 5 (BitVec.ofNat 64 off)

/-- The live launches of a set of contexts, of which a manifest names at most 64 (R405). -/
def State.launchesOf (s : State) (set : List Nat) : List Launch := s.ctl.launches.filter (fun l => set.contains l.ctx)

/-- The manifest of a freeze, with its signatures (R405). Log 40 (DEDUCED). -/
def State.manifest (s : State) (p : Packet) (rs : List Region) (live : List Launch) (needed used : Nat) : List Byte :=
  let records := regionRecords rs 0 ++ live.map Launch.region
  let body := manifestBody (s.manifestHeader p true needed used records.length live.length)
    (Config.sha384 (s.host.bytes (p.w 3).toNat used)) records
  body ++ signatures body

/-- The release of a freeze that completes: its live launches and their counts, control blocks and mailbox entries are kept for the
resume, and V becomes 0 in every descriptor (R402 step 5, R407). Log 40 (DEDUCED). -/
def State.releaseFrozen (s : State) (p : Packet) (set : List Nat) : State :=
  let s2 : State :=
    { s with
      counts := s.counts.filter (fun c => !set.contains c.ctx)
      ctl := { s.ctl with
        fseq := s.ctl.fseq + 1
        asleep := s.ctl.asleep ++ [
          { freeze := s.ctl.fseq + 1
            launches := (s.launchesOf set).map (fun l =>
              ({ l with orphan := true }, s.counts.filter (fun c => c.ctx == l.ctx && c.lid == l.lid)))
            images := s.ctl.images.filter (fun m => set.contains m.ctx)
            mailed := s.ctl.mailed.filter (fun e => set.contains e.1) }]
        images := s.ctl.images.filter (fun m => !set.contains m.ctx)
        mailed := s.ctl.mailed.filter (fun e => !set.contains e.1)
        launches := s.ctl.launches.filter (fun l => !set.contains l.ctx)
        waiting := s.ctl.waiting.filter (fun c => !set.contains c) } }
  let s3 := set.foldl (fun (s : State) c =>
    s.physStore (s.sys.ctxtab + 128 * c) 8 (s.ctxWord c 0 &&& ~~~1).toNat false) s2
  s3.finishPacket p.uid 0 0

/-- Steps 2 to 5 of a freeze (R402, R404, R405). The host write that fails, if one does, is that of the buffer or that of the
manifest behind it. Log 16 (DESIGN CHOICE), 40 (DEDUCED). -/
def State.finishFreeze (s : State) (p : Packet) : State :=
  let set := s.freezeSet p
  let rs := set.flatMap s.regions
  let live := (s.launchesOf set).take 64
  let used := (rs.map (·.len)).sum
  let nreg := rs.length + live.length
  let needed := used + 128 + 32 * nreg + 64 + 3309
  let buffer := (p.w 3).toNat
  let put (s : State) (bs : List Byte) : State := { s with host := s.host.putBytes (p.w 5).toNat bs }
  let fails := (Config.freezeFailsAt s.tick).map (fun off => off / 8 * 8)
  if (p.w 4).toNat < needed then
    let h := wordsBytes (s.manifestHeader p false needed 0 0 0)
    match fails with
    | some off => if off < h.length then (put s (h.take off)).freezeFails p set 0 else (put s h).freezeRefused p set
    | none => (put s h).freezeRefused p set
  else
    let s1 := s.copyRegions rs buffer used
    let m := s1.manifest p rs live needed used
    match fails with
    | some off =>
      if off < used then (s.copyRegions rs buffer off).freezeFails p set off
      else if off < used + m.length then (put s1 (m.take (off - used))).freezeFails p set used
      else (put s1 m).releaseFrozen p set
    | none => (put s1 m).releaseFrozen p set

/-- The saves that a freeze asks for: those of the contexts of its set that are resident and that no save of the firmware
concerns yet, one that became resident only after the start among them (R402 step 1). Log 40 (DEDUCED). -/
def State.quiesce (s : State) (p : Packet) (set : List Nat) : State :=
  let up := set.filter (fun c =>
    match s.resident c with
    | some r => !s.ctl.switches.any (fun w => w.part == r.part && w.restore.isNone && w.by_ == .firmware)
    | none => false)
  let s1 := s.updatePacket p.uid (fun x => { x with saved := (x.saved ++ up).dedup })
  up.foldl (fun (s : State) c => s.addSwitch ⟨none, wfield (s.ctxWord c 0) 1 6, .firmware⟩) s1

/-- The steps of a freeze: the contexts stop, their saves end and are written back, and then the copy (R402, R408). A
freeze cannot be performed in the Fatal state (R414). Log 33 (DEDUCED), 40 (DEDUCED). -/
def execFreezePacket (fn q i : Nat) (s : State) : Out :=
  match s.openPacket fn q i 5 with
  | none => .next s
  | some p =>
    let set := s.freezeSet p
    if s.firmwareHalted then .next s
    else if p.progress = 2 then
      if s.ctl.switches.any (fun w => p.saved.any (fun c => w.restore == some c)) then .next s
      else .next (s.finishPacket p.uid 2 0)
    else if p.phase == .started then
      let s1 := s.updatePacket p.uid (fun x => { x with phase := .running })
      .next ({ s1 with ctl := { s1.ctl with frozen := s1.ctl.frozen ++ set } }.quiesce p set)
    else if set.any (fun c => (s.resident c).isSome) then .next (s.quiesce p set)
    else .next ((set.foldl (fun (s : State) c => s.writeBack (wfield (s.ctxWord c 0) 1 6)) s).finishFreeze p)

/-! ### Resume (R335, R406, R407) -/

/-- Whether a signature of Ed25519 verifies under the device identity: the device's own does. Log 14 (DESIGN CHOICE). -/
def ownEd25519 (msg sig : List Byte) : Bool :=
  sig == numBytes 64 (Config.ed25519Sign msg).toNat || Config.otherEd25519 msg sig

/-- Whether a signature of ML-DSA-65 verifies under the device identity: the device's own does. Log 14 (DESIGN CHOICE). -/
def ownMldsa65 (msg sig : List Byte) : Bool :=
  sig == numBytes 3309 (Config.mldsa65Sign msg).toNat || Config.otherMldsa65 msg sig

/-- A record of a manifest. -/
structure ManifestRecord where
  kind : Nat
  ctx : Nat
  w1 : Nat
  w2 : Nat
  w3 : Nat
  deriving DecidableEq, Repr, Inhabited

/-- The records of a manifest in host memory. -/
def State.manifestRecords (s : State) (m : Nat) : List ManifestRecord :=
  (upFrom 0 (s.host.read (m + 24) 2)).map (fun k =>
    let a := m + 128 + 32 * k
    let w := s.host.read a 8
    ⟨w % 16, field w 4 8, s.host.read (a + 8) 8, s.host.read (a + 16) 8, s.host.read (a + 24) 8⟩)

/-- Whether two ranges of addresses meet. -/
def rangesMeet (a n b m : Nat) : Bool := decide (a < b + m ∧ b < a + n)

/-- Whether a manifest and its buffer pass the checks of R406. Log 40 (DEDUCED). -/
def State.manifestAccepted (s : State) (m buffer : Nat) : Bool :=
  let rs := s.manifestRecords m
  let data := rs.filter (fun r => decide (1 ≤ r.kind ∧ r.kind ≤ 7))
  let n := 128 + 32 * rs.length
  let msg := s.host.bytes m n
  let w0 := BitVec.ofNat 64 (s.host.read m 8)
  let owned := ((upFrom 0 256).filter s.ctxValid).flatMap s.regions
  wfield w0 0 32 == 0x4E4D5A46 && wbit w0 48 && wfield w0 32 16 == Config.revision.toNat
    && s.host.read (m + 48) 16 == Config.deviceSerial.toNat
    && ownEd25519 msg (s.host.bytes (m + n) 64) && ownMldsa65 msg (s.host.bytes (m + n + 64) 3309)
    && s.host.bytes (m + 64) 48
        == numBytes 48 (Config.sha384 (data.flatMap (fun r => s.host.bytes (buffer + r.w3) r.w2))).toNat
    && data.all (fun r => !s.ctxValid r.ctx)
    && data.all (fun r => owned.all (fun o => !rangesMeet r.w1 r.w2 o.addr o.len))

/-- A launch of a freeze live again, with the queue, packet and tag that its record names (R405, R407). Log 40 (DEDUCED). -/
def State.wakeLaunch (f : Frozen) (s : State) (r : ManifestRecord) : State :=
  let lid := r.w1 % 64
  match f.launches.find? (fun e => e.1.ctx == r.ctx && e.1.lid == lid) with
  | none => s
  | some (l, counts) =>
    let l1 : Launch :=
      { l with fn := field r.w1 16 1, q := field r.w1 8 8, i := r.w2, usertag := BitVec.ofNat 64 r.w3, prev := none,
               idle := 0, lastWave := s.sys.rtime, watch := false }
    { s with counts := counts ++ s.counts, ctl := { s.ctl with launches := s.ctl.launches ++ [l1] } }

/-- The freeze with a number, as the device keeps it (R407); one that the device does not know keeps nothing.
Log 40 (DEDUCED). -/
def State.frozenBy (s : State) (freeze : Nat) : Frozen :=
  (s.ctl.asleep.find? (fun f => f.freeze == freeze)).getD ⟨freeze, [], [], []⟩

/-- The control blocks and mailbox entries of the contexts of a resume put back in place of any that stand under their numbers
(R407). Log 40 (DEDUCED). -/
def State.wakeImages (s : State) (f : Frozen) (ctxs : List Nat) : State :=
  { s with
    ctl := { s.ctl with
      images := f.images.filter (fun m => ctxs.contains m.ctx) ++ s.ctl.images.filter (fun m => !ctxs.contains m.ctx)
      mailed := f.mailed.filter (fun e => ctxs.contains e.1) ++ s.ctl.mailed.filter (fun e => !ctxs.contains e.1) } }

/-- A manifest that passes its checks carried out (R406, R407). -/
def State.resume (s : State) (m buffer : Nat) : State :=
  let rs := s.manifestRecords m
  let s1 := (rs.filter (fun r => decide (1 ≤ r.kind ∧ r.kind ≤ 7))).foldl (fun (s : State) r =>
    { s with mem := s.mem.blit s.host r.w1 (buffer + r.w3) r.w2 }) s
  let ctxs := (rs.filter (fun r => r.kind == 1)).map (·.ctx)
  let s2 := (rs.filter (fun r => r.kind == 1)).foldl (fun (s : State) r =>
    s.physStore r.w1 8 ((s.physRead r.w1 8).1 ||| 1) false) s1
  let f := s.frozenBy (s.host.read (m + 32) 8)
  let s3 := (rs.filter (fun r => r.kind == 8)).foldl (State.wakeLaunch f) (s2.wakeImages f ctxs)
  let s4 : State := { s3 with ctl := { s3.ctl with frozen := s3.ctl.frozen.filter (fun c => !ctxs.contains c) } }
  ctxs.foldl State.await s4

/-- A started resume packet (R406). Log 18 (DESIGN CHOICE). -/
def execResumePacket (fn q i : Nat) (s : State) : Out :=
  match s.startedPacket fn q i 6 .started with
  | none => .next s
  | some p =>
    let m := (p.w 2).toNat
    let buffer := Config.resumeBuffer s.tick
    if s.firmwareHalted then .next s
    else if s.manifestAccepted m buffer then .next ((s.resume m buffer).finishPacket p.uid 0 0)
    else .next (s.finishPacket p.uid 2 0)

end Sys2Proof.Machine
end

