-- ==== Sys2Proof/Machine/Mailbox.lean ====
section
/-! DEFINITION. The management mailbox (R355 to R357): POOLS, SET_PRIORITY, SET_QUANTUM, SET_WATERMARK, ATTEST (R418),
FLASH_WRITE and ORPHANS (R407). One step copies the request, performs the operation, writes the response and clears
BUSY. -/

namespace Sys2Proof.Machine

/-- RESULT values (R356). -/
inductive MbResult where
  | ok | badOp | badArg | badSeq | noFw
  deriving DecidableEq, Repr, Inhabited

/-- The number of a RESULT (R356). -/
def MbResult.code : MbResult → Nat
  | .ok => 0 | .badOp => 1 | .badArg => 2 | .badSeq => 3 | .noFw => 4

/-- Memory as the server's copy of REQ has it: of each unit that the host wrote while BUSY was 1, what it holds or what it held
before one of those writes (R356). Log 65 (DESIGN CHOICE). -/
def State.reqCopy (s : State) : Memory :=
  ((s.io.reqOld.map (·.at_)).dedup).foldl (fun (m : Memory) u =>
    match pick (s.mem.copyUnit u :: s.io.reqOld.filter (fun c => c.at_ == u)) (Config.choice s.tick (64 + (u - rmBoxBase) / 8)) with
    | some c => m.putUnit c
    | none => m) s.mem

/-- REQ word 0 (R356). -/
def State.request (s : State) : W64 := BitVec.ofNat 64 (s.reqCopy.read (rmBoxBase + 0x100) 8)

/-- OP of the request. -/
def State.requestOp (s : State) : Nat := wfield s.request 0 8

/-- PLEN of the request. -/
def State.requestLen (s : State) : Nat := wfield s.request 32 12

/-- The bytes of the request's payload. -/
def State.requestBytes (s : State) : List Byte := s.reqCopy.bytes (rmBoxBase + 0x108) s.requestLen

/-- Word k of the request's payload. -/
def State.requestWord (s : State) (k : Nat) : W64 := BitVec.ofNat 64 (s.reqCopy.read (rmBoxBase + 0x108 + 8 * k) 8)

/-- The response written and BUSY cleared (R356). -/
def State.respond (s : State) (r : MbResult) (payload : List Byte) : State :=
  let w := wfield s.request 16 16 + s.requestOp * 2 ^ 16 + r.code * 2 ^ 24 + payload.length * 2 ^ 32
  let m := (s.mem.putBytes (rmBoxBase + 0x1008) payload).markWritten (rmBoxBase + 0x1008) payload.length false
  { s with mem := m.store (rmBoxBase + 0x1000) 8 w false, io := { s.io with mbBusy := false, reqOld := [] } }

/-- A request served: while the firmware has not started, the security root performs FLASH_WRITE and answers every other
operation with NOFW; a SEQ other than the doorbell's gives BAD_SEQ, an unassigned OP BAD_OP, and a request outside the
limits of its operation BAD_ARG (R355, R356). Firmware that has stopped serves nothing (R343, R414). Log 33 (DEDUCED), 37 (DEDUCED). -/
def State.serve (s : State) (op : Nat) (good : Bool) (perform : State → State × List Byte) : State :=
  let known : Bool := decide (1 ≤ s.requestOp ∧ s.requestOp ≤ 7)
  if !s.io.mbBusy || (!s.io.nofw && s.firmwareHalted) then s
  else if s.requestOp != op && (known || op != 1) then s
  else if s.io.nofw && s.requestOp != 6 then s.respond .noFw []
  else if wfield s.request 16 16 != s.io.doorbell.toNat % 2 ^ 16 then s.respond .badSeq []
  else if !known then s.respond .badOp []
  else if !good || wfield s.request 8 8 != 0 || wfield s.request 44 20 != 0 || decide (3832 < s.requestLen) then
    s.respond .badArg []
  else
    let (s1, out) := perform s
    s1.respond .ok out

/-- POOLS; a request with an unassigned OP is answered in this step too (R357). -/
def execPools (s : State) : Out :=
  .next (s.serve 1 (s.requestLen == 0) (fun s => (s, numBytes 8 s.sys.pools.toNat)))

/-- SET_PRIORITY, with the decision that it brings about (R357, R399, R401). -/
def execSetPriority (s : State) : Out :=
  let w := s.requestWord 0
  let c := wfield w 0 8
  .next (s.serve 2 (s.requestLen == 8 && c != 0 && wfield w 12 52 == 0) (fun s =>
    (({ s with ctl := { s.ctl with prio := putKeyed s.ctl.prio c (wfield w 8 4) } }).reviewPart
      (wfield (s.ctxWord c 0) 1 6), [])))

/-- SET_QUANTUM (R357). -/
def execSetQuantum (s : State) : Out :=
  let w := (s.requestWord 0).toNat
  .next (s.serve 3 (s.requestLen == 8 && decide (100 ≤ w ∧ w ≤ 1000000)) (fun s =>
    ({ s with ctl := { s.ctl with quantum := w } }, [])))

/-- SET_WATERMARK (R357). -/
def execSetWatermark (s : State) : Out :=
  .next (s.serve 4 (s.requestLen == 8) (fun s =>
    ({ s with ctl := { s.ctl with watermark := (s.requestWord 0).toNat } }, [])))

/-- The fields of an attestation report, in order, as 8-byte words and byte strings (R418). Log 37 (DEDUCED). -/
def State.reportFields (s : State) (nonce : List Byte) : List Byte :=
  numBytes 8 0x41545356 ++ numBytes 8 Config.revision.toNat ++ numBytes 16 Config.deviceSerial.toNat
    ++ numBytes 48 s.hw.fwDigest.toNat ++ numBytes 8 s.hw.fwSvn ++ numBytes 8 Config.fusedMinimumSvn
    ++ numBytes 48 (Config.sha384 (numBytes 144 s.retirementMap)).toNat
    ++ (upFrom 0 64).flatMap (fun p => numBytes 8 ((s.readSys (0x40 + p)).getD 0).toNat)
    ++ numBytes 8 s.sys.rtime ++ nonce

/-- ATTEST (R357, R418). -/
def execAttest (s : State) : Out :=
  .next (s.serve 5 (s.requestLen == 32) (fun s =>
    let f := s.reportFields s.requestBytes
    (s, f ++ signatures f)))

/-- FLASH_WRITE (R357): the offset, then the data. -/
def execFlashWrite (s : State) : Out :=
  let off := (s.requestWord 0).toNat
  let n := s.requestLen - 8
  .next (s.serve 6 (decide (8 ≤ s.requestLen ∧ n % 8 = 0 ∧ off % 8 = 0 ∧ off + n ≤ 2 ^ 24)) (fun s =>
    ({ s with flash := s.flash.putBytes off (s.requestBytes.drop 8) }, [])))

/-- ORPHANS: up to 64 records, oldest first, each removed (R357, R407). -/
def execOrphans (s : State) : Out :=
  .next (s.serve 7 (s.requestLen == 0) (fun s =>
    ({ s with ctl := { s.ctl with orphans := s.ctl.orphans.drop 64 } }, (s.ctl.orphans.take 64).flatMap wordsBytes)))

end Sys2Proof.Machine
end

