-- ==== Sys2Proof/Machine/Health.lean ====
section
/-! DEFINITION. Package reset (R309 to R313, R353, R354, R414), checks and retirement (R411 to R413), clocks and power (R415,
R416), DEGRADED_EXIT (R414), PAGE_EVICTION (R409, R410) and TORUS_PROTOCOL_ERROR (R238). -/

namespace Sys2Proof.Machine

/-! ### The firmware image (R309, R311, R312, R353, R354) -/

/-- A section of an object image (R309). -/
structure Section where
  kind : Nat
  align : Nat
  cb : Nat
  off : Nat
  size : Nat
  deriving DecidableEq, Repr, Inhabited

/-- The sections of a firmware body of `len` bytes, or none when its loader rejects it (R309, R353). `rd a` reads the word
at an offset of the body. -/
def bodySections (rd : Nat → Nat) (len : Nat) : Option (List Section) :=
  let n := field (rd 0) 48 16
  let tab := rd 8
  if rd 0 % 2 ^ 48 = 0x31434E46 + 2 ^ 32 ∧ (upFrom 2 6).all (fun k => rd (8 * k) == 0) ∧ tab + 32 * n ≤ len then
    let secs := (upFrom 0 n).map (fun k =>
      let w := rd (tab + 32 * k)
      (w, (⟨w % 16, field w 4 6, field w 10 12, rd (tab + 32 * k + 8), rd (tab + 32 * k + 16)⟩ : Section)))
    if secs.all (fun e => decide (e.1 < 2 ^ 22) && [1, 2, 4, 5, 6, 7].contains e.2.kind && decide (e.2.off + e.2.size ≤ len)
        && (e.2.cb == 0 || e.2.kind == 1 || e.2.kind == 4)) then some (secs.map (·.2))
    else none
  else none

/-- A relocation entry (R311). -/
structure Reloc where
  sect : Nat
  type : Nat
  target : Nat
  off : Nat
  addend : Nat
  deriving DecidableEq, Repr, Inhabited

/-- The relocations of a body, or none when one is rejected (R311). -/
def bodyRelocs (rd : Nat → Nat) (secs : List Section) : Option (List Reloc) :=
  let all := (secs.filter (fun x => x.kind == 5)).flatMap (fun x => (upFrom 0 (x.size / 24)).map (fun k =>
    let a := x.off + 24 * k
    (rd a, (⟨field (rd a) 0 16, field (rd a) 16 4, field (rd a) 20 16, rd (a + 8), rd (a + 16)⟩ : Reloc))))
  if all.all (fun e => decide (e.1 < 2 ^ 36) && decide (1 ≤ e.2.type ∧ e.2.type ≤ 3) && decide (e.2.sect < secs.length)
      && decide (e.2.target < secs.length)) then some (all.map (·.2))
  else none

/-- A symbol entry (R313). -/
structure Symbol where
  name : Nat
  kind : Nat
  sect : Nat
  off : Nat
  deriving DecidableEq, Repr, Inhabited

/-- The symbols of a body, or none when one has a reserved bit set or names no section (R309, R313). -/
def bodySymbols (rd : Nat → Nat) (secs : List Section) : Option (List Symbol) :=
  let all := (secs.filter (fun x => x.kind == 6)).flatMap (fun x => (upFrom 0 (x.size / 24)).map (fun k =>
    let a := x.off + 24 * k
    (rd a, rd (a + 16), (⟨field (rd a) 0 32, field (rd a) 32 4, field (rd a) 36 16, rd (a + 8)⟩ : Symbol))))
  if all.all (fun e => decide (e.1 < 2 ^ 52) && e.2.1 == 0 && decide (e.2.2.sect < secs.length)) then some (all.map (·.2.2))
  else none

/-- The sections that a loader puts into memory: code, data and descriptors. -/
def Section.loaded (x : Section) : Bool := [1, 2, 4].contains x.kind

/-- Sections placed one behind another from an address on, each aligned as it asks and behind a gap: their numbers with their
addresses, and the first address behind them. -/
def placeSections (gap : Nat → Nat) (l : List (Nat × Section)) (at_ : Nat) : List (Nat × Nat) × Nat :=
  match l with
  | [] => ([], at_)
  | (k, x) :: t =>
    let al := 2 ^ x.align
    let a := (at_ + gap k + al - 1) / al * al
    let (r, e) := placeSections gap t (a + x.size)
    ((k, a) :: r, e)

/-- Where the loaded sections of a body stand: in some order and behind some gaps, without overlap, inside Ringmaster memory;
without gaps where the gaps leave no room, and none when they do not fit at all (R309, R354). Log 18 (DESIGN CHOICE), 41 (DESIGN CHOICE). -/
def sectionPlaces (tick : Nat) (secs : List Section) : Option (List (Nat × Nat)) :=
  let l := sortBy (fun x : Nat × Section => Config.sectionPlace tick (2 * x.1 + 1))
    ((secs.zipIdx.filter (fun x => x.1.loaded)).map (fun x => (x.2, x.1)))
  let wide := placeSections (fun k => Config.sectionPlace tick (2 * k)) l rmMemBase
  let tight := placeSections (fun _ => 0) l rmMemBase
  if wide.2 ≤ rmBoxBase then some wide.1 else if tight.2 ≤ rmBoxBase then some tight.1 else none

/-- The address of a section that is loaded; one that is not has none, and counts from 0. -/
def sectionAddress (places : List (Nat × Nat)) (k : Nat) : Nat := (keyed places k).getD 0

/-- The four words of the `li` of R312 for a register and an address. -/
def liWords (d : Nat) (a : Nat) : List Nat :=
  let pre (x : Nat) : Nat := 0x7F * 2 ^ 25 + x
  [pre (field a 20 15), 0x05 * 2 ^ 25 + d * 2 ^ 20 + field a 0 20, pre (field a 55 9 + (if a.testBit 63 then 0x7E00 else 0)),
   0x06 * 2 ^ 25 + d * 2 ^ 20 + field a 35 20]

/-- One relocation applied (R311, R312). A type 3 entry takes its register from bits [24:20] of the second word that it replaces. An
offset beyond its section, and a section that is not loaded, are not looked at: the bytes at the load address plus the offset are
patched, and the load address of a section that is not loaded is 0. Log 68 (DESIGN CHOICE). -/
def relocate (places : List (Nat × Nat)) (m : Memory) (r : Reloc) : Memory :=
  let place := sectionAddress places r.sect + r.off
  let a := ((sectionAddress places r.target : Int) + signedOf 64 r.addend) % 2 ^ 72
  let a := a.toNat
  match r.type with
  | 1 => m.store place 8 (a % 2 ^ 64) false
  | 2 => m.store place 9 a false
  | _ =>
    let d := field (m.read (place + 4) 4) 20 5
    (liWords d a).zipIdx.foldl (fun (m : Memory) (w, k) => m.store (place + 4 * k) 4 w false) m

/-- The table entry of the codeblock of a descriptor section, at CBNUM: its loaded descriptor, which stands where the codeblock's
symbol says, or at the start of the section (R313). Log 61 (DEDUCED). -/
def bodyEntry (places : List (Nat × Nat)) (syms : List Symbol) (x : Section × Nat) : Option (Nat × Nat) :=
  if x.1.kind = 4 then
    let off := ((syms.find? (fun y => y.kind == 1 && y.sect == x.2)).map (·.off)).getD 0
    some (x.1.cb, sectionAddress places x.2 + off)
  else none

/-- A firmware body loaded into Ringmaster memory (R354): the memory, and the codeblock entries. Log 41 (DESIGN CHOICE). -/
def loadBody (places : List (Nat × Nat)) (secs : List Section) (syms : List Symbol) (relocs : List Reloc)
    (body : Nat → Nat → List Byte) (m : Memory) : Memory × List (Nat × Nat) :=
  let m1 := secs.zipIdx.foldl (fun (m : Memory) (x, k) =>
    if x.loaded then
      let a := sectionAddress places k
      (m.putBytes a (body x.off x.size)).markWritten a x.size false
    else m) m
  (relocs.foldl (relocate places) m1, secs.zipIdx.filterMap (bodyEntry places syms))

/-- Whether the header of an image has the form of R353. -/
def goodImageHeader (w : Nat → Nat) : Bool :=
  w 0 == 0x464D5256 + 2 ^ 32 && decide (w 1 < 2 ^ 32) && decide (w 2 % 8 = 0 ∧ w 2 ≤ 12 * 2 ^ 20) && decide (w 3 < 2 ^ 16)
    && [4, 5, 6, 7].all (fun k => w k == 0)

/-- The boot flash with the certificate chain of the device identity, which stands behind what FLASH_WRITE reaches (R357, R417).
Log 41 (DESIGN CHOICE). -/
def bootFlash (m : Memory) : Memory := m.putBytes (2 ^ 24) (Config.certificateChain Config.ed25519Public Config.mldsa65Public)

/-- The state right after a package reset, before the firmware image is read: what the device keeps is its memory, its
boot flash with the retirement map and the certificate chain, what its saved images, mailboxes and freezes hold, and the host's
memory (R14, R348, R354, R406, R408, R413, R414, R417). Log 5 (DESIGN CHOICE), 41 (DESIGN CHOICE). -/
def State.afterReset (s : State) : State :=
  { State.reset with
    agenda := s.agenda, tick := s.tick, nextId := s.nextId, mem := s.mem, host := s.host, flash := bootFlash s.flash
    ctl :=
    { State.reset.ctl with
      images := s.ctl.images, asleep := s.ctl.asleep, fseq := s.ctl.fseq, mailed := s.ctl.mailed
      frozen := s.ctl.frozen.filter (fun c => !s.freezing c) }
    io := { State.reset.io with linkX8 := Config.fourLinks s.tick, msix := s.io.msix }
    hw :=
    { State.reset.hw with
      retired := s.hw.retired, retiredShown := BitVec.ofNat 11 s.hw.retired.length, replaceFlag := !s.hw.retired.isEmpty
      health := if s.hw.retired.isEmpty then .healthy else .replace } }

/-- A firmware image refused: the Ringmaster does not start (R354, R414). -/
def State.bootFails (s : State) (err : Nat) : State := { s with hw := { s.hw with booterr := err } }

/-- The security root reads the image of the boot flash, and starts it when it accepts it (R354).
Log 15 (DESIGN CHOICE), 41 (DESIGN CHOICE), 57 (DESIGN CHOICE). -/
def State.boot (s : State) : State :=
  let w (k : Nat) : Nat := s.flash.read (8 * k) 8
  let len := w 2
  let msg := s.flash.bytes 0 (64 + len)
  let sig1 := s.flash.bytes (64 + len) 64
  let sig2 := s.flash.bytes (128 + len) 3309
  let rd (a : Nat) : Nat := s.flash.read (64 + a) 8
  if Config.flashReadFails s.tick then s.bootFails 5
  else if !goodImageHeader w then s.bootFails 1
  else
    match bodySections rd len with
    | none => s.bootFails 1
    | some secs =>
      match bodyRelocs rd secs, bodySymbols rd secs, sectionPlaces s.tick secs with
      | some relocs, some syms, some places =>
        if !Config.ed25519Verifies msg sig1 then s.bootFails 2
        else if !Config.mldsa65Verifies msg sig2 then s.bootFails 3
        else if w 1 < Config.fusedMinimumSvn then s.bootFails 4
        else
          let (m, entries) := loadBody places secs syms relocs (fun o n => s.flash.bytes (64 + o) n) s.mem
          let s1 : State :=
            { s with
              mem := m
              sys := { s.sys with bootEntries := entries }
              io := { s.io with nofw := false }
              hw := { s.hw with bootok := true, booterr := 0, fwDigest := Config.sha384 (msg ++ sig1 ++ sig2), fwSvn := w 1 } }
          s1.sendToken (unitToken .start ⟨0, field (w 3) 0 12, 0⟩ (field (w 3) 12 4) 0 0 ringmaster ringmaster 0 .none)
      | _, _, _ => s.bootFails 1

/-- Package reset (R354). Log 1 (DESIGN CHOICE). -/
def execPackageReset (s : State) : Out := .next s.afterReset.boot

/-! ### Errors (R411 to R414) -/

/-- The source of a health event of a die as a whole, whose cell number the specification leaves open (R412).
Log 19 (DESIGN CHOICE). -/
def State.dieSource (s : State) (die : Nat) : Nat := Config.choice s.tick 20 % 1152 + die * 2 ^ 11

/-- The source of a health event of a unit of memory: the home slice of HBM, or the H-die (R412). -/
def memorySource (pa : Nat) : Nat := if pa < rmMemBase then sourceWord (sliceCell (homeSlice pa)) 0 else sourceWord ringmaster 0

/-- Health made Degraded, unless it is worse (R414). -/
def State.degrade (s : State) : State :=
  if s.hw.health = .healthy then { s with hw := { s.hw with health := .degraded } } else s

/-- A corrected error: event 0x01, and Degraded beyond 1,024 of them in one hour (R411, R414). Log 42 (DEDUCED). -/
def State.correctedError (s : State) (src : Nat) : State :=
  let l := s.sys.rtime :: s.hw.corrected
  let s1 := { s with hw := { s.hw with corrected := l } }.healthEvent 0x01 src
  match (l.drop 1024).head? with
  | some t => if s.sys.rtime < t + hour then s1.degrade else s1
  | none => s1

/-- The eight damaged bytes of a unit as one word. -/
def State.damagedWord (s : State) : Nat :=
  (upFrom 0 8).foldr (fun k acc => (Config.damagedByte s.tick k).toNat + 256 * acc) 0

/-- A package that is Fatal (R414). Log 33 (DEDUCED). -/
def State.fatal (s : State) : State := { s with hw := { s.hw with health := .fatal } }

/-- A control structure of a cell damaged: its context halts on the cell as a double fault does (R368, R411).
Log 19 (DESIGN CHOICE). -/
def State.controlError (s : State) (site ctx : Nat) : State :=
  let it : Item :=
    { id := s.nextId, site := site, kind := 1, ctx := ctx, lid := 0, key := ⟨ctx, 0, 0⟩, fref := 0, thr := 0, hidx := 0, gen := 0,
      body := .op s.nextId, handler := none }
  { s with nextId := s.nextId + 1 }.doubleFault it (doubleRecord ((upFrom 0 8).map (Config.errorRecord s.tick)))

/-- One entry of a cell's caches given up: its TLB, its instruction cache or its local cache (R411).
Log 19 (DESIGN CHOICE). -/
def State.dropEntry (s : State) (site : Nat) : State :=
  let n := Config.choice s.tick 22
  match Config.choice s.tick 21 % 3 with
  | 0 =>
    match pick (s.tlb.filter (fun e => e.site == site)) n with
    | some v => { s with tlb := s.tlb.filter (· != v) }
    | none => s
  | 1 =>
    match pick (s.icache.filter (fun e => e.site == site)) n with
    | some v => { s with icache := s.icache.filter (· != v) }
    | none => s
  | _ =>
    match pick (s.lcache.filter (fun e => e.site == site)) n with
    | some v => { s with lcache := s.lcache.filter (· != v) }
    | none => s

/-- A detected error handled (R411). Log 19 (DESIGN CHOICE). -/
def execHardwareError (e : HwError) (s : State) : Out :=
  match e with
  | .corrected site => .next (s.correctedError (sourceWord site 0))
  | .memory pa =>
    if s.inPools pa 1 || decide (rmMemBase ≤ pa ∧ pa < rmBoxBase) then
      .next ({ s with mem := s.mem.store (unitOf pa) 8 s.damagedWord true }.healthEvent 0x02 (memorySource pa))
    else .next s
  | .scratch site ctx off =>
    let a := unitOf (scratchKey site ctx off)
    .next (({ s with scratch := s.scratch.store a 8 s.damagedWord true }.healthEvent 0x02 (sourceWord site ctx)).reportError site
      false)
  | .frameWord site ctx cb tag word =>
    let k : Key := ⟨ctx, cb, BitVec.ofNat 32 tag⟩
    match s.frameAt site k with
    | none => .next s
    | some f =>
      if f.life = .spilled then .next s
      else
        .next (((s.updateFrame site k (fun f => f.putWord word (BitVec.ofNat 64 s.damagedWord) true)).healthEvent 0x02
          (sourceWord site ctx)).reportError site false)
  | .tile site acc i j =>
    if acc < 4 ∧ i < 64 ∧ j < 64 then
      let row := s.tileRow site acc i
      let w : BitVec 4096 := BitVec.ofNat 4096 (row.toNat - field row.toNat (64 * j) 64 * 2 ^ (64 * j) + s.damagedWord * 2 ^ (64 * j))
      let s1 : State :=
        { s with
          tiles := putKeyed s.tiles (tileKey site acc i) w
          tilePoison := (tileKey site acc i * 64 + j) :: s.tilePoison.filter (· != tileKey site acc i * 64 + j) }
      .next ((s1.healthEvent 0x02 (sourceWord site (s.userAt site))).reportError site false)
    else .next s
  | .cacheEntry site => .next ((s.dropEntry site).reportError site false)
  | .registerFile site runner =>
    match s.instAt site runner with
    | none => .next s
    | some i =>
      let s1 : State :=
        match i.phase with
        | .tagwin _ => s
        | _ => s.abandon i
      .next ((s1.healthEvent 0x0B (sourceWord site i.key.ctx)).reportError site false)
  | .control site ctx => .next ((s.controlError site ctx).reportError site true)
  | .parkBuffer site ctx => .next ((s.controlError site ctx).reportError site false)
  | .descriptor site ctx cb =>
    if (s.descAt site ctx cb).isNone then .next s
    else
      let s1 : State := { s with descs := s.descs.filter (fun d => !(d.site == site && d.ctx == ctx && d.cb == cb)) }
      .next (((s1.loadDesc site ctx cb).1.healthEvent 0x03 (sourceWord site ctx)).reportError site false)
  | .linkRetry site => .next (s.healthEvent 0x04 (sourceWord site 0))
  | .linkRate => .next ({ s with hw := { s.hw with linkRateAt := some s.sys.rtime } }.degrade)
  | .linkFailed site => .next ((s.healthEvent 0x05 (sourceWord site 0)).fatal)
  | .vlpFailed => .next (s.healthEvent 0x05 (sourceWord ringmaster 0))

/-- Whether some 1,025 corrected errors that lay within one hour kept the package above the threshold after a time.
Log 42 (DEDUCED). -/
def aboveAfter (l : List Nat) (t : Nat) : Bool :=
  (l.zip (l.drop 1024)).any (fun e => decide (e.1 < e.2 + hour ∧ t < e.2 + hour))

/-- Degraded is left after a whole hour below both thresholds (R414). Log 42 (DEDUCED). -/
def execDegradedExit (s : State) : Out :=
  let since := s.sys.rtime - hour
  let quiet : Bool := decide (hour ≤ s.sys.rtime) && !aboveAfter s.hw.corrected since &&
    match s.hw.linkRateAt with
    | some t => decide (t ≤ since)
    | none => true
  if s.hw.health = .degraded ∧ quiet then .next { s with hw := { s.hw with health := .healthy } } else .next s

/-- A token of an unassigned kind discarded (R238). -/
def execTorusProtocolError (site kind : Nat) (s : State) : Out :=
  if 5 ≤ kind ∧ kind ≤ 7 then .next (s.healthEvent 0x06 (sourceWord site 0)) else .next s

/-! ### Clock and power (R415, R416) -/

/-- Droop on a die: its clock period doubles, and event 0x08 is raised at most once per millisecond (R415).
Log 43 (DESIGN CHOICE). -/
def execDroopDetect (die : Nat) (s : State) : Out :=
  if 8 ≤ die then .next s
  else
    let s1 : State := { s with hw := { s.hw with droop := putNat s.hw.droop die } }
    let quiet : Bool :=
      match keyed s.hw.droopEvent die with
      | some t => decide (s.sys.rtime < t + 10 ^ 6)
      | none => false
    if quiet then .next s1
    else
      .next ({ s1 with hw := { s1.hw with droopEvent := putKeyed s1.hw.droopEvent die s.sys.rtime } }.healthEvent 0x08
        (s.dieSource die))

/-- The clock of a die that has recovered (R415). Log 43 (DESIGN CHOICE). -/
def execDroopRecovery (die : Nat) (s : State) : Out := .next { s with hw := { s.hw with droop := dropNat s.hw.droop die } }

/-- The clock of a die moved by one sixteenth of 1.1 GHz: down to 0.55 GHz at the least, with event 0x0A, or up again
(R416). Log 43 (DESIGN CHOICE). -/
def execPowerLimitStep (die : Nat) (up : Bool) (s : State) : Out :=
  let n := (keyed s.hw.dieClock die).getD 0
  let set (k : Nat) : State := { s with hw := { s.hw with dieClock := putKeyed s.hw.dieClock die k } }
  if 8 ≤ die then .next s
  else if up then if n = 0 then .next s else .next (set (n - 1))
  else if n < 8 then .next ((set (n + 1)).healthEvent 0x0A (s.dieSource die))
  else .next s

/-! ### Eviction (R409, R410) -/

/-- The least low-water address that the commands of a context have published (R273, R410). -/
def State.lowWaterOf (s : State) (ctx : Nat) : Option Nat :=
  leastBy id (s.ops.filterMap (fun o =>
    match o.kind with
    | .engine e => if o.key.ctx = ctx then e.lowWater.map (·.toNat) else none
    | _ => none))

/-- The RTIME of the last walk of a page by any die's walker; 0 for a page that none lists (R410). -/
def State.lastWalk (s : State) (ctx va : Nat) : Nat :=
  ((s.ctl.walks.filter (fun w => w.2.1 == ctx && w.2.2.1 == va / 4096)).map (fun w => w.2.2.2 + 1)).foldl max 0

/-- The page of a context that is evicted next: the highest below the low-water address, else the one translated longest
ago; pages that a freeze lists under KIND 1 to 6 stay (R410). -/
def State.evictee (s : State) (ctx : Nat) : Option LeafPage :=
  let fixed := ((upFrom 0 256).filter s.ctxValid).flatMap s.fixedRegions
  let pages := (s.dataPages ctx).filter (fun p => fixed.all (fun r => !rangesMeet p.pa p.size r.addr r.len))
  match (s.lowWaterOf ctx).bind (fun low => greatestBy (·.va) (pages.filter (fun p => decide (p.va + p.size ≤ low)))) with
  | some p => some p
  | none =>
    match leastBy (fun p => s.lastWalk ctx p.va) pages with
    | none => none
    | some p => pick (pages.filter (fun x => s.lastWalk ctx x.va == s.lastWalk ctx p.va)) (Config.choice s.tick 23)

/-- A page of a resident context evicted to host memory by the Ringmaster (R343, R377, R409). Log 17 (DESIGN CHOICE). -/
def execPageEviction (ctx host : Nat) (s : State) : Out :=
  if s.firmwareHalted || s.ctl.watermark ≤ Config.freePackageMemory s.tick || (s.resident ctx).isNone then .next s
  else
    match s.evictee ctx with
    | none => .next s
    | some p =>
      let r : SysReq := .tlbi ctx (BitVec.ofNat 72 p.va)
      if s.inFlight r then .next s
      else
        let s1 := s.physStore p.at_ 8 ((p.leaf &&& ~~~1) ||| 0x100).toNat false
        .next
          { s1 with
            tlb := s1.tlb.filter (fun e => !r.covers e.ctx (e.page * 2 ^ (12 + 10 * e.level)) e.level)
            host := s1.host.blit s1.mem host p.pa p.size }

end Sys2Proof.Machine
end

