-- ==== Sys2Proof/Machine/ScalarFloat.lean ====
section
/-! DEFINITION. Scalar floating point, major 0x08 (R149 to R154). -/

namespace Sys2Proof.Machine

/-- The operand of a floating type: the low bits of a register (R149). -/
def Inst.getF (i : Inst) (t : FloatTy) (r : Reg) : Nat := (i.getS r).toNat % 2 ^ t.fmt.width

/-- A result written zero-extended, with its flags (R69, R149). -/
def Inst.setF (i : Inst) (d : Reg) (r : Flagged) : Inst := (i.setS d (BitVec.ofNat 64 r.1)).raise r.2

/-- d := f(a, b). -/
def floatBinary (t : FloatTy) (f : Nat → Nat → Flagged) (d a b : Reg) : State → Out :=
  liftPure (fun i => i.setF d (f (i.getF t a) (i.getF t b)))

/-- d := f(a). -/
def floatUnary (t : FloatTy) (f : Nat → Flagged) (d a : Reg) : State → Out :=
  liftPure (fun i => i.setF d (f (i.getF t a)))

/-- d := f(a, b, old d). -/
def floatFused (t : FloatTy) (f : Nat → Nat → Nat → Flagged) (d a b : Reg) : State → Out :=
  liftPure (fun i => i.setF d (f (i.getF t a) (i.getF t b) (i.getF t d)))

/-- A compare written as 1 or 0 (R153). -/
def compareWord (t : FloatTy) (p : Rel) (x y : Nat) : Flagged :=
  ((floatCompare t.fmt p x y).1.toNat, (floatCompare t.fmt p x y).2)

def execFadd (d a b : Reg) (r : Round) (t : FloatTy) : State → Out := floatBinary t (floatAdd t.fmt r) d a b
def execFsub (d a b : Reg) (r : Round) (t : FloatTy) : State → Out := floatBinary t (floatSub t.fmt r) d a b
def execFmul (d a b : Reg) (r : Round) (t : FloatTy) : State → Out := floatBinary t (floatMul t.fmt r) d a b
def execFdiv (d a b : Reg) (r : Round) (t : FloatTy) : State → Out := floatBinary t (floatDiv t.fmt r) d a b
def execFsqrt (d a : Reg) (r : Round) (t : FloatTy) : State → Out := floatUnary t (floatSqrt t.fmt r) d a
def execFma (d a b : Reg) (r : Round) (t : FloatTy) : State → Out := floatFused t (floatFma t.fmt r) d a b
def execFnma (d a b : Reg) (r : Round) (t : FloatTy) : State → Out := floatFused t (floatFnma t.fmt r) d a b
def execFmin (d a b : Reg) (t : FloatTy) : State → Out := floatBinary t (floatMinMax t.fmt false) d a b
def execFmax (d a b : Reg) (t : FloatTy) : State → Out := floatBinary t (floatMinMax t.fmt true) d a b
def execFceq (d a b : Reg) (t : FloatTy) : State → Out := floatBinary t (compareWord t .eq) d a b
def execFclt (d a b : Reg) (t : FloatTy) : State → Out := floatBinary t (compareWord t .lt) d a b
def execFcle (d a b : Reg) (t : FloatTy) : State → Out := floatBinary t (compareWord t .le) d a b

/-- `fcvt`: from float type `x` to float type `t` (R152). -/
def execFcvt (d a : Reg) (x : FloatTy) (r : Round) (t : FloatTy) (sat : Bool) : State → Out :=
  floatUnary x (convertFloat x.fmt t.fmt r sat) d a

/-- `fcvti`: from float type `t` to an integer type, always saturating (R67, R152). -/
def execFcvti (d a : Reg) (x : IntTy) (r : Round) (t : FloatTy) (_sat : Bool) : State → Out :=
  liftPure (fun i =>
    let z := floatToInt t.fmt x.signed x.width r (i.getF t a)
    (i.setS d (BitVec.ofInt 64 z.1)).raise z.2)

/-- `icvtf`: from an integer type to float type `t` (R65, R66, R152). -/
def execIcvtf (d a : Reg) (x : IntTy) (r : Round) (t : FloatTy) (sat : Bool) : State → Out :=
  liftPure (fun i => i.setF d (intToFloat t.fmt r sat (valueOf x (i.getS a).toNat)))

def execFneg (d a : Reg) (t : FloatTy) : State → Out := floatUnary t (fun x => (floatNegBits t.fmt x, 0)) d a
def execFabs (d a : Reg) (t : FloatTy) : State → Out := floatUnary t (fun x => (floatAbsBits t.fmt x, 0)) d a
def execFsgn (d a b : Reg) (t : FloatTy) : State → Out :=
  floatBinary t (fun x y => (floatSignBits t.fmt x y, 0)) d a b
def execFcls (d a : Reg) (t : FloatTy) : State → Out := floatUnary t (fun x => (floatClass t.fmt x, 0)) d a

end Sys2Proof.Machine
end

