-- ==== Sys2Proof/Machine/Sends.lean ====
section
/-! DEFINITION. Sending and the frame's own controls, majors 0x40 to 0x45 (R240 to R249). -/

namespace Sys2Proof.Machine

/-- The place of the instruction that an instance is executing; the instance has already counted it. -/
def Cur.place (c : Cur) (i : Inst) : At := ⟨i.dyn - 1, c.addr, c.w0, c.w1⟩

/-- The token that an instruction sends to a frame reference (R240). -/
def sentToken (i : Inst) (f : Frame) (r : W64) (k : Checked) (slot : SlotNo) (kind idx : Nat) (rels : Option Scope)
    (p : Payload) : Token :=
  { unitToken .send (refKey i.key.ctx r) slot.toNat kind idx (if k.ring then ringmaster else wfield r 44 11) i.site f.lid p
    with
    epoch := wbit r 56
    rels := rels
    committed := false
    remote := k.remote.map (fun m => (m.pkg, m.port)) }

/-- A token sent at the commit to the frame that a reference names, after the checks of R241. `ok` is the check of the
word index against the target's frame type. A descriptor that the checks load stays loaded, whatever fails (R302). -/
def sendTo (s : State) (i : Inst) (c : Cur) (r : W64) (needType : Bool) (ok : Bool → Bool) (idx : Nat)
    (mk : Checked → Token) : State × Except Trap Inst :=
  let (s1, k) := s.checkRef i.site i.key.ctx r needType
  (s1, do
    let k ← k
    if needType && !ok k.large then throw { cause := .frameRange, value := BitVec.ofNat 64 idx }
    i.effect (.token (mk k) (wbit r 55) (c.place i)))

/-- `send` (R240). -/
def execSend (a b : Reg) (slot : SlotNo) (idx : BitVec 8) (rels : Option Scope) : State → Out :=
  liftS (fun s i c =>
    let r := i.getS a
    sendTo s i c r true (fun large => large || decide (idx.toNat < 64)) idx.toNat
      (fun k => sentToken i (s.frameOf i) r k slot 1 idx.toNat rels (.word (i.getS b))))

/-- `sendv` (R240). -/
def execSendv (a b : Reg) (slot : SlotNo) (idx : BitVec 3) (rels : Option Scope) : State → Out :=
  liftS (fun s i c =>
    let r := i.getS a
    sendTo s i c r true (fun large => large) idx.toNat
      (fun k => sentToken i (s.frameOf i) r k slot 2 idx.toNat rels (.vector (i.getV b) 0)))

/-- A signal to the frame that a reference names (R240, R242). -/
def signalTo (s : State) (i : Inst) (c : Cur) (r : W64) (slot : SlotNo) (rels : Option Scope) :
    State × Except Trap Inst :=
  sendTo s i c r false (fun _ => true) 0 (fun k => sentToken i (s.frameOf i) r k slot 0 0 rels .none)

/-- `sig` (R240). -/
def execSig (a : Reg) (slot : SlotNo) (rels : Option Scope) : State → Out :=
  liftS (fun s i c => signalTo s i c (i.getS a) slot rels)

/-- `sw`: one signal, to the reference that the predicate chooses (R242). -/
def execSw (p a b : Reg) (slot : SlotNo) (rels : Option Scope) : State → Out :=
  liftS (fun s i c => signalTo s i c (if i.getS p ≠ 0 then i.getS a else i.getS b) slot rels)

/-- `rearm` (R246). -/
def execRearm (slot : SlotNo) (a b : Reg) : State → Out :=
  lift (fun s i _ => do
    if ((keyed (s.frameOf i).desc.slots slot.toNat).isNone) then throw { cause := .slotUndeclared }
    i.effect (.rearm slot.toNat (wfield (i.getS a) 0 12) (wfield (i.getS b) 0 12)))

/-- `fret` (R247). -/
def execFret : State → Out := lift (fun _ i _ => i.effect .fret)

/-- `tagwin` (R248). -/
def execTagwin (a b c : Reg) : State → Out :=
  lift (fun s i _ => do
    let cb := (i.getS a).toNat
    let k := (i.getS c).toNat
    if 4095 < cb ∨ 12 < k then throw { cause := .tagwinRange }
    if (s.codeblock i.key.ctx cb).isNone then throw { cause := .codeblockAbsent }
    i.effect (.tagwin cb ((i.getS b).setWidth 32) k))

/-- `mkref` (R249). -/
def execMkref (d a : Reg) (cb : BitVec 12) : State → Out :=
  liftPure (fun i =>
    let x := i.getS a
    i.setS d (BitVec.ofNat 64 (wfield x 0 32 + cb.toNat * 2 ^ 32 + wfield x 32 1 * 2 ^ 56)))

end Sys2Proof.Machine
end

