-- ==== Sys2Proof/Machine/System.lean ====
section
/-! DEFINITION. The system instructions, majors 0x60 and 0x61 (R129, R346, R369 to R378). -/

namespace Sys2Proof.Machine

/-- The check of R129: a user context issues none of these, but for the four that its handler frames may. -/
def systemGate (s : State) (i : Inst) (handler : Bool) : Except Trap Unit :=
  if i.key.ctx ≠ 0 ∧ !(handler && (s.frameOf i).handler.isSome) then .error { cause := .systemOnly } else .ok ()

/-- An action on the item that the record in words 0 to 7 of the executing frame names (R371). -/
def actOn (a : Nat) (v : Inst → W64) : State → Out :=
  lift (fun s i _ => do
    systemGate s i true
    let ws ← (upFrom 0 8).mapM (readWord (s.frameOf i) i)
    i.effect (.act a (v i) ws))

def execRply : State → Out := actOn 0 (fun _ => 0)
def execRsup (a : Reg) : State → Out := actOn 1 (fun i => i.getS a)
def execKill : State → Out := actOn 2 (fun _ => 0)

/-- `kill.l` (R374). -/
def execKillL (a : Reg) : State → Out :=
  lift (fun s i _ => do
    systemGate s i false
    i.effect (.killLaunch (wfield (i.getS a) 0 8) (wfield (i.getS a) 8 6)))

/-- `frr` (R373). -/
def execFrr (d : Reg) : State → Out :=
  lift (fun s i _ => do
    systemGate s i true
    return i.setV d (((s.frameOf i).handler.bind (·.held)).getD 0))

/-- A system request that signals a slot (R369, R370). -/
def request (r : Inst → SysReq) (slot : SlotNo) : State → Out :=
  lift (fun s i c => do
    systemGate s i false
    issue s i c slot (.sys (r i) false) [])

def execTlbi (slot : SlotNo) (a b : Reg) : State → Out :=
  request (fun i => .tlbi (wfield (i.getS a) 0 8) (globalAddr (i.getS b))) slot
def execTlbia (slot : SlotNo) (a : Reg) : State → Out :=
  request (fun i => .tlbia (if wbit (i.getS a) 8 then none else some (wfield (i.getS a) 0 8))) slot
def execCtxsv (slot : SlotNo) (a : Reg) : State → Out := request (fun i => .ctxsv (wfield (i.getS a) 0 6)) slot
def execCtxrs (slot : SlotNo) (a b : Reg) : State → Out :=
  request (fun i => .ctxrs (wfield (i.getS a) 0 8) (wfield (i.getS b) 0 6)) slot
def execHalt (slot : SlotNo) (a : Reg) : State → Out := request (fun i => .halt (wfield (i.getS a) 0 8)) slot

/-- What a cell may read of a register whose last write has not surely reached it: the old value or the new one, as
the hardware has it (R378). Log 11 (DESIGN CHOICE), 51 (DEDUCED). -/
def State.cellSys (s : State) (num : Nat) : W64 :=
  let new := (s.readSys num).getD 0
  let olds := (s.sys.old.filter (fun e => e.1 == num)).map (·.2.1)
  (pick (new :: olds) (Config.choice s.tick 6)).getD new

/-- `rdsr` (R346, R370, R378): a number that names nothing where it issues is illegal, whatever the context. -/
def execRdsr (d : Reg) (num : BitVec 12) : State → Out :=
  lift (fun s i _ => do
    let n := num.toNat
    if i.site = ringmaster then
      match s.readSys n with
      | some v => return i.setS d v
      | none => throw { cause := .illegalInstruction }
    else if cellReads n then do
      systemGate s i false
      return i.setS d (s.cellSys n)
    else throw { cause := .illegalInstruction })

/-- `wrsr` (R346, R378): only the Ringmaster writes a register. -/
def execWrsr (num : BitVec 12) (d : Reg) : State → Out :=
  lift (fun s i _ => do
    if i.site = ringmaster ∧ (s.readSys num.toNat).isSome then i.effect (.writeSys num.toNat (i.getS d))
    else throw { cause := .illegalInstruction })

/-- A word whose major is reserved-trapping, whose fields hold unassigned values, or behind a forbidden prefix (R112,
R128). The words are those that the runner issues. -/
def execIllegalInstruction (_w0 : Word) (_w1 : Option Word) : State → Out :=
  lift (fun _ _ _ => throw { cause := .illegalInstruction })

end Sys2Proof.Machine
end

