-- ==== Sys2Proof/Machine/VectorPermute.lean ====
section
/-! DEFINITION. Permutes, reductions, scans, mask registers, moves and lane access, majors 0x22 to 0x26
(R70, R186 to R190). -/

namespace Sys2Proof.Machine

/-! ### Major 0x22 (R186) -/

def execVperm (d a b : Reg) (k : MReg) (t : ElemTy) (z : Bool) : State → Out :=
  vectorOp t.width (fun i j => elemAt t.width (i.getV a) (vectorSrc t.width b i j % elemCount t.width)) d k z

def execVbcst (d b : Reg) (k : MReg) (t : ElemTy) (z : Bool) : State → Out :=
  vectorOp t.width (scalarSrc t.width b) d k z

def execVslup (d a b : Reg) (k : MReg) (t : ElemTy) (z : Bool) : State → Out :=
  vectorOp t.width (fun i j =>
    if (i.getS b).toNat ≤ j then elemAt t.width (i.getV a) (j - (i.getS b).toNat) else 0) d k z

def execVsldn (d a b : Reg) (k : MReg) (t : ElemTy) (z : Bool) : State → Out :=
  vectorOp t.width (fun i j =>
    if j + (i.getS b).toNat < elemCount t.width then elemAt t.width (i.getV a) (j + (i.getS b).toNat) else 0) d k z

/-- `vcompr` writes every element; the mask chooses the sources. -/
def execVcompr (d a : Reg) (k : MReg) (t : ElemTy) : State → Out :=
  liftPure (fun i =>
    let l := ((elems t.width (i.getV a)).zipIdx.filter (fun x => active (i.getM k) x.2)).map (·.1)
    i.setV d (ofLanes t.width l))

/-- The number of active elements below one. -/
def activeBelow (m : W64) (j : Nat) : Nat := ((upFrom 0 j).filter (active m)).length

def execVexpn (d a : Reg) (k : MReg) (t : ElemTy) (z : Bool) : State → Out :=
  vectorOp t.width (fun i j => elemAt t.width (i.getV a) (activeBelow (i.getM k) j)) d k z

def execVzip (d a b : Reg) (k : MReg) (t : ElemTy) (z : Bool) : State → Out :=
  vectorOp t.width (fun i j => elemAt t.width (i.getV (if j % 2 = 0 then a else b)) (j / 2)) d k z

def execVunzip (d a b : Reg) (k : MReg) (t : ElemTy) (z : Bool) : State → Out :=
  vectorOp t.width (fun i j =>
    let n := elemCount t.width
    if 2 * j < n then elemAt t.width (i.getV a) (2 * j) else elemAt t.width (i.getV b) (2 * j - n)) d k z

/-! ### Majors 0x23 and 0x24 (R70, R187, R188) -/

/-- One level of the tree of R70: adjacent elements combined, a node with one active child passing it on. -/
def treeLevel (op : Nat → Nat → Flagged) (l : List (Option Nat)) : List (Option Nat) × BitVec 5 :=
  match l with
  | a :: b :: t =>
    let (rest, fl) := treeLevel op t
    match a, b with
    | some x, some y => (some (op x y).1 :: rest, (op x y).2 ||| fl)
    | none, b => (b :: rest, fl)
    | a, none => (a :: rest, fl)
  | l => (l, 0)

/-- The levels of the tree: log2 of the element count. -/
def treeReduce (op : Nat → Nat → Flagged) (levels : Nat) (l : List (Option Nat)) (fl : BitVec 5) :
    Option Nat × BitVec 5 :=
  match levels with
  | 0 => (l.head?.join, fl)
  | n + 1 => let (l', f') := treeLevel op l; treeReduce op n l' (fl ||| f')

/-- The operation of a reduction or a scan on two elements of a type (R187). -/
inductive RedOp where
  | add | min | max | and | or | xor
  deriving DecidableEq, Repr, Inhabited

/-- An operation on two elements, with its flags (R187). -/
def RedOp.apply (o : RedOp) (t : ElemTy) (x y : Nat) : Flagged :=
  match o, t with
  | .add, .int _ => ((x + y) % 2 ^ t.width, 0)
  | .min, .int u => (if valueOf u y < valueOf u x then y else x, 0)
  | .max, .int u => (if valueOf u x < valueOf u y then y else x, 0)
  | .add, .flt f => floatAdd f.fmt .rne x y
  | .min, .flt f => floatMinMax f.fmt false x y
  | .max, .flt f => floatMinMax f.fmt true x y
  | .and, _ => (x &&& y, 0)
  | .or, _ => (x ||| y, 0)
  | .xor, _ => (x ^^^ y, 0)

/-- The identity of an operation (R187). -/
def RedOp.identity (o : RedOp) (t : ElemTy) : Nat :=
  match o, t with
  | .min, .int u => wrapOf u.width (intRange u.signed u.width).2
  | .max, .int u => wrapOf u.width (intRange u.signed u.width).1
  | .min, .flt f => f.fmt.infinity false
  | .max, .flt f => f.fmt.infinity true
  | .and, _ => 2 ^ t.width - 1
  | _, _ => 0

/-- Whether an element type is a signed integer type: its results extend the sign (R187, R190). -/
def ElemTy.extends : ElemTy → Bool
  | .int u => u.signed
  | .flt _ => false

/-- A reduction into a scalar register (R187). -/
def reduceInto (o : RedOp) (t : ElemTy) (d a : Reg) (k : MReg) : State → Out :=
  liftPure (fun i =>
    let e := t.width
    let l := (elems e (i.getV a)).zipIdx.map (fun x => if active (i.getM k) x.2 then some x.1 else none)
    let r := treeReduce (o.apply t) (if e = 64 then 5 else 6) l 0
    (i.setS d (extendTo64 (ElemTy.extends t) e (r.1.getD (o.identity t)))).raise r.2)

def execVredAdd (d a : Reg) (k : MReg) (t : ElemTy) : State → Out := reduceInto .add t d a k
def execVredMin (d a : Reg) (k : MReg) (t : ElemTy) : State → Out := reduceInto .min t d a k
def execVredMax (d a : Reg) (k : MReg) (t : ElemTy) : State → Out := reduceInto .max t d a k
def execVredAnd (d a : Reg) (k : MReg) (t : IntTy) : State → Out := reduceInto .and (.int t) d a k
def execVredOr (d a : Reg) (k : MReg) (t : IntTy) : State → Out := reduceInto .or (.int t) d a k
def execVredXor (d a : Reg) (k : MReg) (t : IntTy) : State → Out := reduceInto .xor (.int t) d a k

/-- The inclusive scan of R188: an active element takes the run, an inactive one leaves it. -/
def scanFrom (op : Nat → Nat → Flagged) (m : W64) (run : Option Nat) (l : List (Nat × Nat)) :
    List Nat × BitVec 5 :=
  match l with
  | [] => ([], 0)
  | (x, j) :: t =>
    if active m j then
      let (y, fl) :=
        match run with
        | none => (x, 0)
        | some r => op r x
      let (ys, fl') := scanFrom op m (some y) t
      (y :: ys, fl ||| fl')
    else
      let (ys, fl') := scanFrom op m run t
      (0 :: ys, fl')

/-- A scan into a vector register. -/
def scanInto (o : RedOp) (t : ElemTy) (d a : Reg) (k : MReg) (z : Bool) : State → Out :=
  liftPure (fun i =>
    let e := t.width
    let r := scanFrom (o.apply t) (i.getM k) none (elems e (i.getV a)).zipIdx
    (i.setV d (masked z (i.getM k) e (i.getV d) (fun j => r.1.getD j 0))).raise r.2)

def execVscanAdd (d a : Reg) (k : MReg) (t : ElemTy) (z : Bool) : State → Out := scanInto .add t d a k z
def execVscanMin (d a : Reg) (k : MReg) (t : ElemTy) (z : Bool) : State → Out := scanInto .min t d a k z
def execVscanMax (d a : Reg) (k : MReg) (t : ElemTy) (z : Bool) : State → Out := scanInto .max t d a k z
def execVscanXor (d a : Reg) (k : MReg) (t : IntTy) (z : Bool) : State → Out := scanInto .xor (.int t) d a k z

/-! ### Major 0x25 (R189) -/

/-- d := f(a, b) on mask registers. -/
def maskBinary (f : W64 → W64 → W64) (d a b : MReg) : State → Out :=
  liftPure (fun i => i.setM d (f (i.getM a) (i.getM b)))

def execMand (d a b : MReg) : State → Out := maskBinary (· &&& ·) d a b
def execMor (d a b : MReg) : State → Out := maskBinary (· ||| ·) d a b
def execMxor (d a b : MReg) : State → Out := maskBinary (· ^^^ ·) d a b
def execMandn (d a b : MReg) : State → Out := maskBinary (fun x y => x &&& ~~~y) d a b
def execMnot (d a : MReg) : State → Out := liftPure (fun i => i.setM d (~~~(i.getM a)))
def execMpopc (d : Reg) (a : MReg) : State → Out :=
  liftPure (fun i => i.setS d (BitVec.ofNat 64 (popCount 64 (i.getM a).toNat)))
def execMgets (d : Reg) (a : MReg) : State → Out := liftPure (fun i => i.setS d (i.getM a))
def execMsets (d : MReg) (a : Reg) : State → Out := liftPure (fun i => i.setM d (i.getS a))

/-! ### Major 0x26 (R190) -/

def execVmov (d a : Reg) (k : MReg) (t : ElemTy) (z : Bool) : State → Out :=
  vectorOp t.width (vectorSrc t.width a) d k z

def execVins (d a b : Reg) (t : ElemTy) : State → Out :=
  liftPure (fun i =>
    let at_ := (i.getS b).toNat % elemCount t.width
    i.setV d (ofLanes t.width ((lanes t.width (i.getV d)).set at_ (scalarSrc t.width a i 0))))

def execVext (d a b : Reg) (t : ElemTy) : State → Out :=
  liftPure (fun i =>
    i.setS d (extendTo64 (ElemTy.extends t) t.width
      (elemAt t.width (i.getV a) ((i.getS b).toNat % elemCount t.width))))

def execVmovLane (d : Reg) (k : MReg) (t : IntTy) (z : Bool) : State → Out :=
  vectorOp t.width (fun _ j => j) d k z

end Sys2Proof.Machine
end

