-- ==== Sys2Proof/Machine/Dispatch.lean ====
section
/-! DEFINITION. The dispatcher: one arm for each row of the opcode table. -/

namespace Sys2Proof.Machine

def exec (i : Instr) (s : State) : Host.Outcome State Fault Refusal :=
  match i with
  | .add d a b => Sys2Proof.Machine.execAdd d a b s
  | .sub d a b => Sys2Proof.Machine.execSub d a b s
  | .mul d a b => Sys2Proof.Machine.execMul d a b s
  | .mulhI64 d a b => Sys2Proof.Machine.execMulhI64 d a b s
  | .mulhN64 d a b => Sys2Proof.Machine.execMulhN64 d a b s
  | .divI64 d a b => Sys2Proof.Machine.execDivI64 d a b s
  | .divN64 d a b => Sys2Proof.Machine.execDivN64 d a b s
  | .remI64 d a b => Sys2Proof.Machine.execRemI64 d a b s
  | .remN64 d a b => Sys2Proof.Machine.execRemN64 d a b s
  | .and d a b => Sys2Proof.Machine.execAnd d a b s
  | .or d a b => Sys2Proof.Machine.execOr d a b s
  | .xor d a b => Sys2Proof.Machine.execXor d a b s
  | .andn d a b => Sys2Proof.Machine.execAndn d a b s
  | .shl d a b => Sys2Proof.Machine.execShl d a b s
  | .shr d a b => Sys2Proof.Machine.execShr d a b s
  | .sra d a b => Sys2Proof.Machine.execSra d a b s
  | .rol d a b => Sys2Proof.Machine.execRol d a b s
  | .ror d a b => Sys2Proof.Machine.execRor d a b s
  | .clz d a => Sys2Proof.Machine.execClz d a s
  | .ctz d a => Sys2Proof.Machine.execCtz d a s
  | .popc d a => Sys2Proof.Machine.execPopc d a s
  | .minI64 d a b => Sys2Proof.Machine.execMinI64 d a b s
  | .maxI64 d a b => Sys2Proof.Machine.execMaxI64 d a b s
  | .minN64 d a b => Sys2Proof.Machine.execMinN64 d a b s
  | .maxN64 d a b => Sys2Proof.Machine.execMaxN64 d a b s
  | .sel d a b c => Sys2Proof.Machine.execSel d a b c s
  | .clmul d a b => Sys2Proof.Machine.execClmul d a b s
  | .clmulh d a b => Sys2Proof.Machine.execClmulh d a b s
  | .bgat d a b => Sys2Proof.Machine.execBgat d a b s
  | .bsct d a b => Sys2Proof.Machine.execBsct d a b s
  | .madd d a b c => Sys2Proof.Machine.execMadd d a b c s
  | .msub d a b c => Sys2Proof.Machine.execMsub d a b c s
  | .sltI64 d a b => Sys2Proof.Machine.execSltI64 d a b s
  | .sltN64 d a b => Sys2Proof.Machine.execSltN64 d a b s
  | .seq d a b => Sys2Proof.Machine.execSeq d a b s
  | .sne d a b => Sys2Proof.Machine.execSne d a b s
  | .extdI8 d a => Sys2Proof.Machine.execExtdI8 d a s
  | .extdI16 d a => Sys2Proof.Machine.execExtdI16 d a s
  | .extdI32 d a => Sys2Proof.Machine.execExtdI32 d a s
  | .extdN8 d a => Sys2Proof.Machine.execExtdN8 d a s
  | .extdN16 d a => Sys2Proof.Machine.execExtdN16 d a s
  | .extdN32 d a => Sys2Proof.Machine.execExtdN32 d a s
  | .bswap d a => Sys2Proof.Machine.execBswap d a s
  | .addImm d a i_ => Sys2Proof.Machine.execAddImm d a i_ s
  | .andImm d a i_ => Sys2Proof.Machine.execAndImm d a i_ s
  | .orImm d a i_ => Sys2Proof.Machine.execOrImm d a i_ s
  | .xorImm d a i_ => Sys2Proof.Machine.execXorImm d a i_ s
  | .shlImm d a i_ => Sys2Proof.Machine.execShlImm d a i_ s
  | .shrImm d a i_ => Sys2Proof.Machine.execShrImm d a i_ s
  | .sraImm d a i_ => Sys2Proof.Machine.execSraImm d a i_ s
  | .rorImm d a i_ => Sys2Proof.Machine.execRorImm d a i_ s
  | .sltI64Imm d a i_ => Sys2Proof.Machine.execSltI64Imm d a i_ s
  | .sltN64Imm d a i_ => Sys2Proof.Machine.execSltN64Imm d a i_ s
  | .seqImm d a i_ => Sys2Proof.Machine.execSeqImm d a i_ s
  | .sneImm d a i_ => Sys2Proof.Machine.execSneImm d a i_ s
  | .mulImm d a i_ => Sys2Proof.Machine.execMulImm d a i_ s
  | .minI64Imm d a i_ => Sys2Proof.Machine.execMinI64Imm d a i_ s
  | .maxI64Imm d a i_ => Sys2Proof.Machine.execMaxI64Imm d a i_ s
  | .movi d i_ => Sys2Proof.Machine.execMovi d i_ s
  | .movh d i_ => Sys2Proof.Machine.execMovh d i_ s
  | .rds d x => Sys2Proof.Machine.execRds d x s
  | .fadd d a b r f => Sys2Proof.Machine.execFadd d a b r f s
  | .fsub d a b r f => Sys2Proof.Machine.execFsub d a b r f s
  | .fmul d a b r f => Sys2Proof.Machine.execFmul d a b r f s
  | .fdiv d a b r f => Sys2Proof.Machine.execFdiv d a b r f s
  | .fsqrt d a r f => Sys2Proof.Machine.execFsqrt d a r f s
  | .fma d a b r f => Sys2Proof.Machine.execFma d a b r f s
  | .fnma d a b r f => Sys2Proof.Machine.execFnma d a b r f s
  | .fmin d a b f => Sys2Proof.Machine.execFmin d a b f s
  | .fmax d a b f => Sys2Proof.Machine.execFmax d a b f s
  | .fceq d a b f => Sys2Proof.Machine.execFceq d a b f s
  | .fclt d a b f => Sys2Proof.Machine.execFclt d a b f s
  | .fcle d a b f => Sys2Proof.Machine.execFcle d a b f s
  | .fcvt d a x r f sat => Sys2Proof.Machine.execFcvt d a x r f sat s
  | .fcvti d a x r f sat => Sys2Proof.Machine.execFcvti d a x r f sat s
  | .icvtf d a x r f sat => Sys2Proof.Machine.execIcvtf d a x r f sat s
  | .fneg d a f => Sys2Proof.Machine.execFneg d a f s
  | .fabs d a f => Sys2Proof.Machine.execFabs d a f s
  | .fsgn d a b f => Sys2Proof.Machine.execFsgn d a b f s
  | .fcls d a f => Sys2Proof.Machine.execFcls d a f s
  | .beq a b o => Sys2Proof.Machine.execBeq a b o s
  | .bne a b o => Sys2Proof.Machine.execBne a b o s
  | .bltI64 a b o => Sys2Proof.Machine.execBltI64 a b o s
  | .bgeI64 a b o => Sys2Proof.Machine.execBgeI64 a b o s
  | .bltN64 a b o => Sys2Proof.Machine.execBltN64 a b o s
  | .bgeN64 a b o => Sys2Proof.Machine.execBgeN64 a b o s
  | .bbs a b o => Sys2Proof.Machine.execBbs a b o s
  | .bbc a b o => Sys2Proof.Machine.execBbc a b o s
  | .beqImm a b o => Sys2Proof.Machine.execBeqImm a b o s
  | .bneImm a b o => Sys2Proof.Machine.execBneImm a b o s
  | .bltI64Imm a b o => Sys2Proof.Machine.execBltI64Imm a b o s
  | .bgeI64Imm a b o => Sys2Proof.Machine.execBgeI64Imm a b o s
  | .bltN64Imm a b o => Sys2Proof.Machine.execBltN64Imm a b o s
  | .bgeN64Imm a b o => Sys2Proof.Machine.execBgeN64Imm a b o s
  | .bbsImm a b o => Sys2Proof.Machine.execBbsImm a b o s
  | .bbcImm a b o => Sys2Proof.Machine.execBbcImm a b o s
  | .j o => Sys2Proof.Machine.execJ o s
  | .jt a n => Sys2Proof.Machine.execJt a n s
  | .fin => Sys2Proof.Machine.execFin s
  | .fld d a i_ => Sys2Proof.Machine.execFld d a i_ s
  | .fst d a i_ => Sys2Proof.Machine.execFst d a i_ s
  | .fldv d a i_ => Sys2Proof.Machine.execFldv d a i_ s
  | .fstv d a i_ => Sys2Proof.Machine.execFstv d a i_ s
  | .fldFsw d => Sys2Proof.Machine.execFldFsw d s
  | .sld d a t i_ => Sys2Proof.Machine.execSld d a t i_ s
  | .sst d a t i_ => Sys2Proof.Machine.execSst d a t i_ s
  | .sldv d a b k t => Sys2Proof.Machine.execSldv d a b k t s
  | .sstv d a b k t => Sys2Proof.Machine.execSstv d a b k t s
  | .sldx d a b k t => Sys2Proof.Machine.execSldx d a b k t s
  | .sstx d a b k t => Sys2Proof.Machine.execSstx d a b k t s
  | .samoAdd d a b w => Sys2Proof.Machine.execSamoAdd d a b w s
  | .samoAnd d a b w => Sys2Proof.Machine.execSamoAnd d a b w s
  | .samoOr d a b w => Sys2Proof.Machine.execSamoOr d a b w s
  | .samoXor d a b w => Sys2Proof.Machine.execSamoXor d a b w s
  | .samoMin d a b w u => Sys2Proof.Machine.execSamoMin d a b w u s
  | .samoMax d a b w u => Sys2Proof.Machine.execSamoMax d a b w u s
  | .samoSwap d a b w => Sys2Proof.Machine.execSamoSwap d a b w s
  | .samoCas d a b c w => Sys2Proof.Machine.execSamoCas d a b c w s
  | .vadd d a b k t z => Sys2Proof.Machine.execVadd d a b k t z s
  | .vsub d a b k t z => Sys2Proof.Machine.execVsub d a b k t z s
  | .vmul d a b k t z => Sys2Proof.Machine.execVmul d a b k t z s
  | .vmulh d a b k t z => Sys2Proof.Machine.execVmulh d a b k t z s
  | .vmin d a b k t z => Sys2Proof.Machine.execVmin d a b k t z s
  | .vmax d a b k t z => Sys2Proof.Machine.execVmax d a b k t z s
  | .vadds d a b k t z => Sys2Proof.Machine.execVadds d a b k t z s
  | .vsubs d a b k t z => Sys2Proof.Machine.execVsubs d a b k t z s
  | .vaddScalar d a b k t z => Sys2Proof.Machine.execVaddScalar d a b k t z s
  | .vsubScalar d a b k t z => Sys2Proof.Machine.execVsubScalar d a b k t z s
  | .vmulScalar d a b k t z => Sys2Proof.Machine.execVmulScalar d a b k t z s
  | .vmulhScalar d a b k t z => Sys2Proof.Machine.execVmulhScalar d a b k t z s
  | .vminScalar d a b k t z => Sys2Proof.Machine.execVminScalar d a b k t z s
  | .vmaxScalar d a b k t z => Sys2Proof.Machine.execVmaxScalar d a b k t z s
  | .vaddsScalar d a b k t z => Sys2Proof.Machine.execVaddsScalar d a b k t z s
  | .vsubsScalar d a b k t z => Sys2Proof.Machine.execVsubsScalar d a b k t z s
  | .vand d a b k t z => Sys2Proof.Machine.execVand d a b k t z s
  | .vor d a b k t z => Sys2Proof.Machine.execVor d a b k t z s
  | .vxor d a b k t z => Sys2Proof.Machine.execVxor d a b k t z s
  | .vandn d a b k t z => Sys2Proof.Machine.execVandn d a b k t z s
  | .vshl d a b k t z => Sys2Proof.Machine.execVshl d a b k t z s
  | .vshr d a b k t z => Sys2Proof.Machine.execVshr d a b k t z s
  | .vsra d a b k t z => Sys2Proof.Machine.execVsra d a b k t z s
  | .vrol d a b k t z => Sys2Proof.Machine.execVrol d a b k t z s
  | .vabs d a k t z => Sys2Proof.Machine.execVabs d a k t z s
  | .vneg d a k t z => Sys2Proof.Machine.execVneg d a k t z s
  | .vclz d a k t z => Sys2Proof.Machine.execVclz d a k t z s
  | .vpopc d a k t z => Sys2Proof.Machine.execVpopc d a k t z s
  | .vmadd d a b c k t z => Sys2Proof.Machine.execVmadd d a b c k t z s
  | .vsel d a b k t => Sys2Proof.Machine.execVsel d a b k t s
  | .vclmul d a b t z => Sys2Proof.Machine.execVclmul d a b t z s
  | .vclmulh d a b t z => Sys2Proof.Machine.execVclmulh d a b t z s
  | .vfadd d a b k t r z => Sys2Proof.Machine.execVfadd d a b k t r z s
  | .vfsub d a b k t r z => Sys2Proof.Machine.execVfsub d a b k t r z s
  | .vfmul d a b k t r z => Sys2Proof.Machine.execVfmul d a b k t r z s
  | .vfdiv d a b k t r z => Sys2Proof.Machine.execVfdiv d a b k t r z s
  | .vfma d a b c k t r z => Sys2Proof.Machine.execVfma d a b c k t r z s
  | .vfnma d a b c k t r z => Sys2Proof.Machine.execVfnma d a b c k t r z s
  | .vfmin d a b k t z => Sys2Proof.Machine.execVfmin d a b k t z s
  | .vfmax d a b k t z => Sys2Proof.Machine.execVfmax d a b k t z s
  | .vfaddScalar d a b k t r z => Sys2Proof.Machine.execVfaddScalar d a b k t r z s
  | .vfsubScalar d a b k t r z => Sys2Proof.Machine.execVfsubScalar d a b k t r z s
  | .vfmulScalar d a b k t r z => Sys2Proof.Machine.execVfmulScalar d a b k t r z s
  | .vfdivScalar d a b k t r z => Sys2Proof.Machine.execVfdivScalar d a b k t r z s
  | .vfmaScalar d a b c k t r z => Sys2Proof.Machine.execVfmaScalar d a b c k t r z s
  | .vfnmaScalar d a b c k t r z => Sys2Proof.Machine.execVfnmaScalar d a b c k t r z s
  | .vfminScalar d a b k t z => Sys2Proof.Machine.execVfminScalar d a b k t z s
  | .vfmaxScalar d a b k t z => Sys2Proof.Machine.execVfmaxScalar d a b k t z s
  | .vfsqrt d a k t r z => Sys2Proof.Machine.execVfsqrt d a k t r z s
  | .vfabs d a k t z => Sys2Proof.Machine.execVfabs d a k t z s
  | .vfneg d a k t z => Sys2Proof.Machine.execVfneg d a k t z s
  | .vfsgn d a b k t z => Sys2Proof.Machine.execVfsgn d a b k t z s
  | .vfrnd d a k t r z => Sys2Proof.Machine.execVfrnd d a k t r z s
  | .vfcls d a k t z => Sys2Proof.Machine.execVfcls d a k t z s
  | .vcvt d a x k t r sat z => Sys2Proof.Machine.execVcvt d a x k t r sat z s
  | .vcvtn d a x k t r sat z => Sys2Proof.Machine.execVcvtn d a x k t r sat z s
  | .vcvtw d a x k t z => Sys2Proof.Machine.execVcvtw d a x k t z s
  | .vqmx d a x t r sat => Sys2Proof.Machine.execVqmx d a x t r sat s
  | .vqq4 d a c t => Sys2Proof.Machine.execVqq4 d a c t s
  | .vdqmx d a x t r sat => Sys2Proof.Machine.execVdqmx d a x t r sat s
  | .vdqq4 d a c t r sat => Sys2Proof.Machine.execVdqq4 d a c t r sat s
  | .vceq d a b k t z => Sys2Proof.Machine.execVceq d a b k t z s
  | .vcne d a b k t z => Sys2Proof.Machine.execVcne d a b k t z s
  | .vclt d a b k t z => Sys2Proof.Machine.execVclt d a b k t z s
  | .vcle d a b k t z => Sys2Proof.Machine.execVcle d a b k t z s
  | .vcgt d a b k t z => Sys2Proof.Machine.execVcgt d a b k t z s
  | .vcge d a b k t z => Sys2Proof.Machine.execVcge d a b k t z s
  | .vceqScalar d a b k t z => Sys2Proof.Machine.execVceqScalar d a b k t z s
  | .vcneScalar d a b k t z => Sys2Proof.Machine.execVcneScalar d a b k t z s
  | .vcltScalar d a b k t z => Sys2Proof.Machine.execVcltScalar d a b k t z s
  | .vcleScalar d a b k t z => Sys2Proof.Machine.execVcleScalar d a b k t z s
  | .vcgtScalar d a b k t z => Sys2Proof.Machine.execVcgtScalar d a b k t z s
  | .vcgeScalar d a b k t z => Sys2Proof.Machine.execVcgeScalar d a b k t z s
  | .vperm d a b k t z => Sys2Proof.Machine.execVperm d a b k t z s
  | .vbcst d b k t z => Sys2Proof.Machine.execVbcst d b k t z s
  | .vslup d a b k t z => Sys2Proof.Machine.execVslup d a b k t z s
  | .vsldn d a b k t z => Sys2Proof.Machine.execVsldn d a b k t z s
  | .vcompr d a k t => Sys2Proof.Machine.execVcompr d a k t s
  | .vexpn d a k t z => Sys2Proof.Machine.execVexpn d a k t z s
  | .vzip d a b k t z => Sys2Proof.Machine.execVzip d a b k t z s
  | .vunzip d a b k t z => Sys2Proof.Machine.execVunzip d a b k t z s
  | .vredAdd d a k t => Sys2Proof.Machine.execVredAdd d a k t s
  | .vredMin d a k t => Sys2Proof.Machine.execVredMin d a k t s
  | .vredMax d a k t => Sys2Proof.Machine.execVredMax d a k t s
  | .vredAnd d a k t => Sys2Proof.Machine.execVredAnd d a k t s
  | .vredOr d a k t => Sys2Proof.Machine.execVredOr d a k t s
  | .vredXor d a k t => Sys2Proof.Machine.execVredXor d a k t s
  | .vscanAdd d a k t z => Sys2Proof.Machine.execVscanAdd d a k t z s
  | .vscanMin d a k t z => Sys2Proof.Machine.execVscanMin d a k t z s
  | .vscanMax d a k t z => Sys2Proof.Machine.execVscanMax d a k t z s
  | .vscanXor d a k t z => Sys2Proof.Machine.execVscanXor d a k t z s
  | .mand d a b => Sys2Proof.Machine.execMand d a b s
  | .mor d a b => Sys2Proof.Machine.execMor d a b s
  | .mxor d a b => Sys2Proof.Machine.execMxor d a b s
  | .mandn d a b => Sys2Proof.Machine.execMandn d a b s
  | .mnot d a => Sys2Proof.Machine.execMnot d a s
  | .mpopc d a => Sys2Proof.Machine.execMpopc d a s
  | .mgets d a => Sys2Proof.Machine.execMgets d a s
  | .msets d a => Sys2Proof.Machine.execMsets d a s
  | .vmov d a k t z => Sys2Proof.Machine.execVmov d a k t z s
  | .vins d a b t => Sys2Proof.Machine.execVins d a b t s
  | .vext d a b t => Sys2Proof.Machine.execVext d a b t s
  | .vmovLane d k t z => Sys2Proof.Machine.execVmovLane d k t z s
  | .mzero acc slot => Sys2Proof.Machine.execMzero acc slot s
  | .mma acc a b slot => Sys2Proof.Machine.execMma acc a b slot s
  | .mmaSp acc a b slot => Sys2Proof.Machine.execMmaSp acc a b slot s
  | .mld acc a slot => Sys2Proof.Machine.execMld acc a slot s
  | .mst acc a slot => Sys2Proof.Machine.execMst acc a slot s
  | .mrd acc a slot r sat => Sys2Proof.Machine.execMrd acc a slot r sat s
  | .mrdx acc a b slot n r sat => Sys2Proof.Machine.execMrdx acc a b slot n r sat s
  | .xop n d a b c x k z => Sys2Proof.Machine.execXop n d a b c x k z s
  | .xld slot a => Sys2Proof.Machine.execXld slot a s
  | .xunl slot a => Sys2Proof.Machine.execXunl slot a s
  | .xq d a => Sys2Proof.Machine.execXq d a s
  | .send a b slot idx rels => Sys2Proof.Machine.execSend a b slot idx rels s
  | .sendv a b slot idx rels => Sys2Proof.Machine.execSendv a b slot idx rels s
  | .sig a slot rels => Sys2Proof.Machine.execSig a slot rels s
  | .sw p a b slot rels => Sys2Proof.Machine.execSw p a b slot rels s
  | .rearm slot a b => Sys2Proof.Machine.execRearm slot a b s
  | .fret => Sys2Proof.Machine.execFret s
  | .tagwin a b c => Sys2Proof.Machine.execTagwin a b c s
  | .mkref d a cb => Sys2Proof.Machine.execMkref d a cb s
  | .ld idx a b slot t => Sys2Proof.Machine.execLd idx a b slot t s
  | .ldLc idx a b slot t => Sys2Proof.Machine.execLdLc idx a b slot t s
  | .st d a b slot e => Sys2Proof.Machine.execSt d a b slot e s
  | .vld v a b slot k e z => Sys2Proof.Machine.execVld v a b slot k e z s
  | .vldStr v a b slot k e z => Sys2Proof.Machine.execVldStr v a b slot k e z s
  | .vldIdx v a b slot k e z => Sys2Proof.Machine.execVldIdx v a b slot k e z s
  | .vst d a b slot k e => Sys2Proof.Machine.execVst d a b slot k e s
  | .vstStr d a b slot k e => Sys2Proof.Machine.execVstStr d a b slot k e s
  | .pf a b => Sys2Proof.Machine.execPf a b s
  | .pfLc a b => Sys2Proof.Machine.execPfLc a b s
  | .gamoAdd idx a b slot w ord sc => Sys2Proof.Machine.execGamoAdd idx a b slot w ord sc s
  | .gamoAnd idx a b slot w ord sc => Sys2Proof.Machine.execGamoAnd idx a b slot w ord sc s
  | .gamoOr idx a b slot w ord sc => Sys2Proof.Machine.execGamoOr idx a b slot w ord sc s
  | .gamoXor idx a b slot w ord sc => Sys2Proof.Machine.execGamoXor idx a b slot w ord sc s
  | .gamoMinSigned idx a b slot w ord sc => Sys2Proof.Machine.execGamoMinSigned idx a b slot w ord sc s
  | .gamoMaxSigned idx a b slot w ord sc => Sys2Proof.Machine.execGamoMaxSigned idx a b slot w ord sc s
  | .gamoMinUnsigned idx a b slot w ord sc => Sys2Proof.Machine.execGamoMinUnsigned idx a b slot w ord sc s
  | .gamoMaxUnsigned idx a b slot w ord sc => Sys2Proof.Machine.execGamoMaxUnsigned idx a b slot w ord sc s
  | .gamoSwap idx a b slot w ord sc => Sys2Proof.Machine.execGamoSwap idx a b slot w ord sc s
  | .gamoCas idx a b c slot w ord sc => Sys2Proof.Machine.execGamoCas idx a b c slot w ord sc s
  | .gamoFadd idx a b slot w ord sc => Sys2Proof.Machine.execGamoFadd idx a b slot w ord sc s
  | .fence sc => Sys2Proof.Machine.execFence sc s
  | .cpy a b c slot sc => Sys2Proof.Machine.execCpy a b c slot sc s
  | .gth a b c slot sc => Sys2Proof.Machine.execGth a b c slot sc s
  | .sct a b c slot sc => Sys2Proof.Machine.execSct a b c slot sc s
  | .isect a b c slot sc => Sys2Proof.Machine.execIsect a b c slot sc s
  | .smerge a b c slot sc => Sys2Proof.Machine.execSmerge a b c slot sc s
  | .cmpct a b c slot sc => Sys2Proof.Machine.execCmpct a b c slot sc s
  | .rply => Sys2Proof.Machine.execRply s
  | .rsup a => Sys2Proof.Machine.execRsup a s
  | .kill => Sys2Proof.Machine.execKill s
  | .killL a => Sys2Proof.Machine.execKillL a s
  | .frr d => Sys2Proof.Machine.execFrr d s
  | .tlbi slot a b => Sys2Proof.Machine.execTlbi slot a b s
  | .tlbia slot a => Sys2Proof.Machine.execTlbia slot a s
  | .ctxsv slot a => Sys2Proof.Machine.execCtxsv slot a s
  | .ctxrs slot a b => Sys2Proof.Machine.execCtxrs slot a b s
  | .halt slot a => Sys2Proof.Machine.execHalt slot a s
  | .rdsr d num => Sys2Proof.Machine.execRdsr d num s
  | .wrsr num d => Sys2Proof.Machine.execWrsr num d s
  | .commit site runner => Sys2Proof.Machine.execCommit site runner s
  | .tokenRetry tok => Sys2Proof.Machine.execTokenRetry tok s
  | .tokenAccept tok => Sys2Proof.Machine.execTokenAccept tok s
  | .tokenApply tok => Sys2Proof.Machine.execTokenApply tok s
  | .descriptorLoad site ctx cb => Sys2Proof.Machine.execDescriptorLoad site ctx cb s
  | .parkReexamine site ctx cb => Sys2Proof.Machine.execParkReexamine site ctx cb s
  | .parkOverflowReadback site ctx => Sys2Proof.Machine.execParkOverflowReadback site ctx s
  | .waitingSignalServe tok => Sys2Proof.Machine.execWaitingSignalServe tok s
  | .frameFill site ctx cb tag => Sys2Proof.Machine.execFrameFill site ctx cb tag s
  | .readyChoose site runner => Sys2Proof.Machine.execReadyChoose site runner s
  | .readyOverflowReturn site => Sys2Proof.Machine.execReadyOverflowReturn site s
  | .faultTokenDelivery tok => Sys2Proof.Machine.execFaultTokenDelivery tok s
  | .faultActionDelivery act => Sys2Proof.Machine.execFaultActionDelivery act s
  | .completionSignal op => Sys2Proof.Machine.execCompletionSignal op s
  | .loadPerform op part => Sys2Proof.Machine.execLoadPerform op part s
  | .storePerform op part => Sys2Proof.Machine.execStorePerform op part s
  | .atomicPerform op part => Sys2Proof.Machine.execAtomicPerform op part s
  | .prefetchPerform op part => Sys2Proof.Machine.execPrefetchPerform op part s
  | .pageWalk op part => Sys2Proof.Machine.execPageWalk op part s
  | .localCacheFill op part => Sys2Proof.Machine.execLocalCacheFill op part s
  | .icacheFill site runner => Sys2Proof.Machine.execIcacheFill site runner s
  | .muPerform site => Sys2Proof.Machine.execMuPerform site s
  | .muCompletion site => Sys2Proof.Machine.execMuCompletion site s
  | .carouselEntry site => Sys2Proof.Machine.execCarouselEntry site s
  | .carouselResult site => Sys2Proof.Machine.execCarouselResult site s
  | .xldProcess op => Sys2Proof.Machine.execXldProcess op s
  | .xldWaitRetry op => Sys2Proof.Machine.execXldWaitRetry op s
  | .graphLoadComplete site gslot storeError => Sys2Proof.Machine.execGraphLoadComplete site gslot storeError s
  | .xunlComplete op => Sys2Proof.Machine.execXunlComplete op s
  | .configErrorReload site gslot again => Sys2Proof.Machine.execConfigErrorReload site gslot again s
  | .engineCommandStart op => Sys2Proof.Machine.execEngineCommandStart op s
  | .engineFaultStop op => Sys2Proof.Machine.execEngineFaultStop op s
  | .engineCommandComplete op => Sys2Proof.Machine.execEngineCommandComplete op s
  | .tagwinRequest site runner => Sys2Proof.Machine.execTagwinRequest site runner s
  | .tagwinInstall site ctx => Sys2Proof.Machine.execTagwinInstall site ctx s
  | .launchInject die ctx lid => Sys2Proof.Machine.execLaunchInject die ctx lid s
  | .launchWave ctx lid => Sys2Proof.Machine.execLaunchWave ctx lid s
  | .launchWatchdog ctx lid => Sys2Proof.Machine.execLaunchWatchdog ctx lid s
  | .launchKillMark site ctx lid => Sys2Proof.Machine.execLaunchKillMark site ctx lid s
  | .timerExpiry timer => Sys2Proof.Machine.execTimerExpiry timer s
  | .timeWordStore => Sys2Proof.Machine.execTimeWordStore s
  | .registerWrite bar fn off wide value => Sys2Proof.Machine.execRegisterWrite bar fn off wide value s
  | .queueEnable fn q value => Sys2Proof.Machine.execQueueEnable fn q value s
  | .queueDisable fn q value => Sys2Proof.Machine.execQueueDisable fn q value s
  | .queueKick fn q pidx => Sys2Proof.Machine.execQueueKick fn q pidx s
  | .f1bindWrite q value => Sys2Proof.Machine.execF1bindWrite q value s
  | .apertureRead fn off len => Sys2Proof.Machine.execApertureRead fn off len s
  | .apertureWrite fn off len data poison => Sys2Proof.Machine.execApertureWrite fn off len data poison s
  | .packetFetch fn q agree readError => Sys2Proof.Machine.execPacketFetch fn q agree readError s
  | .packetReread fn q agree readError => Sys2Proof.Machine.execPacketReread fn q agree readError s
  | .packetStart fn q => Sys2Proof.Machine.execPacketStart fn q s
  | .launchPacket fn q i_ => Sys2Proof.Machine.execLaunchPacket fn q i_ s
  | .loadGraphPacket fn q i_ => Sys2Proof.Machine.execLoadGraphPacket fn q i_ s
  | .memoryCopy fn q i_ => Sys2Proof.Machine.execMemoryCopy fn q i_ s
  | .memoryFill fn q i_ => Sys2Proof.Machine.execMemoryFill fn q i_ s
  | .fencePacket fn q i_ => Sys2Proof.Machine.execFencePacket fn q i_ s
  | .fencePoll fn q i_ => Sys2Proof.Machine.execFencePoll fn q i_ s
  | .freezePacket fn q i_ => Sys2Proof.Machine.execFreezePacket fn q i_ s
  | .resumePacket fn q i_ => Sys2Proof.Machine.execResumePacket fn q i_ s
  | .completionRecord fn q i_ => Sys2Proof.Machine.execCompletionRecord fn q i_ s
  | .quantumExpiry part => Sys2Proof.Machine.execQuantumExpiry part s
  | .doorbell value => Sys2Proof.Machine.execDoorbell value s
  | .pools => Sys2Proof.Machine.execPools s
  | .setPriority => Sys2Proof.Machine.execSetPriority s
  | .setQuantum => Sys2Proof.Machine.execSetQuantum s
  | .setWatermark => Sys2Proof.Machine.execSetWatermark s
  | .attest => Sys2Proof.Machine.execAttest s
  | .flashWrite => Sys2Proof.Machine.execFlashWrite s
  | .orphans => Sys2Proof.Machine.execOrphans s
  | .plimWrite value => Sys2Proof.Machine.execPlimWrite value s
  | .drainMarker ctx => Sys2Proof.Machine.execDrainMarker ctx s
  | .contextImageSave ctx => Sys2Proof.Machine.execContextImageSave ctx s
  | .contextRestore ctx => Sys2Proof.Machine.execContextRestore ctx s
  | .restoreResume ctx => Sys2Proof.Machine.execRestoreResume ctx s
  | .haltComplete op => Sys2Proof.Machine.execHaltComplete op s
  | .tlbInvalidateComplete op => Sys2Proof.Machine.execTlbInvalidateComplete op s
  | .pageEviction ctx host => Sys2Proof.Machine.execPageEviction ctx host s
  | .hardwareError e => Sys2Proof.Machine.execHardwareError e s
  | .droopDetect die => Sys2Proof.Machine.execDroopDetect die s
  | .droopRecovery die => Sys2Proof.Machine.execDroopRecovery die s
  | .powerLimitStep die up => Sys2Proof.Machine.execPowerLimitStep die up s
  | .degradedExit => Sys2Proof.Machine.execDegradedExit s
  | .packageReset => Sys2Proof.Machine.execPackageReset s
  | .vlpTokenReceive port ctx cb tag epoch slot kind idx rels psn payload => Sys2Proof.Machine.execVlpTokenReceive port ctx cb tag epoch slot kind idx rels psn payload s
  | .vlpAcknowledge tok => Sys2Proof.Machine.execVlpAcknowledge tok s
  | .torusProtocolError site kind => Sys2Proof.Machine.execTorusProtocolError site kind s
  | .illegalInstruction w0 w1 => Sys2Proof.Machine.execIllegalInstruction w0 w1 s
  | .engineElement op act => Sys2Proof.Machine.execEngineElement op act s
  | .pcieCompletionTimeout op part => Sys2Proof.Machine.execPcieCompletionTimeout op part s

end Sys2Proof.Machine
end

