-- ==== Sys2Proof/Machine/Issue.lean ====
section
/-! DEFINITION. The issue of one instruction by a runner (R40, R110 to R112, R128, R165, R342, R371), and one move of the
machine. -/

namespace Sys2Proof.Machine

/-! ### Decoded words -/

/-- The meaning of an instruction of the majors from 0x4C on. -/
def Tail.exec (t : Tail) (s : State) : Out :=
  match t with
  | .vst d a b slot k e => execVst d a b slot k e s
  | .vstStr d a b slot k e => execVstStr d a b slot k e s
  | .pf a b => execPf a b s
  | .pfLc a b => execPfLc a b s
  | .gamoAdd idx a b slot w ord sc => execGamoAdd idx a b slot w ord sc s
  | .gamoAnd idx a b slot w ord sc => execGamoAnd idx a b slot w ord sc s
  | .gamoOr idx a b slot w ord sc => execGamoOr idx a b slot w ord sc s
  | .gamoXor idx a b slot w ord sc => execGamoXor idx a b slot w ord sc s
  | .gamoMinSigned idx a b slot w ord sc => execGamoMinSigned idx a b slot w ord sc s
  | .gamoMaxSigned idx a b slot w ord sc => execGamoMaxSigned idx a b slot w ord sc s
  | .gamoMinUnsigned idx a b slot w ord sc => execGamoMinUnsigned idx a b slot w ord sc s
  | .gamoMaxUnsigned idx a b slot w ord sc => execGamoMaxUnsigned idx a b slot w ord sc s
  | .gamoSwap idx a b slot w ord sc => execGamoSwap idx a b slot w ord sc s
  | .gamoCas idx a b c slot w ord sc => execGamoCas idx a b c slot w ord sc s
  | .gamoFadd idx a b slot w ord sc => execGamoFadd idx a b slot w ord sc s
  | .fence sc => execFence sc s
  | .cpy a b c slot sc => execCpy a b c slot sc s
  | .gth a b c slot sc => execGth a b c slot sc s
  | .sct a b c slot sc => execSct a b c slot sc s
  | .isect a b c slot sc => execIsect a b c slot sc s
  | .smerge a b c slot sc => execSmerge a b c slot sc s
  | .cmpct a b c slot sc => execCmpct a b c slot sc s
  | .rply => execRply s
  | .rsup a => execRsup a s
  | .kill => execKill s
  | .killL a => execKillL a s
  | .frr d => execFrr d s
  | .tlbi slot a b => execTlbi slot a b s
  | .tlbia slot a => execTlbia slot a s
  | .ctxsv slot a => execCtxsv slot a s
  | .ctxrs slot a b => execCtxrs slot a b s
  | .halt slot a => execHalt slot a s
  | .rdsr d num => execRdsr d num s
  | .wrsr num d => execWrsr num d s

/-- Such a meaning is the dispatcher's. -/
theorem Tail.exec_toInstr (t : Tail) (s : State) : Sys2Proof.Machine.exec t.toInstr s = Tail.exec t s := by
  cases t <;> rfl

/-- The scalar destination of an instruction of these majors (R371). -/
def Tail.dest (t : Tail) : Option Reg :=
  match t with
  | .rdsr d _ => some d
  | _ => none

/-- It is that of the instruction. -/
theorem Tail.dest_toInstr (t : Tail) : scalarDestination t.toInstr = Tail.dest t := by
  cases t <;> rfl

/-- The instruction of two words, before those of the majors from 0x4C on become instructions. -/
def decodeBoth (w0 w1 : Word) : Option (Instr ⊕ Tail) :=
  let base (long : Bool) (p : Pfx) (w : Word) : Option (Instr ⊕ Tail) :=
    if majorOf w < 0x4C then
      match decodeHead long p w with
      | some i => if i.wf then some (.inl i) else none
      | none => none
    else (decodeTail long p w).map .inr
  if isPrefix w0 then
    if isPrefix w1 then none else base true (Pfx.ofWord w0) w1
  else base false Pfx.zero w0

/-- The decoder in terms of it. -/
theorem decodeWords_eq_map (w0 w1 : Word) : decodeWords w0 w1 = (decodeBoth w0 w1).map (Sum.elim id Tail.toInstr) := by
  have h (long : Bool) (p : Pfx) (w : Word) : decodeLimited long p w =
      (if majorOf w < 0x4C then
        match decodeHead long p w with
        | some i => if i.wf then some (Sum.inl i) else none
        | none => none
      else (decodeTail long p w).map Sum.inr : Option (Instr ⊕ Tail)).map (Sum.elim id Tail.toInstr) := by
    unfold decodeLimited
    split
    · cases decodeHead long p w with
      | none => rfl
      | some i => dsimp only; split <;> rfl
    · cases decodeTail long p w <;> rfl
  unfold decodeWords decodeBoth
  split
  · split
    · rfl
    · exact h _ _ _
  · exact h _ _ _

/-! ### The issue of an instruction -/

/-- Whether the Ringmaster executes an opcode (R342). Log 31 (DEDUCED). -/
def ringRuns (op : Nat × Nat × Bool) : Bool :=
  let maj := op.1
  let min := op.2.1
  decide (1 ≤ maj ∧ maj ≤ 7) || decide (9 ≤ maj ∧ maj ≤ 0xD) || (maj == 0x10 && [0, 1, 4].contains min)
    || [0x40, 0x42, 0x43, 0x45, 0x48, 0x49, 0x4A, 0x4E, 0x50, 0x61].contains maj
    || (maj == 0x44 && decide (min ≤ 1)) || (maj == 0x60 && (min == 3 || decide (5 ≤ min ∧ min ≤ 9)))

/-- What an instance does at its next instruction: it takes the substitution of a handler (R371), it takes
ILLEGAL_INSTRUCTION, or it executes the instruction. `decoded` is what the words decode to. Log 30 (DEDUCED). -/
def runWith {D : Type} (decoded : Option D) (dest : D → Option Reg) (run : D → State → Out) (c : Cur) (i : Inst) (s : State) :
    Out :=
  let op := opcodeOf c.w0 (c.w1.getD 0)
  let go (s : State) : Out :=
    match decoded with
    | none => execIllegalInstruction c.w0 c.w1 s
    | some d => if i.site = ringmaster ∧ !ringRuns op then execIllegalInstruction c.w0 c.w1 s else run d s
  match i.subst with
  | none => go s
  | some (didx, sop, v) =>
    if didx != i.dyn then go s
    else
      let i1 : Inst := { i with subst := none }
      if sop = op then
        let i2 := i1.past c
        .next (s.putInst (match decoded.bind dest with
          | some d => i2.setS d v
          | none => i2))
      else go (s.putInst i1)

/-- A decoder that goes through another type runs alike. -/
theorem runWith_map {D E : Type} (x : Option D) (f : D → E) (dest : E → Option Reg) (run : E → State → Out) (c : Cur) (i : Inst)
    (s : State) : runWith (x.map f) dest run c i s = runWith x (fun d => dest (f d)) (fun d => run (f d)) c i s := by
  cases x <;> rfl

/-- A decoded instruction run by the dispatcher. -/
noncomputable def runWords (c : Cur) (i : Inst) (s : State) : Out :=
  runWith (decodeWords c.w0 (c.w1.getD 0)) scalarDestination Sys2Proof.Machine.exec c i s

/-- The same in the form that compiles. -/
def runWordsCode (c : Cur) (i : Inst) (s : State) : Out :=
  runWith (decodeBoth c.w0 (c.w1.getD 0)) (Sum.elim scalarDestination Tail.dest)
    (Sum.elim Sys2Proof.Machine.exec Tail.exec) c i s

@[csimp] theorem runWords_eq_runWordsCode : @runWords = @runWordsCode := by
  funext c i s
  unfold runWords runWordsCode
  rw [decodeWords_eq_map, runWith_map]
  congr 1
  · funext d
    cases d with
    | inl i => rfl
    | inr t => exact Tail.dest_toInstr t
  · funext d
    cases d with
    | inl i => rfl
    | inr t => funext s; exact Tail.exec_toInstr t s

/-- The words of an instance's next instruction, when its cell's instruction cache holds them (R110, R111). -/
def State.fetched (s : State) (i : Inst) : Option (Word × Option Word) :=
  match s.cachedWord i.site i.key.ctx i.pc with
  | none => none
  | some w0 =>
    if isPrefix w0 then (s.cachedWord i.site i.key.ctx (i.pc + 4)).map (fun w1 => (w0, some w1)) else some (w0, none)

/-- An instance that failed its validation started again at its entry point (R165). -/
def State.restart (s : State) (i : Inst) : State :=
  { s with nextId := s.nextId + 1 }.putInst
    { newInst (s.frameOf i) i.runner i.thr i.cls s.nextId i.subst with fails := i.fails }

/-- Whether a retry waits: its context is being stopped (R389), or its run would be exclusive while another instance of the
cell holds a reservation or is in an exclusive run (R167). Log 32 (DESIGN CHOICE). -/
def State.retryWaits (s : State) (i : Inst) : Bool :=
  s.drained i.key.ctx || (decide (8 ≤ i.fails) &&
    (s.exclusiveRun i || s.insts.any (fun j => j.site == i.site && j.runner != i.runner && j.reserved)))

/-- A runner at its next instruction. A halted Ringmaster issues nothing (R343); an instance of a Spilled frame waits for
the fill (R33); a word that the instruction cache lacks is filled first (R110); the 257th instruction faults (R40).
Log 29 (DEDUCED). -/
def State.issue (s : State) (site runner : Nat) : Out :=
  match s.instAt site runner with
  | none => .next s
  | some i =>
    if site = ringmaster ∧ s.hw.rmHalted then .next s
    else
    match i.phase with
    | .retrying => if s.retryWaits i then .next s else .next (s.restart i)
    | .running =>
      if (s.frameOf i).life = .spilled then .next s
      else
        match s.fetched i with
        | none => execIcacheFill site runner s
        | some (w0, w1) =>
          let c : Cur := ⟨site, runner, i.pc, w0, w1⟩
          if 256 ≤ i.dyn then .next (s.takeFault i (c.at_ i) { cause := .threadletLength })
          else runWords c i { s with cur := some c }
    | _ => .next s

/-! ### Moves -/

/-- Whether a constructor names a step of the device that no instruction word names. Log 10 (DESIGN CHOICE). -/
def Instr.isDevice (i : Instr) : Bool :=
  (encode i).isEmpty &&
    match i with
    | .illegalInstruction _ _ => false
    | _ => true

/-- A site's counter after some of its clocks. It wraps modulo 2^64, but not between two reads of a threadlet, which
return values that do not decrease: while an instance runs on the site the counter stops at its largest value (R14).
Log 12 (DESIGN CHOICE). -/
def State.laterClock (s : State) (site n : Nat) : W64 :=
  let c := (keyed s.cyc site).getD 0
  if 2 ^ 64 ≤ c.toNat + n ∧ s.insts.any (fun i => i.site == site) then BitVec.allOnes 64 else c + BitVec.ofNat 64 n

/-- The clock of a site moved on, by fewer than 2^40 of its clocks (R14). Log 8 (DESIGN CHOICE), 12 (DESIGN CHOICE). -/
def State.clockSite (s : State) (site : Nat) : State :=
  { s with cyc := putKeyed s.cyc site (s.laterClock site (Config.clocks s.tick % 2 ^ 40)) }

/-- One move of the machine: an instruction of a runner, or a step of the device. Log 10 (DESIGN CHOICE). -/
def advance (m : Move) (s : State) : Out :=
  match m with
  | .issue site runner => (s.clockSite site).issue site runner
  | .device i => if Instr.isDevice i then Sys2Proof.Machine.exec i { s with cur := none } else .next s

/-! ### Time (R348, R349) -/

/-- The tick at which an armed timer expires at the earliest: RTIME counts in steps of 10 from 0 (R348, R349).
Log 12 (DESIGN CHOICE). -/
def Timer.dueAt (t : Timer) : Nat := max (t.armedAt / 10 * 10 + 10) ((t.tdl.toNat + 9) / 10 * 10)

/-- The first timer that expires at the present tick. Log 12 (DESIGN CHOICE). -/
def State.dueTimer (s : State) : Option Nat := (s.sys.timers.find? (fun e => e.2.due s.sys.rtime)).map (·.1)

/-- What the Ringmaster does at a tick of RTIME: a timer expires, or the time word is stored (R349, R350). -/
inductive Due where
  | timer (n : Nat)
  | timeWord
  deriving DecidableEq, Repr

/-- What is due at the present tick: the first timer that expires, or else the time word (R349, R350).
Log 8 (DESIGN CHOICE), 12 (DESIGN CHOICE). -/
def State.due (s : State) : Option Due :=
  match s.dueTimer with
  | some n => some (.timer n)
  | none => if s.sys.timeDue then some .timeWord else none

/-- What is due takes place. -/
def Due.run (d : Due) (s : State) : Out :=
  match d with
  | .timer n => execTimerExpiry n s
  | .timeWord => execTimeWordStore s

/-- The tick at which the next time word is stored (R350). Log 62 (DESIGN CHOICE). -/
def SysRegs.nextTimeWord (r : SysRegs) : Nat := (r.lastTimeWord + 1024) / 10 * 10

/-- RTIME after a number of ticks: it stops where an armed timer expires and where the time word is stored (R348 to R350).
Log 12 (DESIGN CHOICE). -/
def State.laterTime (s : State) (n : Nat) : Nat :=
  let t := s.sys.rtime + 10 * n
  let t := if wbit s.sys.timeaddr 0 then min t (max s.sys.rtime s.sys.nextTimeWord) else t
  (s.sys.timers.filter (fun e => e.2.armed)).foldl (fun t e => min t (max s.sys.rtime e.2.dueAt)) t

/-- The time of one step. Log 8 (DESIGN CHOICE). -/
def State.elapse (s : State) : State :=
  { s with tick := s.tick + 1, sys := { s.sys with rtime := s.laterTime (Config.oscillatorTicks s.tick) } }

/-- The next move: the first of the agenda, or when it is empty whichever comes next of all that the hardware leaves
unordered. Log 10 (DESIGN CHOICE). -/
def State.nextMove (s : State) : Move × State :=
  match s.agenda with
  | m :: rest => (m, { s with agenda := rest })
  | [] => (Config.nextMove s.tick, s)

end Sys2Proof.Machine
end

