-- ==== Sys2Proof/Machine/Step.lean ====
section
/-! DEFINITION. One step of the machine, and a machine that fetches a given instruction next. -/

namespace Sys2Proof.Machine

/-- One step. A timer or a time word that is due comes before anything else at its tick; otherwise time passes, and when
nothing has become due the next move is made. Log 8 (DESIGN CHOICE). -/
def step (s : State) : Host.Outcome State Fault Refusal :=
  match s.due with
  | some d => d.run { s with tick := s.tick + 1 }
  | none =>
    let s1 := s.elapse
    match s1.due with
    | some d => d.run s1
    | none => advance s1.nextMove.1 s1.nextMove.2

/-- The site and the context in which an instruction word is placed: the Ringmaster for system registers, context 0 for
handler and system instructions, and otherwise user context 1. -/
def placeOf (w0 w1 : Word) : Nat × Nat :=
  let maj := (opcodeOf w0 w1).1
  if maj = 0x61 then (ringmaster, 0) else if maj = 0x60 then (0, 0) else (0, 1)

/-- The address at which an instruction word is placed. -/
def placeAddress : VAddr := 0x1000

/-- A frame for the instance of a placed instruction: small, with every slot and threadlet 0 declared. -/
def placeFrame (site ctx : Nat) : Frame :=
  { site := site, key := ⟨ctx, 0, 0⟩, life := .live, entry := 0, chunk := 0,
    desc :=
    { large := false, place := .hash, wlog := 0, cellix := 0, code := placeAddress, base := 0, stride := 0,
      slots := (upFrom 0 16).map (fun k => (k, ⟨1, 1, 0⟩)), threads := [(0, ⟨0, 0⟩)] },
    epoch := false, lid := 0, flags := 0, psn := false, words := [], poison := [],
    slots := (upFrom 0 16).map (fun k => (k, ⟨1, 1⟩)), handler := none, fresh := false, seed := 0 }

/-- The residence of context 1 on cell 0 for a placed instruction: a first frame-store share, scratch and a local cache. -/
def placeResident : Resident :=
  { ctx := 1, part := 0, cells := [0], funits := 7, sunits := 7, lunits := 1, carve := 0x177, ptroot := 0, cbtab := 0, xtab := 0,
    htab := 0, spill := 0, spilln := 0, mbox := 0, mblen := 64, save := 0, savelen := 0, handlers := [], xops := [], phase := .up, since := 0 }

/-- The state with an instruction in the instruction cache of a cell, or of the Ringmaster, where an instance that starts
there issues it in the next step. Bits above `nbits` are zero. Log 1 (DESIGN CHOICE). -/
def State.withFetchWord (s : State) (nbits w : Nat) : State :=
  let v := w % 2 ^ nbits
  let w0 : Word := BitVec.ofNat 32 v
  let w1 : Word := BitVec.ofNat 32 (v / 2 ^ 32)
  let site := (placeOf w0 w1).1
  let ctx := (placeOf w0 w1).2
  let f := placeFrame site ctx
  { s with
    agenda := [.issue site 0]
    insts := newInst f 0 0 0 0 none :: s.insts.filter (fun i => !(i.site == site && i.runner == 0))
    frames := f :: s.frames.filter (fun x => !(x.site == site && x.key == f.key))
    icache := ⟨site, ctx, placeAddress, w0⟩ :: ⟨site, ctx, placeAddress + 4, w1⟩ :: s.icache
    ctl := { s.ctl with residents := placeResident :: s.ctl.residents.filter (fun r => r.ctx != 1) } }

end Sys2Proof.Machine
end

