-- ==== Sys2Proof/Safety.lean ====
section
/-! DEFINITION. What a safe run is: a step answers a next state, and the invariant holds in it. With it the vocabulary in
which statements about instructions are made. -/

namespace Sys2Proof.Machine

/-- The invariant of every step: every memory is in canonical form, and the registers whose range the specification bounds
hold a value of that range: SHADOW at most 48 (R378), TSEL below 64 (R346), PLIM below 2^16 (R416). -/
def State.Inv (s : State) : Prop :=
  s.mem.wf ∧ s.host.wf ∧ s.scratch.wf ∧ s.flash.wf ∧ (∀ h ∈ s.ctl.shadows, h.mem.wf)
    ∧ s.sys.shadow ≤ 48 ∧ s.sys.tsel < 64 ∧ s.hw.plim < 2 ^ 16

/-! ### Instruction words -/

/-- The state executes an instruction word: the instance `i` stands on the runner that `c` names, at the word that `c`
names. -/
def State.executes (s : State) (c : Cur) (i : Inst) : Prop := s.cur = some c ∧ s.instAt c.site c.runner = some i

/-- Wherever `w` executes it completes, and the next state differs from the state in the executing instance alone: `i` with
its counter moved past the words and counted once (`Inst.past`), as `f` then changes it. -/
def Runs (w : Instr) (f : Inst → Inst) : Prop :=
  ∀ s c i, s.executes c i → exec w s = .next (s.putInst (f (i.past c)))

/-- Wherever `w` executes and the condition holds it completes, and the next state differs from the state in the executing
instance alone. The condition is on the state and the instance before the word; `f` is given the instance past it. -/
def RunsWhen (w : Instr) (p : State → Inst → Prop) (f : State → Cur → Inst → Inst) : Prop :=
  ∀ s c i, s.executes c i → p s i → exec w s = .next (s.putInst (f s c (i.past c)))

/-- Wherever `w` executes and the condition holds, the instance takes the synchronous fault `t` at that word (R42). -/
def Traps (w : Instr) (p : State → Inst → Prop) (t : State → Inst → Trap) : Prop :=
  ∀ s c i, s.executes c i → p s i → exec w s = .next (s.takeFault i (c.at_ i) (t s i))

/-- A scratch byte as an instruction of the instance reads it (R139): its own latest pending write, or what it finds in scratch,
which for a unit that an MU instruction has just written may be the old contents (R196); none where the unit is poisoned
(R104). -/
def State.scratchSeen (s : State) (i : Inst) (o : Nat) : Option Byte :=
  match i.pendingByte o with
  | some b => some b
  | none =>
    if (s.scratchFor i.site i.key.ctx).poisoned (scratchKey i.site i.key.ctx o) 1 then none
    else some ((s.scratchFor i.site i.key.ctx).byte (scratchKey i.site i.key.ctx o))

/-- A data word of its frame as an instruction of the instance reads it (R139, R159); none where it is poisoned. -/
def State.wordSeen (s : State) (i : Inst) (k : Nat) : Option W64 :=
  match i.pendingWord k with
  | some w => some w
  | none => if (s.frameOf i).poison.contains k then none else some ((s.frameOf i).word k)

/-- The instance with a pending effect that counts one (R40). -/
def Inst.withEffect (i : Inst) (e : EffBody) : Inst := { i with nEff := i.nEff + 1, effects := i.effects ++ [e] }

/-- `t` is `s` after loads of descriptors and walks alone: the descriptor stores and windows, the descriptors of frames, the
TLBs and what the walkers remember may differ, and nothing else (R302, R303, R386, R410). -/
def State.onlyLoads (s t : State) : Prop :=
  (∃ g : Frame → Desc, t.frames = s.frames.map (fun f => { f with desc := g f })) ∧
  { t with descs := s.descs, windows := s.windows, frames := s.frames, tlb := s.tlb,
           ctl := { t.ctl with walks := s.ctl.walks } } = s

/-! ### Numbers -/

/-- The rational number that an exact number stands for. -/
def Exact.rat (x : Exact) : ℚ := x.num * (2 : ℚ) ^ x.exp / x.den

/-- `q` is the number `v` rounded to an integer in a direction (R62, R63). -/
def roundsTo (r : Round) (v : ℚ) (q : ℤ) : Prop :=
  match r with
  | .rne => |v - q| ≤ 1 / 2 ∧ (|v - q| = 1 / 2 → q % 2 = 0)
  | .rtz => q = if v < 0 then ⌈v⌉ else ⌊v⌋
  | .rdn => q = ⌊v⌋
  | .rup => q = ⌈v⌉
  | .rod => if (⌊v⌋ : ℚ) = v then q = ⌊v⌋ else |v - q| < 1 ∧ q % 2 = 1

/-- Invalid where a signalling NaN is among the operands (R53, R68). -/
def signalling (vs : List FVal) : BitVec 5 := if FVal.nan true ∈ vs then flagInvalid else 0

/-! ### Tokens -/

/-- A cell that receives something for a key finds its frame `f` in the matching store (R26): the context is resident and
not halted there, the launch is not marked killed, the frame's EPOCH is that of the token, and the descriptor store holds the
codeblock's descriptor (R302). -/
def State.finds (s : State) (site : Nat) (k : Key) (epoch : Bool) (lid : Nat) (f : Frame) : Prop :=
  s.frameAt site k = some f ∧ f.epoch = epoch ∧ f.life ≠ .spilled ∧ s.residentAt site k.ctx = true
    ∧ s.haltedAt site k.ctx = false ∧ (k.ctx ≠ 0 → (site, k.ctx, lid) ∉ s.killed)
    ∧ (k.ctx = 0 → site = ringmaster ∨ s.ctxValid 0 = true) ∧ (s.descAt site k.ctx k.cb).isSome = true

/-- A fault of this cause on a cell, of a launch of a context, can create its handler frame as far as the cell can tell (R366,
R368): the handler table of the handler's context names a codeblock `cb` of a cell, whose descriptor loads and declares threadlet
0, the handler's cell list holds a live cell, and the key, whose tag counts the cell's fault tokens, resolves to `home`. -/
def State.handlerHome (s : State) (site ctx lid cause cb home : Nat) : Prop :=
  let hctx := if 0x20 ≤ cause then 0 else ctx
  (hctx = 0 → s.ctxValid 0 = true) ∧ s.handlerEntry hctx cause = some cb ∧
  (∃ c, s.codeblock hctx cb = some c ∧ c.ring = false ∧ c.remote = none) ∧
  ∃ u d, s.loadDesc site hctx cb = (u, .ok d) ∧ (keyed d.threads 0).isSome = true ∧ u.live (u.cellList site hctx lid) ≠ [] ∧
    u.resolve site (u.cellList site hctx lid) d hctx cb (BitVec.ofNat 32 (site * 2 ^ 21 + (keyed s.faultCount site).getD 0 % 2 ^ 21)) = .ok home

/-- In `u` a token has been applied to the frame that was `f` in `s` (R27, R29): its payload is written, its flags are
ORed into the FSW, its slot's count is one lower, or is reloaded while the declared threadlet becomes ready; the token is
gone, and no memory has changed. -/
def State.received (s u : State) (t : Token) (f : Frame) (st : SlotState) : Prop :=
  (∃ g, u.frameAt t.dcell t.key = some g ∧
    keyed g.slots t.slot = some { st with count := if st.count = 1 then st.reload else st.count - 1 } ∧
    (∀ k, k ≠ t.slot → keyed g.slots k = keyed f.slots k) ∧
    (t.payload = .none → g.words = f.words) ∧
    (∀ w, t.payload = .word w → (t.idx < f.desc.words → g.word t.idx = w) ∧ ∀ k, k ≠ t.idx → g.word k = f.word k) ∧
    (∀ v, t.payload = .vector v 0 → f.desc.large = true → t.idx ≤ 5 →
      ∀ k, k < 32 → g.word (64 + 32 * t.idx + k) = v.extractLsb' (64 * k) 64) ∧
    g.flags = f.flags ||| t.flags) ∧
  u.token t.id = none ∧
  (match (if st.count = 1 then (keyed f.desc.slots t.slot).map (·.thr) else none) with
   | some thr => ∃ r ∈ u.ready, r.site = f.site ∧ r.key = f.key ∧ r.thr = thr
   | none => u.ready = s.ready) ∧
  u.mem = s.mem ∧ u.host = s.host ∧ u.scratch = s.scratch ∧ u.flash = s.flash ∧ u.insts = s.insts

end Sys2Proof.Machine
end

