-- ==== Sys2Proof/Certificates/Slice0/Obligations.lean ====
section
/-! DEFINITION. The statements for the provers. Each one's docstring says what it states and the rules of the specification
it rests on. -/

open Sys2Proof Sys2Proof.Machine

/-- R89, R346, R378, R416: `State.Inv` holds in `State.reset`. -/
def Obligations.ResetInv : Prop := State.reset.Inv

/-- R89, R104, R346, R378, R416: the invariant of every step. -/
def Obligations.StepKeepsInv : Prop := ∀ s t : State, s.Inv → step s = .next t → t.Inv

/-- R14, R346, R348, R354, R378 and the registers' own rules: the values that a reset gives. That no timer is armed is log 5
(DESIGN CHOICE), that host memory and the flash stay and where the certificate chain stands log 41 (DESIGN CHOICE). -/
def Obligations.ResetState : Prop :=
  let fresh (s : State) : Prop :=
    (∀ n, n ≤ 2 ∨ (0x11 ≤ n ∧ n ≤ 0x1F) ∨ (0x40 ≤ n ∧ n ≤ 0x7F) ∨ n = 0x100 ∨ n = 0x105 ∨ n = 0x107 ∨ n = 0x108 →
      s.readSys n = some 0) ∧
    s.sys.rtime = 0 ∧ (∀ site, (keyed s.cyc site).getD 0 = 0) ∧ s.hw.plim = 3200 ∧ (∀ c, s.priority c = 8) ∧
    s.ctl.quantum = 10000 ∧ s.ctl.watermark = 0 ∧ (∀ fn q, (s.queue fn q).en = false) ∧
    (∀ e ∈ s.sys.timers, e.2.armed = false) ∧ (∀ c, s.resident c = none) ∧ s.tlb = [] ∧ s.icache = [] ∧ s.lcache = [] ∧
    s.insts = [] ∧ s.frames = [] ∧ s.ops = [] ∧ s.items = [] ∧ s.ready = []
  fresh State.reset ∧
  ∀ s : State, ∃ t, exec .packageReset s = .next t ∧ fresh t ∧ t.host = s.host ∧
    (∀ a, a < 2 ^ 24 → t.flash.byte a = s.flash.byte a) ∧
    (s.flash.wf → ∀ k b, (Config.certificateChain Config.ed25519Public Config.mldsa65Public)[k]? = some b →
      t.flash.byte (2 ^ 24 + k) = b)

/-- R40, R110, R111: a step is `exec` of the decoded instruction. That what is due comes first is log 12 (DESIGN CHOICE). -/
def Obligations.StepRunsDecoded : Prop :=
  (∀ (s : State),
    (∀ n, s.due = some (.timer n) → step s = exec (.timerExpiry n) { s with tick := s.tick + 1 }) ∧
    (s.due = some .timeWord → step s = exec .timeWordStore { s with tick := s.tick + 1 })) ∧
  ∀ (s : State) (site runner : Nat) (rest : List Move) (i : Inst) (w0 : Word) (w1 : Option Word) (instr : Instr),
    s.agenda = .issue site runner :: rest → s.due = none → s.elapse.due = none →
    (site = ringmaster → s.hw.rmHalted = false) → s.instAt site runner = some i → i.phase = .running →
    (s.frameOf i).life ≠ .spilled → i.dyn < 256 →
    (∀ x, i.subst = some x → x.1 ≠ i.dyn) → s.cachedWord i.site i.key.ctx i.pc = some w0 →
    (isPrefix w0 = false ∧ w1 = none ∨
      isPrefix w0 = true ∧ ∃ w, w1 = some w ∧ s.cachedWord i.site i.key.ctx (i.pc + 4) = some w) →
    decodeWords w0 (w1.getD 0) = some instr → (site = ringmaster → ringRuns (opcodeOf w0 (w1.getD 0)) = true) →
    let c : Cur := ⟨site, runner, i.pc, w0, w1⟩
    let u : State := { { s.elapse with agenda := rest }.clockSite site with cur := some c }
    step s = exec instr u ∧ u.executes c i ∧
    u.tick = s.tick + 1 ∧ s.sys.rtime ≤ u.sys.rtime ∧
    { u with agenda := s.agenda, tick := s.tick, cyc := s.cyc, cur := s.cur, sys := { u.sys with rtime := s.sys.rtime } } = s

/-- R40, R112, R128, R342 and R371: what happens at issue in place of the instruction's own effect. That the words of the 257th
instruction are fetched before THREADLET_LENGTH, and stand in its record, is log 29 (DEDUCED). -/
def Obligations.IssueExceptions : Prop :=
  (∀ (w0 : Word) (w1 : Option Word),
    Traps (.illegalInstruction w0 w1) (fun _ _ => True) (fun _ _ => { cause := .illegalInstruction })) ∧
  ∀ (s : State) (site runner : Nat) (i : Inst) (w0 : Word) (w1 : Option Word),
    (site = ringmaster → s.hw.rmHalted = false) → s.instAt site runner = some i → i.phase = .running →
    (s.frameOf i).life ≠ .spilled → s.fetched i = some (w0, w1) →
    let c : Cur := ⟨site, runner, i.pc, w0, w1⟩
    let u : State := { s with cur := some c }
    (256 ≤ i.dyn → s.issue site runner = .next (s.takeFault i (c.at_ i) { cause := .threadletLength })) ∧
    (i.dyn < 256 → (∀ x, i.subst = some x → x.1 ≠ i.dyn) →
      (decodeWords w0 (w1.getD 0) = none ∨ site = ringmaster ∧ ringRuns (opcodeOf w0 (w1.getD 0)) = false) →
      s.issue site runner = .next (u.takeFault i (c.at_ i) { cause := .illegalInstruction })) ∧
    (∀ v instr, i.dyn < 256 → i.subst = some (i.dyn, opcodeOf w0 (w1.getD 0), v) →
      decodeWords w0 (w1.getD 0) = some instr →
      s.issue site runner = .next (u.putInst
        (match scalarDestination instr with
         | some d => ({ i with subst := none }.past c).setS d v
         | none => { i with subst := none }.past c)))

/-- R42, R343 and R364 to R368: taking a synchronous fault. Every statement of the form `Traps` ends here. The tag of the
Ringmaster's event is log 31 (DEDUCED), what the faulting cell can tell log 47 (DEDUCED), where the counter in a fault token's tag
and the GEN counter stand, and that both start from 0 where nothing is counted, log 4 (DESIGN CHOICE). -/
def Obligations.SynchronousFault : Prop :=
  (∀ (s : State) (i : Inst) (w : At) (x : Trap) (f : Frame), s.instAt i.site i.runner = some i →
    s.frameAt i.site i.key = some f → f.fresh = false →
    let t := s.takeFault i w x
    let gen := (keyed s.genCount i.site).getD 0
    let n := (keyed s.faultCount i.site).getD 0
    let hctx := if 0x20 ≤ x.cause.code then 0 else i.key.ctx
    let record (held double : Nat) : List W64 :=
      [BitVec.ofNat 64 (x.cause.code + held * 2 ^ 9 + x.lane % 64 * 2 ^ 10 + w.dyn % 512 * 2 ^ 16 + i.thr * 2 ^ 25
         + i.site * 2 ^ 29 + i.key.ctx * 2 ^ 40 + f.lid * 2 ^ 48),
       frameRef i.site i.key f.epoch, w.addr.setWidth 64, x.detail, BitVec.ofNat 64 x.faddr, x.value,
       BitVec.ofNat 64 (x.faddr / 2 ^ 64 % 2 ^ 8 + w.addr.toNat / 2 ^ 64 * 2 ^ 8 + x.level * 2 ^ 16 + double * 2 ^ 19
         + gen % 256 * 2 ^ 20),
       instrWord w.w0 w.w1]
    let event (tag : Nat) (ws : List W64) : Prop :=
      match s.eventTarget 5 with
      | some (cb, slot) =>
        ∃ k ∈ t.tokens, k.key = ⟨0, cb, BitVec.ofNat 32 tag⟩ ∧ k.slot = slot ∧ k.dcell = ringmaster ∧ k.payload = .words ws
      | none => t.sys.drops.getLsbD 5 = true
    let entry (it : Item) : Prop := it.site = i.site ∧ it.key = i.key ∧ it.kind = 0 ∧ it.ctx = i.key.ctx ∧ it.lid = f.lid ∧
      it.thr = i.thr ∧ it.gen = gen % 256 ∧ it.body = .suspended i.thr i.cls
    t.instAt i.site i.runner = none ∧
    (∀ k ∈ t.tokens, k.committed = false → k.owner ≠ some (i.site, i.runner)) ∧
    t.mem = s.mem ∧ t.host = s.host ∧ t.scratch = s.scratch ∧ t.flash = s.flash ∧
    (∀ site runner, site ≠ i.site → t.instAt site runner = s.instAt site runner) ∧
    (s.underKill i = true → t.items = s.items ∧ (∀ k ∈ t.tokens, k ∈ s.tokens) ∧ t.halted = s.halted ∧
      (s.running i.site i.key (some i.runner) = false → t.frameAt i.site i.key = none)) ∧
    (s.underKill i = false → f.life = .live → ∃ g, t.frameAt i.site i.key = some g ∧ { g with life := .live, desc := f.desc } = f) ∧
    (s.underKill i = false → i.site ≠ ringmaster →
      (f.handler.isSome = true ∨ ¬∃ cb home, s.handlerHome i.site i.key.ctx f.lid x.cause.code cb home) →
      t.items = s.items ∧ t.haltedAt i.site i.key.ctx = true ∧
      (∀ l ∈ t.ctl.launches, l.ctx = i.key.ctx → l.ended = false → l.halted = true) ∧
      event (256 * i.site + i.key.ctx) (record 0 1) ∧
      (f.life = .dying → s.running i.site i.key (some i.runner) = false → s.queued i.site i.key = false →
        t.frameAt i.site i.key = none)) ∧
    (∀ cb home, s.underKill i = false → i.site ≠ ringmaster → f.handler = none →
      s.handlerHome i.site i.key.ctx f.lid x.cause.code cb home →
      t.halted = s.halted ∧ (∃ d, t.frameAt i.site i.key = some { f with desc := d }) ∧ keyed t.faultCount i.site = some (n + 1) ∧
      ∃ it, t.items = it :: s.items ∧ entry it ∧
      ∃ k ∈ t.tokens, k.source = .fault it.id none ∧ k.kind = 4 ∧ k.slot = 0 ∧ k.dcell = home ∧ k.lid = f.lid ∧
        k.epoch = false ∧ k.key = ⟨hctx, cb, BitVec.ofNat 32 (i.site * 2 ^ 21 + n % 2 ^ 21)⟩ ∧ k.payload = .words (record 1 0)) ∧
    (i.site = ringmaster → s.underKill i = false →
      (∃ it, t.items = it :: s.items ∧ entry it) ∧ t.halted = s.halted ∧
      ((∃ slot, s.eventTarget 5 = some (i.key.cb, slot)) → t.hw.rmHalted = true ∧ t.hw.health = .fatal) ∧
      ((∀ slot, s.eventTarget 5 ≠ some (i.key.cb, slot)) → t.hw = s.hw ∧ event 0x7FF00 (record 1 0)))) ∧
  ∀ (s : State) (runner : Nat), s.hw.rmHalted = true →
    s.issue ringmaster runner = .next s ∧ exec (.commit ringmaster runner) s = .next s ∧
    exec (.readyChoose ringmaster runner) s = .next s

/-- R40, R41 and R139: an instruction's effects on memory are made at the commit. -/
def Obligations.EffectsArePending : Prop :=
  ∀ (w : Instr) (s t : State), Instr.isDevice w = false → exec w s = .next t →
    t.mem = s.mem ∧ t.host = s.host ∧ t.scratch = s.scratch ∧ t.flash = s.flash ∧ t.ctl.shadows = s.ctl.shadows ∧
    t.sys.shadow = s.sys.shadow ∧ t.sys.tsel = s.sys.tsel ∧ t.hw.plim = s.hw.plim

/-- R42, R128: no state stops the machine. -/
def Obligations.StepAnswersNext : Prop := ∀ s : State, ∃ t, step s = .next t

/-- R110 to R127: words of several families and what they decode to. -/
def Obligations.DecodeWords : Prop :=
  decodeWords 0x02308800 0 = some (.add 3 1 2) ∧ decodeWords 0x06425003 0 = some (.shrImm 4 4 3) ∧
  decodeWords 0x12301FFD 0 = some (.bne 3 0 (-3)) ∧ decodeWords 0x18500003 0 = some (.jt 5 3) ∧
  decodeWords 0x20449002 0 = some (.fst 4 9 2) ∧ decodeWords 0x22255006 0 = some (.sld 2 10 .i16 6) ∧
  decodeWords 0x283214D7 0 = some (.samoCas 3 4 5 6 true) ∧
  decodeWords 0x10742505 0 = some (.fma 7 8 9 .rdn .f64) ∧
  decodeWords 0xFE200000 0x1011046C = some (.fcvt 1 2 .f32 .rne .f16 true) ∧
  decodeWords 0x34531C3E 0 = some (.vclmul 5 6 7 .n64 false) ∧
  decodeWords 0xFE038000 0x3842984C = some (.vfma 4 5 6 7 0 .f32 .rne false) ∧
  decodeWords 0x46910048 0 = some (.vredAdd 9 2 0 (.flt .f32)) ∧ decodeWords 0x4A110C00 0 = some (.mand 1 2 3) ∧
  decodeWords 0x1A000000 0 = some .fin

/-- R110 to R127: decode after encode, for all instructions. -/
def Obligations.RoundTrip : Prop :=
  ∀ i : Instr, i.wf = true → Instr.isDevice i = false → (∀ w0 w1, i ≠ .illegalInstruction w0 w1) →
    (∃ w, encode i = [w] ∧ ∀ x, decodeWords w x = some i) ∨ (∃ p w, encode i = [p, w] ∧ decodeWords p w = some i)

/-- R112, R114, R115, R127 and R128: what the decoder refuses, and what it never gives. -/
def Obligations.ReservedRefused : Prop :=
  let assigned : List Nat :=
    [0x01, 0x02, 0x03, 0x04, 0x05, 0x06, 0x07, 0x08, 0x09, 0x0A, 0x0B, 0x0C, 0x0D, 0x10, 0x11, 0x12, 0x13, 0x14, 0x18, 0x19,
     0x1A, 0x1B, 0x1C, 0x1D, 0x1E, 0x1F, 0x20, 0x21, 0x22, 0x23, 0x24, 0x25, 0x26, 0x38, 0x39, 0x3A, 0x40, 0x41, 0x42, 0x43,
     0x44, 0x45, 0x48, 0x49, 0x4A, 0x4B, 0x4C, 0x4D, 0x4E, 0x50, 0x51, 0x60, 0x61]
  let bare : List Nat :=
    [0x01, 0x02, 0x07, 0x0C, 0x0D, 0x13, 0x14, 0x23, 0x25, 0x3A, 0x40, 0x41, 0x42, 0x43, 0x44, 0x48, 0x49, 0x4A, 0x4C, 0x4D,
     0x50, 0x51, 0x60]
  let uses : List (Nat × Nat × List Nat) :=
    [(22, 3, [0x1C, 0x1D, 0x1E, 0x1F, 0x38, 0x4E]), (21, 1, [0x08, 0x1F, 0x38]),
     (20, 1, [0x18, 0x19, 0x1A, 0x1B, 0x1C, 0x1D, 0x1E, 0x1F, 0x20, 0x21, 0x22, 0x24, 0x26, 0x39, 0x4B]),
     (15, 5, [0x1A, 0x1C, 0x1D, 0x1E, 0x1F, 0x39, 0x4E]),
     (0, 15, [0x03, 0x04, 0x05, 0x06, 0x09, 0x0A, 0x0B, 0x10, 0x11, 0x12, 0x45, 0x61, 0x39, 0x4E]),
     (5, 10, [0x03, 0x04, 0x05, 0x06, 0x09, 0x0A, 0x0B, 0x10, 0x11, 0x12, 0x45, 0x61])]
  let zero : List (Nat × Nat × Nat) :=
    [(0x02, 5, 5), (0x07, 5, 5), (0x07, 10, 5), (0x0B, 20, 5), (0x0C, 10, 10), (0x0D, 0, 25), (0x25, 7, 3), (0x25, 3, 4),
     (0x39, 0, 1), (0x43, 0, 3), (0x4A, 0, 4), (0x4D, 17, 8), (0x4D, 3, 4), (0x50, 3, 22)]
  let base (w0 w1 : Word) : Word := if isPrefix w0 then w1 else w0
  (∀ w0 w1, isPrefix w0 = true → isPrefix w1 = true → decodeWords w0 w1 = none) ∧
  (∀ w0 w1, isPrefix w0 = false → majorOf w0 ∉ assigned → decodeWords w0 w1 = none) ∧
  (∀ w0 w1, isPrefix w0 = true → majorOf w1 ∉ assigned → decodeWords w0 w1 = none) ∧
  (∀ w0 w1, majorOf w0 = 0x4E → decodeWords w0 w1 = none) ∧
  (∀ w0 w1, isPrefix w0 = true → majorOf w1 ∈ bare → decodeWords w0 w1 = none) ∧
  (∀ w0 w1, isPrefix w0 = true → majorOf w1 = 0x08 → field w1.toNat 0 5 ∉ [12, 13, 14] → decodeWords w0 w1 = none) ∧
  (∀ w0 w1, isPrefix w0 = true → majorOf w1 = 0x38 → field w1.toNat 0 3 ∉ [5, 6] → decodeWords w0 w1 = none) ∧
  (∀ u ∈ uses, ∀ w0 w1, isPrefix w0 = true → field w0.toNat u.1 u.2.1 ≠ 0 → majorOf w1 ∉ u.2.2 → decodeWords w0 w1 = none) ∧
  (∀ z ∈ zero, ∀ w0 w1, majorOf (base w0 w1) = z.1 → field (base w0 w1).toNat z.2.1 z.2.2 ≠ 0 → decodeWords w0 w1 = none) ∧
  (∀ w0 w1, majorOf w0 = 0x01 → field w0.toNat 0 5 ∉ [25, 30, 31] → field w0.toNat 5 5 ≠ 0 → decodeWords w0 w1 = none) ∧
  (∀ w0 w1, majorOf w0 = 0x14 → field w0.toNat 0 3 ≠ 7 → field w0.toNat 5 5 ≠ 0 → decodeWords w0 w1 = none) ∧
  (∀ w0 w1, majorOf (base w0 w1) = 0x38 → field (base w0 w1).toNat 0 3 ≠ 6 → field (base w0 w1).toNat 3 6 ≠ 0 →
    decodeWords w0 w1 = none) ∧
  (∀ w0 w1 i, decodeWords w0 w1 = some i → i.wf = true ∧ Instr.isDevice i = false)

/-- R117 (and R6, R138, R189): what a register reads after a write, for every register and every written register, `s0` and
`m0` among them, and what the write leaves alone. -/
def Obligations.RegistersReadBack : Prop :=
  ∀ i : Inst,
    (∀ (d r : Reg) (v : W64), (i.setS d v).getS r = if r = 0 then 0 else if r = d then v else i.getS r) ∧
    (∀ (d r : Reg) (v : VWord), (i.setV d v).getV r = if r = d then v else i.getV r) ∧
    (∀ (d r : MReg) (v : W64),
      (i.setM d v).getM r = if r = 0 then BitVec.allOnes 64 else if r = d then v else i.getM r) ∧
    (∀ (d : Reg) (v : W64), { i.setS d v with s := i.s } = i) ∧
    (∀ (d : Reg) (v : VWord), { i.setV d v with v := i.v } = i) ∧
    (∀ (d : MReg) (v : W64), { i.setM d v with m := i.m } = i)

/-- R40, R110, R111, R138: the frame of every statement of the form `Runs` or `RunsWhen`: the next state `s.putInst j` differs
from `s` in the executing runner alone. -/
def Obligations.RunnerAlone : Prop :=
  ∀ (s : State) (c : Cur) (i : Inst), s.executes c i →
    (∀ j : Inst, j.site = c.site → j.runner = c.runner →
      (s.putInst j).instAt c.site c.runner = some j ∧
      (∀ site runner, ¬(site = c.site ∧ runner = c.runner) →
        (s.putInst j).instAt site runner = s.instAt site runner) ∧
      { s.putInst j with insts := s.insts } = s) ∧
    (i.past c).pc = (if c.w1.isSome then c.addr + 8 else c.addr + 4) ∧ (i.past c).dyn = i.dyn + 1 ∧
    { i.past c with pc := i.pc, dyn := i.dyn } = i

/-- R141 and R142: the results of the register forms, with the shift amount b[5:0]. -/
def Obligations.IntegerRegisterForms : Prop :=
  ∀ d a b c : Reg,
    Runs (.add d a b) (fun i => i.setS d (i.getS a + i.getS b)) ∧
    Runs (.sub d a b) (fun i => i.setS d (i.getS a - i.getS b)) ∧
    Runs (.mul d a b) (fun i => i.setS d (i.getS a * i.getS b)) ∧
    Runs (.mulhI64 d a b) (fun i => i.setS d (BitVec.ofInt 64 ((i.getS a).toInt * (i.getS b).toInt / 2 ^ 64))) ∧
    Runs (.mulhN64 d a b) (fun i => i.setS d (BitVec.ofNat 64 ((i.getS a).toNat * (i.getS b).toNat / 2 ^ 64))) ∧
    Runs (.and d a b) (fun i => i.setS d (i.getS a &&& i.getS b)) ∧
    Runs (.or d a b) (fun i => i.setS d (i.getS a ||| i.getS b)) ∧
    Runs (.xor d a b) (fun i => i.setS d (i.getS a ^^^ i.getS b)) ∧
    Runs (.andn d a b) (fun i => i.setS d (i.getS a &&& ~~~i.getS b)) ∧
    Runs (.shl d a b) (fun i => i.setS d (i.getS a <<< ((i.getS b).toNat % 64))) ∧
    Runs (.shr d a b) (fun i => i.setS d (i.getS a >>> ((i.getS b).toNat % 64))) ∧
    Runs (.sra d a b) (fun i => i.setS d ((i.getS a).sshiftRight ((i.getS b).toNat % 64))) ∧
    Runs (.rol d a b) (fun i => i.setS d ((i.getS a).rotateLeft ((i.getS b).toNat % 64))) ∧
    Runs (.ror d a b) (fun i => i.setS d ((i.getS a).rotateRight ((i.getS b).toNat % 64))) ∧
    Runs (.clz d a) (fun i => i.setS d (BitVec.ofNat 64 (leadingZeros 64 (i.getS a).toNat))) ∧
    Runs (.ctz d a) (fun i => i.setS d (BitVec.ofNat 64 (trailingZeros 64 (i.getS a).toNat))) ∧
    Runs (.popc d a) (fun i => i.setS d (BitVec.ofNat 64 (popCount 64 (i.getS a).toNat))) ∧
    Runs (.minI64 d a b) (fun i => i.setS d (if (i.getS b).toInt < (i.getS a).toInt then i.getS b else i.getS a)) ∧
    Runs (.maxI64 d a b) (fun i => i.setS d (if (i.getS a).toInt < (i.getS b).toInt then i.getS b else i.getS a)) ∧
    Runs (.minN64 d a b) (fun i => i.setS d (if i.getS b < i.getS a then i.getS b else i.getS a)) ∧
    Runs (.maxN64 d a b) (fun i => i.setS d (if i.getS a < i.getS b then i.getS b else i.getS a)) ∧
    Runs (.sel d a b c) (fun i => i.setS d (if i.getS c ≠ 0 then i.getS a else i.getS b)) ∧
    Runs (.madd d a b c) (fun i => i.setS d (i.getS a * i.getS b + i.getS c)) ∧
    Runs (.msub d a b c) (fun i => i.setS d (i.getS c - i.getS a * i.getS b))

/-- R142 and R145: what the model's counting functions compute, said by bits. -/
def Obligations.BitCounts : Prop :=
  ∀ x y : W64,
    (x = 0 → leadingZeros 64 x.toNat = 64) ∧
    (x ≠ 0 → leadingZeros 64 x.toNat ≤ 63 ∧ x.getLsbD (63 - leadingZeros 64 x.toNat) = true ∧
      ∀ k, 63 - leadingZeros 64 x.toNat < k → x.getLsbD k = false) ∧
    (x = 0 → trailingZeros 64 x.toNat = 64) ∧
    (x ≠ 0 → x.getLsbD (trailingZeros 64 x.toNat) = true ∧
      ∀ k, k < trailingZeros 64 x.toNat → x.getLsbD k = false) ∧
    popCount 64 x.toNat = ((List.range 64).filter (fun k => x.getLsbD k)).length ∧
    (mulHighUnsigned x y).toNat * 2 ^ 64 + (x * y).toNat = x.toNat * y.toNat ∧
    (mulHighSigned x y).toInt * 2 ^ 64 + (x * y).toNat = x.toInt * y.toInt ∧
    (∀ k, k < 8 → (byteSwap x).extractLsb' (8 * k) 8 = x.extractLsb' (8 * (7 - k)) 8)

/-- R143: division and remainder by its pseudocode, and the corners that its sentence names. -/
def Obligations.Division : Prop :=
  (∀ d a b : Reg,
    Runs (.divI64 d a b) (fun i => i.setS d (BitVec.ofInt 64
      (if (i.getS b).toInt = 0 then -1 else (i.getS a).toInt.tdiv (i.getS b).toInt))) ∧
    Runs (.remI64 d a b) (fun i => i.setS d (BitVec.ofInt 64
      (if (i.getS b).toInt = 0 then (i.getS a).toInt
       else (i.getS a).toInt - (i.getS a).toInt.tdiv (i.getS b).toInt * (i.getS b).toInt))) ∧
    Runs (.divN64 d a b) (fun i => i.setS d (BitVec.ofInt 64
      (if ((i.getS b).toNat : Int) = 0 then -1 else ((i.getS a).toNat : Int).tdiv (i.getS b).toNat))) ∧
    Runs (.remN64 d a b) (fun i => i.setS d (BitVec.ofInt 64
      (if ((i.getS b).toNat : Int) = 0 then ((i.getS a).toNat : Int)
       else (i.getS a).toNat - ((i.getS a).toNat : Int).tdiv (i.getS b).toNat * (i.getS b).toNat)))) ∧
  BitVec.ofInt 64 (divRem (BitVec.intMin 64).toInt (-1 : W64).toInt).1 = BitVec.intMin 64 ∧
  BitVec.ofInt 64 (divRem (BitVec.intMin 64).toInt (-1 : W64).toInt).2 = 0 ∧
  (∀ x : W64, BitVec.ofInt 64 (divRem x.toInt (0 : W64).toInt).1 = BitVec.allOnes 64 ∧
    BitVec.ofInt 64 (divRem x.toInt (0 : W64).toInt).2 = x ∧
    BitVec.ofInt 64 (divRem x.toNat (0 : W64).toNat).1 = BitVec.allOnes 64 ∧
    BitVec.ofInt 64 (divRem x.toNat (0 : W64).toNat).2 = x)

/-- R144: each of its three loops, folded over i from 0 to 63 as the pseudocode writes them, against the recursions that
the meanings use. -/
def Obligations.CarrylessAndBitPermutation : Prop :=
  let product (a b : W64) : BitVec 128 :=
    (List.range 64).foldl (fun p i => if b.getLsbD i then p ^^^ (a.setWidth 128 <<< i) else p) 0
  let gather (a m : W64) : W64 × Nat :=
    (List.range 64).foldl (fun (v, k) i => if m.getLsbD i then (v ||| ((if a.getLsbD i then 1 else 0) <<< k), k + 1)
      else (v, k)) (0, 0)
  let scatter (a m : W64) : W64 × Nat :=
    (List.range 64).foldl (fun (v, k) i => if m.getLsbD i then (v ||| ((if a.getLsbD k then 1 else 0) <<< i), k + 1)
      else (v, k)) (0, 0)
  ∀ d a b : Reg,
    Runs (.clmul d a b) (fun i => i.setS d ((product (i.getS a) (i.getS b)).extractLsb' 0 64)) ∧
    Runs (.clmulh d a b) (fun i => i.setS d ((product (i.getS a) (i.getS b)).extractLsb' 64 64)) ∧
    Runs (.bgat d a b) (fun i => i.setS d (gather (i.getS a) (i.getS b)).1) ∧
    Runs (.bsct d a b) (fun i => i.setS d (scatter (i.getS a) (i.getS b)).1)

/-- R145: the results of major 0x02. -/
def Obligations.CompareAndExtend : Prop :=
  ∀ d a b : Reg,
    Runs (.sltI64 d a b) (fun i => i.setS d (if (i.getS a).toInt < (i.getS b).toInt then 1 else 0)) ∧
    Runs (.sltN64 d a b) (fun i => i.setS d (if i.getS a < i.getS b then 1 else 0)) ∧
    Runs (.seq d a b) (fun i => i.setS d (if i.getS a = i.getS b then 1 else 0)) ∧
    Runs (.sne d a b) (fun i => i.setS d (if i.getS a = i.getS b then 0 else 1)) ∧
    Runs (.extdI8 d a) (fun i => i.setS d (((i.getS a).extractLsb' 0 8).signExtend 64)) ∧
    Runs (.extdI16 d a) (fun i => i.setS d (((i.getS a).extractLsb' 0 16).signExtend 64)) ∧
    Runs (.extdI32 d a) (fun i => i.setS d (((i.getS a).extractLsb' 0 32).signExtend 64)) ∧
    Runs (.extdN8 d a) (fun i => i.setS d (((i.getS a).extractLsb' 0 8).setWidth 64)) ∧
    Runs (.extdN16 d a) (fun i => i.setS d (((i.getS a).extractLsb' 0 16).setWidth 64)) ∧
    Runs (.extdN32 d a) (fun i => i.setS d (((i.getS a).extractLsb' 0 32).setWidth 64)) ∧
    Runs (.bswap d a) (fun i => i.setS d (byteSwap (i.getS a)))

/-- R146 to R148: the results of majors 0x03 to 0x07. -/
def Obligations.ImmediateForms : Prop :=
  (∀ (d a : Reg) (m : BitVec 27),
    Runs (.addImm d a m) (fun i => i.setS d (i.getS a + m.signExtend 64)) ∧
    Runs (.andImm d a m) (fun i => i.setS d (i.getS a &&& m.signExtend 64)) ∧
    Runs (.orImm d a m) (fun i => i.setS d (i.getS a ||| m.signExtend 64)) ∧
    Runs (.xorImm d a m) (fun i => i.setS d (i.getS a ^^^ m.signExtend 64)) ∧
    Runs (.mulImm d a m) (fun i => i.setS d (i.getS a * m.signExtend 64)) ∧
    Runs (.sltI64Imm d a m) (fun i => i.setS d (if (i.getS a).toInt < m.toInt then 1 else 0)) ∧
    Runs (.sltN64Imm d a m) (fun i => i.setS d (if i.getS a < m.signExtend 64 then 1 else 0)) ∧
    Runs (.seqImm d a m) (fun i => i.setS d (if i.getS a = m.signExtend 64 then 1 else 0)) ∧
    Runs (.sneImm d a m) (fun i => i.setS d (if i.getS a = m.signExtend 64 then 0 else 1)) ∧
    Runs (.minI64Imm d a m) (fun i => i.setS d (if m.toInt < (i.getS a).toInt then m.signExtend 64 else i.getS a)) ∧
    Runs (.maxI64Imm d a m) (fun i => i.setS d (if (i.getS a).toInt < m.toInt then m.signExtend 64 else i.getS a)) ∧
    (m.toNat ≤ 63 →
      Runs (.shlImm d a m) (fun i => i.setS d (i.getS a <<< m.toNat)) ∧
      Runs (.shrImm d a m) (fun i => i.setS d (i.getS a >>> m.toNat)) ∧
      Runs (.sraImm d a m) (fun i => i.setS d ((i.getS a).sshiftRight m.toNat)) ∧
      Runs (.rorImm d a m) (fun i => i.setS d ((i.getS a).rotateRight m.toNat)))) ∧
  (∀ (d : Reg) (m : BitVec 35),
    Runs (.movi d m) (fun i => i.setS d (m.signExtend 64)) ∧
    Runs (.movh d m) (fun i => i.setS d (m.extractLsb' 0 29 ++ (i.getS d).extractLsb' 0 35))) ∧
  (∀ (d : Reg) (x : Special),
    RunsWhen (.rds d x) (fun _ _ => True) (fun s _ i => i.setS d (match x with
      | .tag => i.key.tag.setWidth 64
      | .ctx => BitVec.ofNat 64 i.key.ctx
      | .cb => BitVec.ofNat 64 i.key.cb
      | .cell => cellWord i.site
      | .frame => frameRef i.site i.key (s.frameOf i).epoch
      | .cyc => (keyed s.cyc i.site).getD 0)))

/-- R149 to R152: each instruction of major 0x08 as the operation of the specification on encodings, with the flags of R68
that R69 accumulates; then what those operations compute (R53, R63, R65 to R68). That a value is judged beyond an integer's
range after it is rounded is the model's choice, log 58 (DESIGN CHOICE). -/
def Obligations.ScalarFloatForms : Prop :=
  (∀ (d a b : Reg) (r : Round) (t u : FloatTy) (x : IntTy) (sat : Bool),
    Runs (.fadd d a b r t) (fun i => i.setF d (floatAdd t.fmt r (i.getF t a) (i.getF t b))) ∧
    Runs (.fsub d a b r t) (fun i => i.setF d (floatSub t.fmt r (i.getF t a) (i.getF t b))) ∧
    Runs (.fmul d a b r t) (fun i => i.setF d (floatMul t.fmt r (i.getF t a) (i.getF t b))) ∧
    Runs (.fdiv d a b r t) (fun i => i.setF d (floatDiv t.fmt r (i.getF t a) (i.getF t b))) ∧
    Runs (.fsqrt d a r t) (fun i => i.setF d (floatSqrt t.fmt r (i.getF t a))) ∧
    Runs (.fma d a b r t) (fun i => i.setF d (floatFma t.fmt r (i.getF t a) (i.getF t b) (i.getF t d))) ∧
    Runs (.fnma d a b r t) (fun i => i.setF d (floatFnma t.fmt r (i.getF t a) (i.getF t b) (i.getF t d))) ∧
    Runs (.fmin d a b t) (fun i => i.setF d (floatMinMax t.fmt false (i.getF t a) (i.getF t b))) ∧
    Runs (.fmax d a b t) (fun i => i.setF d (floatMinMax t.fmt true (i.getF t a) (i.getF t b))) ∧
    Runs (.fceq d a b t) (fun i => i.setF d (compareWord t .eq (i.getF t a) (i.getF t b))) ∧
    Runs (.fclt d a b t) (fun i => i.setF d (compareWord t .lt (i.getF t a) (i.getF t b))) ∧
    Runs (.fcle d a b t) (fun i => i.setF d (compareWord t .le (i.getF t a) (i.getF t b))) ∧
    Runs (.fcvt d a u r t sat) (fun i => i.setF d (convertFloat u.fmt t.fmt r sat (i.getF u a))) ∧
    Runs (.fcvti d a x r t sat) (fun i =>
      (i.setS d (BitVec.ofInt 64 (floatToInt t.fmt x.signed x.width r (i.getF t a)).1)).raise
        (floatToInt t.fmt x.signed x.width r (i.getF t a)).2) ∧
    Runs (.icvtf d a x r t sat) (fun i => i.setF d (intToFloat t.fmt r sat (valueOf x (i.getS a).toNat))) ∧
    Runs (.fneg d a t) (fun i => i.setS d (BitVec.ofNat 64 (i.getF t a ^^^ 2 ^ (t.fmt.width - 1)))) ∧
    Runs (.fabs d a t) (fun i => i.setS d (BitVec.ofNat 64 (i.getF t a % 2 ^ (t.fmt.width - 1)))) ∧
    Runs (.fsgn d a b t) (fun i => i.setS d (BitVec.ofNat 64 (i.getF t a % 2 ^ (t.fmt.width - 1)
      + i.getF t b / 2 ^ (t.fmt.width - 1) * 2 ^ (t.fmt.width - 1)))) ∧
    Runs (.fcls d a t) (fun i => i.setS d (BitVec.ofNat 64 (floatClass t.fmt (i.getF t a))))) ∧
  (∀ (t : FloatTy) (r : Round) (sat : Bool),
    let f := t.fmt
    let nan (vs : List FVal) : Flagged := (f.canonicalNan, signalling vs)
    let invalid : Flagged := (f.canonicalNan, flagInvalid)
    let rounded (v : ℚ) (out : Flagged) : Prop := ∃ e : Exact, 0 < e.den ∧ e.rat = v ∧ out = roundTo f r false e
    let minus (v : FVal) : FVal := match v with
      | .fin s x => .fin (!s) x.neg
      | .inf s => .inf !s
      | .nan sg => .nan sg
    let sum (u v : FVal) (out : Flagged) : Prop := match u, v with
      | .fin s x, .fin g y => (x.rat + y.rat ≠ 0 → rounded (x.rat + y.rat) out) ∧
          (x.rat + y.rat = 0 → out = (f.zero (if x.rat = 0 ∧ s = g then s else decide (r = .rdn)), 0))
      | .inf s, .inf g => out = if s = g then (f.infinity s, 0) else invalid
      | .inf s, .fin _ _ => out = (f.infinity s, 0)
      | .fin _ _, .inf s => out = (f.infinity s, 0)
      | _, _ => out = nan [u, v]
    let product (u v : FVal) (out : Flagged) : Prop := match u, v with
      | .fin s x, .fin g y => (x.rat * y.rat ≠ 0 → rounded (x.rat * y.rat) out) ∧
          (x.rat * y.rat = 0 → out = (f.zero (s != g), 0))
      | .inf s, .inf g => out = (f.infinity (s != g), 0)
      | .inf s, .fin g y => out = if y.rat = 0 then invalid else (f.infinity (s != g), 0)
      | .fin g y, .inf s => out = if y.rat = 0 then invalid else (f.infinity (s != g), 0)
      | _, _ => out = nan [u, v]
    let quotient (u v : FVal) (out : Flagged) : Prop := match u, v with
      | .fin s x, .fin g y => (y.rat ≠ 0 → x.rat ≠ 0 → rounded (x.rat / y.rat) out) ∧
          (y.rat ≠ 0 → x.rat = 0 → out = (f.zero (s != g), 0)) ∧
          (y.rat = 0 → out = if x.rat = 0 then invalid else (f.infinity (s != g), flagDivZero))
      | .inf _, .inf _ => out = invalid
      | .inf s, .fin g _ => out = (f.infinity (s != g), 0)
      | .fin s _, .inf g => out = (f.zero (s != g), 0)
      | _, _ => out = nan [u, v]
    let root (u : FVal) (out : Flagged) : Prop := match u with
      | .fin s x => (x.rat = 0 → out = (f.zero s, 0)) ∧ (x.rat < 0 → out = invalid) ∧
          (0 < x.rat → ∃ e : Exact, 0 < e.den ∧ 0 < e.rat ∧ out = roundTo f r false e ∧
            ∀ (n : ℕ) (k : ℤ), n < 2 ^ (f.mbits + 2) →
              ((n * (2 : ℚ) ^ k) ^ 2 < x.rat ↔ n * (2 : ℚ) ^ k < e.rat) ∧ ((n * (2 : ℚ) ^ k) ^ 2 = x.rat ↔ n * (2 : ℚ) ^ k = e.rat))
      | .inf s => out = if s then invalid else (f.infinity false, 0)
      | .nan _ => out = nan [u]
    let sign (v : FVal) : Bool := match v with
      | .fin s _ => s
      | .inf s => s
      | .nan _ => false
    let infZero (u v : FVal) : Prop := ∃ s g y, u = .inf s ∧ v = .fin g y ∧ y.rat = 0
    let fused (u v w : FVal) (out : Flagged) : Prop :=
      let sp := sign u != sign v
      (infZero u v ∨ infZero v u → out = invalid) ∧
      (¬(infZero u v ∨ infZero v u) → match u, v, w with
        | .fin _ x, .fin _ y, .fin g z => (x.rat * y.rat + z.rat ≠ 0 → rounded (x.rat * y.rat + z.rat) out) ∧
            (x.rat * y.rat + z.rat = 0 → out = (f.zero (if z.rat = 0 ∧ sp = g then sp else decide (r = .rdn)), 0))
        | .nan _, _, _ => out = nan [u, v, w]
        | _, .nan _, _ => out = nan [u, v, w]
        | _, _, .nan _ => out = nan [u, v, w]
        | .fin _ _, .fin _ _, .inf g => out = (f.infinity g, 0)
        | _, _, .fin _ _ => out = (f.infinity sp, 0)
        | _, _, .inf g => out = if sp = g then (f.infinity sp, 0) else invalid)
    (∀ a b c : Nat,
      sum (f.decode a) (f.decode b) (floatAdd f r a b) ∧
      sum (f.decode a) (minus (f.decode b)) (floatSub f r a b) ∧
      product (f.decode a) (f.decode b) (floatMul f r a b) ∧
      quotient (f.decode a) (f.decode b) (floatDiv f r a b) ∧
      root (f.decode a) (floatSqrt f r a) ∧
      fused (f.decode a) (f.decode b) (f.decode c) (floatFma f r a b c) ∧
      fused (minus (f.decode a)) (f.decode b) (f.decode c) (floatFnma f r a b c)) ∧
    (∀ (a : Nat) (x : IntTy),
      let lo : ℤ := if x.signed then -2 ^ (x.width - 1) else 0
      let hi : ℤ := if x.signed then 2 ^ (x.width - 1) - 1 else 2 ^ x.width - 1
      let out := floatToInt f x.signed x.width r a
      match f.decode a with
      | .nan _ => out = (0, flagInvalid)
      | .inf s => out = (if s then lo else hi, flagInvalid)
      | .fin _ y => ∃ q : ℤ, roundsTo r y.rat q ∧ out =
          if q < lo then (lo, flagInvalid) else if hi < q then (hi, flagInvalid)
          else (q, if (q : ℚ) = y.rat then 0 else flagInexact)) ∧
    (∀ z : ℤ, (z = 0 → intToFloat f r sat z = (f.zero false, 0)) ∧
      (z ≠ 0 → ∃ e : Exact, 0 < e.den ∧ e.rat = z ∧ intToFloat f r sat z = roundTo f r sat e))) ∧
  (∀ (t u : FloatTy) (q : NarrowFmt), widens q.fmt t.fmt = true ∧ widens t.fmt q.fmt = false ∧
    widens t.fmt u.fmt = decide (t = u ∨ u = .f64 ∨ u = .f32 ∧ t ≠ .f64)) ∧
  let formats := [fmtF64, fmtF32, fmtBf16, fmtF16, fmtE4m3, fmtE5m2, fmtE2m3, fmtE3m2, fmtE2m1]
  ∀ src ∈ formats, ∀ dst ∈ formats, ∀ (r : Round) (sat : Bool) (a : Nat),
    let out := convertFloat src dst r sat a
    match src.decode a with
    | .nan sg => out = if dst.kind = .finite then (0, flagInvalid) else (dst.canonicalNan, signalling [.nan sg])
    | .inf s =>
      if widens src dst then out = (dst.infinity s, 0)
      else match dst.kind with
        | .ieee => out = (if sat then dst.largest s else dst.infinity s, 0)
        | .nanOnly => out = if sat then (dst.largest s, 0) else (dst.canonicalNan, flagInvalid)
        | .finite => out = (dst.largest s, flagInvalid)
    | .fin s x =>
      if widens src dst then ∃ y, out.1 < 2 ^ dst.width ∧ dst.decode out.1 = .fin s y ∧ y.rat = x.rat ∧ out.2 = 0
      else out = if x.rat = 0 then (dst.zero s, 0) else roundTo dst r sat x

/-- R153, sentence by sentence, on the encodings of every floating type. -/
def Obligations.MinMaxAndCompare : Prop :=
  ∀ (t : FloatTy) (a b : Nat), a < 2 ^ t.fmt.width → b < 2 ^ t.fmt.width →
    let f := t.fmt
    let va := f.decode a
    let vb := f.decode b
    let signalling : Prop := va = .nan true ∨ vb = .nan true
    (∀ larger,
      (va.isNan = true → vb.isNan = true → (floatMinMax f larger a b).1 = f.canonicalNan) ∧
      (va.isNan = true → vb.isNan = false → (floatMinMax f larger a b).1 = b) ∧
      (va.isNan = false → vb.isNan = true → (floatMinMax f larger a b).1 = a) ∧
      (signalling → (floatMinMax f larger a b).2 = flagInvalid) ∧
      (¬signalling → (floatMinMax f larger a b).2 = 0)) ∧
    (va.isNan = false → vb.isNan = false →
      (va.compare vb < 0 → (floatMinMax f false a b).1 = a ∧ (floatMinMax f true a b).1 = b) ∧
      (0 < va.compare vb → (floatMinMax f false a b).1 = b ∧ (floatMinMax f true a b).1 = a) ∧
      (a = f.zero true → b = f.zero false → (floatMinMax f false a b).1 = a ∧ (floatMinMax f true a b).1 = b) ∧
      (a = f.zero false → b = f.zero true → (floatMinMax f false a b).1 = b ∧ (floatMinMax f true a b).1 = a) ∧
      (va.compare vb = 0 → ∀ larger, (floatMinMax f larger a b).1 = a ∨ (floatMinMax f larger a b).1 = b)) ∧
    (compareWord t .eq a b).1 = (if va.isNan = false ∧ vb.isNan = false ∧ va.compare vb = 0 then 1 else 0) ∧
    (compareWord t .lt a b).1 = (if va.isNan = false ∧ vb.isNan = false ∧ va.compare vb < 0 then 1 else 0) ∧
    (compareWord t .le a b).1 = (if va.isNan = false ∧ vb.isNan = false ∧ va.compare vb ≤ 0 then 1 else 0) ∧
    (compareWord t .eq a b).2 = (if va = .nan true ∨ vb = .nan true then flagInvalid else 0) ∧
    (compareWord t .lt a b).2 = (if va.isNan = true ∨ vb.isNan = true then flagInvalid else 0) ∧
    (compareWord t .le a b).2 = (if va.isNan = true ∨ vb.isNan = true then flagInvalid else 0) ∧
    f.decode (f.zero true) = .fin true ⟨0, 1 - (f.bias : Int) - f.mbits, 1⟩ ∧
    f.decode (f.zero false) = .fin false ⟨0, 1 - (f.bias : Int) - f.mbits, 1⟩

/-- R154, with the classes read off the fields of R51 and R52. -/
def Obligations.FloatClass : Prop :=
  ∀ (d a : Reg) (t : FloatTy),
    let bit (x : Nat) : Nat :=
      let s := x / 2 ^ (t.fmt.width - 1)
      let e := x / 2 ^ t.fmt.mbits % 2 ^ t.fmt.ebits
      let m := x % 2 ^ t.fmt.mbits
      if e = 2 ^ t.fmt.ebits - 1 then
        if m = 0 then if s = 1 then 0 else 7
        else if m < 2 ^ (t.fmt.mbits - 1) then 8 else 9
      else if e = 0 then
        if m = 0 then if s = 1 then 3 else 4
        else if s = 1 then 2 else 5
      else if s = 1 then 1 else 6
    Runs (.fcls d a t) (fun i => i.setS d (1#64 <<< bit (i.getF t a)))

/-- R62 and R63: what `roundQuotient` does in every direction, by the two neighbours. -/
def Obligations.RoundingDirections : Prop :=
  ∀ (negative : Bool) (n d : Nat), 0 < d →
    (∀ r, (d ∣ n → roundQuotient r negative n d = (n / d, true)) ∧
      (¬d ∣ n → (roundQuotient r negative n d).2 = false ∧
        ((roundQuotient r negative n d).1 = n / d ∨ (roundQuotient r negative n d).1 = n / d + 1))) ∧
    (¬d ∣ n →
      (roundQuotient .rtz negative n d).1 = n / d ∧
      (roundQuotient .rdn negative n d).1 = (if negative then n / d + 1 else n / d) ∧
      (roundQuotient .rup negative n d).1 = (if negative then n / d else n / d + 1) ∧
      (roundQuotient .rod negative n d).1 % 2 = 1 ∧
      (∀ q : Int, |(n : Int) - (roundQuotient .rne negative n d).1 * d| ≤ |(n : Int) - q * d|) ∧
      (2 * (n % d) = d → (roundQuotient .rne negative n d).1 % 2 = 0))

/-- R51, R52, R62 to R64, R66: decode and round agree on every representable number, and every other number is rounded once; an
error in a bias, a width, the subnormal exponent, the overflow bound or a flag would make it false. -/
def Obligations.RepresentableUnchanged : Prop :=
  let formats := [fmtF64, fmtF32, fmtBf16, fmtF16, fmtE4m3, fmtE5m2, fmtE2m3, fmtE3m2, fmtE2m1]
  let maxima : List ℚ := [(2 - 2 ^ (-52 : ℤ)) * 2 ^ 1023, (2 - 2 ^ (-23 : ℤ)) * 2 ^ 127, (2 - 2 ^ (-7 : ℤ)) * 2 ^ 127, 65504,
    448, 57344, 7.5, 28, 6]
  (∀ f ∈ formats, ∀ (a : Nat) (s : Bool) (x : Exact), a < 2 ^ f.width → f.decode a = .fin s x → x.num ≠ 0 →
    ∀ (r : Round) (sat : Bool), roundTo f r sat x = (a, 0)) ∧
  ∀ (f : FFmt) (top : ℚ), (f, top) ∈ formats.zip maxima →
    (∀ s, ∃ y, f.decode (f.largest s) = .fin s y ∧ y.rat = if s then -top else top) ∧
    ∀ (r : Round) (sat : Bool) (x : Exact), 0 < x.den → x.rat ≠ 0 →
      let out := roundTo f r sat x
      let s := decide (x.rat < 0)
      let emin : ℤ := 1 - f.bias
      let unit (k : ℤ) : ℚ := 2 ^ (k - f.mbits)
      ∃ b q₀ q : ℤ, 2 ^ b ≤ |x.rat| ∧ |x.rat| < 2 ^ (b + 1) ∧ roundsTo r (x.rat / unit b) q₀ ∧
        roundsTo r (x.rat / unit (max b emin)) q ∧
        (top < |q₀| * unit b →
          let away : Prop := r = .rne ∨ r = .rdn ∧ x.rat < 0 ∨ r = .rup ∧ 0 < x.rat
          (away ∧ sat = false → out.1 = match f.kind with
            | .ieee => f.infinity s
            | .nanOnly => f.canonicalNan
            | .finite => f.largest s) ∧
          (¬(away ∧ sat = false) → out.1 = f.largest s) ∧ out.2 = flagOverflow ||| flagInexact) ∧
        (|q₀| * unit b ≤ top → ∃ y, out.1 < 2 ^ f.width ∧ f.decode out.1 = .fin s y ∧ y.rat = q * unit (max b emin) ∧
          out.2 = if y.rat = x.rat then 0
            else if |q₀| * unit b < 2 ^ emin then flagUnderflow ||| flagInexact else flagInexact)

/-- R155 to R157: where each of them continues. -/
def Obligations.BranchesAndJumps : Prop :=
  let go (w : Instr) (o : VAddr) (test : Inst → Prop) : Prop :=
    (RunsWhen w (fun _ i => test i) (fun _ c i => { i with pc := c.addr + o * 4 })) ∧
    (RunsWhen w (fun _ i => ¬test i) (fun _ _ i => i))
  (∀ (a b : Reg) (o : BitVec 27),
    go (.beq a b o) (o.signExtend 72) (fun i => i.getS a = i.getS b) ∧
    go (.bne a b o) (o.signExtend 72) (fun i => i.getS a ≠ i.getS b) ∧
    go (.bltI64 a b o) (o.signExtend 72) (fun i => (i.getS a).toInt < (i.getS b).toInt) ∧
    go (.bgeI64 a b o) (o.signExtend 72) (fun i => (i.getS b).toInt ≤ (i.getS a).toInt) ∧
    go (.bltN64 a b o) (o.signExtend 72) (fun i => (i.getS a).toNat < (i.getS b).toNat) ∧
    go (.bgeN64 a b o) (o.signExtend 72) (fun i => (i.getS b).toNat ≤ (i.getS a).toNat) ∧
    go (.bbs a b o) (o.signExtend 72) (fun i => (i.getS a).getLsbD ((i.getS b).toNat % 64) = true) ∧
    go (.bbc a b o) (o.signExtend 72) (fun i => (i.getS a).getLsbD ((i.getS b).toNat % 64) = false)) ∧
  (∀ (a : Reg) (b : BitVec 5) (o : BitVec 27),
    go (.beqImm a b o) (o.signExtend 72) (fun i => i.getS a = b.signExtend 64) ∧
    go (.bneImm a b o) (o.signExtend 72) (fun i => i.getS a ≠ b.signExtend 64) ∧
    go (.bltI64Imm a b o) (o.signExtend 72) (fun i => (i.getS a).toInt < b.toInt) ∧
    go (.bgeI64Imm a b o) (o.signExtend 72) (fun i => b.toInt ≤ (i.getS a).toInt) ∧
    go (.bltN64Imm a b o) (o.signExtend 72) (fun i => (i.getS a).toNat < (b.signExtend 64).toNat) ∧
    go (.bgeN64Imm a b o) (o.signExtend 72) (fun i => (b.signExtend 64).toNat ≤ (i.getS a).toNat) ∧
    go (.bbsImm a b o) (o.signExtend 72) (fun i => (i.getS a).getLsbD b.toNat = true) ∧
    go (.bbcImm a b o) (o.signExtend 72) (fun i => (i.getS a).getLsbD b.toNat = false)) ∧
  (∀ o : BitVec 35, RunsWhen (.j o) (fun _ _ => True) (fun _ c i => { i with pc := c.addr + o.signExtend 72 * 4 })) ∧
  (∀ (a : Reg) (m : BitVec 10),
    RunsWhen (.jt a m) (fun _ i => (i.getS a).toNat < m.toNat + 1)
      (fun _ c i => { i with pc := c.addr + 4 + BitVec.ofNat 72 (4 * (i.getS a).toNat) }) ∧
    RunsWhen (.jt a m) (fun _ i => m.toNat + 1 ≤ (i.getS a).toNat)
      (fun _ c i => { i with pc := c.addr + 4 + BitVec.ofNat 72 (4 * (m.toNat + 1)) }))

/-- R139 (with R159, R160, R162): reads take the latest pending write of the instance. -/
def Obligations.PendingWritesReadBack : Prop :=
  ∀ i : Inst,
    (∀ k w n, (i.withEffect (.frameWord k w)).pendingWord n = if n = k then some w else i.pendingWord n) ∧
    (∀ k w o, (i.withEffect (.frameWord k w)).pendingByte o = i.pendingByte o) ∧
    (∀ j v m, m < 32 →
      (i.withEffect (.frameVector j v)).pendingWord (64 + 32 * j + m) = some (v.extractLsb' (64 * m) 64)) ∧
    (∀ j v n, ¬(64 + 32 * j ≤ n ∧ n < 96 + 32 * j) →
      (i.withEffect (.frameVector j v)).pendingWord n = i.pendingWord n) ∧
    (∀ j v o, (i.withEffect (.frameVector j v)).pendingByte o = i.pendingByte o) ∧
    (∀ o n v k, k < n →
      (i.withEffect (.scratch (bytesAt o n v))).pendingByte (o + k) = some (BitVec.ofNat 8 (v / 256 ^ k))) ∧
    (∀ o n v p, ¬(o ≤ p ∧ p < o + n) → (i.withEffect (.scratch (bytesAt o n v))).pendingByte p = i.pendingByte p) ∧
    (∀ bs n, (i.withEffect (.scratch bs)).pendingWord n = i.pendingWord n)

/-- R159 to R161: the forms of major 0x10. -/
def Obligations.FrameAccessForms : Prop :=
  ∀ (d a : Reg) (m : BitVec 27),
    (∀ (k : Nat) (w : W64), RunsWhen (.fld d a m)
      (fun s i => baseOffset (i.getS a) m = k ∧ k < (if (s.frameOf i).desc.large then 256 else 64) ∧ s.wordSeen i k = some w)
      (fun _ _ i => i.setS d w)) ∧
    (∀ k : Nat, RunsWhen (.fst d a m)
      (fun s i => baseOffset (i.getS a) m = k ∧ k < (if (s.frameOf i).desc.large then 256 else 64) ∧ i.nEff < 32)
      (fun _ _ i => i.withEffect (.frameWord k (i.getS d)))) ∧
    (∀ (j : Nat) (v : VWord), RunsWhen (.fldv d a m)
      (fun s i => baseOffset (i.getS a) m = j ∧ j ≤ 5 ∧ (s.frameOf i).desc.large = true ∧
        ∀ n, n < 32 → s.wordSeen i (64 + 32 * j + n) = some (v.extractLsb' (64 * n) 64))
      (fun _ _ i => i.setV d v)) ∧
    (∀ j : Nat, RunsWhen (.fstv d a m)
      (fun s i => baseOffset (i.getS a) m = j ∧ j ≤ 5 ∧ (s.frameOf i).desc.large = true ∧ i.nEff < 32)
      (fun _ _ i => i.withEffect (.frameVector j (i.getV d)))) ∧
    RunsWhen (.fldFsw d) (fun _ _ => True) (fun s _ i => i.setS d (s.frameOf i).fsw)

/-- R162 and R163: the forms of majors 0x11 to 0x13. -/
def Obligations.ScratchAccessForms : Prop :=
  (∀ (d a : Reg) (t : LoadTy) (m : BitVec 27) (o : Nat) (bs : List Byte), RunsWhen (.sld d a t m)
    (fun s i => baseOffset (i.getS a) m = o ∧ o + t.bytes ≤ s.scratchBound i.key.ctx ∧
      (upFrom o t.bytes).map (s.scratchSeen i) = bs.map some)
    (fun _ _ i => i.setS d (extendTo64 t.signed (8 * t.bytes) (numberOf bs)))) ∧
  (∀ (d a : Reg) (t : Size) (m : BitVec 27) (o : Nat), RunsWhen (.sst d a t m)
    (fun s i => baseOffset (i.getS a) m = o ∧ o + t.bytes ≤ s.scratchBound i.key.ctx ∧ i.nEff < 32)
    (fun _ _ i => i.withEffect (.scratch (bytesAt o t.bytes (i.getS d).toNat)))) ∧
  (∀ (d a b : Reg) (k : MReg) (t : ElemTy) (x : Nat → Nat) (off : Nat → Nat) (w : Instr),
    (w = .sldv d a b k t ∨ w = .sldx d a b k t) →
    RunsWhen w
      (fun s i => (∀ j, off j = (if w = .sldv d a b k t then (i.getS a).toNat + (i.getS b).toNat + j * (t.width / 8)
          else (i.getS a).toNat + elemAt 32 (i.getV b) j * (t.width / 8))) ∧
        ∀ j, j < elemCount t.width → active (i.getM k) j = true →
          off j + t.width / 8 ≤ s.scratchBound i.key.ctx ∧
          ∃ bs, (upFrom (off j) (t.width / 8)).map (s.scratchSeen i) = bs.map some ∧ numberOf bs = x j)
      (fun _ _ i => i.setV d (masked false (i.getM k) t.width (i.getV d) x))) ∧
  (∀ (d a b : Reg) (k : MReg) (t : ElemTy) (off : Nat → Nat) (w : Instr),
    (w = .sstv d a b k t ∨ w = .sstx d a b k t) →
    RunsWhen w
      (fun s i => (∀ j, off j = (if w = .sstv d a b k t then (i.getS a).toNat + (i.getS b).toNat + j * (t.width / 8)
          else (i.getS a).toNat + elemAt 32 (i.getV b) j * (t.width / 8))) ∧
        (∀ j, j < elemCount t.width → active (i.getM k) j = true → off j + t.width / 8 ≤ s.scratchBound i.key.ctx) ∧
        i.nEff < 32)
      (fun _ _ i => i.withEffect (.scratch
        (((upFrom 0 (elemCount t.width)).filter (fun j => active (i.getM k) j)).flatMap
          (fun j => bytesAt (off j) (t.width / 8) (elemAt t.width (i.getV d) j))))))

/-- R164: the scratch atomics. `bs` are the bytes seen; `new` is what the operation makes of the number that they form. A byte
taken from scratch is recorded with the value seen: in a race of R196 the contents that `State.scratchFor` chooses (log 65, DESIGN
CHOICE). -/
def Obligations.ScratchAtomicForms : Prop :=
  ∀ (d a b c : Reg) (w u : Bool),
    let e : Nat := if w then 8 else 4
    let val (i : Inst) (r : Reg) : Nat := (i.getS r).toNat % 2 ^ (8 * e)
    let less (x y : Nat) : Prop := if u then x < y else signedOf (8 * e) x < signedOf (8 * e) y
    let form (word : Instr) (new : Inst → Nat → Option Nat) : Prop :=
      ∀ (o : Nat) (bs : List Byte), RunsWhen word
        (fun s i => (i.getS a).toNat = o ∧ o % e = 0 ∧ o + e ≤ s.scratchBound i.key.ctx ∧ i.nEff < 32 ∧
          (upFrom o e).map (s.scratchSeen i) = bs.map some)
        (fun s _ i =>
          let taken := ((upFrom o e).filter (fun p => (i.pendingByte p).isNone)).map
            (fun p => (p, (s.scratchFor i.site i.key.ctx).byte (scratchKey i.site i.key.ctx p)))
          let i1 := { i with recorded := i.recorded ++ taken }
          let i2 := i1.withEffect (match new i (numberOf bs) with
            | some v => .scratch (bytesAt o e v)
            | none => .nothing)
          i2.setS d (BitVec.ofNat 64 (numberOf bs)))
    form (.samoAdd d a b w) (fun i old => some (old + val i b)) ∧
    form (.samoAnd d a b w) (fun i old => some (old &&& val i b)) ∧
    form (.samoOr d a b w) (fun i old => some (old ||| val i b)) ∧
    form (.samoXor d a b w) (fun i old => some (old ^^^ val i b)) ∧
    (∀ new : Inst → Nat → Option Nat,
      (∀ i old, (less (val i b) old → new i old = some (val i b)) ∧ (¬less (val i b) old → new i old = some old)) →
      form (.samoMin d a b w u) new) ∧
    (∀ new : Inst → Nat → Option Nat,
      (∀ i old, (less old (val i b) → new i old = some (val i b)) ∧ (¬less old (val i b) → new i old = some old)) →
      form (.samoMax d a b w u) new) ∧
    form (.samoSwap d a b w) (fun i _ => some (val i b)) ∧
    form (.samoCas d a b c w) (fun i old => if old = val i c then some (val i b) else none)

/-- R159, R160, R162 to R164, R80, R40: where frame accesses and scratch accesses fault. Unreduced sums are log 9 (DEDUCED), the
operand checks before EFFECT_BUDGET log 22 (DEDUCED), samo's SCRATCH_RANGE before SCRATCH_ALIGN and lane 0 of fldv's
POISON_CONSUMED log 58 (DESIGN CHOICE). -/
def Obligations.FrameAndScratchTraps : Prop :=
  (∀ (d a : Reg) (m : BitVec 27),
      let words (s : State) (i : Inst) : Int := if (s.frameOf i).desc.large then 256 else 64
      let outside (s : State) (i : Inst) : Prop :=
        baseOffset (i.getS a) m < 0 ∨ words s i ≤ baseOffset (i.getS a) m
      let noVector (s : State) (i : Inst) : Prop :=
        (s.frameOf i).desc.large = false ∨ baseOffset (i.getS a) m < 0 ∨ 5 < baseOffset (i.getS a) m
      let range (_ : State) (i : Inst) : Trap :=
        { cause := .frameRange, value := BitVec.ofInt 64 (baseOffset (i.getS a) m) }
      Traps (.fld d a m) outside range ∧
      Traps (.fst d a m) outside range ∧
      Traps (.fldv d a m) noVector range ∧
      Traps (.fstv d a m) noVector range ∧
      Traps (.fld d a m) (fun s i => ¬outside s i ∧ s.wordSeen i (baseOffset (i.getS a) m).toNat = none)
        (fun _ _ => { cause := .poisonConsumed }) ∧
      Traps (.fldv d a m) (fun s i => ¬noVector s i ∧
          ∃ n, n < 32 ∧ s.wordSeen i (64 + 32 * (baseOffset (i.getS a) m).toNat + n) = none)
        (fun _ _ => { cause := .poisonConsumed }) ∧
      Traps (.fst d a m) (fun s i => ¬outside s i ∧ 32 ≤ i.nEff) (fun _ _ => { cause := .effectBudget }) ∧
      Traps (.fstv d a m) (fun s i => ¬noVector s i ∧ 32 ≤ i.nEff) (fun _ _ => { cause := .effectBudget })) ∧
  (let trap (bound : Nat) (o : Int) (lane : Nat) : Trap :=
      { cause := .scratchRange, lane := lane, faddr := wrapOf 64 (if 0 ≤ o ∧ o < bound then bound else o) }
    let outside (bound : Nat) (o : Int) (n : Nat) : Prop := o < 0 ∨ bound < o + n
    (∀ (d a : Reg) (t : LoadTy) (u : Size) (m : BitVec 27),
      Traps (.sld d a t m) (fun s i => outside (s.scratchBound i.key.ctx) (baseOffset (i.getS a) m) t.bytes)
        (fun s i => trap (s.scratchBound i.key.ctx) (baseOffset (i.getS a) m) 0) ∧
      Traps (.sst d a u m) (fun s i => outside (s.scratchBound i.key.ctx) (baseOffset (i.getS a) m) u.bytes)
        (fun s i => trap (s.scratchBound i.key.ctx) (baseOffset (i.getS a) m) 0) ∧
      Traps (.sst d a u m)
        (fun s i => ¬outside (s.scratchBound i.key.ctx) (baseOffset (i.getS a) m) u.bytes ∧ 32 ≤ i.nEff)
        (fun _ _ => { cause := .effectBudget }) ∧
      (∀ p o : Nat, Traps (.sld d a t m)
        (fun s i => baseOffset (i.getS a) m = o ∧ o + t.bytes ≤ s.scratchBound i.key.ctx ∧ o ≤ p ∧ p < o + t.bytes ∧
          s.scratchSeen i p = none ∧ ∀ q, o ≤ q → q < p → s.scratchSeen i q ≠ none)
        (fun _ _ => { cause := .poisonConsumed, faddr := p }))) ∧
    (∀ (d a b c : Reg) (w u : Bool), ∀ word ∈ [Instr.samoAdd d a b w, .samoAnd d a b w, .samoOr d a b w, .samoXor d a b w,
        .samoMin d a b w u, .samoMax d a b w u, .samoSwap d a b w, .samoCas d a b c w],
      Traps word (fun s i => s.scratchBound i.key.ctx < (i.getS a).toNat + (if w then 8 else 4))
        (fun s i => trap (s.scratchBound i.key.ctx) (i.getS a).toNat 0) ∧
      Traps word
        (fun s i => (i.getS a).toNat + (if w then 8 else 4) ≤ s.scratchBound i.key.ctx ∧
          (i.getS a).toNat % (if w then 8 else 4) ≠ 0)
        (fun _ i => { cause := .scratchAlign, faddr := (i.getS a).toNat }) ∧
      (∀ p o : Nat, Traps word
        (fun s i => (i.getS a).toNat = o ∧ o + (if w then 8 else 4) ≤ s.scratchBound i.key.ctx ∧ o % (if w then 8 else 4) = 0 ∧
          o ≤ p ∧ p < o + (if w then 8 else 4) ∧ s.scratchSeen i p = none ∧ ∀ q, o ≤ q → q < p → s.scratchSeen i q ≠ none)
        (fun _ _ => { cause := .poisonConsumed, faddr := p })) ∧
      Traps word
        (fun s i => (i.getS a).toNat + (if w then 8 else 4) ≤ s.scratchBound i.key.ctx ∧
          (i.getS a).toNat % (if w then 8 else 4) = 0 ∧
          (∀ q, (i.getS a).toNat ≤ q → q < (i.getS a).toNat + (if w then 8 else 4) → s.scratchSeen i q ≠ none) ∧ 32 ≤ i.nEff)
        (fun _ _ => { cause := .effectBudget })) ∧
    (∀ (d a b : Reg) (k : MReg) (t : ElemTy) (j : Nat),
      let e := t.width / 8
      let live (i : Inst) (l : Nat) : Prop := l < elemCount t.width ∧ active (i.getM k) l = true
      let outside (s : State) (i : Inst) (o : Int) : Prop := outside (s.scratchBound i.key.ctx) o e
      let unseen (s : State) (i : Inst) (o : Int) (p : Nat) : Prop :=
        o ≤ p ∧ (p : Int) < o + e ∧ s.scratchSeen i p = none ∧ ∀ q : Nat, o ≤ q → q < p → s.scratchSeen i q ≠ none
      let store (word : Instr) (off : Inst → Nat → Int) : Prop :=
        Traps word (fun s i => live i j ∧ (∀ l, l < j → live i l → ¬outside s i (off i l)) ∧ outside s i (off i j))
          (fun s i => trap (s.scratchBound i.key.ctx) (off i j) j) ∧
        Traps word (fun s i => (∀ l, live i l → ¬outside s i (off i l)) ∧ 32 ≤ i.nEff) (fun _ _ => { cause := .effectBudget })
      let load (word : Instr) (off : Inst → Nat → Int) : Prop :=
        let good (s : State) (i : Inst) (l : Nat) : Prop :=
          ¬outside s i (off i l) ∧ ∀ p : Nat, off i l ≤ p → (p : Int) < off i l + e → s.scratchSeen i p ≠ none
        Traps word (fun s i => live i j ∧ (∀ l, l < j → live i l → good s i l) ∧ outside s i (off i j))
          (fun s i => trap (s.scratchBound i.key.ctx) (off i j) j) ∧
        ∀ p : Nat, Traps word
          (fun s i => live i j ∧ (∀ l, l < j → live i l → good s i l) ∧ ¬outside s i (off i j) ∧ unseen s i (off i j) p)
          (fun _ _ => { cause := .poisonConsumed, lane := j, faddr := p })
      let unit (i : Inst) (l : Nat) : Int := (i.getS a).toNat + (i.getS b).toNat + l * e
      let index (i : Inst) (l : Nat) : Int := (i.getS a).toNat + elemAt 32 (i.getV b) l * e
      load (.sldv d a b k t) unit ∧ load (.sldx d a b k t) index ∧ store (.sstv d a b k t) unit ∧ store (.sstx d a b k t) index) ∧
    (∀ (s : State) (ctx : Nat), s.resident ctx = none → s.scratchBound ctx = 0) ∧
    ∀ s : State, s.scratchBound 0 = 0)

/-- R169, R170 and R178: what `masked`, `maskOf` and `flagsOf` do, lane by lane. -/
def Obligations.LanesUnderMask : Prop :=
  ∀ (m : W64) (z : Bool),
    (∀ (e : Nat) (old : VWord) (res : Nat → Nat) (j : Nat), (1 ≤ e ∧ e ≤ 32 ∨ e = 64) → j < elemCount e →
      ((masked z m e old res).extractLsb' (laneWidth e * j) (laneWidth e)).toNat =
        if active m j then res j % 2 ^ e
        else if z then 0 else (old.extractLsb' (laneWidth e * j) (laneWidth e)).toNat) ∧
    (∀ (n : Nat) (old : W64) (f : Nat → Bool) (j : Nat), n ≤ 64 →
      (maskOf n m old z f).getLsbD j =
        (decide (j < n) && if active m j then f j else if z then false else old.getLsbD j)) ∧
    (∀ (n : Nat) (fl : Nat → BitVec 5) (b : Nat),
      (flagsOf m n fl).getLsbD b = true ↔ ∃ j, j < n ∧ active m j = true ∧ (fl j).getLsbD b = true)

/-- R171 to R175: the results of majors 0x18 to 0x1B. -/
def Obligations.VectorIntegerForms : Prop :=
  ∀ (d a b c : Reg) (k : MReg) (t : IntTy) (z : Bool),
    let arith (v s : Instr) (f : Int → Int → Int) : Prop :=
      Runs v (fun i => i.setV d (masked z (i.getM k) t.width (i.getV d) (fun j => wrapOf t.width
        (f (valueOf t (elemAt t.width (i.getV a) j)) (valueOf t (elemAt t.width (i.getV b) j)))))) ∧
      Runs s (fun i => i.setV d (masked z (i.getM k) t.width (i.getV d) (fun j => wrapOf t.width
        (f (valueOf t (elemAt t.width (i.getV a) j)) (valueOf t ((i.getS b).toNat % 2 ^ t.width))))))
    let bits (w : Instr) (k : MReg) (z : Bool) (f : Nat → Nat → Nat) : Prop :=
      Runs w (fun i => i.setV d (masked z (i.getM k) t.width (i.getV d) (fun j =>
        f (elemAt t.width (i.getV a) j) (elemAt t.width (i.getV b) j))))
    let one (w : Instr) (f : Nat → Nat) : Prop :=
      Runs w (fun i => i.setV d (masked z (i.getM k) t.width (i.getV d) (fun j => f (elemAt t.width (i.getV a) j))))
    arith (.vadd d a b k t z) (.vaddScalar d a b k t z) (fun x y => x + y) ∧
    arith (.vsub d a b k t z) (.vsubScalar d a b k t z) (fun x y => x - y) ∧
    arith (.vmul d a b k t z) (.vmulScalar d a b k t z) (fun x y => x * y) ∧
    arith (.vmulh d a b k t z) (.vmulhScalar d a b k t z) (fun x y => x * y / (2 ^ t.width : Nat)) ∧
    arith (.vmin d a b k t z) (.vminScalar d a b k t z) (fun x y => min x y) ∧
    arith (.vmax d a b k t z) (.vmaxScalar d a b k t z) (fun x y => max x y) ∧
    arith (.vadds d a b k t z) (.vaddsScalar d a b k t z) (fun x y => max (intRange t.signed t.width).1 (min (intRange t.signed t.width).2 (x + y))) ∧
    arith (.vsubs d a b k t z) (.vsubsScalar d a b k t z) (fun x y => max (intRange t.signed t.width).1 (min (intRange t.signed t.width).2 (x - y))) ∧
    bits (.vand d a b k t z) k z (fun x y => x &&& y) ∧
    bits (.vor d a b k t z) k z (fun x y => x ||| y) ∧
    bits (.vxor d a b k t z) k z (fun x y => x ^^^ y) ∧
    bits (.vandn d a b k t z) k z (fun x y => x &&& (2 ^ t.width - 1 - y)) ∧
    bits (.vshl d a b k t z) k z (fun x y => x * 2 ^ (y % t.width)) ∧
    bits (.vshr d a b k t z) k z (fun x y => x / 2 ^ (y % t.width)) ∧
    bits (.vsra d a b k t z) k z (fun x y => wrapOf t.width (signedOf t.width x / (2 ^ (y % t.width) : Nat))) ∧
    bits (.vrol d a b k t z) k z (fun x y => x * 2 ^ (y % t.width) % 2 ^ t.width + x / 2 ^ (t.width - y % t.width)) ∧
    one (.vabs d a k t z) (fun x => wrapOf t.width ((valueOf t x).natAbs : Int)) ∧
    one (.vneg d a k t z) (fun x => wrapOf t.width (-(x : Int))) ∧
    one (.vclz d a k t z) (leadingZeros t.width) ∧
    one (.vpopc d a k t z) (popCount t.width) ∧
    Runs (.vmadd d a b c k t z) (fun i => i.setV d (masked z (i.getM k) t.width (i.getV d) (fun j =>
      elemAt t.width (i.getV a) j * elemAt t.width (i.getV b) j + elemAt t.width (i.getV c) j))) ∧
    Runs (.vsel d a b k t) (fun i => i.setV d (masked false (BitVec.allOnes 64) t.width (i.getV d) (fun j =>
      if active (i.getM k) j then elemAt t.width (i.getV a) j else elemAt t.width (i.getV b) j))) ∧
    bits (.vclmul d a b t z) 0 z (carryless t.width) ∧
    bits (.vclmulh d a b t z) 0 z (fun x y => carryless t.width x y / 2 ^ t.width)

/-- R176 and R177: the results of majors 0x1C to 0x1E, with the flags of the active elements (R68, R69, R170), and what vfrnd
computes. -/
def Obligations.VectorFloatForms : Prop :=
  (∀ (d a b c : Reg) (k : MReg) (t : FloatTy) (r : Round) (z : Bool),
    let va (i : Inst) (j : Nat) : Nat := elemAt t.fmt.width (i.getV a) j
    let vb (i : Inst) (j : Nat) : Nat := elemAt t.fmt.width (i.getV b) j
    let vc (i : Inst) (j : Nat) : Nat := elemAt t.fmt.width (i.getV c) j
    let sb (i : Inst) : Nat := (i.getS b).toNat % 2 ^ t.fmt.width
    let each (w : Instr) (f : Inst → Nat → Flagged) : Prop :=
      Runs w (fun i => (i.setV d (masked z (i.getM k) t.fmt.width (i.getV d) (fun j => (f i j).1))).raise
        (flagsOf (i.getM k) (elemCount t.fmt.width) (fun j => (f i j).2)))
    each (.vfadd d a b k t r z) (fun i j => floatAdd t.fmt r (va i j) (vb i j)) ∧
    each (.vfaddScalar d a b k t r z) (fun i j => floatAdd t.fmt r (va i j) (sb i)) ∧
    each (.vfsub d a b k t r z) (fun i j => floatSub t.fmt r (va i j) (vb i j)) ∧
    each (.vfsubScalar d a b k t r z) (fun i j => floatSub t.fmt r (va i j) (sb i)) ∧
    each (.vfmul d a b k t r z) (fun i j => floatMul t.fmt r (va i j) (vb i j)) ∧
    each (.vfmulScalar d a b k t r z) (fun i j => floatMul t.fmt r (va i j) (sb i)) ∧
    each (.vfdiv d a b k t r z) (fun i j => floatDiv t.fmt r (va i j) (vb i j)) ∧
    each (.vfdivScalar d a b k t r z) (fun i j => floatDiv t.fmt r (va i j) (sb i)) ∧
    each (.vfmin d a b k t z) (fun i j => floatMinMax t.fmt false (va i j) (vb i j)) ∧
    each (.vfminScalar d a b k t z) (fun i j => floatMinMax t.fmt false (va i j) (sb i)) ∧
    each (.vfmax d a b k t z) (fun i j => floatMinMax t.fmt true (va i j) (vb i j)) ∧
    each (.vfmaxScalar d a b k t z) (fun i j => floatMinMax t.fmt true (va i j) (sb i)) ∧
    each (.vfma d a b c k t r z) (fun i j => floatFma t.fmt r (va i j) (vb i j) (vc i j)) ∧
    each (.vfmaScalar d a b c k t r z) (fun i j => floatFma t.fmt r (va i j) (sb i) (vc i j)) ∧
    each (.vfnma d a b c k t r z) (fun i j => floatFnma t.fmt r (va i j) (vb i j) (vc i j)) ∧
    each (.vfnmaScalar d a b c k t r z) (fun i j => floatFnma t.fmt r (va i j) (sb i) (vc i j)) ∧
    each (.vfsqrt d a k t r z) (fun i j => floatSqrt t.fmt r (va i j)) ∧
    each (.vfrnd d a k t r z) (fun i j => floatToIntegral t.fmt r (va i j)) ∧
    each (.vfabs d a k t z) (fun i j => (floatAbsBits t.fmt (va i j), 0)) ∧
    each (.vfneg d a k t z) (fun i j => (floatNegBits t.fmt (va i j), 0)) ∧
    each (.vfsgn d a b k t z) (fun i j => (floatSignBits t.fmt (va i j) (vb i j), 0)) ∧
    each (.vfcls d a k t z) (fun i j => (floatClass t.fmt (va i j), 0))) ∧
  ∀ (t : FloatTy) (r : Round) (a : Nat),
    let out := floatToIntegral t.fmt r a
    match t.fmt.decode a with
    | .nan sg => out = (t.fmt.canonicalNan, signalling [.nan sg])
    | .inf s => out = (t.fmt.infinity s, 0)
    | .fin s x => ∃ (q : ℤ) (y : Exact), roundsTo r x.rat q ∧ out.1 < 2 ^ t.fmt.width ∧ t.fmt.decode out.1 = .fin s y ∧
        y.rat = q ∧ out.2 = 0

/-- R178: the compares, with what a pair of elements gives. -/
def Obligations.VectorCompareForms : Prop :=
  (∀ (d : MReg) (a b : Reg) (k : MReg) (t : ElemTy) (z : Bool),
    let cmp (w : Instr) (p : Rel) (src : Inst → Nat → Nat) : Prop :=
      Runs w (fun i =>
        (i.setM d (maskOf (elemCount t.width) (i.getM k) (i.getM d) z
          (fun j => (compareElems t p (elemAt t.width (i.getV a) j) (src i j)).1))).raise
          (flagsOf (i.getM k) (elemCount t.width)
            (fun j => (compareElems t p (elemAt t.width (i.getV a) j) (src i j)).2)))
    cmp (.vceq d a b k t z) .eq (fun i j => elemAt t.width (i.getV b) j) ∧
    cmp (.vceqScalar d a b k t z) .eq (fun i _ => (i.getS b).toNat % 2 ^ t.width) ∧
    cmp (.vcne d a b k t z) .ne (fun i j => elemAt t.width (i.getV b) j) ∧
    cmp (.vcneScalar d a b k t z) .ne (fun i _ => (i.getS b).toNat % 2 ^ t.width) ∧
    cmp (.vclt d a b k t z) .lt (fun i j => elemAt t.width (i.getV b) j) ∧
    cmp (.vcltScalar d a b k t z) .lt (fun i _ => (i.getS b).toNat % 2 ^ t.width) ∧
    cmp (.vcle d a b k t z) .le (fun i j => elemAt t.width (i.getV b) j) ∧
    cmp (.vcleScalar d a b k t z) .le (fun i _ => (i.getS b).toNat % 2 ^ t.width) ∧
    cmp (.vcgt d a b k t z) .gt (fun i j => elemAt t.width (i.getV b) j) ∧
    cmp (.vcgtScalar d a b k t z) .gt (fun i _ => (i.getS b).toNat % 2 ^ t.width) ∧
    cmp (.vcge d a b k t z) .ge (fun i j => elemAt t.width (i.getV b) j) ∧
    cmp (.vcgeScalar d a b k t z) .ge (fun i _ => (i.getS b).toNat % 2 ^ t.width)) ∧
  (∀ (u : IntTy) (p : Rel) (x y : Nat), compareElems (.int u) p x y =
    (match p with
      | .eq => decide (valueOf u x = valueOf u y)
      | .ne => decide (valueOf u x ≠ valueOf u y)
      | .lt => decide (valueOf u x < valueOf u y)
      | .le => decide (valueOf u x ≤ valueOf u y)
      | .gt => decide (valueOf u y < valueOf u x)
      | .ge => decide (valueOf u y ≤ valueOf u x), 0)) ∧
  (∀ (f : FloatTy) (p : Rel) (x y : Nat),
    let nan : Bool := (f.fmt.decode x).isNan || (f.fmt.decode y).isNan
    (nan = true → (compareElems (.flt f) p x y).1 = decide (p = .ne)) ∧
    (nan = false → (compareElems (.flt f) p x y).1 = p.holds ((f.fmt.decode x).compare (f.fmt.decode y))) ∧
    (compareElems (.flt f) p x y).2 =
      if p = .eq ∨ p = .ne then signals [f.fmt.decode x, f.fmt.decode y] else if nan then flagInvalid else 0)

/-- R179 to R185: the results of major 0x1F; `vbyte` reads a register by bytes (R169), `packedAt` a packed element (R56). That
every element under the scale 0xFF is a quiet NaN, so that not even a signalling E5M2 element raises invalid, is the model's
reading, log 24 (DEDUCED). What `.sat` makes of an infinity in vdqmx and vdqq4, and that vdqq4 raises nothing for a signalling
super-scale where b is 0, is the model's choice, log 64 (DESIGN CHOICE). -/
def Obligations.VectorConvertForms : Prop :=
  (∀ (d a c : Reg) (k : MReg) (x y : ElemTy) (q : NarrowFmt) (t : FloatTy) (r : Round) (sat z : Bool),
    let conv (es ed : Nat) (f : Nat → Flagged) (i : Inst) : Inst :=
      let n := min (elemCount es) (elemCount ed)
      (i.setV d (ofLanes ed ((lanes ed (masked z (i.getM k) ed (i.getV d)
        (fun j => (f (elemAt es (i.getV a) j)).1))).take n))).raise
        (flagsOf (i.getM k) n (fun j => (f (elemAt es (i.getV a) j)).2))
    Runs (.vcvt d a x k y r sat z) (conv x.width y.width (convertElem x y r sat)) ∧
    Runs (.vcvtn d a q k t r sat z) (conv t.fmt.width q.fmt.width (convertFloat t.fmt q.fmt r sat)) ∧
    Runs (.vcvtw d a q k t z) (conv q.fmt.width t.fmt.width (convertFloat q.fmt t.fmt .rne false)) ∧
    Runs (.vqmx d a q t r sat) (fun i =>
      let blocks := if t.fmt.width = 64 then 1 else 2
      let b (n : Nat) := quantiseMX q r sat (((floatElems t (i.getV a)).drop (32 * n)).take 32)
      (i.setV d (BitVec.ofNat 2048
        (packBits q.fmt.width (if blocks = 1 then (b 0).2.1 else (b 0).2.1 ++ (b 1).2.1)
          + (b 0).1 * 2 ^ (8 * 248) + (if blocks = 1 then 0 else (b 1).1) * 2 ^ (8 * 249)))).raise
        (if blocks = 1 then (b 0).2.2 else (b 0).2.2 ||| (b 1).2.2)) ∧
    Runs (.vdqmx d a q t r sat) (fun i =>
      let y (n : Nat) := convertValue t.fmt r sat
        (mxValue q (vbyte (i.getV a) (248 + n / 32)) (packedAt q.fmt.width (i.getV a).toNat n))
      (i.setV d (ofLanes t.fmt.width ((upFrom 0 (elemCount t.fmt.width)).map (fun n => (y n).1)))).raise
        (((upFrom 0 (elemCount t.fmt.width)).map (fun n => (y n).2)).foldl (· ||| ·) 0)) ∧
    Runs (.vqq4 d a c t) (fun i =>
      let b := quantiseQ4N (floatElems t (i.getV a)) (superScale i c)
      (i.setV d (BitVec.ofNat 2048 (packBits 4 b.2.1 + b.1 * 2 ^ (8 * 248)))).raise b.2.2) ∧
    Runs (.vdqq4 d a c t r sat) (fun i =>
      let y (n : Nat) := convertValue t.fmt r sat
        (q4nValue (superScale i c) (vbyte (i.getV a) 248) (packedAt 4 (i.getV a).toNat n))
      (i.setV d (ofLanes t.fmt.width ((upFrom 0 64).map (fun n => (y n).1)))).raise
        (((upFrom 0 64).map (fun n => (y n).2)).foldl (· ||| ·) 0))) ∧
  (∀ (w : Nat) (l : List Nat), packBits w l < 2 ^ (w * l.length) ∧
    ∀ (k x : Nat), l[k]? = some x → packedAt w (packBits w l) k = x % 2 ^ w) ∧
  let rat := Exact.rat
  let emax (q : NarrowFmt) : Int := match q with
    | .e4m3 => 8 | .e5m2 => 15 | .e2m3 => 2 | .e3m2 => 4 | .e2m1 => 2
  let sound (l : List FVal) : Prop := ∀ t x, FVal.fin t x ∈ l → 0 < x.den
  let clean (l : List FVal) : Prop := ∀ sg, FVal.nan sg ∉ l
  let greatest (l : List FVal) (m : ℚ) : Prop :=
    (∃ t x, FVal.fin t x ∈ l ∧ |rat x| = m) ∧ ∀ t x, FVal.fin t x ∈ l → |rat x| ≤ m
  let levels : List ℚ := [0.042083740234375, 0.1273193359375, 0.2159423828125, 0.310791015625, 0.416748046875, 0.5419921875,
    0.70751953125, 1]
  let lev (i : Nat) : ℚ := if i < 8 then -levels.getD (7 - i) 0 else levels.getD (i - 8) 0
  (∀ (q : NarrowFmt) (r : Round) (sat : Bool) (l : List FVal),
    (¬clean l → quantiseMX q r sat l = (255, l.map (fun _ => 0), if FVal.nan true ∈ l then 1 else 0)) ∧
    (clean l → sound l → ∃ e : Int, -127 ≤ e ∧ e ≤ 127 ∧
      (let y (v : FVal) : Flagged := convertValue q.fmt r sat (v.scale (-e))
       quantiseMX q r sat l = ((e + 127).toNat, l.map (fun v => (y v).1), l.foldl (fun acc v => acc ||| (y v).2) 0)) ∧
      ((∀ t x, FVal.fin t x ∈ l → rat x = 0) → e = -127) ∧
      ∀ (m : ℚ) (b : Int), greatest l m → (2 : ℚ) ^ b ≤ m → m < (2 : ℚ) ^ (b + 1) → e = max (-127) (min 127 (b - emax q)))) ∧
  (∀ (q : NarrowFmt) (scale code : Nat), mxValue q 255 code = .nan false ∧
    (scale ≠ 255 → (∀ t x, q.fmt.decode code = .fin t x →
        ∃ y, mxValue q scale code = .fin t y ∧ rat y = rat x * (2 : ℚ) ^ ((scale : Int) - 127)) ∧
      ((∀ t x, q.fmt.decode code ≠ .fin t x) → mxValue q scale code = q.fmt.decode code))) ∧
  (∀ (v : FVal) (b code : Nat), code < 16 →
    (∃ y, q4nValue v 0 code = .fin false y ∧ rat y = 0) ∧
    (b ≠ 0 → (∀ sg, q4nValue (.nan sg) b code = .nan sg) ∧
      (∀ t, q4nValue (.inf t) b code = .inf (decide (code < 8) != t)) ∧
      ∀ t x, 0 < x.den → ∃ y, q4nValue (.fin t x) b code = .fin (decide (code < 8) != t) y ∧ 0 < y.den ∧
        rat y = lev code * (b / 255) * rat x)) ∧
  ∀ (l : List FVal) (v : FVal),
    (¬clean l ∨ (∀ t x, v = .fin t x → rat x = 0) → sound [v] → quantiseQ4N l v = (0, l.map (fun _ => 8), 1)) ∧
    ∀ t x, v = .fin t x → 0 < x.den → rat x ≠ 0 → clean l → sound l →
      let infinite : Prop := ∃ g, FVal.inf g ∈ l
      let codes := (quantiseQ4N l v).2.1
      let b := (quantiseQ4N l v).1
      let flags := (quantiseQ4N l v).2.2
      let u : ℚ := b / 255 * rat x
      let want (y : FVal) : ℚ := match y with
        | .inf g => if g != t then -1 else 1
        | .fin _ z => rat z / u
        | .nan _ => 0
      (¬infinite → (∀ g z, FVal.fin g z ∈ l → rat z = 0) → quantiseQ4N l v = (0, l.map (fun _ => 8), 0)) ∧
      ∀ m : ℚ, (¬infinite → greatest l m ∧ m ≠ 0) →
        let above : Prop := infinite ∨ |rat x| < m
        (above → b = 255) ∧ (¬above → (b : Int) = ⌈255 * (m / |rat x|)⌉) ∧ codes.length = l.length ∧
        (∀ (k : Nat) (y : FVal) (c : Nat), l[k]? = some y → codes[k]? = some c → c < 16 ∧ ∀ i, i < 16 → i ≠ c →
          |lev c - want y| < |lev i - want y| ∨ (|lev c - want y| = |lev i - want y| ∧ c % 2 = 0)) ∧
        (flags.getLsbD 0 = true ↔ infinite) ∧ flags.getLsbD 1 = false ∧ (flags.getLsbD 2 = true ↔ above) ∧
        flags.getLsbD 3 = false ∧
        (flags.getLsbD 4 = true ↔ above ∨ ∃ (k c : Nat) (g : Bool) (z : Exact), l[k]? = some (.fin g z) ∧ codes[k]? = some c ∧
          lev c * u ≠ rat z)

/-- R186, R189 and R190: the results of majors 0x22, 0x25 and 0x26. -/
def Obligations.PermuteMaskAndMoveForms : Prop :=
  (∀ (d a b : Reg) (k : MReg) (t : ElemTy) (z : Bool),
    let e := t.width
    let n := elemCount e
    let each (w : Instr) (k : MReg) (z : Bool) (f : Inst → Nat → Nat) : Prop :=
      Runs w (fun i => i.setV d (masked z (i.getM k) e (i.getV d) (f i)))
    each (.vperm d a b k t z) k z (fun i j => elemAt e (i.getV a) (elemAt e (i.getV b) j % n)) ∧
    each (.vbcst d b k t z) k z (fun i _ => (i.getS b).toNat % 2 ^ e) ∧
    each (.vslup d a b k t z) k z (fun i j => if (i.getS b).toNat ≤ j then elemAt e (i.getV a) (j - (i.getS b).toNat) else 0) ∧
    each (.vsldn d a b k t z) k z (fun i j => if j + (i.getS b).toNat < n then elemAt e (i.getV a) (j + (i.getS b).toNat) else 0) ∧
    Runs (.vcompr d a k t) (fun i => i.setV d (ofLanes e
      (((upFrom 0 n).filter (fun j => active (i.getM k) j)).map (fun j => elemAt e (i.getV a) j)))) ∧
    each (.vexpn d a k t z) k z (fun i j => elemAt e (i.getV a) ((upFrom 0 j).filter (fun l => active (i.getM k) l)).length) ∧
    each (.vzip d a b k t z) k z (fun i j => elemAt e (i.getV (if j % 2 = 0 then a else b)) (j / 2)) ∧
    each (.vunzip d a b k t z) k z (fun i j =>
      if 2 * j < n then elemAt e (i.getV a) (2 * j) else elemAt e (i.getV b) (2 * j - n)) ∧
    each (.vmov d a k t z) k z (fun i j => elemAt e (i.getV a) j) ∧
    Runs (.vins d a b t) (fun i =>
      i.setV d (ofLanes e ((lanes e (i.getV d)).set ((i.getS b).toNat % n) ((i.getS a).toNat % 2 ^ e)))) ∧
    Runs (.vext d a b t) (fun i => i.setS d (extendTo64 (ElemTy.extends t) e
      (elemAt e (i.getV a) ((i.getS b).toNat % n))))) ∧
  (∀ (d : Reg) (k : MReg) (t : IntTy) (z : Bool),
    Runs (.vmovLane d k t z) (fun i => i.setV d (masked z (i.getM k) t.width (i.getV d) (fun j => j)))) ∧
  (∀ d a b : MReg,
    Runs (.mand d a b) (fun i => i.setM d (i.getM a &&& i.getM b)) ∧
    Runs (.mor d a b) (fun i => i.setM d (i.getM a ||| i.getM b)) ∧
    Runs (.mxor d a b) (fun i => i.setM d (i.getM a ^^^ i.getM b)) ∧
    Runs (.mandn d a b) (fun i => i.setM d (i.getM a &&& ~~~i.getM b)) ∧
    Runs (.mnot d a) (fun i => i.setM d (~~~i.getM a))) ∧
  (∀ (d : Reg) (a : MReg),
    Runs (.mpopc d a) (fun i => i.setS d (BitVec.ofNat 64 ((List.range 64).filter (fun k => (i.getM a).getLsbD k)).length)) ∧
    Runs (.mgets d a) (fun i => i.setS d (i.getM a)) ∧
    Runs (.msets a d) (fun i => i.setM a (i.getS d)))

/-- R187 and R188: the results of majors 0x23 and 0x24 in terms of the tree and the run. -/
def Obligations.ReductionAndScanForms : Prop :=
  (∀ (d a : Reg) (k : MReg) (t : ElemTy) (u : IntTy) (z : Bool),
    let levels (t : ElemTy) : Nat := if t.width = 64 then 5 else 6
    let reduce (w : Instr) (o : RedOp) (t : ElemTy) : Prop :=
      Runs w (fun i =>
        let r := treeReduce (o.apply t) (levels t)
          ((upFrom 0 (elemCount t.width)).map (fun j => if active (i.getM k) j then some (elemAt t.width (i.getV a) j) else none)) 0
        (i.setS d (extendTo64 (ElemTy.extends t) t.width (r.1.getD (o.identity t)))).raise r.2)
    let scan (w : Instr) (o : RedOp) (t : ElemTy) : Prop :=
      Runs w (fun i =>
        let r := scanFrom (o.apply t) (i.getM k) none ((upFrom 0 (elemCount t.width)).map (fun j => (elemAt t.width (i.getV a) j, j)))
        (i.setV d (masked z (i.getM k) t.width (i.getV d) (fun j => r.1.getD j 0))).raise r.2)
    reduce (.vredAdd d a k t) .add t ∧ reduce (.vredMin d a k t) .min t ∧ reduce (.vredMax d a k t) .max t ∧
    reduce (.vredAnd d a k u) .and (.int u) ∧ reduce (.vredOr d a k u) .or (.int u) ∧ reduce (.vredXor d a k u) .xor (.int u) ∧
    scan (.vscanAdd d a k t z) .add t ∧ scan (.vscanMin d a k t z) .min t ∧ scan (.vscanMax d a k t z) .max t ∧
    scan (.vscanXor d a k u z) .xor (.int u))

/-- R70's pseudocode level by level, R188's run and the matrix sum of R71 to R73, against the list recursions of the model. -/
def Obligations.ReductionTree : Prop :=
  (∀ (op : Nat → Nat → Flagged) (levels : Nat) (x : Nat → Nat) (act : Nat → Bool),
    let level (s : (Nat → Nat) × (Nat → Bool)) : (Nat → Nat) × (Nat → Bool) :=
      (fun i => if s.2 (2 * i) && s.2 (2 * i + 1) then (op (s.1 (2 * i)) (s.1 (2 * i + 1))).1
        else if s.2 (2 * i + 1) then s.1 (2 * i + 1) else s.1 (2 * i),
       fun i => s.2 (2 * i) || s.2 (2 * i + 1))
    let last := level^[levels] (x, act)
    (treeReduce op levels ((List.range (2 ^ levels)).map (fun j => if act j then some (x j) else none)) 0).1 =
      if last.2 0 then some (last.1 0) else none) ∧
  (∀ (op : Nat → Nat → Flagged) (m : W64) (l : List Nat) (j : Nat) (y : Nat), active m j = true →
    (scanFrom op m none l.zipIdx).1[j]? = some y →
    ∃ first rest, ((l.zipIdx.take (j + 1)).filter (fun e => active m e.2)).map (·.1) = first :: rest ∧
      y = rest.foldl (fun run e => (op run e).1) first) ∧
  let rat := Exact.rat
  (∀ (g c : Nat) (ps qs : List FVal), 0 < g → matrixElement g c [] = c ∧
    (0 < ps.length → ps.length ≤ g → matrixElement g c ps = (floatAdd fmtF64 .rne c (groupValue ps)).1) ∧
    (ps.length % g = 0 → matrixElement g c (ps ++ qs) = matrixElement g (matrixElement g c ps) qs)) ∧
  (∀ (a b : FVal),
    ((∃ sg, a = .nan sg ∨ b = .nan sg) → a.mul b = .nan false) ∧
    (∀ h t, a = .inf h → b = .inf t → a.mul b = .inf (h != t)) ∧
    (∀ h t x, 0 < x.den → (a = .inf h ∧ b = .fin t x) ∨ (a = .fin t x ∧ b = .inf h) →
      (rat x = 0 → a.mul b = .nan false) ∧ (rat x ≠ 0 → a.mul b = .inf (h != t))) ∧
    (∀ h t x y, a = .fin h x → b = .fin t y → 0 < x.den → 0 < y.den →
      ∃ z, a.mul b = .fin (h != t) z ∧ 0 < z.den ∧ rat z = rat x * rat y)) ∧
  (∀ (ps : List FVal), ps ≠ [] → (∀ h x, FVal.fin h x ∈ ps → 0 < x.den) →
    let nan : Prop := (∃ sg, FVal.nan sg ∈ ps) ∨ (FVal.inf true ∈ ps ∧ FVal.inf false ∈ ps)
    let total : ℚ := (ps.map (fun v => match v with | .fin _ x => rat x | _ => 0)).sum
    (nan → groupValue ps = 0x7FF8000000000000) ∧
    (¬nan → FVal.inf true ∈ ps → groupValue ps = 0xFFF0000000000000) ∧
    (¬nan → FVal.inf false ∈ ps → groupValue ps = 0x7FF0000000000000) ∧
    ((∀ v ∈ ps, ∃ h x, v = .fin h x) →
      (total ≠ 0 → ∃ z, 0 < z.den ∧ rat z = total ∧ groupValue ps = (roundTo fmtF64 .rne false z).1) ∧
      (total = 0 → (∀ v ∈ ps, ∃ x, v = .fin true x ∧ rat x = 0) → groupValue ps = 2 ^ 63) ∧
      (total = 0 → ¬(∀ v ∈ ps, ∃ x, v = .fin true x ∧ rat x = 0) → groupValue ps = 0))) ∧
  ∀ a b : Nat, a ≤ 0x10 → b ≤ 0x10 →
    let mx (c : Nat) : Prop := 9 ≤ c ∧ c ≤ 13
    let own (c : Nat) : Nat := if c = 0 then 2 else if c = 1 then 4 else if c ≤ 3 then 8 else 16
    (mx a ∨ mx b → groupSize a b = 32) ∧ (¬(mx a ∨ mx b) → a = 16 ∨ b = 16 → groupSize a b = 64) ∧
    (¬(mx a ∨ mx b) → a ≠ 16 → b ≠ 16 → groupSize a b = min (own a) (own b))

/-- R240 and R242: the sending instructions. `sent` says what the pending token holds. -/
def Obligations.SendForms : Prop :=
  let sent (s1 s : State) (c : Cur) (i : Inst) (w : Instr) (k : Checked) (r : W64) (slot : SlotNo) (kind idx : Nat)
      (rels : Option Scope) (p : Payload) : Prop :=
    ∃ t : Token, exec w s = .next (s1.putInst ((i.past c).withEffect (.token t (r.getLsbD 55) (c.at_ i)))) ∧
      t.key = ⟨i.key.ctx, (r.toNat / 2 ^ 32) % 2 ^ 12, r.setWidth 32⟩ ∧ t.slot = slot.toNat ∧ t.kind = kind ∧ t.idx = idx ∧
      t.rels = rels ∧ t.payload = p ∧ t.epoch = r.getLsbD 56 ∧ t.lid = (s.frameOf i).lid ∧ t.scell = i.site ∧
      t.source = .send ∧ t.phase = .offered ∧ t.committed = false ∧
      t.dcell = (if k.ring then ringmaster else (r.toNat / 2 ^ 44) % 2 ^ 11) ∧
      t.remote = k.remote.map (fun m => (m.pkg, m.port))
  ∀ (s : State) (c : Cur) (i : Inst), s.executes c i → i.nEff < 32 →
    ∀ (p a b : Reg) (slot : SlotNo) (rels : Option Scope) (s1 : State) (k : Checked),
      (∀ idx : BitVec 8, s.checkRef i.site i.key.ctx (i.getS a) true = (s1, .ok k) → (k.large = true ∨ idx.toNat < 64) →
        sent s1 s c i (.send a b slot idx rels) k (i.getS a) slot 1 idx.toNat rels (.word (i.getS b))) ∧
      (∀ idx : BitVec 3, s.checkRef i.site i.key.ctx (i.getS a) true = (s1, .ok k) → k.large = true →
        sent s1 s c i (.sendv a b slot idx rels) k (i.getS a) slot 2 idx.toNat rels (.vector (i.getV b) 0)) ∧
      (s.checkRef i.site i.key.ctx (i.getS a) false = (s1, .ok k) →
        sent s1 s c i (.sig a slot rels) k (i.getS a) slot 0 0 rels .none) ∧
      (i.getS p ≠ 0 → s.checkRef i.site i.key.ctx (i.getS a) false = (s1, .ok k) →
        sent s1 s c i (.sw p a b slot rels) k (i.getS a) slot 0 0 rels .none) ∧
      (i.getS p = 0 → s.checkRef i.site i.key.ctx (i.getS b) false = (s1, .ok k) →
        sent s1 s c i (.sw p a b slot rels) k (i.getS b) slot 0 0 rels .none)

/-- R241 and R345: the checks and their faults, and the frame type check of `send` and `sendv`. That these come before
EFFECT_BUDGET is log 22 (DEDUCED), the reserved bits of a remote entry log 61 (DEDUCED). -/
def Obligations.ReferenceChecks : Prop :=
  (∀ (s : State) (site ctx : Nat) (r : W64) (need : Bool),
    let cb := (r.toNat / 2 ^ 32) % 2 ^ 12
    let cellv := r.getLsbD 55
    let inside : Prop := (r.toNat / 2 ^ 44) % 2 ^ 11 ∈ s.senderCells ctx
    (r.toNat / 2 ^ 57 ≠ 0 → s.checkRef site ctx r need = (s, .error { cause := .placementFault })) ∧
    (r.toNat / 2 ^ 57 = 0 → s.codeblock ctx cb = none → (cellv = false ∨ inside) →
      s.checkRef site ctx r need = (s, .error { cause := .codeblockAbsent })) ∧
    (r.toNat / 2 ^ 57 = 0 → cellv = true → ¬inside → (∀ b, s.codeblock ctx cb = some b → b.ring = false) →
      s.checkRef site ctx r need = (s, .error { cause := .placementFault })) ∧
    (∀ (b : Codeblock) (s1 : State) (d : Desc), r.toNat / 2 ^ 57 = 0 → s.codeblock ctx cb = some b → b.ring = false →
      b.remote = none → site ≠ ringmaster → (cellv = false ∨ inside) → s.loadDesc site ctx cb = (s1, .ok d) →
      (need = true ∨ cellv = false) →
      s.checkRef site ctx r need = (s1, .ok ⟨d.large, none, false⟩)) ∧
    (∀ (b : Codeblock), r.toNat / 2 ^ 57 = 0 → s.codeblock ctx cb = some b → b.remote = none →
      (b.ring = false → cellv = false ∨ inside) → (b.ring = false → site = ringmaster → cellv = true) →
      (∀ s1 d, (need = true ∨ cellv = false) → s.loadDesc site ctx cb = (s1, .ok d) →
        s.checkRef site ctx r need = (s1, .ok ⟨d.large, none, b.ring⟩)) ∧
      (∀ s1 t, (need = true ∨ cellv = false) → s.loadDesc site ctx cb = (s1, .error t) →
        s.checkRef site ctx r need = (s1, .error t)) ∧
      (need = false → cellv = true → s.checkRef site ctx r need = (s, .ok ⟨false, none, b.ring⟩))) ∧
    (∀ (b : Codeblock), r.toNat / 2 ^ 57 = 0 → s.codeblock ctx cb = some b → b.ring = false → b.remote = none →
      site = ringmaster → cellv = false → s.checkRef site ctx r need = (s, .error { cause := .placementFault })) ∧
    (∀ (b : Codeblock) (m : Remote), r.toNat / 2 ^ 57 = 0 → s.codeblock ctx cb = some b → b.ring = false → b.remote = some m →
      (cellv = true → inside → s.checkRef site ctx r need = (s, .error { cause := .placementFault })) ∧
      (cellv = false → b.sound = false → s.checkRef site ctx r need = (s, .error { cause := .codeblockDesc })) ∧
      (cellv = false → b.sound = true → s.checkRef site ctx r need = (s, .ok ⟨m.large, some m, false⟩))) ∧
    s.onlyLoads (s.checkRef site ctx r need).1) ∧
  (∀ (s s1 : State) (c : Cur) (i : Inst), s.executes c i →
    ∀ (p a b : Reg) (slot : SlotNo) (rels : Option Scope),
      let faults (w : Instr) (t : Trap) : Prop := exec w s = .next (s1.takeFault i (c.at_ i) t)
      (∀ t, (s.checkRef i.site i.key.ctx (i.getS a) false = (s1, .error t) → faults (.sig a slot rels) t) ∧
        (s.checkRef i.site i.key.ctx (if i.getS p ≠ 0 then i.getS a else i.getS b) false = (s1, .error t) →
          faults (.sw p a b slot rels) t) ∧
        (s.checkRef i.site i.key.ctx (i.getS a) true = (s1, .error t) →
          (∀ idx, faults (.send a b slot idx rels) t) ∧ ∀ idx, faults (.sendv a b slot idx rels) t)) ∧
      (∀ k, s.checkRef i.site i.key.ctx (i.getS a) true = (s1, .ok k) →
        (∀ idx : BitVec 8, k.large = false → 64 ≤ idx.toNat →
          faults (.send a b slot idx rels) { cause := .frameRange, value := idx.setWidth 64 }) ∧
        (∀ idx : BitVec 8, (k.large = true ∨ idx.toNat < 64) → 32 ≤ i.nEff →
          faults (.send a b slot idx rels) { cause := .effectBudget }) ∧
        (∀ idx : BitVec 3, k.large = false →
          faults (.sendv a b slot idx rels) { cause := .frameRange, value := idx.setWidth 64 }) ∧
        (∀ idx : BitVec 3, k.large = true → 32 ≤ i.nEff → faults (.sendv a b slot idx rels) { cause := .effectBudget })))

/-- R246 to R249 and R260: the frame's own controls and the fence. The operand checks before EFFECT_BUDGET are log 22
(DEDUCED). -/
def Obligations.FrameControlForms : Prop :=
  ∀ (d a b c : Reg) (slot : SlotNo) (cb : BitVec 12) (sc : Scope),
    let declared (s : State) (i : Inst) : Prop := (keyed (s.frameOf i).desc.slots slot.toNat).isSome = true
    let inRange (i : Inst) : Prop := (i.getS a).toNat ≤ 4095 ∧ (i.getS c).toNat ≤ 12
    let held (s : State) (i : Inst) : Prop := (s.codeblock i.key.ctx (i.getS a).toNat).isSome = true
    RunsWhen (.rearm slot a b) (fun s i => declared s i ∧ i.nEff < 32)
      (fun _ _ i => i.withEffect (.rearm slot.toNat ((i.getS a).toNat % 2 ^ 12) ((i.getS b).toNat % 2 ^ 12))) ∧
    RunsWhen .fret (fun _ i => i.nEff < 32) (fun _ _ i => i.withEffect .fret) ∧
    RunsWhen (.tagwin a b c) (fun s i => inRange i ∧ held s i ∧ i.nEff < 32)
      (fun _ _ i => i.withEffect (.tagwin (i.getS a).toNat ((i.getS b).setWidth 32) (i.getS c).toNat)) ∧
    RunsWhen (.fence sc) (fun _ i => i.nEff < 32) (fun _ _ i => i.withEffect (.fence sc)) ∧
    Runs (.mkref d a cb) (fun i => i.setS d (BitVec.ofNat 64
      ((i.getS a).toNat % 2 ^ 32 + cb.toNat * 2 ^ 32 + (i.getS a).toNat / 2 ^ 32 % 2 * 2 ^ 56))) ∧
    Traps (.rearm slot a b) (fun s i => ¬declared s i) (fun _ _ => { cause := .slotUndeclared }) ∧
    Traps (.tagwin a b c) (fun _ i => ¬inRange i) (fun _ _ => { cause := .tagwinRange }) ∧
    Traps (.tagwin a b c) (fun s i => inRange i ∧ ¬held s i) (fun _ _ => { cause := .codeblockAbsent }) ∧
    Traps (.rearm slot a b) (fun s i => declared s i ∧ 32 ≤ i.nEff) (fun _ _ => { cause := .effectBudget }) ∧
    Traps (.tagwin a b c) (fun s i => inRange i ∧ held s i ∧ 32 ≤ i.nEff) (fun _ _ => { cause := .effectBudget }) ∧
    Traps .fret (fun _ i => 32 ≤ i.nEff) (fun _ _ => { cause := .effectBudget }) ∧
    Traps (.fence sc) (fun _ i => 32 ≤ i.nEff) (fun _ _ => { cause := .effectBudget })

/-- R41, R158 and R165: what follows `fin`. -/
def Obligations.RunEnds : Prop :=
  ∀ (s : State) (c : Cur) (i : Inst), s.executes c i →
    let free : Prop := s.otherExclusive i = false ∧ s.unitsReserved i i.recordedUnits = false
    (∀ s1 ts, s.homes (i.past c) i.effects.zipIdx = (s1, .ok ts) →
      (i.recorded = [] ∨ free ∧ s.validates i = true) →
      ∃ t, exec .fin s = .next t ∧
        t.instAt c.site c.runner =
          some { i.past c with phase := .offering, reserved := i.reserved || !i.recorded.isEmpty } ∧
        (∃ added, t.tokens = s.tokens ++ added ∧
          added.map (fun x => { x with id := 0, arrival := 0 }) = ts.map (fun x => { x with id := 0, arrival := 0 })) ∧
        { t with insts := s.insts, tokens := s.tokens, nextId := s.nextId } = s1 ∧ s.onlyLoads s1) ∧
    (i.recorded ≠ [] → free → s.validates i = false →
      ∃ t, exec .fin s = .next t ∧
        t.instAt c.site c.runner = some { i.past c with
          phase := .retrying, fails := i.fails + 1, effects := [], nEff := 0, flags := 0, recorded := [], pins := [] } ∧
        { t with insts := s.insts, gslots := s.gslots } = s)

/-- R251 to R259: the issue of global accesses, and their division into parts (R258). FRAME_RANGE before EFFECT_BUDGET is
log 22 (DEDUCED). -/
def Obligations.GlobalAccessForms : Prop :=
  (∀ (va : VAddr) (n elem : Nat) (data : W64), 1 ≤ n → n ≤ 8 →
    ((partsOf elem va n data).map (·.len)).sum = n ∧
    (∀ l p m, partsOf elem va n data = l ++ p :: m → p.off = (l.map (·.len)).sum ∧ p.half = l.length ∧ p.off + p.len ≤ n) ∧
    ∀ p ∈ partsOf elem va n data, 1 ≤ p.len ∧ p.va = va + BitVec.ofNat 72 p.off ∧ p.va.toNat % 4096 + p.len ≤ 4096 ∧
      p.data = data >>> (8 * p.off) ∧ p.elem = elem ∧ p.st = .issued) ∧
  (∀ (d a b c : Reg) (slot : SlotNo) (idx : BitVec 8) (v : BitVec 3) (t : LoadTy) (e : Size) (k : MReg) (z w : Bool) (ord : Ord)
      (sc : Scope),
    let words (s : State) (i : Inst) : Nat := if (s.frameOf i).desc.large then 256 else 64
    let request (word : Instr) (ok : State → Inst → Prop) (slot : Nat) (kind : Inst → OpKind) (parts : Inst → List Part) : Prop :=
      RunsWhen word (fun s i => ok s i ∧ i.nEff < 32)
        (fun s c i => i.withEffect (.op (opOf s i c slot (kind i) (parts i)))) ∧
      Traps word (fun s i => ok s i ∧ 32 ≤ i.nEff) (fun _ _ => { cause := .effectBudget })
    let inFrame (s : State) (i : Inst) : Prop := idx.toNat < words s i
    let vectorIn (s : State) (i : Inst) : Prop := (s.frameOf i).desc.large = true ∧ v.toNat ≤ 5
    let always (_ : State) (_ : Inst) : Prop := True
    let sum (i : Inst) : VAddr := (i.getS a + i.getS b).signExtend 72
    let atomic (f : AtomicFn) (word : Instr) (x : Inst → W64) : Prop :=
      request word inFrame slot.toNat (fun i => .atomic f w ord sc idx.toNat (i.getS b) (x i))
        (fun i => [{ elem := 0, half := 0, off := 0, len := if w then 8 else 4, va := (i.getS a).signExtend 72, data := 0,
                     st := .issued }]) ∧
      Traps word (fun s i => words s i ≤ idx.toNat) (fun _ _ => { cause := .frameRange, value := BitVec.ofInt 64 idx.toNat })
    request (.ld idx a b slot t) inFrame slot.toNat (fun _ => .load t false idx.toNat) (fun i => partsOf 0 (sum i) t.bytes 0) ∧
    request (.ldLc idx a b slot t) inFrame slot.toNat (fun _ => .load t true idx.toNat) (fun i => partsOf 0 (sum i) t.bytes 0) ∧
    request (.st d a b slot e) always slot.toNat (fun _ => .store e) (fun i => partsOf 0 (sum i) e.bytes (i.getS d)) ∧
    request (.vld v a b slot k e z) vectorIn slot.toNat (fun i => .vload v.toNat e (i.getM k) z)
      (fun i => vectorParts (i.getM k) e (fun j => i.getS a + i.getS b + BitVec.ofNat 64 (j * e.bytes)) (fun _ => 0)) ∧
    request (.vldStr v a b slot k e z) vectorIn slot.toNat (fun i => .vload v.toNat e (i.getM k) z)
      (fun i => vectorParts (i.getM k) e (fun j => i.getS a + BitVec.ofNat 64 j * i.getS b) (fun _ => 0)) ∧
    request (.vldIdx v a b slot k e z) vectorIn slot.toNat (fun i => .vload v.toNat e (i.getM k) z)
      (fun i => vectorParts (i.getM k) e
        (fun j => i.getS a + BitVec.ofInt 64 (signedOf 32 (elemAt 32 (i.getV b) j) * e.bytes)) (fun _ => 0)) ∧
    request (.vst d a b slot k e) always slot.toNat (fun _ => .vstore e)
      (fun i => vectorParts (i.getM k) e (fun j => i.getS a + i.getS b + BitVec.ofNat 64 (j * e.bytes))
        (fun j => elemAt (8 * e.bytes) (i.getV d) j)) ∧
    request (.vstStr d a b slot k e) always slot.toNat (fun _ => .vstore e)
      (fun i => vectorParts (i.getM k) e (fun j => i.getS a + BitVec.ofNat 64 j * i.getS b)
        (fun j => elemAt (8 * e.bytes) (i.getV d) j)) ∧
    request (.pf a b) always 0 (fun _ => .prefetch false) (fun i => partsOf 0 (sum i) 1 0) ∧
    request (.pfLc a b) always 0 (fun _ => .prefetch true) (fun i => partsOf 0 (sum i) 1 0) ∧
    atomic .add (.gamoAdd idx a b slot w ord sc) (fun _ => 0) ∧
    atomic .and (.gamoAnd idx a b slot w ord sc) (fun _ => 0) ∧
    atomic .or (.gamoOr idx a b slot w ord sc) (fun _ => 0) ∧
    atomic .xor (.gamoXor idx a b slot w ord sc) (fun _ => 0) ∧
    atomic .minS (.gamoMinSigned idx a b slot w ord sc) (fun _ => 0) ∧
    atomic .maxS (.gamoMaxSigned idx a b slot w ord sc) (fun _ => 0) ∧
    atomic .minU (.gamoMinUnsigned idx a b slot w ord sc) (fun _ => 0) ∧
    atomic .maxU (.gamoMaxUnsigned idx a b slot w ord sc) (fun _ => 0) ∧
    atomic .swap (.gamoSwap idx a b slot w ord sc) (fun _ => 0) ∧
    atomic .cas (.gamoCas idx a b c slot w ord sc) (fun i => i.getS c) ∧
    atomic .fadd (.gamoFadd idx a b slot w ord sc) (fun _ => 0) ∧
    (∀ word ∈ [Instr.ld idx a b slot t, .ldLc idx a b slot t],
      Traps word (fun s i => words s i ≤ idx.toNat) (fun _ _ => { cause := .frameRange, value := BitVec.ofInt 64 idx.toNat })) ∧
    ∀ word ∈ [Instr.vld v a b slot k e z, .vldStr v a b slot k e z, .vldIdx v a b slot k e z],
      Traps word (fun s i => ¬vectorIn s i) (fun _ _ => { cause := .frameRange, value := BitVec.ofInt 64 v.toNat }))

/-- R261 and R265: the issue of an engine command. The checks before EFFECT_BUDGET are log 22 (DEDUCED), the checks at issue and
their fields log 50 (DEDUCED). -/
def Obligations.EngineIssueForms : Prop :=
  ∀ (a b c : Reg) (slot : SlotNo) (sc : Scope),
    let word (cmd : EngineCmd) : Instr :=
      match cmd with
      | .cpy => .cpy a b c slot sc | .gth => .gth a b c slot sc | .sct => .sct a b c slot sc
      | .isect => .isect a b c slot sc | .smerge => .smerge a b c slot sc | .cmpct => .cmpct a b c slot sc
    ∀ (cmd : EngineCmd) (bs : List Byte) (off : Nat),
      let command (i : Inst) : Engine :=
        { cmd := cmd, descOff := off,
          dw := (upFrom 0 16).map (fun k => BitVec.ofNat 64 (numberOf ((bs.drop (8 * k)).take 8))),
          sB := i.getS b, sC := i.getS c, scope := sc, started := false, i := 0, j := 0, m := 0, rowPut := false, winA := [],
          winB := [], rest := none, part := none, buf := [], closed := false, prevA := none, prevB := none,
          finished := false, lowWater := none }
      let fits (s : State) (i : Inst) : Prop :=
        (i.getS a).toNat = off ∧ off % 8 = 0 ∧ off + 128 ≤ s.scratchBound i.key.ctx ∧
          (upFrom off 128).map (s.scratchSeen i) = bs.map some
      RunsWhen (word cmd) (fun s i => fits s i ∧ (command i).check (s.scratchBound i.key.ctx) = .ok () ∧ i.nEff < 32)
        (fun s u i => i.withEffect (.op (opOf s i u slot.toNat (.engine (command i)) []))) ∧
      Traps (word cmd) (fun s i => fits s i ∧ (command i).check (s.scratchBound i.key.ctx) = .ok () ∧ 32 ≤ i.nEff)
        (fun _ _ => { cause := .effectBudget }) ∧
      (∀ t, Traps (word cmd) (fun s i => fits s i ∧ (command i).check (s.scratchBound i.key.ctx) = .error t) (fun _ _ => t)) ∧
      Traps (word cmd) (fun _ i => (i.getS a).toNat = off ∧ off % 8 ≠ 0)
        (fun _ _ => { cause := .engineAlign,
                      detail := BitVec.ofNat 64 (off % 2 ^ 20 + (match cmd with
                        | .cpy => 0 | .gth => 1 | .sct => 2 | .isect => 3 | .smerge => 4 | .cmpct => 5) * 2 ^ 20) }) ∧
      Traps (word cmd) (fun s i => (i.getS a).toNat = off ∧ off % 8 = 0 ∧ s.scratchBound i.key.ctx < off + 128)
        (fun s i => { cause := .scratchRange,
                      faddr := wrapOf 64 (if off < s.scratchBound i.key.ctx then s.scratchBound i.key.ctx else (off : Int)) })

/-- R193 to R208: the issue of the matrix unit's instructions. Log 21, 22, 23 and 28 (DEDUCED) as the statement says. -/
def Obligations.MatrixIssueForms : Prop :=
  ∀ (acc : BitVec 2) (a b : PairNo) (slot : SlotNo) (n : BitVec 6) (r : Round) (sat : Bool),
    let user (i : Inst) : Prop := i.key.ctx ≠ 0
    let fits (s : State) (i : Inst) (runs : List (Nat × Nat)) : Prop :=
      ∀ x ∈ runs, 0 < x.2 → x.1 + x.2 ≤ s.scratchBound i.key.ctx
    let request (m : Inst → Mu) (s : State) (u : Cur) (i : Inst) : Inst :=
      i.withEffect (.op (opOf s i u slot.toNat (.mu (m i)) []))
    let format (word : Instr) (ok : Inst → Prop) : Prop :=
      Traps word (fun _ i => user i ∧ ¬ok i) (fun _ _ => { cause := .tileFormat })
    let budget (word : Instr) (ok : State → Inst → Prop) : Prop :=
      Traps word (fun s i => user i ∧ ok s i ∧ 32 ≤ i.nEff) (fun _ _ => { cause := .effectBudget })
    let range (word : Instr) (ok : State → Inst → Prop) (runs : Inst → List (Nat × Nat)) : Prop :=
      ∀ o, Traps word
        (fun s i => user i ∧ ok s i ∧
          (∃ x ∈ runs i, 0 < x.2 ∧ s.scratchBound i.key.ctx < x.1 + x.2 ∧ max x.1 (s.scratchBound i.key.ctx) = o) ∧
          ∀ x ∈ runs i, 0 < x.2 → s.scratchBound i.key.ctx < x.1 + x.2 → o ≤ max x.1 (s.scratchBound i.key.ctx))
        (fun _ _ => { cause := .scratchRange, faddr := o })
    let product (word : Instr) (cmd : MuCmd) (sparse : Bool) : Prop :=
      let good (i : Inst) : Prop := tdSound (i.getTd a) = true ∧ tdSound (i.getTd b) = true ∧
        pairingSound sparse (i.getTd a) (i.getTd b) = true
      let ok (s : State) (i : Inst) : Prop := good i ∧ fits s i (operandRuns (i.getTd a)) ∧ fits s i (operandRuns (i.getTd b))
      RunsWhen word (fun s i => user i ∧ ok s i ∧ i.nEff < 32) (request (fun i => muCommand cmd acc (i.getTd a) (i.getTd b))) ∧
      format word good ∧ range word (fun _ i => good i) (fun i => operandRuns (i.getTd a)) ∧
      range word (fun s i => good i ∧ fits s i (operandRuns (i.getTd a))) (fun i => operandRuns (i.getTd b)) ∧ budget word ok
    let copy (word : Instr) (cmd : MuCmd) : Prop :=
      let good (i : Inst) : Prop := tdSound (i.getTd a) = true ∧ tdFmt (i.getTd a) = 0 ∧ tdSparse (i.getTd a) = 0
      let ok (s : State) (i : Inst) : Prop := good i ∧ fits s i (tileRuns (i.getTd a) 64)
      RunsWhen word (fun s i => user i ∧ ok s i ∧ i.nEff < 32) (request (fun i => muCommand cmd acc (i.getTd a) (0, 0))) ∧
      format word good ∧ range word (fun _ i => good i) (fun i => tileRuns (i.getTd a) 64) ∧ budget word ok
    let rdGood (i : Inst) : Prop := tdSound (i.getTd a) = true ∧ tdFmt (i.getTd a) ≤ 0x0F ∧ tdSparse (i.getTd a) = 0 ∧
      (r = .rod → tdFmt (i.getTd a) ≤ 0x08)
    let rdOk (s : State) (i : Inst) : Prop := rdGood i ∧ fits s i (readoutRuns (i.getTd a))
    let rdxGood (i : Inst) : Prop := tdSound (i.getTd a) = true ∧ tdFmt (i.getTd a) ≤ 0x0F ∧ tdSparse (i.getTd a) = 0 ∧ r ≠ .rod ∧
      (b ≠ 0 → tdSound (i.getTd b) = true ∧ tdFmt (i.getTd b) = 1 ∧ tdSparse (i.getTd b) = 0)
    let rdxFits (s : State) (i : Inst) : Prop := rdxGood i ∧ fits s i (readoutRuns (i.getTd a)) ∧
      (b ≠ 0 → fits s i (tileRuns (i.getTd b) 32))
    let graph (s : State) (i : Inst) (g : GSlot) : Prop :=
      s.currentSlot i.site i.key.ctx n.toNat = some g ∧ g.graph.nvop = (if b ≠ 0 then 2 else 1)
    RunsWhen (.mzero acc slot) (fun _ i => user i ∧ i.nEff < 32) (request (fun _ => muCommand .zero acc (0, 0) (0, 0))) ∧
    budget (.mzero acc slot) (fun _ _ => True) ∧
    (∀ w ∈ [Instr.mzero acc slot, .mma acc a b slot, .mmaSp acc a b slot, .mld acc a slot, .mst acc a slot,
        .mrd acc a slot r sat, .mrdx acc a b slot n r sat],
      Traps w (fun _ i => i.key.ctx = 0) (fun _ _ => { cause := .illegalInstruction })) ∧
    product (.mma acc a b slot) .mma false ∧
    product (.mmaSp acc a b slot) .mmaSp true ∧
    copy (.mld acc a slot) .ld ∧
    copy (.mst acc a slot) .st ∧
    RunsWhen (.mrd acc a slot r sat) (fun s i => user i ∧ rdOk s i ∧ i.nEff < 32)
      (request (fun i => { muCommand .rd acc (i.getTd a) (0, 0) with round := r, sat := sat })) ∧
    format (.mrd acc a slot r sat) rdGood ∧ range (.mrd acc a slot r sat) (fun _ i => rdGood i) (fun i => readoutRuns (i.getTd a)) ∧
    budget (.mrd acc a slot r sat) rdOk ∧
    (∀ (s : State) (u : Cur) (i : Inst) (g : GSlot), s.executes u i → user i → rdxFits s i → graph s i g → i.nEff < 32 →
      exec (.mrdx acc a b slot n r sat) s =
        .next ((s.updateSlot i.site g.slot (fun g => { g with pins := g.pins + 1, lastUse := s.tick })).putInst
          { request (fun i => { muCommand .rdx acc (i.getTd a) (i.getTd b) with
              aux := b != 0, round := r, sat := sat, n := n.toNat, gslot := g.slot }) s u (i.past u) with
            pins := i.pins ++ [g.slot] })) ∧
    format (.mrdx acc a b slot n r sat) rdxGood ∧
    range (.mrdx acc a b slot n r sat) (fun _ i => rdxGood i) (fun i => readoutRuns (i.getTd a)) ∧
    (b ≠ 0 → range (.mrdx acc a b slot n r sat) (fun s i => rdxGood i ∧ fits s i (readoutRuns (i.getTd a)))
      (fun i => tileRuns (i.getTd b) 32)) ∧
    Traps (.mrdx acc a b slot n r sat)
      (fun s i => user i ∧ rdxFits s i ∧ s.currentSlot i.site i.key.ctx n.toNat = none)
      (fun s i => { cause := .xopUnloaded,
                    detail := BitVec.ofNat 64 (n.toNat + if (s.graphEntry i.key.ctx n.toNat).1 then 64 else 0) }) ∧
    Traps (.mrdx acc a b slot n r sat)
      (fun s i => user i ∧ rdxFits s i ∧
        ∃ g, s.currentSlot i.site i.key.ctx n.toNat = some g ∧ g.graph.nvop ≠ (if b ≠ 0 then 2 else 1))
      (fun _ _ => { cause := .xopOperands, detail := n.setWidth 64 }) ∧
    budget (.mrdx acc a b slot n r sat) (fun s i => rdxFits s i ∧ ∃ g, graph s i g)

/-- R212 to R215: the Carousel's instructions at issue; and R220 to R224: what the nodes of a graph compute in a lane. -/
def Obligations.CarouselWordForms : Prop :=
  (∀ (n : BitVec 6) (d a b c x : Reg) (k : MReg) (z : Bool) (slot : SlotNo),
    let fit (f : Graph) : Prop :=
      (f.nvop < 2 → b = 0) ∧ (f.nvop < 3 → c = 0) ∧ (f.scal = false → x = 0) ∧ (f.two = true → d ≠ 31)
    (∀ (s : State) (u : Cur) (i : Inst) (g : GSlot), s.executes u i → i.key.ctx ≠ 0 →
      s.currentSlot i.site i.key.ctx n.toNat = some g → fit g.graph →
      ∃ t, exec (.xop n d a b c x k z) s = .next t ∧
        t.instAt u.site u.runner = some { i.past u with phase := .waitXop d.toNat (i.getM k) z } ∧
        t.carJobs = s.carJobs ++ [({
          site := i.site, who := .runner i.runner, gslot := g.slot
          since := (keyed s.carClock i.site).getD 0, entered := none, op0 := i.getV a, op1 := i.getV b, op2 := i.getV c
          sc := i.getS x, mask := i.getM k } : CarJob)] ∧
        t.gslots = updateFirst (fun h => h.site == i.site && h.slot == g.slot) (fun h => { h with lastUse := s.tick }) s.gslots ∧
        { t with insts := s.insts, carJobs := s.carJobs, gslots := s.gslots } = s) ∧
    Traps (.xop n d a b c x k z) (fun s i => i.key.ctx ≠ 0 ∧ s.currentSlot i.site i.key.ctx n.toNat = none)
      (fun s i => { cause := .xopUnloaded,
                    detail := BitVec.ofNat 64 (n.toNat + if (s.graphEntry i.key.ctx n.toNat).1 then 64 else 0) }) ∧
    Traps (.xop n d a b c x k z)
      (fun s i => i.key.ctx ≠ 0 ∧ ∃ g, s.currentSlot i.site i.key.ctx n.toNat = some g ∧ ¬fit g.graph)
      (fun _ _ => { cause := .xopOperands, detail := n.setWidth 64 }) ∧
    RunsWhen (.xld slot a) (fun _ i => i.key.ctx ≠ 0 ∧ i.nEff < 32)
      (fun s u i => i.withEffect (.op (opOf s i u slot.toNat (.xld ((i.getS a).toNat % 64) .fresh) []))) ∧
    RunsWhen (.xunl slot a) (fun _ i => i.key.ctx ≠ 0 ∧ i.nEff < 32)
      (fun s u i => i.withEffect (.op (opOf s i u slot.toNat (.xunl ((i.getS a).toNat % 64) false) []))) ∧
    RunsWhen (.xq d a) (fun _ i => i.key.ctx ≠ 0)
      (fun s _ i => i.setS d (s.graphStatus i.site i.key.ctx ((i.getS a).toNat % 64))) ∧
    (∀ w ∈ [Instr.xop n d a b c x k z, .xld slot a, .xunl slot a, .xq d a],
      Traps w (fun _ i => i.key.ctx = 0) (fun _ _ => { cause := .illegalInstruction }))) ∧
  let rat := Exact.rat
  let num (x : Nat) : ℚ := rat (exact32 x)
  (∀ (g : Graph) (x y w : BitVec 2048) (sc : W64) (j : Nat), j < 64 → (g.call x y w sc)[j]? = some (g.lane
    { op0 := elemAt 32 x j, op1 := elemAt 32 y j, op2 := elemAt 32 w j, sc := sc.toNat % 2 ^ 32, lane := j })) ∧
  (∀ (g : Graph) (l : LaneIn) (val : Nat → Flagged) (rank : Nat → Nat),
    let count := g.nodes.length
    let src (x : Nat) : Nat := if x = 0 then 0 else if x = 1 then l.op0 else if x = 2 then l.op1 else if x = 3 then l.op2
      else if x = 4 then l.sc else if x = 5 then l.lane else (val (x - 0x80)).1
    (∀ i n, g.nodes[i]? = some n → rank i < count ∧ val i = g.nodeResult n i (src n.src0) (src n.src1) (src n.src2) ∧
      ∀ x ∈ [n.src0, n.src1, n.src2], x ≤ 5 ∨ (0x80 ≤ x ∧ x - 0x80 < count ∧ rank (x - 0x80) < rank i)) →
    g.res0 < count → g.res1 < count →
    g.lane l = ((val g.res0).1, (val g.res1).1, (List.range count).foldl (fun acc i => acc ||| (val i).2) 0)) ∧
  (∀ (g : Graph) (n : GNode) (i a b c : Nat),
    let dir : Round := match n.rnd with | 0 => .rne | 1 => .rtz | 2 => .rdn | _ => .rup
    let table := (g.tables.find? (fun t => t.node == i)).getD ⟨i, 0, 0, []⟩
    (n.kind = 0 → g.nodeResult n i a b c = floatFma fmtF32 dir a b c) ∧
    (n.kind = 1 → g.nodeResult n i a b c = pairMulAdd dir a b c) ∧
    (n.kind = 2 → g.nodeResult n i a b c = (integerNode n.op a (if n.imm then n.value else b), 0)) ∧
    (n.kind = 3 → g.nodeResult n i a b c = selectNode n.op a b c) ∧
    (n.kind = 4 → table.entries ≠ [] → ∃ e, table.entries[min (a % 256) (table.entries.length - 1)]? = some e ∧
      g.nodeResult n i a b c = (e, 0)) ∧
    (n.kind = 5 → g.nodeResult n i a b c = lookupLinear table dir a) ∧
    (n.kind = 6 → g.nodeResult n i a b c = (a, 0)) ∧ (n.kind = 7 → g.nodeResult n i a b c = (n.value, 0))) ∧
  (∀ (x y : BitVec 32), let f (op : Nat) : Nat := integerNode op x.toNat y.toNat
    f 0 = (x + y).toNat ∧ f 1 = (x - y).toNat ∧ f 2 = (x * y).toNat ∧ f 3 = (x &&& y).toNat ∧ f 4 = (x ||| y).toNat ∧
    f 5 = (x ^^^ y).toNat ∧ f 6 = (x &&& ~~~y).toNat ∧ f 7 = (x <<< (y.toNat % 32)).toNat ∧
    f 8 = (x >>> (y.toNat % 32)).toNat ∧ f 9 = (x.sshiftRight (y.toNat % 32)).toNat ∧
    f 10 = (if x.sle y then x else y).toNat ∧ f 11 = (if x.sle y then y else x).toNat ∧ f 12 = min x.toNat y.toNat ∧
    f 13 = max x.toNat y.toNat) ∧
  (∀ (x y w : BitVec 32), let f (op : Nat) : Flagged := selectNode op x.toNat y.toNat w.toNat
    let truth (v : Bool) : Nat := if v then 0xFFFFFFFF else 0
    let cmp (v : Bool × BitVec 5) : Flagged := (truth v.1, v.2)
    f 0 = (if x ≠ 0 then y.toNat else w.toNat, 0) ∧ f 1 = cmp (floatCompare fmtF32 .eq x.toNat y.toNat) ∧
    f 2 = cmp (floatCompare fmtF32 .lt x.toNat y.toNat) ∧ f 3 = cmp (floatCompare fmtF32 .le x.toNat y.toNat) ∧
    f 4 = (truth (x == y), 0) ∧ f 5 = (truth (x.slt y), 0) ∧ f 6 = (truth (x.sle y), 0) ∧ f 7 = (truth (x.ult y), 0) ∧
    f 8 = (truth (x.ule y), 0) ∧ f 9 = floatMinMax fmtF32 false x.toNat y.toNat ∧
    f 10 = floatMinMax fmtF32 true x.toNat y.toNat) ∧
  (∀ (r : Round) (a b c : BitVec 32),
    let lo (x : BitVec 32) : FVal := fmtBf16.decode (x.toNat % 2 ^ 16)
    let hi (x : BitVec 32) : FVal := fmtBf16.decode (x.toNat / 2 ^ 16)
    let ins := [lo a, hi a, lo b, hi b, fmtF32.decode c.toNat]
    let terms := [(lo a).mul (lo b), (hi a).mul (hi b), fmtF32.decode c.toNat]
    let w := pairMulAdd r a.toNat b.toNat c.toNat
    let plain : Prop := ∀ sg, FVal.nan sg ∉ ins
    (¬plain → w = (0x7FC00000, if FVal.nan true ∈ ins then 1 else 0)) ∧
    (plain → (∃ sg, FVal.nan sg ∈ terms) ∨ (FVal.inf true ∈ terms ∧ FVal.inf false ∈ terms) → w = (0x7FC00000, 1)) ∧
    (plain → (∀ sg, FVal.nan sg ∉ terms) → FVal.inf true ∈ terms → FVal.inf false ∉ terms → w = (0xFF800000, 0)) ∧
    (plain → (∀ sg, FVal.nan sg ∉ terms) → FVal.inf false ∈ terms → FVal.inf true ∉ terms → w = (0x7F800000, 0)) ∧
    (∀ g h k x y z, terms = [.fin g x, .fin h y, .fin k z] → plain →
      (rat x + rat y + rat z ≠ 0 → ∃ e, 0 < e.den ∧ rat e = rat x + rat y + rat z ∧ w = roundTo fmtF32 r false e) ∧
      (rat x + rat y + rat z = 0 →
        let same (v : Bool) : Prop := rat x = 0 ∧ rat y = 0 ∧ rat z = 0 ∧ g = v ∧ h = v ∧ k = v
        (same true → w = (0x80000000, 0)) ∧ (same false → w = (0, 0)) ∧
        (¬same true → ¬same false → w = (if r = .rdn then 0x80000000 else 0, 0))))) ∧
  ∀ (t : GTable) (r : Round) (a : Nat), t.entries ≠ [] →
    let entry (i : Nat) : Nat := t.entries.getD (min i (t.entries.length - 1)) 0
    (∀ sg, fmtF32.decode a = .nan sg → lookupLinear t r a = (0x7FC00000, if sg then 1 else 0)) ∧
    (fmtF32.decode a = .inf true → lookupLinear t r a = (entry 0, 0)) ∧
    (fmtF32.decode a = .inf false → lookupLinear t r a = (entry 255, 0)) ∧
    ∀ g x, fmtF32.decode a = .fin g x →
      let y : ℚ := (rat x - num t.x0) / (2 : ℚ) ^ t.s
      let i := ⌊y⌋.toNat
      let v : ℚ := num (entry i) + (y - i) * (num (entry (i + 1)) - num (entry i))
      (y ≤ 0 → lookupLinear t r a = (entry 0, 0)) ∧ (255 ≤ y → lookupLinear t r a = (entry 255, 0)) ∧
      (0 < y → y < 255 → y = i → lookupLinear t r a = (entry i, 0)) ∧
      (0 < y → y < 255 → y ≠ i → v = 0 → lookupLinear t r a = (if r = .rdn then 0x80000000 else 0, 0)) ∧
      (0 < y → y < 255 → y ≠ i → v ≠ 0 →
        ∃ e, 0 < e.den ∧ rat e = v ∧ lookupLinear t r a = roundTo fmtF32 r false e)

/-- R129 and R369 to R378: the system instructions at issue. `wrsr` of RTIME, and numbers that name nothing on the Ringmaster, are
log 31 (DEDUCED). -/
def Obligations.SystemForms : Prop :=
  ∀ (d a b : Reg) (slot : SlotNo) (num : BitVec 12),
    let system (_ : State) (i : Inst) : Prop := i.key.ctx = 0
    let handler (s : State) (i : Inst) : Prop := i.key.ctx = 0 ∨ (s.frameOf i).handler.isSome = true
    let acts (w : Instr) (n : Nat) (v : Inst → W64) : Prop :=
      ∀ ws : List W64, RunsWhen w
        (fun s i => handler s i ∧ (upFrom 0 8).map (s.wordSeen i) = ws.map some ∧ i.nEff < 32)
        (fun _ _ i => i.withEffect (.act n (v i) ws))
    let asks (w : Instr) (r : Inst → SysReq) : Prop :=
      RunsWhen w (fun s i => system s i ∧ i.nEff < 32)
        (fun s u i => i.withEffect (.op (opOf s i u slot.toNat (.sys (r i) false) [])))
    acts .rply 0 (fun _ => 0) ∧ acts (.rsup a) 1 (fun i => i.getS a) ∧ acts .kill 2 (fun _ => 0) ∧
    RunsWhen (.frr d) handler
      (fun s _ i => i.setV d (match (s.frameOf i).handler with
        | some ⟨_, some v⟩ => v
        | _ => 0)) ∧
    RunsWhen (.killL a) (fun s i => system s i ∧ i.nEff < 32)
      (fun _ _ i => i.withEffect (.killLaunch ((i.getS a).toNat % 256) ((i.getS a).toNat / 256 % 64))) ∧
    asks (.tlbi slot a b) (fun i => .tlbi ((i.getS a).toNat % 256) ((i.getS b).signExtend 72)) ∧
    asks (.tlbia slot a) (fun i => .tlbia (if (i.getS a).getLsbD 8 then none else some ((i.getS a).toNat % 256))) ∧
    asks (.ctxsv slot a) (fun i => .ctxsv ((i.getS a).toNat % 64)) ∧
    asks (.ctxrs slot a b) (fun i => .ctxrs ((i.getS a).toNat % 256) ((i.getS b).toNat % 64)) ∧
    asks (.halt slot a) (fun i => .halt ((i.getS a).toNat % 256)) ∧
    (∀ v : W64, RunsWhen (.rdsr d num) (fun s i => i.site = ringmaster ∧ s.readSys num.toNat = some v)
      (fun _ _ i => i.setS d v)) ∧
    RunsWhen (.wrsr num a) (fun s i => i.site = ringmaster ∧ (s.readSys num.toNat).isSome = true ∧ i.nEff < 32)
      (fun _ _ i => i.withEffect (.writeSys num.toNat (i.getS a))) ∧
    RunsWhen (.rdsr d num) (fun s i => i.site ≠ ringmaster ∧ cellReads num.toNat = true ∧ system s i)
      (fun s _ i => i.setS d (s.cellSys num.toNat)) ∧
    (∀ w ∈ [Instr.rply, .rsup a, .kill, .frr d],
      Traps w (fun s i => ¬handler s i) (fun _ _ => { cause := .systemOnly })) ∧
    (∀ w ∈ [Instr.killL a, .tlbi slot a b, .tlbia slot a, .ctxsv slot a, .ctxrs slot a b, .halt slot a],
      Traps w (fun s i => ¬system s i) (fun _ _ => { cause := .systemOnly })) ∧
    Traps (.rdsr d num) (fun s i => i.site ≠ ringmaster ∧ cellReads num.toNat = true ∧ ¬system s i)
      (fun _ _ => { cause := .systemOnly }) ∧
    Traps (.rdsr d num) (fun s i => i.site ≠ ringmaster ∧ cellReads num.toNat = false ∨
        i.site = ringmaster ∧ s.readSys num.toNat = none)
      (fun _ _ => { cause := .illegalInstruction }) ∧
    Traps (.wrsr num a) (fun s i => i.site ≠ ringmaster ∨ s.readSys num.toNat = none)
      (fun _ _ => { cause := .illegalInstruction })

/-- R41: the COMMIT step of a runner, on a cell or on the Ringmaster. What a race leaves is log 65 (DESIGN CHOICE), which numbers a `wrsr` leaves alone is log 31 (DEDUCED), when
cells see a value log 51 (DEDUCED), and how TCTL counts an earlier arming log 45 (DEDUCED). -/
def Obligations.CommitInstant : Prop :=
  ∀ (s : State) (i : Inst) (f : Frame), s.instAt i.site i.runner = some i →
    (i.phase = .offering ∨ ∃ no, i.phase = .tagwin no) → s.frameAt i.site i.key = some f →
    let killed : Prop := i.key.ctx ≠ 0 ∧ (i.site, i.key.ctx, f.lid) ∈ s.killed
    let busy : Prop := s.running i.site i.key (some i.runner) = true ∨ s.queued i.site i.key = true
    let plain : Prop := ∀ o r b, EffBody.op o ∈ i.effects → o.kind ≠ .sys r b
    let works : Prop := i.site = ringmaster → s.hw.rmHalted = false
    (i.site = ringmaster → s.hw.rmHalted = true → exec (.commit i.site i.runner) s = .next s) ∧
    ((s.canCommit i = false ∨ s.windowsIn i = false) → exec (.commit i.site i.runner) s = .next s) ∧
    (works → s.canCommit i = true → s.windowsIn i = true → killed →
      ∃ t, exec (.commit i.site i.runner) s = .next t ∧ t.instAt i.site i.runner = none ∧ t.mem = s.mem ∧ t.host = s.host ∧
        t.scratch = s.scratch ∧ t.ops = s.ops ∧ (f.handler = none → t.actions = s.actions) ∧ t.ready = s.ready ∧ t.sys = s.sys) ∧
    (works → s.canCommit i = true → s.windowsIn i = true → ¬killed → f.life ≠ .dying → f.doomed = false → f.fresh = false →
      s.scratch.wf →
      ∃ t, exec (.commit i.site i.runner) s = .next t ∧ t.instAt i.site i.runner = none ∧
        t.mem = s.mem ∧ t.host = s.host ∧ t.flash = s.flash ∧ t.tiles = s.tiles ∧ t.tlb = s.tlb ∧ t.icache = s.icache ∧
        (∀ o, t.scratch.byte (scratchKey i.site i.key.ctx o)
            = (i.pendingByte o).getD (s.scratch.byte (scratchKey i.site i.key.ctx o)) ∨
          s.racesOf i.site i.key.ctx false ≠ [] ∧
            t.scratch.byte (scratchKey i.site i.key.ctx o) = s.scratch.byte (scratchKey i.site i.key.ctx o)) ∧
        (∀ a, (∀ o, i.pendingByte o ≠ none → a ≠ scratchKey i.site i.key.ctx o) → t.scratch.byte a = s.scratch.byte a) ∧
        (EffBody.fret ∉ i.effects → ∃ g, t.frameAt i.site i.key = some g ∧ g.flags = f.flags ||| i.flags ∧
          (∀ k, k < f.desc.words → g.word k = (i.pendingWord k).getD (f.word k)) ∧
          (∀ k, (∀ c q, EffBody.rearm k c q ∉ i.effects) → keyed g.slots k = keyed f.slots k) ∧
          (∀ before after k c q, i.effects = before ++ EffBody.rearm k c q :: after →
            (∀ c q, EffBody.rearm k c q ∉ after) →
            (0 < c → keyed g.slots k = some ⟨c, q⟩) ∧ (c = 0 → (keyed g.slots k).map (·.count) = some 0)) ∧
          (plain → g.desc = f.desc) ∧
          { g with life := f.life, flags := f.flags, words := f.words, poison := f.poison, slots := f.slots, desc := f.desc } = f) ∧
        (EffBody.fret ∈ i.effects → ¬busy → t.frameAt i.site i.key = none) ∧
        (EffBody.fret ∈ i.effects → busy → ∃ g, t.frameAt i.site i.key = some g ∧ g.life = .dying) ∧
        (∀ k ∈ s.offeredBy i, k.isSignal = false → (s.tokens.map (·.id)).Nodup → (∀ j ∈ s.offeredBy i, j.prog = k.prog → j = k) →
          (∃ x b w, (EffBody.token x b w, k.prog) ∈ i.effects.zipIdx) →
          { k with
            committed := true
            seq := s.nextId
            phase :=
              match k.phase with
              | .parkReserved r => .parked r
              | p => p } ∈ t.tokens) ∧
        (∀ o k, (EffBody.op o, k) ∈ i.effects.zipIdx → o.site = i.site → (∀ r b, o.kind ≠ .sys r b) →
          ∃ p ∈ t.ops, p.seq = s.nextId ∧ p.prog = k ∧ p.hidx < 256 ∧
            (plain → ∀ x ∈ s.ops, x.site = i.site → x.hidx ≠ p.hidx) ∧
            p.fences = (i.effects.take k).zipIdx.filterMap (fun e =>
              match e.1 with
              | .fence sc => some (e.2, sc)
              | _ => none) ∧
            { p with id := o.id, hidx := o.hidx, seq := o.seq, prog := o.prog, fences := o.fences } = o) ∧
        (∀ a v ws, EffBody.act a v ws ∈ i.effects → ∃ x ∈ t.actions, x.seq = s.nextId ∧ x.by_ = i.key.ctx ∧
          x.site = wfield (ws.getD 0 0) 29 11 ∧ x.ctx = wfield (ws.getD 0 0) 40 8 ∧ x.kind = wfield (ws.getD 0 0) 7 2 ∧
          x.thr = wfield (ws.getD 0 0) 25 4 ∧ x.hidx = wfield (ws.getD 0 0) 54 8 ∧ x.fref = ws.getD 1 0 ∧
          x.gen = wfield (ws.getD 6 0) 20 8 ∧ x.act = (if a = 0 then .rply else if a = 1 then .rsup v else .kill)) ∧
        (∀ c n, EffBody.killLaunch c n ∈ i.effects → (s.launch c n).isSome = true →
          (t.launch c n).map (·.killed) = some true) ∧
        (∀ c n, EffBody.killLaunch c n ∉ i.effects → (t.launch c n).map (·.killed) = (s.launch c n).map (·.killed)) ∧
        (∀ (num : Nat) (v : W64), plain → i.effects.filterMap (fun e =>
            match e with
            | .writeSys n x => some (n, x)
            | _ => none) = [(num, v)] →
          let leaves (r : SysRegs) : Prop := { t.sys with old := s.sys.old } = r
          let p := num - 0x40
          let x0 := wfield v 1 6
          let y0 := wfield v 7 5
          let xw := wfield v 12 6
          let yh := wfield v 18 5
          let others := s.sys.parts.filter (fun e => e.1 != p && wbit e.2 0)
          let discarded : Prop := 48 < x0 + xw ∨ 24 < y0 + yh ∨
            (¬(x0 / 12 = (x0 + xw - 1) / 12 ∧ y0 / 12 = (y0 + yh - 1) / 12) ∧
              ¬(x0 % 12 = 0 ∧ xw % 12 = 0 ∧ y0 % 12 = 0 ∧ yh % 12 = 0)) ∨
            (∃ e ∈ others, x0 < wfield e.2 1 6 + wfield e.2 12 6 ∧ wfield e.2 1 6 < x0 + xw ∧
              y0 < wfield e.2 7 5 + wfield e.2 18 5 ∧ wfield e.2 7 5 < y0 + yh) ∨
            (∃ d, d < 8 ∧ s.sys.shadow < (if wbit v 0 && (rectDies v).contains d then wfield v 23 6 else 0) +
              ((others.filter (fun e => (rectDies e.2).contains d)).map (fun e => wfield e.2 23 6)).sum) ∨
            (s.residentOn p ≠ 0 ∧ wfield v 0 29 ≠ wfield ((keyed s.sys.parts p).getD 0) 0 29)
          let timer (f : Timer → Timer → Prop) : Prop := leaves { s.sys with timers := t.sys.timers } ∧
            (∀ n, n ≠ s.sys.tsel → keyed t.sys.timers n = keyed s.sys.timers n) ∧
            ∃ m, keyed t.sys.timers s.sys.tsel = some m ∧ f ((keyed s.sys.timers s.sys.tsel).getD default) m
          (t.sys.old = if num ≤ 2 ∨ (0x11 ≤ num ∧ num ≤ 0x1F) then (num, (s.readSys num).getD 0, s.nextId) :: s.sys.old
            else s.sys.old) ∧
          (num = 0 → leaves { s.sys with ctxtab := v.toNat, ctxtabWritten := true }) ∧
          (num = 1 → leaves (if v.toNat ≤ 48 then { s.sys with shadow := v.toNat } else s.sys)) ∧
          (num = 2 → leaves (if s.sys.poolsWritten = true ∨ 96 * 10 ^ 9 < wfield v 0 5 * 2 ^ 32 + wfield v 8 24 * 2 ^ 15 then s.sys
            else { s.sys with pools := v &&& 0xFFFFFF1F, poolsWritten := true })) ∧
          (0x11 ≤ num → num ≤ 0x1F → leaves { s.sys with wins := t.sys.wins } ∧
            (keyed t.sys.wins (num - 0x10)).getD 0 = v &&& 0xFFFF000000000007 ∧
            ∀ k, k ≠ num - 0x10 → keyed t.sys.wins k = keyed s.sys.wins k) ∧
          (0x40 ≤ num → num ≤ 0x7F → (discarded → leaves s.sys) ∧
            (¬discarded → leaves { s.sys with parts := t.sys.parts } ∧
              (keyed t.sys.parts p).getD 0 = v &&& 0x1FFFFFFF ∧ ∀ k, k ≠ p → keyed t.sys.parts k = keyed s.sys.parts k)) ∧
          (num = 0x101 → leaves { s.sys with tsel := v.toNat % 64 }) ∧
          (num = 0x102 → timer (fun o m => m.tdl = v ∧ m.tref = o.tref ∧ m.ctl ||| 1 = o.ctl ||| 1 ∧
            (o.armedBy ≠ s.nextId → wbit m.ctl 0 = false))) ∧
          (num = 0x103 → timer (fun o m => m.tref = v ∧ m.tdl = o.tdl ∧ m.ctl ||| 1 = o.ctl ||| 1 ∧
            (o.armedBy ≠ s.nextId → wbit m.ctl 0 = false))) ∧
          (num = 0x104 → timer (fun o m => m.ctl = v &&& 0x1FFF ∧ m.tdl = o.tdl ∧ m.tref = o.tref ∧
            m.armedAt = s.sys.rtime ∧ m.armedBy = s.nextId)) ∧
          (num = 0x105 → leaves { s.sys with evtbase := v.toNat }) ∧
          (num = 0x106 → leaves { s.sys with drops := s.sys.drops &&& ~~~(v.setWidth 16) }) ∧
          (num = 0x107 → leaves
            { s.sys with timeaddr := v &&& 0x000FFFFFFFFFFFF9, lastTimeWord := t.sys.lastTimeWord }) ∧
          (num = 0x108 → leaves { s.sys with wdog := v.toNat }) ∧
          (num ∉ [0, 1, 2] ∧ ¬(0x11 ≤ num ∧ num ≤ 0x1F) ∧ ¬(0x40 ≤ num ∧ num ≤ 0x7F) ∧ ¬(0x101 ≤ num ∧ num ≤ 0x108) →
            leaves s.sys)))

/-- R26, R27, R29, R36 to R38, R41, R302 and R303: TOKEN_RETRY, TOKEN_ACCEPT, TOKEN_APPLY and DESCRIPTOR_LOAD. That a token
finds its frame only behind the load of the descriptor, and that frames follow a descriptor loaded again, is log 61 (DEDUCED);
a reservation of an uncommitted sender is log 55 (DEDUCED). -/
def Obligations.TokenSteps : Prop :=
  (∀ (s : State) (t : Token), s.token t.id = some t →
    let accepted (u : State) : State := u.updateToken t.id (fun x => { x with phase := .accepted })
    let met : Prop := t.phase = .offered ∧ t.isFault = false ∧ t.remote = none ∧ s.refusesDirect t = false ∧ s.parkDue t = false
    let here : Prop := s.residentAt t.dcell t.key.ctx = true ∧ s.haltedAt t.dcell t.key.ctx = false ∧
      (t.key.ctx ≠ 0 → (t.dcell, t.key.ctx, t.lid) ∉ s.killed) ∧ (t.key.ctx = 0 → t.dcell = ringmaster ∨ s.ctxValid 0 = true)
    (t.phase = .refused →
      exec (.tokenRetry t.id) s = .next (s.updateToken t.id (fun x => { x with phase := .offered }))) ∧
    (t.phase = .offered → t.isFault = false → t.remote ≠ none →
      exec (.tokenAccept t.id) s = .next (s.updateToken t.id (fun x => { x with phase := .vlp }))) ∧
    (∀ f, met → s.finds t.dcell t.key t.epoch t.lid f → exec (.tokenAccept t.id) s = .next (accepted s)) ∧
    (∀ f, met → here → s.frameAt t.dcell t.key = some f → f.epoch = t.epoch → f.life ≠ .spilled →
      ∀ s1 d, s.loadDesc t.dcell t.key.ctx t.key.cb = (s1, .ok d) → exec (.tokenAccept t.id) s = .next (accepted s1)) ∧
    (∀ s1 e, met → here → (∀ f, s.frameAt t.dcell t.key = some f → f.epoch = t.epoch) →
      s.loadDesc t.dcell t.key.ctx t.key.cb = (s1, .error e) →
      (t.committed = true → exec (.tokenAccept t.id) s = .next (s1.rejectToken t e)) ∧
      (t.committed = false → exec (.tokenAccept t.id) s = .next (accepted s1))) ∧
    (∀ s1 d, met → here → s.frameAt t.dcell t.key = none → s.loadDesc t.dcell t.key.ctx t.key.cb = (s1, .ok d) →
      (t.isSignal = true ∨ s1.keyParked t = false ∧ ∀ w ∈ s1.windowAt t.dcell t.key.ctx t.key.cb,
        s1.outsideWindow t.dcell t.key w.wlog = false) →
      (s1.windowAt t.dcell t.key.ctx t.key.cb).isSome = true → s1.hasRoom t.dcell t.key.ctx d = true →
      exec (.tokenAccept t.id) s = .next (accepted (s1.createFrame t.dcell t.key t.epoch t.lid d none true))) ∧
    (∀ s1 d w, met → here → s.frameAt t.dcell t.key = none → s.loadDesc t.dcell t.key.ctx t.key.cb = (s1, .ok d) →
      t.isSignal = false → s1.keyParked t = false → s1.windowAt t.dcell t.key.ctx t.key.cb = some w →
      s1.outsideWindow t.dcell t.key w.wlog = true →
      (s.parkCount t.dcell < 256 → exec (.tokenAccept t.id) s = .next ({ s1 with nextId := s.nextId + 1 }.updateToken t.id (fun x =>
        { x with phase := if t.committed then .parked .window else .parkReserved .window, arrival := s.nextId }))) ∧
      (256 ≤ s.parkCount t.dcell → ∃ u, exec (.tokenAccept t.id) s = .next u ∧ (u.token t.id).map (·.phase) = some .refused)) ∧
    (∀ f, met → here → s.frameAt t.dcell t.key = some f → f.epoch ≠ t.epoch → t.committed = true →
      exec (.tokenAccept t.id) s = .next (s.rejectToken t { cause := .tagExhaust, detail := 1 })) ∧
    (∀ f st, t.phase = .accepted → t.committed = true → s.mustWait t = false → s.released t = true → s.hw.health ≠ .fatal →
      s.finds t.dcell t.key t.epoch t.lid f → keyed f.slots t.slot = some st →
      (st.count ≠ 0 → ∃ u, exec (.tokenApply t.id) s = .next u ∧ s.received u t f st) ∧
      (st.count = 0 →
        exec (.tokenApply t.id) s = .next (((s.keepFrame f.site f.key).rejectToken t { cause := .slotSpent }).learnSys t)))) ∧
  ∀ (s : State) (site ctx cb : Nat),
    (s.needsDesc site ctx cb = false → exec (.descriptorLoad site ctx cb) s = .next s) ∧
    (∀ s1 e, s.needsDesc site ctx cb = true → s.loadDesc site ctx cb = (s1, .error e) →
      exec (.descriptorLoad site ctx cb) s = .next s1 ∧ s1.descs = s.descs ∧ s1.frames = s.frames ∧ s.onlyLoads s1) ∧
    (∀ s1 d, s.needsDesc site ctx cb = true → s.loadDesc site ctx cb = (s1, .ok d) →
      exec (.descriptorLoad site ctx cb) s = .next s1 ∧ s1.descAt site ctx cb = some d ∧
      (s1.windowAt site ctx cb).isSome = true ∧
      (∀ f ∈ s1.frames, f.site = site → f.key.ctx = ctx → f.key.cb = cb → { f.desc with large := d.large } = d) ∧
      (∀ x k, (x, k.ctx, k.cb) ≠ (site, ctx, cb) → s1.frameAt x k = s.frameAt x k) ∧
      s.onlyLoads s1) ∧
    ((∃ r ∈ s.ready, r.site = site ∧ r.key.ctx = ctx ∧ r.key.cb = cb) → s.descAt site ctx cb = none →
      s.residentAt site ctx = true → s.haltedAt site ctx = false → s.needsDesc site ctx cb = true)

/-- R32, R33, R37 and R43 to R45: PARK_REEXAMINE, PARK_OVERFLOW_READBACK, WAITING_SIGNAL_SERVE, FRAME_FILL, READY_CHOOSE and
READY_OVERFLOW_RETURN. The orders are those of R37, R44 and R45, and a Ringmaster that no firmware has started takes no entry by R354;
the load before the choice is log 61 (DEDUCED), the NOENTRY tokens of other codeblocks come by R37. -/
def Obligations.WaitingSteps : Prop :=
  (∀ (s : State) (site ctx cb : Nat),
    let l := s.tokens.filter (fun t => t.dcell == site && t.parkConcerns ctx cb)
    (l = [] → exec (.parkReexamine site ctx cb) s = .next s) ∧
    (∀ t f, l = [t] → s.token t.id = some t → s.finds t.dcell t.key t.epoch t.lid f →
      exec (.parkReexamine site ctx cb) s = .next (s.updateToken t.id (fun x => { x with phase := .accepted })))) ∧
  (∀ (s : State) (site ctx : Nat) (t : Token), s.parkCount site < 256 →
    leastBy (fun t => s.tagOrder site t.key * 2 ^ 64 + t.arrival)
      (s.tokens.filter (fun t => t.dcell == site && t.key.ctx == ctx && t.inOverflow)) = some t →
    s.token t.id = some t →
    exec (.parkOverflowReadback site ctx) s = .next (s.updateToken t.id (fun x =>
      { x with
        phase :=
          match t.phase with
          | .overflowed r => .parked r
          | p => p }))) ∧
  (∀ (s : State) (t : Token) (f : Frame) (st : SlotState), s.token t.id = some t → t.phase = .waiting → t.source = .completion →
    s.hw.health ≠ .fatal →
    s.finds t.dcell t.key t.epoch t.lid f → keyed f.slots t.slot = some st → st.count ≠ 0 →
    ∃ u, exec (.waitingSignalServe t.id) s = .next u ∧ s.received u t f st) ∧
  (∀ (s : State) (f : Frame), s.frameAt f.site f.key = some f → f.life = .spilled → s.running f.site f.key none = true →
    s.hasRoom f.site f.key.ctx f.desc = true →
    ∃ t g, exec (.frameFill f.site f.key.ctx f.key.cb f.key.tag) s = .next t ∧ t.frameAt f.site f.key = some g ∧
      g.life = (if f.doomed then .dying else .live) ∧ g.doomed = false ∧
      { g with life := f.life, entry := f.entry, chunk := f.chunk, doomed := f.doomed } = f ∧ { t with frames := s.frames } = s) ∧
  (∀ (s : State) (site runner : Nat) (r : Ready) (f : Frame), runner < runnerCount site → s.instAt site runner = none →
    s.hw.health ≠ .fatal → s.chooseReady site = some r → s.frameAt site r.key = some f →
    (site = ringmaster → s.hw.rmHalted = true ∨ s.io.nofw = true → exec (.readyChoose site runner) s = .next s) ∧
    ∀ (s1 : State) (x : Except Trap Desc), (site = ringmaster → s.hw.rmHalted = false ∧ s.io.nofw = false) →
      s.loadDesc site r.key.ctx r.key.cb = (s1, x) →
      ∃ t i, exec (.readyChoose site runner) s = .next t ∧ t.instAt site runner = some i ∧ i.key = r.key ∧ i.thr = r.thr ∧
        i.cls = r.cls ∧ i.subst = r.subst ∧ i.dyn = 0 ∧ i.nEff = 0 ∧ i.effects = [] ∧ i.flags = 0 ∧ i.phase = .running ∧
        i.pc = (match x with
          | .ok d => if (s.descAt site r.key.ctx r.key.cb).isSome then f.desc else d
          | .error _ => f.desc).entryOf r.thr ∧
        (∀ x ∈ t.ready, x.stamp ≠ r.stamp) ∧
        s.onlyLoads { t with insts := s.insts, ready := s.ready, nextId := s.nextId }) ∧
  (∀ (s : State) (site : Nat) (r : Ready), s.chooseReady site = some r → r ∈ s.candidates site ∧
    ((∀ x ∈ s.candidates site, x.urgent = false) → ∀ x ∈ s.candidates site, x.cls ≤ 3 → x.cls ≤ r.cls)) ∧
  (∀ (s : State) (site : Nat) (r : Ready), (s.ready.filter (fun r => r.site == site && !r.overflow)).length < 1024 →
    leastBy (·.stamp) (s.ready.filter (fun r => r.site == site && r.overflow)) = some r →
    exec (.readyOverflowReturn site) s = .next { s with
      ready := updateFirst (fun x => x.stamp == r.stamp) (fun x => { x with overflow := false, inSpill := false }) s.ready })

/-- R43, R254, R259, R366 to R368, R371, R372 and R244: FAULT_TOKEN_DELIVERY, FAULT_ACTION_DELIVERY, COMPLETION_SIGNAL, VLP_TOKEN_RECEIVE,
VLP_ACKNOWLEDGE and TORUS_PROTOCOL_ERROR. Deliveries are in the order of R372; a packet's source and its LID 0 are log 53
and log 58 (DESIGN CHOICE). -/
def Obligations.FaultAndSignalSteps : Prop :=
  (∀ (s : State) (t : Token) (item : Nat) (held : Option VWord) (ws : List W64), s.token t.id = some t → t.phase = .offered →
    s.refusesDirect t = false → s.parkDue t = false → s.hw.health ≠ .fatal → t.source = .fault item held →
    t.payload = .words ws → (t.key.ctx ≠ 0 → (t.dcell, t.key.ctx, t.lid) ∉ s.killed) →
    let here : Prop := s.residentAt t.dcell t.key.ctx = true ∧ s.haltedAt t.dcell t.key.ctx = false
    (t.key.ctx = 0 → s.ctxValid 0 = false → ∀ it, s.items.find? (fun x => x.id == item) = some it →
      ∃ u, exec (.faultTokenDelivery t.id) s = .next u ∧ u.haltedAt it.site it.ctx = true ∧ u.mem = s.mem) ∧
    (¬here → s.ctxValid t.key.ctx = true → exec (.faultTokenDelivery t.id) s = .next (s.mailToken t)) ∧
    (¬here → t.key.ctx ≠ 0 → s.ctxValid t.key.ctx = false →
      exec (.faultTokenDelivery t.id) s = .next (s.rejectToken t { cause := .noContext })) ∧
    (here → (t.key.ctx = 0 → s.ctxValid 0 = true) →
    (∀ s1 d th, s.frameAt t.dcell t.key = none → s.loadDesc t.dcell t.key.ctx t.key.cb = (s1, .ok d) →
      keyed d.threads 0 = some th → s1.hasRoom t.dcell t.key.ctx d = true →
      ∃ u g, exec (.faultTokenDelivery t.id) s = .next u ∧ u.frameAt t.dcell t.key = some g ∧ g.handler = some ⟨item, held⟩ ∧
        g.desc = d ∧ g.lid = t.lid ∧ g.epoch = t.epoch ∧ (∀ k w, ws[k]? = some w → k < d.words → g.word k = w) ∧
        u.token t.id = none ∧ (∃ r ∈ u.ready, r.site = t.dcell ∧ r.key = t.key ∧ r.thr = 0 ∧ r.cls = 3) ∧
        u.mem = s.mem ∧ u.host = s.host ∧ u.scratch = s.scratch ∧ u.insts = s.insts) ∧
    (∀ f it, s.frameAt t.dcell t.key = some f → s.items.find? (fun x => x.id == item) = some it →
      ∃ u, exec (.faultTokenDelivery t.id) s = .next u ∧ u.haltedAt it.site it.ctx = true ∧
        u.mem = s.mem ∧ u.host = s.host ∧ u.scratch = s.scratch) ∧
    (∀ f it, s.frameAt t.dcell t.key = some f → s.items.find? (fun x => x.id == item) = none → s.awayItem item = some it →
      ∃ u, exec (.faultTokenDelivery t.id) s = .next u ∧ u.haltedAt it.site it.ctx = true ∧
        (∃ x ∈ u.actions, x.site = it.site ∧ x.ctx = it.ctx ∧ x.fref = it.fref ∧ x.hidx = it.hidx ∧ x.gen = it.gen ∧
          x.act = .kill) ∧
        u.mem = s.mem ∧ u.host = s.host ∧ u.scratch = s.scratch))) ∧
  (∀ (s : State) (a : Action), s.actions.find? (fun x => x.id == a.id) = some a → s.residentAt a.site a.ctx = true →
    s.actionBefore a = false → s.commitDone a.seq = true →
    let s1 : State := { s with actions := s.actions.filter (fun x => x.id != a.id) }
    (s.itemOf a = none → exec (.faultActionDelivery a.id) s = .next s1) ∧
    (∀ it thr cls, s.itemOf a = some it → it.body = .suspended thr cls →
      ∃ u, exec (.faultActionDelivery a.id) s = .next u ∧ (∀ x ∈ u.items, x.id ≠ it.id) ∧
        (a.act ≠ .kill → u.actions = s1.actions) ∧
        (a.act = .rply → ∃ r ∈ u.ready, r.site = it.site ∧ r.key = it.key ∧ r.thr = thr ∧ r.subst = none) ∧
        (∀ v, a.act = .rsup v →
          ∃ r ∈ u.ready, r.site = it.site ∧ r.key = it.key ∧ r.thr = thr ∧ r.subst = some (a.didx, a.opcode, v)) ∧
        (a.act = .kill → u.ready = s.ready) ∧ u.mem = s.mem ∧ u.host = s.host ∧ u.scratch = s.scratch) ∧
    (∀ it id o, s.itemOf a = some it → it.body = .op id → s.op id = some o → o.kind.access = true → a.act = .rply →
      ∃ u p, exec (.faultActionDelivery a.id) s = .next u ∧ u.op id = some p ∧ (∀ x ∈ u.items, x.id ≠ it.id) ∧
        (∀ x ∈ p.parts, x.isHeld = false) ∧ p.parts.length = o.parts.length ∧ p.kind = o.kind ∧
        { u with items := s.items, actions := s.actions, ops := s.ops } = s) ∧
    (∀ it id o v, s.itemOf a = some it → it.body = .op id → s.op id = some o → o.kind.access = true → a.act = .rsup v →
      ∃ u p, exec (.faultActionDelivery a.id) s = .next u ∧ u.op id = some p ∧ (∀ x ∈ u.items, x.id ≠ it.id) ∧
        p.parts.length = o.parts.length ∧
        (∀ (k : Nat) (q : Part), o.parts[k]? = some q → ∃ y : Part, p.parts[k]? = some y ∧
          if q.isHeld then y.off = q.off ∧ y.len = q.len ∧ y.elem = q.elem ∧
            y.st = .done (BitVec.ofNat 64 (v.toNat / 256 ^ q.off % 256 ^ q.len)) false
          else y = q) ∧
        ((∀ w c sc x b z, o.kind ≠ .atomic .fadd w c sc x b z) → p.kind = o.kind) ∧
        { u with items := s.items, actions := s.actions, ops := s.ops } = s) ∧
    (∀ it id, s.itemOf a = some it → it.body = .op id → a.act = .kill →
      ∃ u, exec (.faultActionDelivery a.id) s = .next u ∧ u.op id = none ∧ (∀ x ∈ u.items, x.id ≠ it.id) ∧
        u.tokens = s.tokens ∧ u.actions = s1.actions ∧ u.frames = s.frames ∧ u.mem = s.mem ∧ u.scratch = s.scratch) ∧
    (∀ it id k, s.itemOf a = some it → it.body = .token id → s.token id = some k →
      (a.act ≠ .kill → k.unplaced = false → exec (.faultActionDelivery a.id) s =
        .next ((s1.takeItem it.id).updateToken id (fun x => { x with phase := .offered }))) ∧
      (a.act ≠ .kill → k.unplaced = true →
        ∀ (d : Desc) (s2 : State) (home : Nat), (s1.takeItem it.id).loadDesc k.dcell k.key.ctx k.key.cb = (s2, .ok d) →
        s2.resolve k.dcell (s.cellList k.dcell k.key.ctx k.lid) d k.key.ctx k.key.cb k.key.tag = .ok home →
        ∃ s3, (s1.takeItem it.id).onlyLoads s3 ∧ exec (.faultActionDelivery a.id) s = .next (s3.updateToken id (fun x =>
          { x with phase := .offered, dcell := home, unplaced := false }))) ∧
      (a.act = .kill → ∃ u, exec (.faultActionDelivery a.id) s = .next u ∧ u.token id = none ∧
        (∀ x ∈ u.items, x.id ≠ it.id) ∧
        (k.counted = true → u.counts = (s.count k.dcell k.key.ctx k.lid 0 1).counts) ∧
        u.frames = s.frames ∧ u.ops = s.ops ∧ u.mem = s.mem))) ∧
  (∀ (s : State) (o : Op) (f : Frame) (st : SlotState), s.op o.id = some o → o.complete = true → s.hw.health ≠ .fatal →
    o.dropped = false → s.finds o.site o.key o.epoch o.lid f → keyed f.slots o.slot = some st → st.count ≠ 0 →
    ∃ u g, exec (.completionSignal o.id) s = .next u ∧ u.op o.id = none ∧ u.frameAt o.site o.key = some g ∧
      keyed g.slots o.slot = some { st with count := if st.count = 1 then st.reload else st.count - 1 } ∧
      (∀ t lc k, o.kind = .load t lc k → k < f.desc.words →
        g.word k = extendTo64 t.signed (8 * t.bytes) (partsValue o.parts) ∧ ∀ j, j ≠ k → g.word j = f.word j) ∧
      (∀ j e m z, o.kind = .vload j e m z → f.desc.large = true → j ≤ 5 →
        let w := 8 * e.bytes
        (∀ k, k < elemCount w → (lanes w (g.vector j)).getD k 0 =
          if active m k || z then partsValue (o.parts.filter (fun p => p.elem == k)) % 2 ^ laneWidth w
          else (lanes w (f.vector j)).getD k 0) ∧
        ∀ x, x < 64 + 32 * j ∨ 96 + 32 * j ≤ x → g.word x = f.word x) ∧
      (∀ fn wide ord sc k b c, o.kind = .atomic fn wide ord sc k b c → k < f.desc.words →
        let old := partsValue o.parts
        g.word k = (if wide then BitVec.ofNat 64 old
          else if fn = .minS ∨ fn = .maxS then (BitVec.ofNat 32 old).signExtend 64 else (BitVec.ofNat 32 old).setWidth 64) ∧
        (∀ j, j ≠ k → g.word j = f.word j) ∧ (fn ≠ .fadd → g.flags = f.flags) ∧
        (fn = .fadd → wide = true → g.flags = f.flags ||| (floatAdd FloatTy.f64.fmt .rne old b.toNat).2) ∧
        (fn = .fadd → wide = false → g.flags = f.flags ||| (floatAdd FloatTy.f32.fmt .rne old (b.toNat % 2 ^ 32)).2)) ∧
      (((∃ e, o.kind = .store e) ∨ ∃ e, o.kind = .engine e) → g.words = f.words ∧ g.flags = f.flags) ∧
      u.mem = s.mem ∧ u.host = s.host ∧ u.scratch = s.scratch ∧ u.insts = s.insts) ∧
  (∀ (s : State) (port ctx cb kind : Nat) (tag : BitVec 32) (epoch psn : Bool) (slot : BitVec 4) (idx : BitVec 8)
      (rels : Option Scope) (payload : BitVec 2048), kind ≤ 2 → ctx < 256 → cb < 4096 →
    ∃ u t, exec (.vlpTokenReceive port ctx cb tag epoch slot kind idx rels psn payload) s = .next (u.sendToken t) ∧
      s.onlyLoads u ∧
      t.key = ⟨ctx, cb, tag⟩ ∧ t.slot = slot.toNat ∧ t.kind = kind ∧ t.idx = idx.toNat ∧ t.epoch = epoch ∧ t.rels = rels ∧
      t.phase = .offered ∧ t.committed = true ∧ t.lid = 0 ∧
      t.payload = (if kind = 1 then .word (payload.setWidth 64) else if kind = 2 then .vector payload 0 else .none)) ∧
  (∀ (s : State) (t : Token), s.token t.id = some t → t.phase = .vlp → t.committed = true → s.released t = true →
    (t.counted = false → exec (.vlpAcknowledge t.id) s = .next (s.dropToken t.id)) ∧
    (t.counted = true → exec (.vlpAcknowledge t.id) s = .next ((s.dropToken t.id).count t.scell t.key.ctx t.lid 0 1))) ∧
  ∀ (s : State) (site kind : Nat), 5 ≤ kind → kind ≤ 7 →
    exec (.torusProtocolError site kind) s = .next (s.healthEvent 0x06 (sourceWord site 0))

/-- R88, R89, R91, R94, R104, R252, R253, R259, R344 and R387: LOAD_PERFORM, STORE_PERFORM and ATOMIC_PERFORM of a forwarded
part. The order in which parts may be performed is log 7 (DEDUCED), which bytes of a torn access one step takes log 49 and the
value of a failed read log 16 (DESIGN CHOICE), the byte that a higher element has written log 66 (DEDUCED). -/
def Obligations.AccessesPerformed : Prop :=
  (∀ (s : State) (o : Op) (k pa : Nat) (p : Part), s.op o.id = some o → o.parts[k]? = some p → p.st = .translated pa →
    (∀ x ∈ o.parts, x.isHeld = false) → s.mem.wf → s.host.wf →
    let done (u : State) (v : Nat) (psn : Bool) : State := u.updateOp o.id (fun x =>
      { x with parts := x.parts.modify k (fun q => { q with st := .done (BitVec.ofNat 64 v) psn }) })
    let lined : Prop := (∃ t i, o.kind = .load t true i) ∧ 0 < s.lineRoom o.site o.key.ctx
    let some_ (bs : List Nat) : Prop := bs.Nodup ∧ (∀ b ∈ bs, b < p.len ∧ p.seen.testBit b = false) ∧
      ((∃ b, b < p.len ∧ p.seen.testBit b = false) → bs ≠ []) ∧
      (ringUnits pa = true → ∀ b ∈ bs, ∀ c, c < p.len → p.seen.testBit c = false → unitOf (pa + c) = unitOf (pa + b) → c ∈ bs)
    let taken (u : State) (bs : List Nat) (rd : Nat → Nat × Bool) : State := u.updateOp o.id (fun x =>
      { x with parts := x.parts.modify k (fun q =>
          let seen := bs.foldl (fun m b => m ||| 2 ^ b) p.seen
          let got := bs.foldl (fun v b => v + (rd b).1 % 256 * 256 ^ b) p.got
          let bad := p.bad || bs.any (fun b => (rd b).2)
          if seen = 2 ^ p.len - 1 then { q with st := .done (BitVec.ofNat 64 got) bad }
          else { q with seen := seen, got := got, bad := bad }) })
    let kept (a : Nat) : Prop := ∃ q ∈ o.parts, p.elem < q.elem ∧ q.performed = true ∧ ∃ b, q.pa = some b ∧ b ≤ a ∧ a < b + q.len
    (s.mayPerform o p pa = false →
      (o.kind.isLoad = true → exec (.loadPerform o.id k) s = .next s) ∧
      (o.kind.isStore = true → exec (.storePerform o.id k) s = .next s) ∧
      (o.kind.isAtomic = true → exec (.atomicPerform o.id k) s = .next s)) ∧
    (s.mayPerform o p pa = true →
      (o.kind.isLoad = true → pa < 2 ^ 48 → ¬lined →
        (o.whole p = true → exec (.loadPerform o.id k) s = .next (done s (s.physRead pa p.len).1 (s.physRead pa p.len).2)) ∧
        (o.whole p = false → ∃ bs, some_ bs ∧
          exec (.loadPerform o.id k) s = .next (taken s bs (fun b => s.physRead (pa + b) 1)))) ∧
      (o.kind.isLoad = true → pa < 2 ^ 48 → lined →
        let u := s.fillLines o.site o.key.ctx pa p.len
        (o.whole p = true → exec (.loadPerform o.id k) s = .next
          (done u (u.cachedRead o.site o.key.ctx pa p.len).1 (u.cachedRead o.site o.key.ctx pa p.len).2)) ∧
        (o.whole p = false → ∃ bs, some_ bs ∧
          exec (.loadPerform o.id k) s = .next (taken u bs (fun b => u.cachedRead o.site o.key.ctx (pa + b) 1)))) ∧
      (o.kind.isLoad = true → 2 ^ 48 ≤ pa →
        (Config.hostAnswers s.tick = false → exec (.loadPerform o.id k) s =
          .next (done s (Config.failedRead s.tick pa % 256 ^ p.len) true)) ∧
        (Config.hostAnswers s.tick = true → o.whole p = true →
          exec (.loadPerform o.id k) s = .next (done s (s.physRead pa p.len).1 (s.physRead pa p.len).2)) ∧
        (Config.hostAnswers s.tick = true → o.whole p = false → ∃ bs, some_ bs ∧
          exec (.loadPerform o.id k) s = .next (taken s bs (fun b => s.physRead (pa + b) 1)))) ∧
      (o.kind.isStore = true → pa < 2 ^ 48 → inBox pa = false → o.whole p = true → (∀ a, ¬kept a) →
        ∃ m, exec (.storePerform o.id k) s = .next (done { s with mem := m } 0 false) ∧
          (∀ a, a < pa ∨ pa + p.len ≤ a → m.byte a = s.mem.byte a) ∧
          (∀ j, j < p.len → m.byte (pa + j) = BitVec.ofNat 8 (p.data.toNat / 256 ^ j))) ∧
      (o.kind.isStore = true → pa + p.len ≤ 2 ^ 48 → pa + p.len ≤ rmBoxBase ∨ rmBoxBase + 0x10000 ≤ pa → o.whole p = true →
        p.seen = 0 → ∃ m, exec (.storePerform o.id k) s = .next (done { s with mem := m } 0 false) ∧
          (∀ a, a < pa ∨ pa + p.len ≤ a ∨ kept a → m.byte a = s.mem.byte a) ∧
          (∀ j, j < p.len → ¬kept (pa + j) → m.byte (pa + j) = BitVec.ofNat 8 (p.data.toNat / 256 ^ j))) ∧
      (o.kind.isStore = true → pa + p.len ≤ 2 ^ 48 → pa + p.len ≤ rmBoxBase ∨ rmBoxBase + 0x10000 ≤ pa → o.whole p = false →
        ∃ (bs : List Nat) (m : Memory), some_ bs ∧
          exec (.storePerform o.id k) s = .next (({ s with mem := m } : State).updateOp o.id (fun x =>
            { x with parts := x.parts.modify k (fun q =>
                let seen := bs.foldl (fun m b => m ||| 2 ^ b) p.seen
                if seen = 2 ^ p.len - 1 then { q with st := .done 0 false } else { q with seen := seen }) })) ∧
          (∀ a, (∀ b ∈ bs, a ≠ pa + b) ∨ kept a → m.byte a = s.mem.byte a) ∧
          (∀ b ∈ bs, ¬kept (pa + b) → m.byte (pa + b) = BitVec.ofNat 8 (p.data.toNat / 256 ^ b))) ∧
      (o.kind.isStore = true → pa < 2 ^ 48 → inBox pa = true → o.whole p = true → (∀ a, ¬kept a) → exec (.storePerform o.id k) s =
        .next (done (s.boxPut (pa - rmBoxBase) p.len p.data.toNat false) 0 false)) ∧
      (o.kind.isStore = true → 2 ^ 48 ≤ pa → ∃ u, exec (.storePerform o.id k) s = .next u ∧ u.mem = s.mem ∧
        (Config.hostAnswers s.tick = true → o.whole p = true → (∀ a, ¬kept a) →
          (∀ a, a < s.busAddress pa ∨ s.busAddress pa + p.len ≤ a → u.host.byte a = s.host.byte a) ∧
          (∀ j, j < p.len → u.host.byte (s.busAddress pa + j) = BitVec.ofNat 8 (p.data.toNat / 256 ^ j)) ∧
          u = done { s with host := u.host } 0 false) ∧
        (Config.hostAnswers s.tick = true → (o.whole p = false ∨ ∃ a, kept a) →
          ∀ a, (∀ b, b < p.len → a ≠ s.busAddress (pa + b)) → u.host.byte a = s.host.byte a) ∧
        (Config.hostAnswers s.tick = false → u = (done s 0 false).healthEvent 0x07 (sourceWord o.site o.key.ctx))) ∧
      (∀ f wide ord sc idx b c, o.kind = .atomic f wide ord sc idx b c →
        let low (x : W64) : Nat := if wide then x.toNat else x.toNat % 2 ^ 32
        ((s.physRead pa p.len).2 = false → exec (.atomicPerform o.id k) s =
          .next (match atomicNew f wide (s.physRead pa p.len).1 (low b) (low c) with
            | some v => done (s.physStore pa p.len v false) (s.physRead pa p.len).1 false
            | none => done s (s.physRead pa p.len).1 false)) ∧
        ((s.physRead pa p.len).2 = true → exec (.atomicPerform o.id k) s = .next (s.holdPart o.id k 0x17 0))))) ∧
  (∀ (x y z : W64), atomicNew .add true x.toNat y.toNat z.toNat = some (x + y).toNat ∧
    atomicNew .and true x.toNat y.toNat z.toNat = some (x &&& y).toNat ∧
    atomicNew .or true x.toNat y.toNat z.toNat = some (x ||| y).toNat ∧
    atomicNew .xor true x.toNat y.toNat z.toNat = some (x ^^^ y).toNat ∧
    atomicNew .minS true x.toNat y.toNat z.toNat = some (if y.slt x then y else x).toNat ∧
    atomicNew .maxS true x.toNat y.toNat z.toNat = some (if x.slt y then y else x).toNat ∧
    atomicNew .minU true x.toNat y.toNat z.toNat = some (if y.ult x then y else x).toNat ∧
    atomicNew .maxU true x.toNat y.toNat z.toNat = some (if x.ult y then y else x).toNat ∧
    atomicNew .swap true x.toNat y.toNat z.toNat = some y.toNat ∧
    atomicNew .cas true x.toNat y.toNat z.toNat = (if x = z then some y.toNat else none) ∧
    atomicNew .fadd true x.toNat y.toNat z.toNat = some (floatAdd FloatTy.f64.fmt .rne x.toNat y.toNat).1) ∧
  ∀ (x y z : BitVec 32), atomicNew .add false x.toNat y.toNat z.toNat = some (x + y).toNat ∧
    atomicNew .and false x.toNat y.toNat z.toNat = some (x &&& y).toNat ∧
    atomicNew .or false x.toNat y.toNat z.toNat = some (x ||| y).toNat ∧
    atomicNew .xor false x.toNat y.toNat z.toNat = some (x ^^^ y).toNat ∧
    atomicNew .minS false x.toNat y.toNat z.toNat = some (if y.slt x then y else x).toNat ∧
    atomicNew .maxS false x.toNat y.toNat z.toNat = some (if x.slt y then y else x).toNat ∧
    atomicNew .minU false x.toNat y.toNat z.toNat = some (if y.ult x then y else x).toNat ∧
    atomicNew .maxU false x.toNat y.toNat z.toNat = some (if x.ult y then y else x).toNat ∧
    atomicNew .swap false x.toNat y.toNat z.toNat = some y.toNat ∧
    atomicNew .cas false x.toNat y.toNat z.toNat = (if x = z then some y.toNat else none) ∧
    atomicNew .fadd false x.toNat y.toNat z.toNat = some (floatAdd FloatTy.f32.fmt .rne x.toNat y.toNat).1

/-- R88, R110, R257, R258, R377, R382 to R387: the translation of parts, PAGE_WALK, PREFETCH_PERFORM, LOCAL_CACHE_FILL,
ICACHE_FILL, PCIE_COMPLETION_TIMEOUT and TLB_INVALIDATE_COMPLETE. DETAIL 1 of a fetch fault is log 50 (DEDUCED), which accesses keep an
invalidation from completing log 51 (DEDUCED), the entry or line that a full cache gives up log 52 and the value of a failed read log 16
(DESIGN CHOICE). -/
def Obligations.TranslationAndFills : Prop :=
  (∀ (s : State) (o : Op) (k : Nat) (p : Part), s.op o.id = some o → o.parts[k]? = some p → p.st = .issued →
    o.kind.access = true → o.site ≠ ringmaster →
    let move : Instr :=
      if o.kind.isLoad then .loadPerform o.id k else if o.kind.isStore then .storePerform o.id k else .atomicPerform o.id k
    let va := p.va.toNat
    let kind := o.kind.accessKind
    (s.maySend o p = false → exec move s = .next s) ∧
    (s.maySend o p = true → o.misaligned p = true → exec move s = .next (s.holdPart o.id k 0x15 0)) ∧
    (s.maySend o p = true → o.misaligned p = false → s.tlbEntry o.site o.key.ctx va = none → exec move s = .next s) ∧
    (∀ e, s.maySend o p = true → o.misaligned p = false → s.tlbEntry o.site o.key.ctx va = some e →
      (∀ pa, s.checkLeaf kind e.leaf e.level va = .ok pa →
        ((o.kind.isAtomic = true → pa < 2 ^ 48) →
          let sent := s.updateOp o.id (fun x =>
            { x with parts := x.parts.modify k (fun q => { q with st := .translated pa, fwd := s.tick, pa := some pa }) })
          exec move s = .next (if o.kind.isLoad then sent else sent.dropLine o.site o.key.ctx pa p.len)) ∧
        (o.kind.isAtomic = true → 2 ^ 48 ≤ pa → exec move s = .next (s.holdPart o.id k 0x16 0))) ∧
      (∀ x, s.checkLeaf kind e.leaf e.level va = .error x →
        exec move s = .next (s.holdPart o.id k (x.fault.code kind) x.level))) ∧
    (s.maySend o p = true → o.misaligned p = false → s.tlbEntry o.site o.key.ctx va = none →
      (∀ leaf lvl pa, s.walk o.key.ctx va = .ok (leaf, lvl) → s.checkLeaf kind leaf lvl va = .ok pa →
        (o.kind.isAtomic = true → pa < 2 ^ 48) →
        ∃ u, exec (.pageWalk o.id k) s = .next u ∧
          u.op o.id = some { o with parts := o.parts.modify k (fun q => { q with st := .translated pa, fwd := s.tick, pa := some pa }) } ∧
          u.tlbEntry o.site o.key.ctx va = some ⟨o.site, o.key.ctx, lvl, va / 2 ^ (12 + 10 * lvl), leaf⟩ ∧
          (o.kind.isLoad = true → u.lcache = s.lcache) ∧
          { u with tlb := s.tlb, lcache := s.lcache, ops := s.ops, ctl := { u.ctl with walks := s.ctl.walks } } = s) ∧
      (∀ leaf lvl x, s.walk o.key.ctx va = .ok (leaf, lvl) → s.checkLeaf kind leaf lvl va = .error x →
        exec (.pageWalk o.id k) s = .next (((s.fillTlb o.site o.key.ctx va leaf lvl).noteWalk o.site o.key.ctx va lvl).holdPart
          o.id k (x.fault.code kind) x.level)) ∧
      (∀ x, s.walk o.key.ctx va = .error x →
        exec (.pageWalk o.id k) s = .next (s.holdPart o.id k (x.fault.code kind) x.level)))) ∧
  (∀ (s : State) (o : Op) (k : Nat) (p : Part) (lc : Bool), s.op o.id = some o → o.parts[k]? = some p → o.kind = .prefetch lc →
    (∀ x, s.locate o.site o.key.ctx .load p.va.toNat 1 = .error x →
      ∃ u, (s.dropOp o.id).onlyLoads u ∧ exec (.prefetchPerform o.id k) s = .next u) ∧
    (∀ pa, s.locate o.site o.key.ctx .load p.va.toNat 1 = .ok pa → ∃ u, exec (.prefetchPerform o.id k) s = .next u ∧
      { u with tlb := s.tlb, ctl := { u.ctl with walks := s.ctl.walks } }
        = (if lc then (s.dropOp o.id).fillLine o.site o.key.ctx pa else s.dropOp o.id))) ∧
  (∀ (s : State) (o : Op) (k pa idx : Nat) (p : Part) (t : LoadTy), s.op o.id = some o → o.parts[k]? = some p →
    p.st = .translated pa →
    (o.kind = .load t true idx → ∃ u, exec (.localCacheFill o.id k) s = .next u ∧ { u with lcache := s.lcache } = s ∧
      (pa < 2 ^ 48 → 0 < s.lineRoom o.site o.key.ctx → p.len = 1 → (u.lineAt o.site o.key.ctx pa).isSome = true)) ∧
    (o.kind.isLoad = true → 2 ^ 48 ≤ pa → (∀ x ∈ o.parts, x.isHeld = false) →
      exec (.pcieCompletionTimeout o.id k) s = .next (s.setPart o.id k
        (.done (BitVec.ofNat 64 (Config.failedRead s.tick pa % 256 ^ p.len)) true)))) ∧
  (∀ (s : State) (i : Inst) (a : VAddr), s.instAt i.site i.runner = some i → i.phase = .running → s.missingWord i = some a →
    (∀ pa, s.locate i.site i.key.ctx .fetch a.toNat 4 = .ok pa →
      ∃ u, exec (.icacheFill i.site i.runner) s = .next u ∧
        { u with icache := s.icache, tlb := s.tlb, ctl := { u.ctl with walks := s.ctl.walks } } = s ∧
        u.cachedWord i.site i.key.ctx a = some (BitVec.ofNat 32
          (if 2 ^ 48 ≤ pa ∧ Config.hostAnswers s.tick = false then Config.failedRead s.tick pa else (s.physRead pa 4).1)) ∧
        ∀ leaf lvl, i.site ≠ ringmaster → s.residentAt i.site i.key.ctx = true → s.tlbEntry i.site i.key.ctx a.toNat = none → s.walk i.key.ctx a.toNat = .ok (leaf, lvl) →
          u.tlbEntry i.site i.key.ctx a.toNat = some ⟨i.site, i.key.ctx, lvl, a.toNat / 2 ^ (12 + 10 * lvl), leaf⟩) ∧
    (∀ x, s.locate i.site i.key.ctx .fetch a.toNat 4 = .error x →
      ∃ u, s.onlyLoads u ∧ exec (.icacheFill i.site i.runner) s = .next (u.takeFault i
        ⟨i.dyn, i.pc, (s.cachedWord i.site i.key.ctx i.pc).getD 0, none⟩ { x.trap .fetch a.toNat with detail := 1 }))) ∧
  ∀ (s : State) (o : Op) (r : SysReq), s.op o.id = some o → o.kind = .sys r false → r.invalidates = true →
    ∃ u, exec (.tlbInvalidateComplete o.id) s = .next u ∧
      (∀ c va, r = .tlbi c va → ∀ e ∈ u.tlb, ¬(e.ctx = c ∧ e.page = va.toNat / 2 ^ (12 + 10 * e.level))) ∧
      (∀ c, r = .tlbia (some c) → ∀ e ∈ u.tlb, e.ctx ≠ c) ∧ (r = .tlbia none → u.tlb = []) ∧
      u.op o.id = some { o with kind := .sys r (!s.inFlight r) } ∧ { u with tlb := s.tlb, ops := s.ops } = s

/-- R195, R203 to R208, R211 to R214, R228 and R231: MU_PERFORM, MU_COMPLETION, CAROUSEL_ENTRY, CAROUSEL_RESULT, XLD_PROCESS,
XLD_WAIT_RETRY, GRAPH_LOAD_COMPLETE, XUNL_COMPLETE and CONFIG_ERROR_RELOAD. Which mask and which poisoned byte are recorded is log 23,
poison in a readout log 25, what a race leaves or shows log 65 (DESIGN CHOICE), the code of a bad image log 26, the record and the entry of a reload log 27, ranks, clocks and pins log 28
(DEDUCED, the others). -/
def Obligations.MatrixAndCarouselSteps : Prop :=
  (∀ (s : State) (site : Nat) (o : Op) (m : Mu), s.muHead site = some (o, m) → s.op o.id = some o →
    m.performed = false → o.heldOp = none → s.drained o.key.ctx = false →
    let key := scratchKey o.site o.key.ctx 0
    let a : Td := (m.a0, m.a1)
    let b : Td := (m.b0, m.b1)
    let v : State := s.seenBy m
    let finished (u : State) : Prop := ∃ n, (u.op o.id).map (·.kind) = some (.mu n) ∧ n.performed = true
    let sums (u : State) : Prop := { u with ops := s.ops, tiles := s.tiles, tilePoison := s.tilePoison } = s
    (m.cmd = .zero → ∃ u, exec (.muPerform site) s = .next u ∧ finished u ∧ sums u ∧
      ∀ i j, i < 64 → j < 64 → u.tileAt o.site m.acc i j = 0 ∧ u.tileBad o.site m.acc i j = false) ∧
    (m.cmd = .ld → v.poisonedByte key (tileRuns a 64) = none →
      ∃ u, exec (.muPerform site) s = .next u ∧ finished u ∧ sums u ∧ ∀ i j, i < 64 → j < 64 →
        u.tileAt o.site m.acc i j
          = (if tdDown a then packedAt 64 (v.readRow key a j 512) i else packedAt 64 (v.readRow key a i 512) j) ∧
        u.tileBad o.site m.acc i j = false) ∧
    ((m.cmd = .mma ∨ m.cmd = .mmaSp) →
      (v.badMask key a b = none → v.poisonedByte key (operandRuns a ++ operandRuns b) = none →
        ∃ u, exec (.muPerform site) s = .next u ∧ finished u ∧ sums u ∧ ∀ i j, i < 64 → j < 64 →
          u.tileAt o.site m.acc i j = matrixElement (groupSize (tdFmt a) (tdFmt b)) (s.tileAt o.site m.acc i j)
            (List.zipWith FVal.mul ((v.operandRows key a).getD i []) ((v.operandRows key b).getD j [])) % 2 ^ 64) ∧
      (∀ side r q k, v.badMask key a b = some (side, r, q, k) →
        exec (.muPerform site) s =
          .next { v.muHold o .sparseMask (maskDetail side r q) (BitVec.ofNat 64 k) 0 with scratch := s.scratch } ∧
        v.wrongMask key (if side = 0 then a else b) r q = some k ∧
        (∀ r' q', r' < r ∨ r' = r ∧ q' < q → v.wrongMask key a r' q' = none ∧ v.wrongMask key b r' q' = none) ∧
        (side ≠ 0 → v.wrongMask key a r q = none)) ∧
      (∀ x, v.badMask key a b = none → v.poisonedByte key (operandRuns a ++ operandRuns b) = some x →
        exec (.muPerform site) s = .next { v.muHold o .poisonConsumed 0 0 x with scratch := s.scratch })) ∧
    ((m.cmd = .st ∨ m.cmd = .rd) → s.scratch.wf → (m.cmd = .st → tdFmt a = 0) → ∃ u n, exec (.muPerform site) s = .next u ∧
      (u.op o.id).map (·.kind) = some (.mu n) ∧ n.performed = true ∧ { u with ops := s.ops, scratch := s.scratch } = s ∧
      let w := fmtWidth (tdFmt a)
      let bytes := rowBytes 64 w
      let r := if m.cmd = .rd then m.round else .rne
      let sat := m.cmd = .rd && m.sat
      let el (row e : Nat) : Nat := if tdDown a then s.tileAt o.site m.acc e row else s.tileAt o.site m.acc row e
      let bad (row e : Nat) : Bool := if tdDown a then s.tileBad o.site m.acc e row else s.tileBad o.site m.acc row e
      let block (row b : Nat) := quantiseMX (mxElement (tdFmt a)) r sat
        ((upFrom (32 * b) 32).map (fun e => fmtF64.decode (el row e)))
      let code (row e : Nat) : Nat :=
        if fmtIsMx (tdFmt a) then (block row (e / 32)).2.1.getD (e % 32) 0
        else (readoutElement fmtF64 (tdFmt a) r sat (el row e)).1
      let inRow (row x : Nat) : Prop := ∃ y ∈ rowOf a row bytes, key + y.1 ≤ x ∧ x < key + y.1 + y.2.2
      let scaleAt (row : Nat) : Nat := key + tdScale a + row * tdScalePitch a
      let inScale (row x : Nat) : Prop := fmtIsMx (tdFmt a) = true ∧ scaleAt row ≤ x ∧ x < scaleAt row + 2
      let raced (x : Nat) : Prop := m.race.kept ≠ [] ∧ u.scratch.byte x = s.scratch.byte x
      (∀ x, (∀ row, row < 64 → ¬inRow row x ∧ ¬inScale row x) → u.scratch.byte x = s.scratch.byte x) ∧
      (∀ row y k, row < 64 → y ∈ rowOf a row bytes → k < y.2.2 →
        (∀ later, row < later → later < 64 → ¬inRow later (key + y.1 + k)) →
        (∀ later, row ≤ later → later < 64 → ¬inScale later (key + y.1 + k)) →
        raced (key + y.1 + k) ∨ u.scratch.byte (key + y.1 + k)
          = BitVec.ofNat 8 (packBits w ((upFrom 0 64).map (code row)) / 256 ^ (y.2.1 + k))) ∧
      (fmtIsMx (tdFmt a) = true → ∀ row b, row < 64 → b < 2 →
        (∀ later, row < later → later < 64 → ¬inRow later (scaleAt row + b) ∧ ¬inScale later (scaleAt row + b)) →
        raced (scaleAt row + b) ∨ u.scratch.byte (scaleAt row + b) = BitVec.ofNat 8 (block row b).1) ∧
      (m.cmd = .st → n.flags = m.flags) ∧
      (m.cmd = .rd → fmtIsMx (tdFmt a) = false → ∀ b, n.flags.getLsbD b = (m.flags.getLsbD b ||
        (upFrom 0 64).any (fun row => (upFrom 0 64).any (fun e =>
          !bad row e && (readoutElement fmtF64 (tdFmt a) r sat (el row e)).2.getLsbD b))))) ∧
    (m.cmd = .rdx →
      let jobs := s.carJobs.any (fun j => j.who == .mu o.id && !j.delivered)
      let row := m.out.length
      let w := fmtWidth (tdFmt a)
      let runs := (rowOf b row 256).map (fun x => (x.1, x.2.2))
      let m1 : Mu := if m.aux then m.look s.scratch key runs else m
      let before : State := ((s.seenBy m1).putRows o m1 key row).1
      let bad : Option Nat := if m.aux then before.poisonedByte key runs else none
      (row < 64 → (jobs = true ∨ s.stuckSlot o.site m.gslot = true) → exec (.muPerform site) s = .next s) ∧
      (∀ x, row < 64 → jobs = false → s.stuckSlot o.site m.gslot = false → bad = some x →
        exec (.muPerform site) s = .next (s.muHold o .poisonConsumed 0 0 x)) ∧
      (row < 64 → jobs = false → s.stuckSlot o.site m.gslot = false → bad = none →
        ∃ u n j, exec (.muPerform site) s = .next u ∧ { u with ops := s.ops, carJobs := s.carJobs } = s ∧
          (u.op o.id).map (·.kind) = some (.mu { m1 with flags := n }) ∧ u.carJobs = s.carJobs ++ [j] ∧
          j.site = o.site ∧ j.who = .mu o.id ∧ j.gslot = m.gslot ∧ j.entered = none ∧ j.delivered = false ∧
          (∀ e, e < 64 → elemAt 32 j.op0 e
            = (convertFloat fmtF64 fmtF32 m.round m.sat (s.tileAt o.site m.acc row e)).1 % 2 ^ 32 ∧
            active j.mask e = !s.tileBad o.site m.acc row e) ∧
          j.op1 = (if m.aux then BitVec.ofNat 2048 (before.readRow key b row 256) else 0) ∧ j.op2 = 0 ∧
          j.sc = BitVec.ofNat 64 row) ∧
      (64 ≤ row → s.scratch.wf → ∃ u n, exec (.muPerform site) s = .next u ∧
        { u with ops := s.ops, scratch := s.scratch } = s ∧
        (u.op o.id).map (·.kind) = some (.mu n) ∧ n.performed = true ∧ n.out = m.out ∧
        let el (i e : Nat) : Nat := elemAt 32 (m.out.getD i 0) e
        let code (i e : Nat) : Nat := (readoutElement fmtF32 (tdFmt a) .rne m.sat (el i e)).1
        let inRow (i x : Nat) : Prop := ∃ y ∈ rowOf a i (rowBytes 64 w), key + y.1 ≤ x ∧ x < key + y.1 + y.2.2
        (∀ x, (∀ y ∈ readoutRuns a, x < key + y.1 ∨ key + y.1 + y.2 ≤ x) → u.scratch.byte x = s.scratch.byte x) ∧
        (tdDown a = false → fmtIsMx (tdFmt a) = false →
          ∀ i y k, i < 64 → y ∈ rowOf a i (rowBytes 64 w) → k < y.2.2 →
            (∀ later, i < later → later < 64 → ¬inRow later (key + y.1 + k)) →
            (m.race.kept ≠ [] ∧ u.scratch.byte (key + y.1 + k) = s.scratch.byte (key + y.1 + k)) ∨
            u.scratch.byte (key + y.1 + k)
              = BitVec.ofNat 8 (packBits w ((upFrom 0 64).map (code i)) / 256 ^ (y.2.1 + k)))))) ∧
  (∀ (s : State) (site : Nat) (o : Op) (m : Mu) (f : Frame) (st : SlotState), s.muHead site = some (o, m) →
    m.performed = true → o.heldOp = none → s.hw.health ≠ .fatal → o.dropped = false → s.finds o.site o.key o.epoch o.lid f →
    keyed f.slots o.slot = some st → st.count ≠ 0 →
    ∃ u g, exec (.muCompletion site) s = .next u ∧ u.op o.id = none ∧ u.frameAt o.site o.key = some g ∧
      keyed g.slots o.slot = some { st with count := if st.count = 1 then st.reload else st.count - 1 } ∧
      g.flags = f.flags ||| m.flags ∧ g.words = f.words ∧ u.mem = s.mem ∧ u.scratch = s.scratch ∧ u.tiles = s.tiles) ∧
  (∀ (s : State) (site : Nat),
    let now := s.carNow site
    let kept := s.carJobs.filter (fun j =>
      !(j.site == site && (j.delivered && j.holds.all (fun r => decide (r.2 < now + 1)))))
    let s1 : State := { s with carClock := putKeyed s.carClock site (now + 1), carJobs := kept }
    (s.admitted site now = none → exec (.carouselEntry site) s = .next s1) ∧
    (∀ j, s.admitted site now = some j → ∃ g, s.gslot site j.gslot = some g ∧ g.broken = false ∧ j ∈ s.carJobs ∧
      j.entered = none ∧ j.delivered = false ∧
      (∀ r ∈ g.graph.reserves now, ∀ x ∈ s.carJobs, x.site = site → r ∉ x.holds) ∧
      exec (.carouselEntry site) s = .next { s1 with
        carJobs := updateFirst (· == j) (fun j => { j with entered := some now, holds := g.graph.reserves now }) kept })) ∧
  (∀ (s : State) (j : CarJob) (r t d : Nat) (g : GSlot) (i : Inst) (k : W64) (z : Bool) (rest : List CarJob),
    s.carJobs = j :: rest → j.entered = some t → j.delivered = false → s.gslot j.site j.gslot = some g →
    t + g.graph.lat ≤ s.carNow j.site →
    let lanes : List (Nat × Nat × BitVec 5) := g.graph.call j.op0 j.op1 j.op2 j.sc
    let first : BitVec 2048 := ofLanes 32 (lanes.map (fun e => e.1))
    let raised := flagsOf j.mask 64 (fun e => (lanes.getD e (0, 0, 0)).2.2)
    (j.who = .runner r → s.instAt j.site r = some i → i.phase = .waitXop d k z →
      ∃ u h, exec (.carouselResult j.site) s = .next u ∧ u.instAt j.site r = some h ∧ h.phase = .running ∧
        h.getV (BitVec.ofNat 5 d) = masked z k 32 (i.getV (BitVec.ofNat 5 d)) (elemAt 32 (ofLanes 32 (lanes.map (·.1)))) ∧
        (g.graph.two = true → h.getV (BitVec.ofNat 5 (d + 1))
          = masked z k 32 (i.getV (BitVec.ofNat 5 (d + 1))) (elemAt 32 (ofLanes 32 (lanes.map (·.2.1))))) ∧
        h.flags = i.flags ||| raised ∧ h.s = i.s ∧ h.m = i.m ∧ h.effects = i.effects ∧ h.pc = i.pc ∧
        u.carJobs = { j with delivered := true } :: rest ∧ { u with insts := s.insts, carJobs := s.carJobs } = s) ∧
    (∀ o m, j.who = .mu o.id → s.op o.id = some o → o.kind = .mu m →
      exec (.carouselResult j.site) s = .next ({ s with carJobs := { j with delivered := true } :: rest }.updateOp o.id (fun x =>
        { x with kind := .mu { m with out := m.out ++ [first], flags := m.flags ||| raised } })))) ∧
  (∀ (s : State) (o : Op) (n : Nat), s.op o.id = some o → o.kind = .xld n .fresh → o.heldOp = none → o.dropped = false →
    s.drained o.key.ctx = false → ∀ w ∈ [Instr.xldProcess o.id, .xldWaitRetry o.id],
    let image := (s.graphEntry o.key.ctx n).2
    ((s.graphEntry o.key.ctx n).1 = false → exec w s = .next (s.badGraph o n 0x01 image)) ∧
    ((s.graphEntry o.key.ctx n).1 = true → image.toNat % 64 ≠ 0 → exec w s = .next (s.badGraph o n 0x02 image)) ∧
    ((s.graphEntry o.key.ctx n).1 = true → image.toNat % 64 = 0 →
      (∀ g, s.slotOf o.site n = some g → g.image = image →
        exec w s = .next (s.setXld o.id (if g.st == .resident then .ready else .on g.slot false))) ∧
      (∀ k, s.slotOf o.site n = none → (upFrom 0 8).find? (fun k => (s.gslot o.site k).isNone) = some k →
        exec w s = .next (s.startLoad o k n image)))) ∧
  (∀ (s : State) (site k : Nat) (g : GSlot) (bs : List Byte), s.gslot site k = some g →
    s.fetchImage site (s.userAt site) g.image = .ok bs →
    (g.st = .loading → s.drained (s.userAt site) = false →
      (imageDefects bs (readGraph bs) = [] → ∃ u, exec (.graphLoadComplete site k false) s = .next u ∧
        u.gslot site k = some { g with st := .resident, graph := readGraph bs, lastUse := s.tick } ∧
        (∀ o ∈ u.ops, o.site = site → ∀ n b, o.kind ≠ .xld n (.on k b)) ∧
        { u with gslots := s.gslots, ops := s.ops, tlb := s.tlb, ctl := { u.ctl with walks := s.ctl.walks } } = s) ∧
      ((imageDefects bs (readGraph bs)).isEmpty = false → ∃ u, exec (.graphLoadComplete site k false) s = .next u ∧
        u.gslot site k = none)) ∧
    (g.stuck = true → ∀ again, exec (.configErrorReload site k again) s = .next s) ∧
    (g.st = .resident → g.stuck = false →
      (g.broken = false → ∀ again, ∃ u, exec (.configErrorReload site k again) s = .next u ∧
        u.gslot site k = some { g with broken := true } ∧
        (∀ j ∈ u.carJobs, j.site = site → j.gslot = k → j.delivered = false → j.entered = none ∧ j.holds = []) ∧
        (site ≠ ringmaster → (site, s.sys.rtime, false) ∈ u.hw.uncorrected) ∧
        u.frames = s.frames ∧ u.insts = s.insts ∧ u.ops = s.ops ∧ u.mem = s.mem ∧ u.scratch = s.scratch) ∧
      (g.broken = true → (∀ o ∈ s.ops, o.dropped = false) →
        (imageDefects bs (readGraph bs) = [] → ∃ u, exec (.configErrorReload site k false) s = .next u ∧
          u.gslot site k = some { g with graph := readGraph bs, broken := false } ∧ u.hw.eventSeq = s.hw.eventSeq + 1) ∧
        ∃ u, exec (.configErrorReload site k true) s = .next u ∧ u.haltedAt site (s.userAt site) = true ∧
          u.stuckSlot site k = true))) ∧
  ∀ (s : State) (o : Op) (n : Nat), s.op o.id = some o → o.kind = .xunl n false →
    let done (u : State) : State := u.updateOp o.id (fun x => { x with kind := .xunl n true })
    (s.slotOf o.site n = none → exec (.xunlComplete o.id) s = .next (done s)) ∧
    (∀ g, s.slotOf o.site n = some g → g.st = .resident → g.pins = 0 → s.slotBusyCar o.site g.slot = false →
      exec (.xunlComplete o.id) s = .next (done (s.emptySlot o.site g.slot))) ∧
    (∀ g, s.slotOf o.site n = some g → (g.pins ≠ 0 ∨ g.st = .loading) → exec (.xunlComplete o.id) s = .next s)

/-- R103, R261, R266 to R273: ENGINE_COMMAND_START, ENGINE_ELEMENT, ENGINE_FAULT_STOP and ENGINE_COMMAND_COMPLETE. How accesses tear
is log 49, what races in scratch show and leave log 65, which commands count among the eight log 64 (DESIGN CHOICE); the fields of a fault are log 50 (DEDUCED). -/
def Obligations.EngineSteps : Prop :=
  ∀ (s : State) (o : Op) (e : Engine), s.op o.id = some o → o.kind = .engine e →
    let now (u : State) (e1 : Engine) : State := u.updateOp o.id (fun x => { x with kind := .engine e1.publish })
    let others := s.ops.filterMap (fun x => if x.site == o.site && x.id != o.id then x.engine.map (fun y => (x, y)) else none)
    let act (a : EngineAct) := exec (.engineElement o.id a) s
    let running : Prop := e.started = true ∧ e.finished = false ∧ o.heldOp = none ∧ s.drained o.key.ctx = false
    let turned (e1 : Engine) : Prop := act .perform = .next (now s e1.trim)
    let stops (t : Trap) : Prop :=
      act .perform = .next s ∧
        (e.buf = [] → ∃ u, s.onlyLoads u ∧ exec (.engineFaultStop o.id) s = .next (u.stopEngine o t))
    let reads (input : Option Bool) (idx : Nat) : Prop :=
      (∀ u e1, s.readInput o e input idx = .ok (some (u, e1)) → act .perform = .next (now u e1)) ∧
      (s.readInput o e input idx = .ok none → act .perform = .next s) ∧
      (∀ t, s.readInput o e input idx = .error t → stops t)
    let out (k : Nat) (disp : Int) (n v : Nat) (psn : Bool) : EngineOut :=
      { loc := k, disp := disp, n := n, v := v, psn := psn, elem := e.elem, value := e.atValue }
    let at_ (k : Nat) (disp : Int) (elem value : Nat) (c : Cause) : Trap :=
      { cause := c, faddr := (e.place k disp).toNat, detail := e.detail 0 elem, value := BitVec.ofNat 64 value }
    (e.started = false → s.drained o.key.ctx = false →
      (∀ x ∈ others, x.2.started = false → o.seq < x.1.seq ∨ o.seq = x.1.seq ∧ o.prog ≤ x.1.prog) →
      (others.filter (fun x => x.2.started && !x.2.finished)).length < 8 →
      exec (.engineCommandStart o.id) s = .next (now s { e with started := true })) ∧
    (running → e.part = none → e.closed = false → e.buf.length ≤ 62 → e.allPerformed = false →
      (e.cmd = .cpy →
        (e.staged false e.i = none → reads (some false) e.i) ∧
        ∀ v p, e.staged false e.i = some (v, p) →
          turned { e with i := e.i + 1, buf := e.buf ++ [out 1 (e.boxDisp e.strideT e.i) e.size v p] }) ∧
      (e.cmd = .gth ∨ e.cmd = .sct →
        (e.staged true e.i = none → reads (some true) e.i) ∧
        (∀ x, e.staged true e.i = some (x, true) → stops (at_ 2 (e.i * e.indexSize : Nat) e.i 0 .poisonIndex)) ∧
        ∀ x, e.staged true e.i = some (x, false) →
          (e.staged false e.i = none → reads (some false) e.i) ∧
          ∀ v p, e.staged false e.i = some (v, p) →
            (e.cmd = .gth → turned { e with i := e.i + 1, buf := e.buf ++ [out 1 (e.i * e.strideT 0) e.size v p] }) ∧
            (e.cmd = .sct → turned { e with i := e.i + 1, buf := e.buf ++ [out 1 (x * e.size : Nat) e.size v p] })) ∧
      (e.cmd = .isect →
        (e.staged false e.i = none → reads (some false) e.i) ∧
        (∀ x, e.staged false e.i = some (x, true) → stops (at_ 0 (e.i * e.unit : Nat) e.m e.cursor .poisonConsumed)) ∧
        ∀ a, e.staged false e.i = some (a, false) →
          (∀ p, e.prevA = some p → a ≤ p → stops (e.fieldTrap .streamOrder 3 a)) ∧
          ((∀ p, e.prevA = some p → p < a) →
            (e.staged true e.j = none → reads (some true) e.j) ∧
            (∀ x, e.staged true e.j = some (x, true) → stops (at_ 1 (e.j * e.unit : Nat) e.m e.cursor .poisonConsumed)) ∧
            ∀ b, e.staged true e.j = some (b, false) →
              (∀ p, e.prevB = some p → b ≤ p → stops (e.fieldTrap .streamOrder 4 b)) ∧
              ((∀ p, e.prevB = some p → p < b) →
                (a = b → e.m = e.cap → stops (e.fieldTrap .sparseFieldOverflow 0 e.m)) ∧
                (a = b → e.m ≠ e.cap → turned { e with
                  i := e.i + 1, j := e.j + 1, m := e.m + 1, prevA := some a, prevB := some b
                  buf := e.buf ++ [out 2 (8 + 8 * e.m : Nat) 8 (e.i % 2 ^ 32 + e.j % 2 ^ 32 * 2 ^ 32) false] }) ∧
                (a < b → turned { e with i := e.i + 1, prevA := some a }) ∧
                (b < a → turned { e with j := e.j + 1, prevB := some b })))) ∧
      (e.cmd = .smerge →
        let record (k : Nat) (rest : Nat × Bool) : List EngineOut :=
          e.buf ++ [out 2 (e.m * e.recordSize : Nat) e.recordSize (k + rest.1 * 256 ^ e.size) rest.2]
        let takesA (a : Nat) : Prop :=
          (∀ p, e.prevA = some p → a < p → stops (e.fieldTrap .streamOrder 3 a)) ∧
          ((∀ p, e.prevA = some p → p ≤ a) →
            (e.recordSize = e.size →
              turned { e with i := e.i + 1, m := e.m + 1, prevA := some a, rest := none, buf := record a (0, false) }) ∧
            (e.recordSize ≠ e.size → (e.rest = none → reads none e.i) ∧ ∀ r, e.rest = some r →
              turned { e with i := e.i + 1, m := e.m + 1, prevA := some a, rest := none, buf := record a r }))
        let takesB (b : Nat) : Prop :=
          (∀ p, e.prevB = some p → b < p → stops (e.fieldTrap .streamOrder 4 b)) ∧
          ((∀ p, e.prevB = some p → p ≤ b) →
            (e.recordSize = e.size →
              turned { e with j := e.j + 1, m := e.m + 1, prevB := some b, rest := none, buf := record b (0, false) }) ∧
            (e.recordSize ≠ e.size → (e.rest = none → reads none e.j) ∧ ∀ r, e.rest = some r →
              turned { e with j := e.j + 1, m := e.m + 1, prevB := some b, rest := none, buf := record b r }))
        (∀ a, e.j = e.countB → e.staged false e.i = some (a, false) → takesA a) ∧
        (∀ b, e.i = e.countA → e.j < e.countB → e.staged true e.j = some (b, false) → takesB b) ∧
        (∀ a b, e.i < e.countA → e.j < e.countB → e.staged false e.i = some (a, false) → e.staged true e.j = some (b, false) →
          (a ≤ b → takesA a) ∧ (b < a → takesB b)) ∧
        (e.i < e.countA → e.staged false e.i = none → reads (some false) e.i) ∧
        (∀ x, e.i < e.countA → e.staged false e.i = some (x, true) →
          stops (at_ 0 (e.i * e.unit : Nat) e.m e.cursor .poisonConsumed)) ∧
        ((∀ x, e.i < e.countA → e.staged false e.i ≠ some (x, true) ∧ e.staged false e.i ≠ none) → e.j < e.countB →
          (e.staged true e.j = none → reads (some true) e.j) ∧
          ∀ x, e.staged true e.j = some (x, true) → stops (at_ 1 (e.j * e.unit : Nat) e.m e.cursor .poisonConsumed))) ∧
      (e.cmd = .cmpct → e.rowPut = false →
        (256 ^ e.offsetSize ≤ e.m → stops (e.fieldTrap .sparseFieldOverflow 1 e.m)) ∧
        (e.m < 256 ^ e.offsetSize → act .perform = .next (now s { e with
          rowPut := true, buf := e.buf ++ [out 3 (e.i * e.offsetSize : Nat) e.offsetSize e.m false] }))) ∧
      (e.cmd = .cmpct → e.rowPut = true →
        let c := e.i * e.extent 0 + e.j
        let next (e : Engine) : Engine :=
          if e.j + 1 < e.extent 0 then { e with j := e.j + 1 } else { e with i := e.i + 1, j := 0, rowPut := false }
        (e.staged false c = none → reads (some false) c) ∧
        (∀ x, e.staged false c = some (x, true) → stops (at_ 0
          ((c / e.extent 0 : Nat) * e.strideS 1 + (c % e.extent 0 : Nat) * e.strideS 0) e.m e.cursor .poisonConsumed)) ∧
        (e.staged false c = some (0, false) → turned (next e)) ∧
        ∀ x, x ≠ 0 → e.staged false c = some (x, false) →
          (256 ^ e.columnSize ≤ e.j → stops (e.fieldTrap .sparseFieldOverflow 2 e.j)) ∧
          (e.j < 256 ^ e.columnSize → turned (next { e with
            m := e.m + 1
            buf := e.buf ++ [out 2 (e.m * e.columnSize : Nat) e.columnSize e.j false, out 1 (e.m * e.size : Nat) e.size x false] })))) ∧
    (running → e.part = none → e.closed = false → e.buf.length ≤ 62 → e.allPerformed = true →
      (e.cmd = .isect → act .perform = .next (now s { e with closed := true, buf := e.buf ++ [out 2 0 8 e.m false] })) ∧
      (e.cmd = .cmpct →
        (256 ^ e.offsetSize ≤ e.m → stops (e.fieldTrap .sparseFieldOverflow 1 e.m)) ∧
        (e.m < 256 ^ e.offsetSize → act .perform = .next (now s { e with
          closed := true, buf := e.buf ++ [out 3 (e.i * e.offsetSize : Nat) e.offsetSize e.m false] }))) ∧
      (e.cmd ≠ .isect → e.cmd ≠ .cmpct → act .perform = .next (now s { e with closed := true }))) ∧
    (∀ second, running → e.part = none → e.closed = false →
      let next := e.unread second
      (e.total second ≤ next ∨ 64 ≤ (e.win second).length → act (.stage second) = .next s) ∧
      ((e.win second).length < 64 → next < e.total second →
        (∀ u e1, s.readInput o e (some second) next = .ok (some (u, e1)) → act (.stage second) = .next (now u e1)) ∧
        (s.readInput o e (some second) next = .ok none → act (.stage second) = .next s) ∧
        (∀ t, s.readInput o e (some second) next = .error t → ∃ u, s.onlyLoads u ∧ act (.stage second) = .next (now u e)))) ∧
    (∀ input idx k disp n, e.source input idx = some (k, disp, n) →
      let off := (e.place k disp).toNat
      let bound := s.scratchBound o.key.ctx
      let got (v : Nat) (p : Bool) : Engine :=
        { e with
          part := none
          rest := if input = none then some (v, p) else e.rest
          winA := if input = some false then e.winA ++ [(idx, v, p)] else e.winA
          winB := if input = some true then e.winB ++ [(idx, v, p)] else e.winB }
      let key := scratchKey o.site o.key.ctx off
      (e.inScratch k = true → 0 ≤ e.place k disp → off + n ≤ bound →
        let r := e.race.look s.scratch key n
        let m := r.view s.scratch
        s.readInput o e input idx = .ok (some (s, { got (m.read key n) (m.poisoned key n) with race := r })) ∧
        (e.race.seen = [] → s.scratch.wf → m.read key n = s.scratch.read key n ∧
          m.poisoned key n = s.scratch.poisoned key n)) ∧
      (e.inScratch k = true → 0 ≤ e.place k disp → 0 < n → bound < off + n →
        s.readInput o e input idx = .error (at_ k disp e.elem e.atValue .scratchRange)) ∧
      (∀ pa, e.inScratch k = false → input ≠ none → 0 < n → n ≤ 8 → off % n = 0 → 4096 % n = 0 →
        s.locate o.site o.key.ctx .engineRead off n = .ok pa →
        (s.engineMay o pa n = false → s.readInput o e input idx = .ok none) ∧
        (s.engineMay o pa n = true → pa < 2 ^ 48 → ∃ u, { u with tlb := s.tlb, ctl := { u.ctl with walks := s.ctl.walks } } = s ∧
          s.readInput o e input idx = .ok (some (u, got ((s.physRead pa n).1 % 256 ^ n) (s.physRead pa n).2)))) ∧
      (∀ x, e.inScratch k = false → off % 4096 + n ≤ 4096 → s.locate o.site o.key.ctx .engineRead off n = .error x →
        s.readInput o e input idx = .error { at_ k disp e.elem e.atValue (.walk x.fault .engineRead) with level := x.level })) ∧
    (running → ∀ x rest, e.buf = x :: rest →
      let off := (e.place x.loc x.disp).toNat
      let bound := s.scratchBound o.key.ctx
      let key := scratchKey o.site o.key.ctx off
      let fault (t : Trap) : Prop :=
        act .write = .next s ∧ ∃ u, s.onlyLoads u ∧ exec (.engineFaultStop o.id) s = .next (u.stopEngine o t)
      let races := s.racesOf o.site o.key.ctx true
      (e.inScratch x.loc = true → 0 ≤ e.place x.loc x.disp → off + x.n ≤ bound → s.scratch.wf →
        (races = [] → e.race.kept = [] →
          ∃ m, act .write = .next (now { s with scratch := m }
              { e with buf := rest, race := e.race.written key x.n x.v x.psn }) ∧
            (∀ b, b < x.n → m.byte (key + b) = BitVec.ofNat 8 (x.v / 256 ^ b)) ∧
            (∀ a, a < key ∨ key + x.n ≤ a → m.byte a = s.scratch.byte a)) ∧
        ∃ u, act .write = .next u ∧ { u with ops := s.ops, tokens := s.tokens, scratch := s.scratch } = s ∧
          (∀ b, b < x.n → u.scratch.byte (key + b) = BitVec.ofNat 8 (x.v / 256 ^ b) ∨
            (races ≠ [] ∨ e.race.kept ≠ []) ∧ u.scratch.byte (key + b) = s.scratch.byte (key + b)) ∧
          (∀ a, a < key ∨ key + x.n ≤ a → u.scratch.byte a = s.scratch.byte a)) ∧
      (e.inScratch x.loc = true → 0 ≤ e.place x.loc x.disp → 0 < x.n → bound < off + x.n →
        fault (at_ x.loc x.disp x.elem x.value .scratchRange)) ∧
      (∀ pa, e.inScratch x.loc = false → e.cmd ≠ .smerge → x.put = 0 → x.n = 1 ∨ x.n = 2 ∨ x.n = 4 ∨ x.n = 8 →
        off % x.n = 0 → s.locate o.site o.key.ctx .engineWrite off x.n = .ok pa →
        (s.engineMay o pa x.n = false → act .write = .next s) ∧
        (s.engineMay o pa x.n = true → pa + x.n ≤ rmBoxBase ∨ rmBoxBase + 0x10000 ≤ pa → pa + x.n ≤ 2 ^ 48 → s.mem.wf →
          ∃ u, act .write = .next (now u { e with buf := rest }) ∧
            (∀ b, b < x.n → u.mem.byte (pa + b) = BitVec.ofNat 8 (x.v / 256 ^ b)) ∧
            (∀ a, a < pa ∨ pa + x.n ≤ a → u.mem.byte a = s.mem.byte a) ∧
            { u with mem := s.mem, tlb := s.tlb, ctl := { u.ctl with walks := s.ctl.walks } } = s)) ∧
      (∀ y, e.inScratch x.loc = false → x.put = 0 → off % 4096 + x.n ≤ 4096 →
        s.locate o.site o.key.ctx .engineWrite off x.n = .error y →
        fault { at_ x.loc x.disp x.elem x.value (.walk y.fault .engineWrite) with level := y.level })) ∧
    (running → e.closed = true → e.buf = [] → e.part = none →
      exec (.engineCommandComplete o.id) s = .next (now s { e with finished := true })) ∧
    (running → (e.closed = false ∨ e.buf ≠ []) → exec (.engineCommandComplete o.id) s = .next s)

/-- R48, R248, R330, R349 to R351, R374, R387 and R401: LAUNCH_INJECT, LAUNCH_WAVE, LAUNCH_WATCHDOG, LAUNCH_KILL_MARK,
TAGWIN_REQUEST, TAGWIN_INSTALL, TIMER_EXPIRY, TIME_WORD_STORE and QUANTUM_EXPIRY. Log 16 (DESIGN CHOICE), 39 (DESIGN CHOICE),
33 (DEDUCED), 44 (DEDUCED), 45 (DEDUCED), 62 (DESIGN CHOICE), 67 (DEDUCED). -/
def Obligations.LaunchAndTimerSteps : Prop :=
  (∀ (s : State) (l : Launch), s.launch l.ctx l.lid = some l →
    (∀ die off s1 d c, l.nextOffset die = some off →
      let counted : State := (s.updateLaunch l.ctx l.lid (fun l =>
        { l with injected := putKeyed l.injected die ((keyed l.injected die).getD 0 + 1) })).count (1152 + die) l.ctx l.lid 1 0
      counted.loadDesc (s.injector l die) l.ctx l.cb = (s1, .ok d) →
      s1.resolve (s.injector l die) l.cells d l.ctx l.cb (BitVec.ofNat 32 (l.tbase + off)) = .ok c →
      ∃ u, ∃ t ∈ u.tokens, exec (.launchInject die l.ctx l.lid) s = .next u ∧
        t.key = ⟨l.ctx, l.cb, BitVec.ofNat 32 (l.tbase + off)⟩ ∧ t.dcell = c ∧ t.slot = l.slot ∧ t.lid = l.lid ∧
        t.epoch = l.epoch ∧ t.phase = .offered ∧ t.committed = true ∧ t.source = .launch ∧
        t.payload = (if l.word then .word (l.arg + BitVec.ofNat 64 off * l.astep) else .none) ∧
        t.idx = (if l.word then l.idx else 0) ∧
        u.launch l.ctx l.lid
          = some { l with injected := putKeyed l.injected die ((keyed l.injected die).getD 0 + 1) } ∧
        counted.onlyLoads { u with tokens := counted.tokens, nextId := counted.nextId }) ∧
    (s.sys.rtime < l.lastWave + 1024 ∨ l.watch = true → exec (.launchWave l.ctx l.lid) s = .next s) ∧
    (l.watch = false → l.lastWave + 1024 ≤ s.sys.rtime →
      (∀ ts, l.sent = l.tags → s.wave l.ctx l.lid = (0, ts, ts) → l.prev = some ts →
        ∃ u, exec (.launchWave l.ctx l.lid) s = .next u ∧ u.launch l.ctx l.lid = none ∧ u.mem = s.mem ∧
          (∀ c, (c ∈ u.counts ∨ ∃ m ∈ u.ctl.images, c ∈ m.counts) → ¬(c.ctx = l.ctx ∧ c.lid = l.lid)) ∧
          (s.firmwareHalted = true → u.io = s.io) ∧
          (∀ p, s.firmwareHalted = false → l.orphan = false → s.io.packets.find? (fun p => p.uid == l.pkt) = some p →
            let st := if l.killed then 3 else if l.halted then 4 else 0
            { p with phase := .finished, status := st, detail := if st = 0 then BitVec.ofNat 64 l.sent else 0 } ∈ u.io.packets)) ∧
      (∀ busy ts tr, s.wave l.ctx l.lid = (busy, ts, tr) → ¬(l.sent = l.tags ∧ busy = 0 ∧ ts = tr ∧ l.prev = some ts) →
        let idle := if ts = l.lastTs then l.idle + 1024 else 0
        ∃ u, exec (.launchWave l.ctx l.lid) s = .next u ∧ { u with ctl := s.ctl } = s ∧
          u.launch l.ctx l.lid = some { l with
            prev := if l.sent = l.tags ∧ busy = 0 ∧ ts = tr then some ts else none
            lastTs := ts
            idle := idle
            lastWave := s.sys.rtime
            watch := decide (s.sys.wdog ≠ 0 ∧ s.sys.wdog ≤ idle) })) ∧
    (l.watch = true → exec (.launchWatchdog l.ctx l.lid) s
      = .next ((s.updateLaunch l.ctx l.lid (fun l => { l with idle := 0, lastWave := s.sys.rtime, watch := false })).raiseEvent 3
          (64 * l.ctx + l.lid) [BitVec.ofNat 64 l.lastTs])) ∧
    (l.watch = false → exec (.launchWatchdog l.ctx l.lid) s = .next s) ∧
    (∀ site, l.killed = true → l.ctx ≠ 0 → s.residentAt site l.ctx = true → (site, l.ctx, l.lid) ∉ s.killed →
      ∃ u, exec (.launchKillMark site l.ctx l.lid) s = .next u ∧ (site, l.ctx, l.lid) ∈ u.killed ∧
        (∀ f ∈ u.frames, f.site = site → f.key.ctx = l.ctx → f.lid = l.lid → u.running site f.key none = true) ∧
        (∀ it ∈ u.items, ¬(it.site = site ∧ it.key.ctx = l.ctx ∧ it.lid = l.lid)) ∧
        (∀ r ∈ u.ready, ¬(r.site = site ∧ r.key.ctx = l.ctx ∧ ∃ f, s.frameAt site r.key = some f ∧ f.lid = l.lid)) ∧
        u.mem = s.mem ∧ u.scratch = s.scratch ∧ u.insts = s.insts)) ∧
  (∀ (s : State) (i : Inst), s.instAt i.site i.runner = some i → i.phase = .offering → i.windowSets.isEmpty = false →
    s.canCommit i = true → ∃ u, exec (.tagwinRequest i.site i.runner) s = .next u ∧
      u.ctl.tagwins = s.ctl.tagwins ++
        [⟨s.nextId, i.key.ctx, i.site, i.runner, i.windowSets,
          if i.key.ctx = 0 then packageCells else ((s.resident i.key.ctx).map (·.cells)).getD [], []⟩] ∧
      u.instAt i.site i.runner = some { i with phase := .tagwin s.nextId } ∧
      { u with insts := s.insts, nextId := s.nextId, ctl := s.ctl } = s) ∧
  (∀ (s : State) (site ctx : Nat) (r : TagwinReq),
    leastBy (·.no) (s.ctl.tagwins.filter (fun r => r.ctx == ctx && r.cells.contains site && !r.installed.contains site)) = some r →
    (r.sets.map (·.1)).Nodup → (∀ t ∈ s.tokens, t.dcell = site → t.inPark = false) →
    ∃ u, exec (.tagwinInstall site ctx) s = .next u ∧
      (∀ e ∈ r.sets, u.windowAt site ctx e.1 = some ⟨site, ctx, e.1, e.2.2, e.2.1⟩) ∧
      (∀ x y cb, (x, y) ≠ (site, ctx) → u.windowAt x y cb = s.windowAt x y cb) ∧
      (∀ cb, cb ∉ r.sets.map (·.1) → u.windowAt site ctx cb = s.windowAt site ctx cb) ∧
      { u with windows := s.windows, ctl := { u.ctl with tagwins := s.ctl.tagwins } } = s) ∧
  (∀ (s : State) (n c : Nat) (far : Option (Nat × Nat)) (t : Timer), keyed s.sys.timers n = some t →
    t.due s.sys.rtime = true → s.timerTarget t.tref = some (c, far) →
    ∃ u, ∃ k ∈ u.tokens, exec (.timerExpiry n) s = .next u ∧ k.dcell = c ∧ k.remote = far ∧ k.key = refKey 0 t.tref ∧ k.kind = 1 ∧
      k.epoch = wbit t.tref 56 ∧ k.slot = wfield t.ctl 1 4 ∧ k.idx = wfield t.ctl 5 8 ∧ k.payload = .word (BitVec.ofNat 64 s.sys.rtime) ∧
      (keyed u.sys.timers n).map Timer.armed = some false ∧
      { u with tokens := s.tokens, nextId := s.nextId, sys := { u.sys with timers := s.sys.timers } } = s) ∧
  (∀ (s : State), let a := wfield s.sys.timeaddr 3 49 * 8
    let mark := (s.sys.rtime + 9) / 1024 * 1024
    let stored : State := { s with sys := { s.sys with lastTimeWord := mark } }
    (¬(wbit s.sys.timeaddr 0 = true ∧ s.sys.lastTimeWord < mark) → exec .timeWordStore s = .next s) ∧
    (wbit s.sys.timeaddr 0 = true → s.sys.lastTimeWord < mark →
      (s.ringReaches a 8 = true → a < 2 ^ 48 → inBox a = false → s.mem.wf → ∃ u, exec .timeWordStore s = .next u ∧
        u.mem.read a 8 = s.sys.rtime % 2 ^ 64 ∧ (∀ b, b < a ∨ a + 8 ≤ b → u.mem.byte b = s.mem.byte b) ∧
        { u with mem := s.mem } = stored) ∧
      (s.ringReaches a 8 = true → 2 ^ 48 ≤ a → Config.hostAnswers s.tick = false →
        exec .timeWordStore s = .next (stored.healthEvent 0x07 (sourceWord ringmaster 0))) ∧
      (s.ringReaches a 8 = false → exec .timeWordStore s = .next stored))) ∧
  (∀ (s : State) (part : Nat), s.firmwareHalted = true → exec (.quantumExpiry part) s = .next s) ∧
  ∀ (s : State) (part c : Nat), s.firmwareHalted = false → (∀ w ∈ s.ctl.switches, w.part ≠ part) →
    s.firstWaiting part = some c →
    (s.residentIn part = none → exec (.quantumExpiry part) s = .next { s with
      ctl := { s.ctl with switches := s.ctl.switches ++ [⟨some c, part, .firmware⟩] } }) ∧
    (∀ r, s.residentIn part = some r → r.phase = .up → s.resident r.ctx = some r →
      (s.priority r.ctx < s.priority c ∨ s.hasLaunch r.ctx = false ∨
          (s.priority r.ctx = s.priority c ∧ r.since + 1000 * s.ctl.quantum ≤ s.sys.rtime) →
        ∃ u, exec (.quantumExpiry part) s = .next u ∧ (u.resident r.ctx).map (·.phase) = some .stopping ∧
          ⟨some c, part, .firmware⟩ ∈ u.ctl.switches ∧ { u with ctl := s.ctl } = s ∧
          (s.ctl.launches.any (fun l => l.ctx == r.ctx) = true → r.ctx ∈ u.ctl.waiting)) ∧
      (¬(s.priority r.ctx < s.priority c ∨ s.hasLaunch r.ctx = false ∨
          (s.priority r.ctx = s.priority c ∧ r.since + 1000 * s.ctl.quantum ≤ s.sys.rtime)) →
        exec (.quantumExpiry part) s = .next s))

/-- R316 to R324, R355 and R416: REGISTER_WRITE, QUEUE_ENABLE, QUEUE_DISABLE, QUEUE_KICK, F1BIND_WRITE, APERTURE_READ,
APERTURE_WRITE, DOORBELL and PLIM_WRITE. Log 36 (DEDUCED), 37 (DEDUCED), 65 (DESIGN CHOICE). -/
def Obligations.HostInterfaceSteps : Prop :=
  let onlyQueue (s t : State) (fn q : Nat) : Prop := (∀ f p, 256 * f + p ≠ 256 * fn + q → t.queue f p = s.queue f p) ∧
    { t with io := { t.io with queues := s.io.queues } } = s
  (∀ (s : State) (fn q : Nat) (v : W64), fn < 2 → q < 256 →
    let u := s.queue fn q
    let w := u.write fn v
    let bound := if fn = 1 then (keyed s.io.f1bind q).getD 0 else 0
    let sound : Prop := 4 ≤ w.qlog ∧ w.qlog ≤ 15 ∧ 4 ≤ w.cqlog ∧ w.cqlog ≤ 15 ∧ w.qbase % 4096 = 0 ∧ w.cqbase % 4096 = 0 ∧
      (fn = 1 → bound ≠ 0)
    (wbit v 0 = true → ∃ t : State, exec (.queueEnable fn q v) s = .next t ∧ onlyQueue s t fn q ∧
      (u.en = true → t.queue fn q = { u with vec := wfield v 15 11, ien := wbit v 26 }) ∧
      (u.en = false → sound → t.queue fn q = { w with
        en := true, status := 0, misses := 0, cidx := 0, cqhead := 0, limit := 0, k := 0, stopped := false }) ∧
      (u.en = false → ¬sound → t.queue fn q = { w with status := 4 })) ∧
    (wbit v 0 = false → ∃ t : State, exec (.queueDisable fn q v) s = .next t ∧ onlyQueue s t fn q ∧
      t.queue fn q = { w with en := false }) ∧
    (u.en = false → w.loc = wbit v 1 ∧ w.qlog = wfield v 2 4 ∧ w.vec = wfield v 15 11 ∧ w.ien = wbit v 26 ∧
      (fn = 0 → w.ctx = wfield v 6 8 ∧ w.ctl = wbit v 14) ∧ (fn = 1 → w.ctx = u.ctx ∧ w.ctl = u.ctl)) ∧
    (∀ pidx : BitVec 32,
      (u.en = false → exec (.queueKick fn q pidx) s = .next s) ∧
      (u.en = true → 2 ^ u.qlog < countUp pidx.toNat u.cidx → ∃ t : State, exec (.queueKick fn q pidx) s = .next t ∧
        onlyQueue s t fn q ∧ t.queue fn q = { u with status := 2 }) ∧
      (u.en = true → countUp pidx.toNat u.cidx ≤ 2 ^ u.qlog →
        ∃ t : State, exec (.queueKick fn q pidx) s = .next (t.raiseEvent 0 (256 * fn + q) [pidx.setWidth 64]) ∧ onlyQueue s t fn q ∧
          t.queue fn q = { u with
            limit := if countUp pidx.toNat u.limit ≤ 2 ^ u.qlog then pidx.toNat else u.limit
            misses := if u.stopped then 0 else u.misses, stopped := false, status := 0 })) ∧
    exec (.registerWrite 0 fn (0x20000 + 8 * q) true v) s = exec (.queueKick fn q (v.setWidth 32)) s ∧
    exec (.registerWrite 0 fn (0x1000 + 64 * q) true v) s
      = (if wbit v 0 then exec (.queueEnable fn q v) s else exec (.queueDisable fn q v) s) ∧
    (∃ t : State, exec (.registerWrite 0 fn (0x1008 + 64 * q) true v) s = .next t ∧
      t.queue fn q = if u.en then u else { u with qbase := v.toNat }) ∧
    exec (.registerWrite 0 0 (0x30000 + 8 * q) true v) s = exec (.f1bindWrite q v) s ∧
    exec (.f1bindWrite q v) s = .next (if (s.queue 1 q).en then s else
      { s with io := { s.io with f1bind := putKeyed s.io.f1bind q (v.toNat % 2 ^ 8) } })) ∧
  (∀ (s : State) (v : W64) (fn : Nat), fn < 2 →
    exec (.registerWrite 0 fn 8 true v) s
      = .next { s with io := { s.io with apbase := putKeyed s.io.apbase fn (v.toNat / 2 ^ 36 % 2 ^ 5) } } ∧
    exec (.registerWrite 4 0 0 false v) s = exec (.doorbell (v.setWidth 32)) s ∧
    exec (.registerWrite 4 0 0x8010 true v) s = exec (.plimWrite v) s ∧
    exec (.plimWrite v) s = .next { s with hw := { s.hw with plim := v.toNat % 2 ^ 16 } } ∧
    (∀ off, s.mem.wf → 0x100 ≤ off → off + 8 ≤ 0x1000 → off % 8 = 0 → ∃ t : State, exec (.registerWrite 4 0 off true v) s = .next t ∧
      t.mem.read (rmBoxBase + off) 8 = v.toNat ∧
      (∀ a, a < rmBoxBase + off ∨ rmBoxBase + off + 8 ≤ a → t.mem.byte a = s.mem.byte a) ∧
      { t with mem := s.mem } = { s with io := { s.io with reqOld :=
        if s.io.mbBusy then s.io.reqOld ++ [s.mem.copyUnit (rmBoxBase + off)] else s.io.reqOld } })) ∧
  (∀ (s : State) (v : BitVec 32),
    (s.io.mbBusy = true → exec (.doorbell v) s = .next s) ∧
    (s.io.mbBusy = false → exec (.doorbell v) s = .next
      ({ s with io := { s.io with mbBusy := true, doorbell := v, doorbells := s.io.doorbells + 1 } }.raiseEvent 7
        (s.io.doorbells + 1).toNat [v.setWidth 64]))) ∧
  ∀ (s : State) (fn off len : Nat) (data : W64) (psn : Bool), fn < 2 → 0 < len → off % 8 + len ≤ 8 → off + len ≤ 2 ^ 36 →
    let a := (keyed s.io.apbase fn).getD 0 * 2 ^ 36 + off
    let seen : HostRead :=
      if s.inPools a len then .data (BitVec.ofNat 64 (s.physRead a len).1) (s.physRead a len).2 else .unsupported
    exec (.apertureRead fn off len) s = .next { s with io := { s.io with hostRead := seen } } ∧
    (s.inPools a len = false → exec (.apertureWrite fn off len data psn) s = .next s) ∧
    (s.inPools a len = true → s.mem.wf → a + len < 2 ^ 43 → ∃ t : State, exec (.apertureWrite fn off len data psn) s = .next t ∧
      (∀ j, j < len → t.mem.byte (a + j) = BitVec.ofNat 8 (data.toNat / 256 ^ j)) ∧
      (∀ b, b < a ∨ a + len ≤ b → t.mem.byte b = s.mem.byte b) ∧ { t with mem := s.mem } = s)

/-- R325 to R338, R402 to R406: PACKET_FETCH, PACKET_REREAD, PACKET_START, LAUNCH_PACKET, LOAD_GRAPH_PACKET, MEMORY_COPY,
MEMORY_FILL, FENCE_PACKET, FENCE_POLL, FREEZE_PACKET, RESUME_PACKET and COMPLETION_RECORD. Log 16 (DESIGN CHOICE),
18 (DESIGN CHOICE), 33 (DEDUCED), 36 (DEDUCED), 38 (DEDUCED), 39 (DESIGN CHOICE), 40 (DEDUCED). -/
def Obligations.PacketSteps : Prop :=
  let named (s : State) (u : Nat) : Option Packet := s.io.packets.find? (fun x => x.uid == u)
  let becomes (s t : State) (p : Packet) : Prop :=
    named t p.uid = some p ∧ { t with io := { t.io with packets := s.io.packets } } = s
  let ends (s t : State) (p : Packet) (st : Nat) (d : W64) : Prop :=
    becomes s t { p with phase := .finished, status := st, detail := d }
  let walked (s t : State) : State := { t with ctl := { t.ctl with walks := s.ctl.walks } }
  (∀ (s : State) (fn q : Nat) (agree : Bool), s.fetches fn q = true →
    let u := s.queue fn q
    let a := u.qbase + 128 * (u.cidx % 2 ^ u.qlog)
    let words := (upFrom 0 16).map (fun k => (s.ringWord u (a + 8 * k)).1)
    let clean : Prop := s.ringReached u a 128 = true ∧ ∀ k, k < 16 → (s.ringWord u (a + 8 * k)).2 = false
    let expected : Prop := agree = true ∧ (words.getD 0 0).toNat % 2 ^ 32 = 0x80000000 + u.cidx % 2 ^ 31
    (u.misses ≠ 0 → u.readAt + 1000 ≤ s.sys.rtime) →
    let w (e : Bool) : Instr := if u.misses = 0 then .packetFetch fn q agree e else .packetReread fn q agree e
    (∃ t : State, exec (w true) s = .next (t.raiseEvent 4 (256 * fn + q) [3]) ∧ t.queue fn q = { u with status := 3, stopped := true }) ∧
    (¬clean → ∃ t : State, exec (w false) s = .next (t.raiseEvent 4 (256 * fn + q) [3]) ∧
      t.queue fn q = { u with status := 3, stopped := true }) ∧
    (clean → expected → ∃ (t : State) (p : Packet), exec (w false) s = .next t ∧ t.io.packets = s.io.packets ++ [p] ∧ p.uid = s.nextId ∧ p.fn = fn ∧ p.q = q ∧
      p.i = u.cidx ∧ p.ctx = s.queueCtx fn q ∧ p.words = words ∧ p.phase = .accepted ∧
      t.queue fn q = { u with cidx := (u.cidx + 1) % 2 ^ 32, misses := 0 } ∧ t.host = s.host) ∧
    (clean → ¬expected → u.misses ≠ 64 → ∃ t : State, exec (w false) s = .next t ∧
      t.queue fn q = { u with misses := u.misses + 1, readAt := s.sys.rtime } ∧
      { t with io := { t.io with queues := s.io.queues } } = s) ∧
    (clean → ¬expected → u.misses = 64 → ∃ t : State, exec (w false) s = .next (t.raiseEvent 4 (256 * fn + q) [1]) ∧
      t.queue fn q = { u with status := 1, stopped := true })) ∧
  (∀ (s : State) (p : Packet), named s p.uid = some p →
    let mine := s.io.packets.filter (fun x => x.fn == p.fn && x.q == p.q)
    let before := mine.takeWhile (fun x => x.phase != .accepted)
    (mine.find? (fun x => x.phase == .accepted) = some p →
      (s.mayStart p before = false → exec (.packetStart p.fn p.q) s = .next s) ∧
      (s.mayStart p before = true → s.wellFormedPacket p = false →
        ∃ t : State, exec (.packetStart p.fn p.q) s = .next t ∧ ends s t p 1 0) ∧
      (s.mayStart p before = true → s.wellFormedPacket p = true → ∃ t : State, exec (.packetStart p.fn p.q) s = .next t ∧
        becomes s t { p with phase := .started, lid := if packetType p.words = 1 then (s.freeLid p.ctx).getD 0 else 0 })) ∧
    (s.startedPacket p.fn p.q p.i 1 .started = some p → let w : Instr := .launchPacket p.fn p.q p.i
      (∀ st, s.launchDefect p = some st → ∃ t : State, exec w s = .next t ∧ ends s (walked s t) p st 0) ∧
      (s.launchDefect p = none → s.seizes p.ctx = true → ∃ t : State, exec w s = .next t ∧ { t with ctl := s.ctl } = s ∧
        t.ctl.launches = s.ctl.launches) ∧
      (s.launchDefect p = none → s.seizes p.ctx = false → ∃ t : State, exec w s = .next t ∧
        t.ctl.launches = s.ctl.launches ++ [s.newLaunch p] ∧ named t p.uid = some { p with phase := .running } ∧ t.mem = s.mem ∧
        (s.resident p.ctx = none → p.ctx ∈ t.ctl.waiting) ∧
        (∀ e ∈ t.lcache, ¬(e.ctx = p.ctx ∧ e.site ∈ (s.newLaunch p).cells)) ∧
        (∀ e ∈ t.icache, e.site ∉ (s.newLaunch p).cells) ∧
        { t with io := s.io, ctl := s.ctl, lcache := s.lcache, icache := s.icache } = s)) ∧
    (s.openPacket p.fn p.q p.i 2 = some p → let w : Instr := .loadGraphPacket p.fn p.q p.i
      (s.firmwareHalted = true → exec w s = .next s) ∧
      (s.firmwareHalted = false → p.phase = .started → s.hasLaunch p.ctx = false → (∀ x ∈ s.ctl.switches, x.part ≠ wfield (s.ctxWord p.ctx 0) 1 6) →
        (s.resident p.ctx = none →
          (∀ u, (s.noteList p).installRecords p = some u → exec w s = .next (u.finishPacket p.uid 0 0)) ∧
          ((s.noteList p).installRecords p = none → ∃ t : State, exec w s = .next t ∧ ends s (walked s t) p 1 0)) ∧
        ((s.resident p.ctx).isSome = true → ∃ t : State, exec w s = .next t ∧
          (named t p.uid).map (·.phase) = some .running ∧ t.mem = s.mem)) ∧
      (s.firmwareHalted = false → p.phase = .running → p.progress = 2 → (∀ x ∈ s.ctl.switches, x.restore ≠ some p.ctx) →
        ∃ t : State, exec w s = .next t ∧ ends s t p p.status 0)) ∧
    (∀ (op : Nat) (w : Instr), (op = 0 ∧ w = .memoryCopy p.fn p.q p.i) ∨ (op = 1 ∧ w = .memoryFill p.fn p.q p.i) →
      s.packet p.fn p.q p.i (fun x => packetType x.words == 3 && x.w 2 == BitVec.ofNat 64 op && x.underWay) = some p →
      let dst := p.addr 5 + p.progress
      let n := min (8 - dst % 8) ((p.w 7).toNat - p.progress)
      let data := if op = 0 then s.virtRead p.ctx (p.addr 3 + p.progress) n else .ok (patternAt (p.w 8) p.progress n, false)
      (p.phase = .started → s.ctxValid p.ctx = false → ∃ t : State, exec w s = .next t ∧ ends s t p 2 0) ∧
      (p.phase = .running ∨ s.ctxValid p.ctx = true →
        (∀ (v : Nat) (psn : Bool) (pa : Nat), data = .ok (v, psn) → s.translate p.ctx .store (dst % 2 ^ 72) = .ok pa →
          pa < 2 ^ 48 → inBox pa = false → s.mem.wf → ∃ t : State, exec w s = .next t ∧
            (∀ j, j < n → t.mem.byte (pa + j) = BitVec.ofNat 8 (v / 256 ^ j)) ∧
            (∀ a, a < pa ∨ pa + n ≤ a → t.mem.byte a = s.mem.byte a) ∧
            named t p.uid = some (if p.progress + n = (p.w 7).toNat then
              { p with phase := .finished, status := 0, detail := 0 } else { p with phase := .running, progress := p.progress + n }) ∧
            { walked s t with mem := s.mem, io := { t.io with packets := s.io.packets } } = s) ∧
        ((∃ e, data = .error e) ∨ (∃ x e, data = .ok x ∧ s.translate p.ctx .store (dst % 2 ^ 72) = .error e) →
          ∃ t : State, exec w s = .next t ∧ ends s (walked s t) p 5 (BitVec.ofNat 64 p.progress)))) ∧
    (s.startedPacket p.fn p.q p.i 4 .started = some p → s.firmwareHalted = true →
      exec (.fencePacket p.fn p.q p.i) s = .next s) ∧
    (s.startedPacket p.fn p.q p.i 4 .started = some p → s.firmwareHalted = false →
      (p.w 2 = 0 → ∃ t : State, exec (.fencePacket p.fn p.q p.i) s = .next t ∧ ends s t p 0 0) ∧
      (p.w 2 = 2 → s.ctxValid p.ctx = true → ∀ pa, s.translate p.ctx .store (p.addr 6 % 2 ^ 72) = .ok pa → pa + 8 ≤ rmBoxBase →
        s.mem.wf → ∃ t : State, exec (.fencePacket p.fn p.q p.i) s = .next t ∧ t.mem.read pa 8 = (p.w 8).toNat ∧
          (∀ a, a < pa ∨ pa + 8 ≤ a → t.mem.byte a = s.mem.byte a) ∧ ends s { walked s t with mem := s.mem } p 0 0)) ∧
    (∀ v psn (w : Instr), s.firmwareHalted = false → p.w 2 = 1 → s.virtRead p.ctx (p.addr 3) 8 = .ok (v, psn) →
      (s.startedPacket p.fn p.q p.i 4 .started = some p ∧ s.ctxValid p.ctx = true ∧ w = .fencePacket p.fn p.q p.i) ∨
        (s.startedPacket p.fn p.q p.i 4 .running = some p ∧ p.progress + 1000 ≤ s.sys.rtime ∧ w = .fencePoll p.fn p.q p.i) →
      ((p.w 5).toNat ≤ v → ∃ t : State, exec w s = .next t ∧ ends s (walked s t) p 0 0) ∧
      (v < (p.w 5).toNat → ∃ t : State, exec w s = .next t ∧ becomes s (walked s t) { p with phase := .running, progress := s.sys.rtime })) ∧
    (s.startedPacket p.fn p.q p.i 4 .running = some p → s.sys.rtime < p.progress + 1000 →
      exec (.fencePoll p.fn p.q p.i) s = .next s) ∧
    (s.openPacket p.fn p.q p.i 5 = some p → s.firmwareHalted = true →
      exec (.freezePacket p.fn p.q p.i) s = .next s) ∧
    (s.openPacket p.fn p.q p.i 5 = some p → s.firmwareHalted = false → let w : Instr := .freezePacket p.fn p.q p.i
      let set := s.freezeSet p
      let rs := set.flatMap s.regions
      let live := (s.launchesOf set).take 64
      let used := (rs.map (·.len)).sum
      let needed := used + 128 + 32 * (rs.length + live.length) + 64 + 3309
      let buffer := (p.w 3).toNat
      let man := (p.w 5).toNat
      (p.phase = .started → p.progress ≠ 2 → ∃ t : State, exec w s = .next t ∧
        (named t p.uid).map (·.phase) = some .running ∧ t.ctl.frozen = s.ctl.frozen ++ set ∧ t.mem = s.mem ∧ t.host = s.host) ∧
      (p.phase = .running → p.progress = 2 → (∀ x ∈ s.ctl.switches, ∀ c ∈ p.saved, x.restore ≠ some c) →
        ∃ t : State, exec w s = .next t ∧ ends s t p 2 0) ∧
      (p.phase = .running → p.progress ≠ 2 → (∀ c ∈ set, s.resident c = none) → s.ctl.shadows = [] →
        Config.freezeFailsAt s.tick = none →
        ((p.w 4).toNat < needed → ∃ t : State, exec w s = .next t ∧ (named t p.uid).map (·.progress) = some 2 ∧ t.mem = s.mem ∧
          ∀ c ∈ set, c ∉ t.ctl.frozen) ∧
        (needed ≤ (p.w 4).toNat → s.mem.wf → s.host.wf → s.sys.ctxtab + 2 ^ 15 ≤ rmMemBase →
          (man + (needed - used) ≤ buffer ∨ buffer + used ≤ man) → ∃ t : State, exec w s = .next t ∧
            named t p.uid = some { p with phase := .finished, status := 0, detail := 0 } ∧
            (∀ k r j, rs[k]? = some r → j < r.len →
              t.host.byte (buffer + ((rs.take k).map (·.len)).sum + j) = s.mem.byte (r.addr + j)) ∧
            (∀ k b, (State.manifest { s with host := t.host } p rs live needed used)[k]? = some b → t.host.byte (man + k) = b) ∧
            (∀ c ∈ set, wbit (t.ctxWord c 0) 0 = false) ∧ (∀ l ∈ t.ctl.launches, l.ctx ∉ set) ∧
            (∀ l ∈ s.ctl.launches, l.ctx ∈ set → 
              ∃ e ∈ t.ctl.asleep, e.freeze = s.ctl.fseq + 1 ∧ ∃ x ∈ e.launches, x.1 = { l with orphan := true }) ∧
            (∀ m ∈ s.ctl.images, m.ctx ∈ set → m ∉ t.ctl.images ∧
              ∃ e ∈ t.ctl.asleep, e.freeze = s.ctl.fseq + 1 ∧ m ∈ e.images) ∧
            t.ctl.fseq = s.ctl.fseq + 1 ∧
            { t with mem := s.mem, host := s.host, counts := s.counts, ctl := s.ctl,
                     io := { t.io with packets := s.io.packets } } = s))) ∧
    (s.startedPacket p.fn p.q p.i 6 .started = some p → s.firmwareHalted = true →
      exec (.resumePacket p.fn p.q p.i) s = .next s) ∧
    (s.startedPacket p.fn p.q p.i 6 .started = some p → s.firmwareHalted = false →
      let buffer := Config.resumeBuffer s.tick
      let rs := s.manifestRecords (p.w 2).toNat
      let data := rs.filter (fun r => decide (1 ≤ r.kind ∧ r.kind ≤ 7))
      (s.manifestAccepted (p.w 2).toNat buffer = false → ∃ t : State, exec (.resumePacket p.fn p.q p.i) s = .next t ∧ ends s t p 2 0) ∧
      (s.manifestAccepted (p.w 2).toNat buffer = true → ∃ t : State, exec (.resumePacket p.fn p.q p.i) s = .next t ∧
        named t p.uid = some { p with phase := .finished, status := 0, detail := 0 } ∧
        (∀ r ∈ rs, r.kind = 1 → r.ctx ∉ t.ctl.frozen) ∧
        (let kept := s.frozenBy (s.host.read ((p.w 2).toNat + 32) 8);
          (∀ r ∈ rs, r.kind = 8 → ∀ e, kept.launches.find? (fun e => e.1.ctx == r.ctx && e.1.lid == r.w1 % 64) = some e →
            ∃ l ∈ t.ctl.launches, l.ctx = r.ctx ∧ l.lid = r.w1 % 64 ∧ l.i = r.w2 ∧ l.usertag = BitVec.ofNat 64 r.w3 ∧
              l.cb = e.1.cb ∧ l.injected = e.1.injected) ∧
          ∀ r ∈ rs, r.kind = 1 → ∀ m, m.ctx = r.ctx → (m ∈ t.ctl.images ↔ m ∈ kept.images)) ∧
        (data.Pairwise (fun a b => rangesMeet a.w1 a.w2 b.w1 b.w2 = false) → s.mem.wf →
          (∀ r ∈ data, r.w1 + r.w2 ≤ rmMemBase ∧ (r.kind = 1 → r.w2 = 128)) →
          (∀ r ∈ data, ∀ j, j < r.w2 → (r.kind = 1 → 8 ≤ j) → t.mem.byte (r.w1 + j) = s.host.byte (buffer + r.w3 + j)) ∧
          (∀ r ∈ data, r.kind = 1 → t.mem.read r.w1 8 = s.host.read (buffer + r.w3) 8 ||| 1) ∧
          (∀ a, (∀ r ∈ data, a < r.w1 ∨ r.w1 + r.w2 ≤ a) → t.mem.byte a = s.mem.byte a)))) ∧
    (s.packet p.fn p.q p.i (fun x => x.phase == .finished) = some p → (s.queue p.fn p.q).loc = false → s.host.wf →
      p.status < 2 ^ 8 → p.lid < 2 ^ 6 →
      let u := s.queue p.fn p.q
      let at_ := u.cqbase + 32 * (u.k % 2 ^ u.cqlog)
      let type := packetType p.words
      ∃ t : State, exec (.completionRecord p.fn p.q p.i) s = .next t ∧
        t.host.read at_ 4 = p.i % 2 ^ 32 ∧
        t.host.read (at_ + 4) 4 = (if type ≤ 6 then type else 0) + p.status * 2 ^ 4 + (if type = 1 then p.lid else 0) * 2 ^ 12
          + (1 - u.k / 2 ^ u.cqlog % 2) * 2 ^ 18 ∧
        t.host.read (at_ + 8) 8 = (p.w 1).toNat ∧
        t.host.read (at_ + 16) 8 = s.sys.rtime % 2 ^ 64 ∧ t.host.read (at_ + 24) 8 = p.detail.toNat ∧
        (∀ a, a < at_ ∨ at_ + 32 ≤ a → t.host.byte a = s.host.byte a) ∧ (t.queue p.fn p.q).k = u.k + 1 ∧
        t.io.packets = s.io.packets.filter (fun x => x.uid != p.uid) ∧
        t.io.msix = (if wbit (p.w 0) 41 && u.ien then s.io.msix ++ [⟨p.fn, u.vec⟩] else s.io.msix) ∧
        { t with host := s.host, io := s.io } = s))

/-- R355 to R357, R407 and R418: POOLS, SET_PRIORITY, SET_QUANTUM, SET_WATERMARK, ATTEST, FLASH_WRITE and ORPHANS. Log 33 (DEDUCED), 37 (DEDUCED),
65 (DESIGN CHOICE). -/
def Obligations.MailboxOperations : Prop :=
  ∀ s : State,
    let inOrder (op len : Nat) : Prop := s.io.mbBusy = true ∧ s.requestOp = op ∧ (s.io.nofw = false ∨ op = 6) ∧
      (s.io.nofw = true ∨ s.firmwareHalted = false) ∧
      wfield s.request 16 16 = s.io.doorbell.toNat % 2 ^ 16 ∧ wfield s.request 8 8 = 0 ∧ wfield s.request 44 20 = 0 ∧
      s.requestLen = len ∧ len ≤ 3832
    let w := s.requestWord 0
    let steps : List (Nat × Instr) :=
      [(1, .pools), (2, .setPriority), (3, .setQuantum), (4, .setWatermark), (5, .attest), (6, .flashWrite), (7, .orphans)]
    (inOrder 1 0 → exec .pools s = .next (s.respond .ok (numBytes 8 s.sys.pools.toNat))) ∧
    (inOrder 2 8 → wfield w 0 8 ≠ 0 → wfield w 12 52 = 0 → ∃ t : State, exec .setPriority s = .next (t.respond .ok []) ∧
      t.priority (wfield w 0 8) = wfield w 8 4 ∧ (∀ c, c ≠ wfield w 0 8 → t.priority c = s.priority c) ∧
      { t with ctl := s.ctl } = s) ∧
    (inOrder 3 8 → 100 ≤ w.toNat → w.toNat ≤ 1000000 →
      exec .setQuantum s = .next ({ s with ctl := { s.ctl with quantum := w.toNat } }.respond .ok [])) ∧
    (inOrder 3 8 → (w.toNat < 100 ∨ 1000000 < w.toNat) → exec .setQuantum s = .next (s.respond .badArg [])) ∧
    (inOrder 4 8 → exec .setWatermark s = .next ({ s with ctl := { s.ctl with watermark := w.toNat } }.respond .ok [])) ∧
    (inOrder 5 32 → exec .attest s = .next (s.respond .ok
      (s.reportFields s.requestBytes ++ numBytes 64 (Config.ed25519Sign (s.reportFields s.requestBytes)).toNat
        ++ numBytes 3309 (Config.mldsa65Sign (s.reportFields s.requestBytes)).toNat))) ∧
    (∀ n, inOrder 6 (8 + n) → n % 8 = 0 → w.toNat % 8 = 0 → w.toNat + n ≤ 2 ^ 24 → s.flash.wf →
      ∃ t : State, exec .flashWrite s = .next (t.respond .ok []) ∧ { t with flash := s.flash } = s ∧
        (∀ k b, (s.requestBytes.drop 8)[k]? = some b → t.flash.byte (w.toNat + k) = b) ∧
        ∀ a, a < w.toNat ∨ w.toNat + n ≤ a → t.flash.byte a = s.flash.byte a) ∧
    (inOrder 7 0 → exec .orphans s = .next ({ s with ctl := { s.ctl with orphans := s.ctl.orphans.drop 64 } }.respond .ok
      ((s.ctl.orphans.take 64).flatMap wordsBytes))) ∧
    (∀ x ∈ steps, s.io.mbBusy = true → s.requestOp = x.1 →
      (s.io.nofw = true → x.1 ≠ 6 → exec x.2 s = .next (s.respond .noFw [])) ∧
      (s.io.nofw = false → s.firmwareHalted = true → exec x.2 s = .next s) ∧
      (s.io.nofw = false → s.firmwareHalted = false → wfield s.request 16 16 ≠ s.io.doorbell.toNat % 2 ^ 16 → exec x.2 s = .next (s.respond .badSeq [])) ∧
      (s.io.nofw = false → s.firmwareHalted = false → wfield s.request 16 16 = s.io.doorbell.toNat % 2 ^ 16 → 3832 < s.requestLen →
        exec x.2 s = .next (s.respond .badArg []))) ∧
    (s.io.mbBusy = true → s.io.nofw = false → s.firmwareHalted = false → wfield s.request 16 16 = s.io.doorbell.toNat % 2 ^ 16 →
      (s.requestOp = 0 ∨ 7 < s.requestOp) → exec .pools s = .next (s.respond .badOp [])) ∧
    (∀ x ∈ steps, (s.io.mbBusy = false ∨ (s.requestOp ≠ x.1 ∧ 1 ≤ s.requestOp ∧ s.requestOp ≤ 7)) → exec x.2 s = .next s) ∧
    (s.io.reqOld = [] → s.reqCopy = s.mem) ∧
    (∀ u, s.mem.wf → u % 8 = 0 → (∀ c ∈ s.io.reqOld, c.at_ % 8 = 0 ∧ c.val < 2 ^ 64) →
      s.reqCopy.read u 8 = s.mem.read u 8 ∨ ∃ c ∈ s.io.reqOld, c.at_ = u ∧ s.reqCopy.read u 8 = c.val) ∧
    ∀ (r : MbResult) (bs : List Byte), s.mem.wf → (s.respond r bs).io.mbBusy = false ∧
      (∀ k b, bs[k]? = some b → (s.respond r bs).mem.byte (rmBoxBase + 0x1008 + k) = b) ∧
      (s.respond r bs).mem.byte (rmBoxBase + 0x1003) = BitVec.ofNat 8 r.code ∧
      (s.respond r bs).mem.read (rmBoxBase + 0x1000) 2 = wfield s.request 16 16 ∧
      (s.respond r bs).mem.read (rmBoxBase + 0x1002) 1 = wfield s.request 0 8 ∧
      (bs.length < 2 ^ 32 → (s.respond r bs).mem.read (rmBoxBase + 0x1004) 4 = bs.length) ∧
      (∀ a, a < rmBoxBase + 0x1000 ∨ rmBoxBase + 0x1008 + bs.length ≤ a → (s.respond r bs).mem.byte a = s.mem.byte a) ∧
      { s.respond r bs with mem := s.mem, io := s.io } = s

/-- R375, R389, R391, R409 and R411 to R416: DRAIN_MARKER, CONTEXT_IMAGE_SAVE, CONTEXT_RESTORE, RESTORE_RESUME, HALT_COMPLETE,
PAGE_EVICTION, HARDWARE_ERROR, DEGRADED_EXIT, DROOP_DETECT, DROOP_RECOVERY and POWER_LIMIT_STEP. Log 19 (DESIGN CHOICE),
20 (PRESUMED), 34 (DESIGN CHOICE), 35 (DEDUCED), 42 (DEDUCED), 51 (DEDUCED), 63 (DESIGN CHOICE). -/
def Obligations.ContextAndHealthSteps : Prop :=
  (∀ (s : State) (r : Resident), s.resident r.ctx = some r →
    (r.phase = .stopping → (∀ i ∈ s.insts, i.key.ctx ≠ r.ctx) → ∃ t : State, exec (.drainMarker r.ctx) s = .next t ∧
      t.frames = s.frames ∧ t.tokens = s.tokens ∧ t.mem = s.mem ∧ t.scratch = s.scratch ∧
      (∀ g ∈ t.gslots, g.site ∈ r.cells → g.st ≠ .loading) ∧
      ((∀ g ∈ s.gslots, g.site ∈ r.cells → g.st ≠ .loading) → s.tokensOut r.ctx = false →
        (∀ o ∈ s.ops, o.key.ctx = r.ctx → o.inFlight = false ∧ o.complete = false) → (∀ j ∈ s.carJobs, j.site ∉ r.cells) →
        (∀ k ∈ s.tokens, k.key.ctx = r.ctx → k.isSignal = true → k.phase ≠ .accepted) →
        t.resident r.ctx = some { r with phase := .drained } ∧ { t with ctl := s.ctl } = s)) ∧
    (∀ w, r.phase = .drained → s.activeSwitch r.part = some w → s.hw.retiring = [] →
      (4096 + r.cells.length * imageSize ≤ r.savelen * 65536 → ∃ t : State, exec (.contextImageSave r.ctx) s = .next t ∧
        t.resident r.ctx = none ∧ (∀ f ∈ t.frames, ¬(f.key.ctx = r.ctx ∧ f.site ∈ r.cells)) ∧
        t.host = s.host ∧ t.flash = s.flash ∧ t.ctl.launches = s.ctl.launches) ∧
      (r.savelen * 65536 < 4096 + r.cells.length * imageSize → w.by_ = .firmware →
        (∀ x ∈ s.ctl.switches, x.part = r.part → x = w) →
        ∃ t : State, exec (.contextImageSave r.ctx) s = .next t ∧ t.resident r.ctx = some { r with phase := .up } ∧
          w ∉ t.ctl.switches ∧ { t with ctl := s.ctl } = s)) ∧
    (∀ w, r.phase = .drained → s.activeSwitch r.part = some w → ∃ t : State, exec (.contextImageSave r.ctx) s = .next t ∧
      ∀ c ∈ r.cells, c ∉ t.hw.retiring) ∧
    (∀ w : Switch, r.phase = .drained → s.activeSwitch r.part = some w → s.hw.retiring = [] → s.ctl.shadows = [] →
      wfield ((keyed s.sys.parts r.part).getD 0) 23 6 = 0 → 4096 + r.cells.length * imageSize ≤ r.savelen * 65536 →
      r.save % 65536 = 0 → r.save + r.savelen * 65536 ≤ rmMemBase → s.mem.wf → s.scratch.wf → r.cells.Nodup →
      (∀ c ∈ r.cells, c < 1152) → r.ctx < 256 → r.part < 64 →
      (r.funits = wfield r.carve 0 4 ∧ r.sunits = wfield r.carve 4 4 ∧ r.lunits = wfield r.carve 8 4 ∧
        r.funits + r.sunits + r.lunits = 15) →
      (∀ c ∈ r.cells, (s.lcache.filter (fun l => l.site == c && l.ctx == r.ctx)).length ≤ r.lunits * 512) →
      (∀ f ∈ s.frames, f.key.ctx = r.ctx → f.site ∈ r.cells → f.life ≠ .spilled → f.chunk + f.desc.chunks ≤ r.funits * 128 ∧
        ∀ g ∈ s.frames, g.key.ctx = r.ctx → g.site = f.site → g.life ≠ .spilled → g ≠ f →
          f.chunk + f.desc.chunks ≤ g.chunk ∨ g.chunk + g.desc.chunks ≤ f.chunk) →
      s.nextId + r.cells.length + 1 < 2 ^ 64 → (∀ m ∈ s.ctl.images, m.id ≤ s.nextId) →
      (∃ t : State, exec (.contextImageSave r.ctx) s = .next t ∧ t.resident r.ctx = none ∧
        t.mem.read r.save 8 = 0x56534358 + Config.revision.toNat * 2 ^ 32 + r.ctx * 2 ^ 48 + r.part * 2 ^ 56 ∧
        t.mem.read (r.save + 8) 8 = r.cells.length ∧
        t.mem.read (r.save + 16) 8 = (s.mem.read (r.save + 16) 8 + 1) % 2 ^ 64 ∧
        t.mem.read (r.save + 24) 8 = r.carve.toNat ∧ t.mem.read (r.save + 32) 8 = 1 ∧
        t.mem.read (r.save + 40) 8 = (headerCheck t.mem r.save).toNat ∧
        t.mem.read (r.save + 128) 144 = cellBitmap r.cells ∧
        t.mem.read (r.save + 512) 144 = cellBitmap (r.cells.filter (fun c => s.haltedAt c r.ctx)) ∧
        (∀ k c, r.cells[k]? = some c →
          let b := r.save + 4096 + k * (1152 * 1024)
          let store := b + 192 * 1024
          (∃ m ∈ t.ctl.images, m.site = c ∧ m.ctx = r.ctx ∧ m.id = t.mem.read b 8 ∧
            m.frames = s.frames.filter (fun f => f.site == c && f.key.ctx == r.ctx) ∧
            m.ready = s.ready.filter (fun x => x.site == c && x.key.ctx == r.ctx) ∧
            m.ops = s.ops.filter (fun o => o.site == c && o.key.ctx == r.ctx)) ∧
          (∀ acc i, acc < 4 → i < 64 → t.mem.read (b + 65536 + 32768 * acc + 512 * i) 512 = (s.tileRow c acc i).toNat) ∧
          (∀ f ∈ s.frames, f.site = c → f.key.ctx = r.ctx → f.life ≠ .spilled → ∀ j, j < f.desc.words →
            t.mem.read (store + f.chunk * 512 + 8 * j) 8 = (f.word j).toNat) ∧
          (∀ o, o < r.sunits * 65536 →
            t.mem.byte (store + r.funits * 65536 + o) = s.scratch.byte (scratchKey c r.ctx o))) ∧
        (∀ a, a < r.save ∨ r.save + 4096 + r.cells.length * imageSize ≤ a → t.mem.byte a = s.mem.byte a)) ∧
      let apart (a n : Nat) : Prop := a + n ≤ rmBoxBase ∧ (a + n ≤ r.save ∨ r.save + 4096 + r.cells.length * imageSize ≤ a)
      (s.ctl.switches = [⟨some r.ctx, r.part, .firmware⟩] → (∀ x ∈ s.ctl.residents, x.part = r.part → x.ctx = r.ctx) →
        s.descriptorSound r.ctx = true → wfield (s.ctxWord r.ctx 0) 1 6 = r.part → r.cells ≠ [] →
        s.newResident r.ctx r.part = { r with phase := .presenting, since := s.sys.rtime } →
        apart (s.sys.ctxtab + 128 * r.ctx) 128 → apart r.htab 256 → apart r.xtab 1024 → apart r.mbox 64 →
        s.physWord r.mbox = s.physWord (r.mbox + 8) → s.actions = [] → (∀ c ∈ r.cells, c ∉ s.hw.retired ∧ s.usedEntries c = []) →
        (∀ g ∈ s.gslots, g.site ∉ r.cells) → (∀ l ∈ s.ctl.launches, l.ctx = r.ctx → l.killed = false) →
        ∃ t u : State, exec (.contextImageSave r.ctx) s = .next t ∧ exec (.contextRestore r.ctx) t = .next u ∧
          u.resident r.ctx = some { r with phase := .presenting, since := s.sys.rtime } ∧
          (∀ c ∈ r.cells,
            (∀ f ∈ s.frames, f.site = c → f.key.ctx = r.ctx → ∃ g ∈ u.frames, g.site = c ∧ g.key = f.key ∧ g.epoch = f.epoch ∧
              g.lid = f.lid ∧ g.slots = f.slots ∧ g.flags = f.flags ∧ g.desc = f.desc ∧
              ∀ j, j < f.desc.words → g.word j = f.word j ∧ (j ∈ g.poison ↔ j ∈ f.poison)) ∧
            (∀ acc i, acc < 4 → i < 64 → u.tileRow c acc i = s.tileRow c acc i) ∧
            (∀ o, o < r.sunits * 65536 → u.scratch.byte (scratchKey c r.ctx o) = s.scratch.byte (scratchKey c r.ctx o))))) ∧
    (r.phase = .presenting → (∀ t ∈ s.tokens, t.mailed = false) → (∀ a ∈ s.actions, a.ctx ≠ r.ctx) →
      s.activeSwitch r.part = none → ∃ t : State, exec (.restoreResume r.ctx) s = .next t ∧
        t.resident r.ctx = some { r with phase := .up, since := s.sys.rtime } ∧ r.ctx ∉ t.ctl.waiting ∧
        { t with tokens := s.tokens, ctl := s.ctl } = s) ∧
    (r.phase = .presenting → (∃ t ∈ s.tokens, t.mailed = true ∧ t.key.ctx = r.ctx ∧ t.phase = .offered) →
      exec (.restoreResume r.ctx) s = .next s)) ∧
  (∀ (s : State) (ctx : Nat) (w : Switch),
    s.ctl.switches.find? (fun w => w.restore == some ctx && s.activeSwitch w.part == some w && (s.residentIn w.part).isNone)
      = some w →
    s.resident ctx = none → s.descriptorSound ctx = true → wfield (s.ctxWord ctx 0) 1 6 = w.part → s.partCells w.part ≠ [] →
    (wbit (s.physWord (s.newResident ctx w.part).save + 32) 0 = false ∨ s.headerSound (s.newResident ctx w.part) = true) →
    (s.restoreFits (s.newResident ctx w.part) = false → exec (.contextRestore ctx) s = .next s) ∧
    (s.restoreFits (s.newResident ctx w.part) = true →
    s.actions = [] → s.mem.wf → (s.newResident ctx w.part).mbox + 16 ≤ rmMemBase →
    ∃ t : State, exec (.contextRestore ctx) s = .next t ∧ t.resident ctx = some (s.newResident ctx w.part) ∧
      t.physWord ((s.newResident ctx w.part).mbox + 8) = s.physWord (s.newResident ctx w.part).mbox ∧
      (∀ a, a < (s.newResident ctx w.part).mbox + 8 ∨ (s.newResident ctx w.part).mbox + 16 ≤ a →
        t.mem.byte a = s.mem.byte a) ∧ t.host = s.host)) ∧
  (∀ (s : State) (o : Op) (ctx : Nat), s.op o.id = some o → o.kind = .sys (.halt ctx) false →
    (ctx = 0 → exec (.haltComplete o.id) s = .next (s.updateOp o.id (fun x => { x with kind := .sys (.halt 0) true }))) ∧
    (ctx ≠ 0 → o.key.ctx ≠ ctx →
      (∀ x ∈ s.ops, x.key.ctx = ctx → ∀ p ∈ x.parts, ∀ pa, p.st ≠ .translated pa) →
      ∃ t : State, exec (.haltComplete o.id) s = .next t ∧ t.resident ctx = none ∧ (∀ i ∈ t.insts, i.key.ctx ≠ ctx) ∧
        (∀ k ∈ t.tokens, k.key.ctx ≠ ctx) ∧ (∀ l ∈ t.ctl.launches, l.ctx ≠ ctx) ∧
        (∀ r, s.resident ctx = some r → (∀ f ∈ t.frames, ¬(f.key.ctx = ctx ∧ f.site ∈ r.cells)) ∧
          ∀ c ∈ r.cells, c ∉ t.hw.retiring) ∧
        (t.op o.id).map (·.kind) = some (.sys (.halt ctx) true))) ∧
  (∀ (s : State) (ctx host : Nat), ∃ t : State, exec (.pageEviction ctx host) s = .next t ∧
    (match s.evictee ctx with
     | none => t = s
     | some p =>
       if s.firmwareHalted = true ∨ s.ctl.watermark ≤ Config.freePackageMemory s.tick ∨ s.resident ctx = none ∨
           s.inFlight (.tlbi ctx (BitVec.ofNat 72 p.va)) = true then t = s
       else (∀ e ∈ t.tlb, ¬(e.ctx = ctx ∧ e.page = (BitVec.ofNat 72 p.va).toNat / 2 ^ (12 + 10 * e.level))) ∧
         (s.mem.wf → p.at_ + 8 ≤ rmMemBase → (p.pa + p.size ≤ p.at_ ∨ p.at_ + 8 ≤ p.pa) →
           t.physWord p.at_ = (p.leaf &&& ~~~1) ||| 0x100 ∧ ∀ k, k < p.size → t.host.byte (host + k) = s.mem.byte (p.pa + k))) ∧
    t.frames = s.frames ∧ t.insts = s.insts ∧ t.ops = s.ops ∧ t.scratch = s.scratch) ∧
  (∀ (s : State),
    (∀ site, ∃ t : State, exec (.hardwareError (.corrected site)) s = .next t ∧ t.hw.corrected = s.sys.rtime :: s.hw.corrected ∧
      t.frames = s.frames ∧ t.mem = s.mem) ∧
    (∀ pa, s.inPools pa 1 = true → s.mem.wf → ∃ t : State, exec (.hardwareError (.memory pa)) s = .next t ∧
      t.mem.poisoned pa 1 = true ∧ (∀ a, a < unitOf pa ∨ unitOf pa + 8 ≤ a → t.mem.byte a = s.mem.byte a) ∧
      t.frames = s.frames ∧ t.hw.eventSeq = s.hw.eventSeq + 1) ∧
    (∀ site, ∃ t : State, exec (.hardwareError (.linkFailed site)) s = .next t ∧ t.hw.health = .fatal ∧ t.mem = s.mem) ∧
    (∀ site, ∃ t : State, exec (.hardwareError (.linkRetry site)) s = .next t ∧ t.hw.health = s.hw.health ∧ t.mem = s.mem) ∧
    (∀ site ctx off, s.scratch.wf → ∃ t : State, exec (.hardwareError (.scratch site ctx off)) s = .next t ∧
      t.scratch.poisoned (scratchKey site ctx off) 1 = true ∧ t.mem = s.mem) ∧
    (∀ site ctx cb tag word f, s.frameAt site ⟨ctx, cb, BitVec.ofNat 32 tag⟩ = some f → f.life ≠ .spilled → word < f.desc.words →
      ∃ (t : State) (g : Frame), exec (.hardwareError (.frameWord site ctx cb tag word)) s = .next t ∧
        t.frameAt site ⟨ctx, cb, BitVec.ofNat 32 tag⟩ = some g ∧ word ∈ g.poison ∧ t.mem = s.mem) ∧
    (∀ site acc i j, acc < 4 → i < 64 → j < 64 → ∃ t : State, exec (.hardwareError (.tile site acc i j)) s = .next t ∧
      t.tileBad site acc i j = true ∧ t.mem = s.mem) ∧
    (∀ i, s.instAt i.site i.runner = some i → (∀ no, i.phase ≠ .tagwin no) →
      ∃ t : State, exec (.hardwareError (.registerFile i.site i.runner)) s = .next t ∧ t.instAt i.site i.runner = none ∧
        (∃ r ∈ t.ready, r.site = i.site ∧ r.key = i.key ∧ r.thr = i.thr) ∧ t.mem = s.mem) ∧
    (∀ site ctx, ∀ e ∈ [HwError.control site ctx, .parkBuffer site ctx],
      ∃ t : State, exec (.hardwareError e) s = .next t ∧ t.haltedAt site ctx = true ∧ t.mem = s.mem) ∧
    (∀ site, ∀ e ∈ [HwError.cacheEntry site, .vlpFailed],
      ∃ t : State, exec (.hardwareError e) s = .next t ∧ t.frames = s.frames ∧ t.mem = s.mem ∧ t.scratch = s.scratch) ∧
    (∀ site ctx cb, ∃ t : State, exec (.hardwareError (.descriptor site ctx cb)) s = .next t ∧ t.mem = s.mem ∧
      t.scratch = s.scratch ∧ t.frames.length = s.frames.length ∧ (s.descAt site ctx cb = none → t = s) ∧
      ∀ (k : Nat) (f : Frame), s.frames[k]? = some f → ∃ d : Desc, t.frames[k]? = some { f with desc := d }) ∧
    (∃ t : State, exec (.hardwareError .linkRate) s = .next t ∧ (s.hw.health = .healthy → t.hw.health = .degraded) ∧
      t.hw.linkRateAt = some s.sys.rtime ∧ t.mem = s.mem) ∧
    (s.hw.health = .degraded → hour ≤ s.sys.rtime → s.hw.corrected = [] → s.hw.linkRateAt = none →
      exec .degradedExit s = .next { s with hw := { s.hw with health := .healthy } }) ∧
    (∀ t, s.hw.linkRateAt = some t → s.sys.rtime < t + hour → exec .degradedExit s = .next s) ∧
    (s.hw.health ≠ .degraded → exec .degradedExit s = .next s)) ∧
  ∀ (s : State) (die : Nat), die < 8 →
    (∃ t : State, exec (.droopDetect die) s = .next t ∧ die ∈ t.hw.droop ∧ t.mem = s.mem ∧ t.insts = s.insts ∧ t.frames = s.frames) ∧
    (∃ t : State, exec (.droopRecovery die) s = .next t ∧ die ∉ t.hw.droop ∧ { t with hw := { t.hw with droop := s.hw.droop } } = s) ∧
    (∀ n, (keyed s.hw.dieClock die).getD 0 = n →
      (n < 8 → ∃ t : State, exec (.powerLimitStep die false) s = .next t ∧ keyed t.hw.dieClock die = some (n + 1) ∧ t.mem = s.mem) ∧
      (8 ≤ n → exec (.powerLimitStep die false) s = .next s) ∧
      (n ≠ 0 → ∃ t : State, exec (.powerLimitStep die true) s = .next t ∧ keyed t.hw.dieClock die = some (n - 1) ∧
        { t with hw := { t.hw with dieClock := s.hw.dieClock } } = s) ∧
      (n = 0 → exec (.powerLimitStep die true) s = .next s))
end

