-- ==== Sys2Proof/Laws/Encode.lean ====
section
/-! SUPPORT. The fields of an encoded word read back, and when the words of an instruction read back as the instruction. -/

namespace Sys2Proof

/-! ### Fields of the formats (R115) -/

theorem bits_toNat (w : Word) (lo n : Nat) : (bits w lo n).toNat = w.toNat / 2 ^ lo % 2 ^ n := by
  simp [bits, BitVec.extractLsb'_toNat, Nat.shiftRight_eq_div_pow]

theorem app_toNat {m n : Nat} (x : BitVec m) (y : BitVec n) : (x ++ y).toNat = x.toNat * 2 ^ n + y.toNat := by
  rw [BitVec.toNat_append, Nat.shiftLeft_eq, Nat.mul_comm, Nat.two_pow_add_eq_or_of_lt y.isLt]

@[simp] theorem majorOf_RG (maj : BitVec 7) (d a b c mn : BitVec 5) : majorOf (encRG maj d a b c mn) = maj.toNat := by
  simp only [majorOf, bits_toNat, encRG, app_toNat]
  omega
@[simp] theorem RG_0_3 (maj : BitVec 7) (d a b c mn : BitVec 5) :
    bits (encRG maj d a b c mn) 0 3 = mn.extractLsb' 0 3 := by
  apply BitVec.eq_of_toNat_eq
  simp only [bits_toNat, encRG, app_toNat, BitVec.extractLsb'_toNat, Nat.shiftRight_eq_div_pow]
  omega
@[simp] theorem RG_0_5 (maj : BitVec 7) (d a b c mn : BitVec 5) : bits (encRG maj d a b c mn) 0 5 = mn := by
  apply BitVec.eq_of_toNat_eq
  simp only [bits_toNat, encRG, app_toNat]
  omega
@[simp] theorem RG_3_1 (maj : BitVec 7) (d a b c mn : BitVec 5) :
    bits (encRG maj d a b c mn) 3 1 = mn.extractLsb' 3 1 := by
  apply BitVec.eq_of_toNat_eq
  simp only [bits_toNat, encRG, app_toNat, BitVec.extractLsb'_toNat, Nat.shiftRight_eq_div_pow]
  omega
@[simp] theorem RG_4_1 (maj : BitVec 7) (d a b c mn : BitVec 5) :
    bits (encRG maj d a b c mn) 4 1 = mn.extractLsb' 4 1 := by
  apply BitVec.eq_of_toNat_eq
  simp only [bits_toNat, encRG, app_toNat, BitVec.extractLsb'_toNat, Nat.shiftRight_eq_div_pow]
  omega
@[simp] theorem RG_5_5 (maj : BitVec 7) (d a b c mn : BitVec 5) : bits (encRG maj d a b c mn) 5 5 = c := by
  apply BitVec.eq_of_toNat_eq
  simp only [bits_toNat, encRG, app_toNat]
  omega
@[simp] theorem RG_10_5 (maj : BitVec 7) (d a b c mn : BitVec 5) : bits (encRG maj d a b c mn) 10 5 = b := by
  apply BitVec.eq_of_toNat_eq
  simp only [bits_toNat, encRG, app_toNat]
  omega
@[simp] theorem RG_15_5 (maj : BitVec 7) (d a b c mn : BitVec 5) : bits (encRG maj d a b c mn) 15 5 = a := by
  apply BitVec.eq_of_toNat_eq
  simp only [bits_toNat, encRG, app_toNat]
  omega
@[simp] theorem RG_20_4 (maj : BitVec 7) (d a b c mn : BitVec 5) :
    bits (encRG maj d a b c mn) 20 4 = d.extractLsb' 0 4 := by
  apply BitVec.eq_of_toNat_eq
  simp only [bits_toNat, encRG, app_toNat, BitVec.extractLsb'_toNat, Nat.shiftRight_eq_div_pow]
  omega
@[simp] theorem RG_20_5 (maj : BitVec 7) (d a b c mn : BitVec 5) : bits (encRG maj d a b c mn) 20 5 = d := by
  apply BitVec.eq_of_toNat_eq
  simp only [bits_toNat, encRG, app_toNat]
  omega
@[simp] theorem RG_24_1 (maj : BitVec 7) (d a b c mn : BitVec 5) :
    bits (encRG maj d a b c mn) 24 1 = d.extractLsb' 4 1 := by
  apply BitVec.eq_of_toNat_eq
  simp only [bits_toNat, encRG, app_toNat, BitVec.extractLsb'_toNat, Nat.shiftRight_eq_div_pow]
  omega
@[simp] theorem majorOf_IM (maj : BitVec 7) (d a : BitVec 5) (mn : BitVec 3) (i : BitVec 12) :
    majorOf (encIM maj d a mn i) = maj.toNat := by
  simp only [majorOf, bits_toNat, encIM, app_toNat]
  omega
@[simp] theorem IM_0_12 (maj : BitVec 7) (d a : BitVec 5) (mn : BitVec 3) (i : BitVec 12) :
    bits (encIM maj d a mn i) 0 12 = i := by
  apply BitVec.eq_of_toNat_eq
  simp only [bits_toNat, encIM, app_toNat]
  omega
@[simp] theorem IM_12_2 (maj : BitVec 7) (d a : BitVec 5) (mn : BitVec 3) (i : BitVec 12) :
    bits (encIM maj d a mn i) 12 2 = mn.extractLsb' 0 2 := by
  apply BitVec.eq_of_toNat_eq
  simp only [bits_toNat, encIM, app_toNat, BitVec.extractLsb'_toNat, Nat.shiftRight_eq_div_pow]
  omega
@[simp] theorem IM_12_3 (maj : BitVec 7) (d a : BitVec 5) (mn : BitVec 3) (i : BitVec 12) :
    bits (encIM maj d a mn i) 12 3 = mn := by
  apply BitVec.eq_of_toNat_eq
  simp only [bits_toNat, encIM, app_toNat]
  omega
@[simp] theorem IM_14_1 (maj : BitVec 7) (d a : BitVec 5) (mn : BitVec 3) (i : BitVec 12) :
    bits (encIM maj d a mn i) 14 1 = mn.extractLsb' 2 1 := by
  apply BitVec.eq_of_toNat_eq
  simp only [bits_toNat, encIM, app_toNat, BitVec.extractLsb'_toNat, Nat.shiftRight_eq_div_pow]
  omega
@[simp] theorem IM_15_5 (maj : BitVec 7) (d a : BitVec 5) (mn : BitVec 3) (i : BitVec 12) :
    bits (encIM maj d a mn i) 15 5 = a := by
  apply BitVec.eq_of_toNat_eq
  simp only [bits_toNat, encIM, app_toNat]
  omega
@[simp] theorem IM_20_5 (maj : BitVec 7) (d a : BitVec 5) (mn : BitVec 3) (i : BitVec 12) :
    bits (encIM maj d a mn i) 20 5 = d := by
  apply BitVec.eq_of_toNat_eq
  simp only [bits_toNat, encIM, app_toNat]
  omega
@[simp] theorem majorOf_WI (maj : BitVec 7) (d : BitVec 5) (i : BitVec 20) : majorOf (encWI maj d i) = maj.toNat := by
  simp only [majorOf, bits_toNat, encWI, app_toNat]
  omega
@[simp] theorem WI_0_10 (maj : BitVec 7) (d : BitVec 5) (i : BitVec 20) :
    bits (encWI maj d i) 0 10 = i.extractLsb' 0 10 := by
  apply BitVec.eq_of_toNat_eq
  simp only [bits_toNat, encWI, app_toNat, BitVec.extractLsb'_toNat, Nat.shiftRight_eq_div_pow]
  omega
@[simp] theorem WI_0_20 (maj : BitVec 7) (d : BitVec 5) (i : BitVec 20) : bits (encWI maj d i) 0 20 = i := by
  apply BitVec.eq_of_toNat_eq
  simp only [bits_toNat, encWI, app_toNat]
  omega
@[simp] theorem WI_0_25 (maj : BitVec 7) (d : BitVec 5) (i : BitVec 20) : bits (encWI maj d i) 0 25 = (d ++ i) := by
  apply BitVec.eq_of_toNat_eq
  simp only [bits_toNat, encWI, app_toNat]
  omega
@[simp] theorem WI_10_10 (maj : BitVec 7) (d : BitVec 5) (i : BitVec 20) :
    bits (encWI maj d i) 10 10 = i.extractLsb' 10 10 := by
  apply BitVec.eq_of_toNat_eq
  simp only [bits_toNat, encWI, app_toNat, BitVec.extractLsb'_toNat, Nat.shiftRight_eq_div_pow]
  omega
@[simp] theorem WI_20_5 (maj : BitVec 7) (d : BitVec 5) (i : BitVec 20) : bits (encWI maj d i) 20 5 = d := by
  apply BitVec.eq_of_toNat_eq
  simp only [bits_toNat, encWI, app_toNat]
  omega
@[simp] theorem majorOf_SF (d a b : BitVec 5) (r : BitVec 3) (f : BitVec 2) (mn : BitVec 5) :
    majorOf (encSF d a b r f mn) = 0x08 := by
  simp only [majorOf, bits_toNat, encSF, app_toNat, BitVec.toNat_ofNat]
  omega
@[simp] theorem SF_0_5 (d a b : BitVec 5) (r : BitVec 3) (f : BitVec 2) (mn : BitVec 5) :
    bits (encSF d a b r f mn) 0 5 = mn := by
  apply BitVec.eq_of_toNat_eq
  simp only [bits_toNat, encSF, app_toNat]
  omega
@[simp] theorem SF_5_2 (d a b : BitVec 5) (r : BitVec 3) (f : BitVec 2) (mn : BitVec 5) :
    bits (encSF d a b r f mn) 5 2 = f := by
  apply BitVec.eq_of_toNat_eq
  simp only [bits_toNat, encSF, app_toNat]
  omega
@[simp] theorem SF_7_3 (d a b : BitVec 5) (r : BitVec 3) (f : BitVec 2) (mn : BitVec 5) :
    bits (encSF d a b r f mn) 7 3 = r := by
  apply BitVec.eq_of_toNat_eq
  simp only [bits_toNat, encSF, app_toNat]
  omega
@[simp] theorem SF_10_2 (d a b : BitVec 5) (r : BitVec 3) (f : BitVec 2) (mn : BitVec 5) :
    bits (encSF d a b r f mn) 10 2 = b.extractLsb' 0 2 := by
  apply BitVec.eq_of_toNat_eq
  simp only [bits_toNat, encSF, app_toNat, BitVec.extractLsb'_toNat, Nat.shiftRight_eq_div_pow]
  omega
@[simp] theorem SF_10_3 (d a b : BitVec 5) (r : BitVec 3) (f : BitVec 2) (mn : BitVec 5) :
    bits (encSF d a b r f mn) 10 3 = b.extractLsb' 0 3 := by
  apply BitVec.eq_of_toNat_eq
  simp only [bits_toNat, encSF, app_toNat, BitVec.extractLsb'_toNat, Nat.shiftRight_eq_div_pow]
  omega
@[simp] theorem SF_10_5 (d a b : BitVec 5) (r : BitVec 3) (f : BitVec 2) (mn : BitVec 5) :
    bits (encSF d a b r f mn) 10 5 = b := by
  apply BitVec.eq_of_toNat_eq
  simp only [bits_toNat, encSF, app_toNat]
  omega
@[simp] theorem SF_12_3 (d a b : BitVec 5) (r : BitVec 3) (f : BitVec 2) (mn : BitVec 5) :
    bits (encSF d a b r f mn) 12 3 = b.extractLsb' 2 3 := by
  apply BitVec.eq_of_toNat_eq
  simp only [bits_toNat, encSF, app_toNat, BitVec.extractLsb'_toNat, Nat.shiftRight_eq_div_pow]
  omega
@[simp] theorem SF_13_2 (d a b : BitVec 5) (r : BitVec 3) (f : BitVec 2) (mn : BitVec 5) :
    bits (encSF d a b r f mn) 13 2 = b.extractLsb' 3 2 := by
  apply BitVec.eq_of_toNat_eq
  simp only [bits_toNat, encSF, app_toNat, BitVec.extractLsb'_toNat, Nat.shiftRight_eq_div_pow]
  omega
@[simp] theorem SF_15_5 (d a b : BitVec 5) (r : BitVec 3) (f : BitVec 2) (mn : BitVec 5) :
    bits (encSF d a b r f mn) 15 5 = a := by
  apply BitVec.eq_of_toNat_eq
  simp only [bits_toNat, encSF, app_toNat]
  omega
@[simp] theorem SF_20_5 (d a b : BitVec 5) (r : BitVec 3) (f : BitVec 2) (mn : BitVec 5) :
    bits (encSF d a b r f mn) 20 5 = d := by
  apply BitVec.eq_of_toNat_eq
  simp only [bits_toNat, encSF, app_toNat]
  omega
@[simp] theorem majorOf_BR (maj : BitVec 7) (a b : BitVec 5) (cc : BitVec 3) (o : BitVec 12) :
    majorOf (encBR maj a b cc o) = maj.toNat := by
  simp only [majorOf, bits_toNat, encBR, app_toNat]
  omega
@[simp] theorem BR_0_12 (maj : BitVec 7) (a b : BitVec 5) (cc : BitVec 3) (o : BitVec 12) :
    bits (encBR maj a b cc o) 0 12 = o := by
  apply BitVec.eq_of_toNat_eq
  simp only [bits_toNat, encBR, app_toNat]
  omega
@[simp] theorem BR_12_3 (maj : BitVec 7) (a b : BitVec 5) (cc : BitVec 3) (o : BitVec 12) :
    bits (encBR maj a b cc o) 12 3 = cc := by
  apply BitVec.eq_of_toNat_eq
  simp only [bits_toNat, encBR, app_toNat]
  omega
@[simp] theorem BR_15_5 (maj : BitVec 7) (a b : BitVec 5) (cc : BitVec 3) (o : BitVec 12) :
    bits (encBR maj a b cc o) 15 5 = b := by
  apply BitVec.eq_of_toNat_eq
  simp only [bits_toNat, encBR, app_toNat]
  omega
@[simp] theorem BR_20_5 (maj : BitVec 7) (a b : BitVec 5) (cc : BitVec 3) (o : BitVec 12) :
    bits (encBR maj a b cc o) 20 5 = a := by
  apply BitVec.eq_of_toNat_eq
  simp only [bits_toNat, encBR, app_toNat]
  omega
@[simp] theorem majorOf_VR (maj : BitVec 7) (d a b : BitVec 5) (k : BitVec 3) (t : BitVec 4) (mn : BitVec 3) :
    majorOf (encVR maj d a b k t mn) = maj.toNat := by
  simp only [majorOf, bits_toNat, encVR, app_toNat]
  omega
@[simp] theorem VR_0_3 (maj : BitVec 7) (d a b : BitVec 5) (k : BitVec 3) (t : BitVec 4) (mn : BitVec 3) :
    bits (encVR maj d a b k t mn) 0 3 = mn := by
  apply BitVec.eq_of_toNat_eq
  simp only [bits_toNat, encVR, app_toNat]
  omega
@[simp] theorem VR_3_4 (maj : BitVec 7) (d a b : BitVec 5) (k : BitVec 3) (t : BitVec 4) (mn : BitVec 3) :
    bits (encVR maj d a b k t mn) 3 4 = t := by
  apply BitVec.eq_of_toNat_eq
  simp only [bits_toNat, encVR, app_toNat]
  omega
@[simp] theorem VR_7_3 (maj : BitVec 7) (d a b : BitVec 5) (k : BitVec 3) (t : BitVec 4) (mn : BitVec 3) :
    bits (encVR maj d a b k t mn) 7 3 = k := by
  apply BitVec.eq_of_toNat_eq
  simp only [bits_toNat, encVR, app_toNat]
  omega
@[simp] theorem VR_10_3 (maj : BitVec 7) (d a b : BitVec 5) (k : BitVec 3) (t : BitVec 4) (mn : BitVec 3) :
    bits (encVR maj d a b k t mn) 10 3 = b.extractLsb' 0 3 := by
  apply BitVec.eq_of_toNat_eq
  simp only [bits_toNat, encVR, app_toNat, BitVec.extractLsb'_toNat, Nat.shiftRight_eq_div_pow]
  omega
@[simp] theorem VR_10_4 (maj : BitVec 7) (d a b : BitVec 5) (k : BitVec 3) (t : BitVec 4) (mn : BitVec 3) :
    bits (encVR maj d a b k t mn) 10 4 = b.extractLsb' 0 4 := by
  apply BitVec.eq_of_toNat_eq
  simp only [bits_toNat, encVR, app_toNat, BitVec.extractLsb'_toNat, Nat.shiftRight_eq_div_pow]
  omega
@[simp] theorem VR_10_5 (maj : BitVec 7) (d a b : BitVec 5) (k : BitVec 3) (t : BitVec 4) (mn : BitVec 3) :
    bits (encVR maj d a b k t mn) 10 5 = b := by
  apply BitVec.eq_of_toNat_eq
  simp only [bits_toNat, encVR, app_toNat]
  omega
@[simp] theorem VR_13_2 (maj : BitVec 7) (d a b : BitVec 5) (k : BitVec 3) (t : BitVec 4) (mn : BitVec 3) :
    bits (encVR maj d a b k t mn) 13 2 = b.extractLsb' 3 2 := by
  apply BitVec.eq_of_toNat_eq
  simp only [bits_toNat, encVR, app_toNat, BitVec.extractLsb'_toNat, Nat.shiftRight_eq_div_pow]
  omega
@[simp] theorem VR_14_1 (maj : BitVec 7) (d a b : BitVec 5) (k : BitVec 3) (t : BitVec 4) (mn : BitVec 3) :
    bits (encVR maj d a b k t mn) 14 1 = b.extractLsb' 4 1 := by
  apply BitVec.eq_of_toNat_eq
  simp only [bits_toNat, encVR, app_toNat, BitVec.extractLsb'_toNat, Nat.shiftRight_eq_div_pow]
  omega
@[simp] theorem VR_15_3 (maj : BitVec 7) (d a b : BitVec 5) (k : BitVec 3) (t : BitVec 4) (mn : BitVec 3) :
    bits (encVR maj d a b k t mn) 15 3 = a.extractLsb' 0 3 := by
  apply BitVec.eq_of_toNat_eq
  simp only [bits_toNat, encVR, app_toNat, BitVec.extractLsb'_toNat, Nat.shiftRight_eq_div_pow]
  omega
@[simp] theorem VR_15_5 (maj : BitVec 7) (d a b : BitVec 5) (k : BitVec 3) (t : BitVec 4) (mn : BitVec 3) :
    bits (encVR maj d a b k t mn) 15 5 = a := by
  apply BitVec.eq_of_toNat_eq
  simp only [bits_toNat, encVR, app_toNat]
  omega
@[simp] theorem VR_18_2 (maj : BitVec 7) (d a b : BitVec 5) (k : BitVec 3) (t : BitVec 4) (mn : BitVec 3) :
    bits (encVR maj d a b k t mn) 18 2 = a.extractLsb' 3 2 := by
  apply BitVec.eq_of_toNat_eq
  simp only [bits_toNat, encVR, app_toNat, BitVec.extractLsb'_toNat, Nat.shiftRight_eq_div_pow]
  omega
@[simp] theorem VR_20_3 (maj : BitVec 7) (d a b : BitVec 5) (k : BitVec 3) (t : BitVec 4) (mn : BitVec 3) :
    bits (encVR maj d a b k t mn) 20 3 = d.extractLsb' 0 3 := by
  apply BitVec.eq_of_toNat_eq
  simp only [bits_toNat, encVR, app_toNat, BitVec.extractLsb'_toNat, Nat.shiftRight_eq_div_pow]
  omega
@[simp] theorem VR_20_5 (maj : BitVec 7) (d a b : BitVec 5) (k : BitVec 3) (t : BitVec 4) (mn : BitVec 3) :
    bits (encVR maj d a b k t mn) 20 5 = d := by
  apply BitVec.eq_of_toNat_eq
  simp only [bits_toNat, encVR, app_toNat]
  omega
@[simp] theorem VR_23_2 (maj : BitVec 7) (d a b : BitVec 5) (k : BitVec 3) (t : BitVec 4) (mn : BitVec 3) :
    bits (encVR maj d a b k t mn) 23 2 = d.extractLsb' 3 2 := by
  apply BitVec.eq_of_toNat_eq
  simp only [bits_toNat, encVR, app_toNat, BitVec.extractLsb'_toNat, Nat.shiftRight_eq_div_pow]
  omega
@[simp] theorem majorOf_MU (acc : BitVec 2) (a b : BitVec 5) (slot : BitVec 4) (xn : BitVec 6) (mn : BitVec 3) :
    majorOf (encMU acc a b slot xn mn) = 0x38 := by
  simp only [majorOf, bits_toNat, encMU, app_toNat, BitVec.toNat_ofNat]
  omega
@[simp] theorem MU_0_3 (acc : BitVec 2) (a b : BitVec 5) (slot : BitVec 4) (xn : BitVec 6) (mn : BitVec 3) :
    bits (encMU acc a b slot xn mn) 0 3 = mn := by
  apply BitVec.eq_of_toNat_eq
  simp only [bits_toNat, encMU, app_toNat]
  omega
@[simp] theorem MU_3_6 (acc : BitVec 2) (a b : BitVec 5) (slot : BitVec 4) (xn : BitVec 6) (mn : BitVec 3) :
    bits (encMU acc a b slot xn mn) 3 6 = xn := by
  apply BitVec.eq_of_toNat_eq
  simp only [bits_toNat, encMU, app_toNat]
  omega
@[simp] theorem MU_9_4 (acc : BitVec 2) (a b : BitVec 5) (slot : BitVec 4) (xn : BitVec 6) (mn : BitVec 3) :
    bits (encMU acc a b slot xn mn) 9 4 = slot := by
  apply BitVec.eq_of_toNat_eq
  simp only [bits_toNat, encMU, app_toNat]
  omega
@[simp] theorem MU_13_1 (acc : BitVec 2) (a b : BitVec 5) (slot : BitVec 4) (xn : BitVec 6) (mn : BitVec 3) :
    bits (encMU acc a b slot xn mn) 13 1 = b.extractLsb' 0 1 := by
  apply BitVec.eq_of_toNat_eq
  simp only [bits_toNat, encMU, app_toNat, BitVec.extractLsb'_toNat, Nat.shiftRight_eq_div_pow]
  omega
@[simp] theorem MU_13_5 (acc : BitVec 2) (a b : BitVec 5) (slot : BitVec 4) (xn : BitVec 6) (mn : BitVec 3) :
    bits (encMU acc a b slot xn mn) 13 5 = b := by
  apply BitVec.eq_of_toNat_eq
  simp only [bits_toNat, encMU, app_toNat]
  omega
@[simp] theorem MU_14_4 (acc : BitVec 2) (a b : BitVec 5) (slot : BitVec 4) (xn : BitVec 6) (mn : BitVec 3) :
    bits (encMU acc a b slot xn mn) 14 4 = b.extractLsb' 1 4 := by
  apply BitVec.eq_of_toNat_eq
  simp only [bits_toNat, encMU, app_toNat, BitVec.extractLsb'_toNat, Nat.shiftRight_eq_div_pow]
  omega
@[simp] theorem MU_18_1 (acc : BitVec 2) (a b : BitVec 5) (slot : BitVec 4) (xn : BitVec 6) (mn : BitVec 3) :
    bits (encMU acc a b slot xn mn) 18 1 = a.extractLsb' 0 1 := by
  apply BitVec.eq_of_toNat_eq
  simp only [bits_toNat, encMU, app_toNat, BitVec.extractLsb'_toNat, Nat.shiftRight_eq_div_pow]
  omega
@[simp] theorem MU_18_5 (acc : BitVec 2) (a b : BitVec 5) (slot : BitVec 4) (xn : BitVec 6) (mn : BitVec 3) :
    bits (encMU acc a b slot xn mn) 18 5 = a := by
  apply BitVec.eq_of_toNat_eq
  simp only [bits_toNat, encMU, app_toNat]
  omega
@[simp] theorem MU_19_4 (acc : BitVec 2) (a b : BitVec 5) (slot : BitVec 4) (xn : BitVec 6) (mn : BitVec 3) :
    bits (encMU acc a b slot xn mn) 19 4 = a.extractLsb' 1 4 := by
  apply BitVec.eq_of_toNat_eq
  simp only [bits_toNat, encMU, app_toNat, BitVec.extractLsb'_toNat, Nat.shiftRight_eq_div_pow]
  omega
@[simp] theorem MU_23_2 (acc : BitVec 2) (a b : BitVec 5) (slot : BitVec 4) (xn : BitVec 6) (mn : BitVec 3) :
    bits (encMU acc a b slot xn mn) 23 2 = acc := by
  apply BitVec.eq_of_toNat_eq
  simp only [bits_toNat, encMU, app_toNat]
  omega
@[simp] theorem majorOf_XO (n : BitVec 6) (d a b : BitVec 5) (k : BitVec 3) : majorOf (encXO n d a b k) = 0x39 := by
  simp only [majorOf, bits_toNat, encXO, app_toNat, BitVec.toNat_ofNat]
  omega
@[simp] theorem XO_0_1 (n : BitVec 6) (d a b : BitVec 5) (k : BitVec 3) : bits (encXO n d a b k) 0 1 = 0#1 := by
  apply BitVec.eq_of_toNat_eq
  simp only [bits_toNat, encXO, app_toNat, BitVec.toNat_ofNat]
  omega
@[simp] theorem XO_1_3 (n : BitVec 6) (d a b : BitVec 5) (k : BitVec 3) : bits (encXO n d a b k) 1 3 = k := by
  apply BitVec.eq_of_toNat_eq
  simp only [bits_toNat, encXO, app_toNat, BitVec.toNat_ofNat]
  omega
@[simp] theorem XO_4_5 (n : BitVec 6) (d a b : BitVec 5) (k : BitVec 3) : bits (encXO n d a b k) 4 5 = b := by
  apply BitVec.eq_of_toNat_eq
  simp only [bits_toNat, encXO, app_toNat, BitVec.toNat_ofNat]
  omega
@[simp] theorem XO_9_5 (n : BitVec 6) (d a b : BitVec 5) (k : BitVec 3) : bits (encXO n d a b k) 9 5 = a := by
  apply BitVec.eq_of_toNat_eq
  simp only [bits_toNat, encXO, app_toNat, BitVec.toNat_ofNat]
  omega
@[simp] theorem XO_14_5 (n : BitVec 6) (d a b : BitVec 5) (k : BitVec 3) : bits (encXO n d a b k) 14 5 = d := by
  apply BitVec.eq_of_toNat_eq
  simp only [bits_toNat, encXO, app_toNat, BitVec.toNat_ofNat]
  omega
@[simp] theorem XO_19_6 (n : BitVec 6) (d a b : BitVec 5) (k : BitVec 3) : bits (encXO n d a b k) 19 6 = n := by
  apply BitVec.eq_of_toNat_eq
  simp only [bits_toNat, encXO, app_toNat, BitVec.toNat_ofNat]
  omega
@[simp] theorem majorOf_TK (maj : BitVec 7) (a b : BitVec 5) (slot : BitVec 4) (idx : BitVec 8) (rels : BitVec 3) :
    majorOf (encTK maj a b slot idx rels) = maj.toNat := by
  simp only [majorOf, bits_toNat, encTK, app_toNat]
  omega
@[simp] theorem TK_0_3 (maj : BitVec 7) (a b : BitVec 5) (slot : BitVec 4) (idx : BitVec 8) (rels : BitVec 3) :
    bits (encTK maj a b slot idx rels) 0 3 = rels := by
  apply BitVec.eq_of_toNat_eq
  simp only [bits_toNat, encTK, app_toNat]
  omega
@[simp] theorem TK_3_3 (maj : BitVec 7) (a b : BitVec 5) (slot : BitVec 4) (idx : BitVec 8) (rels : BitVec 3) :
    bits (encTK maj a b slot idx rels) 3 3 = idx.extractLsb' 0 3 := by
  apply BitVec.eq_of_toNat_eq
  simp only [bits_toNat, encTK, app_toNat, BitVec.extractLsb'_toNat, Nat.shiftRight_eq_div_pow]
  omega
@[simp] theorem TK_3_8 (maj : BitVec 7) (a b : BitVec 5) (slot : BitVec 4) (idx : BitVec 8) (rels : BitVec 3) :
    bits (encTK maj a b slot idx rels) 3 8 = idx := by
  apply BitVec.eq_of_toNat_eq
  simp only [bits_toNat, encTK, app_toNat]
  omega
@[simp] theorem TK_6_5 (maj : BitVec 7) (a b : BitVec 5) (slot : BitVec 4) (idx : BitVec 8) (rels : BitVec 3) :
    bits (encTK maj a b slot idx rels) 6 5 = idx.extractLsb' 3 5 := by
  apply BitVec.eq_of_toNat_eq
  simp only [bits_toNat, encTK, app_toNat, BitVec.extractLsb'_toNat, Nat.shiftRight_eq_div_pow]
  omega
@[simp] theorem TK_11_4 (maj : BitVec 7) (a b : BitVec 5) (slot : BitVec 4) (idx : BitVec 8) (rels : BitVec 3) :
    bits (encTK maj a b slot idx rels) 11 4 = slot := by
  apply BitVec.eq_of_toNat_eq
  simp only [bits_toNat, encTK, app_toNat]
  omega
@[simp] theorem TK_15_5 (maj : BitVec 7) (a b : BitVec 5) (slot : BitVec 4) (idx : BitVec 8) (rels : BitVec 3) :
    bits (encTK maj a b slot idx rels) 15 5 = b := by
  apply BitVec.eq_of_toNat_eq
  simp only [bits_toNat, encTK, app_toNat]
  omega
@[simp] theorem TK_20_5 (maj : BitVec 7) (a b : BitVec 5) (slot : BitVec 4) (idx : BitVec 8) (rels : BitVec 3) :
    bits (encTK maj a b slot idx rels) 20 5 = a := by
  apply BitVec.eq_of_toNat_eq
  simp only [bits_toNat, encTK, app_toNat]
  omega
@[simp] theorem majorOf_SW (maj : BitVec 7) (p a b : BitVec 5) (slot : BitVec 4) (rels mn : BitVec 3) :
    majorOf (encSW maj p a b slot rels mn) = maj.toNat := by
  simp only [majorOf, bits_toNat, encSW, app_toNat]
  omega
@[simp] theorem SW_0_3 (maj : BitVec 7) (p a b : BitVec 5) (slot : BitVec 4) (rels mn : BitVec 3) :
    bits (encSW maj p a b slot rels mn) 0 3 = mn := by
  apply BitVec.eq_of_toNat_eq
  simp only [bits_toNat, encSW, app_toNat]
  omega
@[simp] theorem SW_3_3 (maj : BitVec 7) (p a b : BitVec 5) (slot : BitVec 4) (rels mn : BitVec 3) :
    bits (encSW maj p a b slot rels mn) 3 3 = rels := by
  apply BitVec.eq_of_toNat_eq
  simp only [bits_toNat, encSW, app_toNat]
  omega
@[simp] theorem SW_6_4 (maj : BitVec 7) (p a b : BitVec 5) (slot : BitVec 4) (rels mn : BitVec 3) :
    bits (encSW maj p a b slot rels mn) 6 4 = slot := by
  apply BitVec.eq_of_toNat_eq
  simp only [bits_toNat, encSW, app_toNat]
  omega
@[simp] theorem SW_10_5 (maj : BitVec 7) (p a b : BitVec 5) (slot : BitVec 4) (rels mn : BitVec 3) :
    bits (encSW maj p a b slot rels mn) 10 5 = b := by
  apply BitVec.eq_of_toNat_eq
  simp only [bits_toNat, encSW, app_toNat]
  omega
@[simp] theorem SW_15_5 (maj : BitVec 7) (p a b : BitVec 5) (slot : BitVec 4) (rels mn : BitVec 3) :
    bits (encSW maj p a b slot rels mn) 15 5 = a := by
  apply BitVec.eq_of_toNat_eq
  simp only [bits_toNat, encSW, app_toNat]
  omega
@[simp] theorem SW_20_5 (maj : BitVec 7) (p a b : BitVec 5) (slot : BitVec 4) (rels mn : BitVec 3) :
    bits (encSW maj p a b slot rels mn) 20 5 = p := by
  apply BitVec.eq_of_toNat_eq
  simp only [bits_toNat, encSW, app_toNat]
  omega
@[simp] theorem majorOf_GL (maj : BitVec 7) (idx : BitVec 8) (a b : BitVec 5) (slot : BitVec 4) (mn : BitVec 3) :
    majorOf (encGL maj idx a b slot mn) = maj.toNat := by
  simp only [majorOf, bits_toNat, encGL, app_toNat]
  omega
@[simp] theorem GL_0_3 (maj : BitVec 7) (idx : BitVec 8) (a b : BitVec 5) (slot : BitVec 4) (mn : BitVec 3) :
    bits (encGL maj idx a b slot mn) 0 3 = mn := by
  apply BitVec.eq_of_toNat_eq
  simp only [bits_toNat, encGL, app_toNat]
  omega
@[simp] theorem GL_3_4 (maj : BitVec 7) (idx : BitVec 8) (a b : BitVec 5) (slot : BitVec 4) (mn : BitVec 3) :
    bits (encGL maj idx a b slot mn) 3 4 = slot := by
  apply BitVec.eq_of_toNat_eq
  simp only [bits_toNat, encGL, app_toNat]
  omega
@[simp] theorem GL_7_5 (maj : BitVec 7) (idx : BitVec 8) (a b : BitVec 5) (slot : BitVec 4) (mn : BitVec 3) :
    bits (encGL maj idx a b slot mn) 7 5 = b := by
  apply BitVec.eq_of_toNat_eq
  simp only [bits_toNat, encGL, app_toNat]
  omega
@[simp] theorem GL_12_5 (maj : BitVec 7) (idx : BitVec 8) (a b : BitVec 5) (slot : BitVec 4) (mn : BitVec 3) :
    bits (encGL maj idx a b slot mn) 12 5 = a := by
  apply BitVec.eq_of_toNat_eq
  simp only [bits_toNat, encGL, app_toNat]
  omega
@[simp] theorem GL_17_8 (maj : BitVec 7) (idx : BitVec 8) (a b : BitVec 5) (slot : BitVec 4) (mn : BitVec 3) :
    bits (encGL maj idx a b slot mn) 17 8 = idx := by
  apply BitVec.eq_of_toNat_eq
  simp only [bits_toNat, encGL, app_toNat]
  omega
@[simp] theorem majorOf_GS (d a b : BitVec 5) (slot : BitVec 4) (sz : BitVec 2) :
    majorOf (encGS d a b slot sz) = 0x4A := by
  simp only [majorOf, bits_toNat, encGS, app_toNat, BitVec.toNat_ofNat]
  omega
@[simp] theorem GS_0_4 (d a b : BitVec 5) (slot : BitVec 4) (sz : BitVec 2) : bits (encGS d a b slot sz) 0 4 = 0#4 := by
  apply BitVec.eq_of_toNat_eq
  simp only [bits_toNat, encGS, app_toNat, BitVec.toNat_ofNat]
  omega
@[simp] theorem GS_4_2 (d a b : BitVec 5) (slot : BitVec 4) (sz : BitVec 2) : bits (encGS d a b slot sz) 4 2 = sz := by
  apply BitVec.eq_of_toNat_eq
  simp only [bits_toNat, encGS, app_toNat, BitVec.toNat_ofNat]
  omega
@[simp] theorem GS_6_4 (d a b : BitVec 5) (slot : BitVec 4) (sz : BitVec 2) :
    bits (encGS d a b slot sz) 6 4 = slot := by
  apply BitVec.eq_of_toNat_eq
  simp only [bits_toNat, encGS, app_toNat, BitVec.toNat_ofNat]
  omega
@[simp] theorem GS_10_5 (d a b : BitVec 5) (slot : BitVec 4) (sz : BitVec 2) : bits (encGS d a b slot sz) 10 5 = b := by
  apply BitVec.eq_of_toNat_eq
  simp only [bits_toNat, encGS, app_toNat, BitVec.toNat_ofNat]
  omega
@[simp] theorem GS_15_5 (d a b : BitVec 5) (slot : BitVec 4) (sz : BitVec 2) : bits (encGS d a b slot sz) 15 5 = a := by
  apply BitVec.eq_of_toNat_eq
  simp only [bits_toNat, encGS, app_toNat, BitVec.toNat_ofNat]
  omega
@[simp] theorem GS_20_5 (d a b : BitVec 5) (slot : BitVec 4) (sz : BitVec 2) : bits (encGS d a b slot sz) 20 5 = d := by
  apply BitVec.eq_of_toNat_eq
  simp only [bits_toNat, encGS, app_toNat, BitVec.toNat_ofNat]
  omega
@[simp] theorem majorOf_GV (v : BitVec 3) (a b : BitVec 5) (slot : BitVec 4) (k : BitVec 3) (e : BitVec 2) (mn : BitVec 3) :
    majorOf (encGV v a b slot k e mn) = 0x4B := by
  simp only [majorOf, bits_toNat, encGV, app_toNat, BitVec.toNat_ofNat]
  omega
@[simp] theorem GV_0_3 (v : BitVec 3) (a b : BitVec 5) (slot : BitVec 4) (k : BitVec 3) (e : BitVec 2) (mn : BitVec 3) :
    bits (encGV v a b slot k e mn) 0 3 = mn := by
  apply BitVec.eq_of_toNat_eq
  simp only [bits_toNat, encGV, app_toNat]
  omega
@[simp] theorem GV_3_2 (v : BitVec 3) (a b : BitVec 5) (slot : BitVec 4) (k : BitVec 3) (e : BitVec 2) (mn : BitVec 3) :
    bits (encGV v a b slot k e mn) 3 2 = e := by
  apply BitVec.eq_of_toNat_eq
  simp only [bits_toNat, encGV, app_toNat]
  omega
@[simp] theorem GV_5_3 (v : BitVec 3) (a b : BitVec 5) (slot : BitVec 4) (k : BitVec 3) (e : BitVec 2) (mn : BitVec 3) :
    bits (encGV v a b slot k e mn) 5 3 = k := by
  apply BitVec.eq_of_toNat_eq
  simp only [bits_toNat, encGV, app_toNat]
  omega
@[simp] theorem GV_8_4 (v : BitVec 3) (a b : BitVec 5) (slot : BitVec 4) (k : BitVec 3) (e : BitVec 2) (mn : BitVec 3) :
    bits (encGV v a b slot k e mn) 8 4 = slot := by
  apply BitVec.eq_of_toNat_eq
  simp only [bits_toNat, encGV, app_toNat]
  omega
@[simp] theorem GV_12_5 (v : BitVec 3) (a b : BitVec 5) (slot : BitVec 4) (k : BitVec 3) (e : BitVec 2) (mn : BitVec 3) :
    bits (encGV v a b slot k e mn) 12 5 = b := by
  apply BitVec.eq_of_toNat_eq
  simp only [bits_toNat, encGV, app_toNat]
  omega
@[simp] theorem GV_17_5 (v : BitVec 3) (a b : BitVec 5) (slot : BitVec 4) (k : BitVec 3) (e : BitVec 2) (mn : BitVec 3) :
    bits (encGV v a b slot k e mn) 17 5 = a := by
  apply BitVec.eq_of_toNat_eq
  simp only [bits_toNat, encGV, app_toNat]
  omega
@[simp] theorem GV_22_3 (v : BitVec 3) (a b : BitVec 5) (slot : BitVec 4) (k : BitVec 3) (e : BitVec 2) (mn : BitVec 3) :
    bits (encGV v a b slot k e mn) 22 3 = v := by
  apply BitVec.eq_of_toNat_eq
  simp only [bits_toNat, encGV, app_toNat]
  omega
@[simp] theorem majorOf_GW (d a b : BitVec 5) (slot : BitVec 4) (k : BitVec 3) (e : BitVec 2) (mode : BitVec 1) :
    majorOf (encGW d a b slot k e mode) = 0x4C := by
  simp only [majorOf, bits_toNat, encGW, app_toNat, BitVec.toNat_ofNat]
  omega
@[simp] theorem GW_0_1 (d a b : BitVec 5) (slot : BitVec 4) (k : BitVec 3) (e : BitVec 2) (mode : BitVec 1) :
    bits (encGW d a b slot k e mode) 0 1 = mode := by
  apply BitVec.eq_of_toNat_eq
  simp only [bits_toNat, encGW, app_toNat]
  omega
@[simp] theorem GW_1_2 (d a b : BitVec 5) (slot : BitVec 4) (k : BitVec 3) (e : BitVec 2) (mode : BitVec 1) :
    bits (encGW d a b slot k e mode) 1 2 = e := by
  apply BitVec.eq_of_toNat_eq
  simp only [bits_toNat, encGW, app_toNat]
  omega
@[simp] theorem GW_3_3 (d a b : BitVec 5) (slot : BitVec 4) (k : BitVec 3) (e : BitVec 2) (mode : BitVec 1) :
    bits (encGW d a b slot k e mode) 3 3 = k := by
  apply BitVec.eq_of_toNat_eq
  simp only [bits_toNat, encGW, app_toNat]
  omega
@[simp] theorem GW_6_4 (d a b : BitVec 5) (slot : BitVec 4) (k : BitVec 3) (e : BitVec 2) (mode : BitVec 1) :
    bits (encGW d a b slot k e mode) 6 4 = slot := by
  apply BitVec.eq_of_toNat_eq
  simp only [bits_toNat, encGW, app_toNat]
  omega
@[simp] theorem GW_10_5 (d a b : BitVec 5) (slot : BitVec 4) (k : BitVec 3) (e : BitVec 2) (mode : BitVec 1) :
    bits (encGW d a b slot k e mode) 10 5 = b := by
  apply BitVec.eq_of_toNat_eq
  simp only [bits_toNat, encGW, app_toNat]
  omega
@[simp] theorem GW_15_5 (d a b : BitVec 5) (slot : BitVec 4) (k : BitVec 3) (e : BitVec 2) (mode : BitVec 1) :
    bits (encGW d a b slot k e mode) 15 5 = a := by
  apply BitVec.eq_of_toNat_eq
  simp only [bits_toNat, encGW, app_toNat]
  omega
@[simp] theorem GW_20_5 (d a b : BitVec 5) (slot : BitVec 4) (k : BitVec 3) (e : BitVec 2) (mode : BitVec 1) :
    bits (encGW d a b slot k e mode) 20 5 = d := by
  apply BitVec.eq_of_toNat_eq
  simp only [bits_toNat, encGW, app_toNat]
  omega

/-! ### Field codes -/

@[simp] theorem Round.ofCode_code (r : Round) : Round.ofCode r.code = some r := by cases r <;> rfl
@[simp] theorem IntTy.ofCode_code (t : IntTy) : IntTy.ofCode t.code = t := by cases t <;> rfl
@[simp] theorem FloatTy.ofCode_code (t : FloatTy) : FloatTy.ofCode t.code = t := by cases t <;> rfl
@[simp] theorem ElemTy.ofCode_code (t : ElemTy) : ElemTy.ofCode t.code = some t := by
  rcases t with t | t <;> cases t <;> rfl
@[simp] theorem ElemTy.intOf_code (t : IntTy) : ElemTy.intOf (0#1 ++ t.code) = some t := by cases t <;> rfl
@[simp] theorem ElemTy.fltOf_code (t : FloatTy) : ElemTy.fltOf (2#2 ++ t.code) = some t := by cases t <;> rfl
@[simp] theorem NarrowFmt.ofCode_code4 (x : NarrowFmt) : NarrowFmt.ofCode 4 (x.code 4) = some x := by cases x <;> rfl
@[simp] theorem NarrowFmt.ofCode_code9 (x : NarrowFmt) : NarrowFmt.ofCode 9 (x.code 9) = some x := by cases x <;> rfl
@[simp] theorem Scope.ofCode_code (s : Scope) : Scope.ofCode s.code = some s := by cases s <;> rfl
@[simp] theorem relsOfCode_relsCode (r : Option Scope) : relsOfCode (relsCode r) = some r := by
  rcases r with _ | r
  · rfl
  · cases r <;> rfl
@[simp] theorem Ord.ofCode_code (o : Ord) : Ord.ofCode o.code = some o := by cases o <;> rfl
@[simp] theorem LoadTy.ofCode_code (t : LoadTy) : LoadTy.ofCode t.code = some t := by cases t <;> rfl
@[simp] theorem Size.ofCode_code (t : Size) : Size.ofCode t.code = t := by cases t <;> rfl
@[simp] theorem Special.ofCode_code (x : Special) : Special.ofCode x.code = some x := by cases x <;> rfl

/-! ### Parts of fields -/

theorem low_append {m n : Nat} (x : BitVec m) (y : BitVec n) : (x ++ y).extractLsb' 0 n = y := by
  apply BitVec.eq_of_toNat_eq
  rw [BitVec.extractLsb'_toNat, app_toNat, Nat.shiftRight_zero, Nat.mul_comm, Nat.mul_add_mod, Nat.mod_eq_of_lt y.isLt]
theorem high_append {m n : Nat} (x : BitVec m) (y : BitVec n) : (x ++ y).extractLsb' n m = x := by
  apply BitVec.eq_of_toNat_eq
  have hp : 0 < 2 ^ n := Nat.two_pow_pos n
  rw [BitVec.extractLsb'_toNat, app_toNat, Nat.shiftRight_eq_div_pow, Nat.mul_comm, Nat.mul_add_div hp,
    Nat.div_eq_of_lt y.isLt, Nat.add_zero, Nat.mod_eq_of_lt x.isLt]
@[simp] theorem low_2_3 (x : BitVec 2) (y : BitVec 3) : BitVec.extractLsb' (n := 5) 0 3 (x ++ y) = y := low_append x y
@[simp] theorem high_2_3 (x : BitVec 2) (y : BitVec 3) : BitVec.extractLsb' (n := 5) 3 2 (x ++ y) = x := high_append x y
@[simp] theorem low_3_2 (x : BitVec 3) (y : BitVec 2) : BitVec.extractLsb' (n := 5) 0 2 (x ++ y) = y := low_append x y
@[simp] theorem high_3_2 (x : BitVec 3) (y : BitVec 2) : BitVec.extractLsb' (n := 5) 2 3 (x ++ y) = x := high_append x y
@[simp] theorem low_1_4 (x : BitVec 1) (y : BitVec 4) : BitVec.extractLsb' (n := 5) 0 4 (x ++ y) = y := low_append x y
@[simp] theorem high_1_4 (x : BitVec 1) (y : BitVec 4) : BitVec.extractLsb' (n := 5) 4 1 (x ++ y) = x := high_append x y
@[simp] theorem low_4_1 (x : BitVec 4) (y : BitVec 1) : BitVec.extractLsb' (n := 5) 0 1 (x ++ y) = y := low_append x y
@[simp] theorem high_4_1 (x : BitVec 4) (y : BitVec 1) : BitVec.extractLsb' (n := 5) 1 4 (x ++ y) = x := high_append x y
@[simp] theorem low_10_10 (x : BitVec 10) (y : BitVec 10) : BitVec.extractLsb' (n := 20) 0 10 (x ++ y) = y := low_append x y
@[simp] theorem high_10_10 (x : BitVec 10) (y : BitVec 10) : BitVec.extractLsb' (n := 20) 10 10 (x ++ y) = x := high_append x y
@[simp] theorem low_1_2 (x : BitVec 1) (y : BitVec 2) : BitVec.extractLsb' (n := 3) 0 2 (x ++ y) = y := low_append x y
@[simp] theorem high_1_2 (x : BitVec 1) (y : BitVec 2) : BitVec.extractLsb' (n := 3) 2 1 (x ++ y) = x := high_append x y
@[simp] theorem low_10_5 (x : BitVec 10) (y : BitVec 5) : BitVec.extractLsb' (n := 15) 0 5 (x ++ y) = y := low_append x y
@[simp] theorem high_10_5 (x : BitVec 10) (y : BitVec 5) : BitVec.extractLsb' (n := 15) 5 10 (x ++ y) = x := high_append x y
@[simp] theorem low_5_3 (x : BitVec 5) (y : BitVec 3) : BitVec.extractLsb' (n := 8) 0 3 (x ++ y) = y := low_append x y
@[simp] theorem high_5_3 (x : BitVec 5) (y : BitVec 3) : BitVec.extractLsb' (n := 8) 3 5 (x ++ y) = x := high_append x y
@[simp] theorem ofBool_eq_one (b : Bool) : (BitVec.ofBool b == 1#1) = b := by cases b <;> rfl

/-! ### Prefix words and immediates -/

@[simp] theorem majorOf_encPfx (p : Pfx) : majorOf (encPfx p) = 0x7F := by
  simp only [majorOf, bits_toNat, encPfx, app_toNat, BitVec.toNat_ofNat]
  omega
@[simp] theorem isPrefix_encPfx (p : Pfx) : isPrefix (encPfx p) = true := by simp [isPrefix]
@[simp] theorem Pfx.ofWord_encPfx (p : Pfx) : Pfx.ofWord (encPfx p) = p := by
  have h1 : bits (encPfx p) 22 3 = p.x3 := by
    apply BitVec.eq_of_toNat_eq; simp only [bits_toNat, encPfx, app_toNat]; omega
  have h2 : bits (encPfx p) 21 1 = BitVec.ofBool p.sat := by
    apply BitVec.eq_of_toNat_eq; simp only [bits_toNat, encPfx, app_toNat]; omega
  have h3 : bits (encPfx p) 20 1 = BitVec.ofBool p.zro := by
    apply BitVec.eq_of_toNat_eq; simp only [bits_toNat, encPfx, app_toNat]; omega
  have h4 : bits (encPfx p) 15 5 = p.c := by
    apply BitVec.eq_of_toNat_eq; simp only [bits_toNat, encPfx, app_toNat]; omega
  have h5 : bits (encPfx p) 0 15 = p.ximm := by
    apply BitVec.eq_of_toNat_eq; simp only [bits_toNat, encPfx, app_toNat]; omega
  simp [Pfx.ofWord, h1, h2, h3, h4, h5]

/-- Words that are none, or that read back as the instruction: one, whatever stands behind it, or two. -/
def readsBack (ws : List Word) (i : Instr) : Prop :=
  match ws with
  | [w] => ∀ x, decodeWords w x = some i
  | [p, w] => decodeWords p w = some i
  | [] => True
  | _ => False

theorem readsBack_head {w : Word} {i : Instr} (hm : majorOf w < 0x4C) (hw : i.wf = true)
    (h : decodeHead false Pfx.zero w = some i) : readsBack [w] i := by
  intro x
  have hp : isPrefix w = false := by simp only [isPrefix]; rw [beq_eq_false_iff_ne]; omega
  simp [decodeWords, hp, decodeLimited, hm, h, hw]

theorem readsBack_tail {w : Word} {t : Tail} (hm : 0x4C ≤ majorOf w) (hn : majorOf w ≠ 0x7F)
    (h : decodeTail false Pfx.zero w = some t) : readsBack [w] t.toInstr := by
  intro x
  have hp : isPrefix w = false := by simp only [isPrefix]; rw [beq_eq_false_iff_ne]; exact hn
  simp [decodeWords, hp, decodeLimited, Nat.not_lt.mpr hm, h]

theorem readsBack_long {p : Pfx} {w : Word} {i : Instr} (hm : majorOf w < 0x4C) (hw : i.wf = true)
    (h : decodeHead true p w = some i) : readsBack [encPfx p, w] i := by
  have hp : isPrefix w = false := by simp only [isPrefix]; rw [beq_eq_false_iff_ne]; omega
  show decodeWords (encPfx p) w = some i
  simp [decodeWords, hp, decodeLimited, hm, h, hw]

theorem readsBack_longTail {p : Pfx} {w : Word} {t : Tail} (hm : 0x4C ≤ majorOf w) (hn : majorOf w ≠ 0x7F)
    (h : decodeTail true p w = some t) : readsBack [encPfx p, w] t.toInstr := by
  have hp : isPrefix w = false := by simp only [isPrefix]; rw [beq_eq_false_iff_ne]; exact hn
  show decodeWords (encPfx p) w = some t.toInstr
  simp [decodeWords, hp, decodeLimited, Nat.not_lt.mpr hm, h]

theorem readsBack_withPfx {p : Pfx} {w : Word} {i : Instr} (hm : majorOf w < 0x4C) (hw : i.wf = true)
    (h : ∀ long, decodeHead long p w = some i) : readsBack (withPfx p w) i := by
  unfold withPfx
  split
  · rename_i hp
    exact readsBack_head hm hw (hp ▸ h false)
  · exact readsBack_long hm hw (h true)

theorem readsBack_imm27 {f : BitVec 12 → Word} {x : BitVec 27} {i : Instr} (hm : ∀ y, majorOf (f y) < 0x4C)
    (hf : ∀ y, bits (f y) 0 12 = y) (hw : i.wf = true)
    (h : ∀ long p y, p.only false false false false true = true → imm27 long p (f y) = x →
      decodeHead long p (f y) = some i) : readsBack (encImm27 x f) i := by
  unfold encImm27
  split
  · rename_i hx
    exact readsBack_head (hm _) hw (h _ _ _ rfl (by simp [imm27, hf, hx]))
  · refine readsBack_long (hm _) hw (h _ _ _ rfl ?_)
    simp only [imm27, hf, if_true]
    apply BitVec.eq_of_toNat_eq
    rw [app_toNat, BitVec.extractLsb'_toNat, BitVec.toNat_setWidth, Nat.shiftRight_eq_div_pow]
    omega

theorem readsBack_imm35 {f : BitVec 20 → Word} {x : BitVec 35} {i : Instr} (hm : ∀ y, majorOf (f y) < 0x4C)
    (hf : ∀ y, bits (f y) 0 20 = y) (hw : i.wf = true)
    (h : ∀ long p y, p.only false false false false true = true → imm35 long p (f y) = x →
      decodeHead long p (f y) = some i) : readsBack (encImm35 x f) i := by
  unfold encImm35
  split
  · rename_i hx
    exact readsBack_head (hm _) hw (h _ _ _ rfl (by simp [imm35, hf, hx]))
  · refine readsBack_long (hm _) hw (h _ _ _ rfl ?_)
    simp only [imm35, hf, if_true]
    apply BitVec.eq_of_toNat_eq
    rw [app_toNat, BitVec.extractLsb'_toNat, BitVec.toNat_setWidth, Nat.shiftRight_eq_div_pow]
    omega

end Sys2Proof
end

