-- ==== Sys2Proof/Laws/Memory.lean ====
section
/-! SUPPORT. The laws of memory: reading after writing, and the canonical form that every operation keeps. -/

namespace Sys2Proof.Machine

/-! ### Lists of bytes -/

theorem cellsRead_write_self (l : List Host.Cell) (a : Nat) (b : Byte)
    (h : l.Pairwise (fun x y => x.1 < y.1)) : cellsRead (cellsWrite l a b) a = b := by
  induction l with
  | nil =>
    unfold cellsWrite
    split
    · rename_i hb; simp [cellsRead, hb]
    · simp [cellsRead]
  | cons e t ih =>
    obtain ⟨k, v⟩ := e
    have ht := (List.pairwise_cons.mp h).2
    have hk := (List.pairwise_cons.mp h).1
    have absent : ∀ (u : List Host.Cell), (∀ x ∈ u, a < x.1) → cellsRead u a = 0 := by
      intro u hu
      induction u with
      | nil => rfl
      | cons x w ihw =>
        obtain ⟨kx, vx⟩ := x
        have hx : a < kx := hu (kx, vx) (by simp)
        simp only [cellsRead]
        rw [if_neg (by omega)]
        exact ihw (fun y hy => hu y (by simp [hy]))
    simp only [cellsWrite]
    split
    · rename_i hlt
      split
      · rename_i hb
        rw [hb]
        refine absent _ (fun x hx => ?_)
        rcases List.mem_cons.mp hx with rfl | hx
        · exact hlt
        · exact Nat.lt_trans hlt (hk x hx)
      · simp [cellsRead]
    · split
      · rename_i heq
        subst heq
        split
        · rename_i hb
          rw [hb]
          exact absent _ hk
        · simp [cellsRead]
      · rename_i h1 h2
        simp only [cellsRead]
        rw [if_neg (fun hh => h2 hh.symm)]
        exact ih ht

theorem cellsRead_write_other (l : List Host.Cell) (a c : Nat) (b : Byte) (hne : c ≠ a)
    (h : l.Pairwise (fun x y => x.1 < y.1)) : cellsRead (cellsWrite l a b) c = cellsRead l c := by
  induction l with
  | nil => unfold cellsWrite; split <;> simp [cellsRead, Ne.symm hne]
  | cons e t ih =>
    obtain ⟨k, v⟩ := e
    simp only [cellsWrite]
    split
    · split
      · rfl
      · simp only [cellsRead]
        rw [if_neg (Ne.symm hne)]
    · split
      · rename_i heq
        subst heq
        split <;> simp [cellsRead, Ne.symm hne]
      · simp only [cellsRead]
        rw [ih (List.pairwise_cons.mp h).2]

theorem mem_cellsWrite {l : List Host.Cell} {a : Nat} {b : Byte} {x : Host.Cell} (hx : x ∈ cellsWrite l a b) :
    x ∈ l ∨ (x = (a, b) ∧ b ≠ 0) := by
  induction l with
  | nil =>
    simp only [cellsWrite] at hx
    split at hx
    · simp at hx
    · rename_i hb; simp at hx; exact .inr ⟨hx, hb⟩
  | cons e t ih =>
    obtain ⟨k, v⟩ := e
    simp only [cellsWrite] at hx
    split at hx
    · split at hx
      · exact .inl hx
      · rename_i hb
        rcases List.mem_cons.mp hx with rfl | hx
        · exact .inr ⟨rfl, hb⟩
        · exact .inl hx
    · split at hx
      · split at hx
        · exact .inl (List.mem_cons_of_mem _ hx)
        · rename_i hb
          rcases List.mem_cons.mp hx with rfl | hx
          · exact .inr ⟨rfl, hb⟩
          · exact .inl (List.mem_cons_of_mem _ hx)
      · rcases List.mem_cons.mp hx with rfl | hx
        · exact .inl (by simp)
        · rcases ih hx with h | h
          · exact .inl (List.mem_cons_of_mem _ h)
          · exact .inr h

theorem cellsWrite_sorted {l : List Host.Cell} (a : Nat) (b : Byte) (h : l.Pairwise (fun x y => x.1 < y.1)) :
    (cellsWrite l a b).Pairwise (fun x y => x.1 < y.1) := by
  induction l with
  | nil => simp only [cellsWrite]; split <;> simp
  | cons e t ih =>
    obtain ⟨k, v⟩ := e
    obtain ⟨hk, ht⟩ := List.pairwise_cons.mp h
    simp only [cellsWrite]
    split
    · rename_i hlt
      split
      · exact h
      · refine List.pairwise_cons.mpr ⟨fun x hx => ?_, h⟩
        rcases List.mem_cons.mp hx with rfl | hx
        · exact hlt
        · exact Nat.lt_trans hlt (hk x hx)
    · split
      · rename_i heq
        subst heq
        split
        · exact ht
        · exact List.pairwise_cons.mpr ⟨hk, ht⟩
      · rename_i h1 h2
        refine List.pairwise_cons.mpr ⟨fun x hx => ?_, ih ht⟩
        rcases mem_cellsWrite hx with hx | ⟨rfl, _⟩
        · exact hk x hx
        · show k < a
          omega

/-! ### Rising lists of numbers -/

theorem mem_putNat {l : List Nat} {k x : Nat} (hx : x ∈ putNat l k) : x ∈ l ∨ x = k := by
  induction l with
  | nil => simp [putNat] at hx; exact .inr hx
  | cons j t ih =>
    simp only [putNat] at hx
    split at hx
    · rcases List.mem_cons.mp hx with rfl | hx
      · exact .inr rfl
      · exact .inl hx
    · split at hx
      · exact .inl hx
      · rcases List.mem_cons.mp hx with rfl | hx
        · exact .inl (by simp)
        · rcases ih hx with h | h
          · exact .inl (List.mem_cons_of_mem _ h)
          · exact .inr h

theorem putNat_sorted {l : List Nat} (k : Nat) (h : l.Pairwise (· < ·)) : (putNat l k).Pairwise (· < ·) := by
  induction l with
  | nil => simp [putNat]
  | cons j t ih =>
    obtain ⟨hj, ht⟩ := List.pairwise_cons.mp h
    simp only [putNat]
    split
    · rename_i hlt
      refine List.pairwise_cons.mpr ⟨fun x hx => ?_, h⟩
      rcases List.mem_cons.mp hx with rfl | hx
      · exact hlt
      · exact Nat.lt_trans hlt (hj x hx)
    · split
      · exact h
      · rename_i h1 h2
        refine List.pairwise_cons.mpr ⟨fun x hx => ?_, ih ht⟩
        rcases mem_putNat hx with hx | rfl
        · exact hj x hx
        · omega

theorem foldl_putNat_sorted (us : List Nat) {l : List Nat} (h : l.Pairwise (· < ·)) :
    (us.foldl putNat l).Pairwise (· < ·) := by
  induction us generalizing l with
  | nil => exact h
  | cons u t ih => exact ih (putNat_sorted u h)

/-! ### The canonical form -/

theorem Memory.wf_empty : ({} : Memory).wf := by simp [Memory.wf]

theorem Memory.wf_putByte {m : Memory} (a : Nat) (b : Byte) (h : m.wf) : (m.putByte a b).wf := by
  refine ⟨cellsWrite_sorted a b h.1, fun c hc => ?_, h.2.2⟩
  rcases mem_cellsWrite hc with hc | ⟨rfl, hb⟩
  · exact h.2.1 c hc
  · exact hb

theorem Memory.wf_write {m : Memory} (a n v : Nat) (h : m.wf) : (m.write a n v).wf := by
  induction n generalizing m a v with
  | zero => exact h
  | succ k ih => exact ih _ _ (Memory.wf_putByte a _ h)

theorem Memory.wf_poisonUnit {m : Memory} (u : Nat) (h : m.wf) : (m.poisonUnit u).wf :=
  ⟨h.1, h.2.1, putNat_sorted _ h.2.2⟩

theorem Memory.wf_clearUnit {m : Memory} (u : Nat) (h : m.wf) : (m.clearUnit u).wf :=
  ⟨h.1, h.2.1, h.2.2.filter _⟩

/-- A fold of operations that each keep the canonical form keeps it. -/
theorem Memory.wf_foldl {α : Type} {f : Memory → α → Memory} (hf : ∀ m x, m.wf → (f m x).wf) (l : List α) {m : Memory}
    (h : m.wf) : (l.foldl f m).wf := by
  induction l generalizing m with
  | nil => exact h
  | cons x t ih => exact ih (hf m x h)

theorem Memory.wf_markWritten {m : Memory} (a n : Nat) (psn : Bool) (h : m.wf) : (m.markWritten a n psn).wf := by
  refine Memory.wf_foldl (fun m u hm => ?_) _ h
  split
  · exact Memory.wf_poisonUnit u hm
  · split
    · exact Memory.wf_clearUnit u hm
    · exact hm

theorem Memory.wf_store {m : Memory} (a n v : Nat) (psn : Bool) (h : m.wf) : (m.store a n v psn).wf :=
  Memory.wf_markWritten a n psn (Memory.wf_write a n v h)

theorem Memory.wf_putBytes {m : Memory} (a : Nat) (bs : List Byte) (h : m.wf) : (m.putBytes a bs).wf := by
  induction bs generalizing m a with
  | nil => exact h
  | cons b t ih => exact ih _ (Memory.wf_putByte a b h)

theorem Memory.wf_blit {m src : Memory} (d a n : Nat) (h : m.wf) (hs : src.wf) : (m.blit src d a n).wf := by
  refine ⟨?_, ?_, ?_⟩
  · simp only [Memory.blit]
    rw [List.append_assoc]
    refine List.pairwise_append.mpr ⟨h.1.filter _, List.pairwise_append.mpr ⟨?_, h.1.filter _, ?_⟩, ?_⟩
    · rw [List.pairwise_map]
      refine ((hs.1.filter _).imp_of_mem ?_)
      intro x y hx hy hxy
      have h1 := (List.mem_filter.mp hx).2
      have h2 := (List.mem_filter.mp hy).2
      simp only [decide_eq_true_eq] at h1 h2 ⊢
      omega
    · intro x hx y hy
      obtain ⟨c, hc, rfl⟩ := List.mem_map.mp hx
      have h1 := (List.mem_filter.mp hc).2
      have h2 := (List.mem_filter.mp hy).2
      simp only [decide_eq_true_eq] at h1 h2 ⊢
      omega
    · intro x hx y hy
      have h1 := (List.mem_filter.mp hx).2
      simp only [decide_eq_true_eq] at h1
      rcases List.mem_append.mp hy with hy | hy
      · obtain ⟨c, hc, rfl⟩ := List.mem_map.mp hy
        have h2 := (List.mem_filter.mp hc).2
        simp only [decide_eq_true_eq] at h2 ⊢
        omega
      · have h2 := (List.mem_filter.mp hy).2
        simp only [decide_eq_true_eq] at h2
        omega
  · intro c hc
    simp only [Memory.blit] at hc
    rcases List.mem_append.mp hc with hc | hc
    · rcases List.mem_append.mp hc with hc | hc
      · exact h.2.1 c (List.mem_filter.mp hc).1
      · obtain ⟨x, hx, rfl⟩ := List.mem_map.mp hc
        exact hs.2.1 x (List.mem_filter.mp hx).1
    · exact h.2.1 c (List.mem_filter.mp hc).1
  · exact foldl_putNat_sorted _ (h.2.2.filter _)

/-! ### Reading after writing -/

@[simp] theorem Memory.byte_putByte_self {m : Memory} (a : Nat) (b : Byte) (h : m.wf) : (m.putByte a b).byte a = b :=
  cellsRead_write_self _ _ _ h.1

theorem Memory.byte_putByte_other {m : Memory} {a c : Nat} (b : Byte) (hne : c ≠ a) (h : m.wf) :
    (m.putByte a b).byte c = m.byte c :=
  cellsRead_write_other _ _ _ _ hne h.1

/-- A write leaves every byte outside its range alone. -/
theorem Memory.byte_write_other {m : Memory} {a n c : Nat} (v : Nat) (hc : c < a ∨ a + n ≤ c) (h : m.wf) :
    (m.write a n v).byte c = m.byte c := by
  induction n generalizing m a v with
  | zero => rfl
  | succ k ih =>
    simp only [Memory.write]
    rw [ih (v / 256) (by omega) (Memory.wf_putByte a _ h), Memory.byte_putByte_other _ (by omega) h]

/-- A write puts byte k of the number at offset k of its range. -/
theorem Memory.byte_write_at {m : Memory} {a n k : Nat} (v : Nat) (hk : k < n) (h : m.wf) :
    (m.write a n v).byte (a + k) = BitVec.ofNat 8 (v / 256 ^ k) := by
  induction n generalizing m a v k with
  | zero => omega
  | succ n ih =>
    simp only [Memory.write]
    cases k with
    | zero =>
      rw [Memory.byte_write_other _ (by omega) (Memory.wf_putByte a _ h), Nat.add_zero, Memory.byte_putByte_self _ _ h]
      simp
    | succ k =>
      have e : a + (k + 1) = a + 1 + k := by omega
      rw [e, ih (v / 256) (by omega) (Memory.wf_putByte a _ h), Nat.div_div_eq_div_mul, Nat.pow_succ, Nat.mul_comm]

/-- A number whose bytes stand in a range is what the range reads as. -/
theorem Memory.read_of_bytes {m : Memory} (a n v : Nat) (h : ∀ j, j < n → m.byte (a + j) = BitVec.ofNat 8 (v / 256 ^ j)) :
    m.read a n = v % 256 ^ n := by
  induction n generalizing a v with
  | zero => simp [Memory.read, Nat.mod_one]
  | succ n ih =>
    have ht := ih (a + 1) (v / 256) (fun j hj => by
      rw [show a + 1 + j = a + (j + 1) by omega, h (j + 1) (by omega), Nat.div_div_eq_div_mul, Nat.pow_succ, Nat.mul_comm])
    have h0 := h 0 (by omega)
    simp only [Nat.add_zero, Nat.pow_zero, Nat.div_one] at h0
    rw [Memory.read, h0, ht, BitVec.toNat_ofNat, Nat.pow_succ 256 n, Nat.mul_comm (256 ^ n) 256, Nat.mod_mul]

/-- What a number written reads as. -/
theorem Memory.read_write {m : Memory} (a n v : Nat) (h : m.wf) : (m.write a n v).read a n = v % 256 ^ n :=
  Memory.read_of_bytes a n v (fun _ hj => Memory.byte_write_at v hj h)

/-- A list of bytes written leaves every byte outside its range alone. -/
theorem Memory.byte_putBytes_other {m : Memory} {a c : Nat} (bs : List Byte) (hc : c < a ∨ a + bs.length ≤ c) (h : m.wf) :
    (m.putBytes a bs).byte c = m.byte c := by
  induction bs generalizing m a with
  | nil => rfl
  | cons b t ih =>
    simp only [List.length_cons] at hc
    rw [Memory.putBytes, ih (by omega) (Memory.wf_putByte a b h), Memory.byte_putByte_other b (by omega) h]

/-- A list of bytes written stands in its range. -/
theorem Memory.byte_putBytes_at {m : Memory} {a k : Nat} {b : Byte} (bs : List Byte) (hk : bs[k]? = some b) (h : m.wf) :
    (m.putBytes a bs).byte (a + k) = b := by
  induction bs generalizing m a k with
  | nil => simp at hk
  | cons x t ih =>
    cases k with
    | zero =>
      simp only [List.getElem?_cons_zero, Option.some.injEq] at hk
      rw [Memory.putBytes, Memory.byte_putBytes_other t (by omega) (Memory.wf_putByte a x h), Nat.add_zero,
        Memory.byte_putByte_self _ _ h, hk]
    | succ k =>
      rw [Memory.putBytes, show a + (k + 1) = a + 1 + k by omega]
      exact ih (by simpa using hk) (Memory.wf_putByte a x h)

@[simp] theorem Memory.byte_poisonUnit (m : Memory) (u a : Nat) : (m.poisonUnit u).byte a = m.byte a := rfl
@[simp] theorem Memory.byte_clearUnit (m : Memory) (u a : Nat) : (m.clearUnit u).byte a = m.byte a := rfl

/-- The poison that a write leaves changes no byte. -/
@[simp] theorem Memory.byte_markWritten (m : Memory) (a n : Nat) (psn : Bool) (c : Nat) :
    (m.markWritten a n psn).byte c = m.byte c := by
  have : ∀ (l : List Nat) (m : Memory), (l.foldl (fun m u =>
      if psn then m.poisonUnit u else if a ≤ u ∧ u + 8 ≤ a + n then m.clearUnit u else m) m).byte c = m.byte c := by
    intro l
    induction l with
    | nil => intro m; rfl
    | cons u t ih =>
      intro m
      rw [List.foldl_cons, ih]
      split
      · rfl
      · split <;> rfl
  exact this _ _

/-- A store leaves every byte outside its range alone. -/
theorem Memory.byte_store_other {m : Memory} {a n c : Nat} (v : Nat) (psn : Bool) (hc : c < a ∨ a + n ≤ c) (h : m.wf) :
    (m.store a n v psn).byte c = m.byte c := by
  rw [Memory.store, Memory.byte_markWritten, Memory.byte_write_other v hc h]

/-- A store puts byte k of the number at offset k of its range. -/
theorem Memory.byte_store_at {m : Memory} {a n k : Nat} (v : Nat) (psn : Bool) (hk : k < n) (h : m.wf) :
    (m.store a n v psn).byte (a + k) = BitVec.ofNat 8 (v / 256 ^ k) := by
  rw [Memory.store, Memory.byte_markWritten, Memory.byte_write_at v hk h]

/-- What a number stored reads as. -/
theorem Memory.read_store {m : Memory} (a n v : Nat) (psn : Bool) (h : m.wf) :
    (m.store a n v psn).read a n = v % 256 ^ n := by
  have e : ∀ (n a : Nat) (w x : Memory), (∀ c, w.byte c = x.byte c) → w.read a n = x.read a n := by
    intro n
    induction n with
    | zero => intros; rfl
    | succ n ih => intro a w x hw; simp only [Memory.read]; rw [hw, ih _ _ _ hw]
  rw [Memory.store, e n a _ _ (Memory.byte_markWritten (m.write a n v) a n psn), Memory.read_write a n v h]

/-! ### Keyed lists -/

@[simp] theorem keyed_putKeyed_self {α : Type} (l : List (Nat × α)) (k : Nat) (x : α) : keyed (putKeyed l k x) k = some x := by
  induction l with
  | nil => simp [putKeyed, keyed]
  | cons e t ih =>
    obtain ⟨j, y⟩ := e
    simp only [putKeyed]
    split
    · simp [keyed]
    · split
      · simp [keyed]
      · rename_i h1 h2
        simp only [keyed]
        rw [if_neg (fun h => h2 h.symm), ih]

theorem keyed_putKeyed_other {α : Type} (l : List (Nat × α)) {k j : Nat} (x : α) (h : j ≠ k) :
    keyed (putKeyed l k x) j = keyed l j := by
  induction l with
  | nil => simp [putKeyed, keyed, Ne.symm h]
  | cons e t ih =>
    obtain ⟨i, y⟩ := e
    simp only [putKeyed]
    split
    · simp [keyed, Ne.symm h]
    · split
      · rename_i h1 h2
        subst h2
        simp [keyed, Ne.symm h]
      · simp only [keyed]
        rw [ih]

end Sys2Proof.Machine
end

