-- ==== Sys2Proof/Laws/Kept.lean ====
section
/-! SUPPORT. The memories and the bounded registers that the invariant speaks of, through each shared operation: `_kept` where
it changes none of them, `_ok` where it changes some and keeps what the invariant says. -/

namespace Sys2Proof.Machine

/-- The memories and the bounded registers of a state. -/
structure Stored where
  mem : Memory
  host : Memory
  scratch : Memory
  flash : Memory
  shadows : List Shadow
  shadow : Nat
  tsel : Nat
  plim : Nat

/-- Those of a state. -/
def State.kept (s : State) : Stored :=
  ⟨s.mem, s.host, s.scratch, s.flash, s.ctl.shadows, s.sys.shadow, s.sys.tsel, s.hw.plim⟩

/-- A record update that changes none of them. -/
@[simp] theorem State.kept_mk (t : State) (agenda : List Move) (tick nextId : Nat) (cur : Option Cur)
    (cyc : List (Nat × W64)) (insts : List Inst) (frames : List Frame) (tokens : List Token) (ready : List Ready)
    (ops : List Op) (items : List Item) (actions : List Action) (descs : List DescEntry) (windows : List Window)
    (tlb : List TlbEntry) (icache : List IcWord) (lcache : List LcLine) (tiles : List (Nat × BitVec 4096))
    (tilePoison : List Nat) (gslots : List GSlot) (carJobs : List CarJob) (carClock : List (Nat × Nat))
    (counts : List LaunchCount) (killed : List (Nat × Nat × Nat)) (halted faultCount genCount : List (Nat × Nat))
    (ctl : Contexts) (sys : SysRegs) (io : HostIo) (hw : HealthRegs) (hc : ctl.shadows = t.ctl.shadows)
    (hs : sys.shadow = t.sys.shadow) (ht : sys.tsel = t.sys.tsel) (hp : hw.plim = t.hw.plim) :
    State.kept ⟨agenda, tick, nextId, cur, cyc, insts, frames, tokens, ready, ops, items, actions, descs, windows, tlb,
      icache, lcache, tiles, tilePoison, t.scratch, gslots, carJobs, carClock, counts, killed, halted, faultCount, genCount,
      t.mem, t.host, t.flash, ctl, sys, io, hw⟩ = t.kept := by
  simp [State.kept, hc, hs, ht, hp]

theorem State.kept_fold {α : Type} (f : State → α → State) (h : ∀ s a, (f s a).kept = s.kept) (l : List α) (s : State) :
    (l.foldl f s).kept = s.kept := by
  induction l generalizing s with
  | nil => rfl
  | cons a l ih => rw [List.foldl_cons, ih, h]

/-- The state of a pair that is another name of one whose state keeps them. -/
theorem State.kept_of_eq {α : Type} {r : State × α} {s u : State} {x : α} (h : r = (u, x)) (hr : r.1.kept = s.kept) :
    u.kept = s.kept := by
  cases h
  exact hr

/-- What the invariant says of them. -/
def Stored.ok (k : Stored) : Prop :=
  k.mem.wf ∧ k.host.wf ∧ k.scratch.wf ∧ k.flash.wf ∧ (∀ h ∈ k.shadows, h.mem.wf)
    ∧ k.shadow ≤ 48 ∧ k.tsel < 64 ∧ k.plim < 2 ^ 16

theorem State.inv_iff (s : State) : s.Inv ↔ s.kept.ok := Iff.rfl

theorem State.ok_fold {α : Type} (f : State → α → State) (h : ∀ s a, s.kept.ok → (f s a).kept.ok) (l : List α) (s : State)
    (hs : s.kept.ok) : (l.foldl f s).kept.ok := by
  induction l generalizing s with
  | nil => exact hs
  | cons a l ih => exact ih _ (h _ _ hs)

theorem State.ok_ite {p : Prop} [Decidable p] {s t : State} (hs : p → s.kept.ok) (ht : ¬p → t.kept.ok) :
    (if p then s else t).kept.ok := by
  split
  · exact hs (by assumption)
  · exact ht (by assumption)

theorem State.putBoxUnit_ok (s : State) (off v : Nat) (hs : s.kept.ok) : (s.putBoxUnit off v).kept.ok := by
  obtain ⟨h1, h2, h3, h4, h5, h6, h7, h8⟩ := hs
  unfold State.putBoxUnit
  split
  · exact ⟨h1, h2, h3, h4, h5, h6, h7, h8⟩
  · split
    · exact ⟨h1, h2, h3, h4, h5, h6, h7, h8⟩
    · split
      · exact ⟨h1, h2, h3, h4, h5, h6, h7, h8⟩
      · split
        · exact ⟨h1, h2, h3, h4, h5, h6, h7, h8⟩
        · split
          · exact ⟨h1, h2, h3, h4, h5, h6, h7, Nat.mod_lt _ (by decide)⟩
          · split
            · exact ⟨h1, h2, h3, h4, h5, h6, h7, h8⟩
            · exact ⟨h1, h2, h3, h4, h5, h6, h7, h8⟩
/-- Another package memory in canonical form keeps the invariant. -/
theorem State.ok_mem {s : State} (hs : s.kept.ok) {m : Memory} (hm : m.wf) : ({ s with mem := m } : State).kept.ok :=
  ⟨hm, hs.2⟩

/-- Another host memory in canonical form keeps the invariant. -/
theorem State.ok_host {s : State} (hs : s.kept.ok) {m : Memory} (hm : m.wf) : ({ s with host := m } : State).kept.ok :=
  ⟨hs.1, hm, hs.2.2⟩

/-- Another scratch in canonical form keeps the invariant. -/
theorem State.ok_scratch {s : State} (hs : s.kept.ok) {m : Memory} (hm : m.wf) :
    ({ s with scratch := m } : State).kept.ok :=
  ⟨hs.1, hs.2.1, hm, hs.2.2.2⟩

/-- Another flash in canonical form keeps the invariant. -/
theorem State.ok_flash {s : State} (hs : s.kept.ok) {m : Memory} (hm : m.wf) :
    ({ s with flash := m } : State).kept.ok :=
  ⟨hs.1, hs.2.1, hs.2.2.1, hm, hs.2.2.2.2⟩

/-- Another list of shadows in canonical form keeps the invariant. -/
theorem State.ok_shadows {s : State} (hs : s.kept.ok) {l : List Shadow} (hl : ∀ h ∈ l, h.mem.wf) :
    ({ s with ctl := { s.ctl with shadows := l } } : State).kept.ok :=
  ⟨hs.1, hs.2.1, hs.2.2.1, hs.2.2.2.1, hl, hs.2.2.2.2.2⟩

theorem State.ok_memWf {s : State} (hs : s.kept.ok) : s.mem.wf := hs.1
theorem State.ok_hostWf {s : State} (hs : s.kept.ok) : s.host.wf := hs.2.1
theorem State.ok_scratchWf {s : State} (hs : s.kept.ok) : s.scratch.wf := hs.2.2.1
theorem State.ok_flashWf {s : State} (hs : s.kept.ok) : s.flash.wf := hs.2.2.2.1
theorem State.ok_shadowsWf {s : State} (hs : s.kept.ok) : ∀ h ∈ s.ctl.shadows, h.mem.wf := hs.2.2.2.2.1

@[simp] theorem State.boxStore_ok (s : State) (off n v : Nat) (hs : s.kept.ok) : (s.boxStore off n v).kept.ok := by
  induction n generalizing s off v with
  | zero => exact hs
  | succ n ih =>
    refine ih _ _ _ ?_
    split
    · exact State.ok_mem hs (Memory.wf_putByte _ _ (State.ok_memWf hs))
    · exact State.putBoxUnit_ok _ _ _ hs
@[simp] theorem State.boxPut_ok (s : State) (off n v : Nat) (psn : Bool) (hs : s.kept.ok) :
    (s.boxPut off n v psn).kept.ok := by
  have h := State.boxStore_ok s off n v hs
  unfold State.boxPut
  dsimp only
  split
  · exact State.ok_mem h (Memory.wf_markWritten _ _ _ (State.ok_memWf h))
  · exact h
@[simp] theorem State.physStore_ok (s : State) (a n v : Nat) (psn : Bool) (hs : s.kept.ok) :
    (s.physStore a n v psn).kept.ok := by
  unfold State.physStore
  split
  · exact State.boxPut_ok _ _ _ _ _ hs
  · split
    · exact State.ok_mem hs (Memory.wf_store _ _ _ _ (State.ok_memWf hs))
    · exact State.ok_host hs (Memory.wf_store _ _ _ _ (State.ok_hostWf hs))
@[simp] theorem State.fillTlb_kept (s : State) (site ctx va : Nat) (leaf : W64) (lvl : Nat) :
    (State.fillTlb s site ctx va leaf lvl).kept = s.kept := rfl
@[simp] theorem State.noteWalk_kept (s : State) (site ctx va lvl : Nat) :
    (State.noteWalk s site ctx va lvl).kept = s.kept := rfl
@[simp] theorem State.noteFetch_kept (s : State) (site ctx va : Nat) : (s.noteFetch site ctx va).kept = s.kept := by
  unfold State.noteFetch
  (repeat' split) <;> simp
@[simp] theorem State.noteDie_kept (s : State) (d ctx va : Nat) : (s.noteDie d ctx va).kept = s.kept := by
  unfold State.noteDie
  split <;> rfl
@[simp] theorem State.noteCopy_kept (s : State) (ctx : Nat) (a : Access) (va n : Nat) :
    (s.noteCopy ctx a va n).kept = s.kept := by
  unfold State.noteCopy
  dsimp only
  split <;> simp
@[simp] theorem State.notePlacement_kept (s : State) (site : Nat) (d : Desc) (ctx : Nat) (tag : BitVec 32) :
    (s.notePlacement site d ctx tag).kept = s.kept := by
  unfold State.notePlacement
  split <;> simp
@[simp] theorem State.installDesc_kept (s : State) (site ctx cb : Nat) (d : Desc) :
    (State.installDesc s site ctx cb d).kept = s.kept := rfl
/-- Loading a descriptor changes the descriptor store and the walks only. -/
@[simp] theorem State.loadDesc_kept (s : State) (site ctx cb : Nat) : (s.loadDesc site ctx cb).1.kept = s.kept := by
  unfold State.loadDesc
  dsimp only
  (repeat' split) <;> simp
/-- Resolving a reference changes the descriptor store and the walks only. -/
@[simp] theorem State.resolveHome_kept (s : State) (site : Nat) (l : List Nat) (ctx cb : Nat) (tag : BitVec 32) :
    (s.resolveHome site l ctx cb tag).1.kept = s.kept := by
  unfold State.resolveHome
  dsimp only
  split <;> simp
@[simp] theorem State.updateFrame_kept (s : State) (site : Nat) (k : Key) (f : Frame → Frame) :
    (State.updateFrame s site k f).kept = s.kept := rfl
@[simp] theorem State.dropFrame_kept (s : State) (site : Nat) (k : Key) :
    (State.dropFrame s site k).kept = s.kept := rfl
/-- Spilling victims changes the life of frames only. -/
theorem State.spillFor_kept {s : State} {site ctx : Nat} {d : Desc} {fuel : Nat} {t : State}
    (h : s.spillFor site ctx d fuel = .made t) : t.kept = s.kept := by
  induction fuel generalizing s with
  | zero =>
    unfold State.spillFor at h
    split at h
    · cases h; rfl
    · cases h
  | succ n ih =>
    unfold State.spillFor at h
    split at h
    · cases h; rfl
    · dsimp only at h
      split at h
      · cases h
      · split at h
        · exact (ih h).trans (by simp)
        · cases h
/-- Making room changes the life of frames only. -/
theorem State.makeRoom_kept {s : State} {site ctx : Nat} {d : Desc} {t : State} (h : s.makeRoom site ctx d = .made t) :
    t.kept = s.kept :=
  State.spillFor_kept h
@[simp] theorem State.createFrame_kept (s : State) (site : Nat) (k : Key) (epoch : Bool) (lid : Nat) (d : Desc) (handler : Option HandlerMark) (fresh : Bool) :
    (State.createFrame s site k epoch lid d handler fresh).kept = s.kept := rfl
@[simp] theorem State.fillFrame_kept (s : State) (f : Frame) :
    (State.fillFrame s f).kept = s.kept := rfl
@[simp] theorem State.enqueueWith_kept (s : State) (site : Nat) (k : Key) (thr cls : Nat) (sub : Option (Nat × (Nat × Nat × Bool) × W64)) :
    (State.enqueueWith s site k thr cls sub).kept = s.kept := by unfold State.enqueueWith; dsimp only; (repeat' split) <;> simp
@[simp] theorem State.enqueue_kept (s : State) (f : Frame) (thr : Nat) :
    (State.enqueue s f thr).kept = s.kept := by simp [State.enqueue]
@[simp] theorem State.putInst_kept (s : State) (i : Inst) :
    (State.putInst s i).kept = s.kept := rfl
@[simp] theorem State.dropInst_kept (s : State) (site runner : Nat) :
    (State.dropInst s site runner).kept = s.kept := rfl
@[simp] theorem State.count_kept (s : State) (site ctx lid ts tr : Nat) :
    (State.count s site ctx lid ts tr).kept = s.kept := by unfold State.count; dsimp only; (repeat' split) <;> simp
@[simp] theorem State.countTr_kept (s : State) (t : Token) :
    (State.countTr s t).kept = s.kept := by unfold State.countTr; split <;> simp
@[simp] theorem State.updateToken_kept (s : State) (id : Nat) (f : Token → Token) :
    (State.updateToken s id f).kept = s.kept := rfl
@[simp] theorem State.dropToken_kept (s : State) (id : Nat) :
    (State.dropToken s id).kept = s.kept := rfl
@[simp] theorem State.sendToken_kept (s : State) (t : Token) :
    (State.sendToken s t).kept = s.kept := rfl
@[simp] theorem State.unpin_kept (s : State) (site n : Nat) :
    (State.unpin s site n).kept = s.kept := rfl
@[simp] theorem State.discardToken_kept (s : State) (t : Token) :
    (State.discardToken s t).kept = s.kept := by unfold State.discardToken; split <;> simp
@[simp] theorem State.raiseEvent_kept (s : State) (cls tag : Nat) (ws : List W64) :
    (State.raiseEvent s cls tag ws).kept = s.kept := by unfold State.raiseEvent; split <;> simp
@[simp] theorem State.healthEvent_kept (s : State) (code source : Nat) :
    (State.healthEvent s code source).kept = s.kept := by simp [State.healthEvent]
@[simp] theorem State.updateOp_kept (s : State) (id : Nat) (f : Op → Op) :
    (State.updateOp s id f).kept = s.kept := rfl
@[simp] theorem State.dropOp_kept (s : State) (id : Nat) :
    (State.dropOp s id).kept = s.kept := by unfold State.dropOp; (repeat' split) <;> simp
@[simp] theorem State.sendKill_kept (s : State) (it : Item) : (State.sendKill s it).kept = s.kept := rfl
@[simp] theorem State.freeFrame_kept (s : State) (site : Nat) (k : Key) :
    (State.freeFrame s site k).kept = s.kept := by unfold State.freeFrame; dsimp only; (repeat' split) <;> simp
@[simp] theorem State.settle_kept (s : State) (site : Nat) (k : Key) :
    (State.settle s site k).kept = s.kept := by unfold State.settle; (repeat' split) <;> simp
@[simp] theorem State.discardBody_kept (s : State) (it : Item) :
    (State.discardBody s it).kept = s.kept := by unfold State.discardBody; (repeat' split) <;> simp
@[simp] theorem State.takeItem_kept (s : State) (id : Nat) :
    (State.takeItem s id).kept = s.kept := rfl
@[simp] theorem State.killItem_kept (s : State) (it : Item) :
    (State.killItem s it).kept = s.kept := by simp [State.killItem]
@[simp] theorem State.releaseInst_kept (s : State) (i : Inst) :
    (State.releaseInst s i).kept = s.kept := by
  unfold State.releaseInst
  simp only [State.dropInst_kept]
  rw [State.kept_fold _ (fun s n => State.unpin_kept s _ n)]
  simp
@[simp] theorem State.dropRequest_kept (s : State) (i : Inst) :
    (State.dropRequest s i).kept = s.kept := by unfold State.dropRequest; split <;> simp
@[simp] theorem State.abandon_kept (s : State) (i : Inst) :
    (State.abandon s i).kept = s.kept := by unfold State.abandon; simp
/-- Sending a fault token changes no memory. -/
@[simp] theorem State.faultToken_kept (s : State) (f : FaultSpec) (item : Nat) (ws : List W64) :
    (s.faultToken f item ws).1.kept = s.kept := by
  unfold State.faultToken
  dsimp only
  (repeat' split) <;> simp
@[simp] theorem State.haltAt_kept (s : State) (it : Item) (record : List W64) : (State.haltAt s it record).kept = s.kept := by
  unfold State.haltAt
  rw [State.raiseEvent_kept]
  split <;> rfl
@[simp] theorem State.doubleFault_kept (s : State) (it : Item) (record : List W64) :
    (State.doubleFault s it record).kept = s.kept := by
  have h (s : State) (l : List Inst) : (l.foldl State.abandon s).kept = s.kept := State.kept_fold _ State.abandon_kept l s
  unfold State.doubleFault
  simp [h]
@[simp] theorem State.ringFault_kept (s : State) (f : FaultSpec) (it : Item) (gen : Nat) :
    (State.ringFault s f it gen).kept = s.kept := by unfold State.ringFault; (repeat' split) <;> simp
@[simp] theorem State.raiseFault_kept (s : State) (f : FaultSpec) :
    (State.raiseFault s f).kept = s.kept := by
  unfold State.raiseFault
  dsimp only
  split
  · simp
  · split
    · simp
    · split <;> simp
@[simp] theorem State.faultOp_kept (s : State) (o : Op) (h : HeldOp) (lane : Nat) (data : Option VWord) :
    (State.faultOp s o h lane data).kept = s.kept := by simp [State.faultOp]
@[simp] theorem State.endKilled_kept (s : State) (i : Inst) :
    (State.endKilled s i).kept = s.kept := by unfold State.endKilled; dsimp only; split <;> simp
@[simp] theorem State.takeFault_kept (s : State) (i : Inst) (w : At) (t : Trap) :
    (State.takeFault s i w t).kept = s.kept := by unfold State.takeFault; dsimp only; split <;> simp
/-- The last check of a reference changes the descriptor store and the walks only. -/
@[simp] theorem State.checkDesc_kept (s : State) (site ctx : Nat) (r : W64) (b ring : Bool) :
    (s.checkDesc site ctx r b ring).1.kept = s.kept := by
  unfold State.checkDesc
  split <;> simp
/-- The checks of a reference change the descriptor store and the walks only. -/
@[simp] theorem State.checkRef_kept (s : State) (site ctx : Nat) (r : W64) (b : Bool) :
    (s.checkRef site ctx r b).1.kept = s.kept := by
  unfold State.checkRef
  dsimp only
  (repeat' split) <;> simp
@[simp] theorem State.dropLines_kept (s : State) (site ctx : Nat) :
    (State.dropLines s site ctx).kept = s.kept := rfl
@[simp] theorem State.rejectToken_kept (s : State) (t : Token) (c : Trap) :
    (State.rejectToken s t c).kept = s.kept := by unfold State.rejectToken; split <;> simp
@[simp] theorem State.storeFlits_ok (s : State) (base len first : Nat) (ws : List W64) (hs : s.kept.ok) :
    (s.storeFlits base len first ws).kept.ok :=
  State.ok_fold _ (fun _ _ h => State.physStore_ok _ _ _ _ _ h) _ _ hs
@[simp] theorem State.mailToken_ok (s : State) (t : Token) (hs : s.kept.ok) :
    (State.mailToken s t).kept.ok := by unfold State.mailToken; dsimp only; (repeat' split) <;> simp [hs]
/-- What a receiving cell finds for a token changes no memory. -/
@[simp] theorem State.present_kept (s : State) (t : Token) : ((s.present t).after s).kept = s.kept := by
  have h1 {u v : State} {site ctx : Nat} {d : Desc} (h : u.makeRoom site ctx d = .made v) (e : u.kept = s.kept) :
      v.kept = s.kept := (State.makeRoom_kept h).trans e
  unfold State.present
  dsimp only
  repeat' split
  all_goals first
    | rfl
    | (simp only [Presented.after]; first | exact State.loadDesc_kept _ _ _ _ | rfl)
    | (rename_i hm
       simp only [Presented.after, State.fillFrame_kept, State.createFrame_kept]
       exact h1 hm (State.loadDesc_kept _ _ _ _))
@[simp] theorem State.overflowPark_kept (s : State) (site : Nat) :
    (State.overflowPark s site).kept = s.kept := by unfold State.overflowPark; (repeat' split) <;> simp
@[simp] theorem State.parkToken_kept (s : State) (t : Token) (r : ParkReason) :
    (State.parkToken s t r).kept = s.kept := by unfold State.parkToken; split <;> simp
@[simp] theorem State.acceptToken_ok (s : State) (t : Token) (hs : s.kept.ok) :
    (State.acceptToken s t).kept.ok := by
  have h := State.present_kept s t
  unfold State.acceptToken
  cases e : s.present t with
  | mailbox | discard => dsimp only; split <;> simp [hs]
  | frame | park | wait | reject =>
    rw [e] at h
    simp only [Presented.after] at h
    dsimp only
    (repeat' split) <;> simp [h, hs]
@[simp] theorem State.keepFrame_kept (s : State) (site : Nat) (k : Key) : (State.keepFrame s site k).kept = s.kept := rfl
@[simp] theorem State.applyTo_kept (s : State) (t : Token) (f : Frame) :
    (State.applyTo s t f).kept = s.kept := by unfold State.applyTo; (repeat' split) <;> simp
@[simp] theorem State.refuseApplied_kept (s : State) (t : Token) (c : Trap) :
    (State.refuseApplied s t c).kept = s.kept := by
  unfold State.refuseApplied
  dsimp only
  rw [State.rejectToken_kept]
  (repeat' split) <;> simp
@[simp] theorem State.applyToken_ok (s : State) (t : Token) (hs : s.kept.ok) :
    (State.applyToken s t).kept.ok := by
  have h := State.present_kept s t
  unfold State.applyToken
  cases e : s.present t with
  | mailbox | discard => simp [hs]
  | frame | park | wait | reject =>
    rw [e] at h
    simp only [Presented.after] at h
    dsimp only
    (repeat' split) <;> simp [h, hs]
@[simp] theorem State.deliverFault_ok (s : State) (t : Token) (item : Nat) (held : Option VWord) (record : List W64) (hs : s.kept.ok) :
    (State.deliverFault s t item held record).kept.ok := by
  unfold State.deliverFault
  dsimp only
  split
  · simp [hs]
  · split
    · (repeat' split) <;> simp [hs]
    · split
      · split <;> simp [hs]
      · split
        · (repeat' split) <;> simp [hs]
        · split
          · (repeat' split) <;> simp [hs]
          · split
            · rename_i hm
              have h1 := State.makeRoom_kept hm
              simp_all
            · simp [hs]
            · (repeat' split) <;> simp [hs]
@[simp] theorem State.offer_kept (s : State) (ts : List Token) :
    (State.offer s ts).kept = s.kept := State.kept_fold _ State.sendToken_kept _ _
/-- Finding the home of a token changes the descriptor store and the walks only. -/
@[simp] theorem State.homeOf_kept (s : State) (i : Inst) (t : Token) (cellv : Bool) :
    (s.homeOf i t cellv).1.kept = s.kept := by
  unfold State.homeOf
  dsimp only
  (repeat' split) <;> simp
/-- Finding the homes of tokens changes the descriptor store and the walks only. -/
@[simp] theorem State.homes_kept (s : State) (i : Inst) (l : List (EffBody × Nat)) : (s.homes i l).1.kept = s.kept := by
  induction l generalizing s with
  | nil => rfl
  | cons e l ih =>
    unfold State.homes
    split
    · rfl
    · rename_i he
      cases he
      split
      · rename_i h1
        exact State.kept_of_eq h1 (State.homeOf_kept s i _ _)
      · rename_i h1
        split
        rename_i h2
        exact (State.kept_of_eq h2 (ih _)).trans (State.kept_of_eq h1 (State.homeOf_kept s i _ _))
    · rename_i he
      cases he
      exact ih s
@[simp] theorem State.finishRun_kept (s : State) (i : Inst) :
    (State.finishRun s i).kept = s.kept := by
  unfold State.finishRun
  dsimp only
  (repeat' split) <;> first
    | (simp; done)
    | (rename_i h; simpa using State.kept_of_eq h (State.homes_kept s _ _))
    | (rw [State.putInst_kept, State.kept_fold]; intros; simp)
theorem Memory.wf_applyScratch {m : Memory} (base : Nat) (bs : List (Nat × Byte)) (h : m.wf) :
    (m.applyScratch base bs).wf := by
  refine Memory.wf_foldl (fun m u hm => ?_) _ (Memory.wf_foldl (fun m b hm => Memory.wf_putByte _ _ hm) _ h)
  split
  · exact Memory.wf_clearUnit _ hm
  · exact hm
@[simp] theorem State.putSys_ok (s : State) (num : Nat) (v : W64) (seq : Nat) (hs : s.kept.ok) :
    (s.putSys num v seq).kept.ok := by
  obtain ⟨h1, h2, h3, h4, h5, h6, h7, h8⟩ := hs
  have same : s.kept.ok := ⟨h1, h2, h3, h4, h5, h6, h7, h8⟩
  unfold State.putSys
  refine State.ok_ite (fun _ => same) (fun _ => ?_)
  refine State.ok_ite (fun _ => State.ok_ite (fun h => ⟨h1, h2, h3, h4, h5, h, h7, h8⟩) (fun _ => same)) (fun _ => ?_)
  refine State.ok_ite (fun _ => State.ok_ite (fun _ => same) (fun _ => same)) (fun _ => ?_)
  refine State.ok_ite (fun _ => same) (fun _ => ?_)
  refine State.ok_ite (fun _ => State.ok_ite (fun _ => same) (fun _ => same)) (fun _ => ?_)
  refine State.ok_ite (fun _ => ⟨h1, h2, h3, h4, h5, h6, Nat.mod_lt _ (by decide), h8⟩) (fun _ => ?_)
  iterate 7 refine State.ok_ite (fun _ => same) (fun _ => ?_)
  exact same
@[simp] theorem State.writeSys_ok (s : State) (num : Nat) (v : W64) (seq : Nat) (hs : s.kept.ok) :
    (State.writeSys s num v seq).kept.ok := by
  have h := State.putSys_ok s num v seq hs
  unfold State.writeSys
  dsimp only
  split
  · exact h
  · exact h
@[simp] theorem State.commitToken_kept (s : State) (i : Inst) (prog seq : Nat) :
    (State.commitToken s i prog seq).kept = s.kept := by unfold State.commitToken; (repeat' split) <;> simp
@[simp] theorem State.dropLine_kept (s : State) (site ctx pa n : Nat) :
    (State.dropLine s site ctx pa n).kept = s.kept := rfl
@[simp] theorem State.dropTouched_kept (s : State) (o : Op) :
    (State.dropTouched s o).kept = s.kept := by
  unfold State.dropTouched
  rw [State.kept_fold]
  intro s p
  split <;> simp
@[simp] theorem State.endSwitch_kept (s : State) (w : Switch) :
    (State.endSwitch s w).kept = s.kept := by unfold State.endSwitch; split <;> simp
@[simp] theorem State.setResident_kept (s : State) (ctx : Nat) (f : Resident → Resident) :
    (State.setResident s ctx f).kept = s.kept := rfl
@[simp] theorem State.pumpSwitch_kept (s : State) (part fuel : Nat) :
    (State.pumpSwitch s part fuel).kept = s.kept := by
  induction fuel generalizing s with
  | zero => rfl
  | succ n ih =>
    unfold State.pumpSwitch
    (repeat' split) <;> simp [ih]
@[simp] theorem State.addSwitch_kept (s : State) (w : Switch) :
    (State.addSwitch s w).kept = s.kept := by simp [State.addSwitch]
@[simp] theorem State.beginSys_kept (s : State) (o : Op) (r : SysReq) :
    (State.beginSys s o r).kept = s.kept := by unfold State.beginSys; (repeat' split) <;> simp
@[simp] theorem State.issueOp_kept (s : State) (o : Op) (seq prog : Nat) (fences : List (Nat × Scope)) :
    (State.issueOp s o seq prog fences).kept = s.kept := by unfold State.issueOp; (repeat' split) <;> simp
@[simp] theorem State.sendAction_kept (s : State) (i : Inst) (a : Nat) (v : W64) (ws : List W64) (seq : Nat) :
    (State.sendAction s i a v ws seq).kept = s.kept := rfl
@[simp] theorem State.markKilled_kept (s : State) (ctx lid : Nat) :
    (State.markKilled s ctx lid).kept = s.kept := rfl
@[simp] theorem State.meetRaces_kept (s : State) (site ctx : Nat) (byEngine : Bool) (bs : List (Nat × Byte)) (psn : Bool) :
    (State.meetRaces s site ctx byEngine bs psn).kept = s.kept := rfl
theorem State.applyEffect_ok (i : Inst) (seq : Nat) (acc : State × List (Nat × Scope)) (e : EffBody × Nat)
    (hs : acc.1.kept.ok) : (State.applyEffect i seq acc e).1.kept.ok := by
  unfold State.applyEffect
  dsimp only
  split
  all_goals try (simp [hs]; done)
  · exact State.ok_scratch hs (Memory.wf_applyScratch _ _ (State.ok_scratchWf hs))
  · dsimp only
    split <;> simp [hs]
@[simp] theorem State.applyEffects_ok (s : State) (i : Inst) (seq : Nat) (hs : s.kept.ok) :
    (s.applyEffects i seq).kept.ok := by
  have h (j : Inst) (l : List (EffBody × Nat)) (acc : State × List (Nat × Scope)) (ha : acc.1.kept.ok) :
      (l.foldl (State.applyEffect j seq) acc).1.kept.ok := by
    induction l generalizing acc with
    | nil => exact ha
    | cons e l ih => exact ih _ (State.applyEffect_ok j seq acc e ha)
  unfold State.applyEffects
  dsimp only
  split
  · exact h _ _ _ hs
  · exact h _ _ _ (by simpa using hs)
@[simp] theorem State.endInst_kept (s : State) (i : Inst) :
    (State.endInst s i).kept = s.kept := by unfold State.endInst; (repeat' split) <;> simp
@[simp] theorem State.commitKilled_kept (s : State) (i : Inst) :
    (State.commitKilled s i).kept = s.kept := by simp [State.commitKilled]
@[simp] theorem State.commitInst_ok (s : State) (i : Inst) (hs : s.kept.ok) :
    (State.commitInst s i).kept.ok := by unfold State.commitInst; (repeat' split) <;> simp [hs]
@[simp] theorem State.learnSys_kept (s : State) (t : Token) :
    (State.learnSys s t).kept = s.kept := by unfold State.learnSys; split <;> simp
@[simp] theorem State.unpark_ok (s : State) (id : Nat) (hs : s.kept.ok) :
    (State.unpark s id).kept.ok := by
  unfold State.unpark
  split
  · exact hs
  · rename_i t _
    have h := State.present_kept s t
    cases e : s.present t with
    | mailbox | discard => dsimp only; split <;> simp [hs]
    | frame | park | wait | reject =>
      rw [e] at h
      simp only [Presented.after] at h
      dsimp only
      (repeat' split) <;> simp [h, hs]
@[simp] theorem State.reexamine_ok (s : State) (site ctx cb : Nat) (hs : s.kept.ok) :
    (State.reexamine s site ctx cb).kept.ok := State.ok_fold _ (fun s t h => State.unpark_ok s t.id h) _ _ hs
@[simp] theorem State.restartOp_kept (s : State) (o : Op) :
    (State.restartOp s o).kept = s.kept := by unfold State.restartOp; split <;> simp
@[simp] theorem State.actOnOp_kept (s : State) (o : Op) (a : ActKind) :
    (State.actOnOp s o a).kept = s.kept := by unfold State.actOnOp; (repeat' split) <;> simp
@[simp] theorem State.requeue_kept (s : State) (it : Item) (thr : Nat) (sub : Option (Nat × (Nat × Nat × Bool) × W64)) :
    (State.requeue s it thr sub).kept = s.kept := by simp [State.requeue]
@[simp] theorem State.arrivalCell_kept (s : State) (ctx cb : Nat) (tag : BitVec 32) :
    (State.arrivalCell s ctx cb tag).1.kept = s.kept := by
  have h (r : State × Except Trap Nat) (hr : r.1.kept = s.kept) (first : Nat) : (match r with
      | (s1, .ok c) => (s1, c)
      | (s1, .error _) => (s1, first)).1.kept = s.kept := by
    obtain ⟨u, x⟩ := r
    cases x <;> exact hr
  exact h _ (State.resolveHome_kept _ _ _ _ _ _) _
@[simp] theorem State.presentAgain_kept (s : State) (id : Nat) :
    (State.presentAgain s id).kept = s.kept := by
  have h (r : State × Except Trap Nat) (hr : r.1.kept = s.kept) (t : Token) : (match r with
      | (s1, .ok c) => s1.updateToken id (fun t => { t with phase := .offered, dcell := c, unplaced := false })
      | (s1, .error e) => s1.rejectToken t e).kept = s.kept := by
    obtain ⟨u, x⟩ := r
    cases x <;> simpa using hr
  unfold State.presentAgain
  split
  · rfl
  · split
    · exact h _ (State.resolveHome_kept _ _ _ _ _ _) _
    · simp
@[simp] theorem State.applyAction_ok (s : State) (a : Action) (it : Item) (hs : s.kept.ok) :
    (State.applyAction s a it).kept.ok := by unfold State.applyAction; (repeat' split) <;> simp [hs]
@[simp] theorem State.deliverAction_ok (s : State) (a : Action) (hs : s.kept.ok) :
    (State.deliverAction s a).kept.ok := by unfold State.deliverAction; (repeat' split) <;> simp [hs]
@[simp] theorem State.signalOp_ok (s : State) (o : Op) (hs : s.kept.ok) :
    (State.signalOp s o).kept.ok := by unfold State.signalOp; (repeat' split) <;> simp [hs]
@[simp] theorem State.modifyPart_kept (s : State) (op k : Nat) (f : Part → Part) :
    (State.modifyPart s op k f).kept = s.kept := rfl
@[simp] theorem State.setPart_kept (s : State) (op k : Nat) (st : PartState) :
    (State.setPart s op k st).kept = s.kept := rfl
@[simp] theorem State.closeParts_kept (s : State) (op : Nat) :
    (State.closeParts s op).kept = s.kept := by unfold State.closeParts; (repeat' split) <;> simp
@[simp] theorem State.holdPart_kept (s : State) (op k : Nat) (cause level : Nat) :
    (State.holdPart s op k cause level).kept = s.kept := by simp [State.holdPart]
@[simp] theorem State.donePart_kept (s : State) (op k : Nat) (v : Nat) (psn : Bool) :
    (State.donePart s op k v psn).kept = s.kept := by simp [State.donePart]
@[simp] theorem State.forwardTo_kept (s : State) (o : Op) (p : Part) (k pa : Nat) :
    (State.forwardTo s o p k pa).kept = s.kept := by unfold State.forwardTo; dsimp only; (repeat' split) <;> simp
@[simp] theorem State.translatePart_kept (s : State) (o : Op) (p : Part) (k : Nat) :
    (State.translatePart s o p k).kept = s.kept := by unfold State.translatePart; dsimp only; (repeat' split) <;> simp
@[simp] theorem State.fillLine_kept (s : State) (site ctx pa : Nat) :
    (State.fillLine s site ctx pa).kept = s.kept := by unfold State.fillLine; split <;> simp
@[simp] theorem State.fillLines_kept (s : State) (site ctx pa n : Nat) :
    (State.fillLines s site ctx pa n).kept = s.kept := by simp [State.fillLines]
@[simp] theorem State.takePart_kept (s : State) (o : Op) (k : Nat) (p : Part) :
    (State.takePart s o k p).kept = s.kept := by unfold State.takePart; split <;> simp
@[simp] theorem State.performLoad_kept (s : State) (o : Op) (p : Part) (k pa : Nat) :
    (State.performLoad s o p k pa).kept = s.kept := by unfold State.performLoad; dsimp only; (repeat' split) <;> simp
@[simp] theorem State.storeByte_ok (s : State) (o : Op) (p : Part) (pa b : Nat) (hs : s.kept.ok) :
    (State.storeByte s o p pa b).kept.ok := by unfold State.storeByte; split <;> simp [hs]
@[simp] theorem State.performStore_ok (s : State) (o : Op) (p : Part) (k pa : Nat) (hs : s.kept.ok) :
    (State.performStore s o p k pa).kept.ok := by
  have h (l : List Nat) : (l.foldl (fun s b => s.storeByte o p pa b) s).kept.ok :=
    State.ok_fold _ (fun _ _ h => State.storeByte_ok _ _ _ _ _ h) _ _ hs
  unfold State.performStore
  dsimp only
  (repeat' split) <;> simp [hs, h]
@[simp] theorem State.performAtomic_ok (s : State) (o : Op) (p : Part) (k pa : Nat) (hs : s.kept.ok) :
    (State.performAtomic s o p k pa).kept.ok := by unfold State.performAtomic; dsimp only; (repeat' split) <;> simp [hs]
@[simp] theorem State.fillWord_kept (s : State) (site ctx : Nat) (a : VAddr) (w : Word) :
    (State.fillWord s site ctx a w).kept = s.kept := rfl
/-- What an operation that may fail answers, when it answers, has a property. -/
def Carries {ε α : Type} (P : α → Prop) (x : Except ε α) : Prop := ∀ a, x = .ok a → P a

theorem carries_bind {ε α β : Type} {P : β → Prop} {x : Except ε α} {f : α → Except ε β} (h : ∀ a, Carries P (f a)) :
    Carries P (x >>= f) := by
  cases x with
  | error e => intro b hb; cases hb
  | ok a => exact h a

theorem carries_then {ε α β : Type} {Q : α → Prop} {P : β → Prop} {x : Except ε α} {f : α → Except ε β} (hx : Carries Q x)
    (h : ∀ a, Q a → Carries P (f a)) : Carries P (x >>= f) := by
  cases x with
  | error e => intro b hb; cases hb
  | ok a => exact h a (hx a rfl)

theorem carries_mapError {ε δ α : Type} {P : α → Prop} {f : ε → δ} {x : Except ε α} (h : Carries P x) :
    Carries P (Except.mapError f x) := by
  cases x with
  | error e => intro b hb; cases hb
  | ok a => intro b hb; cases hb; exact h a rfl

theorem carries_throw {ε α : Type} {P : α → Prop} {t : ε} : Carries P (throw t : Except ε α) := by
  intro a ha; cases ha

theorem carries_pure {ε α : Type} {P : α → Prop} {a : α} (h : P a) : Carries P (pure a : Except ε α) := by
  intro b hb; cases hb; exact h

theorem carries_ite {ε α : Type} {P : α → Prop} {p : Prop} [Decidable p] {x y : Except ε α} (hx : Carries P x)
    (hy : Carries P y) : Carries P (if p then x else y) := by
  split
  · exact hx
  · exact hy

@[simp] theorem State.runWrite_ok (s : State) (o : Op) (pa n v : Nat) (psn : Bool) (hs : s.kept.ok) :
    (s.runWrite o pa n v psn).kept.ok := by unfold State.runWrite; split <;> simp [hs]
@[simp] theorem State.runMark_ok (s : State) (pa n : Nat) (psn : Bool) (hs : s.kept.ok) : (s.runMark pa n psn).kept.ok := by
  unfold State.runMark
  split
  · split
    · exact State.ok_mem hs (Memory.wf_markWritten _ _ _ (State.ok_memWf hs))
    · exact hs
  · split
    · exact State.ok_mem hs (Memory.wf_markWritten _ _ _ (State.ok_memWf hs))
    · exact State.ok_host hs (Memory.wf_markWritten _ _ _ (State.ok_hostWf hs))
/-- A unit put back keeps the canonical form. -/
theorem Memory.wf_putUnit {m : Memory} (c : UnitCopy) (h : m.wf) : (m.putUnit c).wf := Memory.wf_store _ _ _ _ h
/-- Scratch as a command reads it is in canonical form. -/
theorem Race.view_wf (r : Race) {m : Memory} (h : m.wf) : (r.view m).wf :=
  Memory.wf_foldl (fun _ c hm => Memory.wf_putUnit c hm) _ h
/-- A write of a command keeps the canonical form. -/
theorem Race.write_wf (r : Race) {m : Memory} (a n v : Nat) (psn : Bool) (h : m.wf) : (r.write m a n v psn).wf := by
  unfold Race.write
  split
  · exact Memory.wf_store _ _ _ _ h
  · refine Memory.wf_foldl (fun m k hm => ?_) _ h
    split
    · exact hm
    · exact Memory.wf_store _ _ _ _ hm
/-- Scratch after an MU instruction is in canonical form. -/
theorem Race.merge_wf (r : Race) (old : Memory) {new : Memory} (h : new.wf) : (r.merge old new).wf := by
  refine Memory.wf_foldl (fun m e hm => ?_) _ h
  split
  · exact Memory.wf_putUnit _ hm
  · refine Memory.wf_foldl (fun m b hm => ?_) _ hm
    split
    · exact Memory.wf_putByte _ _ hm
    · exact hm
/-- A write of an engine to scratch keeps the invariant. -/
@[simp] theorem State.scratchWrite_ok (s : State) (o : Op) (e : Engine) (a n v : Nat) (psn : Bool) (hs : s.kept.ok) :
    (State.scratchWrite s o e a n v psn).1.kept.ok :=
  State.ok_scratch (by simpa using hs) (Race.write_wf _ _ _ _ _ (State.ok_scratchWf hs))
@[simp] theorem State.noteEach_kept (s : State) (o : Op) (a : Access) (l : List (Nat × Nat)) :
    (s.noteEach o a l).kept = s.kept := by
  induction l generalizing s with
  | nil => rfl
  | cons e l ih =>
    unfold State.noteEach
    dsimp only
    split <;> simp [ih]
@[simp] theorem State.noteRuns_kept (s : State) (o : Op) (a : Access) (va n : Nat) : (s.noteRuns o a va n).kept = s.kept :=
  State.noteEach_kept _ _ _ _
@[simp] theorem State.noteInput_kept (s : State) (o : Op) (e : Engine) (input : Option Bool) (idx : Nat) :
    (s.noteInput o e input idx).kept = s.kept := by
  unfold State.noteInput
  (repeat' split) <;> simp
@[simp] theorem State.noteFault_kept (s : State) (o : Op) (e : Engine) : (s.noteFault o e).kept = s.kept := by
  unfold State.noteFault
  (repeat' split) <;> simp
/-- What an operation that may fail or wait answers, when it answers, has a property. -/
def Yields {ε α : Type} (P : α → Prop) (x : Except ε (Option α)) : Prop := ∀ a, x = .ok (some a) → P a

theorem yields_error {ε α : Type} {P : α → Prop} {t : ε} : Yields P (.error t : Except ε (Option α)) := by intro a h; cases h
theorem yields_none {ε α : Type} {P : α → Prop} : Yields P (.ok none : Except ε (Option α)) := by intro a h; cases h
theorem yields_some {ε α : Type} {P : α → Prop} {a : α} (h : P a) : Yields P (.ok (some a) : Except ε (Option α)) := by
  intro b hb; cases hb; exact h
theorem yields_map {ε α β : Type} {P : β → Prop} {x : Option α} {f : α → β} (h : ∀ a, P (f a)) :
    Yields P (.ok (x.map f) : Except ε (Option β)) := by
  intro b hb
  cases x with
  | none => cases hb
  | some a => cases hb; exact h a
/-- A read of an engine changes the walks that are kept, and nothing stored. -/
theorem State.readInput_kept (s : State) (o : Op) (e : Engine) (input : Option Bool) (idx : Nat) :
    Yields (fun r : State × Engine => r.1.kept = s.kept) (s.readInput o e input idx) := by
  unfold State.readInput
  split
  · exact yields_none
  · split
    · split
      · exact yields_error
      · exact yields_some rfl
    · dsimp only
      split
      · exact yields_error
      · exact yields_map (fun _ => by simp)
theorem State.performTurn_kept (s : State) (o : Op) (e : Engine) :
    Yields (fun r : State × Engine => r.1.kept = s.kept) (s.performTurn o e) := by
  unfold State.performTurn
  split
  · exact yields_map (fun _ => rfl)
  · split
    · exact yields_none
    · split
      · exact yields_error
      · exact yields_some rfl
      · exact State.readInput_kept _ _ _ _ _
theorem State.stageAhead_kept {s : State} {o : Op} {e : Engine} {b : Bool} {r : State × Engine}
    (h : s.stageAhead o e b = some r) : r.1.kept = s.kept := by
  unfold State.stageAhead at h
  split at h
  · split at h
    · rename_i hr
      subst h
      exact State.readInput_kept _ _ _ _ _ _ hr
    · cases h
      simp
  · cases h
/-- A write of an engine keeps the invariant. -/
theorem State.writeOldest_ok {s : State} (o : Op) (e : Engine) (hs : s.kept.ok) :
    Yields (fun r : State × Engine => r.1.kept.ok) (s.writeOldest o e) := by
  unfold State.writeOldest
  split
  · exact yields_none
  · split
    · split
      · exact yields_error
      · exact yields_some (State.scratchWrite_ok _ _ _ _ _ _ _ hs)
    · dsimp only
      split
      · exact yields_error
      · have h1 (x : EngineOut) (va : Nat) (l : List Nat) (g : Nat → Nat) (n : Nat) (v : Nat → Nat) :
            (l.foldl (fun s b => s.runWrite o (g b) n (v b) x.psn)
              (if x.put = 0 then s.noteRuns o .engineWrite va x.n else s)).kept.ok := by
          refine State.ok_fold _ (fun _ _ h => State.runWrite_ok _ _ _ _ _ _ h) _ _ ?_
          split <;> simp [hs]
        generalize pieceSize (e.place _ _).toNat _ = g
        split
        · split
          · refine yields_some (State.ok_fold _ (fun _ _ h => State.runMark_ok _ _ _ _ h) _ _ ?_)
            exact h1 _ _ _ _ _ _
          · exact yields_some (h1 _ _ _ _ _ _)
        · exact yields_none
@[simp] theorem State.setEngine_kept (s : State) (op : Nat) (e : Engine) : (s.setEngine op e).kept = s.kept := rfl
@[simp] theorem State.stopEngine_kept (s : State) (o : Op) (t : Trap) :
    (State.stopEngine s o t).kept = s.kept := by unfold State.stopEngine; split <;> simp
@[simp] theorem State.updateSlot_kept (s : State) (site k : Nat) (f : GSlot → GSlot) :
    (State.updateSlot s site k f).kept = s.kept := rfl
@[simp] theorem State.emptySlot_kept (s : State) (site k : Nat) :
    (State.emptySlot s site k).kept = s.kept := rfl
@[simp] theorem State.deliverResult_kept (s : State) (j : CarJob) (g : Graph) :
    (State.deliverResult s j g).kept = s.kept := by unfold State.deliverResult; dsimp only; (repeat' split) <;> simp
@[simp] theorem State.noteUnits_kept (s : State) (site ctx : Nat) (image : VAddr) (k n : Nat) :
    (State.noteUnits s site ctx image k n).kept = s.kept := by
  induction n generalizing s k with
  | zero => rfl
  | succ n ih =>
    unfold State.noteUnits
    dsimp only
    split <;> simp [ih]
@[simp] theorem State.noteImage_kept (s : State) (site ctx : Nat) (image : VAddr) :
    (State.noteImage s site ctx image).kept = s.kept := by unfold State.noteImage; split <;> simp
@[simp] theorem State.dropStuck_kept (s : State) (cells : List Nat) : (State.dropStuck s cells).kept = s.kept := rfl
@[simp] theorem State.badGraph_kept (s : State) (o : Op) (n code : Nat) (image : VAddr) :
    (State.badGraph s o n code image).kept = s.kept := by simp [State.badGraph]
@[simp] theorem State.setXld_kept (s : State) (op : Nat) (st : XldState) :
    (State.setXld s op st).kept = s.kept := rfl
@[simp] theorem State.startLoad_kept (s : State) (o : Op) (k n : Nat) (image : VAddr) :
    (State.startLoad s o k n image).kept = s.kept := rfl
@[simp] theorem State.xldStep_kept (s : State) (o : Op) (n : Nat) :
    (State.xldStep s o n).kept = s.kept := by unfold State.xldStep; (repeat' split) <;> simp
@[simp] theorem State.settleXlds_kept (s : State) (site k : Nat) (st : XldState) :
    (State.settleXlds s site k st).kept = s.kept := rfl
theorem State.failLoad_kept (s : State) (g : GSlot) (hold : State → Op → State)
    (h : ∀ s o, (hold s o).kept = s.kept) : (s.failLoad g hold).kept = s.kept := by
  unfold State.failLoad
  dsimp only
  split
  · simp
  · split <;> simp [h]
@[simp] theorem State.finishLoad_kept (s : State) (g : GSlot) (f : Graph) :
    (State.finishLoad s g f).kept = s.kept := rfl
@[simp] theorem State.haltCarousel_kept (s : State) (g : GSlot) (code : Nat) :
    (State.haltCarousel s g code).kept = s.kept := by simp [State.haltCarousel]
@[simp] theorem State.holdReload_kept (s : State) (g : GSlot) (t : Trap) :
    (State.holdReload s g t).kept = s.kept := by unfold State.holdReload; split <;> simp
@[simp] theorem State.writeRow_ok (s : State) (key : Nat) (t : Td) (row n w v : Nat) (bad : Nat → Bool) (hs : s.kept.ok) :
    (s.writeRow key t row n w v bad).kept.ok :=
  State.ok_scratch hs (Memory.wf_foldl (fun _ _ h => Memory.wf_poisonUnit _ h) _
    (Memory.wf_foldl (fun _ _ h => Memory.wf_store _ _ _ _ h) _ (State.ok_scratchWf hs)))
@[simp] theorem State.putTile_kept (s : State) (site acc : Nat) (row : Nat → BitVec 4096) :
    (State.putTile s site acc row).kept = s.kept := rfl
@[simp] theorem State.cleanTile_kept (s : State) (site acc : Nat) :
    (State.cleanTile s site acc).kept = s.kept := rfl
@[simp] theorem State.product_kept (s : State) (site key : Nat) (m : Mu) :
    (State.product s site key m).kept = s.kept := by simp [State.product]
@[simp] theorem State.readoutRow_ok (s : State) (key : Nat) (t : Td) (src : FFmt) (r : Round) (sat : Bool) (row : Nat)
    (el : Nat → Nat × Bool) (hs : s.kept.ok) : (s.readoutRow key t src r sat row el).1.kept.ok := by
  unfold State.readoutRow
  dsimp only
  split
  · have h := State.writeRow_ok s key t row (rowBytes 64 (fmtWidth (tdFmt t))) (fmtWidth (tdFmt t))
    exact State.ok_scratch (h _ _ hs) (Memory.wf_store _ _ _ _ (State.ok_scratchWf (h _ _ hs)))
  · simp [hs]
@[simp] theorem State.readout_ok (s : State) (key : Nat) (t : Td) (src : FFmt) (r : Round) (sat : Bool)
    (el : Nat → Nat → Nat × Bool) (hs : s.kept.ok) : (s.readout key t src r sat el).1.kept.ok := by
  have h (l : List Nat) (acc : State × BitVec 5) (ha : acc.1.kept.ok) :
      (l.foldl (fun acc row =>
        let (s1, fl) := acc.1.readoutRow key t src r sat row (fun e => if tdDown t then el e row else el row e)
        (s1, acc.2 ||| fl)) acc).1.kept.ok := by
    induction l generalizing acc with
    | nil => exact ha
    | cons x l ih => exact ih _ (State.readoutRow_ok _ _ _ _ _ _ _ _ ha)
  exact h _ _ hs
@[simp] theorem State.updateMu_kept (s : State) (op : Nat) (f : Mu → Mu) :
    (State.updateMu s op f).kept = s.kept := rfl
@[simp] theorem State.muDone_kept (s : State) (op : Nat) (fl : BitVec 5) :
    (State.muDone s op fl).kept = s.kept := rfl
@[simp] theorem State.muHold_kept (s : State) (o : Op) (c : Cause) (detail value : W64) (faddr : Nat) :
    (State.muHold s o c detail value faddr).kept = s.kept := by unfold State.muHold; split <;> simp
@[simp] theorem State.sendRow_kept (s : State) (o : Op) (m : Mu) (key : Nat) :
    (State.sendRow s o m key).kept = s.kept := rfl
theorem State.writeBits_ok (s : State) (key : Nat) (t : Td) (row n lo bits v : Nat) (hs : s.kept.ok) :
    (s.writeBits key t row n lo bits v).kept.ok :=
  State.ok_scratch hs (Memory.wf_foldl (fun _ _ h => Memory.wf_putByte _ _ h) _ (State.ok_scratchWf hs))
theorem State.markRow_ok (s : State) (key : Nat) (t : Td) (row n w : Nat) (bad : Nat → Bool) (hs : s.kept.ok) :
    (s.markRow key t row n w bad).kept.ok :=
  State.ok_scratch hs (Memory.wf_foldl (fun _ _ h => Memory.wf_poisonUnit _ h) _
    (Memory.wf_foldl (fun _ _ h => Memory.wf_markWritten _ _ _ h) _ (State.ok_scratchWf hs)))
@[simp] theorem State.readoutColumn_ok (s : State) (key : Nat) (t : Td) (src : FFmt) (r : Round) (sat : Bool) (i : Nat)
    (el : Nat → Nat → Nat × Bool) (hs : s.kept.ok) : (s.readoutColumn key t src r sat i el).1.kept.ok := by
  have fold (f : State × BitVec 5 → Nat → State × BitVec 5) (h : ∀ a x, a.1.kept.ok → (f a x).1.kept.ok) (l : List Nat)
      (acc : State × BitVec 5) (ha : acc.1.kept.ok) : (l.foldl f acc).1.kept.ok := by
    induction l generalizing acc with
    | nil => exact ha
    | cons x l ih => exact ih _ (h _ _ ha)
  unfold State.readoutColumn
  dsimp only
  split
  · split
    · refine fold _ (fun a x h => ?_) _ _ hs
      have h1 := State.writeBits_ok a.1 key t x
      exact State.ok_scratch (h1 _ _ _ _ h) (Memory.wf_store _ _ _ _ (State.ok_scratchWf (h1 _ _ _ _ h)))
    · exact hs
  · exact fold _ (fun a x h => State.writeBits_ok _ _ _ _ _ _ _ _ h) _ _ hs
@[simp] theorem State.markColumns_ok (s : State) (site key : Nat) (m : Mu) (n : Nat) (hs : s.kept.ok) :
    (State.markColumns s site key m n).kept.ok := by
  unfold State.markColumns
  dsimp only
  split
  · exact State.ok_fold _ (fun _ _ h => State.markRow_ok _ _ _ _ _ _ _ h) _ _ hs
  · exact hs
@[simp] theorem State.putRows_ok (s : State) (o : Op) (m : Mu) (key n : Nat) (hs : s.kept.ok) :
    (State.putRows s o m key n).1.kept.ok := by
  have fold (f : State × BitVec 5 → Nat → State × BitVec 5) (h : ∀ a x, a.1.kept.ok → (f a x).1.kept.ok) (l : List Nat)
      (acc : State × BitVec 5) (ha : acc.1.kept.ok) : (l.foldl f acc).1.kept.ok := by
    induction l generalizing acc with
    | nil => exact ha
    | cons x l ih => exact ih _ (h _ _ ha)
  unfold State.putRows
  dsimp only
  refine State.markColumns_ok _ _ _ _ _ (fold _ (fun a x h => ?_) _ _ hs)
  dsimp only
  split
  · exact State.readoutColumn_ok _ _ _ _ _ _ _ _ h
  · exact State.readoutRow_ok _ _ _ _ _ _ _ _ h
/-- An MU instruction that has written leaves scratch in canonical form, when what it wrote without races is. -/
theorem State.muWrote_ok {s s1 : State} (o : Op) (m : Mu) (runs : List (Nat × Nat)) (fl : BitVec 5) (hs : s.kept.ok)
    (h1 : s1.kept.ok) : (s.muWrote o m runs s1 fl).kept.ok := by
  unfold State.muWrote
  rw [State.muDone_kept, State.updateMu_kept]
  exact State.ok_scratch hs (Race.merge_wf _ _ (State.ok_scratchWf h1))
@[simp] theorem State.muRow_ok (s : State) (o : Op) (m : Mu) (key : Nat) (hs : s.kept.ok) :
    (State.muRow s o m key).kept.ok := by
  unfold State.muRow
  dsimp only
  split
  · split
    · exact hs
    · split
      · split <;> simp [hs]
      · simp [hs]
  · exact State.muWrote_ok _ _ _ _ hs (State.putRows_ok _ _ _ _ _ hs)
@[simp] theorem State.muProduct_kept (s : State) (o : Op) (m : Mu) (key : Nat) :
    (State.muProduct s o m key).kept = s.kept := by unfold State.muProduct; dsimp only; (repeat' split) <;> simp
@[simp] theorem State.muLoad_kept (s : State) (o : Op) (m : Mu) (key : Nat) :
    (State.muLoad s o m key).kept = s.kept := by unfold State.muLoad; dsimp only; (repeat' split) <;> simp
/-- What a cell does as an MU instruction sees it, with its own scratch again, keeps the invariant. -/
theorem State.seenBy_ok {s t : State} {m : Mu} (hs : s.kept.ok) (h : t.kept = (s.seenBy m).kept) :
    ({ t with scratch := s.scratch } : State).kept.ok := by
  have h1 : t.kept.ok := h ▸ State.ok_scratch hs (Race.view_wf _ (State.ok_scratchWf hs))
  exact State.ok_scratch h1 (State.ok_scratchWf hs)
@[simp] theorem State.muStep_ok (s : State) (o : Op) (m : Mu) (hs : s.kept.ok) :
    (State.muStep s o m).kept.ok := by
  unfold State.muStep
  dsimp only
  split
  · simp [hs]
  · exact State.seenBy_ok (m := m) hs (State.muProduct_kept _ _ _ _)
  · exact State.seenBy_ok (m := m) hs (State.muProduct_kept _ _ _ _)
  · exact State.seenBy_ok (m := m) hs (State.muLoad_kept _ _ _ _)
  · exact State.muWrote_ok _ _ _ _ hs (State.readout_ok _ _ _ _ _ _ _ hs)
  · exact State.muWrote_ok _ _ _ _ hs (State.readout_ok _ _ _ _ _ _ _ hs)
  · exact State.muRow_ok _ _ _ _ hs
@[simp] theorem State.updateLaunch_kept (s : State) (ctx lid : Nat) (f : Launch → Launch) :
    (State.updateLaunch s ctx lid f).kept = s.kept := rfl
@[simp] theorem State.reviewPart_kept (s : State) (part : Nat) :
    (State.reviewPart s part).kept = s.kept := by unfold State.reviewPart; dsimp only; (repeat' split) <;> simp
@[simp] theorem State.freshCaches_kept (s : State) (ctx : Nat) (cells : List Nat) :
    (State.freshCaches s ctx cells).kept = s.kept := rfl
@[simp] theorem State.updatePacket_kept (s : State) (uid : Nat) (f : Packet → Packet) :
    (State.updatePacket s uid f).kept = s.kept := rfl
@[simp] theorem State.finishPacket_kept (s : State) (uid status : Nat) (detail : W64) :
    (State.finishPacket s uid status detail).kept = s.kept := rfl
@[simp] theorem State.endLaunch_kept (s : State) (l : Launch) (status : Nat) :
    (State.endLaunch s l status).kept = s.kept := by unfold State.endLaunch; dsimp only; (repeat' split) <;> simp
@[simp] theorem State.killMark_kept (s : State) (site ctx lid : Nat) :
    (State.killMark s site ctx lid).kept = s.kept := by
  have h1 (l : List Token) (s : State) : (l.foldl (fun s t => State.discardToken s t) s).kept = s.kept :=
    State.kept_fold _ State.discardToken_kept l s
  have h2 (l : List Op) (s : State) : (l.foldl (fun s o => State.dropOp s o.id) s).kept = s.kept :=
    State.kept_fold _ (fun s o => State.dropOp_kept s o.id) l s
  simp [State.killMark, h1, h2]
@[simp] theorem State.setWindow_kept (s : State) (site ctx cb wlog : Nat) (origin : BitVec 32) :
    (State.setWindow s site ctx cb wlog origin).kept = s.kept := rfl
theorem sealHeader_wf {m : Memory} (a : Nat) (h : m.wf) : (sealHeader m a).wf := Memory.wf_store _ _ _ _ h

theorem setHeaderFlags_wf {m : Memory} (a fl : Nat) (h : m.wf) : (setHeaderFlags m a fl).wf :=
  sealHeader_wf _ (Memory.wf_store _ _ _ _ h)

theorem saveHeader_wf {m : Memory} (r : Resident) (seq : Nat) (sh : Bool) (l : List Nat) (h : m.wf) :
    (saveHeader m r seq sh l).wf := by
  unfold saveHeader
  exact sealHeader_wf _ (Memory.wf_store _ _ _ _ (Memory.wf_store _ _ _ _ (Memory.wf_store _ _ _ _ (Memory.wf_store _ _ _ _
    (Memory.wf_store _ _ _ _ (Memory.wf_store _ _ _ _ (Memory.wf_store _ _ _ _ (Memory.wf_blit _ _ _ h Memory.wf_empty))))))))

theorem Frame.putImage_wf {m : Memory} (f : Frame) (store : Nat) (h : m.wf) : (f.putImage m store).wf := by
  unfold Frame.putImage
  split
  · exact h
  · exact Memory.wf_foldl (fun _ _ h => Memory.wf_store _ _ _ _ h) _ h

theorem State.imageBytes_wf (s : State) (r : Resident) (site base : Nat) (hm : s.mem.wf) (hk : s.scratch.wf) :
    (s.imageBytes r site base).wf := by
  unfold State.imageBytes
  dsimp only
  refine Memory.wf_foldl (fun _ _ h => Memory.wf_store _ _ _ _ h) _ (Memory.wf_blit _ _ _ (Memory.wf_blit _ _ _
    (Memory.wf_foldl (fun _ f h => Frame.putImage_wf f _ h) _ (Memory.wf_foldl (fun m t hm => ?_) _
      (Memory.wf_blit _ _ _ Memory.wf_empty hm))) hk) Memory.wf_empty)
  refine Memory.wf_foldl (fun m i hm => ?_) _ hm
  refine Memory.wf_foldl (fun m j hm => ?_) _ (Memory.wf_store _ _ _ _ hm)
  split
  · exact Memory.wf_poisonUnit _ hm
  · exact hm

theorem Shadow.copyBack_wf {m : Memory} (x : Shadow) (hx : x.mem.wf) (h : m.wf) : (x.copyBack m).wf :=
  Memory.wf_foldl (fun _ _ h => Memory.wf_blit _ _ _ h hx) _ h
@[simp] theorem State.evacuate_ok (s : State) (ctx : Nat) (cells : List Nat) (hs : s.kept.ok) :
    (s.evacuate ctx cells).kept.ok :=
  ⟨hs.1, hs.2.1, Memory.wf_foldl (fun _ _ h => Memory.wf_blit _ _ _ h Memory.wf_empty) _ hs.2.2.1, hs.2.2.2⟩
theorem find_mem {α : Type} {p : α → Bool} {l : List α} {a : α} (h : l.find? p = some a) : a ∈ l :=
  List.mem_of_find?_eq_some h

/-- Another package memory and other shadows, all in canonical form, keep the invariant. -/
theorem State.ok_memShadows {s : State} (hs : s.kept.ok) {m : Memory} {c : Contexts} (hm : m.wf)
    (hc : ∀ h ∈ c.shadows, h.mem.wf) : ({ s with mem := m, ctl := c } : State).kept.ok :=
  ⟨hm, hs.2.1, hs.2.2.1, hs.2.2.2.1, hc, hs.2.2.2.2.2⟩

@[simp] theorem State.writeBack_ok (s : State) (part : Nat) (hs : s.kept.ok) : (s.writeBack part).kept.ok := by
  unfold State.writeBack
  split
  · exact hs
  · rename_i h hf
    have hw := Shadow.copyBack_wf h (State.ok_shadowsWf hs h (find_mem hf)) (State.ok_memWf hs)
    refine State.ok_memShadows hs ?_ (fun x hx => State.ok_shadowsWf hs x (List.mem_of_mem_filter hx))
    split
    · exact setHeaderFlags_wf _ _ hw
    · exact hw
@[simp] theorem State.dropLoads_kept (s : State) (cells : List Nat) :
    (State.dropLoads s cells).kept = s.kept := State.kept_fold _ (fun s g => by simp) _ _
@[simp] theorem State.failSwitch_kept (s : State) (w : Switch) :
    (State.failSwitch s w).kept = s.kept := by unfold State.failSwitch; dsimp only; (repeat' split) <;> simp
@[simp] theorem State.retireCell_kept (s : State) (c : Nat) :
    (State.retireCell s c).kept = s.kept := by unfold State.retireCell; (repeat' split) <;> simp
@[simp] theorem State.retirePending_kept (s : State) (cells : List Nat) :
    (State.retirePending s cells).kept = s.kept := State.kept_fold _ State.retireCell_kept _ _
@[simp] theorem State.saveContext_ok (s : State) (r : Resident) (hs : s.kept.ok) : (s.saveContext r).kept.ok := by
  have h0 := State.writeBack_ok s r.part hs
  have hw (k site : Nat) (n : Nat) : (((s.writeBack r.part).imageBytes r site (imageBase r.save k)).store
      (imageBase r.save k) 8 n false).wf :=
    Memory.wf_store _ _ _ _ (State.imageBytes_wf _ _ _ _ (State.ok_memWf h0) (State.ok_scratchWf h0))
  unfold State.saveContext
  dsimp only
  rw [State.retirePending_kept]
  have h1 := State.evacuate_ok (s.writeBack r.part) r.ctx r.cells h0
  obtain ⟨-, h2, h3, h4, h5, h6⟩ := h1
  refine ⟨?_, h2, h3, h4, ?_, h6⟩
  · refine saveHeader_wf _ _ _ _ ?_
    rw [List.foldl_map]
    refine Memory.wf_foldl (fun m e hm => ?_) _ (State.ok_memWf h0)
    dsimp only
    split <;> exact Memory.wf_blit _ _ _ hm (hw _ _ _)
  · intro x hx
    rcases List.mem_append.mp hx with hx | hx
    · exact h5 x hx
    · split at hx
      · cases hx
      · rw [List.mem_singleton] at hx
        subst hx
        dsimp only
        rw [List.foldl_map]
        refine Memory.wf_foldl (fun m e hm => ?_) _ Memory.wf_empty
        dsimp only
        split
        · exact Memory.wf_blit _ _ _ hm (hw _ _ _)
        · exact hm
@[simp] theorem State.loseImage_kept (s : State) (m : Image) :
    (State.loseImage s m).kept = s.kept := by
  unfold State.loseImage
  dsimp only
  rw [State.kept_fold _ (fun s lid => State.markKilled_kept s _ lid), State.kept_fold _ (fun s c => State.count_kept s _ _ _ _ _)]
theorem State.imageView_wf (s : State) (r : Resident) (hs : s.kept.ok) : (s.imageView r).wf := by
  unfold State.imageView
  dsimp only
  split
  · rename_i h hf
    split
    · exact Shadow.copyBack_wf h (State.ok_shadowsWf hs h (find_mem hf)) (State.ok_memWf hs)
    · exact State.ok_memWf hs
  · exact State.ok_memWf hs

@[simp] theorem State.putFrame_kept (s : State) (f : Frame) : (State.putFrame s f).kept = s.kept := by
  unfold State.putFrame; (repeat' split) <;> simp
@[simp] theorem State.putReady_kept (s : State) (e : Ready) : (State.putReady s e).kept = s.kept := rfl
@[simp] theorem State.putToken_kept (s : State) (t : Token) (spare : List Nat) :
    (State.putToken s t spare).kept = s.kept := rfl
@[simp] theorem State.putOp_kept (s : State) (o : Op) (spare : List Nat) : (State.putOp s o spare).kept = s.kept := rfl
@[simp] theorem State.loadBlock_kept (s : State) (m : Image) (frames : List Frame) : (State.loadBlock s m frames).kept = s.kept := by
  unfold State.loadBlock
  dsimp only
  rw [State.kept_mk]
  · rw [State.kept_fold _ (fun s c => State.count_kept s _ _ _ _ _), State.kept_fold _ (fun s o => State.putOp_kept s o _),
      State.kept_fold _ State.putReady_kept, State.kept_fold _ (fun s t => State.putToken_kept s t _), State.kept_fold _ State.putFrame_kept]
  all_goals rfl
theorem State.loadImage_ok (s : State) (r : Resident) (view : Memory) (old : W64) (site k : Nat) (hv : view.wf)
    (hs : s.kept.ok) : (s.loadImage r view old site k).kept.ok := by
  unfold State.loadImage
  dsimp only
  split
  · cases s.ctl.images.find? (fun i => i.ctx == r.ctx && i.site == site && i.id == view.read (imageBase r.save k) 8) with
    | none => exact hs
    | some m => simp [hs]
  · have hk : (if wfield old 4 4 = r.sunits then s.scratch.blit view (scratchKey site r.ctx 0)
        (imageBase r.save k + (imageRegions old).2.1) (r.sunits * 65536) else s.scratch).wf := by
      split
      · exact Memory.wf_blit _ _ _ (State.ok_scratchWf hs) hv
      · exact State.ok_scratchWf hs
    obtain ⟨h1, h2, -, h4⟩ := hs
    split
    · exact ⟨h1, h2, hk, h4⟩
    · rw [State.loadBlock_kept]
      exact ⟨h1, h2, hk, h4⟩
@[simp] theorem State.reloadSlot_kept (s : State) (ctx : Nat) (g : GSlot) :
    (State.reloadSlot s ctx g).kept = s.kept := by unfold State.reloadSlot; dsimp only; (repeat' split) <;> simp
@[simp] theorem State.presentMail_kept (s : State) (r : Resident) (slot stop fuel : Nat) :
    (State.presentMail s r slot stop fuel).kept = s.kept := by
  induction fuel generalizing s slot with
  | zero => rfl
  | succ n ih =>
    unfold State.presentMail
    split
    · rfl
    · generalize s.mailAt r slot = x
      simp only [ih, State.sendToken_kept]
@[simp] theorem State.clearUnits_ok (s : State) (ctx : Nat) (cells : List Nat) (hs : s.kept.ok) :
    (s.clearUnits ctx cells).kept.ok :=
  ⟨hs.1, hs.2.1, Memory.wf_foldl (fun _ _ h => Memory.wf_blit _ _ _ h Memory.wf_empty) _ hs.2.2.1, hs.2.2.2⟩
@[simp] theorem State.restoreContext_ok (s : State) (r : Resident) (hs : s.kept.ok) : (s.restoreContext r).kept.ok := by
  have hv := State.imageView_wf s r hs
  have e0 := State.clearUnits_ok s r.ctx r.cells hs
  unfold State.restoreContext
  dsimp only
  rw [State.kept_mk]
  · refine State.physStore_ok _ _ _ _ _ ?_
    rw [State.presentMail_kept]
    refine State.ok_fold _ (fun s a h => State.deliverAction_ok s a h) _ _ ?_
    rw [State.kept_fold]
    · rw [State.kept_fold]
      · rw [State.kept_mk]
        · split
          · refine State.ok_fold _ (fun s a h => State.loadImage_ok _ _ _ _ _ _ hv h) _ _ ?_
            simpa using e0
          · simpa using e0
        all_goals rfl
      · intro s g; simp
    · intro s l
      exact State.kept_fold _ (fun s c => State.killMark_kept _ _ _ _) _ _
  all_goals rfl
@[simp] theorem State.haltContext_ok (s : State) (ctx : Nat) (hs : s.kept.ok) : (s.haltContext ctx).kept.ok := by
  have d (l : List Inst) (s : State) : (l.foldl (fun s i => State.dropRequest s i) s).kept = s.kept :=
    State.kept_fold _ State.dropRequest_kept l s
  unfold State.haltContext
  dsimp only
  rw [State.pumpSwitch_kept, State.retirePending_kept, State.kept_fold]
  · have h4 (t : State) (b v : Nat) (ht : t.kept.ok) :
        ((t.evacuate ctx (((s.resident ctx).map (·.cells)).getD [])).physStore b 8 v false).kept.ok :=
      State.physStore_ok _ _ _ _ _ (State.evacuate_ok _ _ _ ht)
    refine State.ok_memShadows (h4 _ _ _ ?_) ?_ ?_
    · rw [State.kept_mk]
      · rw [d]; exact hs
      all_goals rfl
    · split
      · exact setHeaderFlags_wf _ _ (State.ok_memWf (h4 _ _ _ (by rw [State.kept_mk]; · rw [d]; exact hs
                                                                  all_goals rfl)))
      · exact State.ok_memWf (h4 _ _ _ (by rw [State.kept_mk]; · rw [d]; exact hs
                                           all_goals rfl))
    · intro x hx
      exact State.ok_shadowsWf (h4 _ _ _ (by rw [State.kept_mk]; · rw [d]; exact hs
                                             all_goals rfl)) x (List.mem_of_mem_filter hx)
  · intro s l; simp
@[simp] theorem State.updateQueue_kept (s : State) (fn q : Nat) (f : Queue → Queue) :
    (State.updateQueue s fn q f).kept = s.kept := rfl
@[simp] theorem State.writeQueueWord_kept (s : State) (fn q : Nat) (v : W64) :
    (State.writeQueueWord s fn q v).kept = s.kept := rfl
@[simp] theorem State.queueEvent_kept (s : State) (cls fn q : Nat) (w : W64) :
    (State.queueEvent s cls fn q w).kept = s.kept := by simp [State.queueEvent]
@[simp] theorem State.kick_kept (s : State) (fn q pidx : Nat) :
    (State.kick s fn q pidx).kept = s.kept := by unfold State.kick; dsimp only; (repeat' split) <;> simp
@[simp] theorem State.bindF1_kept (s : State) (q : Nat) (v : W64) :
    (State.bindF1 s q v).kept = s.kept := by unfold State.bindF1; split <;> simp
@[simp] theorem State.doorbell_kept (s : State) (v : BitVec 32) :
    (State.doorbell s v).kept = s.kept := by unfold State.doorbell; split <;> simp
@[simp] theorem State.writePlim_ok (s : State) (v : W64) (hs : s.kept.ok) :
    (State.writePlim s v).kept.ok := ⟨hs.1, hs.2.1, hs.2.2.1, hs.2.2.2.1, hs.2.2.2.2.1, hs.2.2.2.2.2.1, hs.2.2.2.2.2.2.1, Nat.mod_lt _ (by decide)⟩
@[simp] theorem State.writeBar0_ok (s : State) (fn off : Nat) (v : W64) (hs : s.kept.ok) :
    (State.writeBar0 s fn off v).kept.ok := by unfold State.writeBar0; (repeat' split) <;> simp [hs]
@[simp] theorem State.hostWrite0_ok (s : State) (fn off : Nat) (wide : Bool) (v : W64) (hs : s.kept.ok) :
    (State.hostWrite0 s fn off wide v).kept.ok := by unfold State.hostWrite0; dsimp only; (repeat' split) <;> simp [hs]
@[simp] theorem State.hostWrite4_ok (s : State) (off : Nat) (wide : Bool) (v : W64) (hs : s.kept.ok) :
    (State.hostWrite4 s off wide v).kept.ok := by unfold State.hostWrite4; (repeat' split) <;> simp [hs]
@[simp] theorem State.ringStore_ok (s : State) (u : Queue) (a : Nat) (w : W64) (hs : s.kept.ok) :
    (State.ringStore s u a w).kept.ok := by
  unfold State.ringStore
  split
  · split <;> simp [hs]
  · exact State.ok_host hs (Memory.wf_store _ _ _ _ (State.ok_hostWf hs))
@[simp] theorem State.stopQueue_kept (s : State) (fn q status : Nat) :
    (State.stopQueue s fn q status).kept = s.kept := by simp [State.stopQueue]
@[simp] theorem State.acceptPacket_ok (s : State) (fn q : Nat) (ws : List W64) (hs : s.kept.ok) :
    (State.acceptPacket s fn q ws).kept.ok := by
  unfold State.acceptPacket
  dsimp only
  split
  · rw [State.raiseEvent_kept]
    refine State.ok_mem ?_ (Memory.wf_foldl (fun _ _ h => Memory.wf_store _ _ _ _ h) _ (State.ok_memWf hs))
    simpa using hs
  · simpa using hs
@[simp] theorem State.readPacket_ok (s : State) (fn q : Nat) (agree readError : Bool) (hs : s.kept.ok) :
    (State.readPacket s fn q agree readError).kept.ok := by unfold State.readPacket; dsimp only; (repeat' split) <;> simp [hs]
@[simp] theorem State.writeRecord_ok (s : State) (p : Packet) (hs : s.kept.ok) :
    (State.writeRecord s p).kept.ok := by
  unfold State.writeRecord
  dsimp only
  rw [State.kept_mk]
  · rw [State.updateQueue_kept]
    exact State.ringStore_ok _ _ _ _ (State.ok_fold _ (fun _ _ h => State.ringStore_ok _ _ _ _ h) _ _ hs)
  all_goals rfl
@[simp] theorem State.noteRoot_kept (s : State) (ctx cb : Nat) (cells : List Nat) :
    (State.noteRoot s ctx cb cells).kept = s.kept := by
  unfold State.noteRoot
  (repeat' split) <;> first | rfl | exact State.kept_fold _ (fun _ _ => State.noteDie_kept _ _ _ _) _ _
@[simp] theorem State.noteLaunch_kept (s : State) (p : Packet) : (s.noteLaunch p).kept = s.kept := by
  unfold State.noteLaunch
  split <;> simp
@[simp] theorem State.await_kept (s : State) (ctx : Nat) :
    (State.await s ctx).kept = s.kept := by unfold State.await; split <;> simp
/-- A virtual store keeps the invariant. -/
theorem State.virtStore_ok {s : State} (ctx va n v : Nat) (psn : Bool) (hs : s.kept.ok) :
    Carries (fun t : State => t.kept.ok) (s.virtStore ctx va n v psn) := by
  unfold State.virtStore
  refine carries_bind (fun _ => carries_ite (carries_pure ?_) (carries_pure ?_)) <;> simp [hs]
theorem State.noteCopy_ok {s : State} (ctx : Nat) (a : Access) (va n : Nat) (hs : s.kept.ok) :
    (s.noteCopy ctx a va n).kept.ok := by
  rw [State.noteCopy_kept]
  exact hs
@[simp] theorem State.moveUnit_ok (s : State) (p : Packet) (hs : s.kept.ok) :
    (State.moveUnit s p).kept.ok := by
  have h0 (n : Nat) : (if p.w 2 = 0 then s.noteCopy p.ctx .load (p.addr 3 + p.progress) n else s).kept.ok :=
    State.ok_ite (fun _ => State.noteCopy_ok _ _ _ _ hs) (fun _ => hs)
  unfold State.moveUnit
  dsimp only
  generalize min (8 - (p.addr 5 + p.progress) % 8) ((p.w 7).toNat - p.progress) = n
  replace h0 := h0 n
  generalize (if p.w 2 = 0 then s.noteCopy p.ctx .load (p.addr 3 + p.progress) n else s) = s0 at *
  have h1 := State.noteCopy_ok p.ctx .store (p.addr 5 + p.progress) n h0
  generalize s0.noteCopy p.ctx .store (p.addr 5 + p.progress) n = t at *
  split
  · simpa using h0
  · split
    · simp [h1]
    · rename_i h
      have h2 := State.virtStore_ok p.ctx (p.addr 5 + p.progress) n _ _ h1 _ h
      split <;> simp [h2]
@[simp] theorem State.moveStep_ok (s : State) (fn q i op : Nat) (hs : s.kept.ok) :
    (State.moveStep s fn q i op).kept.ok := by unfold State.moveStep; (repeat' split) <;> simp [hs]
@[simp] theorem State.fenceSignal_ok (s : State) (p : Packet) (hs : s.kept.ok) :
    (State.fenceSignal s p).kept.ok := by
  unfold State.fenceSignal
  have ht := State.noteCopy_ok p.ctx .store (p.addr 6) 8 hs
  dsimp only
  generalize s.noteCopy p.ctx .store (p.addr 6) 8 = t at *
  split
  · split
    · simp [ht]
    · rename_i h
      have h1 := State.virtStore_ok p.ctx (p.addr 6) 8 (p.w 8).toNat false ht _ h
      simp [h1]
  · simp [hs]
@[simp] theorem State.fenceRead_ok (s : State) (p : Packet) (hs : s.kept.ok) :
    (State.fenceRead s p).kept.ok := by
  unfold State.fenceRead
  dsimp only
  have ht := State.noteCopy_ok p.ctx .load (p.addr 3) 8 hs
  generalize s.noteCopy p.ctx .load (p.addr 3) 8 = t at *
  (repeat' split) <;> simp [ht]
@[simp] theorem State.physWords_ok (s : State) (a : Nat) (ws : List W64) (hs : s.kept.ok) : (s.physWords a ws).kept.ok :=
  State.ok_fold _ (fun _ _ h => State.physStore_ok _ _ _ _ _ h) _ _ hs
theorem State.installRecords_ok {s : State} {p : Packet} {t : State} (h : s.installRecords p = some t) (hs : s.kept.ok) :
    t.kept.ok := by
  unfold State.installRecords at h
  split at h
  · cases h
  · split at h
    · cases h
      rw [State.kept_mk]
      · exact State.ok_fold _ (fun _ _ h => State.physWords_ok _ _ _ h) _ _
          (State.ok_fold _ (fun _ _ h => State.physWords_ok _ _ _ h) _ _ hs)
      all_goals rfl
    · cases h
@[simp] theorem State.noteRecords_kept (s : State) (ctx : Nat) (l : List (Nat × Nat)) :
    (s.noteRecords ctx l).kept = s.kept := by
  induction l generalizing s with
  | nil => rfl
  | cons e l ih =>
    unfold State.noteRecords
    dsimp only
    split <;> simp [ih]
@[simp] theorem State.noteList_kept (s : State) (p : Packet) : (s.noteList p).kept = s.kept := State.noteRecords_kept _ _ _
@[simp] theorem State.loadGraph_ok (s : State) (p : Packet) (saved : List Nat) (hs : s.kept.ok) :
    (State.loadGraph s p saved).kept.ok := by
  unfold State.loadGraph
  dsimp only
  have ht : (s.noteList p).kept.ok := by rw [State.noteList_kept]; exact hs
  generalize s.noteList p = t at *
  cases h : t.installRecords p with
  | none => split <;> simp [ht]
  | some u =>
    have := State.installRecords_ok h ht
    split <;> simp [this]
@[simp] theorem State.copyRegions_ok (s : State) (rs : List Region) (dst room : Nat) (hs : s.kept.ok) :
    (State.copyRegions s rs dst room).kept.ok := by
  induction rs generalizing s dst room with
  | nil => exact hs
  | cons r t ih => exact ih _ _ _ (State.ok_host hs (Memory.wf_blit _ _ _ (State.ok_hostWf hs) (State.ok_memWf hs)))
@[simp] theorem State.unfreeze_kept (s : State) (set : List Nat) :
    (State.unfreeze s set).kept = s.kept := rfl
@[simp] theorem State.freezeRefused_kept (s : State) (p : Packet) (set : List Nat) :
    (State.freezeRefused s p set).kept = s.kept := by
  unfold State.freezeRefused
  rw [State.updatePacket_kept, State.kept_fold]
  · simp
  · intro s c; simp
@[simp] theorem State.freezeFails_kept (s : State) (p : Packet) (set : List Nat) (off : Nat) :
    (State.freezeFails s p set off).kept = s.kept := by
  unfold State.freezeFails
  rw [State.finishPacket_kept, State.kept_fold _ State.await_kept, State.unfreeze_kept]
@[simp] theorem State.quiesce_kept (s : State) (p : Packet) (set : List Nat) : (State.quiesce s p set).kept = s.kept := by
  unfold State.quiesce
  dsimp only
  rw [State.kept_fold, State.updatePacket_kept]
  intro s c; simp
@[simp] theorem State.releaseFrozen_ok (s : State) (p : Packet) (set : List Nat) (hs : s.kept.ok) :
    (State.releaseFrozen s p set).kept.ok := by
  unfold State.releaseFrozen
  dsimp only
  rw [State.finishPacket_kept]
  exact State.ok_fold _ (fun _ _ h => State.physStore_ok _ _ _ _ _ h) _ _ hs
@[simp] theorem State.finishFreeze_ok (s : State) (p : Packet) (hs : s.kept.ok) :
    (State.finishFreeze s p).kept.ok := by
  have put (s : State) (bs : List Byte) (h : s.kept.ok) :
      ({ s with host := s.host.putBytes (p.w 5).toNat bs } : State).kept.ok :=
    State.ok_host h (Memory.wf_putBytes _ _ (State.ok_hostWf h))
  unfold State.finishFreeze
  dsimp only
  split
  · split
    · split
      · rw [State.freezeFails_kept]
        exact put _ _ hs
      · rw [State.freezeRefused_kept]
        exact put _ _ hs
    · rw [State.freezeRefused_kept]
      exact put _ _ hs
  · split
    · split
      · rw [State.freezeFails_kept]
        exact State.copyRegions_ok _ _ _ _ hs
      · split
        · rw [State.freezeFails_kept]
          exact put _ _ (State.copyRegions_ok _ _ _ _ hs)
        · exact State.releaseFrozen_ok _ _ _ (put _ _ (State.copyRegions_ok _ _ _ _ hs))
    · exact State.releaseFrozen_ok _ _ _ (put _ _ (State.copyRegions_ok _ _ _ _ hs))
@[simp] theorem State.wakeLaunch_kept (n : Frozen) (s : State) (r : ManifestRecord) : (State.wakeLaunch n s r).kept = s.kept := by
  unfold State.wakeLaunch
  dsimp only
  split <;> rfl
@[simp] theorem State.resume_ok (s : State) (m buffer : Nat) (hs : s.kept.ok) :
    (State.resume s m buffer).kept.ok := by
  unfold State.resume
  dsimp only
  rw [State.kept_fold _ State.await_kept, State.kept_mk]
  · rw [State.kept_fold _ (State.wakeLaunch_kept _)]
    refine State.ok_fold _ (fun _ _ h => State.physStore_ok _ _ _ _ _ h) _ _ ?_
    exact State.ok_fold _ (fun s r h => State.ok_mem h (Memory.wf_blit _ _ _ (State.ok_memWf h) (State.ok_hostWf h))) _ _ hs
  all_goals rfl
/-- Another package memory in canonical form, with anything of the host interface, keeps the invariant. -/
theorem State.ok_memIo {s : State} (hs : s.kept.ok) {m : Memory} {io : HostIo} (hm : m.wf) :
    ({ s with mem := m, io := io } : State).kept.ok :=
  ⟨hm, hs.2⟩

/-- A booted state keeps the invariant when its memory is in canonical form. -/
theorem State.ok_boot {s : State} (hs : s.kept.ok) {m : Memory} {l : List (Nat × Nat)} {io : HostIo} {d : BitVec 384} {n : Nat}
    (hm : m.wf) : ({ s with
      mem := m
      sys := { s.sys with bootEntries := l }
      io := io
      hw := { s.hw with bootok := true, booterr := 0, fwDigest := d, fwSvn := n } } : State).kept.ok :=
  ⟨hm, hs.2⟩

@[simp] theorem State.respond_ok (s : State) (r : MbResult) (payload : List Byte) (hs : s.kept.ok) :
    (s.respond r payload).kept.ok := by
  unfold State.respond
  exact State.ok_memIo hs (Memory.wf_store _ _ _ _ (Memory.wf_markWritten _ _ _ (Memory.wf_putBytes _ _ (State.ok_memWf hs))))
theorem State.serve_ok (s : State) (op : Nat) (good : Bool) (f : State → State × List Byte)
    (hf : s.kept.ok → (f s).1.kept.ok) (hs : s.kept.ok) : (s.serve op good f).kept.ok := by
  unfold State.serve
  dsimp only
  refine State.ok_ite (fun _ => hs) (fun _ => State.ok_ite (fun _ => hs) (fun _ => ?_))
  refine State.ok_ite (fun _ => ?_) (fun _ => State.ok_ite (fun _ => ?_) (fun _ => State.ok_ite (fun _ => ?_) (fun _ =>
    State.ok_ite (fun _ => ?_) (fun _ => ?_))))
  all_goals exact State.respond_ok _ _ _ (by first | exact hs | exact hf hs)
theorem relocate_wf {m : Memory} (places : List (Nat × Nat)) (r : Reloc) (h : m.wf) : (relocate places m r).wf := by
  unfold relocate
  dsimp only
  split
  · exact Memory.wf_store _ _ _ _ h
  · exact Memory.wf_store _ _ _ _ h
  · exact Memory.wf_foldl (fun _ _ h => Memory.wf_store _ _ _ _ h) _ h

theorem loadBody_wf {m : Memory} (places : List (Nat × Nat)) (secs : List Section) (syms : List Symbol) (rs : List Reloc)
    (body : Nat → Nat → List Byte) (h : m.wf) : (loadBody places secs syms rs body m).1.wf := by
  unfold loadBody
  refine Memory.wf_foldl (fun m r h => relocate_wf places r h) _ (Memory.wf_foldl (fun m x h => ?_) _ h)
  dsimp only
  split
  · exact Memory.wf_markWritten _ _ _ (Memory.wf_putBytes _ _ h)
  · exact h
@[simp] theorem State.afterReset_ok (s : State) (hs : s.kept.ok) : s.afterReset.kept.ok :=
  ⟨hs.1, hs.2.1, Memory.wf_empty, Memory.wf_putBytes _ _ hs.2.2.2.1, (fun x hx => nomatch (show x ∈ ([] : List Shadow) from hx)),
    (by decide : (0 : Nat) ≤ 48), (by decide : (0 : Nat) < 64), (by decide : (3200 : Nat) < 2 ^ 16)⟩
@[simp] theorem State.bootFails_kept (s : State) (err : Nat) :
    (State.bootFails s err).kept = s.kept := rfl
@[simp] theorem State.boot_ok (s : State) (hs : s.kept.ok) :
    (State.boot s).kept.ok := by
  unfold State.boot
  dsimp only
  refine State.ok_ite (fun _ => by simp [hs]) (fun _ => State.ok_ite (fun _ => by simp [hs]) (fun _ => ?_))
  split
  · simp [hs]
  · split
    · refine State.ok_ite (fun _ => by simp [hs]) (fun _ => State.ok_ite (fun _ => by simp [hs]) (fun _ =>
        State.ok_ite (fun _ => by simp [hs]) (fun _ => ?_)))
      rw [State.sendToken_kept]
      exact State.ok_boot hs (loadBody_wf _ _ _ _ _ (State.ok_memWf hs))
    · simp [hs]
@[simp] theorem State.beginRetire_kept (s : State) (c : Nat) :
    (State.beginRetire s c).kept = s.kept := by unfold State.beginRetire; (repeat' split) <;> simp
@[simp] theorem State.reportError_kept (s : State) (c : Nat) (control : Bool) :
    (State.reportError s c control).kept = s.kept := by unfold State.reportError; dsimp only; (repeat' split) <;> simp
@[simp] theorem State.degrade_kept (s : State) :
    (State.degrade s).kept = s.kept := by unfold State.degrade; split <;> simp
@[simp] theorem State.correctedError_kept (s : State) (src : Nat) :
    (State.correctedError s src).kept = s.kept := by unfold State.correctedError; dsimp only; (repeat' split) <;> simp
@[simp] theorem State.fatal_kept (s : State) :
    (State.fatal s).kept = s.kept := rfl
@[simp] theorem State.controlError_kept (s : State) (site ctx : Nat) :
    (State.controlError s site ctx).kept = s.kept := by simp [State.controlError]
@[simp] theorem State.dropEntry_kept (s : State) (site : Nat) :
    (State.dropEntry s site).kept = s.kept := by unfold State.dropEntry; dsimp only; (repeat' split) <;> simp
@[simp] theorem State.restart_kept (s : State) (i : Inst) :
    (State.restart s i).kept = s.kept := rfl
@[simp] theorem State.clockSite_kept (s : State) (site : Nat) :
    (State.clockSite s site).kept = s.kept := rfl
@[simp] theorem State.elapse_kept (s : State) :
    (State.elapse s).kept = s.kept := rfl
@[simp] theorem State.withFetchWord_kept (s : State) (nbits w : Nat) :
    (State.withFetchWord s nbits w).kept = s.kept := rfl

end Sys2Proof.Machine
end

