-- ==== Sys2Proof/Laws/Exec.lean ====
section
/-! SUPPORT. What the meanings leave alone: an instruction word changes none of the memories at its issue, and a step of
the device keeps the invariant. One lemma for each. -/

namespace Sys2Proof.Machine

/-- A next state of an answer keeps the invariant. -/
def nextOk (o : Out) : Prop := ∀ t, o = .next t → t.kept.ok

theorem nextOk_next {s : State} (h : s.kept.ok) : nextOk (.next s) := by
  intro t ht
  cases ht
  exact h

theorem nextOk_ite {p : Prop} [Decidable p] {a b : Out} (ha : nextOk a) (hb : nextOk b) :
    nextOk (if p then a else b) := by
  split
  · exact ha
  · exact hb

theorem State.ok_of_kept {s t : State} (h : t.kept = s.kept) (hs : s.kept.ok) : t.kept.ok := h ▸ hs

/-- A meaning that changes none of the memories. -/
def Keeps (m : State → Out) : Prop := ∀ s t, m s = .next t → t.kept = s.kept

theorem liftS_keeps {f : State → Inst → Cur → State × Except Trap Inst} (hf : ∀ s i c, (f s i c).1.kept = s.kept) :
    Keeps (liftS f) := by
  intro s t h
  unfold liftS at h
  split at h
  · cases h
  · split at h
    · cases h
    · split at h
      all_goals
        rename_i hr
        cases h
        simpa using State.kept_of_eq hr (hf _ _ _)

theorem lift_keeps {f : State → Inst → Cur → Except Trap Inst} : Keeps (lift f) := liftS_keeps (fun _ _ _ => rfl)

theorem liftBoth_keeps {f : State → Inst → Cur → Except Trap (State × Inst)}
    (hf : ∀ s i c, Carries (fun r : State × Inst => r.1.kept = s.kept) (f s i c)) : Keeps (liftBoth f) := by
  refine liftS_keeps (fun s i c => ?_)
  split
  · rename_i hr
    exact hf _ _ _ _ hr
  · rfl

theorem liftPure_keeps {f : Inst → Inst} : Keeps (liftPure f) := lift_keeps

/-! ### The instruction words that change more than their instance -/

theorem sendTo_keeps (s : State) (i : Inst) (c : Cur) (r : W64) (b : Bool) (ok : Bool → Bool) (n : Nat) (mk : Checked → Token) :
    (sendTo s i c r b ok n mk).1.kept = s.kept := State.checkRef_kept _ _ _ _ _

theorem execSend_keeps {a b : Reg} {slot : SlotNo} {idx : BitVec 8} {r : Option Scope} :
    Keeps (execSend a b slot idx r) := liftS_keeps (fun _ _ _ => sendTo_keeps _ _ _ _ _ _ _ _)

theorem execSendv_keeps {a b : Reg} {slot : SlotNo} {idx : BitVec 3} {r : Option Scope} :
    Keeps (execSendv a b slot idx r) := liftS_keeps (fun _ _ _ => sendTo_keeps _ _ _ _ _ _ _ _)

theorem execSig_keeps {a : Reg} {slot : SlotNo} {r : Option Scope} : Keeps (execSig a slot r) :=
  liftS_keeps (fun _ _ _ => sendTo_keeps _ _ _ _ _ _ _ _)

theorem execSw_keeps {p a b : Reg} {slot : SlotNo} {r : Option Scope} : Keeps (execSw p a b slot r) :=
  liftS_keeps (fun _ _ _ => sendTo_keeps _ _ _ _ _ _ _ _)

theorem execXop_keeps {n : BitVec 6} {d a b c x : Reg} {k : MReg} {z : Bool} : Keeps (execXop n d a b c x k z) := by
  refine liftBoth_keeps (fun s i c => ?_)
  refine carries_ite (carries_bind (fun _ => ?_)) ?_
  all_goals
    split
    · exact carries_throw
    · refine carries_ite (carries_bind (fun _ => carries_pure ?_)) (carries_pure ?_) <;> simp

theorem execMrdx_keeps {acc : BitVec 2} {a b : PairNo} {slot : SlotNo} {n : BitVec 6} {r : Round} {sat : Bool} :
    Keeps (execMrdx acc a b slot n r sat) := by
  refine liftBoth_keeps (fun s i c => ?_)
  repeat' first
    | exact carries_throw
    | exact carries_pure (by simp)
    | refine carries_ite ?_ ?_
    | refine carries_bind (fun _ => ?_)
    | split

/-- `fin` changes none of the memories. -/
theorem execFin_keeps : Keeps execFin := by
  intro s t h
  unfold execFin at h
  split at h
  · cases h
  · split at h
    · cases h
    · cases h
      simp

/-! ### The steps of the device -/

theorem execTokenRetry_ok {tok : Nat} {s : State} (hs : s.kept.ok) :
    nextOk (execTokenRetry tok s) := by
  unfold execTokenRetry
  exact nextOk_next (by simp [hs])

theorem execTokenAccept_ok {tok : Nat} {s : State} (hs : s.kept.ok) :
    nextOk (execTokenAccept tok s) := by
  unfold execTokenAccept
  (repeat' split) <;> exact nextOk_next (by simp [hs])

theorem execTokenApply_ok {tok : Nat} {s : State} (hs : s.kept.ok) :
    nextOk (execTokenApply tok s) := by
  unfold execTokenApply
  (repeat' split) <;> exact nextOk_next (by simp [hs])

theorem execDescriptorLoad_ok {site ctx cb : Nat} {s : State} (hs : s.kept.ok) :
    nextOk (execDescriptorLoad site ctx cb s) := by
  unfold execDescriptorLoad
  split <;> exact nextOk_next (by simp [hs])

theorem execParkReexamine_ok {site ctx cb : Nat} {s : State} (hs : s.kept.ok) :
    nextOk (execParkReexamine site ctx cb s) := by
  unfold execParkReexamine
  exact nextOk_next (by simp [hs])

theorem execParkOverflowReadback_ok {site ctx : Nat} {s : State} (hs : s.kept.ok) :
    nextOk (execParkOverflowReadback site ctx s) := by
  unfold execParkOverflowReadback
  (repeat' split) <;> exact nextOk_next (by simp [hs])

theorem execWaitingSignalServe_ok {tok : Nat} {s : State} (hs : s.kept.ok) :
    nextOk (execWaitingSignalServe tok s) := by
  unfold execWaitingSignalServe
  (repeat' split) <;> exact nextOk_next (by simp [hs])

theorem execFrameFill_ok {site ctx cb : Nat} {tag : BitVec 32} {s : State} (hs : s.kept.ok) :
    nextOk (execFrameFill site ctx cb tag s) := by
  unfold execFrameFill
  dsimp only
  split
  · exact nextOk_next hs
  · refine nextOk_ite ?_ (nextOk_next hs)
    split
    · rename_i h
      exact nextOk_next (by simp [State.makeRoom_kept h, hs])
    · exact nextOk_next hs

theorem execReadyChoose_ok {site runner : Nat} {s : State} (hs : s.kept.ok) :
    nextOk (execReadyChoose site runner s) := by
  unfold execReadyChoose
  split
  · split
    · exact nextOk_next hs
    · split
      · exact nextOk_next hs
      · exact nextOk_next (by simp [hs])
  · exact nextOk_next hs

theorem execReadyOverflowReturn_ok {site : Nat} {s : State} (hs : s.kept.ok) :
    nextOk (execReadyOverflowReturn site s) := by
  unfold execReadyOverflowReturn
  (repeat' split) <;> exact nextOk_next (by simp [hs])

theorem execFaultTokenDelivery_ok {tok : Nat} {s : State} (hs : s.kept.ok) :
    nextOk (execFaultTokenDelivery tok s) := by
  unfold execFaultTokenDelivery
  (repeat' split) <;> exact nextOk_next (by simp [hs])

theorem execFaultActionDelivery_ok {act : Nat} {s : State} (hs : s.kept.ok) :
    nextOk (execFaultActionDelivery act s) := by
  unfold execFaultActionDelivery
  (repeat' split) <;> exact nextOk_next (by simp [hs])

theorem execCompletionSignal_ok {op : Nat} {s : State} (hs : s.kept.ok) :
    nextOk (execCompletionSignal op s) := by
  unfold execCompletionSignal
  (repeat' split) <;> exact nextOk_next (by simp [hs])

theorem execVlpTokenReceive_ok {port ctx cb : Nat} {tag : BitVec 32} {epoch : Bool} {slot : BitVec 4} {kind : Nat}
    {idx : BitVec 8} {rels : Option Scope} {psn : Bool} {payload : BitVec 2048} {s : State} (hs : s.kept.ok) :
    nextOk (execVlpTokenReceive port ctx cb tag epoch slot kind idx rels psn payload s) := by
  unfold execVlpTokenReceive
  dsimp only
  refine nextOk_ite (nextOk_next hs) (nextOk_next ?_)
  rw [State.sendToken_kept]
  split
  · exact hs
  · rw [State.arrivalCell_kept]
    exact hs

theorem execVlpAcknowledge_ok {tok : Nat} {s : State} (hs : s.kept.ok) :
    nextOk (execVlpAcknowledge tok s) := by
  unfold execVlpAcknowledge
  (repeat' split) <;> exact nextOk_next (by simp [hs])

theorem execCommit_ok {site runner : Nat} {s : State} (hs : s.kept.ok) :
    nextOk (execCommit site runner s) := by
  unfold execCommit
  (repeat' split) <;> exact nextOk_next (by simp [hs])

theorem execLoadPerform_ok {op part : Nat} {s : State} (hs : s.kept.ok) :
    nextOk (execLoadPerform op part s) := by
  unfold execLoadPerform stepPart
  (repeat' split) <;> exact nextOk_next (by simp [hs])

theorem execStorePerform_ok {op part : Nat} {s : State} (hs : s.kept.ok) :
    nextOk (execStorePerform op part s) := by
  unfold execStorePerform stepPart
  (repeat' split) <;> exact nextOk_next (by simp [hs])

theorem execAtomicPerform_ok {op part : Nat} {s : State} (hs : s.kept.ok) :
    nextOk (execAtomicPerform op part s) := by
  unfold execAtomicPerform stepPart
  (repeat' split) <;> exact nextOk_next (by simp [hs])

theorem execPrefetchPerform_ok {op part : Nat} {s : State} (hs : s.kept.ok) :
    nextOk (execPrefetchPerform op part s) := by
  unfold execPrefetchPerform
  (repeat' split) <;> exact nextOk_next (by simp [hs])

theorem execPageWalk_ok {op part : Nat} {s : State} (hs : s.kept.ok) :
    nextOk (execPageWalk op part s) := by
  unfold execPageWalk
  dsimp only
  (repeat' split) <;> exact nextOk_next (by simp [hs])

theorem execLocalCacheFill_ok {op part : Nat} {s : State} (hs : s.kept.ok) :
    nextOk (execLocalCacheFill op part s) := by
  unfold execLocalCacheFill
  (repeat' split) <;> exact nextOk_next (by simp [hs])

theorem execPcieCompletionTimeout_ok {op part : Nat} {s : State} (hs : s.kept.ok) :
    nextOk (execPcieCompletionTimeout op part s) := by
  unfold execPcieCompletionTimeout
  (repeat' split) <;> exact nextOk_next (by simp [hs])

theorem execIcacheFill_ok {site runner : Nat} {s : State} (hs : s.kept.ok) :
    nextOk (execIcacheFill site runner s) := by
  unfold execIcacheFill
  dsimp only
  (repeat' split) <;> exact nextOk_next (by simp [hs])

theorem execTlbInvalidateComplete_ok {op : Nat} {s : State} (hs : s.kept.ok) :
    nextOk (execTlbInvalidateComplete op s) := by
  unfold execTlbInvalidateComplete
  dsimp only
  (repeat' split) <;> exact nextOk_next (by simp [hs])

theorem execEngineCommandStart_ok {op : Nat} {s : State} (hs : s.kept.ok) :
    nextOk (execEngineCommandStart op s) := by
  unfold execEngineCommandStart
  dsimp only
  (repeat' split) <;> exact nextOk_next (by simp [hs])

theorem execEngineElement_ok {op : Nat} {act : EngineAct} {s : State} (hs : s.kept.ok) :
    nextOk (execEngineElement op act s) := by
  unfold execEngineElement
  split
  · exact nextOk_next hs
  · split
    · exact nextOk_next hs
    · dsimp only
      refine nextOk_ite ?_ (nextOk_next hs)
      split
      · rename_i s1 _ h
        refine nextOk_next ?_
        rw [State.setEngine_kept]
        cases act with
        | perform => exact State.ok_of_kept (State.performTurn_kept _ _ _ _ h) hs
        | stage second => exact State.ok_of_kept (State.stageAhead_kept (Except.ok.inj h)) hs
        | write => exact State.writeOldest_ok _ _ hs _ h
      · exact nextOk_next hs

theorem execEngineFaultStop_ok {op : Nat} {s : State} (hs : s.kept.ok) :
    nextOk (execEngineFaultStop op s) := by
  unfold execEngineFaultStop
  (repeat' split) <;> exact nextOk_next (by simp [hs])

theorem execEngineCommandComplete_ok {op : Nat} {s : State} (hs : s.kept.ok) :
    nextOk (execEngineCommandComplete op s) := by
  unfold execEngineCommandComplete
  (repeat' split) <;> exact nextOk_next (by simp [hs])

theorem execCarouselEntry_ok {site : Nat} {s : State} (hs : s.kept.ok) :
    nextOk (execCarouselEntry site s) := by
  unfold execCarouselEntry
  dsimp only
  (repeat' split) <;> exact nextOk_next (by simp [hs])

theorem execCarouselResult_ok {site : Nat} {s : State} (hs : s.kept.ok) :
    nextOk (execCarouselResult site s) := by
  unfold execCarouselResult
  dsimp only
  (repeat' split) <;> exact nextOk_next (by simp [hs])

theorem execXldProcess_ok {op : Nat} {s : State} (hs : s.kept.ok) :
    nextOk (execXldProcess op s) := by
  unfold execXldProcess
  (repeat' split) <;> exact nextOk_next (by simp [hs])

theorem execXldWaitRetry_ok {op : Nat} {s : State} (hs : s.kept.ok) :
    nextOk (execXldWaitRetry op s) := by
  unfold execXldWaitRetry
  (repeat' split) <;> exact nextOk_next (by simp [hs])

theorem execGraphLoadComplete_ok {site gslot : Nat} {storeError : Bool} {s : State} (hs : s.kept.ok) :
    nextOk (execGraphLoadComplete site gslot storeError s) := by
  have h (g : GSlot) (f : State → Op → State) (hf : ∀ s o, (f s o).kept = s.kept) :
      ((s.noteImage site (s.userAt site) g.image).failLoad g f).kept.ok :=
    State.ok_of_kept ((State.failLoad_kept _ g f hf).trans (State.noteImage_kept _ _ _ _)) hs
  unfold execGraphLoadComplete
  split
  · exact nextOk_next hs
  · refine nextOk_ite (nextOk_next hs) ?_
    split
    · exact nextOk_next (h _ _ (fun s o => by simp))
    · split
      · exact nextOk_next (h _ _ (fun s o => by simp))
      · refine nextOk_ite (nextOk_next (h _ _ (fun s o => by simp))) (nextOk_next (by simp [hs]))

theorem execXunlComplete_ok {op : Nat} {s : State} (hs : s.kept.ok) :
    nextOk (execXunlComplete op s) := by
  unfold execXunlComplete
  (repeat' split) <;> exact nextOk_next (by simp [hs])

theorem execConfigErrorReload_ok {site gslot : Nat} {again : Bool} {s : State} (hs : s.kept.ok) :
    nextOk (execConfigErrorReload site gslot again s) := by
  unfold execConfigErrorReload
  (repeat' split) <;> exact nextOk_next (by simp [hs])

theorem execMuPerform_ok {site : Nat} {s : State} (hs : s.kept.ok) :
    nextOk (execMuPerform site s) := by
  unfold execMuPerform
  (repeat' split) <;> exact nextOk_next (by simp [hs])

theorem execMuCompletion_ok {site : Nat} {s : State} (hs : s.kept.ok) :
    nextOk (execMuCompletion site s) := by
  unfold execMuCompletion
  (repeat' split) <;> exact nextOk_next (by simp [hs])

theorem execLaunchInject_ok {die ctx lid : Nat} {s : State} (hs : s.kept.ok) :
    nextOk (execLaunchInject die ctx lid s) := by
  unfold execLaunchInject
  split
  · exact nextOk_next hs
  · dsimp only
    split
    · exact nextOk_next hs
    · generalize hr : State.resolveHome _ _ _ _ _ _ = r
      obtain ⟨s2, x⟩ := r
      have e := State.kept_of_eq hr (State.resolveHome_kept _ _ _ _ _ _)
      have e2 : s2.kept.ok := by rw [e]; simpa using hs
      cases x with
      | ok c => exact nextOk_next (by simp [e2])
      | error c => exact nextOk_ite (nextOk_next hs) (nextOk_next (by simp [e2]))

theorem execQuantumExpiry_ok {part : Nat} {s : State} (hs : s.kept.ok) :
    nextOk (execQuantumExpiry part s) := by
  unfold execQuantumExpiry
  exact nextOk_next (by simp [hs])

theorem execLaunchWave_ok {ctx lid : Nat} {s : State} (hs : s.kept.ok) :
    nextOk (execLaunchWave ctx lid s) := by
  unfold execLaunchWave
  dsimp only
  (repeat' split) <;> exact nextOk_next (by simp [hs])

theorem execLaunchWatchdog_ok {ctx lid : Nat} {s : State} (hs : s.kept.ok) :
    nextOk (execLaunchWatchdog ctx lid s) := by
  unfold execLaunchWatchdog
  (repeat' split) <;> exact nextOk_next (by simp [hs])

theorem execLaunchKillMark_ok {site ctx lid : Nat} {s : State} (hs : s.kept.ok) :
    nextOk (execLaunchKillMark site ctx lid s) := by
  unfold execLaunchKillMark
  (repeat' split) <;> exact nextOk_next (by simp [hs])

theorem execTimerExpiry_ok {timer : Nat} {s : State} (hs : s.kept.ok) :
    nextOk (execTimerExpiry timer s) := by
  unfold execTimerExpiry
  (repeat' split) <;> exact nextOk_next (by simp [hs])

theorem execTimeWordStore_ok {s : State} (hs : s.kept.ok) :
    nextOk (execTimeWordStore s) := by
  unfold execTimeWordStore
  dsimp only
  (repeat' split) <;> exact nextOk_next (by simp [hs])

theorem execTagwinRequest_ok {site runner : Nat} {s : State} (hs : s.kept.ok) :
    nextOk (execTagwinRequest site runner s) := by
  unfold execTagwinRequest
  (repeat' split) <;> exact nextOk_next (by simp [hs])

theorem execTagwinInstall_ok {site ctx : Nat} {s : State} (hs : s.kept.ok) :
    nextOk (execTagwinInstall site ctx s) := by
  unfold execTagwinInstall
  split
  · exact nextOk_next hs
  · refine nextOk_next (State.ok_fold _ (fun s e h => State.reexamine_ok _ _ _ _ h) _ _ ?_)
    rw [State.kept_fold _ (fun s e => State.setWindow_kept s _ _ _ _ _)]
    simpa using hs

theorem execDrainMarker_ok {ctx : Nat} {s : State} (hs : s.kept.ok) :
    nextOk (execDrainMarker ctx s) := by
  have h (l : List Inst) : (l.foldl State.abandon s).kept.ok := State.ok_of_kept (State.kept_fold _ State.abandon_kept l s) hs
  unfold execDrainMarker
  split
  · exact nextOk_next hs
  · exact nextOk_ite (nextOk_next hs) (nextOk_ite (nextOk_next (by simp [h])) (nextOk_next (by simp [h])))

theorem execContextImageSave_ok {ctx : Nat} {s : State} (hs : s.kept.ok) :
    nextOk (execContextImageSave ctx s) := by
  unfold execContextImageSave
  (repeat' split) <;> exact nextOk_next (by simp [hs])

theorem execContextRestore_ok {ctx : Nat} {s : State} (hs : s.kept.ok) :
    nextOk (execContextRestore ctx s) := by
  unfold execContextRestore
  dsimp only
  (repeat' split) <;> exact nextOk_next (by simp [hs])

theorem execRestoreResume_ok {ctx : Nat} {s : State} (hs : s.kept.ok) :
    nextOk (execRestoreResume ctx s) := by
  unfold execRestoreResume
  dsimp only
  (repeat' split) <;> exact nextOk_next (by simp [hs])

theorem execHaltComplete_ok {op : Nat} {s : State} (hs : s.kept.ok) :
    nextOk (execHaltComplete op s) := by
  unfold execHaltComplete
  dsimp only
  (repeat' split) <;> exact nextOk_next (by simp [hs])

theorem execQueueEnable_ok {fn q : Nat} {value : BitVec 64} {s : State} (hs : s.kept.ok) :
    nextOk (execQueueEnable fn q value s) := by
  unfold execQueueEnable
  (repeat' split) <;> exact nextOk_next (by simp [hs])

theorem execQueueDisable_ok {fn q : Nat} {value : BitVec 64} {s : State} (hs : s.kept.ok) :
    nextOk (execQueueDisable fn q value s) := by
  unfold execQueueDisable
  (repeat' split) <;> exact nextOk_next (by simp [hs])

theorem execQueueKick_ok {fn q : Nat} {pidx : BitVec 32} {s : State} (hs : s.kept.ok) :
    nextOk (execQueueKick fn q pidx s) := by
  unfold execQueueKick
  (repeat' split) <;> exact nextOk_next (by simp [hs])

theorem execF1bindWrite_ok {q : Nat} {value : BitVec 64} {s : State} (hs : s.kept.ok) :
    nextOk (execF1bindWrite q value s) := by
  unfold execF1bindWrite
  (repeat' split) <;> exact nextOk_next (by simp [hs])

theorem execDoorbell_ok {value : BitVec 32} {s : State} (hs : s.kept.ok) :
    nextOk (execDoorbell value s) := by
  unfold execDoorbell
  exact nextOk_next (by simp [hs])

theorem execPlimWrite_ok {value : BitVec 64} {s : State} (hs : s.kept.ok) :
    nextOk (execPlimWrite value s) := by
  unfold execPlimWrite
  exact nextOk_next (by simp [hs])

theorem execRegisterWrite_ok {bar fn off : Nat} {wide : Bool} {value : BitVec 64} {s : State} (hs : s.kept.ok) :
    nextOk (execRegisterWrite bar fn off wide value s) := by
  unfold execRegisterWrite
  (repeat' split) <;> exact nextOk_next (by simp [hs])

theorem execApertureRead_ok {fn off len : Nat} {s : State} (hs : s.kept.ok) :
    nextOk (execApertureRead fn off len s) := by
  unfold execApertureRead
  exact nextOk_ite (nextOk_ite (nextOk_next (by simp [hs])) (nextOk_next (by simp [hs]))) (nextOk_next hs)

theorem execApertureWrite_ok {fn off len : Nat} {data : BitVec 64} {poison : Bool} {s : State} (hs : s.kept.ok) :
    nextOk (execApertureWrite fn off len data poison s) := by
  unfold execApertureWrite
  (repeat' split) <;> exact nextOk_next (by simp [hs])

theorem execPacketFetch_ok {fn q : Nat} {agree readError : Bool} {s : State} (hs : s.kept.ok) :
    nextOk (execPacketFetch fn q agree readError s) := by
  unfold execPacketFetch
  (repeat' split) <;> exact nextOk_next (by simp [hs])

theorem execPacketReread_ok {fn q : Nat} {agree readError : Bool} {s : State} (hs : s.kept.ok) :
    nextOk (execPacketReread fn q agree readError s) := by
  unfold execPacketReread
  dsimp only
  (repeat' split) <;> exact nextOk_next (by simp [hs])

theorem execCompletionRecord_ok {fn q i : Nat} {s : State} (hs : s.kept.ok) :
    nextOk (execCompletionRecord fn q i s) := by
  unfold execCompletionRecord
  (repeat' split) <;> exact nextOk_next (by simp [hs])

theorem execPacketStart_ok {fn q : Nat} {s : State} (hs : s.kept.ok) :
    nextOk (execPacketStart fn q s) := by
  unfold execPacketStart
  dsimp only
  (repeat' split) <;> exact nextOk_next (by simp [hs])

theorem execLaunchPacket_ok {fn q i : Nat} {s : State} (hs : s.kept.ok) :
    nextOk (execLaunchPacket fn q i s) := by
  unfold execLaunchPacket
  (repeat' split) <;> exact nextOk_next (by simp [hs])

theorem execMemoryCopy_ok {fn q i : Nat} {s : State} (hs : s.kept.ok) :
    nextOk (execMemoryCopy fn q i s) := by
  unfold execMemoryCopy
  exact nextOk_next (by simp [hs])

theorem execMemoryFill_ok {fn q i : Nat} {s : State} (hs : s.kept.ok) :
    nextOk (execMemoryFill fn q i s) := by
  unfold execMemoryFill
  exact nextOk_next (by simp [hs])

theorem execFencePacket_ok {fn q i : Nat} {s : State} (hs : s.kept.ok) :
    nextOk (execFencePacket fn q i s) := by
  unfold execFencePacket
  (repeat' split) <;> exact nextOk_next (by simp [hs])

theorem execFencePoll_ok {fn q i : Nat} {s : State} (hs : s.kept.ok) :
    nextOk (execFencePoll fn q i s) := by
  unfold execFencePoll
  (repeat' split) <;> exact nextOk_next (by simp [hs])

theorem execLoadGraphPacket_ok {fn q i : Nat} {s : State} (hs : s.kept.ok) :
    nextOk (execLoadGraphPacket fn q i s) := by
  unfold execLoadGraphPacket
  dsimp only
  (repeat' split) <;> exact nextOk_next (by simp [hs])

theorem execFreezePacket_ok {fn q i : Nat} {s : State} (hs : s.kept.ok) :
    nextOk (execFreezePacket fn q i s) := by
  unfold execFreezePacket
  split
  · exact nextOk_next hs
  · dsimp only
    refine nextOk_ite (nextOk_next hs) (nextOk_ite ?_ (nextOk_ite ?_ (nextOk_ite ?_ ?_)))
    · exact nextOk_ite (nextOk_next hs) (nextOk_next (by simp [hs]))
    · exact nextOk_next (by simp [hs])
    · exact nextOk_next (by simp [hs])
    · exact nextOk_next (State.finishFreeze_ok _ _ (State.ok_fold _ (fun s c h => State.writeBack_ok _ _ h) _ _ hs))

theorem execResumePacket_ok {fn q i : Nat} {s : State} (hs : s.kept.ok) :
    nextOk (execResumePacket fn q i s) := by
  unfold execResumePacket
  dsimp only
  (repeat' split) <;> exact nextOk_next (by simp [hs])

theorem execPools_ok {s : State} (hs : s.kept.ok) :
    nextOk (execPools s) := by
  unfold execPools
  exact nextOk_next (State.serve_ok _ _ _ _ (fun h => by simpa using h) hs)

theorem execSetPriority_ok {s : State} (hs : s.kept.ok) :
    nextOk (execSetPriority s) := by
  unfold execSetPriority
  exact nextOk_next (State.serve_ok _ _ _ _ (fun h => by simpa using h) hs)

theorem execSetQuantum_ok {s : State} (hs : s.kept.ok) :
    nextOk (execSetQuantum s) := by
  unfold execSetQuantum
  exact nextOk_next (State.serve_ok _ _ _ _ (fun h => by simpa using h) hs)

theorem execSetWatermark_ok {s : State} (hs : s.kept.ok) :
    nextOk (execSetWatermark s) := by
  unfold execSetWatermark
  exact nextOk_next (State.serve_ok _ _ _ _ (fun h => by simpa using h) hs)

theorem execAttest_ok {s : State} (hs : s.kept.ok) :
    nextOk (execAttest s) := by
  unfold execAttest
  exact nextOk_next (State.serve_ok _ _ _ _ (fun h => by simpa using h) hs)

theorem execFlashWrite_ok {s : State} (hs : s.kept.ok) :
    nextOk (execFlashWrite s) := by
  unfold execFlashWrite
  exact nextOk_next (State.serve_ok _ _ _ _ (fun h => State.ok_flash h (Memory.wf_putBytes _ _ (State.ok_flashWf h))) hs)

theorem execOrphans_ok {s : State} (hs : s.kept.ok) :
    nextOk (execOrphans s) := by
  unfold execOrphans
  exact nextOk_next (State.serve_ok _ _ _ _ (fun h => by simpa using h) hs)

theorem execPackageReset_ok {s : State} (hs : s.kept.ok) :
    nextOk (execPackageReset s) := by
  unfold execPackageReset
  exact nextOk_next (by simp [hs])

theorem execHardwareError_ok {e : HwError} {s : State} (hs : s.kept.ok) :
    nextOk (execHardwareError e s) := by
  unfold execHardwareError
  split
  · exact nextOk_next (by simp [hs])
  · refine nextOk_ite (nextOk_next ?_) (nextOk_next hs)
    rw [State.healthEvent_kept]
    exact State.ok_mem hs (Memory.wf_store _ _ _ _ (State.ok_memWf hs))
  · refine nextOk_next ?_
    rw [State.reportError_kept, State.healthEvent_kept]
    exact State.ok_scratch hs (Memory.wf_store _ _ _ _ (State.ok_scratchWf hs))
  · dsimp only
    split
    · exact nextOk_next hs
    · exact nextOk_ite (nextOk_next hs) (nextOk_next (by simp [hs]))
  · exact nextOk_ite (nextOk_next (by simp [hs])) (nextOk_next hs)
  · exact nextOk_next (by simp [hs])
  · split
    · exact nextOk_next hs
    · refine nextOk_next ?_
      rw [State.reportError_kept, State.healthEvent_kept]
      split
      · exact hs
      · simp [hs]
  · exact nextOk_next (by simp [hs])
  · exact nextOk_next (by simp [hs])
  · refine nextOk_ite (nextOk_next hs) (nextOk_next ?_)
    rw [State.reportError_kept, State.healthEvent_kept, State.loadDesc_kept]
    exact hs
  · exact nextOk_next (by simp [hs])
  · exact nextOk_next (by simp [hs])
  · exact nextOk_next (by simp [hs])
  · exact nextOk_next (by simp [hs])

theorem execDegradedExit_ok {s : State} (hs : s.kept.ok) :
    nextOk (execDegradedExit s) := by
  unfold execDegradedExit
  dsimp only
  (repeat' split) <;> exact nextOk_next (by simp [hs])

theorem execTorusProtocolError_ok {site kind : Nat} {s : State} (hs : s.kept.ok) :
    nextOk (execTorusProtocolError site kind s) := by
  unfold execTorusProtocolError
  (repeat' split) <;> exact nextOk_next (by simp [hs])

theorem execDroopDetect_ok {die : Nat} {s : State} (hs : s.kept.ok) :
    nextOk (execDroopDetect die s) := by
  unfold execDroopDetect
  dsimp only
  (repeat' split) <;> exact nextOk_next (by simp [hs])

theorem execDroopRecovery_ok {die : Nat} {s : State} (hs : s.kept.ok) :
    nextOk (execDroopRecovery die s) := by
  unfold execDroopRecovery
  exact nextOk_next (by simp [hs])

theorem execPowerLimitStep_ok {die : Nat} {up : Bool} {s : State} (hs : s.kept.ok) :
    nextOk (execPowerLimitStep die up s) := by
  unfold execPowerLimitStep
  dsimp only
  (repeat' split) <;> exact nextOk_next (by simp [hs])

theorem execPageEviction_ok {ctx host : Nat} {s : State} (hs : s.kept.ok) :
    nextOk (execPageEviction ctx host s) := by
  unfold execPageEviction
  refine nextOk_ite (nextOk_next hs) ?_
  split
  · exact nextOk_next hs
  · refine nextOk_ite (nextOk_next hs) (nextOk_next ?_)
    have h (v : Nat) (a : Nat) := State.physStore_ok s a 8 v false hs
    refine State.ok_host (s := { s.physStore _ 8 _ false with tlb := _ }) (h _ _) (Memory.wf_blit _ _ _ (State.ok_hostWf (h _ _)) (State.ok_memWf (h _ _)))

end Sys2Proof.Machine
end

