-- ==== Sys2Proof/Laws/Executes.lean ====
section
/-! SUPPORT. What an instruction word answers where an instance executes it, and what moving past its words leaves of
the instance. -/

namespace Sys2Proof.Machine

/-! ### The instance moved past its words -/

@[simp] theorem Inst.past_getS (i : Inst) (c : Cur) (r : Reg) : (i.past c).getS r = i.getS r := rfl
@[simp] theorem Inst.past_getV (i : Inst) (c : Cur) (r : Reg) : (i.past c).getV r = i.getV r := rfl
@[simp] theorem Inst.past_getM (i : Inst) (c : Cur) (r : MReg) : (i.past c).getM r = i.getM r := rfl
@[simp] theorem Inst.past_getF (i : Inst) (c : Cur) (t : FloatTy) (r : Reg) : (i.past c).getF t r = i.getF t r := rfl
@[simp] theorem Inst.past_site (i : Inst) (c : Cur) : (i.past c).site = i.site := rfl
@[simp] theorem Inst.past_runner (i : Inst) (c : Cur) : (i.past c).runner = i.runner := rfl
@[simp] theorem Inst.past_key (i : Inst) (c : Cur) : (i.past c).key = i.key := rfl
@[simp] theorem Inst.past_nEff (i : Inst) (c : Cur) : (i.past c).nEff = i.nEff := rfl
@[simp] theorem Inst.past_effects (i : Inst) (c : Cur) : (i.past c).effects = i.effects := rfl
@[simp] theorem Inst.past_flags (i : Inst) (c : Cur) : (i.past c).flags = i.flags := rfl
@[simp] theorem Inst.past_phase (i : Inst) (c : Cur) : (i.past c).phase = i.phase := rfl
@[simp] theorem Inst.past_dyn (i : Inst) (c : Cur) : (i.past c).dyn = i.dyn + 1 := rfl
@[simp] theorem State.frameOf_past (s : State) (i : Inst) (c : Cur) : s.frameOf (i.past c) = s.frameOf i := rfl

/-! ### The answer of a meaning -/

theorem liftS_ok {s s' : State} {c : Cur} {i j : Inst} {f : State → Inst → Cur → State × Except Trap Inst}
    (h : s.executes c i) (hf : f s (i.past c) c = (s', .ok j)) : liftS f s = .next (s'.putInst j) := by
  simp only [liftS, h.1, h.2, hf]

theorem liftS_error {s s' : State} {c : Cur} {i : Inst} {t : Trap} {f : State → Inst → Cur → State × Except Trap Inst}
    (h : s.executes c i) (hf : f s (i.past c) c = (s', .error t)) : liftS f s = .next (s'.takeFault i (c.at_ i) t) := by
  simp only [liftS, h.1, h.2, hf]

theorem lift_ok {s : State} {c : Cur} {i j : Inst} {f : State → Inst → Cur → Except Trap Inst}
    (h : s.executes c i) (hf : f s (i.past c) c = .ok j) : lift f s = .next (s.putInst j) :=
  liftS_ok h (by simp only [hf])

theorem lift_error {s : State} {c : Cur} {i : Inst} {t : Trap} {f : State → Inst → Cur → Except Trap Inst}
    (h : s.executes c i) (hf : f s (i.past c) c = .error t) : lift f s = .next (s.takeFault i (c.at_ i) t) :=
  liftS_error h (by simp only [hf])

theorem liftBoth_ok {s s' : State} {c : Cur} {i j : Inst} {f : State → Inst → Cur → Except Trap (State × Inst)}
    (h : s.executes c i) (hf : f s (i.past c) c = .ok (s', j)) : liftBoth f s = .next (s'.putInst j) :=
  liftS_ok h (by simp only [hf])

theorem liftBoth_error {s : State} {c : Cur} {i : Inst} {t : Trap} {f : State → Inst → Cur → Except Trap (State × Inst)}
    (h : s.executes c i) (hf : f s (i.past c) c = .error t) : liftBoth f s = .next (s.takeFault i (c.at_ i) t) :=
  liftS_error h (by simp only [hf])

theorem liftPure_ok {s : State} {c : Cur} {i : Inst} {f : Inst → Inst} (h : s.executes c i) :
    liftPure f s = .next (s.putInst (f (i.past c))) := lift_ok h rfl

theorem execFin_ok {s : State} {c : Cur} {i : Inst} (h : s.executes c i) : execFin s = .next (s.finishRun (i.past c)) := by
  simp only [execFin, h.1, h.2]

/-! ### The three forms of a statement about a word -/

theorem Runs.of_pure {w : Instr} {f : Inst → Inst} (h : ∀ s, Sys2Proof.Machine.exec w s = liftPure f s) : Runs w f :=
  fun s _ _ hx => (h s).trans (liftPure_ok hx)

theorem RunsWhen.of_lift {w : Instr} {p : State → Inst → Prop} {f : State → Cur → Inst → Inst}
    {g : State → Inst → Cur → Except Trap Inst} (h : ∀ s, Sys2Proof.Machine.exec w s = lift g s)
    (hg : ∀ s c i, p s i → g s (i.past c) c = .ok (f s c (i.past c))) : RunsWhen w p f :=
  fun s c i hx hp => (h s).trans (lift_ok hx (hg s c i hp))

theorem RunsWhen.of_liftS {w : Instr} {p : State → Inst → Prop} {f : State → Cur → Inst → Inst}
    {g : State → Inst → Cur → State × Except Trap Inst} (h : ∀ s, Sys2Proof.Machine.exec w s = liftS g s)
    (hg : ∀ s c i, p s i → g s (i.past c) c = (s, .ok (f s c (i.past c)))) : RunsWhen w p f :=
  fun s c i hx hp => (h s).trans (liftS_ok hx (hg s c i hp))

theorem Traps.of_lift {w : Instr} {p : State → Inst → Prop} {t : State → Inst → Trap}
    {g : State → Inst → Cur → Except Trap Inst} (h : ∀ s, Sys2Proof.Machine.exec w s = lift g s)
    (hg : ∀ s c i, p s i → g s (i.past c) c = .error (t s i)) : Traps w p t :=
  fun s c i hx hp => (h s).trans (lift_error hx (hg s c i hp))

theorem Traps.of_liftS {w : Instr} {p : State → Inst → Prop} {t : State → Inst → Trap}
    {g : State → Inst → Cur → State × Except Trap Inst} (h : ∀ s, Sys2Proof.Machine.exec w s = liftS g s)
    (hg : ∀ s c i, p s i → g s (i.past c) c = (s, .error (t s i))) : Traps w p t :=
  fun s c i hx hp => (h s).trans (liftS_error hx (hg s c i hp))

/-- A pending effect within the bound of 32. -/
theorem Inst.effect_ok {i : Inst} {e : EffBody} {n : Nat} (h : i.nEff + n ≤ 32) :
    i.effect e n = .ok { i with nEff := i.nEff + n, effects := i.effects ++ [e] } := by
  rw [Inst.effect, if_neg (by omega)]

/-- One beyond it. -/
theorem Inst.effect_error {i : Inst} {e : EffBody} {n : Nat} (h : 32 < i.nEff + n) :
    i.effect e n = .error { cause := .effectBudget } := by
  rw [Inst.effect, if_pos h]

end Sys2Proof.Machine
end

