-- ==== Sys2Proof/Laws/PerInstr.lean ====
section
/-! SUPPORT. The family RoundTrip: the words of every well-formed instruction read back as that instruction; a constructor that
no word names has none. -/

namespace Sys2Proof.Laws.RoundTrip

/-- A well-formed instruction's words read back as it. -/
def Statement (i : Instr) : Prop := i.wf = true → readsBack (encode i) i

theorem add (d : Reg) (a : Reg) (b : Reg) : Statement (.add d a b) := fun h =>
  readsBack_head (by simp) h (by simp [decodeHead, dec01, guarded])
theorem sub (d : Reg) (a : Reg) (b : Reg) : Statement (.sub d a b) := fun h =>
  readsBack_head (by simp) h (by simp [decodeHead, dec01, guarded])
theorem mul (d : Reg) (a : Reg) (b : Reg) : Statement (.mul d a b) := fun h =>
  readsBack_head (by simp) h (by simp [decodeHead, dec01, guarded])
theorem mulhI64 (d : Reg) (a : Reg) (b : Reg) : Statement (.mulhI64 d a b) := fun h =>
  readsBack_head (by simp) h (by simp [decodeHead, dec01, guarded])
theorem mulhN64 (d : Reg) (a : Reg) (b : Reg) : Statement (.mulhN64 d a b) := fun h =>
  readsBack_head (by simp) h (by simp [decodeHead, dec01, guarded])
theorem divI64 (d : Reg) (a : Reg) (b : Reg) : Statement (.divI64 d a b) := fun h =>
  readsBack_head (by simp) h (by simp [decodeHead, dec01, guarded])
theorem divN64 (d : Reg) (a : Reg) (b : Reg) : Statement (.divN64 d a b) := fun h =>
  readsBack_head (by simp) h (by simp [decodeHead, dec01, guarded])
theorem remI64 (d : Reg) (a : Reg) (b : Reg) : Statement (.remI64 d a b) := fun h =>
  readsBack_head (by simp) h (by simp [decodeHead, dec01, guarded])
theorem remN64 (d : Reg) (a : Reg) (b : Reg) : Statement (.remN64 d a b) := fun h =>
  readsBack_head (by simp) h (by simp [decodeHead, dec01, guarded])
theorem and (d : Reg) (a : Reg) (b : Reg) : Statement (.and d a b) := fun h =>
  readsBack_head (by simp) h (by simp [decodeHead, dec01, guarded])
theorem or (d : Reg) (a : Reg) (b : Reg) : Statement (.or d a b) := fun h =>
  readsBack_head (by simp) h (by simp [decodeHead, dec01, guarded])
theorem xor (d : Reg) (a : Reg) (b : Reg) : Statement (.xor d a b) := fun h =>
  readsBack_head (by simp) h (by simp [decodeHead, dec01, guarded])
theorem andn (d : Reg) (a : Reg) (b : Reg) : Statement (.andn d a b) := fun h =>
  readsBack_head (by simp) h (by simp [decodeHead, dec01, guarded])
theorem shl (d : Reg) (a : Reg) (b : Reg) : Statement (.shl d a b) := fun h =>
  readsBack_head (by simp) h (by simp [decodeHead, dec01, guarded])
theorem shr (d : Reg) (a : Reg) (b : Reg) : Statement (.shr d a b) := fun h =>
  readsBack_head (by simp) h (by simp [decodeHead, dec01, guarded])
theorem sra (d : Reg) (a : Reg) (b : Reg) : Statement (.sra d a b) := fun h =>
  readsBack_head (by simp) h (by simp [decodeHead, dec01, guarded])
theorem rol (d : Reg) (a : Reg) (b : Reg) : Statement (.rol d a b) := fun h =>
  readsBack_head (by simp) h (by simp [decodeHead, dec01, guarded])
theorem ror (d : Reg) (a : Reg) (b : Reg) : Statement (.ror d a b) := fun h =>
  readsBack_head (by simp) h (by simp [decodeHead, dec01, guarded])
theorem clz (d : Reg) (a : Reg) : Statement (.clz d a) := fun h =>
  readsBack_head (by simp) h (by simp [decodeHead, dec01, guarded])
theorem ctz (d : Reg) (a : Reg) : Statement (.ctz d a) := fun h =>
  readsBack_head (by simp) h (by simp [decodeHead, dec01, guarded])
theorem popc (d : Reg) (a : Reg) : Statement (.popc d a) := fun h =>
  readsBack_head (by simp) h (by simp [decodeHead, dec01, guarded])
theorem minI64 (d : Reg) (a : Reg) (b : Reg) : Statement (.minI64 d a b) := fun h =>
  readsBack_head (by simp) h (by simp [decodeHead, dec01, guarded])
theorem maxI64 (d : Reg) (a : Reg) (b : Reg) : Statement (.maxI64 d a b) := fun h =>
  readsBack_head (by simp) h (by simp [decodeHead, dec01, guarded])
theorem minN64 (d : Reg) (a : Reg) (b : Reg) : Statement (.minN64 d a b) := fun h =>
  readsBack_head (by simp) h (by simp [decodeHead, dec01, guarded])
theorem maxN64 (d : Reg) (a : Reg) (b : Reg) : Statement (.maxN64 d a b) := fun h =>
  readsBack_head (by simp) h (by simp [decodeHead, dec01, guarded])
theorem sel (d : Reg) (a : Reg) (b : Reg) (c : Reg) : Statement (.sel d a b c) := fun h =>
  readsBack_head (by simp) h (by simp [decodeHead, dec01, guarded])
theorem clmul (d : Reg) (a : Reg) (b : Reg) : Statement (.clmul d a b) := fun h =>
  readsBack_head (by simp) h (by simp [decodeHead, dec01, guarded])
theorem clmulh (d : Reg) (a : Reg) (b : Reg) : Statement (.clmulh d a b) := fun h =>
  readsBack_head (by simp) h (by simp [decodeHead, dec01, guarded])
theorem bgat (d : Reg) (a : Reg) (b : Reg) : Statement (.bgat d a b) := fun h =>
  readsBack_head (by simp) h (by simp [decodeHead, dec01, guarded])
theorem bsct (d : Reg) (a : Reg) (b : Reg) : Statement (.bsct d a b) := fun h =>
  readsBack_head (by simp) h (by simp [decodeHead, dec01, guarded])
theorem madd (d : Reg) (a : Reg) (b : Reg) (c : Reg) : Statement (.madd d a b c) := fun h =>
  readsBack_head (by simp) h (by simp [decodeHead, dec01, guarded])
theorem msub (d : Reg) (a : Reg) (b : Reg) (c : Reg) : Statement (.msub d a b c) := fun h =>
  readsBack_head (by simp) h (by simp [decodeHead, dec01, guarded])
theorem sltI64 (d : Reg) (a : Reg) (b : Reg) : Statement (.sltI64 d a b) := fun h =>
  readsBack_head (by simp) h (by simp [decodeHead, dec02, guarded])
theorem sltN64 (d : Reg) (a : Reg) (b : Reg) : Statement (.sltN64 d a b) := fun h =>
  readsBack_head (by simp) h (by simp [decodeHead, dec02, guarded])
theorem seq (d : Reg) (a : Reg) (b : Reg) : Statement (.seq d a b) := fun h =>
  readsBack_head (by simp) h (by simp [decodeHead, dec02, guarded])
theorem sne (d : Reg) (a : Reg) (b : Reg) : Statement (.sne d a b) := fun h =>
  readsBack_head (by simp) h (by simp [decodeHead, dec02, guarded])
theorem extdI8 (d : Reg) (a : Reg) : Statement (.extdI8 d a) := fun h =>
  readsBack_head (by simp) h (by simp [decodeHead, dec02, guarded])
theorem extdI16 (d : Reg) (a : Reg) : Statement (.extdI16 d a) := fun h =>
  readsBack_head (by simp) h (by simp [decodeHead, dec02, guarded])
theorem extdI32 (d : Reg) (a : Reg) : Statement (.extdI32 d a) := fun h =>
  readsBack_head (by simp) h (by simp [decodeHead, dec02, guarded])
theorem extdN8 (d : Reg) (a : Reg) : Statement (.extdN8 d a) := fun h =>
  readsBack_head (by simp) h (by simp [decodeHead, dec02, guarded])
theorem extdN16 (d : Reg) (a : Reg) : Statement (.extdN16 d a) := fun h =>
  readsBack_head (by simp) h (by simp [decodeHead, dec02, guarded])
theorem extdN32 (d : Reg) (a : Reg) : Statement (.extdN32 d a) := fun h =>
  readsBack_head (by simp) h (by simp [decodeHead, dec02, guarded])
theorem bswap (d : Reg) (a : Reg) : Statement (.bswap d a) := fun h =>
  readsBack_head (by simp) h (by simp [decodeHead, dec02, guarded])
theorem addImm (d : Reg) (a : Reg) (i : BitVec 27) : Statement (.addImm d a i) := fun h =>
  readsBack_imm27 (by simp) (by simp) h (by intro long p y hp hx; subst hx; simp [decodeHead, dec03, guarded, hp])
theorem andImm (d : Reg) (a : Reg) (i : BitVec 27) : Statement (.andImm d a i) := fun h =>
  readsBack_imm27 (by simp) (by simp) h (by intro long p y hp hx; subst hx; simp [decodeHead, dec03, guarded, hp])
theorem orImm (d : Reg) (a : Reg) (i : BitVec 27) : Statement (.orImm d a i) := fun h =>
  readsBack_imm27 (by simp) (by simp) h (by intro long p y hp hx; subst hx; simp [decodeHead, dec03, guarded, hp])
theorem xorImm (d : Reg) (a : Reg) (i : BitVec 27) : Statement (.xorImm d a i) := fun h =>
  readsBack_imm27 (by simp) (by simp) h (by intro long p y hp hx; subst hx; simp [decodeHead, dec03, guarded, hp])
theorem shlImm (d : Reg) (a : Reg) (i : BitVec 27) : Statement (.shlImm d a i) := fun h =>
  readsBack_imm27 (by simp) (by simp) h (by intro long p y hp hx; subst hx; simp [decodeHead, dec03, guarded, hp])
theorem shrImm (d : Reg) (a : Reg) (i : BitVec 27) : Statement (.shrImm d a i) := fun h =>
  readsBack_imm27 (by simp) (by simp) h (by intro long p y hp hx; subst hx; simp [decodeHead, dec03, guarded, hp])
theorem sraImm (d : Reg) (a : Reg) (i : BitVec 27) : Statement (.sraImm d a i) := fun h =>
  readsBack_imm27 (by simp) (by simp) h (by intro long p y hp hx; subst hx; simp [decodeHead, dec03, guarded, hp])
theorem rorImm (d : Reg) (a : Reg) (i : BitVec 27) : Statement (.rorImm d a i) := fun h =>
  readsBack_imm27 (by simp) (by simp) h (by intro long p y hp hx; subst hx; simp [decodeHead, dec03, guarded, hp])
theorem sltI64Imm (d : Reg) (a : Reg) (i : BitVec 27) : Statement (.sltI64Imm d a i) := fun h =>
  readsBack_imm27 (by simp) (by simp) h (by intro long p y hp hx; subst hx; simp [decodeHead, dec04, guarded, hp])
theorem sltN64Imm (d : Reg) (a : Reg) (i : BitVec 27) : Statement (.sltN64Imm d a i) := fun h =>
  readsBack_imm27 (by simp) (by simp) h (by intro long p y hp hx; subst hx; simp [decodeHead, dec04, guarded, hp])
theorem seqImm (d : Reg) (a : Reg) (i : BitVec 27) : Statement (.seqImm d a i) := fun h =>
  readsBack_imm27 (by simp) (by simp) h (by intro long p y hp hx; subst hx; simp [decodeHead, dec04, guarded, hp])
theorem sneImm (d : Reg) (a : Reg) (i : BitVec 27) : Statement (.sneImm d a i) := fun h =>
  readsBack_imm27 (by simp) (by simp) h (by intro long p y hp hx; subst hx; simp [decodeHead, dec04, guarded, hp])
theorem mulImm (d : Reg) (a : Reg) (i : BitVec 27) : Statement (.mulImm d a i) := fun h =>
  readsBack_imm27 (by simp) (by simp) h (by intro long p y hp hx; subst hx; simp [decodeHead, dec04, guarded, hp])
theorem minI64Imm (d : Reg) (a : Reg) (i : BitVec 27) : Statement (.minI64Imm d a i) := fun h =>
  readsBack_imm27 (by simp) (by simp) h (by intro long p y hp hx; subst hx; simp [decodeHead, dec04, guarded, hp])
theorem maxI64Imm (d : Reg) (a : Reg) (i : BitVec 27) : Statement (.maxI64Imm d a i) := fun h =>
  readsBack_imm27 (by simp) (by simp) h (by intro long p y hp hx; subst hx; simp [decodeHead, dec04, guarded, hp])
theorem movi (d : Reg) (i : BitVec 35) : Statement (.movi d i) := fun h =>
  readsBack_imm35 (by simp) (by simp) h (by intro long p y hp hx; subst hx; simp [decodeHead, dec05, guarded, hp])
theorem movh (d : Reg) (i : BitVec 35) : Statement (.movh d i) := fun h =>
  readsBack_imm35 (by simp) (by simp) h (by intro long p y hp hx; subst hx; simp [decodeHead, dec06, guarded, hp])
theorem rds (d : Reg) (x : Special) : Statement (.rds d x) := fun h =>
  readsBack_head (by simp) h (by simp [decodeHead, dec07, guarded])
theorem fadd (d : Reg) (a : Reg) (b : Reg) (r : Round) (f : FloatTy) : Statement (.fadd d a b r f) := fun h =>
  readsBack_head (by simp) h (by simp [decodeHead, dec08, guarded])
theorem fsub (d : Reg) (a : Reg) (b : Reg) (r : Round) (f : FloatTy) : Statement (.fsub d a b r f) := fun h =>
  readsBack_head (by simp) h (by simp [decodeHead, dec08, guarded])
theorem fmul (d : Reg) (a : Reg) (b : Reg) (r : Round) (f : FloatTy) : Statement (.fmul d a b r f) := fun h =>
  readsBack_head (by simp) h (by simp [decodeHead, dec08, guarded])
theorem fdiv (d : Reg) (a : Reg) (b : Reg) (r : Round) (f : FloatTy) : Statement (.fdiv d a b r f) := fun h =>
  readsBack_head (by simp) h (by simp [decodeHead, dec08, guarded])
theorem fsqrt (d : Reg) (a : Reg) (r : Round) (f : FloatTy) : Statement (.fsqrt d a r f) := fun h =>
  readsBack_head (by simp) h (by simp [decodeHead, dec08, guarded])
theorem fma (d : Reg) (a : Reg) (b : Reg) (r : Round) (f : FloatTy) : Statement (.fma d a b r f) := fun h =>
  readsBack_head (by simp) h (by simp [decodeHead, dec08, guarded])
theorem fnma (d : Reg) (a : Reg) (b : Reg) (r : Round) (f : FloatTy) : Statement (.fnma d a b r f) := fun h =>
  readsBack_head (by simp) h (by simp [decodeHead, dec08, guarded])
theorem fmin (d : Reg) (a : Reg) (b : Reg) (f : FloatTy) : Statement (.fmin d a b f) := fun h =>
  readsBack_head (by simp) h (by simp [decodeHead, dec08, guarded])
theorem fmax (d : Reg) (a : Reg) (b : Reg) (f : FloatTy) : Statement (.fmax d a b f) := fun h =>
  readsBack_head (by simp) h (by simp [decodeHead, dec08, guarded])
theorem fceq (d : Reg) (a : Reg) (b : Reg) (f : FloatTy) : Statement (.fceq d a b f) := fun h =>
  readsBack_head (by simp) h (by simp [decodeHead, dec08, guarded])
theorem fclt (d : Reg) (a : Reg) (b : Reg) (f : FloatTy) : Statement (.fclt d a b f) := fun h =>
  readsBack_head (by simp) h (by simp [decodeHead, dec08, guarded])
theorem fcle (d : Reg) (a : Reg) (b : Reg) (f : FloatTy) : Statement (.fcle d a b f) := fun h =>
  readsBack_head (by simp) h (by simp [decodeHead, dec08, guarded])
theorem fcvt (d : Reg) (a : Reg) (x : FloatTy) (r : Round) (f : FloatTy) (sat : Bool) :
    Statement (.fcvt d a x r f sat) := fun h =>
  readsBack_withPfx (by simp) h (by intro long; simp [decodeHead, dec08, guarded, Pfx.only])
theorem fcvti (d : Reg) (a : Reg) (x : IntTy) (r : Round) (f : FloatTy) (sat : Bool) :
    Statement (.fcvti d a x r f sat) := fun h =>
  readsBack_withPfx (by simp) h (by intro long; simp [decodeHead, dec08, guarded, Pfx.only])
theorem icvtf (d : Reg) (a : Reg) (x : IntTy) (r : Round) (f : FloatTy) (sat : Bool) :
    Statement (.icvtf d a x r f sat) := fun h =>
  readsBack_withPfx (by simp) h (by intro long; simp [decodeHead, dec08, guarded, Pfx.only])
theorem fneg (d : Reg) (a : Reg) (f : FloatTy) : Statement (.fneg d a f) := fun h =>
  readsBack_head (by simp) h (by simp [decodeHead, dec08, guarded])
theorem fabs (d : Reg) (a : Reg) (f : FloatTy) : Statement (.fabs d a f) := fun h =>
  readsBack_head (by simp) h (by simp [decodeHead, dec08, guarded])
theorem fsgn (d : Reg) (a : Reg) (b : Reg) (f : FloatTy) : Statement (.fsgn d a b f) := fun h =>
  readsBack_head (by simp) h (by simp [decodeHead, dec08, guarded])
theorem fcls (d : Reg) (a : Reg) (f : FloatTy) : Statement (.fcls d a f) := fun h =>
  readsBack_head (by simp) h (by simp [decodeHead, dec08, guarded])
theorem beq (a : Reg) (b : Reg) (o : BitVec 27) : Statement (.beq a b o) := fun h =>
  readsBack_imm27 (by simp) (by simp) h (by intro long p y hp hx; subst hx; simp [decodeHead, dec09, guarded, hp])
theorem bne (a : Reg) (b : Reg) (o : BitVec 27) : Statement (.bne a b o) := fun h =>
  readsBack_imm27 (by simp) (by simp) h (by intro long p y hp hx; subst hx; simp [decodeHead, dec09, guarded, hp])
theorem bltI64 (a : Reg) (b : Reg) (o : BitVec 27) : Statement (.bltI64 a b o) := fun h =>
  readsBack_imm27 (by simp) (by simp) h (by intro long p y hp hx; subst hx; simp [decodeHead, dec09, guarded, hp])
theorem bgeI64 (a : Reg) (b : Reg) (o : BitVec 27) : Statement (.bgeI64 a b o) := fun h =>
  readsBack_imm27 (by simp) (by simp) h (by intro long p y hp hx; subst hx; simp [decodeHead, dec09, guarded, hp])
theorem bltN64 (a : Reg) (b : Reg) (o : BitVec 27) : Statement (.bltN64 a b o) := fun h =>
  readsBack_imm27 (by simp) (by simp) h (by intro long p y hp hx; subst hx; simp [decodeHead, dec09, guarded, hp])
theorem bgeN64 (a : Reg) (b : Reg) (o : BitVec 27) : Statement (.bgeN64 a b o) := fun h =>
  readsBack_imm27 (by simp) (by simp) h (by intro long p y hp hx; subst hx; simp [decodeHead, dec09, guarded, hp])
theorem bbs (a : Reg) (b : Reg) (o : BitVec 27) : Statement (.bbs a b o) := fun h =>
  readsBack_imm27 (by simp) (by simp) h (by intro long p y hp hx; subst hx; simp [decodeHead, dec09, guarded, hp])
theorem bbc (a : Reg) (b : Reg) (o : BitVec 27) : Statement (.bbc a b o) := fun h =>
  readsBack_imm27 (by simp) (by simp) h (by intro long p y hp hx; subst hx; simp [decodeHead, dec09, guarded, hp])
theorem beqImm (a : Reg) (b : BitVec 5) (o : BitVec 27) : Statement (.beqImm a b o) := fun h =>
  readsBack_imm27 (by simp) (by simp) h (by intro long p y hp hx; subst hx; simp [decodeHead, dec0A, guarded, hp])
theorem bneImm (a : Reg) (b : BitVec 5) (o : BitVec 27) : Statement (.bneImm a b o) := fun h =>
  readsBack_imm27 (by simp) (by simp) h (by intro long p y hp hx; subst hx; simp [decodeHead, dec0A, guarded, hp])
theorem bltI64Imm (a : Reg) (b : BitVec 5) (o : BitVec 27) : Statement (.bltI64Imm a b o) := fun h =>
  readsBack_imm27 (by simp) (by simp) h (by intro long p y hp hx; subst hx; simp [decodeHead, dec0A, guarded, hp])
theorem bgeI64Imm (a : Reg) (b : BitVec 5) (o : BitVec 27) : Statement (.bgeI64Imm a b o) := fun h =>
  readsBack_imm27 (by simp) (by simp) h (by intro long p y hp hx; subst hx; simp [decodeHead, dec0A, guarded, hp])
theorem bltN64Imm (a : Reg) (b : BitVec 5) (o : BitVec 27) : Statement (.bltN64Imm a b o) := fun h =>
  readsBack_imm27 (by simp) (by simp) h (by intro long p y hp hx; subst hx; simp [decodeHead, dec0A, guarded, hp])
theorem bgeN64Imm (a : Reg) (b : BitVec 5) (o : BitVec 27) : Statement (.bgeN64Imm a b o) := fun h =>
  readsBack_imm27 (by simp) (by simp) h (by intro long p y hp hx; subst hx; simp [decodeHead, dec0A, guarded, hp])
theorem bbsImm (a : Reg) (b : BitVec 5) (o : BitVec 27) : Statement (.bbsImm a b o) := fun h =>
  readsBack_imm27 (by simp) (by simp) h (by intro long p y hp hx; subst hx; simp [decodeHead, dec0A, guarded, hp])
theorem bbcImm (a : Reg) (b : BitVec 5) (o : BitVec 27) : Statement (.bbcImm a b o) := fun h =>
  readsBack_imm27 (by simp) (by simp) h (by intro long p y hp hx; subst hx; simp [decodeHead, dec0A, guarded, hp])
theorem j (o : BitVec 35) : Statement (.j o) := fun h =>
  readsBack_imm35 (by simp) (by simp) h (by intro long p y hp hx; subst hx; simp [decodeHead, dec0B, guarded, hp])
theorem jt (a : Reg) (n : BitVec 10) : Statement (.jt a n) := fun h =>
  readsBack_head (by simp) h (by simp [decodeHead, dec0C, guarded])
theorem fld (d : Reg) (a : Reg) (i : BitVec 27) : Statement (.fld d a i) := fun h =>
  readsBack_imm27 (by simp) (by simp) h (by intro long p y hp hx; subst hx; simp [decodeHead, dec10, guarded, hp])
theorem fst (d : Reg) (a : Reg) (i : BitVec 27) : Statement (.fst d a i) := fun h =>
  readsBack_imm27 (by simp) (by simp) h (by intro long p y hp hx; subst hx; simp [decodeHead, dec10, guarded, hp])
theorem fldv (d : Reg) (a : Reg) (i : BitVec 27) : Statement (.fldv d a i) := fun h =>
  readsBack_imm27 (by simp) (by simp) h (by intro long p y hp hx; subst hx; simp [decodeHead, dec10, guarded, hp])
theorem fstv (d : Reg) (a : Reg) (i : BitVec 27) : Statement (.fstv d a i) := fun h =>
  readsBack_imm27 (by simp) (by simp) h (by intro long p y hp hx; subst hx; simp [decodeHead, dec10, guarded, hp])
theorem fldFsw (d : Reg) : Statement (.fldFsw d) := fun h =>
  readsBack_head (by simp) h (by simp [decodeHead, dec10, guarded, Pfx.only, Pfx.zero])
theorem sld (d : Reg) (a : Reg) (t : LoadTy) (i : BitVec 27) : Statement (.sld d a t i) := fun h =>
  readsBack_imm27 (by simp) (by simp) h (by intro long p y hp hx; subst hx; simp [decodeHead, dec11, guarded, hp])
theorem sst (d : Reg) (a : Reg) (t : Size) (i : BitVec 27) : Statement (.sst d a t i) := fun h =>
  readsBack_imm27 (by simp) (by simp) h (by intro long p y hp hx; subst hx; simp [decodeHead, dec12, guarded, hp])
theorem sldv (d : Reg) (a : Reg) (b : Reg) (k : MReg) (t : ElemTy) : Statement (.sldv d a b k t) := fun h =>
  readsBack_head (by simp) h (by simp [decodeHead, dec13, guarded])
theorem sstv (d : Reg) (a : Reg) (b : Reg) (k : MReg) (t : ElemTy) : Statement (.sstv d a b k t) := fun h =>
  readsBack_head (by simp) h (by simp [decodeHead, dec13, guarded])
theorem sldx (d : Reg) (a : Reg) (b : Reg) (k : MReg) (t : ElemTy) : Statement (.sldx d a b k t) := fun h =>
  readsBack_head (by simp) h (by simp [decodeHead, dec13, guarded])
theorem sstx (d : Reg) (a : Reg) (b : Reg) (k : MReg) (t : ElemTy) : Statement (.sstx d a b k t) := fun h =>
  readsBack_head (by simp) h (by simp [decodeHead, dec13, guarded])
theorem samoAdd (d : Reg) (a : Reg) (b : Reg) (w : Bool) : Statement (.samoAdd d a b w) := fun h =>
  readsBack_head (by simp) h (by cases w <;> simp [decodeHead, dec14, guarded, bitOf])
theorem samoAnd (d : Reg) (a : Reg) (b : Reg) (w : Bool) : Statement (.samoAnd d a b w) := fun h =>
  readsBack_head (by simp) h (by cases w <;> simp [decodeHead, dec14, guarded, bitOf])
theorem samoOr (d : Reg) (a : Reg) (b : Reg) (w : Bool) : Statement (.samoOr d a b w) := fun h =>
  readsBack_head (by simp) h (by cases w <;> simp [decodeHead, dec14, guarded, bitOf])
theorem samoXor (d : Reg) (a : Reg) (b : Reg) (w : Bool) : Statement (.samoXor d a b w) := fun h =>
  readsBack_head (by simp) h (by cases w <;> simp [decodeHead, dec14, guarded, bitOf])
theorem samoMin (d : Reg) (a : Reg) (b : Reg) (w : Bool) (u : Bool) : Statement (.samoMin d a b w u) := fun h =>
  readsBack_head (by simp) h (by cases w <;> cases u <;> simp [decodeHead, dec14, guarded, bitOf])
theorem samoMax (d : Reg) (a : Reg) (b : Reg) (w : Bool) (u : Bool) : Statement (.samoMax d a b w u) := fun h =>
  readsBack_head (by simp) h (by cases w <;> cases u <;> simp [decodeHead, dec14, guarded, bitOf])
theorem samoSwap (d : Reg) (a : Reg) (b : Reg) (w : Bool) : Statement (.samoSwap d a b w) := fun h =>
  readsBack_head (by simp) h (by cases w <;> simp [decodeHead, dec14, guarded, bitOf])
theorem samoCas (d : Reg) (a : Reg) (b : Reg) (c : Reg) (w : Bool) : Statement (.samoCas d a b c w) := fun h =>
  readsBack_head (by simp) h (by cases w <;> simp [decodeHead, dec14, guarded, bitOf])
theorem vadd (d : Reg) (a : Reg) (b : Reg) (k : MReg) (t : IntTy) (z : Bool) : Statement (.vadd d a b k t z) := fun h =>
  readsBack_withPfx (by simp) h (by intro long; simp [decodeHead, dec18, guarded, Pfx.only])
theorem vsub (d : Reg) (a : Reg) (b : Reg) (k : MReg) (t : IntTy) (z : Bool) : Statement (.vsub d a b k t z) := fun h =>
  readsBack_withPfx (by simp) h (by intro long; simp [decodeHead, dec18, guarded, Pfx.only])
theorem vmul (d : Reg) (a : Reg) (b : Reg) (k : MReg) (t : IntTy) (z : Bool) : Statement (.vmul d a b k t z) := fun h =>
  readsBack_withPfx (by simp) h (by intro long; simp [decodeHead, dec18, guarded, Pfx.only])
theorem vmulh (d : Reg) (a : Reg) (b : Reg) (k : MReg) (t : IntTy) (z : Bool) :
    Statement (.vmulh d a b k t z) := fun h =>
  readsBack_withPfx (by simp) h (by intro long; simp [decodeHead, dec18, guarded, Pfx.only])
theorem vmin (d : Reg) (a : Reg) (b : Reg) (k : MReg) (t : IntTy) (z : Bool) : Statement (.vmin d a b k t z) := fun h =>
  readsBack_withPfx (by simp) h (by intro long; simp [decodeHead, dec18, guarded, Pfx.only])
theorem vmax (d : Reg) (a : Reg) (b : Reg) (k : MReg) (t : IntTy) (z : Bool) : Statement (.vmax d a b k t z) := fun h =>
  readsBack_withPfx (by simp) h (by intro long; simp [decodeHead, dec18, guarded, Pfx.only])
theorem vadds (d : Reg) (a : Reg) (b : Reg) (k : MReg) (t : IntTy) (z : Bool) :
    Statement (.vadds d a b k t z) := fun h =>
  readsBack_withPfx (by simp) h (by intro long; simp [decodeHead, dec18, guarded, Pfx.only])
theorem vsubs (d : Reg) (a : Reg) (b : Reg) (k : MReg) (t : IntTy) (z : Bool) :
    Statement (.vsubs d a b k t z) := fun h =>
  readsBack_withPfx (by simp) h (by intro long; simp [decodeHead, dec18, guarded, Pfx.only])
theorem vaddScalar (d : Reg) (a : Reg) (b : Reg) (k : MReg) (t : IntTy) (z : Bool) :
    Statement (.vaddScalar d a b k t z) := fun h =>
  readsBack_withPfx (by simp) h (by intro long; simp [decodeHead, dec1B, guarded, Pfx.only])
theorem vsubScalar (d : Reg) (a : Reg) (b : Reg) (k : MReg) (t : IntTy) (z : Bool) :
    Statement (.vsubScalar d a b k t z) := fun h =>
  readsBack_withPfx (by simp) h (by intro long; simp [decodeHead, dec1B, guarded, Pfx.only])
theorem vmulScalar (d : Reg) (a : Reg) (b : Reg) (k : MReg) (t : IntTy) (z : Bool) :
    Statement (.vmulScalar d a b k t z) := fun h =>
  readsBack_withPfx (by simp) h (by intro long; simp [decodeHead, dec1B, guarded, Pfx.only])
theorem vmulhScalar (d : Reg) (a : Reg) (b : Reg) (k : MReg) (t : IntTy) (z : Bool) :
    Statement (.vmulhScalar d a b k t z) := fun h =>
  readsBack_withPfx (by simp) h (by intro long; simp [decodeHead, dec1B, guarded, Pfx.only])
theorem vminScalar (d : Reg) (a : Reg) (b : Reg) (k : MReg) (t : IntTy) (z : Bool) :
    Statement (.vminScalar d a b k t z) := fun h =>
  readsBack_withPfx (by simp) h (by intro long; simp [decodeHead, dec1B, guarded, Pfx.only])
theorem vmaxScalar (d : Reg) (a : Reg) (b : Reg) (k : MReg) (t : IntTy) (z : Bool) :
    Statement (.vmaxScalar d a b k t z) := fun h =>
  readsBack_withPfx (by simp) h (by intro long; simp [decodeHead, dec1B, guarded, Pfx.only])
theorem vaddsScalar (d : Reg) (a : Reg) (b : Reg) (k : MReg) (t : IntTy) (z : Bool) :
    Statement (.vaddsScalar d a b k t z) := fun h =>
  readsBack_withPfx (by simp) h (by intro long; simp [decodeHead, dec1B, guarded, Pfx.only])
theorem vsubsScalar (d : Reg) (a : Reg) (b : Reg) (k : MReg) (t : IntTy) (z : Bool) :
    Statement (.vsubsScalar d a b k t z) := fun h =>
  readsBack_withPfx (by simp) h (by intro long; simp [decodeHead, dec1B, guarded, Pfx.only])
theorem vand (d : Reg) (a : Reg) (b : Reg) (k : MReg) (t : IntTy) (z : Bool) : Statement (.vand d a b k t z) := fun h =>
  readsBack_withPfx (by simp) h (by intro long; simp [decodeHead, dec19, guarded, Pfx.only])
theorem vor (d : Reg) (a : Reg) (b : Reg) (k : MReg) (t : IntTy) (z : Bool) : Statement (.vor d a b k t z) := fun h =>
  readsBack_withPfx (by simp) h (by intro long; simp [decodeHead, dec19, guarded, Pfx.only])
theorem vxor (d : Reg) (a : Reg) (b : Reg) (k : MReg) (t : IntTy) (z : Bool) : Statement (.vxor d a b k t z) := fun h =>
  readsBack_withPfx (by simp) h (by intro long; simp [decodeHead, dec19, guarded, Pfx.only])
theorem vandn (d : Reg) (a : Reg) (b : Reg) (k : MReg) (t : IntTy) (z : Bool) :
    Statement (.vandn d a b k t z) := fun h =>
  readsBack_withPfx (by simp) h (by intro long; simp [decodeHead, dec19, guarded, Pfx.only])
theorem vshl (d : Reg) (a : Reg) (b : Reg) (k : MReg) (t : IntTy) (z : Bool) : Statement (.vshl d a b k t z) := fun h =>
  readsBack_withPfx (by simp) h (by intro long; simp [decodeHead, dec19, guarded, Pfx.only])
theorem vshr (d : Reg) (a : Reg) (b : Reg) (k : MReg) (t : IntTy) (z : Bool) : Statement (.vshr d a b k t z) := fun h =>
  readsBack_withPfx (by simp) h (by intro long; simp [decodeHead, dec19, guarded, Pfx.only])
theorem vsra (d : Reg) (a : Reg) (b : Reg) (k : MReg) (t : IntTy) (z : Bool) : Statement (.vsra d a b k t z) := fun h =>
  readsBack_withPfx (by simp) h (by intro long; simp [decodeHead, dec19, guarded, Pfx.only])
theorem vrol (d : Reg) (a : Reg) (b : Reg) (k : MReg) (t : IntTy) (z : Bool) : Statement (.vrol d a b k t z) := fun h =>
  readsBack_withPfx (by simp) h (by intro long; simp [decodeHead, dec19, guarded, Pfx.only])
theorem vabs (d : Reg) (a : Reg) (k : MReg) (t : IntTy) (z : Bool) : Statement (.vabs d a k t z) := fun h =>
  readsBack_withPfx (by simp) h (by intro long; simp [decodeHead, dec1A, guarded, Pfx.only])
theorem vneg (d : Reg) (a : Reg) (k : MReg) (t : IntTy) (z : Bool) : Statement (.vneg d a k t z) := fun h =>
  readsBack_withPfx (by simp) h (by intro long; simp [decodeHead, dec1A, guarded, Pfx.only])
theorem vclz (d : Reg) (a : Reg) (k : MReg) (t : IntTy) (z : Bool) : Statement (.vclz d a k t z) := fun h =>
  readsBack_withPfx (by simp) h (by intro long; simp [decodeHead, dec1A, guarded, Pfx.only])
theorem vpopc (d : Reg) (a : Reg) (k : MReg) (t : IntTy) (z : Bool) : Statement (.vpopc d a k t z) := fun h =>
  readsBack_withPfx (by simp) h (by intro long; simp [decodeHead, dec1A, guarded, Pfx.only])
theorem vmadd (d : Reg) (a : Reg) (b : Reg) (c : Reg) (k : MReg) (t : IntTy) (z : Bool) :
    Statement (.vmadd d a b c k t z) := fun h =>
  readsBack_withPfx (by simp) h (by intro long; simp [decodeHead, dec1A, guarded, Pfx.only])
theorem vsel (d : Reg) (a : Reg) (b : Reg) (k : MReg) (t : IntTy) : Statement (.vsel d a b k t) := fun h =>
  readsBack_head (by simp) h (by simp [decodeHead, dec1A, guarded, Pfx.only, Pfx.zero])
theorem vclmul (d : Reg) (a : Reg) (b : Reg) (t : IntTy) (z : Bool) : Statement (.vclmul d a b t z) := fun h =>
  readsBack_withPfx (by simp) h (by intro long; simp [decodeHead, dec1A, guarded, Pfx.only])
theorem vclmulh (d : Reg) (a : Reg) (b : Reg) (t : IntTy) (z : Bool) : Statement (.vclmulh d a b t z) := fun h =>
  readsBack_withPfx (by simp) h (by intro long; simp [decodeHead, dec1A, guarded, Pfx.only])
theorem vfadd (d : Reg) (a : Reg) (b : Reg) (k : MReg) (t : FloatTy) (r : Round) (z : Bool) :
    Statement (.vfadd d a b k t r z) := fun h =>
  readsBack_withPfx (by simp) h (by intro long; simp [decodeHead, dec1C, guarded, Pfx.only])
theorem vfsub (d : Reg) (a : Reg) (b : Reg) (k : MReg) (t : FloatTy) (r : Round) (z : Bool) :
    Statement (.vfsub d a b k t r z) := fun h =>
  readsBack_withPfx (by simp) h (by intro long; simp [decodeHead, dec1C, guarded, Pfx.only])
theorem vfmul (d : Reg) (a : Reg) (b : Reg) (k : MReg) (t : FloatTy) (r : Round) (z : Bool) :
    Statement (.vfmul d a b k t r z) := fun h =>
  readsBack_withPfx (by simp) h (by intro long; simp [decodeHead, dec1C, guarded, Pfx.only])
theorem vfdiv (d : Reg) (a : Reg) (b : Reg) (k : MReg) (t : FloatTy) (r : Round) (z : Bool) :
    Statement (.vfdiv d a b k t r z) := fun h =>
  readsBack_withPfx (by simp) h (by intro long; simp [decodeHead, dec1C, guarded, Pfx.only])
theorem vfma (d : Reg) (a : Reg) (b : Reg) (c : Reg) (k : MReg) (t : FloatTy) (r : Round) (z : Bool) :
    Statement (.vfma d a b c k t r z) := fun h =>
  readsBack_withPfx (by simp) h (by intro long; simp [decodeHead, dec1C, guarded, Pfx.only])
theorem vfnma (d : Reg) (a : Reg) (b : Reg) (c : Reg) (k : MReg) (t : FloatTy) (r : Round) (z : Bool) :
    Statement (.vfnma d a b c k t r z) := fun h =>
  readsBack_withPfx (by simp) h (by intro long; simp [decodeHead, dec1C, guarded, Pfx.only])
theorem vfmin (d : Reg) (a : Reg) (b : Reg) (k : MReg) (t : FloatTy) (z : Bool) :
    Statement (.vfmin d a b k t z) := fun h =>
  readsBack_withPfx (by simp) h (by intro long; simp [decodeHead, dec1C, guarded, Pfx.only])
theorem vfmax (d : Reg) (a : Reg) (b : Reg) (k : MReg) (t : FloatTy) (z : Bool) :
    Statement (.vfmax d a b k t z) := fun h =>
  readsBack_withPfx (by simp) h (by intro long; simp [decodeHead, dec1C, guarded, Pfx.only])
theorem vfaddScalar (d : Reg) (a : Reg) (b : Reg) (k : MReg) (t : FloatTy) (r : Round) (z : Bool) :
    Statement (.vfaddScalar d a b k t r z) := fun h =>
  readsBack_withPfx (by simp) h (by intro long; simp [decodeHead, dec1D, guarded, Pfx.only])
theorem vfsubScalar (d : Reg) (a : Reg) (b : Reg) (k : MReg) (t : FloatTy) (r : Round) (z : Bool) :
    Statement (.vfsubScalar d a b k t r z) := fun h =>
  readsBack_withPfx (by simp) h (by intro long; simp [decodeHead, dec1D, guarded, Pfx.only])
theorem vfmulScalar (d : Reg) (a : Reg) (b : Reg) (k : MReg) (t : FloatTy) (r : Round) (z : Bool) :
    Statement (.vfmulScalar d a b k t r z) := fun h =>
  readsBack_withPfx (by simp) h (by intro long; simp [decodeHead, dec1D, guarded, Pfx.only])
theorem vfdivScalar (d : Reg) (a : Reg) (b : Reg) (k : MReg) (t : FloatTy) (r : Round) (z : Bool) :
    Statement (.vfdivScalar d a b k t r z) := fun h =>
  readsBack_withPfx (by simp) h (by intro long; simp [decodeHead, dec1D, guarded, Pfx.only])
theorem vfmaScalar (d : Reg) (a : Reg) (b : Reg) (c : Reg) (k : MReg) (t : FloatTy) (r : Round) (z : Bool) :
    Statement (.vfmaScalar d a b c k t r z) := fun h =>
  readsBack_withPfx (by simp) h (by intro long; simp [decodeHead, dec1D, guarded, Pfx.only])
theorem vfnmaScalar (d : Reg) (a : Reg) (b : Reg) (c : Reg) (k : MReg) (t : FloatTy) (r : Round) (z : Bool) :
    Statement (.vfnmaScalar d a b c k t r z) := fun h =>
  readsBack_withPfx (by simp) h (by intro long; simp [decodeHead, dec1D, guarded, Pfx.only])
theorem vfminScalar (d : Reg) (a : Reg) (b : Reg) (k : MReg) (t : FloatTy) (z : Bool) :
    Statement (.vfminScalar d a b k t z) := fun h =>
  readsBack_withPfx (by simp) h (by intro long; simp [decodeHead, dec1D, guarded, Pfx.only])
theorem vfmaxScalar (d : Reg) (a : Reg) (b : Reg) (k : MReg) (t : FloatTy) (z : Bool) :
    Statement (.vfmaxScalar d a b k t z) := fun h =>
  readsBack_withPfx (by simp) h (by intro long; simp [decodeHead, dec1D, guarded, Pfx.only])
theorem vfsqrt (d : Reg) (a : Reg) (k : MReg) (t : FloatTy) (r : Round) (z : Bool) :
    Statement (.vfsqrt d a k t r z) := fun h =>
  readsBack_withPfx (by simp) h (by intro long; simp [decodeHead, dec1E, guarded, Pfx.only])
theorem vfabs (d : Reg) (a : Reg) (k : MReg) (t : FloatTy) (z : Bool) : Statement (.vfabs d a k t z) := fun h =>
  readsBack_withPfx (by simp) h (by intro long; simp [decodeHead, dec1E, guarded, Pfx.only])
theorem vfneg (d : Reg) (a : Reg) (k : MReg) (t : FloatTy) (z : Bool) : Statement (.vfneg d a k t z) := fun h =>
  readsBack_withPfx (by simp) h (by intro long; simp [decodeHead, dec1E, guarded, Pfx.only])
theorem vfsgn (d : Reg) (a : Reg) (b : Reg) (k : MReg) (t : FloatTy) (z : Bool) :
    Statement (.vfsgn d a b k t z) := fun h =>
  readsBack_withPfx (by simp) h (by intro long; simp [decodeHead, dec1E, guarded, Pfx.only])
theorem vfrnd (d : Reg) (a : Reg) (k : MReg) (t : FloatTy) (r : Round) (z : Bool) :
    Statement (.vfrnd d a k t r z) := fun h =>
  readsBack_withPfx (by simp) h (by intro long; simp [decodeHead, dec1E, guarded, Pfx.only])
theorem vfcls (d : Reg) (a : Reg) (k : MReg) (t : FloatTy) (z : Bool) : Statement (.vfcls d a k t z) := fun h =>
  readsBack_withPfx (by simp) h (by intro long; simp [decodeHead, dec1E, guarded, Pfx.only])
theorem vcvt (d : Reg) (a : Reg) (x : ElemTy) (k : MReg) (t : ElemTy) (r : Round) (sat : Bool) (z : Bool) :
    Statement (.vcvt d a x k t r sat z) := fun h =>
  readsBack_withPfx (by simp) h (by intro long; simp [decodeHead, dec1F, guarded, Pfx.only])
theorem vcvtn (d : Reg) (a : Reg) (x : NarrowFmt) (k : MReg) (t : FloatTy) (r : Round) (sat : Bool) (z : Bool) :
    Statement (.vcvtn d a x k t r sat z) := fun h =>
  readsBack_withPfx (by simp) h (by intro long; simp [decodeHead, dec1F, guarded, Pfx.only])
theorem vcvtw (d : Reg) (a : Reg) (x : NarrowFmt) (k : MReg) (t : FloatTy) (z : Bool) :
    Statement (.vcvtw d a x k t z) := fun h =>
  readsBack_withPfx (by simp) h (by intro long; simp [decodeHead, dec1F, guarded, Pfx.only])
theorem vqmx (d : Reg) (a : Reg) (x : NarrowFmt) (t : FloatTy) (r : Round) (sat : Bool) :
    Statement (.vqmx d a x t r sat) := fun h =>
  readsBack_withPfx (by simp) h (by intro long; simp [decodeHead, dec1F, guarded, Pfx.only])
theorem vqq4 (d : Reg) (a : Reg) (c : Reg) (t : FloatTy) : Statement (.vqq4 d a c t) := fun h =>
  readsBack_withPfx (by simp) h (by intro long; simp [decodeHead, dec1F, guarded, Pfx.only])
theorem vdqmx (d : Reg) (a : Reg) (x : NarrowFmt) (t : FloatTy) (r : Round) (sat : Bool) :
    Statement (.vdqmx d a x t r sat) := fun h =>
  readsBack_withPfx (by simp) h (by intro long; simp [decodeHead, dec1F, guarded, Pfx.only])
theorem vdqq4 (d : Reg) (a : Reg) (c : Reg) (t : FloatTy) (r : Round) (sat : Bool) :
    Statement (.vdqq4 d a c t r sat) := fun h =>
  readsBack_withPfx (by simp) h (by intro long; simp [decodeHead, dec1F, guarded, Pfx.only])
theorem vceq (d : MReg) (a : Reg) (b : Reg) (k : MReg) (t : ElemTy) (z : Bool) :
    Statement (.vceq d a b k t z) := fun h =>
  readsBack_withPfx (by simp) h (by intro long; simp [decodeHead, dec20, guarded, Pfx.only])
theorem vcne (d : MReg) (a : Reg) (b : Reg) (k : MReg) (t : ElemTy) (z : Bool) :
    Statement (.vcne d a b k t z) := fun h =>
  readsBack_withPfx (by simp) h (by intro long; simp [decodeHead, dec20, guarded, Pfx.only])
theorem vclt (d : MReg) (a : Reg) (b : Reg) (k : MReg) (t : ElemTy) (z : Bool) :
    Statement (.vclt d a b k t z) := fun h =>
  readsBack_withPfx (by simp) h (by intro long; simp [decodeHead, dec20, guarded, Pfx.only])
theorem vcle (d : MReg) (a : Reg) (b : Reg) (k : MReg) (t : ElemTy) (z : Bool) :
    Statement (.vcle d a b k t z) := fun h =>
  readsBack_withPfx (by simp) h (by intro long; simp [decodeHead, dec20, guarded, Pfx.only])
theorem vcgt (d : MReg) (a : Reg) (b : Reg) (k : MReg) (t : ElemTy) (z : Bool) :
    Statement (.vcgt d a b k t z) := fun h =>
  readsBack_withPfx (by simp) h (by intro long; simp [decodeHead, dec20, guarded, Pfx.only])
theorem vcge (d : MReg) (a : Reg) (b : Reg) (k : MReg) (t : ElemTy) (z : Bool) :
    Statement (.vcge d a b k t z) := fun h =>
  readsBack_withPfx (by simp) h (by intro long; simp [decodeHead, dec20, guarded, Pfx.only])
theorem vceqScalar (d : MReg) (a : Reg) (b : Reg) (k : MReg) (t : ElemTy) (z : Bool) :
    Statement (.vceqScalar d a b k t z) := fun h =>
  readsBack_withPfx (by simp) h (by intro long; simp [decodeHead, dec21, guarded, Pfx.only])
theorem vcneScalar (d : MReg) (a : Reg) (b : Reg) (k : MReg) (t : ElemTy) (z : Bool) :
    Statement (.vcneScalar d a b k t z) := fun h =>
  readsBack_withPfx (by simp) h (by intro long; simp [decodeHead, dec21, guarded, Pfx.only])
theorem vcltScalar (d : MReg) (a : Reg) (b : Reg) (k : MReg) (t : ElemTy) (z : Bool) :
    Statement (.vcltScalar d a b k t z) := fun h =>
  readsBack_withPfx (by simp) h (by intro long; simp [decodeHead, dec21, guarded, Pfx.only])
theorem vcleScalar (d : MReg) (a : Reg) (b : Reg) (k : MReg) (t : ElemTy) (z : Bool) :
    Statement (.vcleScalar d a b k t z) := fun h =>
  readsBack_withPfx (by simp) h (by intro long; simp [decodeHead, dec21, guarded, Pfx.only])
theorem vcgtScalar (d : MReg) (a : Reg) (b : Reg) (k : MReg) (t : ElemTy) (z : Bool) :
    Statement (.vcgtScalar d a b k t z) := fun h =>
  readsBack_withPfx (by simp) h (by intro long; simp [decodeHead, dec21, guarded, Pfx.only])
theorem vcgeScalar (d : MReg) (a : Reg) (b : Reg) (k : MReg) (t : ElemTy) (z : Bool) :
    Statement (.vcgeScalar d a b k t z) := fun h =>
  readsBack_withPfx (by simp) h (by intro long; simp [decodeHead, dec21, guarded, Pfx.only])
theorem vperm (d : Reg) (a : Reg) (b : Reg) (k : MReg) (t : ElemTy) (z : Bool) :
    Statement (.vperm d a b k t z) := fun h =>
  readsBack_withPfx (by simp) h (by intro long; simp [decodeHead, dec22, guarded, Pfx.only])
theorem vbcst (d : Reg) (b : Reg) (k : MReg) (t : ElemTy) (z : Bool) : Statement (.vbcst d b k t z) := fun h =>
  readsBack_withPfx (by simp) h (by intro long; simp [decodeHead, dec22, guarded, Pfx.only])
theorem vslup (d : Reg) (a : Reg) (b : Reg) (k : MReg) (t : ElemTy) (z : Bool) :
    Statement (.vslup d a b k t z) := fun h =>
  readsBack_withPfx (by simp) h (by intro long; simp [decodeHead, dec22, guarded, Pfx.only])
theorem vsldn (d : Reg) (a : Reg) (b : Reg) (k : MReg) (t : ElemTy) (z : Bool) :
    Statement (.vsldn d a b k t z) := fun h =>
  readsBack_withPfx (by simp) h (by intro long; simp [decodeHead, dec22, guarded, Pfx.only])
theorem vcompr (d : Reg) (a : Reg) (k : MReg) (t : ElemTy) : Statement (.vcompr d a k t) := fun h =>
  readsBack_head (by simp) h (by simp [decodeHead, dec22, guarded, Pfx.only, Pfx.zero])
theorem vexpn (d : Reg) (a : Reg) (k : MReg) (t : ElemTy) (z : Bool) : Statement (.vexpn d a k t z) := fun h =>
  readsBack_withPfx (by simp) h (by intro long; simp [decodeHead, dec22, guarded, Pfx.only])
theorem vzip (d : Reg) (a : Reg) (b : Reg) (k : MReg) (t : ElemTy) (z : Bool) :
    Statement (.vzip d a b k t z) := fun h =>
  readsBack_withPfx (by simp) h (by intro long; simp [decodeHead, dec22, guarded, Pfx.only])
theorem vunzip (d : Reg) (a : Reg) (b : Reg) (k : MReg) (t : ElemTy) (z : Bool) :
    Statement (.vunzip d a b k t z) := fun h =>
  readsBack_withPfx (by simp) h (by intro long; simp [decodeHead, dec22, guarded, Pfx.only])
theorem vredAdd (d : Reg) (a : Reg) (k : MReg) (t : ElemTy) : Statement (.vredAdd d a k t) := fun h =>
  readsBack_head (by simp) h (by simp [decodeHead, dec23, guarded])
theorem vredMin (d : Reg) (a : Reg) (k : MReg) (t : ElemTy) : Statement (.vredMin d a k t) := fun h =>
  readsBack_head (by simp) h (by simp [decodeHead, dec23, guarded])
theorem vredMax (d : Reg) (a : Reg) (k : MReg) (t : ElemTy) : Statement (.vredMax d a k t) := fun h =>
  readsBack_head (by simp) h (by simp [decodeHead, dec23, guarded])
theorem vredAnd (d : Reg) (a : Reg) (k : MReg) (t : IntTy) : Statement (.vredAnd d a k t) := fun h =>
  readsBack_head (by simp) h (by simp [decodeHead, dec23, guarded])
theorem vredOr (d : Reg) (a : Reg) (k : MReg) (t : IntTy) : Statement (.vredOr d a k t) := fun h =>
  readsBack_head (by simp) h (by simp [decodeHead, dec23, guarded])
theorem vredXor (d : Reg) (a : Reg) (k : MReg) (t : IntTy) : Statement (.vredXor d a k t) := fun h =>
  readsBack_head (by simp) h (by simp [decodeHead, dec23, guarded])
theorem vscanAdd (d : Reg) (a : Reg) (k : MReg) (t : ElemTy) (z : Bool) : Statement (.vscanAdd d a k t z) := fun h =>
  readsBack_withPfx (by simp) h (by intro long; simp [decodeHead, dec24, guarded, Pfx.only])
theorem vscanMin (d : Reg) (a : Reg) (k : MReg) (t : ElemTy) (z : Bool) : Statement (.vscanMin d a k t z) := fun h =>
  readsBack_withPfx (by simp) h (by intro long; simp [decodeHead, dec24, guarded, Pfx.only])
theorem vscanMax (d : Reg) (a : Reg) (k : MReg) (t : ElemTy) (z : Bool) : Statement (.vscanMax d a k t z) := fun h =>
  readsBack_withPfx (by simp) h (by intro long; simp [decodeHead, dec24, guarded, Pfx.only])
theorem vscanXor (d : Reg) (a : Reg) (k : MReg) (t : IntTy) (z : Bool) : Statement (.vscanXor d a k t z) := fun h =>
  readsBack_withPfx (by simp) h (by intro long; simp [decodeHead, dec24, guarded, Pfx.only])
theorem mand (d : MReg) (a : MReg) (b : MReg) : Statement (.mand d a b) := fun h =>
  readsBack_head (by simp) h (by simp [decodeHead, dec25, guarded])
theorem mor (d : MReg) (a : MReg) (b : MReg) : Statement (.mor d a b) := fun h =>
  readsBack_head (by simp) h (by simp [decodeHead, dec25, guarded])
theorem mxor (d : MReg) (a : MReg) (b : MReg) : Statement (.mxor d a b) := fun h =>
  readsBack_head (by simp) h (by simp [decodeHead, dec25, guarded])
theorem mandn (d : MReg) (a : MReg) (b : MReg) : Statement (.mandn d a b) := fun h =>
  readsBack_head (by simp) h (by simp [decodeHead, dec25, guarded])
theorem mnot (d : MReg) (a : MReg) : Statement (.mnot d a) := fun h =>
  readsBack_head (by simp) h (by simp [decodeHead, dec25, guarded])
theorem mpopc (d : Reg) (a : MReg) : Statement (.mpopc d a) := fun h =>
  readsBack_head (by simp) h (by simp [decodeHead, dec25, guarded])
theorem mgets (d : Reg) (a : MReg) : Statement (.mgets d a) := fun h =>
  readsBack_head (by simp) h (by simp [decodeHead, dec25, guarded])
theorem msets (d : MReg) (a : Reg) : Statement (.msets d a) := fun h =>
  readsBack_head (by simp) h (by simp [decodeHead, dec25, guarded])
theorem vmov (d : Reg) (a : Reg) (k : MReg) (t : ElemTy) (z : Bool) : Statement (.vmov d a k t z) := fun h =>
  readsBack_withPfx (by simp) h (by intro long; simp [decodeHead, dec26, guarded, Pfx.only])
theorem vins (d : Reg) (a : Reg) (b : Reg) (t : ElemTy) : Statement (.vins d a b t) := fun h =>
  readsBack_head (by simp) h (by simp [decodeHead, dec26, guarded, Pfx.only, Pfx.zero])
theorem vext (d : Reg) (a : Reg) (b : Reg) (t : ElemTy) : Statement (.vext d a b t) := fun h =>
  readsBack_head (by simp) h (by simp [decodeHead, dec26, guarded, Pfx.only, Pfx.zero])
theorem vmovLane (d : Reg) (k : MReg) (t : IntTy) (z : Bool) : Statement (.vmovLane d k t z) := fun h =>
  readsBack_withPfx (by simp) h (by intro long; simp [decodeHead, dec26, guarded, Pfx.only])
theorem mzero (acc : BitVec 2) (slot : SlotNo) : Statement (.mzero acc slot) := fun h =>
  readsBack_head (by simp) h (by simp [decodeHead, dec38, guarded])
theorem mma (acc : BitVec 2) (a : PairNo) (b : PairNo) (slot : SlotNo) : Statement (.mma acc a b slot) := fun h =>
  readsBack_head (by simp) h (by simp [decodeHead, dec38, guarded])
theorem mmaSp (acc : BitVec 2) (a : PairNo) (b : PairNo) (slot : SlotNo) : Statement (.mmaSp acc a b slot) := fun h =>
  readsBack_head (by simp) h (by simp [decodeHead, dec38, guarded])
theorem mld (acc : BitVec 2) (a : PairNo) (slot : SlotNo) : Statement (.mld acc a slot) := fun h =>
  readsBack_head (by simp) h (by simp [decodeHead, dec38, guarded])
theorem mst (acc : BitVec 2) (a : PairNo) (slot : SlotNo) : Statement (.mst acc a slot) := fun h =>
  readsBack_head (by simp) h (by simp [decodeHead, dec38, guarded])
theorem mrd (acc : BitVec 2) (a : PairNo) (slot : SlotNo) (r : Round) (sat : Bool) :
    Statement (.mrd acc a slot r sat) := fun h =>
  readsBack_withPfx (by simp) h (by intro long; simp [decodeHead, dec38, guarded, Pfx.only])
theorem mrdx (acc : BitVec 2) (a : PairNo) (b : PairNo) (slot : SlotNo) (n : BitVec 6) (r : Round) (sat : Bool) :
    Statement (.mrdx acc a b slot n r sat) := fun h =>
  readsBack_withPfx (by simp) h (by intro long; simp [decodeHead, dec38, guarded, Pfx.only])
theorem xop (n : BitVec 6) (d : Reg) (a : Reg) (b : Reg) (c : Reg) (x : Reg) (k : MReg) (z : Bool) :
    Statement (.xop n d a b c x k z) := fun h =>
  readsBack_withPfx (by simp) h (by intro long; simp [decodeHead, dec39, guarded, Pfx.only])
theorem xld (slot : SlotNo) (a : Reg) : Statement (.xld slot a) := fun h =>
  readsBack_head (by simp) h (by simp [decodeHead, dec3A, guarded])
theorem xunl (slot : SlotNo) (a : Reg) : Statement (.xunl slot a) := fun h =>
  readsBack_head (by simp) h (by simp [decodeHead, dec3A, guarded])
theorem xq (d : Reg) (a : Reg) : Statement (.xq d a) := fun h =>
  readsBack_head (by simp) h (by simp [decodeHead, dec3A, guarded])
theorem send (a : Reg) (b : Reg) (slot : SlotNo) (idx : BitVec 8) (rels : Option Scope) :
    Statement (.send a b slot idx rels) := fun h =>
  readsBack_head (by simp) h (by simp [decodeHead, dec40, guarded])
theorem sendv (a : Reg) (b : Reg) (slot : SlotNo) (idx : BitVec 3) (rels : Option Scope) :
    Statement (.sendv a b slot idx rels) := fun h =>
  readsBack_head (by simp) h (by simp [decodeHead, dec41, guarded])
theorem sig (a : Reg) (slot : SlotNo) (rels : Option Scope) : Statement (.sig a slot rels) := fun h =>
  readsBack_head (by simp) h (by simp [decodeHead, dec42, guarded])
theorem sw (p : Reg) (a : Reg) (b : Reg) (slot : SlotNo) (rels : Option Scope) :
    Statement (.sw p a b slot rels) := fun h =>
  readsBack_head (by simp) h (by simp [decodeHead, dec43, guarded])
theorem rearm (slot : SlotNo) (a : Reg) (b : Reg) : Statement (.rearm slot a b) := fun h =>
  readsBack_head (by simp) h (by simp [decodeHead, dec44, guarded])
theorem tagwin (a : Reg) (b : Reg) (c : Reg) : Statement (.tagwin a b c) := fun h =>
  readsBack_head (by simp) h (by simp [decodeHead, dec44, guarded])
theorem mkref (d : Reg) (a : Reg) (cb : BitVec 12) : Statement (.mkref d a cb) := fun h =>
  readsBack_head (by simp) h (by simp [decodeHead, dec45, guarded, Pfx.only, Pfx.zero])
theorem ld (idx : BitVec 8) (a : Reg) (b : Reg) (slot : SlotNo) (t : LoadTy) :
    Statement (.ld idx a b slot t) := fun h =>
  readsBack_head (by simp) h (by simp [decodeHead, dec48, guarded])
theorem ldLc (idx : BitVec 8) (a : Reg) (b : Reg) (slot : SlotNo) (t : LoadTy) :
    Statement (.ldLc idx a b slot t) := fun h =>
  readsBack_head (by simp) h (by simp [decodeHead, dec49, guarded])
theorem st (d : Reg) (a : Reg) (b : Reg) (slot : SlotNo) (e : Size) : Statement (.st d a b slot e) := fun h =>
  readsBack_head (by simp) h (by simp [decodeHead, dec4A, guarded])
theorem vld (v : BitVec 3) (a : Reg) (b : Reg) (slot : SlotNo) (k : MReg) (e : Size) (z : Bool) :
    Statement (.vld v a b slot k e z) := fun h =>
  readsBack_withPfx (by simp) h (by intro long; simp [decodeHead, dec4B, guarded, Pfx.only])
theorem vldStr (v : BitVec 3) (a : Reg) (b : Reg) (slot : SlotNo) (k : MReg) (e : Size) (z : Bool) :
    Statement (.vldStr v a b slot k e z) := fun h =>
  readsBack_withPfx (by simp) h (by intro long; simp [decodeHead, dec4B, guarded, Pfx.only])
theorem vldIdx (v : BitVec 3) (a : Reg) (b : Reg) (slot : SlotNo) (k : MReg) (e : Size) (z : Bool) :
    Statement (.vldIdx v a b slot k e z) := fun h =>
  readsBack_withPfx (by simp) h (by intro long; simp [decodeHead, dec4B, guarded, Pfx.only])
theorem vst (d : Reg) (a : Reg) (b : Reg) (slot : SlotNo) (k : MReg) (e : Size) :
    Statement (.vst d a b slot k e) := fun _ =>
  readsBack_tail (t := .vst d a b slot k e) (by simp) (by simp) (by simp [decodeTail, dec4C, guarded])
theorem vstStr (d : Reg) (a : Reg) (b : Reg) (slot : SlotNo) (k : MReg) (e : Size) :
    Statement (.vstStr d a b slot k e) := fun _ =>
  readsBack_tail (t := .vstStr d a b slot k e) (by simp) (by simp) (by simp [decodeTail, dec4C, guarded])
theorem pf (a : Reg) (b : Reg) : Statement (.pf a b) := fun _ =>
  readsBack_tail (t := .pf a b) (by simp) (by simp) (by simp [decodeTail, dec4D, guarded])
theorem pfLc (a : Reg) (b : Reg) : Statement (.pfLc a b) := fun _ =>
  readsBack_tail (t := .pfLc a b) (by simp) (by simp) (by simp [decodeTail, dec4D, guarded])
theorem gamoAdd (idx : BitVec 8) (a : Reg) (b : Reg) (slot : SlotNo) (w : Bool) (ord : Ord) (sc : Scope) :
    Statement (.gamoAdd idx a b slot w ord sc) := fun _ =>
  readsBack_longTail (t := .gamoAdd idx a b slot w ord sc) (by simp) (by simp) (by cases w <;> simp [decodeTail, dec4E, guarded, Pfx.only])
theorem gamoAnd (idx : BitVec 8) (a : Reg) (b : Reg) (slot : SlotNo) (w : Bool) (ord : Ord) (sc : Scope) :
    Statement (.gamoAnd idx a b slot w ord sc) := fun _ =>
  readsBack_longTail (t := .gamoAnd idx a b slot w ord sc) (by simp) (by simp) (by cases w <;> simp [decodeTail, dec4E, guarded, Pfx.only])
theorem gamoOr (idx : BitVec 8) (a : Reg) (b : Reg) (slot : SlotNo) (w : Bool) (ord : Ord) (sc : Scope) :
    Statement (.gamoOr idx a b slot w ord sc) := fun _ =>
  readsBack_longTail (t := .gamoOr idx a b slot w ord sc) (by simp) (by simp) (by cases w <;> simp [decodeTail, dec4E, guarded, Pfx.only])
theorem gamoXor (idx : BitVec 8) (a : Reg) (b : Reg) (slot : SlotNo) (w : Bool) (ord : Ord) (sc : Scope) :
    Statement (.gamoXor idx a b slot w ord sc) := fun _ =>
  readsBack_longTail (t := .gamoXor idx a b slot w ord sc) (by simp) (by simp) (by cases w <;> simp [decodeTail, dec4E, guarded, Pfx.only])
theorem gamoMinSigned (idx : BitVec 8) (a : Reg) (b : Reg) (slot : SlotNo) (w : Bool) (ord : Ord) (sc : Scope) :
    Statement (.gamoMinSigned idx a b slot w ord sc) := fun _ =>
  readsBack_longTail (t := .gamoMinSigned idx a b slot w ord sc) (by simp) (by simp) (by cases w <;> simp [decodeTail, dec4E, guarded, Pfx.only])
theorem gamoMaxSigned (idx : BitVec 8) (a : Reg) (b : Reg) (slot : SlotNo) (w : Bool) (ord : Ord) (sc : Scope) :
    Statement (.gamoMaxSigned idx a b slot w ord sc) := fun _ =>
  readsBack_longTail (t := .gamoMaxSigned idx a b slot w ord sc) (by simp) (by simp) (by cases w <;> simp [decodeTail, dec4E, guarded, Pfx.only])
theorem gamoMinUnsigned (idx : BitVec 8) (a : Reg) (b : Reg) (slot : SlotNo) (w : Bool) (ord : Ord) (sc : Scope) :
    Statement (.gamoMinUnsigned idx a b slot w ord sc) := fun _ =>
  readsBack_longTail (t := .gamoMinUnsigned idx a b slot w ord sc) (by simp) (by simp) (by cases w <;> simp [decodeTail, dec4E, guarded, Pfx.only])
theorem gamoMaxUnsigned (idx : BitVec 8) (a : Reg) (b : Reg) (slot : SlotNo) (w : Bool) (ord : Ord) (sc : Scope) :
    Statement (.gamoMaxUnsigned idx a b slot w ord sc) := fun _ =>
  readsBack_longTail (t := .gamoMaxUnsigned idx a b slot w ord sc) (by simp) (by simp) (by cases w <;> simp [decodeTail, dec4E, guarded, Pfx.only])
theorem gamoSwap (idx : BitVec 8) (a : Reg) (b : Reg) (slot : SlotNo) (w : Bool) (ord : Ord) (sc : Scope) :
    Statement (.gamoSwap idx a b slot w ord sc) := fun _ =>
  readsBack_longTail (t := .gamoSwap idx a b slot w ord sc) (by simp) (by simp) (by cases w <;> simp [decodeTail, dec4E, guarded, Pfx.only])
theorem gamoCas (idx : BitVec 8) (a : Reg) (b : Reg) (c : Reg) (slot : SlotNo) (w : Bool) (ord : Ord) (sc : Scope) :
    Statement (.gamoCas idx a b c slot w ord sc) := fun _ =>
  readsBack_longTail (t := .gamoCas idx a b c slot w ord sc) (by simp) (by simp) (by cases w <;> simp [decodeTail, dec4E, guarded, Pfx.only])
theorem gamoFadd (idx : BitVec 8) (a : Reg) (b : Reg) (slot : SlotNo) (w : Bool) (ord : Ord) (sc : Scope) :
    Statement (.gamoFadd idx a b slot w ord sc) := fun _ =>
  readsBack_longTail (t := .gamoFadd idx a b slot w ord sc) (by simp) (by simp) (by cases w <;> simp [decodeTail, dec4E, guarded, Pfx.only])
theorem fence (sc : Scope) : Statement (.fence sc) := fun _ => by
  cases sc <;> exact fun _ => rfl
theorem cpy (a : Reg) (b : Reg) (c : Reg) (slot : SlotNo) (sc : Scope) : Statement (.cpy a b c slot sc) := fun _ =>
  readsBack_tail (t := .cpy a b c slot sc) (by simp) (by simp) (by simp [decodeTail, dec51, guarded])
theorem gth (a : Reg) (b : Reg) (c : Reg) (slot : SlotNo) (sc : Scope) : Statement (.gth a b c slot sc) := fun _ =>
  readsBack_tail (t := .gth a b c slot sc) (by simp) (by simp) (by simp [decodeTail, dec51, guarded])
theorem sct (a : Reg) (b : Reg) (c : Reg) (slot : SlotNo) (sc : Scope) : Statement (.sct a b c slot sc) := fun _ =>
  readsBack_tail (t := .sct a b c slot sc) (by simp) (by simp) (by simp [decodeTail, dec51, guarded])
theorem isect (a : Reg) (b : Reg) (c : Reg) (slot : SlotNo) (sc : Scope) : Statement (.isect a b c slot sc) := fun _ =>
  readsBack_tail (t := .isect a b c slot sc) (by simp) (by simp) (by simp [decodeTail, dec51, guarded])
theorem smerge (a : Reg) (b : Reg) (c : Reg) (slot : SlotNo) (sc : Scope) :
    Statement (.smerge a b c slot sc) := fun _ =>
  readsBack_tail (t := .smerge a b c slot sc) (by simp) (by simp) (by simp [decodeTail, dec51, guarded])
theorem cmpct (a : Reg) (b : Reg) (c : Reg) (slot : SlotNo) (sc : Scope) : Statement (.cmpct a b c slot sc) := fun _ =>
  readsBack_tail (t := .cmpct a b c slot sc) (by simp) (by simp) (by simp [decodeTail, dec51, guarded])
theorem rply : Statement .rply := fun _ =>
  readsBack_tail (t := .rply) (by simp) (by simp) (by simp [decodeTail, dec60, guarded])
theorem rsup (a : Reg) : Statement (.rsup a) := fun _ =>
  readsBack_tail (t := .rsup a) (by simp) (by simp) (by simp [decodeTail, dec60, guarded])
theorem kill : Statement .kill := fun _ =>
  readsBack_tail (t := .kill) (by simp) (by simp) (by simp [decodeTail, dec60, guarded])
theorem killL (a : Reg) : Statement (.killL a) := fun _ =>
  readsBack_tail (t := .killL a) (by simp) (by simp) (by simp [decodeTail, dec60, guarded])
theorem frr (d : Reg) : Statement (.frr d) := fun _ =>
  readsBack_tail (t := .frr d) (by simp) (by simp) (by simp [decodeTail, dec60, guarded])
theorem tlbi (slot : SlotNo) (a : Reg) (b : Reg) : Statement (.tlbi slot a b) := fun _ =>
  readsBack_tail (t := .tlbi slot a b) (by simp) (by simp) (by simp [decodeTail, dec60, guarded])
theorem tlbia (slot : SlotNo) (a : Reg) : Statement (.tlbia slot a) := fun _ =>
  readsBack_tail (t := .tlbia slot a) (by simp) (by simp) (by simp [decodeTail, dec60, guarded])
theorem ctxsv (slot : SlotNo) (a : Reg) : Statement (.ctxsv slot a) := fun _ =>
  readsBack_tail (t := .ctxsv slot a) (by simp) (by simp) (by simp [decodeTail, dec60, guarded])
theorem ctxrs (slot : SlotNo) (a : Reg) (b : Reg) : Statement (.ctxrs slot a b) := fun _ =>
  readsBack_tail (t := .ctxrs slot a b) (by simp) (by simp) (by simp [decodeTail, dec60, guarded])
theorem halt (slot : SlotNo) (a : Reg) : Statement (.halt slot a) := fun _ =>
  readsBack_tail (t := .halt slot a) (by simp) (by simp) (by simp [decodeTail, dec60, guarded])
theorem rdsr (d : Reg) (num : BitVec 12) : Statement (.rdsr d num) := fun _ =>
  readsBack_tail (t := .rdsr d num) (by simp) (by simp) (by simp [decodeTail, dec61, guarded, Pfx.only, Pfx.zero])
theorem wrsr (num : BitVec 12) (d : Reg) : Statement (.wrsr num d) := fun _ =>
  readsBack_tail (t := .wrsr num d) (by simp) (by simp) (by simp [decodeTail, dec61, guarded, Pfx.only, Pfx.zero])
theorem fin : Statement .fin := fun h =>
  readsBack_head (by simp) h (by simp [decodeHead, dec0D, guarded])
theorem fret : Statement .fret := fun h =>
  readsBack_head (by simp) h (by simp [decodeHead, dec44, guarded])
theorem commit (site : Nat) (runner : Nat) : Statement (.commit site runner) := fun _ => trivial
theorem tokenRetry (tok : Nat) : Statement (.tokenRetry tok) := fun _ => trivial
theorem tokenAccept (tok : Nat) : Statement (.tokenAccept tok) := fun _ => trivial
theorem tokenApply (tok : Nat) : Statement (.tokenApply tok) := fun _ => trivial
theorem descriptorLoad (site : Nat) (ctx : Nat) (cb : Nat) : Statement (.descriptorLoad site ctx cb) := fun _ => trivial
theorem parkReexamine (site : Nat) (ctx : Nat) (cb : Nat) : Statement (.parkReexamine site ctx cb) := fun _ => trivial
theorem parkOverflowReadback (site : Nat) (ctx : Nat) : Statement (.parkOverflowReadback site ctx) := fun _ => trivial
theorem waitingSignalServe (tok : Nat) : Statement (.waitingSignalServe tok) := fun _ => trivial
theorem frameFill (site : Nat) (ctx : Nat) (cb : Nat) (tag : BitVec 32) :
    Statement (.frameFill site ctx cb tag) := fun _ => trivial
theorem readyChoose (site : Nat) (runner : Nat) : Statement (.readyChoose site runner) := fun _ => trivial
theorem readyOverflowReturn (site : Nat) : Statement (.readyOverflowReturn site) := fun _ => trivial
theorem faultTokenDelivery (tok : Nat) : Statement (.faultTokenDelivery tok) := fun _ => trivial
theorem faultActionDelivery (act : Nat) : Statement (.faultActionDelivery act) := fun _ => trivial
theorem completionSignal (op : Nat) : Statement (.completionSignal op) := fun _ => trivial
theorem loadPerform (op : Nat) (part : Nat) : Statement (.loadPerform op part) := fun _ => trivial
theorem storePerform (op : Nat) (part : Nat) : Statement (.storePerform op part) := fun _ => trivial
theorem atomicPerform (op : Nat) (part : Nat) : Statement (.atomicPerform op part) := fun _ => trivial
theorem prefetchPerform (op : Nat) (part : Nat) : Statement (.prefetchPerform op part) := fun _ => trivial
theorem pageWalk (op : Nat) (part : Nat) : Statement (.pageWalk op part) := fun _ => trivial
theorem localCacheFill (op : Nat) (part : Nat) : Statement (.localCacheFill op part) := fun _ => trivial
theorem icacheFill (site : Nat) (runner : Nat) : Statement (.icacheFill site runner) := fun _ => trivial
theorem muPerform (site : Nat) : Statement (.muPerform site) := fun _ => trivial
theorem muCompletion (site : Nat) : Statement (.muCompletion site) := fun _ => trivial
theorem carouselEntry (site : Nat) : Statement (.carouselEntry site) := fun _ => trivial
theorem carouselResult (site : Nat) : Statement (.carouselResult site) := fun _ => trivial
theorem xldProcess (op : Nat) : Statement (.xldProcess op) := fun _ => trivial
theorem xldWaitRetry (op : Nat) : Statement (.xldWaitRetry op) := fun _ => trivial
theorem graphLoadComplete (site : Nat) (gslot : Nat) (storeError : Bool) :
    Statement (.graphLoadComplete site gslot storeError) := fun _ => trivial
theorem xunlComplete (op : Nat) : Statement (.xunlComplete op) := fun _ => trivial
theorem configErrorReload (site : Nat) (gslot : Nat) (again : Bool) :
    Statement (.configErrorReload site gslot again) := fun _ => trivial
theorem engineCommandStart (op : Nat) : Statement (.engineCommandStart op) := fun _ => trivial
theorem engineFaultStop (op : Nat) : Statement (.engineFaultStop op) := fun _ => trivial
theorem engineCommandComplete (op : Nat) : Statement (.engineCommandComplete op) := fun _ => trivial
theorem tagwinRequest (site : Nat) (runner : Nat) : Statement (.tagwinRequest site runner) := fun _ => trivial
theorem tagwinInstall (site : Nat) (ctx : Nat) : Statement (.tagwinInstall site ctx) := fun _ => trivial
theorem launchInject (die : Nat) (ctx : Nat) (lid : Nat) : Statement (.launchInject die ctx lid) := fun _ => trivial
theorem launchWave (ctx : Nat) (lid : Nat) : Statement (.launchWave ctx lid) := fun _ => trivial
theorem launchWatchdog (ctx : Nat) (lid : Nat) : Statement (.launchWatchdog ctx lid) := fun _ => trivial
theorem launchKillMark (site : Nat) (ctx : Nat) (lid : Nat) :
    Statement (.launchKillMark site ctx lid) := fun _ => trivial
theorem timerExpiry (timer : Nat) : Statement (.timerExpiry timer) := fun _ => trivial
theorem timeWordStore : Statement .timeWordStore := fun _ => trivial
theorem registerWrite (bar : Nat) (fn : Nat) (off : Nat) (wide : Bool) (value : BitVec 64) :
    Statement (.registerWrite bar fn off wide value) := fun _ => trivial
theorem queueEnable (fn : Nat) (q : Nat) (value : BitVec 64) : Statement (.queueEnable fn q value) := fun _ => trivial
theorem queueDisable (fn : Nat) (q : Nat) (value : BitVec 64) : Statement (.queueDisable fn q value) := fun _ => trivial
theorem queueKick (fn : Nat) (q : Nat) (pidx : BitVec 32) : Statement (.queueKick fn q pidx) := fun _ => trivial
theorem f1bindWrite (q : Nat) (value : BitVec 64) : Statement (.f1bindWrite q value) := fun _ => trivial
theorem apertureRead (fn : Nat) (off : Nat) (len : Nat) : Statement (.apertureRead fn off len) := fun _ => trivial
theorem apertureWrite (fn : Nat) (off : Nat) (len : Nat) (data : BitVec 64) (poison : Bool) :
    Statement (.apertureWrite fn off len data poison) := fun _ => trivial
theorem packetFetch (fn : Nat) (q : Nat) (agree : Bool) (readError : Bool) :
    Statement (.packetFetch fn q agree readError) := fun _ => trivial
theorem packetReread (fn : Nat) (q : Nat) (agree : Bool) (readError : Bool) :
    Statement (.packetReread fn q agree readError) := fun _ => trivial
theorem packetStart (fn : Nat) (q : Nat) : Statement (.packetStart fn q) := fun _ => trivial
theorem launchPacket (fn : Nat) (q : Nat) (i : Nat) : Statement (.launchPacket fn q i) := fun _ => trivial
theorem loadGraphPacket (fn : Nat) (q : Nat) (i : Nat) : Statement (.loadGraphPacket fn q i) := fun _ => trivial
theorem memoryCopy (fn : Nat) (q : Nat) (i : Nat) : Statement (.memoryCopy fn q i) := fun _ => trivial
theorem memoryFill (fn : Nat) (q : Nat) (i : Nat) : Statement (.memoryFill fn q i) := fun _ => trivial
theorem fencePacket (fn : Nat) (q : Nat) (i : Nat) : Statement (.fencePacket fn q i) := fun _ => trivial
theorem fencePoll (fn : Nat) (q : Nat) (i : Nat) : Statement (.fencePoll fn q i) := fun _ => trivial
theorem freezePacket (fn : Nat) (q : Nat) (i : Nat) : Statement (.freezePacket fn q i) := fun _ => trivial
theorem resumePacket (fn : Nat) (q : Nat) (i : Nat) : Statement (.resumePacket fn q i) := fun _ => trivial
theorem completionRecord (fn : Nat) (q : Nat) (i : Nat) : Statement (.completionRecord fn q i) := fun _ => trivial
theorem quantumExpiry (part : Nat) : Statement (.quantumExpiry part) := fun _ => trivial
theorem doorbell (value : BitVec 32) : Statement (.doorbell value) := fun _ => trivial
theorem pools : Statement .pools := fun _ => trivial
theorem setPriority : Statement .setPriority := fun _ => trivial
theorem setQuantum : Statement .setQuantum := fun _ => trivial
theorem setWatermark : Statement .setWatermark := fun _ => trivial
theorem attest : Statement .attest := fun _ => trivial
theorem flashWrite : Statement .flashWrite := fun _ => trivial
theorem orphans : Statement .orphans := fun _ => trivial
theorem plimWrite (value : BitVec 64) : Statement (.plimWrite value) := fun _ => trivial
theorem drainMarker (ctx : Nat) : Statement (.drainMarker ctx) := fun _ => trivial
theorem contextImageSave (ctx : Nat) : Statement (.contextImageSave ctx) := fun _ => trivial
theorem contextRestore (ctx : Nat) : Statement (.contextRestore ctx) := fun _ => trivial
theorem restoreResume (ctx : Nat) : Statement (.restoreResume ctx) := fun _ => trivial
theorem haltComplete (op : Nat) : Statement (.haltComplete op) := fun _ => trivial
theorem tlbInvalidateComplete (op : Nat) : Statement (.tlbInvalidateComplete op) := fun _ => trivial
theorem pageEviction (ctx : Nat) (host : Nat) : Statement (.pageEviction ctx host) := fun _ => trivial
theorem hardwareError (e : HwError) : Statement (.hardwareError e) := fun _ => trivial
theorem droopDetect (die : Nat) : Statement (.droopDetect die) := fun _ => trivial
theorem droopRecovery (die : Nat) : Statement (.droopRecovery die) := fun _ => trivial
theorem powerLimitStep (die : Nat) (up : Bool) : Statement (.powerLimitStep die up) := fun _ => trivial
theorem degradedExit : Statement .degradedExit := fun _ => trivial
theorem packageReset : Statement .packageReset := fun _ => trivial
theorem vlpTokenReceive (port : Nat) (ctx : Nat) (cb : Nat) (tag : BitVec 32) (epoch : Bool) (slot : BitVec 4) (kind : Nat) (idx : BitVec 8) (rels : Option Scope) (psn : Bool) (payload : BitVec 2048) :
    Statement (.vlpTokenReceive port ctx cb tag epoch slot kind idx rels psn payload) := fun _ => trivial
theorem vlpAcknowledge (tok : Nat) : Statement (.vlpAcknowledge tok) := fun _ => trivial
theorem torusProtocolError (site : Nat) (kind : Nat) : Statement (.torusProtocolError site kind) := fun _ => trivial
theorem illegalInstruction (w0 : Word) (w1 : Option Word) : Statement (.illegalInstruction w0 w1) := fun _ => trivial
theorem engineElement (op : Nat) (act : EngineAct) : Statement (.engineElement op act) := fun _ => trivial
theorem pcieCompletionTimeout (op : Nat) (part : Nat) : Statement (.pcieCompletionTimeout op part) := fun _ => trivial

end Sys2Proof.Laws.RoundTrip
end

