-- ==== Sys2Proof/Laws/State.lean ====
section
/-! SUPPORT. What the updates of a state leave as it was: one lemma for each field of each update. -/

namespace Sys2Proof.Machine

/-! ### `putInst` -/

@[simp] theorem State.putInst_agenda (s : State) (i : Inst) : (s.putInst i).agenda = s.agenda := rfl
@[simp] theorem State.putInst_tick (s : State) (i : Inst) : (s.putInst i).tick = s.tick := rfl
@[simp] theorem State.putInst_nextId (s : State) (i : Inst) : (s.putInst i).nextId = s.nextId := rfl
@[simp] theorem State.putInst_cur (s : State) (i : Inst) : (s.putInst i).cur = s.cur := rfl
@[simp] theorem State.putInst_cyc (s : State) (i : Inst) : (s.putInst i).cyc = s.cyc := rfl
@[simp] theorem State.putInst_frames (s : State) (i : Inst) : (s.putInst i).frames = s.frames := rfl
@[simp] theorem State.putInst_tokens (s : State) (i : Inst) : (s.putInst i).tokens = s.tokens := rfl
@[simp] theorem State.putInst_ready (s : State) (i : Inst) : (s.putInst i).ready = s.ready := rfl
@[simp] theorem State.putInst_ops (s : State) (i : Inst) : (s.putInst i).ops = s.ops := rfl
@[simp] theorem State.putInst_items (s : State) (i : Inst) : (s.putInst i).items = s.items := rfl
@[simp] theorem State.putInst_actions (s : State) (i : Inst) : (s.putInst i).actions = s.actions := rfl
@[simp] theorem State.putInst_descs (s : State) (i : Inst) : (s.putInst i).descs = s.descs := rfl
@[simp] theorem State.putInst_windows (s : State) (i : Inst) : (s.putInst i).windows = s.windows := rfl
@[simp] theorem State.putInst_tlb (s : State) (i : Inst) : (s.putInst i).tlb = s.tlb := rfl
@[simp] theorem State.putInst_icache (s : State) (i : Inst) : (s.putInst i).icache = s.icache := rfl
@[simp] theorem State.putInst_lcache (s : State) (i : Inst) : (s.putInst i).lcache = s.lcache := rfl
@[simp] theorem State.putInst_tiles (s : State) (i : Inst) : (s.putInst i).tiles = s.tiles := rfl
@[simp] theorem State.putInst_tilePoison (s : State) (i : Inst) : (s.putInst i).tilePoison = s.tilePoison := rfl
@[simp] theorem State.putInst_scratch (s : State) (i : Inst) : (s.putInst i).scratch = s.scratch := rfl
@[simp] theorem State.putInst_gslots (s : State) (i : Inst) : (s.putInst i).gslots = s.gslots := rfl
@[simp] theorem State.putInst_carJobs (s : State) (i : Inst) : (s.putInst i).carJobs = s.carJobs := rfl
@[simp] theorem State.putInst_carClock (s : State) (i : Inst) : (s.putInst i).carClock = s.carClock := rfl
@[simp] theorem State.putInst_counts (s : State) (i : Inst) : (s.putInst i).counts = s.counts := rfl
@[simp] theorem State.putInst_killed (s : State) (i : Inst) : (s.putInst i).killed = s.killed := rfl
@[simp] theorem State.putInst_halted (s : State) (i : Inst) : (s.putInst i).halted = s.halted := rfl
@[simp] theorem State.putInst_faultCount (s : State) (i : Inst) : (s.putInst i).faultCount = s.faultCount := rfl
@[simp] theorem State.putInst_genCount (s : State) (i : Inst) : (s.putInst i).genCount = s.genCount := rfl
@[simp] theorem State.putInst_mem (s : State) (i : Inst) : (s.putInst i).mem = s.mem := rfl
@[simp] theorem State.putInst_host (s : State) (i : Inst) : (s.putInst i).host = s.host := rfl
@[simp] theorem State.putInst_flash (s : State) (i : Inst) : (s.putInst i).flash = s.flash := rfl
@[simp] theorem State.putInst_ctl (s : State) (i : Inst) : (s.putInst i).ctl = s.ctl := rfl
@[simp] theorem State.putInst_sys (s : State) (i : Inst) : (s.putInst i).sys = s.sys := rfl
@[simp] theorem State.putInst_io (s : State) (i : Inst) : (s.putInst i).io = s.io := rfl
@[simp] theorem State.putInst_hw (s : State) (i : Inst) : (s.putInst i).hw = s.hw := rfl

/-! ### `dropInst` -/

@[simp] theorem State.dropInst_agenda (s : State) (site runner : Nat) : (s.dropInst site runner).agenda = s.agenda := rfl
@[simp] theorem State.dropInst_tick (s : State) (site runner : Nat) : (s.dropInst site runner).tick = s.tick := rfl
@[simp] theorem State.dropInst_nextId (s : State) (site runner : Nat) : (s.dropInst site runner).nextId = s.nextId := rfl
@[simp] theorem State.dropInst_cur (s : State) (site runner : Nat) : (s.dropInst site runner).cur = s.cur := rfl
@[simp] theorem State.dropInst_cyc (s : State) (site runner : Nat) : (s.dropInst site runner).cyc = s.cyc := rfl
@[simp] theorem State.dropInst_frames (s : State) (site runner : Nat) : (s.dropInst site runner).frames = s.frames := rfl
@[simp] theorem State.dropInst_tokens (s : State) (site runner : Nat) : (s.dropInst site runner).tokens = s.tokens := rfl
@[simp] theorem State.dropInst_ready (s : State) (site runner : Nat) : (s.dropInst site runner).ready = s.ready := rfl
@[simp] theorem State.dropInst_ops (s : State) (site runner : Nat) : (s.dropInst site runner).ops = s.ops := rfl
@[simp] theorem State.dropInst_items (s : State) (site runner : Nat) : (s.dropInst site runner).items = s.items := rfl
@[simp] theorem State.dropInst_actions (s : State) (site runner : Nat) : (s.dropInst site runner).actions = s.actions := rfl
@[simp] theorem State.dropInst_descs (s : State) (site runner : Nat) : (s.dropInst site runner).descs = s.descs := rfl
@[simp] theorem State.dropInst_windows (s : State) (site runner : Nat) : (s.dropInst site runner).windows = s.windows := rfl
@[simp] theorem State.dropInst_tlb (s : State) (site runner : Nat) : (s.dropInst site runner).tlb = s.tlb := rfl
@[simp] theorem State.dropInst_icache (s : State) (site runner : Nat) : (s.dropInst site runner).icache = s.icache := rfl
@[simp] theorem State.dropInst_lcache (s : State) (site runner : Nat) : (s.dropInst site runner).lcache = s.lcache := rfl
@[simp] theorem State.dropInst_tiles (s : State) (site runner : Nat) : (s.dropInst site runner).tiles = s.tiles := rfl
@[simp] theorem State.dropInst_tilePoison (s : State) (site runner : Nat) : (s.dropInst site runner).tilePoison = s.tilePoison := rfl
@[simp] theorem State.dropInst_scratch (s : State) (site runner : Nat) : (s.dropInst site runner).scratch = s.scratch := rfl
@[simp] theorem State.dropInst_gslots (s : State) (site runner : Nat) : (s.dropInst site runner).gslots = s.gslots := rfl
@[simp] theorem State.dropInst_carJobs (s : State) (site runner : Nat) : (s.dropInst site runner).carJobs = s.carJobs := rfl
@[simp] theorem State.dropInst_carClock (s : State) (site runner : Nat) : (s.dropInst site runner).carClock = s.carClock := rfl
@[simp] theorem State.dropInst_counts (s : State) (site runner : Nat) : (s.dropInst site runner).counts = s.counts := rfl
@[simp] theorem State.dropInst_killed (s : State) (site runner : Nat) : (s.dropInst site runner).killed = s.killed := rfl
@[simp] theorem State.dropInst_halted (s : State) (site runner : Nat) : (s.dropInst site runner).halted = s.halted := rfl
@[simp] theorem State.dropInst_faultCount (s : State) (site runner : Nat) : (s.dropInst site runner).faultCount = s.faultCount := rfl
@[simp] theorem State.dropInst_genCount (s : State) (site runner : Nat) : (s.dropInst site runner).genCount = s.genCount := rfl
@[simp] theorem State.dropInst_mem (s : State) (site runner : Nat) : (s.dropInst site runner).mem = s.mem := rfl
@[simp] theorem State.dropInst_host (s : State) (site runner : Nat) : (s.dropInst site runner).host = s.host := rfl
@[simp] theorem State.dropInst_flash (s : State) (site runner : Nat) : (s.dropInst site runner).flash = s.flash := rfl
@[simp] theorem State.dropInst_ctl (s : State) (site runner : Nat) : (s.dropInst site runner).ctl = s.ctl := rfl
@[simp] theorem State.dropInst_sys (s : State) (site runner : Nat) : (s.dropInst site runner).sys = s.sys := rfl
@[simp] theorem State.dropInst_io (s : State) (site runner : Nat) : (s.dropInst site runner).io = s.io := rfl
@[simp] theorem State.dropInst_hw (s : State) (site runner : Nat) : (s.dropInst site runner).hw = s.hw := rfl

/-! ### `updateToken` -/

@[simp] theorem State.updateToken_agenda (s : State) (id : Nat) (f : Token → Token) : (s.updateToken id f).agenda = s.agenda := rfl
@[simp] theorem State.updateToken_tick (s : State) (id : Nat) (f : Token → Token) : (s.updateToken id f).tick = s.tick := rfl
@[simp] theorem State.updateToken_nextId (s : State) (id : Nat) (f : Token → Token) : (s.updateToken id f).nextId = s.nextId := rfl
@[simp] theorem State.updateToken_cur (s : State) (id : Nat) (f : Token → Token) : (s.updateToken id f).cur = s.cur := rfl
@[simp] theorem State.updateToken_cyc (s : State) (id : Nat) (f : Token → Token) : (s.updateToken id f).cyc = s.cyc := rfl
@[simp] theorem State.updateToken_insts (s : State) (id : Nat) (f : Token → Token) : (s.updateToken id f).insts = s.insts := rfl
@[simp] theorem State.updateToken_frames (s : State) (id : Nat) (f : Token → Token) : (s.updateToken id f).frames = s.frames := rfl
@[simp] theorem State.updateToken_ready (s : State) (id : Nat) (f : Token → Token) : (s.updateToken id f).ready = s.ready := rfl
@[simp] theorem State.updateToken_ops (s : State) (id : Nat) (f : Token → Token) : (s.updateToken id f).ops = s.ops := rfl
@[simp] theorem State.updateToken_items (s : State) (id : Nat) (f : Token → Token) : (s.updateToken id f).items = s.items := rfl
@[simp] theorem State.updateToken_actions (s : State) (id : Nat) (f : Token → Token) : (s.updateToken id f).actions = s.actions := rfl
@[simp] theorem State.updateToken_descs (s : State) (id : Nat) (f : Token → Token) : (s.updateToken id f).descs = s.descs := rfl
@[simp] theorem State.updateToken_windows (s : State) (id : Nat) (f : Token → Token) : (s.updateToken id f).windows = s.windows := rfl
@[simp] theorem State.updateToken_tlb (s : State) (id : Nat) (f : Token → Token) : (s.updateToken id f).tlb = s.tlb := rfl
@[simp] theorem State.updateToken_icache (s : State) (id : Nat) (f : Token → Token) : (s.updateToken id f).icache = s.icache := rfl
@[simp] theorem State.updateToken_lcache (s : State) (id : Nat) (f : Token → Token) : (s.updateToken id f).lcache = s.lcache := rfl
@[simp] theorem State.updateToken_tiles (s : State) (id : Nat) (f : Token → Token) : (s.updateToken id f).tiles = s.tiles := rfl
@[simp] theorem State.updateToken_tilePoison (s : State) (id : Nat) (f : Token → Token) : (s.updateToken id f).tilePoison = s.tilePoison := rfl
@[simp] theorem State.updateToken_scratch (s : State) (id : Nat) (f : Token → Token) : (s.updateToken id f).scratch = s.scratch := rfl
@[simp] theorem State.updateToken_gslots (s : State) (id : Nat) (f : Token → Token) : (s.updateToken id f).gslots = s.gslots := rfl
@[simp] theorem State.updateToken_carJobs (s : State) (id : Nat) (f : Token → Token) : (s.updateToken id f).carJobs = s.carJobs := rfl
@[simp] theorem State.updateToken_carClock (s : State) (id : Nat) (f : Token → Token) : (s.updateToken id f).carClock = s.carClock := rfl
@[simp] theorem State.updateToken_counts (s : State) (id : Nat) (f : Token → Token) : (s.updateToken id f).counts = s.counts := rfl
@[simp] theorem State.updateToken_killed (s : State) (id : Nat) (f : Token → Token) : (s.updateToken id f).killed = s.killed := rfl
@[simp] theorem State.updateToken_halted (s : State) (id : Nat) (f : Token → Token) : (s.updateToken id f).halted = s.halted := rfl
@[simp] theorem State.updateToken_faultCount (s : State) (id : Nat) (f : Token → Token) : (s.updateToken id f).faultCount = s.faultCount := rfl
@[simp] theorem State.updateToken_genCount (s : State) (id : Nat) (f : Token → Token) : (s.updateToken id f).genCount = s.genCount := rfl
@[simp] theorem State.updateToken_mem (s : State) (id : Nat) (f : Token → Token) : (s.updateToken id f).mem = s.mem := rfl
@[simp] theorem State.updateToken_host (s : State) (id : Nat) (f : Token → Token) : (s.updateToken id f).host = s.host := rfl
@[simp] theorem State.updateToken_flash (s : State) (id : Nat) (f : Token → Token) : (s.updateToken id f).flash = s.flash := rfl
@[simp] theorem State.updateToken_ctl (s : State) (id : Nat) (f : Token → Token) : (s.updateToken id f).ctl = s.ctl := rfl
@[simp] theorem State.updateToken_sys (s : State) (id : Nat) (f : Token → Token) : (s.updateToken id f).sys = s.sys := rfl
@[simp] theorem State.updateToken_io (s : State) (id : Nat) (f : Token → Token) : (s.updateToken id f).io = s.io := rfl
@[simp] theorem State.updateToken_hw (s : State) (id : Nat) (f : Token → Token) : (s.updateToken id f).hw = s.hw := rfl

/-! ### `dropToken` -/

@[simp] theorem State.dropToken_agenda (s : State) (id : Nat) : (s.dropToken id).agenda = s.agenda := rfl
@[simp] theorem State.dropToken_tick (s : State) (id : Nat) : (s.dropToken id).tick = s.tick := rfl
@[simp] theorem State.dropToken_nextId (s : State) (id : Nat) : (s.dropToken id).nextId = s.nextId := rfl
@[simp] theorem State.dropToken_cur (s : State) (id : Nat) : (s.dropToken id).cur = s.cur := rfl
@[simp] theorem State.dropToken_cyc (s : State) (id : Nat) : (s.dropToken id).cyc = s.cyc := rfl
@[simp] theorem State.dropToken_insts (s : State) (id : Nat) : (s.dropToken id).insts = s.insts := rfl
@[simp] theorem State.dropToken_frames (s : State) (id : Nat) : (s.dropToken id).frames = s.frames := rfl
@[simp] theorem State.dropToken_ready (s : State) (id : Nat) : (s.dropToken id).ready = s.ready := rfl
@[simp] theorem State.dropToken_ops (s : State) (id : Nat) : (s.dropToken id).ops = s.ops := rfl
@[simp] theorem State.dropToken_items (s : State) (id : Nat) : (s.dropToken id).items = s.items := rfl
@[simp] theorem State.dropToken_actions (s : State) (id : Nat) : (s.dropToken id).actions = s.actions := rfl
@[simp] theorem State.dropToken_descs (s : State) (id : Nat) : (s.dropToken id).descs = s.descs := rfl
@[simp] theorem State.dropToken_windows (s : State) (id : Nat) : (s.dropToken id).windows = s.windows := rfl
@[simp] theorem State.dropToken_tlb (s : State) (id : Nat) : (s.dropToken id).tlb = s.tlb := rfl
@[simp] theorem State.dropToken_icache (s : State) (id : Nat) : (s.dropToken id).icache = s.icache := rfl
@[simp] theorem State.dropToken_lcache (s : State) (id : Nat) : (s.dropToken id).lcache = s.lcache := rfl
@[simp] theorem State.dropToken_tiles (s : State) (id : Nat) : (s.dropToken id).tiles = s.tiles := rfl
@[simp] theorem State.dropToken_tilePoison (s : State) (id : Nat) : (s.dropToken id).tilePoison = s.tilePoison := rfl
@[simp] theorem State.dropToken_scratch (s : State) (id : Nat) : (s.dropToken id).scratch = s.scratch := rfl
@[simp] theorem State.dropToken_gslots (s : State) (id : Nat) : (s.dropToken id).gslots = s.gslots := rfl
@[simp] theorem State.dropToken_carJobs (s : State) (id : Nat) : (s.dropToken id).carJobs = s.carJobs := rfl
@[simp] theorem State.dropToken_carClock (s : State) (id : Nat) : (s.dropToken id).carClock = s.carClock := rfl
@[simp] theorem State.dropToken_counts (s : State) (id : Nat) : (s.dropToken id).counts = s.counts := rfl
@[simp] theorem State.dropToken_killed (s : State) (id : Nat) : (s.dropToken id).killed = s.killed := rfl
@[simp] theorem State.dropToken_halted (s : State) (id : Nat) : (s.dropToken id).halted = s.halted := rfl
@[simp] theorem State.dropToken_faultCount (s : State) (id : Nat) : (s.dropToken id).faultCount = s.faultCount := rfl
@[simp] theorem State.dropToken_genCount (s : State) (id : Nat) : (s.dropToken id).genCount = s.genCount := rfl
@[simp] theorem State.dropToken_mem (s : State) (id : Nat) : (s.dropToken id).mem = s.mem := rfl
@[simp] theorem State.dropToken_host (s : State) (id : Nat) : (s.dropToken id).host = s.host := rfl
@[simp] theorem State.dropToken_flash (s : State) (id : Nat) : (s.dropToken id).flash = s.flash := rfl
@[simp] theorem State.dropToken_ctl (s : State) (id : Nat) : (s.dropToken id).ctl = s.ctl := rfl
@[simp] theorem State.dropToken_sys (s : State) (id : Nat) : (s.dropToken id).sys = s.sys := rfl
@[simp] theorem State.dropToken_io (s : State) (id : Nat) : (s.dropToken id).io = s.io := rfl
@[simp] theorem State.dropToken_hw (s : State) (id : Nat) : (s.dropToken id).hw = s.hw := rfl

/-! ### `sendToken` -/

@[simp] theorem State.sendToken_agenda (s : State) (t : Token) : (s.sendToken t).agenda = s.agenda := rfl
@[simp] theorem State.sendToken_tick (s : State) (t : Token) : (s.sendToken t).tick = s.tick := rfl
@[simp] theorem State.sendToken_cur (s : State) (t : Token) : (s.sendToken t).cur = s.cur := rfl
@[simp] theorem State.sendToken_cyc (s : State) (t : Token) : (s.sendToken t).cyc = s.cyc := rfl
@[simp] theorem State.sendToken_insts (s : State) (t : Token) : (s.sendToken t).insts = s.insts := rfl
@[simp] theorem State.sendToken_frames (s : State) (t : Token) : (s.sendToken t).frames = s.frames := rfl
@[simp] theorem State.sendToken_ready (s : State) (t : Token) : (s.sendToken t).ready = s.ready := rfl
@[simp] theorem State.sendToken_ops (s : State) (t : Token) : (s.sendToken t).ops = s.ops := rfl
@[simp] theorem State.sendToken_items (s : State) (t : Token) : (s.sendToken t).items = s.items := rfl
@[simp] theorem State.sendToken_actions (s : State) (t : Token) : (s.sendToken t).actions = s.actions := rfl
@[simp] theorem State.sendToken_descs (s : State) (t : Token) : (s.sendToken t).descs = s.descs := rfl
@[simp] theorem State.sendToken_windows (s : State) (t : Token) : (s.sendToken t).windows = s.windows := rfl
@[simp] theorem State.sendToken_tlb (s : State) (t : Token) : (s.sendToken t).tlb = s.tlb := rfl
@[simp] theorem State.sendToken_icache (s : State) (t : Token) : (s.sendToken t).icache = s.icache := rfl
@[simp] theorem State.sendToken_lcache (s : State) (t : Token) : (s.sendToken t).lcache = s.lcache := rfl
@[simp] theorem State.sendToken_tiles (s : State) (t : Token) : (s.sendToken t).tiles = s.tiles := rfl
@[simp] theorem State.sendToken_tilePoison (s : State) (t : Token) : (s.sendToken t).tilePoison = s.tilePoison := rfl
@[simp] theorem State.sendToken_scratch (s : State) (t : Token) : (s.sendToken t).scratch = s.scratch := rfl
@[simp] theorem State.sendToken_gslots (s : State) (t : Token) : (s.sendToken t).gslots = s.gslots := rfl
@[simp] theorem State.sendToken_carJobs (s : State) (t : Token) : (s.sendToken t).carJobs = s.carJobs := rfl
@[simp] theorem State.sendToken_carClock (s : State) (t : Token) : (s.sendToken t).carClock = s.carClock := rfl
@[simp] theorem State.sendToken_counts (s : State) (t : Token) : (s.sendToken t).counts = s.counts := rfl
@[simp] theorem State.sendToken_killed (s : State) (t : Token) : (s.sendToken t).killed = s.killed := rfl
@[simp] theorem State.sendToken_halted (s : State) (t : Token) : (s.sendToken t).halted = s.halted := rfl
@[simp] theorem State.sendToken_faultCount (s : State) (t : Token) : (s.sendToken t).faultCount = s.faultCount := rfl
@[simp] theorem State.sendToken_genCount (s : State) (t : Token) : (s.sendToken t).genCount = s.genCount := rfl
@[simp] theorem State.sendToken_mem (s : State) (t : Token) : (s.sendToken t).mem = s.mem := rfl
@[simp] theorem State.sendToken_host (s : State) (t : Token) : (s.sendToken t).host = s.host := rfl
@[simp] theorem State.sendToken_flash (s : State) (t : Token) : (s.sendToken t).flash = s.flash := rfl
@[simp] theorem State.sendToken_ctl (s : State) (t : Token) : (s.sendToken t).ctl = s.ctl := rfl
@[simp] theorem State.sendToken_sys (s : State) (t : Token) : (s.sendToken t).sys = s.sys := rfl
@[simp] theorem State.sendToken_io (s : State) (t : Token) : (s.sendToken t).io = s.io := rfl
@[simp] theorem State.sendToken_hw (s : State) (t : Token) : (s.sendToken t).hw = s.hw := rfl

/-! ### `unpin` -/

@[simp] theorem State.unpin_agenda (s : State) (site n : Nat) : (s.unpin site n).agenda = s.agenda := rfl
@[simp] theorem State.unpin_tick (s : State) (site n : Nat) : (s.unpin site n).tick = s.tick := rfl
@[simp] theorem State.unpin_nextId (s : State) (site n : Nat) : (s.unpin site n).nextId = s.nextId := rfl
@[simp] theorem State.unpin_cur (s : State) (site n : Nat) : (s.unpin site n).cur = s.cur := rfl
@[simp] theorem State.unpin_cyc (s : State) (site n : Nat) : (s.unpin site n).cyc = s.cyc := rfl
@[simp] theorem State.unpin_insts (s : State) (site n : Nat) : (s.unpin site n).insts = s.insts := rfl
@[simp] theorem State.unpin_frames (s : State) (site n : Nat) : (s.unpin site n).frames = s.frames := rfl
@[simp] theorem State.unpin_tokens (s : State) (site n : Nat) : (s.unpin site n).tokens = s.tokens := rfl
@[simp] theorem State.unpin_ready (s : State) (site n : Nat) : (s.unpin site n).ready = s.ready := rfl
@[simp] theorem State.unpin_ops (s : State) (site n : Nat) : (s.unpin site n).ops = s.ops := rfl
@[simp] theorem State.unpin_items (s : State) (site n : Nat) : (s.unpin site n).items = s.items := rfl
@[simp] theorem State.unpin_actions (s : State) (site n : Nat) : (s.unpin site n).actions = s.actions := rfl
@[simp] theorem State.unpin_descs (s : State) (site n : Nat) : (s.unpin site n).descs = s.descs := rfl
@[simp] theorem State.unpin_windows (s : State) (site n : Nat) : (s.unpin site n).windows = s.windows := rfl
@[simp] theorem State.unpin_tlb (s : State) (site n : Nat) : (s.unpin site n).tlb = s.tlb := rfl
@[simp] theorem State.unpin_icache (s : State) (site n : Nat) : (s.unpin site n).icache = s.icache := rfl
@[simp] theorem State.unpin_lcache (s : State) (site n : Nat) : (s.unpin site n).lcache = s.lcache := rfl
@[simp] theorem State.unpin_tiles (s : State) (site n : Nat) : (s.unpin site n).tiles = s.tiles := rfl
@[simp] theorem State.unpin_tilePoison (s : State) (site n : Nat) : (s.unpin site n).tilePoison = s.tilePoison := rfl
@[simp] theorem State.unpin_scratch (s : State) (site n : Nat) : (s.unpin site n).scratch = s.scratch := rfl
@[simp] theorem State.unpin_carJobs (s : State) (site n : Nat) : (s.unpin site n).carJobs = s.carJobs := rfl
@[simp] theorem State.unpin_carClock (s : State) (site n : Nat) : (s.unpin site n).carClock = s.carClock := rfl
@[simp] theorem State.unpin_counts (s : State) (site n : Nat) : (s.unpin site n).counts = s.counts := rfl
@[simp] theorem State.unpin_killed (s : State) (site n : Nat) : (s.unpin site n).killed = s.killed := rfl
@[simp] theorem State.unpin_halted (s : State) (site n : Nat) : (s.unpin site n).halted = s.halted := rfl
@[simp] theorem State.unpin_faultCount (s : State) (site n : Nat) : (s.unpin site n).faultCount = s.faultCount := rfl
@[simp] theorem State.unpin_genCount (s : State) (site n : Nat) : (s.unpin site n).genCount = s.genCount := rfl
@[simp] theorem State.unpin_mem (s : State) (site n : Nat) : (s.unpin site n).mem = s.mem := rfl
@[simp] theorem State.unpin_host (s : State) (site n : Nat) : (s.unpin site n).host = s.host := rfl
@[simp] theorem State.unpin_flash (s : State) (site n : Nat) : (s.unpin site n).flash = s.flash := rfl
@[simp] theorem State.unpin_ctl (s : State) (site n : Nat) : (s.unpin site n).ctl = s.ctl := rfl
@[simp] theorem State.unpin_sys (s : State) (site n : Nat) : (s.unpin site n).sys = s.sys := rfl
@[simp] theorem State.unpin_io (s : State) (site n : Nat) : (s.unpin site n).io = s.io := rfl
@[simp] theorem State.unpin_hw (s : State) (site n : Nat) : (s.unpin site n).hw = s.hw := rfl

/-! ### `updateOp` -/

@[simp] theorem State.updateOp_agenda (s : State) (id : Nat) (f : Op → Op) : (s.updateOp id f).agenda = s.agenda := rfl
@[simp] theorem State.updateOp_tick (s : State) (id : Nat) (f : Op → Op) : (s.updateOp id f).tick = s.tick := rfl
@[simp] theorem State.updateOp_nextId (s : State) (id : Nat) (f : Op → Op) : (s.updateOp id f).nextId = s.nextId := rfl
@[simp] theorem State.updateOp_cur (s : State) (id : Nat) (f : Op → Op) : (s.updateOp id f).cur = s.cur := rfl
@[simp] theorem State.updateOp_cyc (s : State) (id : Nat) (f : Op → Op) : (s.updateOp id f).cyc = s.cyc := rfl
@[simp] theorem State.updateOp_insts (s : State) (id : Nat) (f : Op → Op) : (s.updateOp id f).insts = s.insts := rfl
@[simp] theorem State.updateOp_frames (s : State) (id : Nat) (f : Op → Op) : (s.updateOp id f).frames = s.frames := rfl
@[simp] theorem State.updateOp_tokens (s : State) (id : Nat) (f : Op → Op) : (s.updateOp id f).tokens = s.tokens := rfl
@[simp] theorem State.updateOp_ready (s : State) (id : Nat) (f : Op → Op) : (s.updateOp id f).ready = s.ready := rfl
@[simp] theorem State.updateOp_items (s : State) (id : Nat) (f : Op → Op) : (s.updateOp id f).items = s.items := rfl
@[simp] theorem State.updateOp_actions (s : State) (id : Nat) (f : Op → Op) : (s.updateOp id f).actions = s.actions := rfl
@[simp] theorem State.updateOp_descs (s : State) (id : Nat) (f : Op → Op) : (s.updateOp id f).descs = s.descs := rfl
@[simp] theorem State.updateOp_windows (s : State) (id : Nat) (f : Op → Op) : (s.updateOp id f).windows = s.windows := rfl
@[simp] theorem State.updateOp_tlb (s : State) (id : Nat) (f : Op → Op) : (s.updateOp id f).tlb = s.tlb := rfl
@[simp] theorem State.updateOp_icache (s : State) (id : Nat) (f : Op → Op) : (s.updateOp id f).icache = s.icache := rfl
@[simp] theorem State.updateOp_lcache (s : State) (id : Nat) (f : Op → Op) : (s.updateOp id f).lcache = s.lcache := rfl
@[simp] theorem State.updateOp_tiles (s : State) (id : Nat) (f : Op → Op) : (s.updateOp id f).tiles = s.tiles := rfl
@[simp] theorem State.updateOp_tilePoison (s : State) (id : Nat) (f : Op → Op) : (s.updateOp id f).tilePoison = s.tilePoison := rfl
@[simp] theorem State.updateOp_scratch (s : State) (id : Nat) (f : Op → Op) : (s.updateOp id f).scratch = s.scratch := rfl
@[simp] theorem State.updateOp_gslots (s : State) (id : Nat) (f : Op → Op) : (s.updateOp id f).gslots = s.gslots := rfl
@[simp] theorem State.updateOp_carJobs (s : State) (id : Nat) (f : Op → Op) : (s.updateOp id f).carJobs = s.carJobs := rfl
@[simp] theorem State.updateOp_carClock (s : State) (id : Nat) (f : Op → Op) : (s.updateOp id f).carClock = s.carClock := rfl
@[simp] theorem State.updateOp_counts (s : State) (id : Nat) (f : Op → Op) : (s.updateOp id f).counts = s.counts := rfl
@[simp] theorem State.updateOp_killed (s : State) (id : Nat) (f : Op → Op) : (s.updateOp id f).killed = s.killed := rfl
@[simp] theorem State.updateOp_halted (s : State) (id : Nat) (f : Op → Op) : (s.updateOp id f).halted = s.halted := rfl
@[simp] theorem State.updateOp_faultCount (s : State) (id : Nat) (f : Op → Op) : (s.updateOp id f).faultCount = s.faultCount := rfl
@[simp] theorem State.updateOp_genCount (s : State) (id : Nat) (f : Op → Op) : (s.updateOp id f).genCount = s.genCount := rfl
@[simp] theorem State.updateOp_mem (s : State) (id : Nat) (f : Op → Op) : (s.updateOp id f).mem = s.mem := rfl
@[simp] theorem State.updateOp_host (s : State) (id : Nat) (f : Op → Op) : (s.updateOp id f).host = s.host := rfl
@[simp] theorem State.updateOp_flash (s : State) (id : Nat) (f : Op → Op) : (s.updateOp id f).flash = s.flash := rfl
@[simp] theorem State.updateOp_ctl (s : State) (id : Nat) (f : Op → Op) : (s.updateOp id f).ctl = s.ctl := rfl
@[simp] theorem State.updateOp_sys (s : State) (id : Nat) (f : Op → Op) : (s.updateOp id f).sys = s.sys := rfl
@[simp] theorem State.updateOp_io (s : State) (id : Nat) (f : Op → Op) : (s.updateOp id f).io = s.io := rfl
@[simp] theorem State.updateOp_hw (s : State) (id : Nat) (f : Op → Op) : (s.updateOp id f).hw = s.hw := rfl

/-! ### `takeItem` -/

@[simp] theorem State.takeItem_agenda (s : State) (id : Nat) : (s.takeItem id).agenda = s.agenda := rfl
@[simp] theorem State.takeItem_tick (s : State) (id : Nat) : (s.takeItem id).tick = s.tick := rfl
@[simp] theorem State.takeItem_nextId (s : State) (id : Nat) : (s.takeItem id).nextId = s.nextId := rfl
@[simp] theorem State.takeItem_cur (s : State) (id : Nat) : (s.takeItem id).cur = s.cur := rfl
@[simp] theorem State.takeItem_cyc (s : State) (id : Nat) : (s.takeItem id).cyc = s.cyc := rfl
@[simp] theorem State.takeItem_insts (s : State) (id : Nat) : (s.takeItem id).insts = s.insts := rfl
@[simp] theorem State.takeItem_frames (s : State) (id : Nat) : (s.takeItem id).frames = s.frames := rfl
@[simp] theorem State.takeItem_tokens (s : State) (id : Nat) : (s.takeItem id).tokens = s.tokens := rfl
@[simp] theorem State.takeItem_ready (s : State) (id : Nat) : (s.takeItem id).ready = s.ready := rfl
@[simp] theorem State.takeItem_ops (s : State) (id : Nat) : (s.takeItem id).ops = s.ops := rfl
@[simp] theorem State.takeItem_actions (s : State) (id : Nat) : (s.takeItem id).actions = s.actions := rfl
@[simp] theorem State.takeItem_descs (s : State) (id : Nat) : (s.takeItem id).descs = s.descs := rfl
@[simp] theorem State.takeItem_windows (s : State) (id : Nat) : (s.takeItem id).windows = s.windows := rfl
@[simp] theorem State.takeItem_tlb (s : State) (id : Nat) : (s.takeItem id).tlb = s.tlb := rfl
@[simp] theorem State.takeItem_icache (s : State) (id : Nat) : (s.takeItem id).icache = s.icache := rfl
@[simp] theorem State.takeItem_lcache (s : State) (id : Nat) : (s.takeItem id).lcache = s.lcache := rfl
@[simp] theorem State.takeItem_tiles (s : State) (id : Nat) : (s.takeItem id).tiles = s.tiles := rfl
@[simp] theorem State.takeItem_tilePoison (s : State) (id : Nat) : (s.takeItem id).tilePoison = s.tilePoison := rfl
@[simp] theorem State.takeItem_scratch (s : State) (id : Nat) : (s.takeItem id).scratch = s.scratch := rfl
@[simp] theorem State.takeItem_gslots (s : State) (id : Nat) : (s.takeItem id).gslots = s.gslots := rfl
@[simp] theorem State.takeItem_carJobs (s : State) (id : Nat) : (s.takeItem id).carJobs = s.carJobs := rfl
@[simp] theorem State.takeItem_carClock (s : State) (id : Nat) : (s.takeItem id).carClock = s.carClock := rfl
@[simp] theorem State.takeItem_counts (s : State) (id : Nat) : (s.takeItem id).counts = s.counts := rfl
@[simp] theorem State.takeItem_killed (s : State) (id : Nat) : (s.takeItem id).killed = s.killed := rfl
@[simp] theorem State.takeItem_halted (s : State) (id : Nat) : (s.takeItem id).halted = s.halted := rfl
@[simp] theorem State.takeItem_faultCount (s : State) (id : Nat) : (s.takeItem id).faultCount = s.faultCount := rfl
@[simp] theorem State.takeItem_genCount (s : State) (id : Nat) : (s.takeItem id).genCount = s.genCount := rfl
@[simp] theorem State.takeItem_mem (s : State) (id : Nat) : (s.takeItem id).mem = s.mem := rfl
@[simp] theorem State.takeItem_host (s : State) (id : Nat) : (s.takeItem id).host = s.host := rfl
@[simp] theorem State.takeItem_flash (s : State) (id : Nat) : (s.takeItem id).flash = s.flash := rfl
@[simp] theorem State.takeItem_ctl (s : State) (id : Nat) : (s.takeItem id).ctl = s.ctl := rfl
@[simp] theorem State.takeItem_sys (s : State) (id : Nat) : (s.takeItem id).sys = s.sys := rfl
@[simp] theorem State.takeItem_io (s : State) (id : Nat) : (s.takeItem id).io = s.io := rfl
@[simp] theorem State.takeItem_hw (s : State) (id : Nat) : (s.takeItem id).hw = s.hw := rfl

/-! ### `updateFrame` -/

@[simp] theorem State.updateFrame_agenda (s : State) (site : Nat) (k : Key) (f : Frame → Frame) : (s.updateFrame site k f).agenda = s.agenda := rfl
@[simp] theorem State.updateFrame_tick (s : State) (site : Nat) (k : Key) (f : Frame → Frame) : (s.updateFrame site k f).tick = s.tick := rfl
@[simp] theorem State.updateFrame_nextId (s : State) (site : Nat) (k : Key) (f : Frame → Frame) : (s.updateFrame site k f).nextId = s.nextId := rfl
@[simp] theorem State.updateFrame_cur (s : State) (site : Nat) (k : Key) (f : Frame → Frame) : (s.updateFrame site k f).cur = s.cur := rfl
@[simp] theorem State.updateFrame_cyc (s : State) (site : Nat) (k : Key) (f : Frame → Frame) : (s.updateFrame site k f).cyc = s.cyc := rfl
@[simp] theorem State.updateFrame_insts (s : State) (site : Nat) (k : Key) (f : Frame → Frame) : (s.updateFrame site k f).insts = s.insts := rfl
@[simp] theorem State.updateFrame_tokens (s : State) (site : Nat) (k : Key) (f : Frame → Frame) : (s.updateFrame site k f).tokens = s.tokens := rfl
@[simp] theorem State.updateFrame_ready (s : State) (site : Nat) (k : Key) (f : Frame → Frame) : (s.updateFrame site k f).ready = s.ready := rfl
@[simp] theorem State.updateFrame_ops (s : State) (site : Nat) (k : Key) (f : Frame → Frame) : (s.updateFrame site k f).ops = s.ops := rfl
@[simp] theorem State.updateFrame_items (s : State) (site : Nat) (k : Key) (f : Frame → Frame) : (s.updateFrame site k f).items = s.items := rfl
@[simp] theorem State.updateFrame_actions (s : State) (site : Nat) (k : Key) (f : Frame → Frame) : (s.updateFrame site k f).actions = s.actions := rfl
@[simp] theorem State.updateFrame_descs (s : State) (site : Nat) (k : Key) (f : Frame → Frame) : (s.updateFrame site k f).descs = s.descs := rfl
@[simp] theorem State.updateFrame_windows (s : State) (site : Nat) (k : Key) (f : Frame → Frame) : (s.updateFrame site k f).windows = s.windows := rfl
@[simp] theorem State.updateFrame_tlb (s : State) (site : Nat) (k : Key) (f : Frame → Frame) : (s.updateFrame site k f).tlb = s.tlb := rfl
@[simp] theorem State.updateFrame_icache (s : State) (site : Nat) (k : Key) (f : Frame → Frame) : (s.updateFrame site k f).icache = s.icache := rfl
@[simp] theorem State.updateFrame_lcache (s : State) (site : Nat) (k : Key) (f : Frame → Frame) : (s.updateFrame site k f).lcache = s.lcache := rfl
@[simp] theorem State.updateFrame_tiles (s : State) (site : Nat) (k : Key) (f : Frame → Frame) : (s.updateFrame site k f).tiles = s.tiles := rfl
@[simp] theorem State.updateFrame_tilePoison (s : State) (site : Nat) (k : Key) (f : Frame → Frame) : (s.updateFrame site k f).tilePoison = s.tilePoison := rfl
@[simp] theorem State.updateFrame_scratch (s : State) (site : Nat) (k : Key) (f : Frame → Frame) : (s.updateFrame site k f).scratch = s.scratch := rfl
@[simp] theorem State.updateFrame_gslots (s : State) (site : Nat) (k : Key) (f : Frame → Frame) : (s.updateFrame site k f).gslots = s.gslots := rfl
@[simp] theorem State.updateFrame_carJobs (s : State) (site : Nat) (k : Key) (f : Frame → Frame) : (s.updateFrame site k f).carJobs = s.carJobs := rfl
@[simp] theorem State.updateFrame_carClock (s : State) (site : Nat) (k : Key) (f : Frame → Frame) : (s.updateFrame site k f).carClock = s.carClock := rfl
@[simp] theorem State.updateFrame_counts (s : State) (site : Nat) (k : Key) (f : Frame → Frame) : (s.updateFrame site k f).counts = s.counts := rfl
@[simp] theorem State.updateFrame_killed (s : State) (site : Nat) (k : Key) (f : Frame → Frame) : (s.updateFrame site k f).killed = s.killed := rfl
@[simp] theorem State.updateFrame_halted (s : State) (site : Nat) (k : Key) (f : Frame → Frame) : (s.updateFrame site k f).halted = s.halted := rfl
@[simp] theorem State.updateFrame_faultCount (s : State) (site : Nat) (k : Key) (f : Frame → Frame) : (s.updateFrame site k f).faultCount = s.faultCount := rfl
@[simp] theorem State.updateFrame_genCount (s : State) (site : Nat) (k : Key) (f : Frame → Frame) : (s.updateFrame site k f).genCount = s.genCount := rfl
@[simp] theorem State.updateFrame_mem (s : State) (site : Nat) (k : Key) (f : Frame → Frame) : (s.updateFrame site k f).mem = s.mem := rfl
@[simp] theorem State.updateFrame_host (s : State) (site : Nat) (k : Key) (f : Frame → Frame) : (s.updateFrame site k f).host = s.host := rfl
@[simp] theorem State.updateFrame_flash (s : State) (site : Nat) (k : Key) (f : Frame → Frame) : (s.updateFrame site k f).flash = s.flash := rfl
@[simp] theorem State.updateFrame_ctl (s : State) (site : Nat) (k : Key) (f : Frame → Frame) : (s.updateFrame site k f).ctl = s.ctl := rfl
@[simp] theorem State.updateFrame_sys (s : State) (site : Nat) (k : Key) (f : Frame → Frame) : (s.updateFrame site k f).sys = s.sys := rfl
@[simp] theorem State.updateFrame_io (s : State) (site : Nat) (k : Key) (f : Frame → Frame) : (s.updateFrame site k f).io = s.io := rfl
@[simp] theorem State.updateFrame_hw (s : State) (site : Nat) (k : Key) (f : Frame → Frame) : (s.updateFrame site k f).hw = s.hw := rfl

/-! ### `dropFrame` -/

@[simp] theorem State.dropFrame_agenda (s : State) (site : Nat) (k : Key) : (s.dropFrame site k).agenda = s.agenda := rfl
@[simp] theorem State.dropFrame_tick (s : State) (site : Nat) (k : Key) : (s.dropFrame site k).tick = s.tick := rfl
@[simp] theorem State.dropFrame_nextId (s : State) (site : Nat) (k : Key) : (s.dropFrame site k).nextId = s.nextId := rfl
@[simp] theorem State.dropFrame_cur (s : State) (site : Nat) (k : Key) : (s.dropFrame site k).cur = s.cur := rfl
@[simp] theorem State.dropFrame_cyc (s : State) (site : Nat) (k : Key) : (s.dropFrame site k).cyc = s.cyc := rfl
@[simp] theorem State.dropFrame_insts (s : State) (site : Nat) (k : Key) : (s.dropFrame site k).insts = s.insts := rfl
@[simp] theorem State.dropFrame_tokens (s : State) (site : Nat) (k : Key) : (s.dropFrame site k).tokens = s.tokens := rfl
@[simp] theorem State.dropFrame_ready (s : State) (site : Nat) (k : Key) : (s.dropFrame site k).ready = s.ready := rfl
@[simp] theorem State.dropFrame_ops (s : State) (site : Nat) (k : Key) : (s.dropFrame site k).ops = s.ops := rfl
@[simp] theorem State.dropFrame_items (s : State) (site : Nat) (k : Key) : (s.dropFrame site k).items = s.items := rfl
@[simp] theorem State.dropFrame_actions (s : State) (site : Nat) (k : Key) : (s.dropFrame site k).actions = s.actions := rfl
@[simp] theorem State.dropFrame_descs (s : State) (site : Nat) (k : Key) : (s.dropFrame site k).descs = s.descs := rfl
@[simp] theorem State.dropFrame_windows (s : State) (site : Nat) (k : Key) : (s.dropFrame site k).windows = s.windows := rfl
@[simp] theorem State.dropFrame_tlb (s : State) (site : Nat) (k : Key) : (s.dropFrame site k).tlb = s.tlb := rfl
@[simp] theorem State.dropFrame_icache (s : State) (site : Nat) (k : Key) : (s.dropFrame site k).icache = s.icache := rfl
@[simp] theorem State.dropFrame_lcache (s : State) (site : Nat) (k : Key) : (s.dropFrame site k).lcache = s.lcache := rfl
@[simp] theorem State.dropFrame_tiles (s : State) (site : Nat) (k : Key) : (s.dropFrame site k).tiles = s.tiles := rfl
@[simp] theorem State.dropFrame_tilePoison (s : State) (site : Nat) (k : Key) : (s.dropFrame site k).tilePoison = s.tilePoison := rfl
@[simp] theorem State.dropFrame_scratch (s : State) (site : Nat) (k : Key) : (s.dropFrame site k).scratch = s.scratch := rfl
@[simp] theorem State.dropFrame_gslots (s : State) (site : Nat) (k : Key) : (s.dropFrame site k).gslots = s.gslots := rfl
@[simp] theorem State.dropFrame_carJobs (s : State) (site : Nat) (k : Key) : (s.dropFrame site k).carJobs = s.carJobs := rfl
@[simp] theorem State.dropFrame_carClock (s : State) (site : Nat) (k : Key) : (s.dropFrame site k).carClock = s.carClock := rfl
@[simp] theorem State.dropFrame_counts (s : State) (site : Nat) (k : Key) : (s.dropFrame site k).counts = s.counts := rfl
@[simp] theorem State.dropFrame_killed (s : State) (site : Nat) (k : Key) : (s.dropFrame site k).killed = s.killed := rfl
@[simp] theorem State.dropFrame_halted (s : State) (site : Nat) (k : Key) : (s.dropFrame site k).halted = s.halted := rfl
@[simp] theorem State.dropFrame_faultCount (s : State) (site : Nat) (k : Key) : (s.dropFrame site k).faultCount = s.faultCount := rfl
@[simp] theorem State.dropFrame_genCount (s : State) (site : Nat) (k : Key) : (s.dropFrame site k).genCount = s.genCount := rfl
@[simp] theorem State.dropFrame_mem (s : State) (site : Nat) (k : Key) : (s.dropFrame site k).mem = s.mem := rfl
@[simp] theorem State.dropFrame_host (s : State) (site : Nat) (k : Key) : (s.dropFrame site k).host = s.host := rfl
@[simp] theorem State.dropFrame_flash (s : State) (site : Nat) (k : Key) : (s.dropFrame site k).flash = s.flash := rfl
@[simp] theorem State.dropFrame_ctl (s : State) (site : Nat) (k : Key) : (s.dropFrame site k).ctl = s.ctl := rfl
@[simp] theorem State.dropFrame_sys (s : State) (site : Nat) (k : Key) : (s.dropFrame site k).sys = s.sys := rfl
@[simp] theorem State.dropFrame_io (s : State) (site : Nat) (k : Key) : (s.dropFrame site k).io = s.io := rfl
@[simp] theorem State.dropFrame_hw (s : State) (site : Nat) (k : Key) : (s.dropFrame site k).hw = s.hw := rfl

/-! ### `updateSlot` -/

@[simp] theorem State.updateSlot_agenda (s : State) (site k : Nat) (f : GSlot → GSlot) : (s.updateSlot site k f).agenda = s.agenda := rfl
@[simp] theorem State.updateSlot_tick (s : State) (site k : Nat) (f : GSlot → GSlot) : (s.updateSlot site k f).tick = s.tick := rfl
@[simp] theorem State.updateSlot_nextId (s : State) (site k : Nat) (f : GSlot → GSlot) : (s.updateSlot site k f).nextId = s.nextId := rfl
@[simp] theorem State.updateSlot_cur (s : State) (site k : Nat) (f : GSlot → GSlot) : (s.updateSlot site k f).cur = s.cur := rfl
@[simp] theorem State.updateSlot_cyc (s : State) (site k : Nat) (f : GSlot → GSlot) : (s.updateSlot site k f).cyc = s.cyc := rfl
@[simp] theorem State.updateSlot_insts (s : State) (site k : Nat) (f : GSlot → GSlot) : (s.updateSlot site k f).insts = s.insts := rfl
@[simp] theorem State.updateSlot_frames (s : State) (site k : Nat) (f : GSlot → GSlot) : (s.updateSlot site k f).frames = s.frames := rfl
@[simp] theorem State.updateSlot_tokens (s : State) (site k : Nat) (f : GSlot → GSlot) : (s.updateSlot site k f).tokens = s.tokens := rfl
@[simp] theorem State.updateSlot_ready (s : State) (site k : Nat) (f : GSlot → GSlot) : (s.updateSlot site k f).ready = s.ready := rfl
@[simp] theorem State.updateSlot_ops (s : State) (site k : Nat) (f : GSlot → GSlot) : (s.updateSlot site k f).ops = s.ops := rfl
@[simp] theorem State.updateSlot_items (s : State) (site k : Nat) (f : GSlot → GSlot) : (s.updateSlot site k f).items = s.items := rfl
@[simp] theorem State.updateSlot_actions (s : State) (site k : Nat) (f : GSlot → GSlot) : (s.updateSlot site k f).actions = s.actions := rfl
@[simp] theorem State.updateSlot_descs (s : State) (site k : Nat) (f : GSlot → GSlot) : (s.updateSlot site k f).descs = s.descs := rfl
@[simp] theorem State.updateSlot_windows (s : State) (site k : Nat) (f : GSlot → GSlot) : (s.updateSlot site k f).windows = s.windows := rfl
@[simp] theorem State.updateSlot_tlb (s : State) (site k : Nat) (f : GSlot → GSlot) : (s.updateSlot site k f).tlb = s.tlb := rfl
@[simp] theorem State.updateSlot_icache (s : State) (site k : Nat) (f : GSlot → GSlot) : (s.updateSlot site k f).icache = s.icache := rfl
@[simp] theorem State.updateSlot_lcache (s : State) (site k : Nat) (f : GSlot → GSlot) : (s.updateSlot site k f).lcache = s.lcache := rfl
@[simp] theorem State.updateSlot_tiles (s : State) (site k : Nat) (f : GSlot → GSlot) : (s.updateSlot site k f).tiles = s.tiles := rfl
@[simp] theorem State.updateSlot_tilePoison (s : State) (site k : Nat) (f : GSlot → GSlot) : (s.updateSlot site k f).tilePoison = s.tilePoison := rfl
@[simp] theorem State.updateSlot_scratch (s : State) (site k : Nat) (f : GSlot → GSlot) : (s.updateSlot site k f).scratch = s.scratch := rfl
@[simp] theorem State.updateSlot_carJobs (s : State) (site k : Nat) (f : GSlot → GSlot) : (s.updateSlot site k f).carJobs = s.carJobs := rfl
@[simp] theorem State.updateSlot_carClock (s : State) (site k : Nat) (f : GSlot → GSlot) : (s.updateSlot site k f).carClock = s.carClock := rfl
@[simp] theorem State.updateSlot_counts (s : State) (site k : Nat) (f : GSlot → GSlot) : (s.updateSlot site k f).counts = s.counts := rfl
@[simp] theorem State.updateSlot_killed (s : State) (site k : Nat) (f : GSlot → GSlot) : (s.updateSlot site k f).killed = s.killed := rfl
@[simp] theorem State.updateSlot_halted (s : State) (site k : Nat) (f : GSlot → GSlot) : (s.updateSlot site k f).halted = s.halted := rfl
@[simp] theorem State.updateSlot_faultCount (s : State) (site k : Nat) (f : GSlot → GSlot) : (s.updateSlot site k f).faultCount = s.faultCount := rfl
@[simp] theorem State.updateSlot_genCount (s : State) (site k : Nat) (f : GSlot → GSlot) : (s.updateSlot site k f).genCount = s.genCount := rfl
@[simp] theorem State.updateSlot_mem (s : State) (site k : Nat) (f : GSlot → GSlot) : (s.updateSlot site k f).mem = s.mem := rfl
@[simp] theorem State.updateSlot_host (s : State) (site k : Nat) (f : GSlot → GSlot) : (s.updateSlot site k f).host = s.host := rfl
@[simp] theorem State.updateSlot_flash (s : State) (site k : Nat) (f : GSlot → GSlot) : (s.updateSlot site k f).flash = s.flash := rfl
@[simp] theorem State.updateSlot_ctl (s : State) (site k : Nat) (f : GSlot → GSlot) : (s.updateSlot site k f).ctl = s.ctl := rfl
@[simp] theorem State.updateSlot_sys (s : State) (site k : Nat) (f : GSlot → GSlot) : (s.updateSlot site k f).sys = s.sys := rfl
@[simp] theorem State.updateSlot_io (s : State) (site k : Nat) (f : GSlot → GSlot) : (s.updateSlot site k f).io = s.io := rfl
@[simp] theorem State.updateSlot_hw (s : State) (site k : Nat) (f : GSlot → GSlot) : (s.updateSlot site k f).hw = s.hw := rfl

/-! ### `emptySlot` -/

@[simp] theorem State.emptySlot_agenda (s : State) (site k : Nat) : (s.emptySlot site k).agenda = s.agenda := rfl
@[simp] theorem State.emptySlot_tick (s : State) (site k : Nat) : (s.emptySlot site k).tick = s.tick := rfl
@[simp] theorem State.emptySlot_nextId (s : State) (site k : Nat) : (s.emptySlot site k).nextId = s.nextId := rfl
@[simp] theorem State.emptySlot_cur (s : State) (site k : Nat) : (s.emptySlot site k).cur = s.cur := rfl
@[simp] theorem State.emptySlot_cyc (s : State) (site k : Nat) : (s.emptySlot site k).cyc = s.cyc := rfl
@[simp] theorem State.emptySlot_insts (s : State) (site k : Nat) : (s.emptySlot site k).insts = s.insts := rfl
@[simp] theorem State.emptySlot_frames (s : State) (site k : Nat) : (s.emptySlot site k).frames = s.frames := rfl
@[simp] theorem State.emptySlot_tokens (s : State) (site k : Nat) : (s.emptySlot site k).tokens = s.tokens := rfl
@[simp] theorem State.emptySlot_ready (s : State) (site k : Nat) : (s.emptySlot site k).ready = s.ready := rfl
@[simp] theorem State.emptySlot_ops (s : State) (site k : Nat) : (s.emptySlot site k).ops = s.ops := rfl
@[simp] theorem State.emptySlot_items (s : State) (site k : Nat) : (s.emptySlot site k).items = s.items := rfl
@[simp] theorem State.emptySlot_actions (s : State) (site k : Nat) : (s.emptySlot site k).actions = s.actions := rfl
@[simp] theorem State.emptySlot_descs (s : State) (site k : Nat) : (s.emptySlot site k).descs = s.descs := rfl
@[simp] theorem State.emptySlot_windows (s : State) (site k : Nat) : (s.emptySlot site k).windows = s.windows := rfl
@[simp] theorem State.emptySlot_tlb (s : State) (site k : Nat) : (s.emptySlot site k).tlb = s.tlb := rfl
@[simp] theorem State.emptySlot_icache (s : State) (site k : Nat) : (s.emptySlot site k).icache = s.icache := rfl
@[simp] theorem State.emptySlot_lcache (s : State) (site k : Nat) : (s.emptySlot site k).lcache = s.lcache := rfl
@[simp] theorem State.emptySlot_tiles (s : State) (site k : Nat) : (s.emptySlot site k).tiles = s.tiles := rfl
@[simp] theorem State.emptySlot_tilePoison (s : State) (site k : Nat) : (s.emptySlot site k).tilePoison = s.tilePoison := rfl
@[simp] theorem State.emptySlot_scratch (s : State) (site k : Nat) : (s.emptySlot site k).scratch = s.scratch := rfl
@[simp] theorem State.emptySlot_carJobs (s : State) (site k : Nat) : (s.emptySlot site k).carJobs = s.carJobs := rfl
@[simp] theorem State.emptySlot_carClock (s : State) (site k : Nat) : (s.emptySlot site k).carClock = s.carClock := rfl
@[simp] theorem State.emptySlot_counts (s : State) (site k : Nat) : (s.emptySlot site k).counts = s.counts := rfl
@[simp] theorem State.emptySlot_killed (s : State) (site k : Nat) : (s.emptySlot site k).killed = s.killed := rfl
@[simp] theorem State.emptySlot_halted (s : State) (site k : Nat) : (s.emptySlot site k).halted = s.halted := rfl
@[simp] theorem State.emptySlot_faultCount (s : State) (site k : Nat) : (s.emptySlot site k).faultCount = s.faultCount := rfl
@[simp] theorem State.emptySlot_genCount (s : State) (site k : Nat) : (s.emptySlot site k).genCount = s.genCount := rfl
@[simp] theorem State.emptySlot_mem (s : State) (site k : Nat) : (s.emptySlot site k).mem = s.mem := rfl
@[simp] theorem State.emptySlot_host (s : State) (site k : Nat) : (s.emptySlot site k).host = s.host := rfl
@[simp] theorem State.emptySlot_flash (s : State) (site k : Nat) : (s.emptySlot site k).flash = s.flash := rfl
@[simp] theorem State.emptySlot_ctl (s : State) (site k : Nat) : (s.emptySlot site k).ctl = s.ctl := rfl
@[simp] theorem State.emptySlot_sys (s : State) (site k : Nat) : (s.emptySlot site k).sys = s.sys := rfl
@[simp] theorem State.emptySlot_io (s : State) (site k : Nat) : (s.emptySlot site k).io = s.io := rfl
@[simp] theorem State.emptySlot_hw (s : State) (site k : Nat) : (s.emptySlot site k).hw = s.hw := rfl

/-! ### `setResident` -/

@[simp] theorem State.setResident_agenda (s : State) (ctx : Nat) (f : Resident → Resident) : (s.setResident ctx f).agenda = s.agenda := rfl
@[simp] theorem State.setResident_tick (s : State) (ctx : Nat) (f : Resident → Resident) : (s.setResident ctx f).tick = s.tick := rfl
@[simp] theorem State.setResident_nextId (s : State) (ctx : Nat) (f : Resident → Resident) : (s.setResident ctx f).nextId = s.nextId := rfl
@[simp] theorem State.setResident_cur (s : State) (ctx : Nat) (f : Resident → Resident) : (s.setResident ctx f).cur = s.cur := rfl
@[simp] theorem State.setResident_cyc (s : State) (ctx : Nat) (f : Resident → Resident) : (s.setResident ctx f).cyc = s.cyc := rfl
@[simp] theorem State.setResident_insts (s : State) (ctx : Nat) (f : Resident → Resident) : (s.setResident ctx f).insts = s.insts := rfl
@[simp] theorem State.setResident_frames (s : State) (ctx : Nat) (f : Resident → Resident) : (s.setResident ctx f).frames = s.frames := rfl
@[simp] theorem State.setResident_tokens (s : State) (ctx : Nat) (f : Resident → Resident) : (s.setResident ctx f).tokens = s.tokens := rfl
@[simp] theorem State.setResident_ready (s : State) (ctx : Nat) (f : Resident → Resident) : (s.setResident ctx f).ready = s.ready := rfl
@[simp] theorem State.setResident_ops (s : State) (ctx : Nat) (f : Resident → Resident) : (s.setResident ctx f).ops = s.ops := rfl
@[simp] theorem State.setResident_items (s : State) (ctx : Nat) (f : Resident → Resident) : (s.setResident ctx f).items = s.items := rfl
@[simp] theorem State.setResident_actions (s : State) (ctx : Nat) (f : Resident → Resident) : (s.setResident ctx f).actions = s.actions := rfl
@[simp] theorem State.setResident_descs (s : State) (ctx : Nat) (f : Resident → Resident) : (s.setResident ctx f).descs = s.descs := rfl
@[simp] theorem State.setResident_windows (s : State) (ctx : Nat) (f : Resident → Resident) : (s.setResident ctx f).windows = s.windows := rfl
@[simp] theorem State.setResident_tlb (s : State) (ctx : Nat) (f : Resident → Resident) : (s.setResident ctx f).tlb = s.tlb := rfl
@[simp] theorem State.setResident_icache (s : State) (ctx : Nat) (f : Resident → Resident) : (s.setResident ctx f).icache = s.icache := rfl
@[simp] theorem State.setResident_lcache (s : State) (ctx : Nat) (f : Resident → Resident) : (s.setResident ctx f).lcache = s.lcache := rfl
@[simp] theorem State.setResident_tiles (s : State) (ctx : Nat) (f : Resident → Resident) : (s.setResident ctx f).tiles = s.tiles := rfl
@[simp] theorem State.setResident_tilePoison (s : State) (ctx : Nat) (f : Resident → Resident) : (s.setResident ctx f).tilePoison = s.tilePoison := rfl
@[simp] theorem State.setResident_scratch (s : State) (ctx : Nat) (f : Resident → Resident) : (s.setResident ctx f).scratch = s.scratch := rfl
@[simp] theorem State.setResident_gslots (s : State) (ctx : Nat) (f : Resident → Resident) : (s.setResident ctx f).gslots = s.gslots := rfl
@[simp] theorem State.setResident_carJobs (s : State) (ctx : Nat) (f : Resident → Resident) : (s.setResident ctx f).carJobs = s.carJobs := rfl
@[simp] theorem State.setResident_carClock (s : State) (ctx : Nat) (f : Resident → Resident) : (s.setResident ctx f).carClock = s.carClock := rfl
@[simp] theorem State.setResident_counts (s : State) (ctx : Nat) (f : Resident → Resident) : (s.setResident ctx f).counts = s.counts := rfl
@[simp] theorem State.setResident_killed (s : State) (ctx : Nat) (f : Resident → Resident) : (s.setResident ctx f).killed = s.killed := rfl
@[simp] theorem State.setResident_halted (s : State) (ctx : Nat) (f : Resident → Resident) : (s.setResident ctx f).halted = s.halted := rfl
@[simp] theorem State.setResident_faultCount (s : State) (ctx : Nat) (f : Resident → Resident) : (s.setResident ctx f).faultCount = s.faultCount := rfl
@[simp] theorem State.setResident_genCount (s : State) (ctx : Nat) (f : Resident → Resident) : (s.setResident ctx f).genCount = s.genCount := rfl
@[simp] theorem State.setResident_mem (s : State) (ctx : Nat) (f : Resident → Resident) : (s.setResident ctx f).mem = s.mem := rfl
@[simp] theorem State.setResident_host (s : State) (ctx : Nat) (f : Resident → Resident) : (s.setResident ctx f).host = s.host := rfl
@[simp] theorem State.setResident_flash (s : State) (ctx : Nat) (f : Resident → Resident) : (s.setResident ctx f).flash = s.flash := rfl
@[simp] theorem State.setResident_sys (s : State) (ctx : Nat) (f : Resident → Resident) : (s.setResident ctx f).sys = s.sys := rfl
@[simp] theorem State.setResident_io (s : State) (ctx : Nat) (f : Resident → Resident) : (s.setResident ctx f).io = s.io := rfl
@[simp] theorem State.setResident_hw (s : State) (ctx : Nat) (f : Resident → Resident) : (s.setResident ctx f).hw = s.hw := rfl

/-! ### `updateLaunch` -/

@[simp] theorem State.updateLaunch_agenda (s : State) (ctx lid : Nat) (f : Launch → Launch) : (s.updateLaunch ctx lid f).agenda = s.agenda := rfl
@[simp] theorem State.updateLaunch_tick (s : State) (ctx lid : Nat) (f : Launch → Launch) : (s.updateLaunch ctx lid f).tick = s.tick := rfl
@[simp] theorem State.updateLaunch_nextId (s : State) (ctx lid : Nat) (f : Launch → Launch) : (s.updateLaunch ctx lid f).nextId = s.nextId := rfl
@[simp] theorem State.updateLaunch_cur (s : State) (ctx lid : Nat) (f : Launch → Launch) : (s.updateLaunch ctx lid f).cur = s.cur := rfl
@[simp] theorem State.updateLaunch_cyc (s : State) (ctx lid : Nat) (f : Launch → Launch) : (s.updateLaunch ctx lid f).cyc = s.cyc := rfl
@[simp] theorem State.updateLaunch_insts (s : State) (ctx lid : Nat) (f : Launch → Launch) : (s.updateLaunch ctx lid f).insts = s.insts := rfl
@[simp] theorem State.updateLaunch_frames (s : State) (ctx lid : Nat) (f : Launch → Launch) : (s.updateLaunch ctx lid f).frames = s.frames := rfl
@[simp] theorem State.updateLaunch_tokens (s : State) (ctx lid : Nat) (f : Launch → Launch) : (s.updateLaunch ctx lid f).tokens = s.tokens := rfl
@[simp] theorem State.updateLaunch_ready (s : State) (ctx lid : Nat) (f : Launch → Launch) : (s.updateLaunch ctx lid f).ready = s.ready := rfl
@[simp] theorem State.updateLaunch_ops (s : State) (ctx lid : Nat) (f : Launch → Launch) : (s.updateLaunch ctx lid f).ops = s.ops := rfl
@[simp] theorem State.updateLaunch_items (s : State) (ctx lid : Nat) (f : Launch → Launch) : (s.updateLaunch ctx lid f).items = s.items := rfl
@[simp] theorem State.updateLaunch_actions (s : State) (ctx lid : Nat) (f : Launch → Launch) : (s.updateLaunch ctx lid f).actions = s.actions := rfl
@[simp] theorem State.updateLaunch_descs (s : State) (ctx lid : Nat) (f : Launch → Launch) : (s.updateLaunch ctx lid f).descs = s.descs := rfl
@[simp] theorem State.updateLaunch_windows (s : State) (ctx lid : Nat) (f : Launch → Launch) : (s.updateLaunch ctx lid f).windows = s.windows := rfl
@[simp] theorem State.updateLaunch_tlb (s : State) (ctx lid : Nat) (f : Launch → Launch) : (s.updateLaunch ctx lid f).tlb = s.tlb := rfl
@[simp] theorem State.updateLaunch_icache (s : State) (ctx lid : Nat) (f : Launch → Launch) : (s.updateLaunch ctx lid f).icache = s.icache := rfl
@[simp] theorem State.updateLaunch_lcache (s : State) (ctx lid : Nat) (f : Launch → Launch) : (s.updateLaunch ctx lid f).lcache = s.lcache := rfl
@[simp] theorem State.updateLaunch_tiles (s : State) (ctx lid : Nat) (f : Launch → Launch) : (s.updateLaunch ctx lid f).tiles = s.tiles := rfl
@[simp] theorem State.updateLaunch_tilePoison (s : State) (ctx lid : Nat) (f : Launch → Launch) : (s.updateLaunch ctx lid f).tilePoison = s.tilePoison := rfl
@[simp] theorem State.updateLaunch_scratch (s : State) (ctx lid : Nat) (f : Launch → Launch) : (s.updateLaunch ctx lid f).scratch = s.scratch := rfl
@[simp] theorem State.updateLaunch_gslots (s : State) (ctx lid : Nat) (f : Launch → Launch) : (s.updateLaunch ctx lid f).gslots = s.gslots := rfl
@[simp] theorem State.updateLaunch_carJobs (s : State) (ctx lid : Nat) (f : Launch → Launch) : (s.updateLaunch ctx lid f).carJobs = s.carJobs := rfl
@[simp] theorem State.updateLaunch_carClock (s : State) (ctx lid : Nat) (f : Launch → Launch) : (s.updateLaunch ctx lid f).carClock = s.carClock := rfl
@[simp] theorem State.updateLaunch_counts (s : State) (ctx lid : Nat) (f : Launch → Launch) : (s.updateLaunch ctx lid f).counts = s.counts := rfl
@[simp] theorem State.updateLaunch_killed (s : State) (ctx lid : Nat) (f : Launch → Launch) : (s.updateLaunch ctx lid f).killed = s.killed := rfl
@[simp] theorem State.updateLaunch_halted (s : State) (ctx lid : Nat) (f : Launch → Launch) : (s.updateLaunch ctx lid f).halted = s.halted := rfl
@[simp] theorem State.updateLaunch_faultCount (s : State) (ctx lid : Nat) (f : Launch → Launch) : (s.updateLaunch ctx lid f).faultCount = s.faultCount := rfl
@[simp] theorem State.updateLaunch_genCount (s : State) (ctx lid : Nat) (f : Launch → Launch) : (s.updateLaunch ctx lid f).genCount = s.genCount := rfl
@[simp] theorem State.updateLaunch_mem (s : State) (ctx lid : Nat) (f : Launch → Launch) : (s.updateLaunch ctx lid f).mem = s.mem := rfl
@[simp] theorem State.updateLaunch_host (s : State) (ctx lid : Nat) (f : Launch → Launch) : (s.updateLaunch ctx lid f).host = s.host := rfl
@[simp] theorem State.updateLaunch_flash (s : State) (ctx lid : Nat) (f : Launch → Launch) : (s.updateLaunch ctx lid f).flash = s.flash := rfl
@[simp] theorem State.updateLaunch_sys (s : State) (ctx lid : Nat) (f : Launch → Launch) : (s.updateLaunch ctx lid f).sys = s.sys := rfl
@[simp] theorem State.updateLaunch_io (s : State) (ctx lid : Nat) (f : Launch → Launch) : (s.updateLaunch ctx lid f).io = s.io := rfl
@[simp] theorem State.updateLaunch_hw (s : State) (ctx lid : Nat) (f : Launch → Launch) : (s.updateLaunch ctx lid f).hw = s.hw := rfl

/-! ### `updatePacket` -/

@[simp] theorem State.updatePacket_agenda (s : State) (uid : Nat) (f : Packet → Packet) : (s.updatePacket uid f).agenda = s.agenda := rfl
@[simp] theorem State.updatePacket_tick (s : State) (uid : Nat) (f : Packet → Packet) : (s.updatePacket uid f).tick = s.tick := rfl
@[simp] theorem State.updatePacket_nextId (s : State) (uid : Nat) (f : Packet → Packet) : (s.updatePacket uid f).nextId = s.nextId := rfl
@[simp] theorem State.updatePacket_cur (s : State) (uid : Nat) (f : Packet → Packet) : (s.updatePacket uid f).cur = s.cur := rfl
@[simp] theorem State.updatePacket_cyc (s : State) (uid : Nat) (f : Packet → Packet) : (s.updatePacket uid f).cyc = s.cyc := rfl
@[simp] theorem State.updatePacket_insts (s : State) (uid : Nat) (f : Packet → Packet) : (s.updatePacket uid f).insts = s.insts := rfl
@[simp] theorem State.updatePacket_frames (s : State) (uid : Nat) (f : Packet → Packet) : (s.updatePacket uid f).frames = s.frames := rfl
@[simp] theorem State.updatePacket_tokens (s : State) (uid : Nat) (f : Packet → Packet) : (s.updatePacket uid f).tokens = s.tokens := rfl
@[simp] theorem State.updatePacket_ready (s : State) (uid : Nat) (f : Packet → Packet) : (s.updatePacket uid f).ready = s.ready := rfl
@[simp] theorem State.updatePacket_ops (s : State) (uid : Nat) (f : Packet → Packet) : (s.updatePacket uid f).ops = s.ops := rfl
@[simp] theorem State.updatePacket_items (s : State) (uid : Nat) (f : Packet → Packet) : (s.updatePacket uid f).items = s.items := rfl
@[simp] theorem State.updatePacket_actions (s : State) (uid : Nat) (f : Packet → Packet) : (s.updatePacket uid f).actions = s.actions := rfl
@[simp] theorem State.updatePacket_descs (s : State) (uid : Nat) (f : Packet → Packet) : (s.updatePacket uid f).descs = s.descs := rfl
@[simp] theorem State.updatePacket_windows (s : State) (uid : Nat) (f : Packet → Packet) : (s.updatePacket uid f).windows = s.windows := rfl
@[simp] theorem State.updatePacket_tlb (s : State) (uid : Nat) (f : Packet → Packet) : (s.updatePacket uid f).tlb = s.tlb := rfl
@[simp] theorem State.updatePacket_icache (s : State) (uid : Nat) (f : Packet → Packet) : (s.updatePacket uid f).icache = s.icache := rfl
@[simp] theorem State.updatePacket_lcache (s : State) (uid : Nat) (f : Packet → Packet) : (s.updatePacket uid f).lcache = s.lcache := rfl
@[simp] theorem State.updatePacket_tiles (s : State) (uid : Nat) (f : Packet → Packet) : (s.updatePacket uid f).tiles = s.tiles := rfl
@[simp] theorem State.updatePacket_tilePoison (s : State) (uid : Nat) (f : Packet → Packet) : (s.updatePacket uid f).tilePoison = s.tilePoison := rfl
@[simp] theorem State.updatePacket_scratch (s : State) (uid : Nat) (f : Packet → Packet) : (s.updatePacket uid f).scratch = s.scratch := rfl
@[simp] theorem State.updatePacket_gslots (s : State) (uid : Nat) (f : Packet → Packet) : (s.updatePacket uid f).gslots = s.gslots := rfl
@[simp] theorem State.updatePacket_carJobs (s : State) (uid : Nat) (f : Packet → Packet) : (s.updatePacket uid f).carJobs = s.carJobs := rfl
@[simp] theorem State.updatePacket_carClock (s : State) (uid : Nat) (f : Packet → Packet) : (s.updatePacket uid f).carClock = s.carClock := rfl
@[simp] theorem State.updatePacket_counts (s : State) (uid : Nat) (f : Packet → Packet) : (s.updatePacket uid f).counts = s.counts := rfl
@[simp] theorem State.updatePacket_killed (s : State) (uid : Nat) (f : Packet → Packet) : (s.updatePacket uid f).killed = s.killed := rfl
@[simp] theorem State.updatePacket_halted (s : State) (uid : Nat) (f : Packet → Packet) : (s.updatePacket uid f).halted = s.halted := rfl
@[simp] theorem State.updatePacket_faultCount (s : State) (uid : Nat) (f : Packet → Packet) : (s.updatePacket uid f).faultCount = s.faultCount := rfl
@[simp] theorem State.updatePacket_genCount (s : State) (uid : Nat) (f : Packet → Packet) : (s.updatePacket uid f).genCount = s.genCount := rfl
@[simp] theorem State.updatePacket_mem (s : State) (uid : Nat) (f : Packet → Packet) : (s.updatePacket uid f).mem = s.mem := rfl
@[simp] theorem State.updatePacket_host (s : State) (uid : Nat) (f : Packet → Packet) : (s.updatePacket uid f).host = s.host := rfl
@[simp] theorem State.updatePacket_flash (s : State) (uid : Nat) (f : Packet → Packet) : (s.updatePacket uid f).flash = s.flash := rfl
@[simp] theorem State.updatePacket_ctl (s : State) (uid : Nat) (f : Packet → Packet) : (s.updatePacket uid f).ctl = s.ctl := rfl
@[simp] theorem State.updatePacket_sys (s : State) (uid : Nat) (f : Packet → Packet) : (s.updatePacket uid f).sys = s.sys := rfl
@[simp] theorem State.updatePacket_hw (s : State) (uid : Nat) (f : Packet → Packet) : (s.updatePacket uid f).hw = s.hw := rfl

/-! ### `clockSite` -/

@[simp] theorem State.clockSite_agenda (s : State) (site : Nat) : (s.clockSite site).agenda = s.agenda := rfl
@[simp] theorem State.clockSite_tick (s : State) (site : Nat) : (s.clockSite site).tick = s.tick := rfl
@[simp] theorem State.clockSite_nextId (s : State) (site : Nat) : (s.clockSite site).nextId = s.nextId := rfl
@[simp] theorem State.clockSite_cur (s : State) (site : Nat) : (s.clockSite site).cur = s.cur := rfl
@[simp] theorem State.clockSite_insts (s : State) (site : Nat) : (s.clockSite site).insts = s.insts := rfl
@[simp] theorem State.clockSite_frames (s : State) (site : Nat) : (s.clockSite site).frames = s.frames := rfl
@[simp] theorem State.clockSite_tokens (s : State) (site : Nat) : (s.clockSite site).tokens = s.tokens := rfl
@[simp] theorem State.clockSite_ready (s : State) (site : Nat) : (s.clockSite site).ready = s.ready := rfl
@[simp] theorem State.clockSite_ops (s : State) (site : Nat) : (s.clockSite site).ops = s.ops := rfl
@[simp] theorem State.clockSite_items (s : State) (site : Nat) : (s.clockSite site).items = s.items := rfl
@[simp] theorem State.clockSite_actions (s : State) (site : Nat) : (s.clockSite site).actions = s.actions := rfl
@[simp] theorem State.clockSite_descs (s : State) (site : Nat) : (s.clockSite site).descs = s.descs := rfl
@[simp] theorem State.clockSite_windows (s : State) (site : Nat) : (s.clockSite site).windows = s.windows := rfl
@[simp] theorem State.clockSite_tlb (s : State) (site : Nat) : (s.clockSite site).tlb = s.tlb := rfl
@[simp] theorem State.clockSite_icache (s : State) (site : Nat) : (s.clockSite site).icache = s.icache := rfl
@[simp] theorem State.clockSite_lcache (s : State) (site : Nat) : (s.clockSite site).lcache = s.lcache := rfl
@[simp] theorem State.clockSite_tiles (s : State) (site : Nat) : (s.clockSite site).tiles = s.tiles := rfl
@[simp] theorem State.clockSite_tilePoison (s : State) (site : Nat) : (s.clockSite site).tilePoison = s.tilePoison := rfl
@[simp] theorem State.clockSite_scratch (s : State) (site : Nat) : (s.clockSite site).scratch = s.scratch := rfl
@[simp] theorem State.clockSite_gslots (s : State) (site : Nat) : (s.clockSite site).gslots = s.gslots := rfl
@[simp] theorem State.clockSite_carJobs (s : State) (site : Nat) : (s.clockSite site).carJobs = s.carJobs := rfl
@[simp] theorem State.clockSite_carClock (s : State) (site : Nat) : (s.clockSite site).carClock = s.carClock := rfl
@[simp] theorem State.clockSite_counts (s : State) (site : Nat) : (s.clockSite site).counts = s.counts := rfl
@[simp] theorem State.clockSite_killed (s : State) (site : Nat) : (s.clockSite site).killed = s.killed := rfl
@[simp] theorem State.clockSite_halted (s : State) (site : Nat) : (s.clockSite site).halted = s.halted := rfl
@[simp] theorem State.clockSite_faultCount (s : State) (site : Nat) : (s.clockSite site).faultCount = s.faultCount := rfl
@[simp] theorem State.clockSite_genCount (s : State) (site : Nat) : (s.clockSite site).genCount = s.genCount := rfl
@[simp] theorem State.clockSite_mem (s : State) (site : Nat) : (s.clockSite site).mem = s.mem := rfl
@[simp] theorem State.clockSite_host (s : State) (site : Nat) : (s.clockSite site).host = s.host := rfl
@[simp] theorem State.clockSite_flash (s : State) (site : Nat) : (s.clockSite site).flash = s.flash := rfl
@[simp] theorem State.clockSite_ctl (s : State) (site : Nat) : (s.clockSite site).ctl = s.ctl := rfl
@[simp] theorem State.clockSite_sys (s : State) (site : Nat) : (s.clockSite site).sys = s.sys := rfl
@[simp] theorem State.clockSite_io (s : State) (site : Nat) : (s.clockSite site).io = s.io := rfl
@[simp] theorem State.clockSite_hw (s : State) (site : Nat) : (s.clockSite site).hw = s.hw := rfl

/-! ### `elapse` -/

@[simp] theorem State.elapse_agenda (s : State) : (s.elapse).agenda = s.agenda := rfl
@[simp] theorem State.elapse_nextId (s : State) : (s.elapse).nextId = s.nextId := rfl
@[simp] theorem State.elapse_cur (s : State) : (s.elapse).cur = s.cur := rfl
@[simp] theorem State.elapse_cyc (s : State) : (s.elapse).cyc = s.cyc := rfl
@[simp] theorem State.elapse_insts (s : State) : (s.elapse).insts = s.insts := rfl
@[simp] theorem State.elapse_frames (s : State) : (s.elapse).frames = s.frames := rfl
@[simp] theorem State.elapse_tokens (s : State) : (s.elapse).tokens = s.tokens := rfl
@[simp] theorem State.elapse_ready (s : State) : (s.elapse).ready = s.ready := rfl
@[simp] theorem State.elapse_ops (s : State) : (s.elapse).ops = s.ops := rfl
@[simp] theorem State.elapse_items (s : State) : (s.elapse).items = s.items := rfl
@[simp] theorem State.elapse_actions (s : State) : (s.elapse).actions = s.actions := rfl
@[simp] theorem State.elapse_descs (s : State) : (s.elapse).descs = s.descs := rfl
@[simp] theorem State.elapse_windows (s : State) : (s.elapse).windows = s.windows := rfl
@[simp] theorem State.elapse_tlb (s : State) : (s.elapse).tlb = s.tlb := rfl
@[simp] theorem State.elapse_icache (s : State) : (s.elapse).icache = s.icache := rfl
@[simp] theorem State.elapse_lcache (s : State) : (s.elapse).lcache = s.lcache := rfl
@[simp] theorem State.elapse_tiles (s : State) : (s.elapse).tiles = s.tiles := rfl
@[simp] theorem State.elapse_tilePoison (s : State) : (s.elapse).tilePoison = s.tilePoison := rfl
@[simp] theorem State.elapse_scratch (s : State) : (s.elapse).scratch = s.scratch := rfl
@[simp] theorem State.elapse_gslots (s : State) : (s.elapse).gslots = s.gslots := rfl
@[simp] theorem State.elapse_carJobs (s : State) : (s.elapse).carJobs = s.carJobs := rfl
@[simp] theorem State.elapse_carClock (s : State) : (s.elapse).carClock = s.carClock := rfl
@[simp] theorem State.elapse_counts (s : State) : (s.elapse).counts = s.counts := rfl
@[simp] theorem State.elapse_killed (s : State) : (s.elapse).killed = s.killed := rfl
@[simp] theorem State.elapse_halted (s : State) : (s.elapse).halted = s.halted := rfl
@[simp] theorem State.elapse_faultCount (s : State) : (s.elapse).faultCount = s.faultCount := rfl
@[simp] theorem State.elapse_genCount (s : State) : (s.elapse).genCount = s.genCount := rfl
@[simp] theorem State.elapse_mem (s : State) : (s.elapse).mem = s.mem := rfl
@[simp] theorem State.elapse_host (s : State) : (s.elapse).host = s.host := rfl
@[simp] theorem State.elapse_flash (s : State) : (s.elapse).flash = s.flash := rfl
@[simp] theorem State.elapse_ctl (s : State) : (s.elapse).ctl = s.ctl := rfl
@[simp] theorem State.elapse_io (s : State) : (s.elapse).io = s.io := rfl
@[simp] theorem State.elapse_hw (s : State) : (s.elapse).hw = s.hw := rfl

end Sys2Proof.Machine
end

