-- ==== Sys2Proof/Laws/Words.lean ====
section
/-! SUPPORT. No instruction word changes a memory at its issue: its effects are pending until its commit (R41, R139). One
lemma for each shared operation and for each meaning. -/

namespace Sys2Proof.Machine

theorem intBinary_keeps {f : W64 → W64 → W64} {d a b : Reg} : Keeps (intBinary f d a b) := liftPure_keeps
theorem intUnary_keeps {f : W64 → W64} {d a : Reg} : Keeps (intUnary f d a) := liftPure_keeps
theorem intImm_keeps {f : W64 → W64 → W64} {d a : Reg} {m : BitVec 27} : Keeps (intImm f d a m) := liftPure_keeps
theorem execAdd_keeps {d a b : Reg} : Keeps (execAdd d a b) := intBinary_keeps
theorem execSub_keeps {d a b : Reg} : Keeps (execSub d a b) := intBinary_keeps
theorem execMul_keeps {d a b : Reg} : Keeps (execMul d a b) := intBinary_keeps
theorem execMulhI64_keeps {d a b : Reg} : Keeps (execMulhI64 d a b) := intBinary_keeps
theorem execMulhN64_keeps {d a b : Reg} : Keeps (execMulhN64 d a b) := intBinary_keeps
theorem execDivI64_keeps {d a b : Reg} : Keeps (execDivI64 d a b) := intBinary_keeps
theorem execDivN64_keeps {d a b : Reg} : Keeps (execDivN64 d a b) := intBinary_keeps
theorem execRemI64_keeps {d a b : Reg} : Keeps (execRemI64 d a b) := intBinary_keeps
theorem execRemN64_keeps {d a b : Reg} : Keeps (execRemN64 d a b) := intBinary_keeps
theorem execAnd_keeps {d a b : Reg} : Keeps (execAnd d a b) := intBinary_keeps
theorem execOr_keeps {d a b : Reg} : Keeps (execOr d a b) := intBinary_keeps
theorem execXor_keeps {d a b : Reg} : Keeps (execXor d a b) := intBinary_keeps
theorem execAndn_keeps {d a b : Reg} : Keeps (execAndn d a b) := intBinary_keeps
theorem execShl_keeps {d a b : Reg} : Keeps (execShl d a b) := intBinary_keeps
theorem execShr_keeps {d a b : Reg} : Keeps (execShr d a b) := intBinary_keeps
theorem execSra_keeps {d a b : Reg} : Keeps (execSra d a b) := intBinary_keeps
theorem execRol_keeps {d a b : Reg} : Keeps (execRol d a b) := intBinary_keeps
theorem execRor_keeps {d a b : Reg} : Keeps (execRor d a b) := intBinary_keeps
theorem execClz_keeps {d a : Reg} : Keeps (execClz d a) := intUnary_keeps
theorem execCtz_keeps {d a : Reg} : Keeps (execCtz d a) := intUnary_keeps
theorem execPopc_keeps {d a : Reg} : Keeps (execPopc d a) := intUnary_keeps
theorem execMinI64_keeps {d a b : Reg} : Keeps (execMinI64 d a b) := intBinary_keeps
theorem execMaxI64_keeps {d a b : Reg} : Keeps (execMaxI64 d a b) := intBinary_keeps
theorem execMinN64_keeps {d a b : Reg} : Keeps (execMinN64 d a b) := intBinary_keeps
theorem execMaxN64_keeps {d a b : Reg} : Keeps (execMaxN64 d a b) := intBinary_keeps
theorem execSel_keeps {d a b c : Reg} : Keeps (execSel d a b c) := liftPure_keeps
theorem execClmul_keeps {d a b : Reg} : Keeps (execClmul d a b) := intBinary_keeps
theorem execClmulh_keeps {d a b : Reg} : Keeps (execClmulh d a b) := intBinary_keeps
theorem execBgat_keeps {d a b : Reg} : Keeps (execBgat d a b) := intBinary_keeps
theorem execBsct_keeps {d a b : Reg} : Keeps (execBsct d a b) := intBinary_keeps
theorem execMadd_keeps {d a b c : Reg} : Keeps (execMadd d a b c) := liftPure_keeps
theorem execMsub_keeps {d a b c : Reg} : Keeps (execMsub d a b c) := liftPure_keeps
theorem execSltI64_keeps {d a b : Reg} : Keeps (execSltI64 d a b) := intBinary_keeps
theorem execSltN64_keeps {d a b : Reg} : Keeps (execSltN64 d a b) := intBinary_keeps
theorem execSeq_keeps {d a b : Reg} : Keeps (execSeq d a b) := intBinary_keeps
theorem execSne_keeps {d a b : Reg} : Keeps (execSne d a b) := intBinary_keeps
theorem execExtdI8_keeps {d a : Reg} : Keeps (execExtdI8 d a) := intUnary_keeps
theorem execExtdI16_keeps {d a : Reg} : Keeps (execExtdI16 d a) := intUnary_keeps
theorem execExtdI32_keeps {d a : Reg} : Keeps (execExtdI32 d a) := intUnary_keeps
theorem execExtdN8_keeps {d a : Reg} : Keeps (execExtdN8 d a) := intUnary_keeps
theorem execExtdN16_keeps {d a : Reg} : Keeps (execExtdN16 d a) := intUnary_keeps
theorem execExtdN32_keeps {d a : Reg} : Keeps (execExtdN32 d a) := intUnary_keeps
theorem execBswap_keeps {d a : Reg} : Keeps (execBswap d a) := intUnary_keeps
theorem execAddImm_keeps {d a : Reg} {i : BitVec 27} : Keeps (execAddImm d a i) := intImm_keeps
theorem execAndImm_keeps {d a : Reg} {i : BitVec 27} : Keeps (execAndImm d a i) := intImm_keeps
theorem execOrImm_keeps {d a : Reg} {i : BitVec 27} : Keeps (execOrImm d a i) := intImm_keeps
theorem execXorImm_keeps {d a : Reg} {i : BitVec 27} : Keeps (execXorImm d a i) := intImm_keeps
theorem execShlImm_keeps {d a : Reg} {i : BitVec 27} : Keeps (execShlImm d a i) := intImm_keeps
theorem execShrImm_keeps {d a : Reg} {i : BitVec 27} : Keeps (execShrImm d a i) := intImm_keeps
theorem execSraImm_keeps {d a : Reg} {i : BitVec 27} : Keeps (execSraImm d a i) := intImm_keeps
theorem execRorImm_keeps {d a : Reg} {i : BitVec 27} : Keeps (execRorImm d a i) := intImm_keeps
theorem execSltI64Imm_keeps {d a : Reg} {i : BitVec 27} : Keeps (execSltI64Imm d a i) := intImm_keeps
theorem execSltN64Imm_keeps {d a : Reg} {i : BitVec 27} : Keeps (execSltN64Imm d a i) := intImm_keeps
theorem execSeqImm_keeps {d a : Reg} {i : BitVec 27} : Keeps (execSeqImm d a i) := intImm_keeps
theorem execSneImm_keeps {d a : Reg} {i : BitVec 27} : Keeps (execSneImm d a i) := intImm_keeps
theorem execMulImm_keeps {d a : Reg} {i : BitVec 27} : Keeps (execMulImm d a i) := intImm_keeps
theorem execMinI64Imm_keeps {d a : Reg} {i : BitVec 27} : Keeps (execMinI64Imm d a i) := intImm_keeps
theorem execMaxI64Imm_keeps {d a : Reg} {i : BitVec 27} : Keeps (execMaxI64Imm d a i) := intImm_keeps
theorem execMovi_keeps {d : Reg} {m : BitVec 35} : Keeps (execMovi d m) := liftPure_keeps
theorem execMovh_keeps {d : Reg} {m : BitVec 35} : Keeps (execMovh d m) := liftPure_keeps
theorem floatBinary_keeps {t : FloatTy} {f : Nat → Nat → Flagged} {d a b : Reg} : Keeps (floatBinary t f d a b) :=
  liftPure_keeps
theorem floatUnary_keeps {t : FloatTy} {f : Nat → Flagged} {d a : Reg} : Keeps (floatUnary t f d a) := liftPure_keeps
theorem floatFused_keeps {t : FloatTy} {f : Nat → Nat → Nat → Flagged} {d a b : Reg} : Keeps (floatFused t f d a b) :=
  liftPure_keeps
theorem execFadd_keeps {d a b : Reg} {r : Round} {t : FloatTy} : Keeps (execFadd d a b r t) := floatBinary_keeps
theorem execFsub_keeps {d a b : Reg} {r : Round} {t : FloatTy} : Keeps (execFsub d a b r t) := floatBinary_keeps
theorem execFmul_keeps {d a b : Reg} {r : Round} {t : FloatTy} : Keeps (execFmul d a b r t) := floatBinary_keeps
theorem execFdiv_keeps {d a b : Reg} {r : Round} {t : FloatTy} : Keeps (execFdiv d a b r t) := floatBinary_keeps
theorem execFsqrt_keeps {d a : Reg} {r : Round} {t : FloatTy} : Keeps (execFsqrt d a r t) := floatUnary_keeps
theorem execFma_keeps {d a b : Reg} {r : Round} {t : FloatTy} : Keeps (execFma d a b r t) := floatFused_keeps
theorem execFnma_keeps {d a b : Reg} {r : Round} {t : FloatTy} : Keeps (execFnma d a b r t) := floatFused_keeps
theorem execFmin_keeps {d a b : Reg} {t : FloatTy} : Keeps (execFmin d a b t) := floatBinary_keeps
theorem execFmax_keeps {d a b : Reg} {t : FloatTy} : Keeps (execFmax d a b t) := floatBinary_keeps
theorem execFceq_keeps {d a b : Reg} {t : FloatTy} : Keeps (execFceq d a b t) := floatBinary_keeps
theorem execFclt_keeps {d a b : Reg} {t : FloatTy} : Keeps (execFclt d a b t) := floatBinary_keeps
theorem execFcle_keeps {d a b : Reg} {t : FloatTy} : Keeps (execFcle d a b t) := floatBinary_keeps
theorem execFcvt_keeps {d a : Reg} {x : FloatTy} {r : Round} {t : FloatTy} {sat : Bool} :
    Keeps (execFcvt d a x r t sat) := floatUnary_keeps
theorem execFcvti_keeps {d a : Reg} {x : IntTy} {r : Round} {t : FloatTy} {_sat : Bool} :
    Keeps (execFcvti d a x r t _sat) := liftPure_keeps
theorem execIcvtf_keeps {d a : Reg} {x : IntTy} {r : Round} {t : FloatTy} {sat : Bool} :
    Keeps (execIcvtf d a x r t sat) := liftPure_keeps
theorem execFneg_keeps {d a : Reg} {t : FloatTy} : Keeps (execFneg d a t) := floatUnary_keeps
theorem execFabs_keeps {d a : Reg} {t : FloatTy} : Keeps (execFabs d a t) := floatUnary_keeps
theorem execFsgn_keeps {d a b : Reg} {t : FloatTy} : Keeps (execFsgn d a b t) := floatBinary_keeps
theorem execFcls_keeps {d a : Reg} {t : FloatTy} : Keeps (execFcls d a t) := floatUnary_keeps
theorem execFld_keeps {d a : Reg} {m : BitVec 27} : Keeps (execFld d a m) := lift_keeps
theorem execFst_keeps {d a : Reg} {m : BitVec 27} : Keeps (execFst d a m) := lift_keeps
theorem execFldv_keeps {d a : Reg} {m : BitVec 27} : Keeps (execFldv d a m) := lift_keeps
theorem execFstv_keeps {d a : Reg} {m : BitVec 27} : Keeps (execFstv d a m) := lift_keeps
theorem execSld_keeps {d a : Reg} {t : LoadTy} {m : BitVec 27} : Keeps (execSld d a t m) := lift_keeps
theorem execSst_keeps {d a : Reg} {t : Size} {m : BitVec 27} : Keeps (execSst d a t m) := lift_keeps
theorem vectorLoad_keeps {off : Inst → Reg → Reg → Nat → Nat → Int} {d a b : Reg} {k : MReg} {t : ElemTy} :
    Keeps (vectorLoad off d a b k t) := lift_keeps
theorem vectorStore_keeps {off : Inst → Reg → Reg → Nat → Nat → Int} {d a b : Reg} {k : MReg} {t : ElemTy} :
    Keeps (vectorStore off d a b k t) := lift_keeps
theorem execSldv_keeps {d a b : Reg} {k : MReg} {t : ElemTy} : Keeps (execSldv d a b k t) := vectorLoad_keeps
theorem execSstv_keeps {d a b : Reg} {k : MReg} {t : ElemTy} : Keeps (execSstv d a b k t) := vectorStore_keeps
theorem execSldx_keeps {d a b : Reg} {k : MReg} {t : ElemTy} : Keeps (execSldx d a b k t) := vectorLoad_keeps
theorem execSstx_keeps {d a b : Reg} {k : MReg} {t : ElemTy} : Keeps (execSstx d a b k t) := vectorStore_keeps
theorem samo_keeps {w : Bool} {f : Nat → Inst → Option Nat} {d a : Reg} : Keeps (samo w f d a) := lift_keeps
theorem execSamoAdd_keeps {d a b : Reg} {w : Bool} : Keeps (execSamoAdd d a b w) := samo_keeps
theorem execSamoAnd_keeps {d a b : Reg} {w : Bool} : Keeps (execSamoAnd d a b w) := samo_keeps
theorem execSamoOr_keeps {d a b : Reg} {w : Bool} : Keeps (execSamoOr d a b w) := samo_keeps
theorem execSamoXor_keeps {d a b : Reg} {w : Bool} : Keeps (execSamoXor d a b w) := samo_keeps
theorem execSamoMin_keeps {d a b : Reg} {w u : Bool} : Keeps (execSamoMin d a b w u) := samo_keeps
theorem execSamoMax_keeps {d a b : Reg} {w u : Bool} : Keeps (execSamoMax d a b w u) := samo_keeps
theorem execSamoSwap_keeps {d a b : Reg} {w : Bool} : Keeps (execSamoSwap d a b w) := samo_keeps
theorem execSamoCas_keeps {d a b c : Reg} {w : Bool} : Keeps (execSamoCas d a b c w) := samo_keeps
theorem vectorOp_keeps {e : Nat} {f : Inst → Nat → Nat} {d : Reg} {k : MReg} {z : Bool} :
    Keeps (vectorOp e f d k z) := liftPure_keeps
theorem vectorInt_keeps {t : IntTy} {f : Int → Int → Int} {d a b : Reg} {k : MReg} {z : Bool} :
    Keeps (vectorInt t f d a b k z) := vectorOp_keeps
theorem vectorIntScalar_keeps {t : IntTy} {f : Int → Int → Int} {d a b : Reg} {k : MReg} {z : Bool} :
    Keeps (vectorIntScalar t f d a b k z) := vectorOp_keeps
theorem vectorBits_keeps {t : IntTy} {f : Nat → Nat → Nat} {d a b : Reg} {k : MReg} {z : Bool} :
    Keeps (vectorBits t f d a b k z) := vectorOp_keeps
theorem vectorUnary_keeps {t : IntTy} {f : Nat → Nat} {d a : Reg} {k : MReg} {z : Bool} :
    Keeps (vectorUnary t f d a k z) := vectorOp_keeps
theorem execVadd_keeps {d a b : Reg} {k : MReg} {t : IntTy} {z : Bool} : Keeps (execVadd d a b k t z) :=
  vectorInt_keeps
theorem execVsub_keeps {d a b : Reg} {k : MReg} {t : IntTy} {z : Bool} : Keeps (execVsub d a b k t z) :=
  vectorInt_keeps
theorem execVmul_keeps {d a b : Reg} {k : MReg} {t : IntTy} {z : Bool} : Keeps (execVmul d a b k t z) :=
  vectorInt_keeps
theorem execVmulh_keeps {d a b : Reg} {k : MReg} {t : IntTy} {z : Bool} : Keeps (execVmulh d a b k t z) :=
  vectorInt_keeps
theorem execVmin_keeps {d a b : Reg} {k : MReg} {t : IntTy} {z : Bool} : Keeps (execVmin d a b k t z) :=
  vectorInt_keeps
theorem execVmax_keeps {d a b : Reg} {k : MReg} {t : IntTy} {z : Bool} : Keeps (execVmax d a b k t z) :=
  vectorInt_keeps
theorem execVadds_keeps {d a b : Reg} {k : MReg} {t : IntTy} {z : Bool} : Keeps (execVadds d a b k t z) :=
  vectorInt_keeps
theorem execVsubs_keeps {d a b : Reg} {k : MReg} {t : IntTy} {z : Bool} : Keeps (execVsubs d a b k t z) :=
  vectorInt_keeps
theorem execVaddScalar_keeps {d a b : Reg} {k : MReg} {t : IntTy} {z : Bool} : Keeps (execVaddScalar d a b k t z) :=
  vectorIntScalar_keeps
theorem execVsubScalar_keeps {d a b : Reg} {k : MReg} {t : IntTy} {z : Bool} : Keeps (execVsubScalar d a b k t z) :=
  vectorIntScalar_keeps
theorem execVmulScalar_keeps {d a b : Reg} {k : MReg} {t : IntTy} {z : Bool} : Keeps (execVmulScalar d a b k t z) :=
  vectorIntScalar_keeps
theorem execVmulhScalar_keeps {d a b : Reg} {k : MReg} {t : IntTy} {z : Bool} : Keeps (execVmulhScalar d a b k t z) :=
  vectorIntScalar_keeps
theorem execVminScalar_keeps {d a b : Reg} {k : MReg} {t : IntTy} {z : Bool} : Keeps (execVminScalar d a b k t z) :=
  vectorIntScalar_keeps
theorem execVmaxScalar_keeps {d a b : Reg} {k : MReg} {t : IntTy} {z : Bool} : Keeps (execVmaxScalar d a b k t z) :=
  vectorIntScalar_keeps
theorem execVaddsScalar_keeps {d a b : Reg} {k : MReg} {t : IntTy} {z : Bool} : Keeps (execVaddsScalar d a b k t z) :=
  vectorIntScalar_keeps
theorem execVsubsScalar_keeps {d a b : Reg} {k : MReg} {t : IntTy} {z : Bool} : Keeps (execVsubsScalar d a b k t z) :=
  vectorIntScalar_keeps
theorem execVand_keeps {d a b : Reg} {k : MReg} {t : IntTy} {z : Bool} : Keeps (execVand d a b k t z) :=
  vectorBits_keeps
theorem execVor_keeps {d a b : Reg} {k : MReg} {t : IntTy} {z : Bool} : Keeps (execVor d a b k t z) := vectorBits_keeps
theorem execVxor_keeps {d a b : Reg} {k : MReg} {t : IntTy} {z : Bool} : Keeps (execVxor d a b k t z) :=
  vectorBits_keeps
theorem execVandn_keeps {d a b : Reg} {k : MReg} {t : IntTy} {z : Bool} : Keeps (execVandn d a b k t z) :=
  vectorBits_keeps
theorem execVshl_keeps {d a b : Reg} {k : MReg} {t : IntTy} {z : Bool} : Keeps (execVshl d a b k t z) :=
  vectorBits_keeps
theorem execVshr_keeps {d a b : Reg} {k : MReg} {t : IntTy} {z : Bool} : Keeps (execVshr d a b k t z) :=
  vectorBits_keeps
theorem execVsra_keeps {d a b : Reg} {k : MReg} {t : IntTy} {z : Bool} : Keeps (execVsra d a b k t z) :=
  vectorBits_keeps
theorem execVrol_keeps {d a b : Reg} {k : MReg} {t : IntTy} {z : Bool} : Keeps (execVrol d a b k t z) :=
  vectorBits_keeps
theorem execVabs_keeps {d a : Reg} {k : MReg} {t : IntTy} {z : Bool} : Keeps (execVabs d a k t z) := vectorUnary_keeps
theorem execVneg_keeps {d a : Reg} {k : MReg} {t : IntTy} {z : Bool} : Keeps (execVneg d a k t z) := vectorUnary_keeps
theorem execVclz_keeps {d a : Reg} {k : MReg} {t : IntTy} {z : Bool} : Keeps (execVclz d a k t z) := vectorUnary_keeps
theorem execVpopc_keeps {d a : Reg} {k : MReg} {t : IntTy} {z : Bool} : Keeps (execVpopc d a k t z) :=
  vectorUnary_keeps
theorem execVmadd_keeps {d a b c : Reg} {k : MReg} {t : IntTy} {z : Bool} : Keeps (execVmadd d a b c k t z) :=
  vectorOp_keeps
theorem execVsel_keeps {d a b : Reg} {k : MReg} {t : IntTy} : Keeps (execVsel d a b k t) := vectorOp_keeps
theorem execVclmul_keeps {d a b : Reg} {t : IntTy} {z : Bool} : Keeps (execVclmul d a b t z) := vectorBits_keeps
theorem execVclmulh_keeps {d a b : Reg} {t : IntTy} {z : Bool} : Keeps (execVclmulh d a b t z) := vectorBits_keeps
theorem vectorFlagged_keeps {e : Nat} {f : Inst → Nat → Flagged} {d : Reg} {k : MReg} {z : Bool} :
    Keeps (vectorFlagged e f d k z) := liftPure_keeps
theorem vectorFloat_keeps {t : FloatTy} {f : Nat → Nat → Flagged} {d a b : Reg} {k : MReg} {z : Bool} :
    Keeps (vectorFloat t f d a b k z) := vectorFlagged_keeps
theorem vectorFloatScalar_keeps {t : FloatTy} {f : Nat → Nat → Flagged} {d a b : Reg} {k : MReg} {z : Bool} :
    Keeps (vectorFloatScalar t f d a b k z) := vectorFlagged_keeps
theorem vectorFused_keeps {t : FloatTy} {f : Nat → Nat → Nat → Flagged} {d a b c : Reg} {k : MReg} {z : Bool} :
    Keeps (vectorFused t f d a b c k z) := vectorFlagged_keeps
theorem vectorFusedScalar_keeps {t : FloatTy} {f : Nat → Nat → Nat → Flagged} {d a b c : Reg} {k : MReg} {z : Bool} :
    Keeps (vectorFusedScalar t f d a b c k z) := vectorFlagged_keeps
theorem vectorFloatUnary_keeps {t : FloatTy} {f : Nat → Flagged} {d a : Reg} {k : MReg} {z : Bool} :
    Keeps (vectorFloatUnary t f d a k z) := vectorFlagged_keeps
theorem execVfadd_keeps {d a b : Reg} {k : MReg} {t : FloatTy} {r : Round} {z : Bool} :
    Keeps (execVfadd d a b k t r z) := vectorFloat_keeps
theorem execVfsub_keeps {d a b : Reg} {k : MReg} {t : FloatTy} {r : Round} {z : Bool} :
    Keeps (execVfsub d a b k t r z) := vectorFloat_keeps
theorem execVfmul_keeps {d a b : Reg} {k : MReg} {t : FloatTy} {r : Round} {z : Bool} :
    Keeps (execVfmul d a b k t r z) := vectorFloat_keeps
theorem execVfdiv_keeps {d a b : Reg} {k : MReg} {t : FloatTy} {r : Round} {z : Bool} :
    Keeps (execVfdiv d a b k t r z) := vectorFloat_keeps
theorem execVfma_keeps {d a b c : Reg} {k : MReg} {t : FloatTy} {r : Round} {z : Bool} :
    Keeps (execVfma d a b c k t r z) := vectorFused_keeps
theorem execVfnma_keeps {d a b c : Reg} {k : MReg} {t : FloatTy} {r : Round} {z : Bool} :
    Keeps (execVfnma d a b c k t r z) := vectorFused_keeps
theorem execVfmin_keeps {d a b : Reg} {k : MReg} {t : FloatTy} {z : Bool} : Keeps (execVfmin d a b k t z) :=
  vectorFloat_keeps
theorem execVfmax_keeps {d a b : Reg} {k : MReg} {t : FloatTy} {z : Bool} : Keeps (execVfmax d a b k t z) :=
  vectorFloat_keeps
theorem execVfaddScalar_keeps {d a b : Reg} {k : MReg} {t : FloatTy} {r : Round} {z : Bool} :
    Keeps (execVfaddScalar d a b k t r z) := vectorFloatScalar_keeps
theorem execVfsubScalar_keeps {d a b : Reg} {k : MReg} {t : FloatTy} {r : Round} {z : Bool} :
    Keeps (execVfsubScalar d a b k t r z) := vectorFloatScalar_keeps
theorem execVfmulScalar_keeps {d a b : Reg} {k : MReg} {t : FloatTy} {r : Round} {z : Bool} :
    Keeps (execVfmulScalar d a b k t r z) := vectorFloatScalar_keeps
theorem execVfdivScalar_keeps {d a b : Reg} {k : MReg} {t : FloatTy} {r : Round} {z : Bool} :
    Keeps (execVfdivScalar d a b k t r z) := vectorFloatScalar_keeps
theorem execVfmaScalar_keeps {d a b c : Reg} {k : MReg} {t : FloatTy} {r : Round} {z : Bool} :
    Keeps (execVfmaScalar d a b c k t r z) := vectorFusedScalar_keeps
theorem execVfnmaScalar_keeps {d a b c : Reg} {k : MReg} {t : FloatTy} {r : Round} {z : Bool} :
    Keeps (execVfnmaScalar d a b c k t r z) := vectorFusedScalar_keeps
theorem execVfminScalar_keeps {d a b : Reg} {k : MReg} {t : FloatTy} {z : Bool} :
    Keeps (execVfminScalar d a b k t z) := vectorFloatScalar_keeps
theorem execVfmaxScalar_keeps {d a b : Reg} {k : MReg} {t : FloatTy} {z : Bool} :
    Keeps (execVfmaxScalar d a b k t z) := vectorFloatScalar_keeps
theorem execVfsqrt_keeps {d a : Reg} {k : MReg} {t : FloatTy} {r : Round} {z : Bool} :
    Keeps (execVfsqrt d a k t r z) := vectorFloatUnary_keeps
theorem execVfabs_keeps {d a : Reg} {k : MReg} {t : FloatTy} {z : Bool} : Keeps (execVfabs d a k t z) :=
  vectorFloatUnary_keeps
theorem execVfneg_keeps {d a : Reg} {k : MReg} {t : FloatTy} {z : Bool} : Keeps (execVfneg d a k t z) :=
  vectorFloatUnary_keeps
theorem execVfsgn_keeps {d a b : Reg} {k : MReg} {t : FloatTy} {z : Bool} : Keeps (execVfsgn d a b k t z) :=
  vectorFloat_keeps
theorem execVfrnd_keeps {d a : Reg} {k : MReg} {t : FloatTy} {r : Round} {z : Bool} : Keeps (execVfrnd d a k t r z) :=
  vectorFloatUnary_keeps
theorem execVfcls_keeps {d a : Reg} {k : MReg} {t : FloatTy} {z : Bool} : Keeps (execVfcls d a k t z) :=
  vectorFloatUnary_keeps
theorem vectorCompare_keeps {t : ElemTy} {p : Rel} {src : Nat → Inst → Nat → Nat} {d : MReg} {a : Reg} {k : MReg} {z : Bool} :
    Keeps (vectorCompare t p src d a k z) := liftPure_keeps
theorem execVceq_keeps {d : MReg} {a b : Reg} {k : MReg} {t : ElemTy} {z : Bool} : Keeps (execVceq d a b k t z) :=
  vectorCompare_keeps
theorem execVcne_keeps {d : MReg} {a b : Reg} {k : MReg} {t : ElemTy} {z : Bool} : Keeps (execVcne d a b k t z) :=
  vectorCompare_keeps
theorem execVclt_keeps {d : MReg} {a b : Reg} {k : MReg} {t : ElemTy} {z : Bool} : Keeps (execVclt d a b k t z) :=
  vectorCompare_keeps
theorem execVcle_keeps {d : MReg} {a b : Reg} {k : MReg} {t : ElemTy} {z : Bool} : Keeps (execVcle d a b k t z) :=
  vectorCompare_keeps
theorem execVcgt_keeps {d : MReg} {a b : Reg} {k : MReg} {t : ElemTy} {z : Bool} : Keeps (execVcgt d a b k t z) :=
  vectorCompare_keeps
theorem execVcge_keeps {d : MReg} {a b : Reg} {k : MReg} {t : ElemTy} {z : Bool} : Keeps (execVcge d a b k t z) :=
  vectorCompare_keeps
theorem execVceqScalar_keeps {d : MReg} {a b : Reg} {k : MReg} {t : ElemTy} {z : Bool} :
    Keeps (execVceqScalar d a b k t z) := vectorCompare_keeps
theorem execVcneScalar_keeps {d : MReg} {a b : Reg} {k : MReg} {t : ElemTy} {z : Bool} :
    Keeps (execVcneScalar d a b k t z) := vectorCompare_keeps
theorem execVcltScalar_keeps {d : MReg} {a b : Reg} {k : MReg} {t : ElemTy} {z : Bool} :
    Keeps (execVcltScalar d a b k t z) := vectorCompare_keeps
theorem execVcleScalar_keeps {d : MReg} {a b : Reg} {k : MReg} {t : ElemTy} {z : Bool} :
    Keeps (execVcleScalar d a b k t z) := vectorCompare_keeps
theorem execVcgtScalar_keeps {d : MReg} {a b : Reg} {k : MReg} {t : ElemTy} {z : Bool} :
    Keeps (execVcgtScalar d a b k t z) := vectorCompare_keeps
theorem execVcgeScalar_keeps {d : MReg} {a b : Reg} {k : MReg} {t : ElemTy} {z : Bool} :
    Keeps (execVcgeScalar d a b k t z) := vectorCompare_keeps
theorem vectorConvert_keeps {es ed : Nat} {f : Nat → Flagged} {d a : Reg} {k : MReg} {z : Bool} :
    Keeps (vectorConvert es ed f d a k z) := liftPure_keeps
theorem execVcvt_keeps {d a : Reg} {x : ElemTy} {k : MReg} {t : ElemTy} {r : Round} {sat z : Bool} :
    Keeps (execVcvt d a x k t r sat z) := vectorConvert_keeps
theorem execVcvtn_keeps {d a : Reg} {x : NarrowFmt} {k : MReg} {t : FloatTy} {r : Round} {sat z : Bool} :
    Keeps (execVcvtn d a x k t r sat z) := vectorConvert_keeps
theorem execVcvtw_keeps {d a : Reg} {x : NarrowFmt} {k : MReg} {t : FloatTy} {z : Bool} :
    Keeps (execVcvtw d a x k t z) := vectorConvert_keeps
theorem execVqmx_keeps {d a : Reg} {x : NarrowFmt} {t : FloatTy} {r : Round} {sat : Bool} :
    Keeps (execVqmx d a x t r sat) := liftPure_keeps
theorem execVdqmx_keeps {d a : Reg} {x : NarrowFmt} {t : FloatTy} {r : Round} {sat : Bool} :
    Keeps (execVdqmx d a x t r sat) := liftPure_keeps
theorem execVqq4_keeps {d a c : Reg} {t : FloatTy} : Keeps (execVqq4 d a c t) := liftPure_keeps
theorem execVdqq4_keeps {d a c : Reg} {t : FloatTy} {r : Round} {sat : Bool} : Keeps (execVdqq4 d a c t r sat) :=
  liftPure_keeps
theorem execVperm_keeps {d a b : Reg} {k : MReg} {t : ElemTy} {z : Bool} : Keeps (execVperm d a b k t z) :=
  vectorOp_keeps
theorem execVbcst_keeps {d b : Reg} {k : MReg} {t : ElemTy} {z : Bool} : Keeps (execVbcst d b k t z) := vectorOp_keeps
theorem execVslup_keeps {d a b : Reg} {k : MReg} {t : ElemTy} {z : Bool} : Keeps (execVslup d a b k t z) :=
  vectorOp_keeps
theorem execVsldn_keeps {d a b : Reg} {k : MReg} {t : ElemTy} {z : Bool} : Keeps (execVsldn d a b k t z) :=
  vectorOp_keeps
theorem execVcompr_keeps {d a : Reg} {k : MReg} {t : ElemTy} : Keeps (execVcompr d a k t) := liftPure_keeps
theorem execVexpn_keeps {d a : Reg} {k : MReg} {t : ElemTy} {z : Bool} : Keeps (execVexpn d a k t z) := vectorOp_keeps
theorem execVzip_keeps {d a b : Reg} {k : MReg} {t : ElemTy} {z : Bool} : Keeps (execVzip d a b k t z) :=
  vectorOp_keeps
theorem execVunzip_keeps {d a b : Reg} {k : MReg} {t : ElemTy} {z : Bool} : Keeps (execVunzip d a b k t z) :=
  vectorOp_keeps
theorem reduceInto_keeps {o : RedOp} {t : ElemTy} {d a : Reg} {k : MReg} : Keeps (reduceInto o t d a k) :=
  liftPure_keeps
theorem execVredAdd_keeps {d a : Reg} {k : MReg} {t : ElemTy} : Keeps (execVredAdd d a k t) := reduceInto_keeps
theorem execVredMin_keeps {d a : Reg} {k : MReg} {t : ElemTy} : Keeps (execVredMin d a k t) := reduceInto_keeps
theorem execVredMax_keeps {d a : Reg} {k : MReg} {t : ElemTy} : Keeps (execVredMax d a k t) := reduceInto_keeps
theorem execVredAnd_keeps {d a : Reg} {k : MReg} {t : IntTy} : Keeps (execVredAnd d a k t) := reduceInto_keeps
theorem execVredOr_keeps {d a : Reg} {k : MReg} {t : IntTy} : Keeps (execVredOr d a k t) := reduceInto_keeps
theorem execVredXor_keeps {d a : Reg} {k : MReg} {t : IntTy} : Keeps (execVredXor d a k t) := reduceInto_keeps
theorem scanInto_keeps {o : RedOp} {t : ElemTy} {d a : Reg} {k : MReg} {z : Bool} : Keeps (scanInto o t d a k z) :=
  liftPure_keeps
theorem execVscanAdd_keeps {d a : Reg} {k : MReg} {t : ElemTy} {z : Bool} : Keeps (execVscanAdd d a k t z) :=
  scanInto_keeps
theorem execVscanMin_keeps {d a : Reg} {k : MReg} {t : ElemTy} {z : Bool} : Keeps (execVscanMin d a k t z) :=
  scanInto_keeps
theorem execVscanMax_keeps {d a : Reg} {k : MReg} {t : ElemTy} {z : Bool} : Keeps (execVscanMax d a k t z) :=
  scanInto_keeps
theorem execVscanXor_keeps {d a : Reg} {k : MReg} {t : IntTy} {z : Bool} : Keeps (execVscanXor d a k t z) :=
  scanInto_keeps
theorem maskBinary_keeps {f : W64 → W64 → W64} {d a b : MReg} : Keeps (maskBinary f d a b) := liftPure_keeps
theorem execMand_keeps {d a b : MReg} : Keeps (execMand d a b) := maskBinary_keeps
theorem execMor_keeps {d a b : MReg} : Keeps (execMor d a b) := maskBinary_keeps
theorem execMxor_keeps {d a b : MReg} : Keeps (execMxor d a b) := maskBinary_keeps
theorem execMandn_keeps {d a b : MReg} : Keeps (execMandn d a b) := maskBinary_keeps
theorem execMnot_keeps {d a : MReg} : Keeps (execMnot d a) := liftPure_keeps
theorem execMpopc_keeps {d : Reg} {a : MReg} : Keeps (execMpopc d a) := liftPure_keeps
theorem execMgets_keeps {d : Reg} {a : MReg} : Keeps (execMgets d a) := liftPure_keeps
theorem execMsets_keeps {d : MReg} {a : Reg} : Keeps (execMsets d a) := liftPure_keeps
theorem execVmov_keeps {d a : Reg} {k : MReg} {t : ElemTy} {z : Bool} : Keeps (execVmov d a k t z) := vectorOp_keeps
theorem execVins_keeps {d a b : Reg} {t : ElemTy} : Keeps (execVins d a b t) := liftPure_keeps
theorem execVext_keeps {d a b : Reg} {t : ElemTy} : Keeps (execVext d a b t) := liftPure_keeps
theorem execVmovLane_keeps {d : Reg} {k : MReg} {t : IntTy} {z : Bool} : Keeps (execVmovLane d k t z) := vectorOp_keeps
theorem branchIf_keeps {test : Inst → Bool} {o : BitVec 27} : Keeps (branchIf test o) := lift_keeps
theorem branchReg_keeps {f : W64 → W64 → Bool} {a b : Reg} {o : BitVec 27} : Keeps (branchReg f a b o) :=
  branchIf_keeps
theorem branchImm_keeps {f : W64 → W64 → Bool} {a : Reg} {b : BitVec 5} {o : BitVec 27} : Keeps (branchImm f a b o) :=
  branchIf_keeps
theorem execBeq_keeps {a b : Reg} {o : BitVec 27} : Keeps (execBeq a b o) := branchReg_keeps
theorem execBne_keeps {a b : Reg} {o : BitVec 27} : Keeps (execBne a b o) := branchReg_keeps
theorem execBltI64_keeps {a b : Reg} {o : BitVec 27} : Keeps (execBltI64 a b o) := branchReg_keeps
theorem execBgeI64_keeps {a b : Reg} {o : BitVec 27} : Keeps (execBgeI64 a b o) := branchReg_keeps
theorem execBltN64_keeps {a b : Reg} {o : BitVec 27} : Keeps (execBltN64 a b o) := branchReg_keeps
theorem execBgeN64_keeps {a b : Reg} {o : BitVec 27} : Keeps (execBgeN64 a b o) := branchReg_keeps
theorem execBbs_keeps {a b : Reg} {o : BitVec 27} : Keeps (execBbs a b o) := branchReg_keeps
theorem execBbc_keeps {a b : Reg} {o : BitVec 27} : Keeps (execBbc a b o) := branchReg_keeps
theorem execBeqImm_keeps {a : Reg} {b : BitVec 5} {o : BitVec 27} : Keeps (execBeqImm a b o) := branchImm_keeps
theorem execBneImm_keeps {a : Reg} {b : BitVec 5} {o : BitVec 27} : Keeps (execBneImm a b o) := branchImm_keeps
theorem execBltI64Imm_keeps {a : Reg} {b : BitVec 5} {o : BitVec 27} : Keeps (execBltI64Imm a b o) := branchImm_keeps
theorem execBgeI64Imm_keeps {a : Reg} {b : BitVec 5} {o : BitVec 27} : Keeps (execBgeI64Imm a b o) := branchImm_keeps
theorem execBltN64Imm_keeps {a : Reg} {b : BitVec 5} {o : BitVec 27} : Keeps (execBltN64Imm a b o) := branchImm_keeps
theorem execBgeN64Imm_keeps {a : Reg} {b : BitVec 5} {o : BitVec 27} : Keeps (execBgeN64Imm a b o) := branchImm_keeps
theorem execBbsImm_keeps {a : Reg} {b : BitVec 5} {o : BitVec 27} : Keeps (execBbsImm a b o) := branchIf_keeps
theorem execBbcImm_keeps {a : Reg} {b : BitVec 5} {o : BitVec 27} : Keeps (execBbcImm a b o) := branchIf_keeps
theorem execJ_keeps {o : BitVec 35} : Keeps (execJ o) := lift_keeps
theorem execJt_keeps {a : Reg} {n : BitVec 10} : Keeps (execJt a n) := lift_keeps
theorem execRearm_keeps {slot : SlotNo} {a b : Reg} : Keeps (execRearm slot a b) := lift_keeps
theorem execFret_keeps : Keeps execFret := lift_keeps
theorem execTagwin_keeps {a b c : Reg} : Keeps (execTagwin a b c) := lift_keeps
theorem execMkref_keeps {d a : Reg} {cb : BitVec 12} : Keeps (execMkref d a cb) := liftPure_keeps
theorem loadOf_keeps {lc : Bool} {idx : BitVec 8} {a b : Reg} {slot : SlotNo} {t : LoadTy} :
    Keeps (loadOf lc idx a b slot t) := lift_keeps
theorem execLd_keeps {idx : BitVec 8} {a b : Reg} {slot : SlotNo} {t : LoadTy} : Keeps (execLd idx a b slot t) :=
  loadOf_keeps
theorem execLdLc_keeps {idx : BitVec 8} {a b : Reg} {slot : SlotNo} {t : LoadTy} : Keeps (execLdLc idx a b slot t) :=
  loadOf_keeps
theorem execSt_keeps {d a b : Reg} {slot : SlotNo} {e : Size} : Keeps (execSt d a b slot e) := lift_keeps
theorem vloadOf_keeps {addr : Inst → Nat → W64} {v : BitVec 3} {slot : SlotNo} {k : MReg} {e : Size} {z : Bool} :
    Keeps (vloadOf addr v slot k e z) := lift_keeps
theorem execVld_keeps {v : BitVec 3} {a b : Reg} {slot : SlotNo} {k : MReg} {e : Size} {z : Bool} :
    Keeps (execVld v a b slot k e z) := vloadOf_keeps
theorem execVldStr_keeps {v : BitVec 3} {a b : Reg} {slot : SlotNo} {k : MReg} {e : Size} {z : Bool} :
    Keeps (execVldStr v a b slot k e z) := vloadOf_keeps
theorem execVldIdx_keeps {v : BitVec 3} {a b : Reg} {slot : SlotNo} {k : MReg} {e : Size} {z : Bool} :
    Keeps (execVldIdx v a b slot k e z) := vloadOf_keeps
theorem vstoreOf_keeps {addr : Inst → Nat → W64} {d : Reg} {slot : SlotNo} {k : MReg} {e : Size} :
    Keeps (vstoreOf addr d slot k e) := lift_keeps
theorem execVst_keeps {d a b : Reg} {slot : SlotNo} {k : MReg} {e : Size} : Keeps (execVst d a b slot k e) :=
  vstoreOf_keeps
theorem execVstStr_keeps {d a b : Reg} {slot : SlotNo} {k : MReg} {e : Size} : Keeps (execVstStr d a b slot k e) :=
  vstoreOf_keeps
theorem prefetchOf_keeps {lc : Bool} {a b : Reg} : Keeps (prefetchOf lc a b) := lift_keeps
theorem execPf_keeps {a b : Reg} : Keeps (execPf a b) := prefetchOf_keeps
theorem execPfLc_keeps {a b : Reg} : Keeps (execPfLc a b) := prefetchOf_keeps
theorem gamo_keeps {f : AtomicFn} {idx : BitVec 8} {a b c : Reg} {slot : SlotNo} {w : Bool} {ord : Ord} {sc : Scope} :
    Keeps (gamo f idx a b c slot w ord sc) := lift_keeps
theorem execGamoAdd_keeps {idx : BitVec 8} {a b : Reg} {slot : SlotNo} {w : Bool} {ord : Ord} {sc : Scope} :
    Keeps (execGamoAdd idx a b slot w ord sc) := gamo_keeps
theorem execGamoAnd_keeps {idx : BitVec 8} {a b : Reg} {slot : SlotNo} {w : Bool} {ord : Ord} {sc : Scope} :
    Keeps (execGamoAnd idx a b slot w ord sc) := gamo_keeps
theorem execGamoOr_keeps {idx : BitVec 8} {a b : Reg} {slot : SlotNo} {w : Bool} {ord : Ord} {sc : Scope} :
    Keeps (execGamoOr idx a b slot w ord sc) := gamo_keeps
theorem execGamoXor_keeps {idx : BitVec 8} {a b : Reg} {slot : SlotNo} {w : Bool} {ord : Ord} {sc : Scope} :
    Keeps (execGamoXor idx a b slot w ord sc) := gamo_keeps
theorem execGamoMinSigned_keeps {idx : BitVec 8} {a b : Reg} {slot : SlotNo} {w : Bool} {ord : Ord} {sc : Scope} :
    Keeps (execGamoMinSigned idx a b slot w ord sc) := gamo_keeps
theorem execGamoMaxSigned_keeps {idx : BitVec 8} {a b : Reg} {slot : SlotNo} {w : Bool} {ord : Ord} {sc : Scope} :
    Keeps (execGamoMaxSigned idx a b slot w ord sc) := gamo_keeps
theorem execGamoMinUnsigned_keeps {idx : BitVec 8} {a b : Reg} {slot : SlotNo} {w : Bool} {ord : Ord} {sc : Scope} :
    Keeps (execGamoMinUnsigned idx a b slot w ord sc) := gamo_keeps
theorem execGamoMaxUnsigned_keeps {idx : BitVec 8} {a b : Reg} {slot : SlotNo} {w : Bool} {ord : Ord} {sc : Scope} :
    Keeps (execGamoMaxUnsigned idx a b slot w ord sc) := gamo_keeps
theorem execGamoSwap_keeps {idx : BitVec 8} {a b : Reg} {slot : SlotNo} {w : Bool} {ord : Ord} {sc : Scope} :
    Keeps (execGamoSwap idx a b slot w ord sc) := gamo_keeps
theorem execGamoCas_keeps {idx : BitVec 8} {a b c : Reg} {slot : SlotNo} {w : Bool} {ord : Ord} {sc : Scope} :
    Keeps (execGamoCas idx a b c slot w ord sc) := gamo_keeps
theorem execGamoFadd_keeps {idx : BitVec 8} {a b : Reg} {slot : SlotNo} {w : Bool} {ord : Ord} {sc : Scope} :
    Keeps (execGamoFadd idx a b slot w ord sc) := gamo_keeps
theorem execFence_keeps {sc : Scope} : Keeps (execFence sc) := lift_keeps
theorem actOn_keeps {a : Nat} {v : Inst → W64} : Keeps (actOn a v) := lift_keeps
theorem execRply_keeps : Keeps execRply := actOn_keeps
theorem execRsup_keeps {a : Reg} : Keeps (execRsup a) := actOn_keeps
theorem execKill_keeps : Keeps execKill := actOn_keeps
theorem execKillL_keeps {a : Reg} : Keeps (execKillL a) := lift_keeps
theorem execFrr_keeps {d : Reg} : Keeps (execFrr d) := lift_keeps
theorem request_keeps {r : Inst → SysReq} {slot : SlotNo} : Keeps (request r slot) := lift_keeps
theorem execTlbi_keeps {slot : SlotNo} {a b : Reg} : Keeps (execTlbi slot a b) := request_keeps
theorem execTlbia_keeps {slot : SlotNo} {a : Reg} : Keeps (execTlbia slot a) := request_keeps
theorem execCtxsv_keeps {slot : SlotNo} {a : Reg} : Keeps (execCtxsv slot a) := request_keeps
theorem execCtxrs_keeps {slot : SlotNo} {a b : Reg} : Keeps (execCtxrs slot a b) := request_keeps
theorem execHalt_keeps {slot : SlotNo} {a : Reg} : Keeps (execHalt slot a) := request_keeps
theorem execRdsr_keeps {d : Reg} {num : BitVec 12} : Keeps (execRdsr d num) := lift_keeps
theorem execWrsr_keeps {num : BitVec 12} {d : Reg} : Keeps (execWrsr num d) := lift_keeps
theorem execIllegalInstruction_keeps {_w0 : Word} {_w1 : Option Word} : Keeps (execIllegalInstruction _w0 _w1) :=
  lift_keeps
theorem engineIssue_keeps {cmd : EngineCmd} {a b c : Reg} {slot : SlotNo} {sc : Scope} :
    Keeps (engineIssue cmd a b c slot sc) := lift_keeps
theorem execCpy_keeps {a b c : Reg} {slot : SlotNo} {sc : Scope} : Keeps (execCpy a b c slot sc) := engineIssue_keeps
theorem execGth_keeps {a b c : Reg} {slot : SlotNo} {sc : Scope} : Keeps (execGth a b c slot sc) := engineIssue_keeps
theorem execSct_keeps {a b c : Reg} {slot : SlotNo} {sc : Scope} : Keeps (execSct a b c slot sc) := engineIssue_keeps
theorem execIsect_keeps {a b c : Reg} {slot : SlotNo} {sc : Scope} : Keeps (execIsect a b c slot sc) :=
  engineIssue_keeps
theorem execSmerge_keeps {a b c : Reg} {slot : SlotNo} {sc : Scope} : Keeps (execSmerge a b c slot sc) :=
  engineIssue_keeps
theorem execCmpct_keeps {a b c : Reg} {slot : SlotNo} {sc : Scope} : Keeps (execCmpct a b c slot sc) :=
  engineIssue_keeps
theorem execXld_keeps {slot : SlotNo} {a : Reg} : Keeps (execXld slot a) := lift_keeps
theorem execXunl_keeps {slot : SlotNo} {a : Reg} : Keeps (execXunl slot a) := lift_keeps
theorem execXq_keeps {d a : Reg} : Keeps (execXq d a) := lift_keeps
theorem execMzero_keeps {acc : BitVec 2} {slot : SlotNo} : Keeps (execMzero acc slot) := lift_keeps
theorem productIssue_keeps {cmd : MuCmd} {sparse : Bool} {acc : BitVec 2} {a b : PairNo} {slot : SlotNo} :
    Keeps (productIssue cmd sparse acc a b slot) := lift_keeps
theorem execMma_keeps {acc : BitVec 2} {a b : PairNo} {slot : SlotNo} : Keeps (execMma acc a b slot) :=
  productIssue_keeps
theorem execMmaSp_keeps {acc : BitVec 2} {a b : PairNo} {slot : SlotNo} : Keeps (execMmaSp acc a b slot) :=
  productIssue_keeps
theorem copyIssue_keeps {cmd : MuCmd} {acc : BitVec 2} {a : PairNo} {slot : SlotNo} :
    Keeps (copyIssue cmd acc a slot) := lift_keeps
theorem execMld_keeps {acc : BitVec 2} {a : PairNo} {slot : SlotNo} : Keeps (execMld acc a slot) := copyIssue_keeps
theorem execMst_keeps {acc : BitVec 2} {a : PairNo} {slot : SlotNo} : Keeps (execMst acc a slot) := copyIssue_keeps
theorem execMrd_keeps {acc : BitVec 2} {a : PairNo} {slot : SlotNo} {r : Round} {sat : Bool} :
    Keeps (execMrd acc a slot r sat) := lift_keeps

end Sys2Proof.Machine
end

