-- ==== Sys2Proof/Laws/Step.lean ====
section
/-! SUPPORT. Everything that a step can do: what a decoded word, a runner's issue, a move and a step answer. -/

namespace Sys2Proof.Machine

/-- The state in which an instruction word executes: as it was, or with the substitution of its instance taken off. -/
def State.atWord (s : State) (u : State) : Prop := u = s ∨ ∃ i, u = s.putInst i

theorem State.atWord_kept {s u : State} (h : s.atWord u) : u.kept = s.kept := by
  rcases h with rfl | ⟨i, rfl⟩
  · rfl
  · exact State.putInst_kept s i

/-- What the next instruction of an instance answers: the value of a substitution, an illegal instruction, or the
decoded instruction. -/
theorem runWith_spec {D : Type} (x : Option D) (dest : D → Option Reg) (run : D → State → Out) (c : Cur) (i : Inst)
    (s : State) :
    (∃ j, runWith x dest run c i s = .next (s.putInst j)) ∨
    (∃ u, s.atWord u ∧ runWith x dest run c i s = execIllegalInstruction c.w0 c.w1 u) ∨
    (∃ d u, x = some d ∧ s.atWord u ∧ runWith x dest run c i s = run d u) := by
  have go (u : State) (hu : s.atWord u) (o : Out) (ho : o = (match x with
      | none => execIllegalInstruction c.w0 c.w1 u
      | some d => if i.site = ringmaster ∧ !ringRuns (opcodeOf c.w0 (c.w1.getD 0)) then
          execIllegalInstruction c.w0 c.w1 u else run d u)) :
      (∃ j, o = .next (s.putInst j)) ∨ (∃ u, s.atWord u ∧ o = execIllegalInstruction c.w0 c.w1 u) ∨
      (∃ d u, x = some d ∧ s.atWord u ∧ o = run d u) := by
    cases x with
    | none => exact .inr (.inl ⟨u, hu, ho⟩)
    | some d =>
      dsimp only at ho
      split at ho
      · exact .inr (.inl ⟨u, hu, ho⟩)
      · exact .inr (.inr ⟨d, u, rfl, hu, ho⟩)
  unfold runWith
  dsimp only
  split
  · exact go s (.inl rfl) _ (by cases x <;> rfl)
  · split
    · exact go s (.inl rfl) _ (by cases x <;> rfl)
    · split
      · exact .inl ⟨_, rfl⟩
      · exact go _ (.inr ⟨_, rfl⟩) _ (by cases x <;> rfl)

/-- What a runner's issue answers: nothing happens, the run starts again, the instruction cache is filled, an instruction
beyond the last faults, or a word executes. -/
theorem State.issue_spec (s : State) (site runner : Nat) :
    s.issue site runner = .next s ∨
    (∃ i, s.instAt site runner = some i ∧ s.issue site runner = .next (s.restart i)) ∨
    s.issue site runner = execIcacheFill site runner s ∨
    (∃ i w, s.issue site runner = .next (s.takeFault i w { cause := .threadletLength })) ∨
    (∃ c i, s.instAt site runner = some i ∧ s.issue site runner = runWords c i { s with cur := some c }) := by
  unfold State.issue
  split
  · exact .inl rfl
  · rename_i i hi
    split
    · exact .inl rfl
    · split
      · split
        · exact .inl rfl
        · exact .inr (.inl ⟨i, hi, rfl⟩)
      · split
        · exact .inl rfl
        · split
          · exact .inr (.inr (.inl rfl))
          · dsimp only
            split
            · exact .inr (.inr (.inr (.inl ⟨i, _, rfl⟩)))
            · exact .inr (.inr (.inr (.inr ⟨_, i, hi, rfl⟩)))
      · exact .inl rfl

theorem State.nextMove_kept (s : State) : s.nextMove.2.kept = s.kept := by
  unfold State.nextMove
  split <;> rfl

/-- What a step answers: what is due, or the next move once time has passed. -/
theorem step_spec (s : State) :
    (∃ (d : Due) (u : State), u.kept = s.kept ∧ step s = d.run u) ∨
    (∃ m u, u.kept = s.kept ∧ step s = advance m u) := by
  unfold step
  split
  · refine .inl ⟨_, _, ?_, rfl⟩
    rfl
  · dsimp only
    split
    · refine .inl ⟨_, _, ?_, rfl⟩
      rfl
    · refine .inr ⟨_, _, ?_, rfl⟩
      exact State.nextMove_kept _

/-- What a move answers: a runner's issue, a step of the device, or nothing. -/
theorem advance_spec (m : Move) (s : State) :
    (∃ site runner, m = .issue site runner ∧ advance m s = (s.clockSite site).issue site runner) ∨
    (∃ i, m = .device i ∧ Instr.isDevice i = true ∧ advance m s = Sys2Proof.Machine.exec i { s with cur := none }) ∨
    advance m s = .next s := by
  unfold advance
  split
  · exact .inl ⟨_, _, rfl, rfl⟩
  · split
    · exact .inr (.inl ⟨_, rfl, by assumption, rfl⟩)
    · exact .inr (.inr rfl)

end Sys2Proof.Machine
end

