-- ==== Sys2Proof/Tests/Slice0.lean ====
section
/-! SUPPORT. Tests: the checks of WellFormed refuse, words written out from the encodings of R111 to R127 decode, single
steps give values computed by hand, and concrete states meet the hypotheses of the obligations. -/

namespace Sys2Proof.Tests
set_option Elab.async false
open Sys2Proof Sys2Proof.Machine

/-! ### WellFormed -/

/-- A term that breaks each limit of WellFormed is refused. -/
theorem test_wf_refuses : ∀ i ∈ ([.shlImm 1 2 64, .shrImm 1 2 64, .sraImm 1 2 (-1), .rorImm 1 2 64, .movh 1 0x10000000,
    .movh 1 (-0x10000001), .fadd 1 2 3 .rod .f64, .fsub 1 2 3 .rod .f32, .fmul 1 2 3 .rod .f16, .fdiv 1 2 3 .rod .bf16,
    .fsqrt 1 2 .rod .f64, .fma 1 2 3 .rod .f64, .fnma 1 2 3 .rod .f64, .fcvti 1 2 .i8 .rod .f32 true,
    .icvtf 1 2 .i64 .rod .f32 false, .fcvt 1 2 .f32 .rod .f64 false, .fcvt 1 2 .f16 .rod .f16 false,
    .vfadd 1 2 3 0 .f32 .rod false, .vfsub 1 2 3 0 .f32 .rod false, .vfmul 1 2 3 0 .f32 .rod false,
    .vfdiv 1 2 3 0 .f32 .rod false, .vfma 1 2 3 4 0 .f32 .rod false, .vfnma 1 2 3 4 0 .f32 .rod false,
    .vfaddScalar 1 2 3 0 .f32 .rod false, .vfsubScalar 1 2 3 0 .f32 .rod false, .vfmulScalar 1 2 3 0 .f32 .rod false,
    .vfdivScalar 1 2 3 0 .f32 .rod false, .vfmaScalar 1 2 3 4 0 .f32 .rod false, .vfnmaScalar 1 2 3 4 0 .f32 .rod false,
    .vfsqrt 1 2 0 .f64 .rod false, .vfrnd 1 2 0 .f64 .rod false, .vcvt 1 2 (.int .i8) 0 (.int .i16) .rtz false false,
    .vcvt 1 2 (.flt .f32) 0 (.flt .f64) .rod false false, .vcvt 1 2 (.int .i8) 0 (.flt .f64) .rod false false,
    .vqmx 1 2 .e4m3 .f32 .rod false, .vdqmx 1 2 .e4m3 .f32 .rod false, .vqq4 1 2 3 .f64, .vdqq4 1 2 3 .f64 .rne false,
    .vdqq4 1 2 3 .f32 .rod false, .sendv 1 2 3 6 none, .vld 6 1 2 3 0 .b8 false, .vldStr 7 1 2 3 0 .b8 false,
    .vldIdx 6 1 2 3 0 .b4 true] : List Instr), i.wf = false := by decide

/-- A term at the limit is admitted. -/
theorem test_wf_admits : ∀ i ∈ ([.shlImm 1 2 63, .rorImm 1 2 0, .movh 1 0xFFFFFFF, .movh 1 (-0x10000000),
    .fadd 1 2 3 .rup .f64, .fcvt 1 2 .f64 .rod .f32 false, .vcvt 1 2 (.flt .f32) 0 (.flt .bf16) .rod false false,
    .vcvt 1 2 (.int .i8) 0 (.int .i16) .rne false false, .vqq4 1 2 3 .f32, .sendv 1 2 3 5 none,
    .vld 5 1 2 3 0 .b8 false] : List Instr), i.wf = true := by decide

/-! ### Decoding -/

/-- Each pair of words (the second 0 where one word is the whole instruction) decodes to its instruction. -/
abbrev reads (l : List (Word × Word × Instr)) : Prop := ∀ e ∈ l, decodeWords e.1 e.2.1 = some e.2.2

/-- Words of R115, R127 (0x01). -/
theorem test_decode_integer : reads [
  (0x0238A800, 0, .add 3 17 10), (0x0238A801, 0, .sub 3 17 10), (0x0238A802, 0, .mul 3 17 10),
  (0x0238A803, 0, .mulhI64 3 17 10), (0x0238A804, 0, .mulhN64 3 17 10), (0x0238A805, 0, .divI64 3 17 10),
  (0x0238A806, 0, .divN64 3 17 10), (0x0238A807, 0, .remI64 3 17 10), (0x0238A808, 0, .remN64 3 17 10),
  (0x0238A809, 0, .and 3 17 10), (0x0238A80A, 0, .or 3 17 10), (0x0238A80B, 0, .xor 3 17 10),
  (0x0238A80C, 0, .andn 3 17 10), (0x0238A80D, 0, .shl 3 17 10), (0x0238A80E, 0, .shr 3 17 10),
  (0x0238A80F, 0, .sra 3 17 10), (0x0238A810, 0, .rol 3 17 10), (0x0238A811, 0, .ror 3 17 10),
  (0x02388012, 0, .clz 3 17), (0x02388013, 0, .ctz 3 17), (0x02388014, 0, .popc 3 17),
  (0x0238A815, 0, .minI64 3 17 10), (0x0238A816, 0, .maxI64 3 17 10), (0x0238A817, 0, .minN64 3 17 10),
  (0x0238A818, 0, .maxN64 3 17 10), (0x0238ABB9, 0, .sel 3 17 10 29), (0x0238A81A, 0, .clmul 3 17 10),
  (0x0238A81B, 0, .clmulh 3 17 10), (0x0238A81C, 0, .bgat 3 17 10), (0x0238A81D, 0, .bsct 3 17 10),
  (0x0238ABBE, 0, .madd 3 17 10 29), (0x0238ABBF, 0, .msub 3 17 10 29)] := by decide +kernel

/-- Words of R115, R127 (0x02). -/
theorem test_decode_compare : reads [
  (0x0438A800, 0, .sltI64 3 17 10), (0x0438A801, 0, .sltN64 3 17 10), (0x0438A802, 0, .seq 3 17 10),
  (0x0438A803, 0, .sne 3 17 10), (0x04388004, 0, .extdI8 3 17), (0x04388005, 0, .extdI16 3 17),
  (0x04388006, 0, .extdI32 3 17), (0x04388007, 0, .extdN8 3 17), (0x04388008, 0, .extdN16 3 17),
  (0x04388009, 0, .extdN32 3 17), (0x0438800A, 0, .bswap 3 17)] := by decide +kernel

/-- Words of R113 to R116, R118 (0x03 to 0x07). -/
theorem test_decode_immediate : reads [
  (0x06388FFE, 0, .addImm 3 17 (-2)), (0x06389FFE, 0, .andImm 3 17 (-2)), (0x0638AFFE, 0, .orImm 3 17 (-2)),
  (0x0638BFFE, 0, .xorImm 3 17 (-2)), (0x0638C03F, 0, .shlImm 3 17 63), (0x0638D03F, 0, .shrImm 3 17 63),
  (0x0638E03F, 0, .sraImm 3 17 63), (0x0638F03F, 0, .rorImm 3 17 63), (0x083887FF, 0, .sltI64Imm 3 17 0x7FF),
  (0x083897FF, 0, .sltN64Imm 3 17 0x7FF), (0x0838A7FF, 0, .seqImm 3 17 0x7FF), (0x0838B7FF, 0, .sneImm 3 17 0x7FF),
  (0x0838C7FF, 0, .mulImm 3 17 0x7FF), (0x0838D7FF, 0, .minI64Imm 3 17 0x7FF), (0x0838E7FF, 0, .maxI64Imm 3 17 0x7FF),
  (0xFE004000, 0x06388000, .addImm 3 17 (-0x4000000)), (0x0A3FFFFF, 0, .movi 3 (-1)),
  (0x0C37FFFF, 0, .movh 3 0x7FFFF), (0xFE000001, 0x0A3FFFFF, .movi 3 0x1FFFFF), (0x0E300000, 0, .rds 3 .tag),
  (0x0E308000, 0, .rds 3 .ctx), (0x0E310000, 0, .rds 3 .cb), (0x0E318000, 0, .rds 3 .cell),
  (0x0E320000, 0, .rds 3 .frame), (0x0E328000, 0, .rds 3 .cyc)] := by decide +kernel

/-- Words of R114, R115, R120 (0x08). -/
theorem test_decode_float : reads [
  (0x1038A9C0, 0, .fadd 3 17 10 .rup .bf16), (0x1038A9C1, 0, .fsub 3 17 10 .rup .bf16),
  (0x1038A9C2, 0, .fmul 3 17 10 .rup .bf16), (0x1038A9C3, 0, .fdiv 3 17 10 .rup .bf16),
  (0x103881C4, 0, .fsqrt 3 17 .rup .bf16), (0x1038A9C5, 0, .fma 3 17 10 .rup .bf16),
  (0x1038A9C6, 0, .fnma 3 17 10 .rup .bf16), (0x1038A847, 0, .fmin 3 17 10 .bf16),
  (0x1038A848, 0, .fmax 3 17 10 .bf16), (0x1038A849, 0, .fceq 3 17 10 .bf16), (0x1038A84A, 0, .fclt 3 17 10 .bf16),
  (0x1038A84B, 0, .fcle 3 17 10 .bf16), (0x103885CC, 0, .fcvt 3 17 .f32 .rup .bf16 false),
  (0x103899CD, 0, .fcvti 3 17 .n32 .rup .bf16 false), (0x103899CE, 0, .icvtf 3 17 .n32 .rup .bf16 false),
  (0x1038804F, 0, .fneg 3 17 .bf16), (0x10388050, 0, .fabs 3 17 .bf16), (0x1038A851, 0, .fsgn 3 17 10 .bf16),
  (0x10388052, 0, .fcls 3 17 .bf16), (0xFE200000, 0x10388C6E, .icvtf 3 17 .i64 .rne .f16 true)] := by decide +kernel

/-- Words of R115, R116 (0x09 to 0x0D). -/
theorem test_decode_branch : reads [
  (0x13150FFD, 0, .beq 17 10 (-3)), (0x15180005, 0, .beqImm 17 16 5), (0x13151FFD, 0, .bne 17 10 (-3)),
  (0x15181005, 0, .bneImm 17 16 5), (0x13152FFD, 0, .bltI64 17 10 (-3)), (0x15182005, 0, .bltI64Imm 17 16 5),
  (0x13153FFD, 0, .bgeI64 17 10 (-3)), (0x15183005, 0, .bgeI64Imm 17 16 5), (0x13154FFD, 0, .bltN64 17 10 (-3)),
  (0x15184005, 0, .bltN64Imm 17 16 5), (0x13155FFD, 0, .bgeN64 17 10 (-3)), (0x15185005, 0, .bgeN64Imm 17 16 5),
  (0x13156FFD, 0, .bbs 17 10 (-3)), (0x15186005, 0, .bbsImm 17 16 5), (0x13157FFD, 0, .bbc 17 10 (-3)),
  (0x15187005, 0, .bbcImm 17 16 5), (0x160FFFFE, 0, .j (-2)), (0x191003FF, 0, .jt 17 1023), (0x1A000000, 0, .fin),
  (0xFE007FFF, 0x13150FFF, .beq 17 10 (-1))] := by decide +kernel

/-- Words of R115, R120 (0x10 to 0x14). -/
theorem test_decode_frame : reads [
  (0x20388005, 0, .fld 3 17 5), (0x20389005, 0, .fst 3 17 5), (0x2038A005, 0, .fldv 3 17 5),
  (0x2038B005, 0, .fstv 3 17 5), (0x20304000, 0, .fldFsw 3), (0x22388FF8, 0, .sld 3 17 .n8 (-8)),
  (0x22389FF8, 0, .sld 3 17 .n16 (-8)), (0x2238AFF8, 0, .sld 3 17 .n32 (-8)), (0x2238BFF8, 0, .sld 3 17 .n64 (-8)),
  (0x2238CFF8, 0, .sld 3 17 .i8 (-8)), (0x2238DFF8, 0, .sld 3 17 .i16 (-8)), (0x2238EFF8, 0, .sld 3 17 .i32 (-8)),
  (0x24388FF8, 0, .sst 3 17 .b1 (-8)), (0x24389FF8, 0, .sst 3 17 .b2 (-8)), (0x2438AFF8, 0, .sst 3 17 .b4 (-8)),
  (0x2438BFF8, 0, .sst 3 17 .b8 (-8)), (0x2638AB48, 0, .sldv 3 17 10 6 (.flt .f32)),
  (0x2638AB49, 0, .sstv 3 17 10 6 (.flt .f32)), (0x2638AB4A, 0, .sldx 3 17 10 6 (.flt .f32)),
  (0x2638AB4B, 0, .sstx 3 17 10 6 (.flt .f32)), (0x2838A810, 0, .samoAdd 3 17 10 true),
  (0x2838A811, 0, .samoAnd 3 17 10 true), (0x2838A812, 0, .samoOr 3 17 10 true),
  (0x2838A813, 0, .samoXor 3 17 10 true), (0x2838A804, 0, .samoMin 3 17 10 false false),
  (0x2838A80C, 0, .samoMin 3 17 10 false true), (0x2838A815, 0, .samoMax 3 17 10 true false),
  (0x2838A81D, 0, .samoMax 3 17 10 true true), (0x2838A806, 0, .samoSwap 3 17 10 false),
  (0x2838ABB7, 0, .samoCas 3 17 10 29 true)] := by decide +kernel

/-- Words of R115, R120 (0x18 to 0x1B). -/
theorem test_decode_vectorInt : reads [
  (0x3038AB00, 0, .vadd 3 17 10 6 .i8 false), (0xFE100000, 0x3638AB00, .vaddScalar 3 17 10 6 .i8 true),
  (0x3038AB09, 0, .vsub 3 17 10 6 .i16 false), (0xFE100000, 0x3638AB09, .vsubScalar 3 17 10 6 .i16 true),
  (0x3038AB12, 0, .vmul 3 17 10 6 .i32 false), (0xFE100000, 0x3638AB12, .vmulScalar 3 17 10 6 .i32 true),
  (0x3038AB1B, 0, .vmulh 3 17 10 6 .i64 false), (0xFE100000, 0x3638AB1B, .vmulhScalar 3 17 10 6 .i64 true),
  (0x3038AB24, 0, .vmin 3 17 10 6 .n8 false), (0xFE100000, 0x3638AB24, .vminScalar 3 17 10 6 .n8 true),
  (0x3038AB2D, 0, .vmax 3 17 10 6 .n16 false), (0xFE100000, 0x3638AB2D, .vmaxScalar 3 17 10 6 .n16 true),
  (0x3038AB36, 0, .vadds 3 17 10 6 .n32 false), (0xFE100000, 0x3638AB36, .vaddsScalar 3 17 10 6 .n32 true),
  (0x3038AB3F, 0, .vsubs 3 17 10 6 .n64 false), (0xFE100000, 0x3638AB3F, .vsubsScalar 3 17 10 6 .n64 true),
  (0x3238AB30, 0, .vand 3 17 10 6 .n32 false), (0x3238AB31, 0, .vor 3 17 10 6 .n32 false),
  (0x3238AB32, 0, .vxor 3 17 10 6 .n32 false), (0x3238AB33, 0, .vandn 3 17 10 6 .n32 false),
  (0x3238AB34, 0, .vshl 3 17 10 6 .n32 false), (0x3238AB35, 0, .vshr 3 17 10 6 .n32 false),
  (0x3238AB36, 0, .vsra 3 17 10 6 .n32 false), (0x3238AB37, 0, .vrol 3 17 10 6 .n32 false),
  (0x34388330, 0, .vabs 3 17 6 .n32 false), (0x34388331, 0, .vneg 3 17 6 .n32 false),
  (0x34388332, 0, .vclz 3 17 6 .n32 false), (0x34388333, 0, .vpopc 3 17 6 .n32 false),
  (0xFE0E8000, 0x3438AB34, .vmadd 3 17 10 29 6 .n32 false), (0x3438AB35, 0, .vsel 3 17 10 6 .n32),
  (0x3438A836, 0, .vclmul 3 17 10 .n32 false), (0x3438A83F, 0, .vclmulh 3 17 10 .n64 false)] := by decide +kernel

/-- Words of R114, R115 (0x1C to 0x1E). -/
theorem test_decode_vectorFloat : reads [
  (0xFE900000, 0x3838AB40, .vfadd 3 17 10 6 .f64 .rdn true),
  (0xFE900000, 0x3A38AB40, .vfaddScalar 3 17 10 6 .f64 .rdn true),
  (0xFE900000, 0x3838AB41, .vfsub 3 17 10 6 .f64 .rdn true),
  (0xFE900000, 0x3A38AB41, .vfsubScalar 3 17 10 6 .f64 .rdn true),
  (0xFE900000, 0x3838AB42, .vfmul 3 17 10 6 .f64 .rdn true),
  (0xFE900000, 0x3A38AB42, .vfmulScalar 3 17 10 6 .f64 .rdn true),
  (0xFE900000, 0x3838AB43, .vfdiv 3 17 10 6 .f64 .rdn true),
  (0xFE900000, 0x3A38AB43, .vfdivScalar 3 17 10 6 .f64 .rdn true),
  (0xFE8E8000, 0x3838AB44, .vfma 3 17 10 29 6 .f64 .rdn false),
  (0xFE8E8000, 0x3A38AB44, .vfmaScalar 3 17 10 29 6 .f64 .rdn false),
  (0xFE8E8000, 0x3838AB45, .vfnma 3 17 10 29 6 .f64 .rdn false),
  (0xFE8E8000, 0x3A38AB45, .vfnmaScalar 3 17 10 29 6 .f64 .rdn false), (0x3838AB46, 0, .vfmin 3 17 10 6 .f64 false),
  (0x3A38AB46, 0, .vfminScalar 3 17 10 6 .f64 false), (0x3838AB47, 0, .vfmax 3 17 10 6 .f64 false),
  (0x3A38AB47, 0, .vfmaxScalar 3 17 10 6 .f64 false), (0x3C388358, 0, .vfsqrt 3 17 6 .f16 .rne false),
  (0x3C388359, 0, .vfabs 3 17 6 .f16 false), (0x3C38835A, 0, .vfneg 3 17 6 .f16 false),
  (0x3C38AB5B, 0, .vfsgn 3 17 10 6 .f16 false), (0x3C38835C, 0, .vfrnd 3 17 6 .f16 .rne false),
  (0x3C38835D, 0, .vfcls 3 17 6 .f16 false)] := by decide +kernel

/-- Words of R114, R50, R179, R181 (0x1F). -/
theorem test_decode_convert : reads [
  (0xFE600000, 0x3E388748, .vcvt 3 17 (.int .i16) 6 (.flt .f32) .rtz true false),
  (0xFF000000, 0x3E389F49, .vcvtn 3 17 .e3m2 6 .f32 .rod false false),
  (0x3E38A34A, 0, .vcvtw 3 17 .e2m1 6 .f32 false), (0xFE200000, 0x3E38A44B, .vqmx 3 17 .e4m3 .f32 .rne true),
  (0xFE0E8000, 0x3E38C04C, .vqq4 3 17 29 .f32), (0x3E38B44D, 0, .vdqmx 3 17 .e2m1 .f32 .rne false),
  (0xFECE8000, 0x3E38C056, .vdqq4 3 17 29 .bf16 .rup false)] := by decide +kernel

/-- Words of R115, R178, R186 (0x20 to 0x22). -/
theorem test_decode_permute : reads [
  (0x4058AB48, 0, .vceq 5 17 10 6 (.flt .f32) false), (0x4258AB20, 0, .vceqScalar 5 17 10 6 (.int .n8) false),
  (0x4058AB49, 0, .vcne 5 17 10 6 (.flt .f32) false), (0x4258AB21, 0, .vcneScalar 5 17 10 6 (.int .n8) false),
  (0x4058AB4A, 0, .vclt 5 17 10 6 (.flt .f32) false), (0x4258AB22, 0, .vcltScalar 5 17 10 6 (.int .n8) false),
  (0x4058AB4B, 0, .vcle 5 17 10 6 (.flt .f32) false), (0x4258AB23, 0, .vcleScalar 5 17 10 6 (.int .n8) false),
  (0x4058AB4C, 0, .vcgt 5 17 10 6 (.flt .f32) false), (0x4258AB24, 0, .vcgtScalar 5 17 10 6 (.int .n8) false),
  (0x4058AB4D, 0, .vcge 5 17 10 6 (.flt .f32) false), (0x4258AB25, 0, .vcgeScalar 5 17 10 6 (.int .n8) false),
  (0x4438AB10, 0, .vperm 3 17 10 6 (.int .i32) false), (0x44302B11, 0, .vbcst 3 10 6 (.int .i32) false),
  (0x4438AB12, 0, .vslup 3 17 10 6 (.int .i32) false), (0x4438AB13, 0, .vsldn 3 17 10 6 (.int .i32) false),
  (0x44388314, 0, .vcompr 3 17 6 (.int .i32)), (0x44388315, 0, .vexpn 3 17 6 (.int .i32) false),
  (0x4438AB16, 0, .vzip 3 17 10 6 (.int .i32) false),
  (0x4438AB17, 0, .vunzip 3 17 10 6 (.int .i32) false)] := by decide +kernel

/-- Words of R115, R187 to R190 (0x23 to 0x26). -/
theorem test_decode_reduce : reads [
  (0x46388318, 0, .vredAdd 3 17 6 (.int .i64)), (0x46388319, 0, .vredMin 3 17 6 (.int .i64)),
  (0x4638831A, 0, .vredMax 3 17 6 (.int .i64)), (0x4638831B, 0, .vredAnd 3 17 6 .i64),
  (0x4638831C, 0, .vredOr 3 17 6 .i64), (0x4638831D, 0, .vredXor 3 17 6 .i64),
  (0x48388318, 0, .vscanAdd 3 17 6 (.int .i64) false), (0x48388319, 0, .vscanMin 3 17 6 (.int .i64) false),
  (0x4838831A, 0, .vscanMax 3 17 6 (.int .i64) false), (0x4838831B, 0, .vscanXor 3 17 6 .i64 false),
  (0x4A530C00, 0, .mand 5 6 3), (0x4A530C01, 0, .mor 5 6 3), (0x4A530C02, 0, .mxor 5 6 3),
  (0x4A530C03, 0, .mandn 5 6 3), (0x4A530004, 0, .mnot 5 6), (0x4B330005, 0, .mpopc 19 6),
  (0x4B330006, 0, .mgets 19 6), (0x4A598007, 0, .msets 5 19), (0x4C388358, 0, .vmov 3 17 6 (.flt .f16) false),
  (0x4C38A859, 0, .vins 3 17 10 (.flt .f16)), (0x4C38A85A, 0, .vext 3 17 10 (.flt .f16)),
  (0xFE100000, 0x4C30032B, .vmovLane 3 6 .n16 true)] := by decide +kernel

/-- Words of R115, R202, R212, R213 (0x38 to 0x3A). -/
theorem test_decode_matrix : reads [
  (0x71001200, 0, .mzero 2 9), (0x711A9201, 0, .mma 2 3 10 9), (0x711A9202, 0, .mmaSp 2 3 10 9),
  (0x71181203, 0, .mld 2 3 9), (0x71181204, 0, .mst 2 3 9), (0xFF200000, 0x71181205, .mrd 2 3 9 .rod true),
  (0xFE400000, 0x7021422E, .mrdx 0 4 5 1 5 .rtz false), (0xFE1E801E, 0x7340E2AC, .xop 40 3 17 10 29 30 6 true),
  (0x74988000, 0, .xld 9 17), (0x74988001, 0, .xunl 9 17), (0x74388002, 0, .xq 3 17)] := by decide +kernel

/-- Words of R115, R121, R246, R249 (0x40 to 0x45). -/
theorem test_decode_token : reads [
  (0x81154E42, 0, .send 17 10 9 200 (some .die)), (0x83154828, 0, .sendv 17 10 9 5 none),
  (0x85104804, 0, .sig 17 9 (some .sys)), (0x8638AA48, 0, .sw 3 17 10 9 (some .cell)), (0x88229800, 0, .rearm 2 5 6),
  (0x88000001, 0, .fret), (0x8808ABA2, 0, .tagwin 17 10 29), (0x8A428007, 0, .mkref 4 5 7)] := by decide +kernel

/-- Words of R115, R121, R127 (0x48 to 0x51). -/
theorem test_decode_access : reads [
  (0x91911548, 0, .ld 200 17 10 9 .n8), (0x93911548, 0, .ldLc 200 17 10 9 .n8), (0x91911549, 0, .ld 200 17 10 9 .n16),
  (0x93911549, 0, .ldLc 200 17 10 9 .n16), (0x9191154A, 0, .ld 200 17 10 9 .n32),
  (0x9391154A, 0, .ldLc 200 17 10 9 .n32), (0x9191154B, 0, .ld 200 17 10 9 .n64),
  (0x9391154B, 0, .ldLc 200 17 10 9 .n64), (0x9191154C, 0, .ld 200 17 10 9 .i8),
  (0x9391154C, 0, .ldLc 200 17 10 9 .i8), (0x9191154D, 0, .ld 200 17 10 9 .i16),
  (0x9391154D, 0, .ldLc 200 17 10 9 .i16), (0x9191154E, 0, .ld 200 17 10 9 .i32),
  (0x9391154E, 0, .ldLc 200 17 10 9 .i32), (0x9438AA60, 0, .st 3 17 10 9 .b4),
  (0x9762A9D8, 0, .vld 5 17 10 9 6 .b8 false), (0x9762A9D9, 0, .vldStr 5 17 10 9 6 .b8 false),
  (0x9762A9DA, 0, .vldIdx 5 17 10 9 6 .b8 false), (0x9838AA72, 0, .vst 3 17 10 9 6 .b2),
  (0x9838AA73, 0, .vstStr 3 17 10 9 6 .b2), (0x9A011500, 0, .pf 17 10), (0x9A011501, 0, .pfLc 17 10),
  (0xFE800010, 0x9D91154B, .gamoAdd 200 17 10 9 true .ar .pkg),
  (0xFE800011, 0x9D91154B, .gamoAnd 200 17 10 9 true .ar .pkg),
  (0xFE800012, 0x9D91154B, .gamoOr 200 17 10 9 true .ar .pkg),
  (0xFE800013, 0x9D91154B, .gamoXor 200 17 10 9 true .ar .pkg),
  (0xFE800014, 0x9D91154B, .gamoMinSigned 200 17 10 9 true .ar .pkg),
  (0xFE800015, 0x9D91154B, .gamoMaxSigned 200 17 10 9 true .ar .pkg),
  (0xFE800016, 0x9D91154B, .gamoMinUnsigned 200 17 10 9 true .ar .pkg),
  (0xFE800017, 0x9D91154B, .gamoMaxUnsigned 200 17 10 9 true .ar .pkg),
  (0xFE800018, 0x9D91154B, .gamoSwap 200 17 10 9 true .ar .pkg),
  (0xFE8E8019, 0x9D91154B, .gamoCas 200 17 10 29 9 true .ar .pkg),
  (0xFE80001A, 0x9D91154B, .gamoFadd 200 17 10 9 true .ar .pkg), (0xA0000000, 0, .fence .cell),
  (0xA0000001, 0, .fence .die), (0xA0000002, 0, .fence .pkg), (0xA0000003, 0, .fence .sys),
  (0xA238AA50, 0, .cpy 3 17 10 9 .pkg), (0xA238AA51, 0, .gth 3 17 10 9 .pkg), (0xA238AA52, 0, .sct 3 17 10 9 .pkg),
  (0xA238AA53, 0, .isect 3 17 10 9 .pkg), (0xA238AA54, 0, .smerge 3 17 10 9 .pkg),
  (0xA238AA55, 0, .cmpct 3 17 10 9 .pkg)] := by decide +kernel

/-- Words of R369 (0x60, 0x61). -/
theorem test_decode_system : reads [
  (0xC0000000, 0, .rply), (0xC0088001, 0, .rsup 17), (0xC0000002, 0, .kill), (0xC0088003, 0, .killL 17),
  (0xC0300004, 0, .frr 3), (0xC098A805, 0, .tlbi 9 17 10), (0xC0988006, 0, .tlbia 9 17), (0xC0988007, 0, .ctxsv 9 17),
  (0xC098A808, 0, .ctxrs 9 17 10), (0xC0988009, 0, .halt 9 17), (0xC2300107, 0, .rdsr 3 0x107),
  (0xC2401102, 0, .wrsr 0x102 4)] := by decide +kernel

/-! Words that are no instruction: the zero word (R128); a reserved major (R126); a reserved field of `add`; reserved bits of `fin`; reserved bits of `fence`; a shift immediate of 64 in the long form (R146); a prefix before a prefix (R112); a prefix before `add` (R114); a prefix before minor 0 of 0x08 (R114); VIDX 6 (R116); SCOPE 4 (R121); `gamo` without a prefix (R114); minor 7 of 0x04 (R127); an odd descriptor register (R117). -/

theorem test_reject_zero : decodeWords 0 0 = none := by decide +kernel
theorem test_reject_major : decodeWords 0x7C000000 0 = none := by decide +kernel
theorem test_reject_add_field : decodeWords 0x02308820 0 = none := by decide +kernel
theorem test_reject_fin_bits : decodeWords 0x1A000001 0 = none := by decide +kernel
theorem test_reject_fence_bits : decodeWords 0xA0000008 0 = none := by decide +kernel
theorem test_reject_shift : decodeWords 0xFE000000 0x06424040 = none := by decide +kernel
theorem test_reject_prefixes : decodeWords 0xFE000000 0xFE000000 = none := by decide +kernel
theorem test_reject_prefix_add : decodeWords 0xFE000000 0x02308800 = none := by decide +kernel
theorem test_reject_prefix_minor : decodeWords 0xFE000000 0x10308800 = none := by decide +kernel
theorem test_reject_vidx : decodeWords 0x97850000 0 = none := by decide +kernel
theorem test_reject_scope : decodeWords 0xA0000004 0 = none := by decide +kernel
theorem test_reject_gamo : decodeWords 0x9C000000 0 = none := by decide +kernel
theorem test_reject_minor : decodeWords 0x08307000 0 = none := by decide +kernel
theorem test_reject_pair : decodeWords 0x71040001 0 = none := by decide +kernel

/-- R116: a prefix makes the base field's top bit an ordinary bit. -/
theorem test_decode_long_immediate : decodeWords 0xFE000000 0x06310FFF = some (.addImm 3 2 0xFFF) ∧
    decodeWords 0x06310FFF 0 = some (.addImm 3 2 (-1)) := by decide +kernel

/-! ### Small states

A cell of context 1 with one frame and one instance, and memory in which virtual addresses below 4 GiB of context 1 map
to the near pool of die 0 at the same physical addresses. -/

def key1 : Key := ⟨1, 2, 7⟩
def desc1 : Desc :=
  { large := true, place := .fixed, wlog := 2, cellix := 0, code := 0x1000, base := 0, stride := 0,
    slots := [(0, ⟨1, 0, 0⟩), (2, ⟨2, 5, 1⟩)], threads := [(0, ⟨0, 2⟩), (1, ⟨0x40, 3⟩)] }
def frame1 : Frame :=
  { (default : Frame) with
    key := key1, desc := desc1, lid := 3, words := [(0, 5), (255, 9)], slots := [(0, ⟨1, 1⟩), (2, ⟨2, 5⟩)] }
def inst1 : Inst :=
  { (default : Inst) with
    key := key1, cls := 2, pc := 0x1000, s := [(1, 252), (2, 0x3FFF8), (3, 0xFFFFFFFFFFFFFFFF), (4, 5)], m := [(1, 0x8000000000000000)],
    v := [(1, 0), (2, 0x300000002)] }
def cur1 : Cur := ⟨0, 0, 0x1000, 0x02308800, none⟩
def res1 : Resident :=
  { (default : Resident) with
    ctx := 1, cells := [0], funits := 1, sunits := 4, lunits := 1, ptroot := 1, cbtab := 0x10000, xtab := 0x12000,
    htab := 0x13000, spilln := 1, handlers := [0x8002] }

/-- A page table of one 4 GiB leaf, and codeblocks 2 (a cell's) and 3 (a remote one) of context 1. -/
def mem1 : Memory :=
  ((((((((({} : Memory).write 0x2000 8 0x4001).write 0x4000 8 0x6001).write 0x6000 8 0x8001).write 0x8000 8 0x21F).write
    0x10040 8 1).write 0x10048 8 0x11000).write 0x10060 8 3).write 0x10068 8 0x100).write 0x13000 2 0x8002

/-- A state in which `w` is about to run on cell 0. -/
def cell1 : State :=
  { State.reset with
    agenda := [.issue 0 0], cur := some cur1, insts := [inst1], frames := [frame1], mem := mem1,
    descs := [⟨0, 1, 2, desc1⟩], windows := [⟨0, 1, 2, 2, 0⟩], icache := [⟨0, 1, 0x1000, 0x02308800⟩],
    ctl := { State.reset.ctl with residents := [res1] }, sys := { State.reset.sys with pools := 1 } }

theorem test_executes : cell1.executes cur1 inst1 := ⟨rfl, rfl⟩

theorem test_translate : cell1.translate 1 .load 0x11000 = .ok 0x11000 := by decide +kernel


/-! ### States that meet the hypotheses of the statements about instruction words

Each theorem below names the obligation that its states and operands are for. -/

/-- The instance with other scalar registers, and a state in which it runs. -/
def with_ (rs : List (Nat × W64)) : Inst := { inst1 with s := rs }

theorem test_past_puts : (cell1.putInst (inst1.past cur1)).instAt 0 0 = some { inst1 with pc := 0x1004, dyn := 1 } := by
  decide +kernel

/-- ImmediateForms, BranchesAndJumps, Division: immediates and branch tests at their limits, each way. -/
theorem test_witness_scalar : (63 : BitVec 27).toNat ≤ 63 ∧ inst1.getS 4 = inst1.getS 4 ∧ inst1.getS 4 ≠ inst1.getS 1 ∧
    (inst1.getS 3).toInt < (inst1.getS 4).toInt ∧ (inst1.getS 3).toInt ≤ (inst1.getS 4).toInt ∧
    (inst1.getS 4).toNat < (inst1.getS 3).toNat ∧ (inst1.getS 4).toNat ≤ (inst1.getS 4).toNat ∧
    (inst1.getS 3).getLsbD ((inst1.getS 3).toNat % 64) = true ∧ (inst1.getS 4).getLsbD ((inst1.getS 3).toNat % 64) = false ∧
    inst1.getS 3 = (31 : BitVec 5).signExtend 64 ∧ inst1.getS 4 ≠ (31 : BitVec 5).signExtend 64 ∧
    (inst1.getS 3).toInt < (0 : BitVec 5).toInt ∧ ¬(inst1.getS 4).toInt < (5 : BitVec 5).toInt ∧
    (inst1.getS 4).toNat < ((31 : BitVec 5).signExtend 64).toNat ∧
    (inst1.getS 4).getLsbD (2 : BitVec 5).toNat = true ∧ (inst1.getS 4).getLsbD (31 : BitVec 5).toNat = false ∧
    (inst1.getS 4).toNat < (5 : BitVec 10).toNat + 1 ∧ (4 : BitVec 10).toNat + 1 ≤ (inst1.getS 4).toNat := by decide +kernel

/-- FrameAccessForms at the last data word, with the frame's word and with the instance's own pending vector word. -/
theorem test_witness_frame_access :
    (baseOffset (inst1.getS 1) 3 = 255 ∧ 255 < (if (cell1.frameOf inst1).desc.large then 256 else 64) ∧
      cell1.wordSeen inst1 255 = some 9 ∧ inst1.nEff < 32) ∧
    (let i := inst1.withEffect (.frameVector 5 7)
     baseOffset (i.getS 4) 0 = 5 ∧ (cell1.frameOf i).desc.large = true ∧ i.nEff < 32 ∧
      ∀ n, n < 32 → cell1.wordSeen i (64 + 32 * 5 + n) = some ((7 : VWord).extractLsb' (64 * n) 64)) := by decide +kernel

/-- ScratchAccessForms: the last bytes below the bound; one active lane. -/
theorem test_witness_scratch_access :
    (baseOffset (inst1.getS 2) 0 = 0x3FFF8 ∧ 0x3FFF8 + LoadTy.n64.bytes ≤ cell1.scratchBound 1 ∧
      (upFrom 0x3FFF8 8).map (cell1.scratchSeen inst1) = (List.replicate 8 (0 : Byte)).map some ∧ inst1.nEff < 32) ∧
    (∀ j, j < elemCount 32 → active (inst1.getM 1) j = true →
      (inst1.getS 1).toNat + (inst1.getS 0).toNat + j * 4 + 4 ≤ cell1.scratchBound 1 ∧
        (upFrom ((inst1.getS 1).toNat + (inst1.getS 0).toNat + j * 4) 4).map (cell1.scratchSeen inst1)
          = (List.replicate 4 (0 : Byte)).map some ∧ numberOf (List.replicate 4 (0 : Byte)) = 0) ∧
    ∀ j, j < elemCount 32 → active (inst1.getM 1) j = true →
      (inst1.getS 2).toNat + elemAt 32 (inst1.getV 1) j * 4 + 4 ≤ cell1.scratchBound 1 ∧
        (upFrom ((inst1.getS 2).toNat + elemAt 32 (inst1.getV 1) j * 4) 4).map (cell1.scratchSeen inst1)
          = (List.replicate 4 (0 : Byte)).map some := by decide +kernel

/-- ScratchAtomicForms, with a function for `samo.min` and `samo.max` of either sign. -/
theorem test_witness_scratch_atomic :
    ((inst1.getS 2).toNat = 0x3FFF8 ∧ 0x3FFF8 % 8 = 0 ∧ 0x3FFF8 + 8 ≤ cell1.scratchBound 1 ∧ inst1.nEff < 32 ∧
      (upFrom 0x3FFF8 8).map (cell1.scratchSeen inst1) = (List.replicate 8 (0 : Byte)).map some) ∧
    ∀ (less : Nat → Nat → Prop) (val : Inst → Nat), ∃ new : Inst → Nat → Option Nat,
      ∀ i old, (less (val i) old → new i old = some (val i)) ∧ (¬less (val i) old → new i old = some old) :=
  ⟨by decide +kernel, fun less val => by
    classical exact ⟨fun i old => if less (val i) old then some (val i) else some old,
      fun i old => ⟨fun h => if_pos h, fun h => if_neg h⟩⟩⟩

/-- FrameAndScratchTraps: beyond the last word and vector word, before the first, poisoned words and bytes, 32 effects,
the first byte beyond scratch, an unaligned atomic, and a lane beyond scratch. -/
theorem test_witness_traps :
    baseOffset (inst1.getS 1) 4 = 256 ∧ baseOffset (inst1.getS 0) (-1) < 0 ∧ 5 < baseOffset (inst1.getS 4) 1 ∧
    (let s := { cell1 with frames := [{ frame1 with poison := [255] }] }
     baseOffset (inst1.getS 1) 3 = 255 ∧ s.wordSeen inst1 255 = none ∧ baseOffset (inst1.getS 4) 0 = 5 ∧
       s.wordSeen inst1 (64 + 32 * 5 + 31) = none) ∧
    (32 ≤ ({ inst1 with nEff := 32 } : Inst).nEff) ∧
    (cell1.scratchBound 1 : Int) < baseOffset (inst1.getS 2) 1 + 8 ∧ baseOffset (inst1.getS 0) (-1) < 0 ∧
    (let s := { cell1 with scratch := { poison := [scratchKey 0 1 0x3FFF8] } }
     baseOffset (inst1.getS 2) (-1) = 0x3FFF7 ∧ s.scratchSeen inst1 0x3FFF8 = none ∧ s.scratchSeen inst1 0x3FFF7 ≠ none) ∧
    cell1.scratchBound 1 < (inst1.getS 3).toNat + 8 ∧
    ((inst1.getS 4).toNat + 8 ≤ cell1.scratchBound 1 ∧ (inst1.getS 4).toNat % 8 ≠ 0) ∧
    (active (inst1.getM 1) 63 = true ∧ (∀ l, l < 63 → active (inst1.getM 1) l = false) ∧
      (cell1.scratchBound 1 : Int) < unitOffsets inst1 2 0 4 63 + 4 ∧
      (cell1.scratchBound 1 : Int) < indexOffsets { inst1 with v := [(1, BitVec.allOnes 2048)] } 2 1 4 63 + 4) ∧
    cell1.resident 9 = none := by decide +kernel

/-- References: to codeblock 2 with CELLV 1 and 0, to the remote codeblock 3, with a reserved bit, to a codeblock that is
not there, and to a cell outside the partition. -/
def refs : Inst :=
  with_ [(5, 0x0080000200000009), (6, 0x0000000200000009), (7, 0x0000000300000009), (8, 0x0200000200000009), (9, 0x0000000400000009),
    (10, 0x0080500200000009)]

/-- SendForms and ReferenceChecks: a target of this cell, a target by its tag, a remote small target, and each refusal. -/
theorem test_witness_sends :
    (∃ k, cell1.checkRef 0 1 (refs.getS 5) true = (cell1, .ok k) ∧ k.large = true) ∧
    (∃ k, cell1.checkRef 0 1 (refs.getS 6) false = (cell1, .ok k) ∧ k.large = true) ∧
    (∃ k, cell1.checkRef 0 1 (refs.getS 7) true = (cell1, .ok k) ∧ k.large = false) ∧
    refs.getS 5 ≠ 0 ∧ refs.getS 0 = 0 ∧ (63 : BitVec 8).toNat < 64 ∧ 64 ≤ (64 : BitVec 8).toNat ∧
    (refs.getS 8).toNat / 2 ^ 57 ≠ 0 ∧ cell1.codeblock 1 4 = none ∧ (refs.getS 9).getLsbD 55 = false ∧
    (refs.getS 10).toNat / 2 ^ 57 = 0 ∧ (refs.getS 10).getLsbD 55 = true ∧ (refs.getS 10).toNat / 2 ^ 44 % 2 ^ 11 ∉ cell1.senderCells 1 ∧
    (cell1.codeblock 1 2).map (fun b => (b.ring, b.remote)) = some (false, none) ∧
    cell1.loadDesc 0 1 2 = (cell1, .ok desc1) ∧ (refs.getS 5).toNat / 2 ^ 44 % 2 ^ 11 ∈ cell1.senderCells 1 :=
  ⟨⟨_, rfl, rfl⟩, ⟨_, rfl, rfl⟩, ⟨_, rfl, rfl⟩, by decide +kernel⟩

/-- FrameControlForms: a declared slot and one that is not; `tagwin` at both limits and beyond each; 32 effects. -/
theorem test_witness_frame_control :
    let s := { cell1 with mem := mem1.write 0x2FFE0 8 1 }
    let i := with_ [(1, 4095), (2, 12), (3, 4096), (4, 13), (5, 9)]
    (keyed (s.frameOf i).desc.slots 2).isSome = true ∧ (keyed (s.frameOf i).desc.slots 1).isSome = false ∧
    ((i.getS 1).toNat ≤ 4095 ∧ (i.getS 2).toNat ≤ 12 ∧ (s.codeblock 1 4095).isSome = true) ∧
    ¬(i.getS 3).toNat ≤ 4095 ∧ ¬(i.getS 4).toNat ≤ 12 ∧ (s.codeblock 1 9).isSome = false ∧ i.nEff < 32 ∧
    32 ≤ ({ i with nEff := 32 } : Inst).nEff := by decide +kernel

/-- RunEnds: nothing recorded; a recorded byte that scratch still holds; one that it does not. -/
theorem test_witness_run_ends :
    cell1.homes (inst1.past cur1) inst1.effects.zipIdx = (cell1, .ok []) ∧ inst1.recorded = [] ∧
    (let i := { inst1 with recorded := [(8, 0)] }
     cell1.otherExclusive i = false ∧ cell1.unitsReserved i i.recordedUnits = false ∧ cell1.validates i = true) ∧
    (let i := { inst1 with recorded := [(8, 1)] }
     i.recorded ≠ [] ∧ cell1.otherExclusive i = false ∧ cell1.unitsReserved i i.recordedUnits = false ∧
       cell1.validates i = false) := by decide +kernel

/-- GlobalAccessForms: the last word of a large frame, and beyond a small one; the last vector word, and beyond it. -/
theorem test_witness_global_access :
    (255 : BitVec 8).toNat < (if (cell1.frameOf inst1).desc.large then 256 else 64) ∧
    ((cell1.frameOf inst1).desc.large = true ∧ (5 : BitVec 3).toNat ≤ 5) ∧ ¬(6 : BitVec 3).toNat ≤ 5 ∧ inst1.nEff < 32 ∧
    (let s := { cell1 with frames := [{ frame1 with desc := { desc1 with large := false } }] }
     (if (s.frameOf inst1).desc.large then 256 else 64) ≤ (64 : BitVec 8).toNat ∧ (s.frameOf inst1).desc.large = false) := by
  decide +kernel

/-- The access of 8 bytes at 4,092 is two parts, of 4 bytes each (R258). -/
theorem test_parts_cross_a_page : (partsOf 0 4092 8 0x1122334455667788).map (fun p => (p.va, p.len, p.off, p.data))
    = [(4092, 4, 0, 0x1122334455667788), (4096, 4, 4, 0x11223344)] := by decide +kernel

/-- A state whose scratch holds, at offset 0, a descriptor of which all words are zero but DW0 and DW7. -/
def engineCell (dw0 dw7 : Nat) : State :=
  { cell1 with scratch := (({} : Memory).write (scratchKey 0 1 0) 8 dw0).write (scratchKey 0 1 56) 8 dw7 }
def commandOf (s : State) (cmd : EngineCmd) : Engine :=
  { (default : Engine) with
    cmd := cmd, dw := (upFrom 0 16).map (fun k => BitVec.ofNat 64 (s.scratch.read (scratchKey 0 1 (8 * k)) 8)) }

/-- EngineIssueForms: a sound descriptor of each command, one that is none, and offsets that are unaligned or too high. -/
theorem test_witness_engine_issue :
    (∀ e ∈ [(EngineCmd.cpy, 0), (.gth, 1), (.sct, 2), (.isect, 3), (.smerge, 4), (.cmpct, 5)],
      let s := engineCell e.2 0x100
      let t := if e.1 = .isect then s else engineCell e.2 0
      (commandOf t e.1).check (t.scratchBound 1) = .ok () ∧ ((upFrom 0 128).map (t.scratchSeen inst1)).all Option.isSome = true) ∧
    (commandOf (engineCell 6 0) .cpy).check (cell1.scratchBound 1) = .error { cause := .engineDesc } ∧
    (inst1.getS 0).toNat % 8 = 0 ∧ 128 ≤ cell1.scratchBound 1 ∧ (inst1.getS 4).toNat % 8 ≠ 0 ∧
    ((inst1.getS 2).toNat % 8 = 0 ∧ cell1.scratchBound 1 < (inst1.getS 2).toNat + 128) := by decide +kernel

/-- A resident graph of one vector operand for opcode number 5, with its table entry. -/
def graph1 : Graph := { (default : Graph) with lat := 6, nvop := 1 }
def slot1 : GSlot := { (default : GSlot) with st := .resident, n := 5, image := 0x14000, graph := graph1 }
def graphCell : State :=
  { cell1 with
    gslots := [slot1]
    ctl := { cell1.ctl with residents := [{ res1 with xops := List.replicate 10 0 ++ [0x100, 0x14000] }] } }

/-- MatrixIssueForms: pair 0 describes a binary64 operand of K 1 and a binary64 tile; pairs 8 and 9 a sparse and a dense
bfloat16 operand of K 24; pair 10 a tile that leaves scratch with its second line; pair 11 has a reserved bit set. -/
theorem test_witness_matrix_issue :
    let i := with_ [(16, 0), (17, 0x170000000000022), (18, 0), (19, 0x170000000000002), (20, 0x3FFC0), (21, 0), (22, 0),
      (23, 0x2000000000000000), (24, 0), (25, 1)]
    let fits (l : List (Nat × Nat)) : Prop := ∀ x ∈ l, 0 < x.2 → x.1 + x.2 ≤ cell1.scratchBound 1
    i.key.ctx ≠ 0 ∧ i.nEff < 32 ∧
    (tdSound (i.getTd 0) = true ∧ pairingSound false (i.getTd 0) (i.getTd 0) = true ∧ fits (operandRuns (i.getTd 0))) ∧
    (tdSound (i.getTd 8) = true ∧ tdSound (i.getTd 9) = true ∧ pairingSound true (i.getTd 8) (i.getTd 9) = true ∧
      fits (operandRuns (i.getTd 8)) ∧ fits (operandRuns (i.getTd 9))) ∧
    tdSound (i.getTd 11) = false ∧ pairingSound true (i.getTd 0) (i.getTd 0) = false ∧
    (tdFmt (i.getTd 0) = 0 ∧ tdSparse (i.getTd 0) = 0 ∧ fits (tileRuns (i.getTd 0) 64) ∧ fits (readoutRuns (i.getTd 0))) ∧
    tdFmt (i.getTd 9) ≠ 0 ∧
    (tdSound (i.getTd 10) = true ∧ tdFmt (i.getTd 10) = 0 ∧ tdSparse (i.getTd 10) = 0 ∧
      (0x40000, 64) ∈ tileRuns (i.getTd 10) 64 ∧ max 0x40000 (cell1.scratchBound 1) = 0x40000 ∧
      ∀ x ∈ tileRuns (i.getTd 10) 64, 0 < x.2 → cell1.scratchBound 1 < x.1 + x.2 → 0x40000 ≤ max x.1 (cell1.scratchBound 1)) ∧
    (graphCell.currentSlot 0 1 5 = some slot1 ∧ slot1.graph.nvop = 1) ∧
    (tdSound (i.getTd 12) = true ∧ tdFmt (i.getTd 12) = 1 ∧ tdSparse (i.getTd 12) = 0 ∧ fits (tileRuns (i.getTd 12) 32)) ∧
    ({ inst1 with key := ⟨0, 2, 7⟩ } : Inst).key.ctx = 0 := by decide +kernel

/-- CarouselWordForms: a current graph that fits, none, and one that takes a second operand. -/
theorem test_witness_carousel_words :
    graphCell.currentSlot 0 1 5 = some slot1 ∧ slot1.graph.scal = false ∧ slot1.graph.two = false ∧
    graphCell.currentSlot 0 1 6 = none ∧ inst1.key.ctx ≠ 0 ∧ inst1.nEff < 32 ∧ ¬(slot1.graph.nvop < 2 → (3 : Reg) = 0) := by
  decide +kernel

/-- SystemForms: context 0, a handler frame of a user context, a frame that is neither, and the Ringmaster's registers. -/
theorem test_witness_system :
    (let i := { inst1 with key := ⟨0, 2, 7⟩ }
     let f := { frame1 with key := ⟨0, 2, 7⟩, words := (upFrom 0 8).map (fun k => (k, 0)) }
     let s := { cell1 with insts := [i], frames := [f] }
     i.key.ctx = 0 ∧ (upFrom 0 8).map (s.wordSeen i) = (List.replicate 8 (0 : W64)).map some ∧ i.nEff < 32) ∧
    (let s := { cell1 with frames := [{ frame1 with handler := some ⟨0, some 3⟩ }] }
     inst1.key.ctx ≠ 0 ∧ (s.frameOf inst1).handler.isSome = true) ∧
    (inst1.key.ctx ≠ 0 ∧ (cell1.frameOf inst1).handler.isSome = false) ∧
    (cell1.readSys 0 = some 0 ∧ cell1.readSys 0xFFF = none ∧ cellReads 0xFFF = false ∧ inst1.site ≠ ringmaster) ∧
    (upFrom 0 0x200).any cellReads = true := by decide +kernel

/-- FrameAndScratchTraps: a lane, and an atomic, that meets a poisoned byte it has not written. -/
theorem test_witness_poison_traps :
    (let s := { cell1 with scratch := { poison := [scratchKey 0 1 504] } }
     active (inst1.getM 1) 63 = true ∧ (∀ l, l < 63 → active (inst1.getM 1) l = false) ∧ unitOffsets inst1 1 0 4 63 = 504 ∧
       ¬(s.scratchBound 1 : Int) < 504 + 4 ∧ s.scratchSeen inst1 504 = none) ∧
    (let s := { cell1 with scratch := { poison := [scratchKey 0 1 0x3FFF8] } }
     (inst1.getS 2).toNat = 0x3FFF8 ∧ 0x3FFF8 + 8 ≤ s.scratchBound 1 ∧ s.scratchSeen inst1 0x3FFF8 = none) ∧
    (∀ k, k < 8 → cell1.scratchSeen inst1 (0x3FFF8 + k) ≠ none) := by decide +kernel

/-- ReferenceChecks: a remote entry with a reserved bit set, a descriptor that does not load, a codeblock of the Ringmaster,
and the Ringmaster as the sender to a codeblock of the cells. -/
theorem test_witness_references :
    (let s := { cell1 with mem := mem1.write 0x10070 8 1 }
     (refs.getS 7).toNat / 2 ^ 57 = 0 ∧ (refs.getS 7).getLsbD 55 = false ∧
       (s.codeblock 1 3).map (fun b => (b.ring, b.remote.isSome, b.sound)) = some (false, true, false)) ∧
    ((cell1.codeblock 1 3).map (fun b => (b.ring, b.remote.isSome, b.sound)) = some (false, true, true) ∧
      (let r : W64 := 0x0080000300000009
       r.toNat / 2 ^ 57 = 0 ∧ r.getLsbD 55 = true ∧ r.toNat / 2 ^ 44 % 2 ^ 11 ∈ cell1.senderCells 1)) ∧
    (({ cell1 with descs := [], mem := mem1.write 0x10048 8 0x11001 } : State).loadDesc 0 1 2).2 = .error { cause := .codeblockDesc } ∧
    (let s := { cell1 with sys := { cell1.sys with bootEntries := [(2, 0x11000)] }, descs := [⟨ringmaster, 0, 2, desc1⟩] }
     (s.codeblock 0 2).map (fun b => (b.ring, b.remote)) = some (true, none) ∧
       s.loadDesc ringmaster 0 2 = (s, .ok desc1) ∧ (refs.getS 6).getLsbD 55 = false) := by decide +kernel

/-- EngineIssueForms and GlobalAccessForms with 32 effects counted, and a vector access of a frame that is small. -/
theorem test_witness_budgets :
    let i : Inst := { inst1 with nEff := 32 }
    32 ≤ i.nEff ∧ (255 : BitVec 8).toNat < (if (cell1.frameOf i).desc.large then 256 else 64) ∧
    ((cell1.frameOf i).desc.large = true ∧ (5 : BitVec 3).toNat ≤ 5) ∧
    (i.getS 0).toNat % 8 = 0 ∧ (commandOf (engineCell 0 0) .cpy).check (cell1.scratchBound 1) = .ok () := by decide +kernel

/-- VectorConvertForms and ReductionTree: blocks with a signalling NaN, of zeros, of finite values and with an infinity, all
sound; a super-scale that is zero, one that is not; codes at both ends; and products of each kind. -/
theorem test_witness_blocks :
    let l0 : List FVal := [.nan true]
    let l1 : List FVal := [.fin true ⟨3, 0, 1⟩, .fin false ⟨0, 0, 1⟩]
    let l2 : List FVal := [.inf true]
    (FVal.nan true ∈ l0) ∧ ((∀ sg, FVal.nan sg ∉ l1) ∧ ∀ t x, FVal.fin t x ∈ l1 → 0 < x.den) ∧
    ((∀ sg, FVal.nan sg ∉ l2) ∧ ∃ g, FVal.inf g ∈ l2) ∧
    (let rat (x : Exact) : ℚ := x.num * (2 : ℚ) ^ x.exp / x.den
     (∃ t x, FVal.fin t x ∈ l1 ∧ |rat x| = 3) ∧ (∀ t x, FVal.fin t x ∈ l1 → |rat x| ≤ 3) ∧
       (2 : ℚ) ^ (1 : Int) ≤ 3 ∧ (3 : ℚ) < (2 : ℚ) ^ ((1 : Int) + 1) ∧ rat ⟨1, 0, 1⟩ ≠ 0 ∧ rat ⟨0, 0, 1⟩ = 0) ∧
    (15 : Nat) < 16 ∧ ((0 : Nat) < 2 ∧ [FVal.inf true, .inf true].length % 2 = 0) := by
  refine ⟨by simp, ⟨by simp, fun t x h => ?_⟩, ⟨by simp, true, by simp⟩, ⟨⟨true, _, by simp; rfl, by norm_num⟩, fun t x h => ?_,
    by norm_num, by norm_num, by norm_num, by norm_num⟩, by omega, by simp⟩
  · simp at h; rcases h with ⟨-, rfl⟩ | ⟨-, rfl⟩ <;> simp
  · simp at h; rcases h with ⟨-, rfl⟩ | ⟨-, rfl⟩ <;> norm_num

/-- CarouselWordForms: the lane of a graph whose second node reads its first; a pair of products that is a number, one that is
not; and a table read between two entries, at one, below, above and at NaN. -/
theorem test_witness_lane :
    let n0 : GNode := { (default : GNode) with kind := 2, op := 0, src0 := 1, src1 := 5 }
    let n1 : GNode := { (default : GNode) with kind := 6, src0 := 0x80 }
    let g : Graph := { (default : Graph) with nodes := [n0, n1], res0 := 1, res1 := 0 }
    let l : LaneIn := { op0 := 7, op1 := 0, op2 := 0, sc := 0, lane := 2 }
    let val (_ : Nat) : Flagged := (9, 0)
    (∀ i n, g.nodes[i]? = some n → i < 2 ∧
      val i = g.nodeResult n i (if n.src0 = 0x80 then 9 else 7) (if n.src1 = 5 then 2 else 0) 0 ∧
      ∀ x ∈ [n.src0, n.src1, n.src2], x ≤ 5 ∨ (0x80 ≤ x ∧ x - 0x80 < 2 ∧ x - 0x80 < i)) ∧
    g.res0 < g.nodes.length ∧ g.res1 < g.nodes.length ∧ g.lane l = (9, 9, 0) ∧
    (fmtF32.decode 0x3F000000).isNan = false ∧ (fmtF32.decode 0x7FC00000).isNan = true ∧
    fmtF32.decode 0xFF800000 = .inf true ∧ fmtF32.decode 0x7F800000 = .inf false ∧
    ((lookupLinear ⟨0, 0, 0, [0x3F800000, 0x40000000]⟩ .rne 0x3F000000).1 = 0x3FC00000) := by
  refine ⟨fun i n h => ?_, ?_⟩
  · match i with
    | 0 => cases h; decide +kernel
    | 1 => cases h; decide +kernel
    | i + 2 => cases h
  · decide +kernel
/-! ### The machine as a whole, and numbers -/

/-- StepKeepsInv and EffectsArePending: a state with the invariant that steps, and a word that completes. -/
theorem test_witness_step_inv : cell1.Inv ∧ ∃ t, step cell1 = .next t :=
  ⟨⟨by decide +kernel, by decide +kernel, by decide +kernel, by decide +kernel, by decide +kernel, by decide, by decide,
    by decide⟩, ⟨_, rfl⟩⟩

theorem test_witness_pending : Instr.isDevice (.add 3 1 2) = false ∧ ∃ t, Sys2Proof.Machine.exec (.add 3 1 2) cell1 = .next t :=
  ⟨rfl, ⟨_, rfl⟩⟩

/-- StepRunsDecoded, with one word and with a prefix. -/
theorem test_witness_step_runs :
    (cell1.agenda = [.issue 0 0] ∧ cell1.due = none ∧ cell1.elapse.due = none ∧ cell1.instAt 0 0 = some inst1 ∧
      inst1.phase = .running ∧ (cell1.frameOf inst1).life ≠ .spilled ∧ inst1.dyn < 256 ∧ inst1.subst = none ∧
      cell1.cachedWord 0 1 0x1000 = some 0x02308800 ∧ isPrefix 0x02308800 = false ∧
      decodeWords 0x02308800 0 = some (.add 3 1 2)) ∧
    (let s := { cell1 with icache := [⟨0, 1, 0x1000, 0xFE000000⟩, ⟨0, 1, 0x1004, 0x06310FFF⟩] }
     isPrefix 0xFE000000 = true ∧ s.cachedWord 0 1 0x1000 = some 0xFE000000 ∧ s.cachedWord 0 1 (0x1000 + 4) = some 0x06310FFF ∧
       decodeWords 0xFE000000 0x06310FFF = some (.addImm 3 2 0xFFF)) :=
  ⟨⟨rfl, rfl, rfl, rfl, rfl, by decide +kernel, by decide, rfl, by decide +kernel, by decide +kernel, by decide +kernel⟩,
    by decide +kernel⟩

/-- StepRunsDecoded: a timer that is due, a time word that is due, and neither just before. -/
theorem test_witness_due :
    let at_ (rtime : Nat) : State := { cell1 with sys := { cell1.sys with rtime := rtime, timeaddr := 0x11001, lastTimeWord := 1024 } }
    let timed : State := { cell1 with sys := { cell1.sys with rtime := 200, timers := [(3, ⟨200, 0, 1, 0, 0⟩)] } }
    timed.due = some (.timer 3) ∧ (at_ 2039).due = some .timeWord ∧ (at_ 2038).due = none := by decide +kernel

/-- IssueExceptions: the 257th instruction, words that are none, a word that the Ringmaster does not run, a substitution. -/
theorem test_witness_issue :
    cell1.fetched inst1 = some (0x02308800, none) ∧ 256 ≤ ({ inst1 with dyn := 256 } : Inst).dyn ∧
    (let s := { cell1 with icache := [⟨0, 1, 0x1000, 0⟩] }
     s.fetched inst1 = some (0, none) ∧ inst1.dyn < 256 ∧ decodeWords 0 0 = none) ∧
    ringRuns (opcodeOf 0x70000000 0) = false ∧
    (let i := { inst1 with subst := some (0, opcodeOf 0x02308800 0, 5) }
     i.subst = some (i.dyn, opcodeOf 0x02308800 0, 5) ∧ cell1.fetched i = some (0x02308800, none)) := by decide +kernel

/-- SynchronousFault: a frame of a cell whose fault finds its handler, or has none; one under a kill mark; and one of the
Ringmaster, of the codeblock of class 5 and of another. -/
theorem test_witness_fault :
    (cell1.instAt 0 0 = some inst1 ∧ (0 : Nat) ≠ ringmaster ∧ cell1.frameAt 0 key1 = some frame1 ∧ frame1.fresh = false ∧
      frame1.life = .live ∧ cell1.underKill inst1 = false ∧ frame1.handler = none ∧
      ({ cell1 with killed := [(0, 1, 3)] } : State).underKill inst1 = true ∧ cell1.running 0 key1 (some 0) = false ∧
      cell1.queued 0 key1 = false ∧ cell1.handlerEntry 1 1 = none) ∧
    (let i : Inst := { inst1 with site := ringmaster, key := ⟨0, 2, 7⟩ }
     let f : Frame := { frame1 with site := ringmaster, key := ⟨0, 2, 7⟩ }
     let s (e : Nat) : State :=
       { cell1 with
         insts := [i], frames := [f], mem := mem1.write 0x20028 8 e
         sys := { cell1.sys with evtbase := 0x20000, bootEntries := [(2, 0x100), (3, 0x200)] } }
     (s 0).instAt ringmaster 0 = some i ∧ (s 0).frameAt ringmaster i.key = some f ∧ (s 0).underKill i = false ∧
       (s 0x10002).eventTarget 5 = some (2, 0) ∧ (s 0x13003).eventTarget 5 = some (3, 3) ∧ (s 0).eventTarget 5 = none) := by
  decide +kernel

/-- SynchronousFault: cause 0 finds the handler codeblock 2, whose descriptor declares threadlet 0. -/
theorem test_handler_home : cell1.handlerHome 0 1 3 0 2 0 :=
  ⟨by decide, by decide +kernel, ⟨⟨false, none, 0x11000, true⟩, by decide +kernel, rfl, rfl⟩, cell1, desc1, by decide +kernel,
    by decide +kernel, by decide +kernel, by decide +kernel⟩

/-- RoundTrip and ReservedRefused. -/
theorem test_witness_encoding : Instr.wf (.sendv 1 2 3 5 none) = true ∧ isPrefix 0xFE000000 = true ∧ isPrefix 0x7C000000 = false ∧
    majorOf 0x7C000000 = 0x3E ∧ majorOf 0x9C000000 = 0x4E ∧ (decodeWords 0x1A000000 0).isSome = true := by decide +kernel

/-- MinMaxAndCompare on binary16: NaNs (one signalling), a smaller and a greater number, and the two zeros. -/
theorem test_witness_min_max :
    let f := FloatTy.f16.fmt
    ((f.decode 0x7E00).isNan = true ∧ (f.decode 0x7C01) = .nan true ∧ (f.decode 0x3C00).isNan = false) ∧
    (f.decode 0x3C00).compare (f.decode 0x4000) < 0 ∧ 0 < (f.decode 0x3C00).compare (f.decode 0xBC00) ∧
    f.zero true = 0x8000 ∧ f.zero false = 0 ∧ (f.decode 0x8000).compare (f.decode 0) = 0 ∧ 0xFFFF < 2 ^ f.width := by
  decide +kernel

/-- RoundingDirections and BitCounts: a whole quotient, a tie, and a quotient that is neither. -/
theorem test_witness_rounding : 0 < 4 ∧ 4 ∣ 8 ∧ ¬4 ∣ 6 ∧ 2 * (6 % 4) = 4 ∧ ¬4 ∣ 7 ∧ (1 : W64) ≠ 0 := by decide

/-- RepresentableUnchanged: the least subnormal of every format. -/
theorem test_witness_representable : ∀ f ∈ [fmtF64, fmtF32, fmtBf16, fmtF16, fmtE4m3, fmtE5m2, fmtE2m3, fmtE3m2, fmtE2m1],
    1 < 2 ^ f.width ∧ ∃ x, f.decode 1 = .fin false x ∧ x.num ≠ 0 := by
  intro f hf
  simp only [List.mem_cons, List.not_mem_nil, or_false] at hf
  rcases hf with h | h | h | h | h | h | h | h | h <;> subst h <;> exact ⟨by decide +kernel, _, rfl, by decide +kernel⟩

/-- LanesUnderMask, VectorCompareForms, ReductionTree: the narrowest and the widest element, an active lane, a NaN. -/
theorem test_witness_lanes : (1 ≤ 1 ∧ 63 < elemCount 1) ∧ 31 < elemCount 64 ∧ active (1 : W64) 0 = true ∧
    (FloatTy.f32.fmt.decode 0x7FC00000).isNan = true ∧ (FloatTy.f32.fmt.decode 0).isNan = false ∧
    (scanFrom (fun x y => (x + y, 0)) 1 none [4].zipIdx).1[0]? = some 4 := by decide +kernel

/-! ### Single steps by hand -/

/-- The register that `add` writes in one step of the machine: 252 + 0x3FFF8 (R142). -/
theorem test_step_add :
    (match step { cell1 with agenda := [.issue 0 0] } with
      | .next t => (t.instAt 0 0).map (fun i => (i.getS 3, i.pc, i.dyn))
      | _ => none) = some (0x400F4, 0x1004, 1) := by rfl

/-- DIV of the most negative number by −1 is itself, and division by 0 gives −1 (R143). -/
theorem test_division : (divRem (-9223372036854775808) (-1)).1 = 9223372036854775808 ∧ (divRem (-7) 2) = (-3, -1) ∧
    (divRem 7 0) = (-1, 7) := by decide +kernel

/-- 1.0 + 2^−24 rounds to 1.0 in binary32, and to the next number upward; inexact either way (R62, R64). -/
theorem test_float_add : floatAdd fmtF32 .rne 0x3F800000 0x33800000 = (0x3F800000, flagInexact) ∧
    floatAdd fmtF32 .rup 0x3F800000 0x33800000 = (0x3F800001, flagInexact) ∧
    floatMul fmtF32 .rne 0x7F000000 0x40800000 = (0x7F800000, flagOverflow ||| flagInexact) := by decide +kernel

/-- 448 is the greatest E4M3 number: 480 overflows to NaN, or saturates (R65, R66). -/
theorem test_convert_e4m3 : (convertFloat fmtF32 fmtE4m3 .rne true 0x43F00000).1 = 0x7E ∧
    (convertFloat fmtF32 fmtE4m3 .rne false 0x43E00000).1 = 0x7E := by decide +kernel

/-- Key (1, 2, 7) and CELL 0 as a reference (R23), and `%cell` of cell 49 (R13): x 1, y 1. -/
theorem test_references : frameRef 0 key1 false = 0x0080000200000007 ∧ cellWord 49 = 0x11001010031 := by decide +kernel

/-- ILLEGAL_INSTRUCTION on cell 0: the runner is free, a suspended entry waits, and the token's FW0 holds cause 0, HELD,
context 1 and LID 3 (R364); of a handler's own instance it halts the context (R368). -/
theorem test_step_fault :
    (match Sys2Proof.Machine.exec (.illegalInstruction 0 none) cell1 with
      | .next t => some (t.insts, t.items.map (·.key), t.tokens.map (fun k => match k.payload with
        | .words ws => ws.getD 0 0
        | _ => 0))
      | _ => none) = some ([], [key1], [0x0003010000000200]) ∧
    (match Sys2Proof.Machine.exec (.illegalInstruction 0 none) { cell1 with frames := [{ frame1 with handler := some ⟨0, none⟩ }] } with
      | .next t => some (t.haltedAt 0 1, t.items.length)
      | _ => none) = some (true, 0) := by decide +kernel

/-- Bytes are stored little-endian (R3), and writing what an unlisted byte reads as removes it. -/
theorem test_memory : (({} : Memory).write 16 2 0x0102).cells = [(16, 2), (17, 1)] ∧
    ((({} : Memory).write 16 2 0x0102).write 16 1 0).cells = [(17, 1)] := by decide +kernel


/-! ### States that meet the hypotheses of the statements about the device's own steps -/

def tok1 : Token := { (default : Token) with id := 1, key := key1, lid := 3, slot := 2, committed := true }
def key3 : Key := ⟨1, 2, 3⟩
def ready1 : Ready := { (default : Ready) with key := key1, thr := 1, cls := 3, stamp := 4 }

/-- CommitInstant: a commit with a word, a scratch byte and a token; one that must wait; one of a killed launch; `fret`
with and without another entry of the frame. -/
theorem test_witness_commit :
    let at0 : At := ⟨0, 0x1000, 0x02308800, none⟩
    let i : Inst := { inst1 with phase := .offering, effects := [.frameWord 255 8, .scratch [(0x3FFFF, 1)], .token tok1 true at0] }
    let k : Token := { tok1 with committed := false, owner := some (0, 0), prog := 2, phase := .accepted }
    let s : State := { cell1 with insts := [i], tokens := [k] }
    let j : Inst := { inst1 with phase := .tagwin 0, effects := [.fret] }
    let u : State := { cell1 with insts := [j] }
    (s.instAt 0 0 = some i ∧ s.frameAt 0 key1 = some frame1 ∧ s.canCommit i = true ∧ s.windowsIn i = true ∧
      (0, 1, 3) ∉ s.killed ∧ frame1.life ≠ .dying ∧ frame1.fresh = false ∧ s.scratch.wf ∧ EffBody.fret ∉ i.effects ∧
      k ∈ s.offeredBy i ∧ (s.tokens.map (·.id)).Nodup ∧ (EffBody.token tok1 true at0, k.prog) ∈ i.effects.zipIdx) ∧
    ({ s with tokens := [{ k with phase := .refused }] } : State).canCommit i = false ∧
    ((1 : Nat) ≠ 0 ∧ (0, 1, 3) ∈ ({ s with killed := [(0, 1, 3)] } : State).killed ∧
      ({ s with killed := [(0, 1, 3)] } : State).canCommit i = true) ∧
    (u.canCommit j = true ∧ u.windowsIn j = true ∧ EffBody.fret ∈ j.effects ∧ u.running 0 key1 (some 0) = false ∧
      u.queued 0 key1 = false ∧ ({ u with ready := [ready1] } : State).queued 0 key1 = true) := by decide +kernel

/-- CommitInstant: two rearms of a slot, a request behind a fence, an action, `kill.l`, and register writes that take effect
and that are discarded, each with a value at its limit and one beyond it; a halted Ringmaster. -/
theorem test_witness_commit_more :
    let o : Op := { (default : Op) with key := key1, lid := 3, slot := 2, kind := .load .n64 false 255, parts := [] }
    let l : Launch := { (default : Launch) with ctx := 1, lid := 3 }
    let i : Inst := { inst1 with
      phase := .offering, effects := [.rearm 2 0 7, .rearm 2 4 1, .fence .pkg, .op o, .act 0 0 [0], .killLaunch 1 3] }
    let s : State := { cell1 with insts := [i], ctl := { cell1.ctl with launches := [l] } }
    let r (n : Nat) (v : W64) : Inst := { inst1 with
      site := ringmaster, key := ⟨0, 2, 7⟩, phase := .offering, effects := [.writeSys n v] }
    let ring (n : Nat) (v : W64) : State :=
      { cell1 with insts := [r n v], frames := [{ frame1 with site := ringmaster, key := ⟨0, 2, 7⟩ }] }
    let part (v : W64) : Prop := 48 < wfield v 1 6 + wfield v 12 6 ∨ 24 < wfield v 7 5 + wfield v 18 5
    (s.canCommit i = true ∧ s.windowsIn i = true ∧ i.effects = [EffBody.rearm 2 0 7] ++ EffBody.rearm 2 4 1 :: i.effects.drop 2 ∧
      (∀ c q, EffBody.rearm 2 c q ∉ i.effects.drop 2) ∧ (EffBody.op o, 3) ∈ i.effects.zipIdx ∧ o.site = i.site ∧
      EffBody.act 0 0 [0] ∈ i.effects ∧ EffBody.killLaunch 1 3 ∈ i.effects ∧ (s.launch 1 3).isSome = true ∧
      EffBody.killLaunch 1 2 ∉ i.effects) ∧
    (∀ e ∈ [(0, 5), (1, 48), (1, 49), (2, 3), (0x11, 7), (0x1F, 1), (0x40, 0x41001), (0x7F, 0), (0x101, 63), (0x102, 9), (0x103, 9),
        (0x104, 1), (0x105, 8), (0x106, 1), (0x107, 0x11001), (0x108, 4), (0x100, 0), (0x20, 0)],
      (ring e.1 (BitVec.ofNat 64 e.2)).canCommit (r e.1 (BitVec.ofNat 64 e.2)) = true ∧
        (r e.1 (BitVec.ofNat 64 e.2)).effects.filterMap (fun e =>
          match e with
          | .writeSys n x => some (n, x)
          | _ => none) = [(e.1, BitVec.ofNat 64 e.2)]) ∧
    (part 0x31000 ∧ ¬part 0x41001 ∧ (24 : Nat) * 2 ^ 32 > 96 * 10 ^ 9) ∧
    (ring 0 5).hw.rmHalted = false := by
  intro o l i s r ring part
  refine ⟨⟨?_, ?_, rfl, fun c q h => ?_, ?_, rfl, ?_, ?_, ?_, ?_⟩, ?_, ?_, rfl⟩
  case refine_3 => simp [i] at h
  all_goals decide +kernel

theorem test_finds : cell1.finds 0 key1 false 3 frame1 := by
  refine ⟨?_, ?_, ?_, ?_, ?_, ?_, ?_, ?_⟩ <;> decide +kernel

/-- TokenSteps: a token that finds its frame, one that creates it, one that is parked or refused, one of the other epoch,
one to be applied to a slot that counts, and to one that is spent. -/
theorem test_witness_tokens :
    let s : State := { cell1 with tokens := [tok1] }
    let t3 : Token := { tok1 with key := key3, kind := 1 }
    let s3 : State := { cell1 with tokens := [t3] }
    let t8 : Token := { tok1 with key := ⟨1, 2, 11⟩, kind := 1 }
    let full : State := { cell1 with
      tokens := t8 :: (List.range 256).map (fun k => { tok1 with id := k + 2, key := ⟨1, 9, 20⟩, phase := .parked .window }) }
    let done : Token := { tok1 with phase := .accepted }
    (s.token 1 = some tok1 ∧ tok1.phase = .offered ∧ tok1.isFault = false ∧ tok1.remote = none ∧
      s.refusesDirect tok1 = false ∧ s.parkDue tok1 = false) ∧
    (s.residentAt 0 1 = true ∧ s.haltedAt 0 1 = false ∧ (0, 1, 3) ∉ s.killed ∧ tok1.key.ctx ≠ 0) ∧
    (s3.refusesDirect t3 = false ∧ s3.parkDue t3 = false ∧ s3.frameAt 0 key3 = none ∧ s3.loadDesc 0 1 2 = (s3, .ok desc1) ∧
      s3.keyParked t3 = false ∧ s3.windowAt 0 1 2 = some ⟨0, 1, 2, 2, 0⟩ ∧ s3.outsideWindow 0 key3 2 = false ∧
      s3.hasRoom 0 1 desc1 = true) ∧
    (full.parkDue t8 = false ∧ full.frameAt 0 t8.key = none ∧ t8.isSignal = false ∧ full.keyParked t8 = false ∧
      full.outsideWindow 0 t8.key 2 = true ∧ 256 ≤ full.parkCount 0 ∧
      ({ cell1 with tokens := [t8] } : State).parkCount 0 < 256) ∧
    frame1.epoch ≠ ({ tok1 with epoch := true } : Token).epoch ∧
    (let s := { cell1 with tokens := [done] }
     done.committed = true ∧ s.mustWait done = false ∧ s.released done = true ∧ s.hw.health ≠ .fatal ∧
      keyed frame1.slots 2 = some ⟨2, 5⟩ ∧
      keyed ({ frame1 with slots := [(2, ⟨0, 5⟩)] } : Frame).slots 2 = some ⟨0, 5⟩) ∧
    (let s := { cell1 with descs := [], ready := [ready1], mem := (mem1.write 0x11000 8 4).write 0x11080 8 0x400000000 }
     s.descAt 0 1 2 = none ∧ s.residentAt 0 1 = true ∧ s.haltedAt 0 1 = false ∧ s.needsDesc 0 1 2 = true ∧
       cell1.needsDesc 0 1 2 = false ∧ (s.loadDesc 0 1 2).2.toOption.isSome = true ∧
       (({ s with mem := mem1.write 0x10048 8 0x11001 } : State).loadDesc 0 1 2).2 = .error { cause := .codeblockDesc }) ∧
    (let s := { cell1 with tokens := [tok1], descs := [], mem := mem1.write 0x10048 8 0x11001 }
     s.refusesDirect tok1 = false ∧ s.parkDue tok1 = false ∧ s.frameAt 0 key1 = some frame1 ∧ tok1.committed = true ∧
       (s.loadDesc 0 1 2).2 = .error { cause := .codeblockDesc } ∧ s.descAt 0 1 2 = none) := by decide +kernel

/-- WaitingSteps: no parked token and one that finds its frame, an overflowed token, a waiting signal, a spilled frame of
an instance, a free runner with a ready entry, and an overflowed ready entry. -/
theorem test_witness_waiting :
    let p : Token := { tok1 with phase := .parked .sameKey }
    let s : State := { cell1 with tokens := [p] }
    let o : Token := { tok1 with phase := .overflowed .window }
    let w : Token := { tok1 with phase := .waiting, source := .completion }
    let sp : Frame := { frame1 with life := .spilled }
    let r : State := { cell1 with insts := [], ready := [ready1] }
    let ov : State := { cell1 with ready := [{ ready1 with overflow := true }] }
    (cell1.tokens.filter (fun t => t.inPark && t.dcell == 0 && t.key.ctx == 1 && t.key.cb == 2) = [] ∧
      s.tokens.filter (fun t => t.inPark && t.dcell == 0 && t.key.ctx == 1 && t.key.cb == 2) = [p] ∧ s.token 1 = some p) ∧
    (({ cell1 with tokens := [o] } : State).parkCount 0 < 256 ∧
      leastBy (fun t => cell1.tagOrder 0 t.key * 2 ^ 64 + t.arrival)
        ([o].filter (fun t => t.dcell == 0 && t.key.ctx == 1 && t.inOverflow)) = some o) ∧
    (({ cell1 with tokens := [w] } : State).token 1 = some w ∧ (keyed frame1.slots 0).map (·.count) = some 1) ∧
    (let s := { cell1 with frames := [sp] }
     s.frameAt 0 key1 = some sp ∧ s.running 0 key1 none = true ∧ s.hasRoom 0 1 desc1 = true) ∧
    (0 < runnerCount 0 ∧ r.instAt 0 0 = none ∧ r.hw.health ≠ .fatal ∧ r.chooseReady 0 = some ready1 ∧
      r.frameAt 0 key1 = some frame1 ∧ r.loadDesc 0 1 2 = (r, .ok desc1) ∧ ∀ x ∈ r.candidates 0, x.urgent = false) ∧
    (let k : Ready := { ready1 with site := ringmaster, key := ⟨0, 2, 7⟩ }
     let g : State := { cell1 with
       insts := [], ready := [k], frames := [{ frame1 with site := ringmaster, key := ⟨0, 2, 7⟩ }] }
     g.chooseReady ringmaster = some k ∧ 0 < runnerCount ringmaster ∧ g.io.nofw = true) ∧
    ((ov.ready.filter (fun r => r.site == 0 && !r.overflow)).length < 1024 ∧
      leastBy (·.stamp) (ov.ready.filter (fun r => r.site == 0 && r.overflow)) = some { ready1 with overflow := true }) := by
  decide +kernel

/-- FaultAndSignalSteps: a fault token that creates its frame, and one whose frame exists; actions on a suspended entry, on
an operation, and on an item that is gone; a completion signal; a token that has left the package. -/
theorem test_witness_faults :
    let t : Token := { tok1 with key := ⟨1, 2, 0⟩, slot := 0, kind := 4, source := .fault 7 none, payload := .words [1, 2] }
    let s : State := { cell1 with tokens := [t] }
    let it : Item := { (default : Item) with
      id := 7, ctx := 1, lid := 3, key := key1, fref := frameRef 0 key1 false, body := .suspended 1 3 }
    let a : Action := { (default : Action) with id := 9, ctx := 1, fref := frameRef 0 key1 false }
    let part : Part := { (default : Part) with len := 8, st := .held 0x43 0 }
    let o : Op := { (default : Op) with id := 5, key := key1, lid := 3, slot := 2, kind := .load .n64 false 255, parts := [part] }
    let it5 : Item := { it with kind := 1, body := .op 5 }
    let a5 : Action := { a with kind := 1, act := .rply, seq := 1 }
    let ready : Op := { o with parts := [{ part with st := .done 6 false }] }
    let v : Token := { tok1 with phase := .vlp, remote := some (2, 0) }
    (s.token 1 = some t ∧ s.refusesDirect t = false ∧ (0, 1, 3) ∉ s.killed ∧ s.residentAt 0 1 = true ∧ s.haltedAt 0 1 = false ∧
      s.frameAt 0 t.key = none ∧ s.loadDesc 0 1 2 = (s, .ok desc1) ∧ keyed desc1.threads 0 = some ⟨0, 2⟩ ∧
      s.hasRoom 0 1 desc1 = true) ∧
    (({ s with frames := [{ frame1 with key := t.key }] } : State).frameAt 0 t.key = some { frame1 with key := t.key } ∧
      [it].find? (fun x => x.id == 7) = some it) ∧
    (let s := { cell1 with actions := [a], items := [it] }
     s.actions.find? (fun x => x.id == 9) = some a ∧ s.actionBefore a = false ∧ s.commitDone 0 = true ∧ s.itemOf a = some it ∧
      ({ s with items := [] } : State).itemOf a = none) ∧
    (let s := { cell1 with actions := [a5], items := [it5], ops := [o] }
     s.itemOf a5 = some it5 ∧ s.op 5 = some o ∧ o.kind.access = true ∧ s.actionBefore a5 = false ∧ s.commitDone 1 = true ∧
      ({ a5 with act := .kill } : Action).act ≠ .rply) ∧
    (let s := { cell1 with ops := [ready] }
     s.op 5 = some ready ∧ ready.complete = true ∧ ready.dropped = false ∧ 255 < frame1.desc.words) ∧
    (∀ k ∈ [OpKind.vload 5 .b4 0x8000000000000001 true, .atomic .fadd false .rlx .pkg 255 0x3F800000 0,
        .atomic .minS true .rlx .pkg 0 1 0, .store .b8],
      let o := { ready with kind := k }
      ({ cell1 with ops := [o] } : State).op 5 = some o ∧ o.complete = true) ∧
    (let away : State :=
       { s with ctl := { s.ctl with residents := [] }, sys := { s.sys with ctxtab := 0x20000 }, mem := mem1.write 0x20080 8 1 }
     away.residentAt 0 1 = false ∧ away.ctxValid 1 = true ∧ s.ctxValid 1 = false ∧ away.refusesDirect t = false ∧
       away.parkDue t = false) ∧
    (let sys : Token := { t with key := ⟨0, 2, 0⟩ }
     ({ cell1 with tokens := [sys] } : State).ctxValid 0 = false ∧ ({ cell1 with tokens := [sys] } : State).token 1 = some sys) ∧
    (let held : Token := { tok1 with phase := .held }
     let itT : Item := { it with kind := 2, hidx := 9, body := .token 1 }
     let aT : Action := { a with kind := 2, hidx := 9 }
     let s : State := { cell1 with tokens := [held], items := [itT], actions := [aT] }
     s.itemOf aT = some itT ∧ s.token 1 = some held ∧ held.unplaced = false ∧ s.actionBefore aT = false ∧ held.counted = true ∧
       s.cellList 0 1 3 = [0] ∧ s.resolve 0 [0] desc1 1 2 7 = .ok 0) ∧
    (let s := { cell1 with tokens := [v] }
     s.token 1 = some v ∧ s.released v = true ∧ v.counted = true ∧ ({ v with source := .completion } : Token).counted = false) := by
  intros
  repeat' apply And.intro
  all_goals decide +kernel

def part1 : Part := { (default : Part) with len := 8, va := 0x11000, st := .translated 0x11000 }
def load1 : Op := { (default : Op) with id := 5, key := key1, lid := 3, slot := 2, seq := 1, prog := 1, kind := .load .n64 false 255, parts := [part1] }
def opCell (l : List Op) : State := { cell1 with ops := l }

/-- AccessesPerformed: a load, a load with a line, a store, an atomic, of package memory, of the mailbox region and of a
window; whole parts and parts that may tear; a load that a request which reached its slice earlier keeps waiting, and an
element behind an earlier one on its bytes. -/
theorem test_witness_performed :
    let s := opCell [load1]
    let early : Op := { load1 with id := 4, seq := 0 }
    let late : Part := { part1 with fwd := 2 }
    let behind : Op := { load1 with parts := [late] }
    let first : Part := { part1 with st := .issued }
    let second : Part := { part1 with elem := 1, va := 0x11004, st := .issued }
    let two : Op := { load1 with kind := .vstore .b8, parts := [first, second] }
    let torn : Part := { part1 with va := 0x11004, seen := 1, st := .translated 0x11004 }
    let poisoned : State := { s with mem := { mem1 with poison := [0x11000] } }
    (s.op 5 = some load1 ∧ load1.parts[0]? = some part1 ∧ (∀ x ∈ load1.parts, x.isHeld = false) ∧ s.mem.wf ∧ s.host.wf) ∧
    s.mayPerform load1 part1 0x11000 = true ∧ (opCell [early, behind]).mayPerform behind late 0x11000 = false ∧
    ((opCell [two]).maySend two first = true ∧ (opCell [two]).maySend two second = false) ∧
    (load1.whole part1 = true ∧ load1.whole torn = false ∧ (1 < torn.len ∧ torn.seen.testBit 1 = false) ∧
      0x11004 + torn.len ≤ rmBoxBase) ∧
    load1.kind.isLoad = true ∧ 0x11000 < 2 ^ 48 ∧ 0 < s.lineRoom 0 1 ∧ OpKind.isStore (.store .b8) = true ∧
    inBox 0x11000 = false ∧ inBox rmBoxBase = true ∧ rmBoxBase < 2 ^ 48 ∧
    OpKind.isAtomic (.atomic .cas true .rlx .pkg 0 1 2) = true ∧ (s.physRead 0x11000 8).2 = false ∧
    (poisoned.physRead 0x11000 8).2 = true := by
  intros
  repeat' apply And.intro
  all_goals decide +kernel

/-- TranslationAndFills: parts that wait, that are not aligned, that the TLB covers, that a walk finds, with and without
permission; a prefetch, a fetch of a word, and an invalidation. -/
theorem test_witness_translation :
    let p : Part := { part1 with st := .issued }
    let o : Op := { load1 with parts := [p] }
    let s := opCell [o]
    let early : Op := { o with id := 4, prog := 0 }
    let at_ : Op := { o with kind := .atomic .add true .rlx .pkg 0 1 0, parts := [{ p with va := 0x11004 }] }
    let leaf : W64 := 0x21F
    let hit : State := { s with tlb := [⟨0, 1, 2, 0, leaf⟩] }
    let far : Op := { o with parts := [{ p with va := 0x100000000 }] }
    let noIc : State := { cell1 with icache := [] }
    let lost : Inst := { inst1 with pc := 0x100000000 }
    let inv : Op := { o with kind := .sys (.tlbi 1 0x11000) false }
    (s.op 5 = some o ∧ p.st = .issued ∧ o.kind.access = true ∧ o.site ≠ ringmaster ∧ s.maySend o p = true ∧
      o.misaligned p = false ∧ s.tlbEntry 0 1 0x11000 = none ∧ s.walk 1 0x11000 = .ok (leaf, 2) ∧
      s.checkLeaf .load leaf 2 0x11000 = .ok 0x11000) ∧
    (let w : State := { s with sys := { s.sys with wins := [(1, 1)] } }
     OpKind.isAtomic at_.kind = true ∧ w.checkLeaf .atomic (0x41F + 2 ^ 48) 0 0x11000 = .ok (2 ^ 48)) ∧
    (opCell [early, o]).maySend o p = false ∧
    ((opCell [at_]).maySend at_ { p with va := 0x11004 } = true ∧ at_.misaligned { p with va := 0x11004 } = true) ∧
    (hit.tlbEntry 0 1 0x11000 = some ⟨0, 1, 2, 0, leaf⟩ ∧ hit.checkLeaf .load 0x203 2 0x11000 = .error ⟨.permission, 2⟩) ∧
    ((opCell [far]).walk 1 0x100000000 = .error ⟨.notMapped, 2⟩) ∧
    (s.locate 0 1 .load 0x11000 1 = .ok 0x11000 ∧ s.locate 0 1 .load 0x100000000 1 = .error ⟨.notMapped, 2⟩) ∧
    (0 < s.lineRoom 0 1 ∧ (2 : Nat) ^ 48 ≤ 2 ^ 48) ∧
    (noIc.missingWord inst1 = some 0x1000 ∧ noIc.locate 0 1 .fetch 0x1000 4 = .ok 0x1000 ∧
      noIc.missingWord lost = some 0x100000000 ∧ noIc.locate 0 1 .fetch 0x100000000 4 = .error ⟨.notMapped, 2⟩) ∧
    (inv.kind = .sys (.tlbi 1 0x11000) false ∧ SysReq.invalidates (.tlbi 1 0x11000) = true ∧
      SysReq.invalidates (.tlbia none) = true) := by decide +kernel

/-- A graph image of one `dly` node at 0x14000 (R304, R305): LAT 4, NVOP 1, SIZE 2 units, version 1; the node delays
operand 0 by 2 clocks. -/
def imageCell : State :=
  { graphCell with
    mem := ((graphCell.mem.write 0x14000 8 0x1000000884).write 0x14008 8 1).write 0x14040 8 0x100080300 }
def imageBytes : List Byte := imageCell.mem.bytes 0x14000 128

theorem test_image_sound : imageDefects imageBytes (readGraph imageBytes) = [] ∧ (readGraph imageBytes).lat = 4 ∧
    (readGraph imageBytes).nodes.map (·.delay) = [2] := by decide +kernel

/-- What the image's node gives of lane 1 of its operand: the same (R220, R223). -/
theorem test_image_call : ((readGraph imageBytes).call 0x700000000 0 0 0).map (·.1) = 0 :: 7 :: List.replicate 62 0 := by
  decide +kernel

def mu1 : Mu := { (default : Mu) with acc := 1 }
def muOp (m : Mu) : Op := { (default : Op) with id := 5, key := key1, lid := 3, slot := 2, kind := .mu m }
def job1 : CarJob := { (default : CarJob) with who := .runner 0, gslot := 0, entered := some 1 }

/-- MatrixAndCarouselSteps, the matrix unit: each command; a sparse operand A or B whose mask has no bit set; poison; an
`mrdx` that sends a row, waits, meets poison in its auxiliary row, and has all its rows. -/
theorem test_witness_matrix_steps :
    let s := opCell [muOp mu1]
    let p := { mu1 with cmd := .mma, a1 := 0x170000000000022, b1 := 0x170000000000002 }
    let q := { mu1 with cmd := .mma, b1 := 0x170000000000022, a1 := 0x170000000000002 }
    let x := { mu1 with cmd := .rdx, aux := true, a1 := 1, b1 := 1 }
    let key := scratchKey 0 1 0
    let bad : State := { s with scratch := { poison := [key] } }
    (s.muHead 0 = some (muOp mu1, mu1) ∧ s.op 5 = some (muOp mu1) ∧ mu1.performed = false ∧ s.drained 1 = false ∧ mu1.cmd = .zero) ∧
    (s.poisonedByte key (tileRuns (0, 0) 64) = none ∧ s.badMask key (0, 0) (0, 0) = none ∧
      s.poisonedByte key (operandRuns (0, 0) ++ operandRuns (0, 0)) = none ∧ s.scratch.wf) ∧
    (s.badMask key (p.a0, p.a1) (p.b0, p.b1) = some (0, 0, 0, 0) ∧ s.badMask key (q.a0, q.a1) (q.b0, q.b1) = some (1, 0, 0, 0)) ∧
    (bad.badMask key (0, 0) (0, 0) = none ∧ bad.poisonedByte key (operandRuns (0, 0) ++ operandRuns (0, 0)) = some 0) ∧
    (let m := { mu1 with performed := true }
     (opCell [muOp m]).muHead 0 = some (muOp m, m) ∧ m.performed = true ∧ (muOp m).dropped = false) ∧
    (let u := opCell [muOp x]
     let runs := (rowOf (x.b0, x.b1) 0 256).map (fun y => (y.1, y.2.2))
     let aux (v : State) : Option Nat :=
       let m1 := x.look v.scratch key runs
       ((v.seenBy m1).putRows (muOp x) m1 key 0).1.poisonedByte key runs
     u.muHead 0 = some (muOp x, x) ∧ x.out.length < 64 ∧ u.carJobs.any (fun j => j.who == .mu 5 && !j.delivered) = false ∧
       u.stuckSlot 0 x.gslot = false ∧ aux u = none ∧ aux { u with scratch := { poison := [key] } } = some 0 ∧
       ({ u with carJobs := [{ (default : CarJob) with who := .mu 5 }] } : State).carJobs.any
         (fun j => j.who == .mu 5 && !j.delivered) = true) ∧
    (64 ≤ ({ x with out := List.replicate 64 7 } : Mu).out.length ∧ tdDown (x.a0, x.a1) = false ∧ fmtIsMx (tdFmt (x.a0, x.a1)) = false ∧
      0 < (rowOf (x.a0, x.a1) 0 (rowBytes 64 32)).length) := by decide +kernel

/-- MatrixAndCarouselSteps, the Carousel: a request that enters, none, a result that is due, and the steps of `xld`,
GRAPH_LOAD_COMPLETE, CONFIG_ERROR_RELOAD and `xunl`. -/
theorem test_witness_carousel_steps :
    let w : State := { imageCell with carJobs := [{ job1 with entered := none }] }
    let waits : Inst := { inst1 with phase := .waitXop 4 1 false }
    let r : State := { imageCell with carJobs := [job1], insts := [waits], carClock := [(0, 7)] }
    let xld : Op := { (default : Op) with id := 5, key := key1, kind := .xld 5 .fresh }
    let x : State := { imageCell with ops := [xld] }
    let none_ : State := { imageCell with gslots := [] }
    let load : State := { imageCell with gslots := [{ slot1 with st := .loading }] }
    let empty : State := { load with mem := mem1 }
    let broken : GSlot := { slot1 with broken := true }
    (w.admitted 0 (w.carNow 0) = some { job1 with entered := none } ∧ imageCell.admitted 0 0 = none) ∧
    (r.gslot 0 0 = some slot1 ∧ 1 + slot1.graph.lat ≤ r.carNow 0 ∧ r.instAt 0 0 = some waits ∧ waits.phase = .waitXop 4 1 false ∧
      job1.delivered = false) ∧
    (x.op 5 = some xld ∧ xld.heldOp = none ∧ xld.dropped = false ∧ x.drained 1 = false ∧ x.graphEntry 1 6 = (false, 0) ∧
      x.graphEntry 1 5 = (true, 0x14000) ∧ (0x14000 : VAddr).toNat % 64 = 0 ∧ x.slotOf 0 5 = some slot1 ∧
      ({ x with ctl := { x.ctl with residents := [{ res1 with xops := List.replicate 10 0 ++ [0x100, 0x14001] }] } } : State).graphEntry 1 5
        = (true, 0x14001)) ∧
    (none_.slotOf 0 5 = none ∧ (upFrom 0 8).find? (fun k => (none_.gslot 0 k).isNone) = some 0) ∧
    (load.gslot 0 0 = some { slot1 with st := .loading } ∧ load.fetchImage 0 (load.userAt 0) 0x14000 = .ok imageBytes ∧
      load.drained (load.userAt 0) = false) ∧
    ((match empty.fetchImage 0 1 0x14000 with
      | .ok bs => (imageDefects bs (readGraph bs)).isEmpty
      | .error _ => true) = false) ∧
    (slot1.st = .resident ∧ slot1.stuck = false ∧ ({ slot1 with stuck := true } : GSlot).stuck = true ∧ slot1.broken = false ∧ broken.broken = true ∧
      imageCell.ops = []) ∧
    (none_.slotOf 0 5 = none ∧ slot1.pins = 0 ∧ imageCell.slotBusyCar 0 0 = false ∧ ({ slot1 with pins := 1 } : GSlot).pins ≠ 0) := by
  decide +kernel

def words_ (l : List (Nat × Nat)) : List W64 := (upFrom 0 16).map (fun k => BitVec.ofNat 64 ((keyed l k).getD 0))
def engine1 (cmd : EngineCmd) (l : List (Nat × Nat)) : Engine := { (default : Engine) with cmd := cmd, dw := words_ l, started := true }
def engineOp (e : Engine) : Op := { (default : Op) with id := 5, key := key1, kind := .engine e }
/-- Memory in which byte 0x11000 holds 5, byte 0x11004 is poisoned, and all other bytes of the data hold 0. -/
def dataCell : State := { cell1 with mem := { mem1.write 0x11000 1 5 with poison := [0x11008] } }

/-- EngineSteps, the turns: what each command has read or not, equal and unequal keys, keys out of order, full fields, an
exhausted stream, records with and without a rest, zeros and nonzero elements, and the end of each loop. -/
theorem test_witness_engine_turns :
    let st (n : Nat) : List (Nat × Nat × Bool) := [(0, n, false)]
    let bad : List (Nat × Nat × Bool) := [(0, 0, true)]
    let c := engine1 .cpy []
    let g (cmd : EngineCmd) := engine1 cmd [(1, 1)]
    let i := { engine1 .isect [(0, 3), (1, 0x100000001), (15, 1)] with winA := st 4, winB := st 4 }
    let m := { engine1 .smerge [(0, 4), (1, 0x100000001)] with winA := st 4, winB := st 4 }
    let r := engine1 .smerge [(0, 0x404), (1, 0x100000001)]
    let z := engine1 .cmpct [(0, 5)]
    let open_ (e : Engine) : Prop := e.started = true ∧ e.finished = false ∧ e.part = none ∧ e.closed = false ∧ e.buf.length ≤ 62
    (open_ c ∧ c.allPerformed = false ∧ c.staged false 0 = none ∧ ({ c with winA := bad } : Engine).staged false 0 = some (0, true)) ∧
    (∀ cmd ∈ [EngineCmd.gth, .sct], open_ (g cmd) ∧ (g cmd).allPerformed = false ∧ (g cmd).staged true 0 = none ∧
      ({ g cmd with winB := bad } : Engine).staged true 0 = some (0, true) ∧
      ({ g cmd with winB := st 3 } : Engine).staged true 0 = some (3, false) ∧
      ({ g cmd with winB := st 3, winA := st 4 } : Engine).staged false 0 = some (4, false) ∧
      ({ g cmd with i := 1 } : Engine).allPerformed = true) ∧
    (open_ i ∧ i.allPerformed = false ∧ i.staged false 0 = some (4, false) ∧ i.staged true 0 = some (4, false) ∧ i.m ≠ i.cap ∧
      ({ i with m := 1 } : Engine).m = i.cap ∧ i.prevA = none ∧ i.prevB = none ∧
      ({ i with winB := st 5 } : Engine).staged true 0 = some (5, false) ∧ ({ i with winB := st 3 } : Engine).staged true 0 = some (3, false) ∧
      ({ i with winB := [] } : Engine).staged true 0 = none ∧ ({ i with prevA := some 4 } : Engine).prevA = some 4 ∧
      ({ i with i := 1 } : Engine).allPerformed = true) ∧
    (open_ m ∧ m.allPerformed = false ∧ m.i < m.countA ∧ m.j < m.countB ∧ m.recordSize = m.size ∧
      (let a := { m with j := 1 }
       a.j = a.countB ∧ a.allPerformed = false ∧ a.staged false 0 = some (4, false)) ∧
      (let b := { m with i := 1 }
       b.i = b.countA ∧ b.j < b.countB ∧ b.allPerformed = false ∧ b.staged true 0 = some (4, false)) ∧
      ({ m with winB := st 3 } : Engine).staged true 0 = some (3, false) ∧ ({ m with i := 1, j := 1 } : Engine).allPerformed = true ∧
      r.recordSize ≠ r.size ∧ r.rest = none ∧ r.staged false 0 = none) ∧
    (open_ z ∧ z.rowPut = false ∧ z.allPerformed = false ∧ z.m < 256 ^ z.offsetSize ∧
      256 ^ z.offsetSize ≤ ({ z with m := 65536 } : Engine).m ∧ z.staged false 0 = none ∧
      ({ z with winA := st 0 } : Engine).staged false 0 = some (0, false) ∧ z.j < 256 ^ z.columnSize ∧
      256 ^ z.columnSize ≤ ({ z with j := 256 } : Engine).j ∧ ({ z with i := 1 } : Engine).allPerformed = true) := by
  intros
  repeat' apply And.intro
  all_goals decide +kernel

/-- EngineSteps, the accesses: a read of scratch and one outside it, of memory, of poison, one that waits and one that does not
translate; the same of a write; an entry ahead of the cursor, a full window, and the start and end of a command. -/
theorem test_witness_engine_accesses :
    let c := engine1 .cpy [(2, 0x11000), (4, 0x11008)]
    let u := engine1 .cpy [(3, 0x100), (5, 0x100)]
    let far := engine1 .cpy [(2, 0x40000), (3, 0x100), (4, 0x40000), (5, 0x100)]
    let lost := engine1 .cpy [(2, 0x100000000), (4, 0x100000000)]
    let ahead := engine1 .gth [(1, 2)]
    let out (k : Nat) : EngineOut := ⟨k, 0, 1, 7, false, 0, 0, 0, 0, []⟩
    let o := engineOp c
    let s := { dataCell with ops := [o] }
    let behind : Op := { load1 with id := 6, seq := 1, parts := [{ part1 with fwd := 0 }] }
    let waits : State := { s with ops := [o, behind], tick := 1 }
    (s.op 5 = some o ∧ o.heldOp = none ∧ s.drained 1 = false ∧ ({ c with started := false } : Engine).started = false) ∧
    (c.source (some false) 0 = some (0, 0, 1) ∧ c.inScratch 0 = false ∧ (c.place 0 0).toNat = 0x11000 ∧
      s.locate 0 1 .engineRead 0x11000 1 = .ok 0x11000 ∧ s.engineMay o 0x11000 1 = true ∧ waits.engineMay o 0x11000 1 = false ∧
      (s.physRead 0x11000 1).1 = 5 ∧ (s.physRead 0x11008 1).2 = true) ∧
    (u.inScratch 0 = true ∧ u.place 0 0 = 0 ∧ 0 + 1 ≤ s.scratchBound 1 ∧ u.race.seen = [] ∧ s.racesOf 0 1 true = [] ∧
      (s.readInput (engineOp u) u (some false) 0).isOk = true ∧ s.scratch.wf) ∧
    (far.inScratch 0 = true ∧ s.scratchBound 1 < (far.place 0 0).toNat + 1) ∧
    (s.locate 0 1 .engineRead 0x100000000 1 = .error ⟨.notMapped, 2⟩ ∧
      s.locate 0 1 .engineWrite 0x100000000 1 = .error ⟨.notMapped, 2⟩ ∧ (lost.place 1 0).toNat = 0x100000000) ∧
    (ahead.unread true = 0 ∧ 0 < ahead.total true ∧ (ahead.win true).length < 64 ∧
      64 ≤ ({ ahead with winB := List.replicate 64 (0, 0, false) } : Engine).winB.length) ∧
    ((out 1).put = 0 ∧ s.locate 0 1 .engineWrite 0x11008 1 = .ok 0x11008 ∧ u.inScratch 1 = true ∧ far.place 1 0 = 0x40000 ∧
      (s.writeOldest o { c with buf := [out 1] }).isOk = true) ∧
    (({ c with closed := true } : Engine).buf = [] ∧ s.mem.wf) := by
  intros
  repeat' apply And.intro
  all_goals decide +kernel

def launch1 : Launch := { (default : Launch) with ctx := 1, lid := 3, cb := 2, slot := 2, cells := [0], ntag := 1 }

/-- LaunchAndTimerSteps: a tag to inject; a wave that comes too soon, the first one, one that ends the launch and one that finds
it quiet for WDOG; a killed launch; a window request and its installation; a due timer; the time word, of memory, of a window
and out of reach; a waiting context with the partition free, with the quantum over, before it, and with the other done. -/
theorem test_witness_launch_timer :
    let l (x : Launch) : State :=
      { cell1 with ctl := { cell1.ctl with launches := [x] }, sys := { cell1.sys with rtime := 2048 } }
    let done_ : Launch := { launch1 with injected := [(0, 2)], lastWave := 1024 }
    let bare (x : Launch) : State := { l x with frames := [], insts := [], counts := [⟨0, 1, 3, 2, 2⟩] }
    let i : Inst := { inst1 with phase := .offering, effects := [.tagwin 2 5 1] }
    let req : TagwinReq := ⟨0, 1, 0, 0, [(2, 5, 1)], [0], []⟩
    let ringRef : W64 := 0x0000000500000000
    let tm : Timer := ⟨100, ringRef, 1, 0, 0⟩
    let ring : State := { cell1 with sys := { cell1.sys with rtime := 200, timers := [(0, tm)], bootEntries := [(5, 0x100)] } }
    let time (a : W64) : State := { cell1 with sys := { cell1.sys with rtime := 1024, timeaddr := a, wins := [(1, 1)] } }
    let ctx (r : Nat) (res : List Resident) : State := { cell1 with
      mem := mem1.write 0x20100 8 1
      ctl := { cell1.ctl with waiting := [2], residents := res, launches := [launch1] }, sys := { cell1.sys with ctxtab := 0x20000, rtime := r } }
    ((l launch1).launch 1 3 = some launch1 ∧ launch1.nextOffset 0 = some 0 ∧ (l launch1).injector launch1 0 = 0 ∧
      (l launch1).loadDesc 0 1 2 = (l launch1, .ok desc1) ∧ (l launch1).resolve 0 [0] desc1 1 2 0 = .ok 0) ∧
    (done_.sent = done_.tags ∧ (bare done_).wave 1 3 = (0, 2, 2) ∧ done_.prev ≠ some 2 ∧ done_.watch = false ∧
      done_.lastWave + 1024 ≤ (bare done_).sys.rtime ∧ (bare done_).sys.rtime < ({ done_ with lastWave := 1025 } : Launch).lastWave + 1024 ∧
      ({ done_ with prev := some 2 } : Launch).prev = some 2 ∧ done_.orphan = false ∧
      ({ done_ with watch := true } : Launch).watch = true) ∧
    (cell1.firmwareHalted = false ∧ ({ cell1 with hw := { cell1.hw with health := .fatal } } : State).firmwareHalted = true) ∧
    (cell1.residentAt 0 1 = true ∧ (0, 1, 3) ∉ cell1.killed ∧ launch1.ctx ≠ 0) ∧
    (let s := { cell1 with insts := [i] }
     s.instAt 0 0 = some i ∧ i.windowSets.isEmpty = false ∧ s.canCommit i = true) ∧
    (let s := { cell1 with ctl := { cell1.ctl with tagwins := [req] } }
     leastBy (·.no) (s.ctl.tagwins.filter (fun r => r.ctx == 1 && r.cells.contains 0 && !r.installed.contains 0)) = some req ∧
      (req.sets.map (·.1)).Nodup ∧ s.tokens = []) ∧
    (keyed ring.sys.timers 0 = some tm ∧ tm.due 200 = true ∧ ring.timerTarget ringRef = some (ringmaster, none)) ∧
    (let s := time 0x11001
     wbit s.sys.timeaddr 0 = true ∧ wfield s.sys.timeaddr 3 49 * 8 = 0x11000 ∧ s.sys.lastTimeWord < (s.sys.rtime + 9) / 1024 * 1024 ∧
      s.ringReaches 0x11000 8 = true ∧ inBox 0x11000 = false ∧ s.mem.wf) ∧
    ((time 0x11001).ringReaches (2 ^ 48) 8 = true ∧ wfield (time 0x1000000000001).sys.timeaddr 3 49 * 8 = 2 ^ 48 ∧
      wbit (time 0x1000000000001).sys.timeaddr 0 = true ∧ (time 0x2000000000001).ringReaches (2 ^ 49) 8 = false ∧
      wfield (time 0x2000000000001).sys.timeaddr 3 49 * 8 = 2 ^ 49) ∧
    (let free := ctx 0 []
     let due := ctx 10000000 [res1]
     let early := ctx 9999999 [res1]
     let done_ := { early with ctl := { early.ctl with launches := [] } }
     free.ctl.switches = [] ∧ free.firstWaiting 0 = some 2 ∧ free.residentIn 0 = none ∧ due.firstWaiting 0 = some 2 ∧
      due.residentIn 0 = some res1 ∧ res1.phase = .up ∧ due.resident 1 = some res1 ∧ due.priority 1 = due.priority 2 ∧
      res1.since + 1000 * due.ctl.quantum ≤ due.sys.rtime ∧ early.sys.rtime < res1.since + 1000 * early.ctl.quantum ∧
      early.hasLaunch 1 = true ∧ done_.hasLaunch 1 = false ∧ done_.firstWaiting 0 = some 2) := by
  intros
  repeat' apply And.intro
  all_goals decide +kernel

/-! ### A manifest that is accepted

Its signatures and its hash are those that the device itself would make, so it is one that R406 accepts whatever they are. -/

theorem upFrom_length (a n : Nat) : (upFrom a n).length = n := by
  induction n generalizing a with
  | zero => rfl
  | succ n ih => simp [upFrom, ih]

theorem upFrom_get {a n k : Nat} (h : k < n) : (upFrom a n)[k]? = some (a + k) := by
  induction n generalizing a k with
  | zero => omega
  | succ n ih =>
    cases k with
    | zero => rfl
    | succ k => simp only [upFrom, List.getElem?_cons_succ]; rw [ih (by omega)]; congr 1; omega

theorem numBytes_length (n v : Nat) : (numBytes n v).length = n := by simp [numBytes, upFrom_length]

theorem numBytes_get {n v k : Nat} (h : k < n) : (numBytes n v)[k]? = some (BitVec.ofNat 8 (v / 256 ^ k)) := by
  simp [numBytes, List.getElem?_map, upFrom_get h]

/-- The bytes of a list within a longer one that stands at 0. -/
theorem byte_within (l mid r : List Byte) {k : Nat} {b : Byte} (h : mid[k]? = some b) :
    (({} : Memory).putBytes 0 (l ++ mid ++ r)).byte (l.length + k) = b := by
  have := Memory.byte_putBytes_at (m := {}) (a := 0) (k := l.length + k) (b := b) (l ++ mid ++ r) (by
    rw [List.append_assoc, List.getElem?_append_right (by omega), Nat.add_sub_cancel_left, List.getElem?_append_left (by
      rw [List.getElem?_eq_some_iff] at h; exact h.1), h]) Memory.wf_empty
  simpa using this

theorem bytes_within (l mid r : List Byte) {a n : Nat} (ha : l.length = a) (hn : mid.length = n) :
    (({} : Memory).putBytes 0 (l ++ mid ++ r)).bytes a n = mid := by
  apply List.ext_getElem?
  intro k
  by_cases h : k < n
  · have hm : mid[k]? = some (mid[k]'(by omega)) := List.getElem?_eq_getElem (by omega)
    rw [Memory.bytes, List.getElem?_map, upFrom_get h, hm]
    simp only [Option.map_some, ← ha]
    exact congrArg some (byte_within l mid r hm)
  · rw [List.getElem?_eq_none (by simp [Memory.bytes, upFrom_length]; omega), List.getElem?_eq_none (by omega)]

theorem read_within (l r : List Byte) {a n v : Nat} (ha : l.length = a) :
    (({} : Memory).putBytes 0 (l ++ numBytes n v ++ r)).read a n = v % 256 ^ n :=
  Memory.read_of_bytes a n v (fun _ hj => ha ▸ byte_within l _ r (numBytes_get hj))

def headOf (rev : Nat) : Nat := 0x4E4D5A46 + rev * 2 ^ 32 + 2 ^ 48
def headPad : List Byte := numBytes 16 0 ++ numBytes 2 0 ++ numBytes 22 0
def headHash : List Byte := numBytes 48 (Config.sha384 []).toNat
def head_ : List Byte := numBytes 8 (headOf Config.revision.toNat) ++ headPad ++ numBytes 16 Config.deviceSerial.toNat ++ headHash ++ numBytes 16 0
def signatures : List Byte := numBytes 64 (Config.ed25519Sign head_).toNat ++ numBytes 3309 (Config.mldsa65Sign head_).toNat
def sealHost : Memory := ({} : Memory).putBytes 0 (head_ ++ signatures)

theorem head_length : head_.length = 128 := by
  simp only [head_, headPad, headHash, List.length_append, numBytes_length]

theorem sealHost_split {l : List Byte} (h : head_ ++ signatures = l) : sealHost = ({} : Memory).putBytes 0 l := by
  rw [sealHost, h]

theorem head_of : ∀ r, r < 2 ^ 8 → wfield (BitVec.ofNat 64 (headOf r)) 0 32 = 0x4E4D5A46 ∧
    wbit (BitVec.ofNat 64 (headOf r)) 48 = true ∧ wfield (BitVec.ofNat 64 (headOf r)) 32 16 = r ∧ headOf r % 256 ^ 8 = headOf r := by
  decide +kernel

theorem test_manifest_accepted (s : State) (buffer : Nat) (h : s.host = sealHost) : s.manifestAccepted 0 buffer = true := by
  obtain ⟨f0, f1, f2, f3⟩ := head_of _ Config.revision.isLt
  have w0 : sealHost.read 0 8 = (headOf Config.revision.toNat) := by
    rw [sealHost_split (l := [] ++ numBytes 8 (headOf Config.revision.toNat) ++ (headPad ++ numBytes 16 Config.deviceSerial.toNat
      ++ headHash ++ numBytes 16 0 ++ signatures)) (by simp only [head_, List.append_assoc, List.nil_append]),
      read_within (a := 0) [] _ rfl, f3]
  have cnt : sealHost.read 24 2 = 0 := by
    rw [sealHost_split (l := numBytes 8 (headOf Config.revision.toNat) ++ numBytes 16 0 ++ numBytes 2 0 ++ (numBytes 22 0
      ++ numBytes 16 Config.deviceSerial.toNat ++ headHash ++ numBytes 16 0 ++ signatures)) 
      (by simp only [head_, headPad, List.append_assoc]), read_within _ _ (by simp only [List.length_append, numBytes_length])]
    exact Nat.zero_mod _
  have ser : sealHost.read 48 16 = Config.deviceSerial.toNat := by
    rw [sealHost_split (l := numBytes 8 (headOf Config.revision.toNat) ++ headPad ++ numBytes 16 Config.deviceSerial.toNat ++ (headHash
      ++ numBytes 16 0 ++ signatures)) (by simp only [head_, List.append_assoc]),
      read_within _ _ (by simp only [headPad, List.length_append, numBytes_length])]
    exact Nat.mod_eq_of_lt Config.deviceSerial.isLt
  have hash : sealHost.bytes 64 48 = headHash := by
    rw [sealHost_split (l := numBytes 8 (headOf Config.revision.toNat) ++ headPad ++ numBytes 16 Config.deviceSerial.toNat ++ headHash
      ++ (numBytes 16 0 ++ signatures)) (by simp only [head_, List.append_assoc]),
      bytes_within _ headHash _ (by simp only [headPad, List.length_append, numBytes_length])
        (by simp only [headHash, numBytes_length])]
  have msg : sealHost.bytes 0 128 = head_ := by
    rw [sealHost_split (l := [] ++ head_ ++ signatures) (by rw [List.nil_append]), bytes_within (a := 0) [] _ _ rfl head_length]
  have sigE : sealHost.bytes 128 64 = numBytes 64 (Config.ed25519Sign head_).toNat := by
    rw [sealHost_split (l := head_ ++ numBytes 64 (Config.ed25519Sign head_).toNat ++ (numBytes 3309
      (Config.mldsa65Sign head_).toNat)) (by rw [signatures, List.append_assoc]),
      bytes_within _ _ _ head_length (numBytes_length _ _)]
  have sigM : sealHost.bytes 192 3309 = numBytes 3309 (Config.mldsa65Sign head_).toNat := by
    rw [sealHost_split (l := head_ ++ numBytes 64 (Config.ed25519Sign head_).toNat ++ numBytes 3309
      (Config.mldsa65Sign head_).toNat ++ []) (by rw [signatures, List.append_nil, List.append_assoc]),
      bytes_within _ _ _ (by rw [List.length_append, head_length, numBytes_length]) (numBytes_length _ _)]
  have rs : s.manifestRecords 0 = [] := by
    rw [State.manifestRecords, h, Nat.zero_add, cnt]
    rfl
  simp only [State.manifestAccepted, rs, h, w0, f0, f1, f2, List.length_nil, List.filter_nil, List.flatMap_nil, List.all_nil,
    Nat.mul_zero, Nat.add_zero, Nat.zero_add, ser, hash, msg, sigE, sigM, ownEd25519, ownMldsa65, headHash, Nat.reduceAdd,
    beq_self_eq_true, Bool.true_or, Bool.and_self]

def queue1 : Queue := { (default : Queue) with en := true, qlog := 4, cqlog := 4, limit := 1, qbase := 0x1000, cqbase := 0x2000 }
/-- A state with queue 0 of function 0 enabled and one packet posted; the firmware has started. -/
def hostCell : State :=
  { cell1 with
    host := ({} : Memory).write 0x1000 8 0x480000000
    io := { cell1.io with queues := [(0, queue1)], nofw := false } }

/-- HostInterfaceSteps: an enable that is sound, one that is not, a kick inside and beyond the ring, an access inside the
near pool and one outside, a doorbell while BUSY is 0 and while it is 1. -/
theorem test_witness_host :
    let u := default (α := Queue)
    let sound := { u with qbase := 0x1000, cqbase := 0x2000 }.write 0 (1 + 4 * 2 ^ 2)
    let v : W64 := 1 + 4 * 2 ^ 2
    (wbit v 0 = true ∧ wbit (0 : W64) 0 = false ∧ u.en = false ∧ (hostCell.queue 0 0).en = true) ∧
    (let w := ({ u with cqlog := 4, qbase := 0x1000, cqbase := 0x2000 } : Queue).write 0 v
     4 ≤ w.qlog ∧ w.qlog ≤ 15 ∧ 4 ≤ w.cqlog ∧ w.cqlog ≤ 15 ∧ w.qbase % 4096 = 0 ∧ w.cqbase % 4096 = 0) ∧
    ¬4 ≤ sound.cqlog ∧
    (2 ^ queue1.qlog < countUp 17 queue1.cidx ∧ countUp 16 queue1.cidx ≤ 2 ^ queue1.qlog) ∧
    (0x100 ≤ 0xFF8 ∧ 0xFF8 + 8 ≤ 0x1000 ∧ 0xFF8 % 8 = 0 ∧ cell1.mem.wf) ∧
    (cell1.io.mbBusy = false ∧ ({ cell1 with io := { cell1.io with mbBusy := true } } : State).io.mbBusy = true) ∧
    (cell1.inPools (2 ^ 32 - 8) 8 = true ∧ cell1.inPools (2 ^ 32 - 7) 8 = false) := by decide +kernel

/-- PacketSteps, PACKET_FETCH and PACKET_REREAD: a packet that is there, a phase bit that is not yet set, the 64th miss,
a poisoned word. -/
theorem test_witness_fetch :
    let q (x : Queue) : State := { hostCell with io := { hostCell.io with queues := [(0, x)] } }
    let old (x : State) : State := { x with host := {} }
    let again : State := { q { queue1 with misses := 64 } with sys := { cell1.sys with rtime := 1000 } }
    let words (s : State) := (upFrom 0 16).map (fun k => (s.ringWord (s.queue 0 0) (0x1000 + 8 * k)).1)
    let bad : State := { hostCell with host := { hostCell.host with poison := [0x1078] } }
    (hostCell.fetches 0 0 = true ∧ hostCell.ringReached queue1 0x1000 128 = true ∧
      (∀ k, k < 16 → (hostCell.ringWord queue1 (0x1000 + 8 * k)).2 = false) ∧
      ((words hostCell).getD 0 0).toNat % 2 ^ 32 = 0x80000000) ∧
    ((old hostCell).fetches 0 0 = true ∧ ((words (old hostCell)).getD 0 0).toNat % 2 ^ 32 ≠ 0x80000000) ∧
    (again.fetches 0 0 = true ∧ (again.queue 0 0).misses = 64 ∧ (again.queue 0 0).readAt + 1000 ≤ again.sys.rtime) ∧
    (bad.fetches 0 0 = true ∧ (bad.ringWord queue1 (0x1000 + 8 * 15)).2 = true) := by decide +kernel

def packet_ (phase : PktPhase) (ctx : Nat) (ws : List W64) : Packet :=
  { (default : Packet) with ctx := ctx, words := ws, phase := phase }
def packetCell (p : Packet) : State := { hostCell with io := { hostCell.io with packets := [p] } }

/-- The descriptor of context 1 with partition 0 of one cell, and a descriptor of codeblock 2 with threadlet 0. -/
def tableCell : State :=
  { hostCell with
    mem := [(0x300080, 1), (0x300088, 0x555), (0x300090, 0x2000), (0x300098, 0x10000), (0x3000A0, 0x40000), (0x3000A8, 0x41000),
      (0x3000B0, 0x50000), (0x3000B8, 1), (0x3000C0, 0x60000), (0x3000C8, 64), (0x3000D0, 0x70000), (0x3000D8, 0x1000),
      (0x11080, 0x400000000)].foldl (fun (m : Memory) (e : Nat × Nat) => m.write e.1 8 e.2) mem1
    sys := { cell1.sys with ctxtab := 0x300000, parts := [(0, 0x41001)] } }

/-- PacketSteps, PACKET_START and the launch packet: a packet that may start, one that is malformed, one behind a full
completion ring; a launch of codeblock 2 and one of a codeblock that is not there. -/
theorem test_witness_start :
    let p := packet_ .accepted 1 [0x180000000, 0, 2, 0, 0, 0, 0]
    let s : State := { tableCell with io := (packetCell p).io }
    let bad := packet_ .accepted 1 [0xF80000000]
    let full : State := { s with io := { s.io with queues := [(0, { queue1 with k := 16 })] } }
    let go : Packet := { p with phase := .started }
    let miss : Packet := { go with words := [0x180000000, 0, 4, 0, 0, 0, 0] }
    (s.io.packets.find? (fun x => x.phase == .accepted) = some p ∧ s.mayStart p [] = true ∧ s.wellFormedPacket p = true ∧ packetType p.words = 1) ∧
    ((packetCell bad).mayStart bad [] = true ∧ (packetCell bad).wellFormedPacket bad = false) ∧ full.mayStart p [] = false ∧
    (s.launchDefect go = none ∧ (s.resident 1).isSome = true ∧ s.launchDefect miss = some 2 ∧ s.seizes 1 = false) ∧
    (s.io.packets.find? (fun x => x.uid == 0) = some p ∧ (packetCell go).startedPacket 0 0 0 1 .started = some go) := by decide +kernel

/-- PacketSteps, the other packets: load-graph with an empty list and one that cannot be read; a copy and a fill of one
unit, and a fill of an address that is not mapped; a fence that passes, one that waits, and its next poll; a freeze and a
resume; a record to write. -/
theorem test_witness_packets :
    let graph := packet_ .started 1 [0x280000000, 0, 0x11000, 0, 0]
    let lost := packet_ .started 1 [0x280000000, 0, 0x100000000, 0, 1]
    let copy := packet_ .running 1 [0x380000000, 0, 0, 0x11000, 0, 0x12004, 0, 16]
    let fill := packet_ .running 1 [0x380000000, 0, 1, 0, 0, 0x12004, 0, 4, 7]
    let far := packet_ .running 1 [0x380000000, 0, 1, 0, 0, 0x100000000, 0, 8, 7]
    let fence := packet_ .started 1 [0x480000000, 0, 1, 0x11000, 0, 0]
    let wait := packet_ .running 1 [0x480000000, 0, 1, 0x11000, 0, 9]
    let t : State := { tableCell with ctl := { tableCell.ctl with residents := [] } }
    (packetType graph.words = 2 ∧ t.hasLaunch 1 = false ∧ t.ctl.switches = [] ∧ t.resident 1 = none ∧
      (t.installRecords graph).isSome = true ∧ (t.installRecords lost).isSome = false ∧ (tableCell.resident 1).isSome = true ∧
      (packetCell graph).openPacket 0 0 0 2 = some graph ∧
      (packetCell { graph with phase := .running, progress := 2 }).openPacket 0 0 0 2 = some { graph with phase := .running, progress := 2 }) ∧
    (packetType copy.words = 3 ∧ copy.w 2 = 0 ∧ tableCell.virtRead 1 (copy.addr 3) 4 = .ok (0, false) ∧
      tableCell.translate 1 .store 0x12004 = .ok 0x12004 ∧ inBox 0x12004 = false ∧ copy.progress + 4 ≠ (copy.w 7).toNat ∧
      (packetCell copy).packet 0 0 0 (fun x => packetType x.words == 3 && x.w 2 == 0 && x.underWay) = some copy ∧
      tableCell.virtRead 1 0x100000000 4 = .error ⟨.notMapped, 2⟩ ∧ tableCell.ctxValid 2 = false) ∧
    (fill.w 2 = 1 ∧ patternAt (fill.w 8) 0 4 = 7 ∧ fill.progress + 4 = (fill.w 7).toNat ∧
      tableCell.translate 1 .store 0x100000000 = .error ⟨.notMapped, 2⟩ ∧ far.addr 5 = 0x100000000) ∧
    (packetType fence.words = 4 ∧ tableCell.virtRead 1 (fence.addr 3) 8 = .ok (0, false) ∧ tableCell.ctxValid 1 = true ∧
      (fence.w 5).toNat ≤ 0 ∧ 0 < (wait.w 5).toNat ∧ tableCell.sys.rtime < wait.progress + 1000 ∧
      ({ fence with words := [0x480000000] } : Packet).w 2 = 0) ∧
    (let signal := packet_ .started 1 [0x480000000, 0, 2, 0, 0, 0, 0x12000, 0, 9]
     signal.w 2 = 2 ∧ tableCell.translate 1 .store (signal.addr 6 % 2 ^ 72) = .ok 0x12000 ∧ 0x12000 + 8 ≤ rmBoxBase) ∧
    (packetType (packet_ .started 0 [0x680000000]).words = 6 ∧ (hostCell.queue 0 0).loc = false ∧ hostCell.host.wf ∧
      (let done_ := packet_ .finished 0 []
       (packetCell done_).packet 0 0 0 (fun x => x.phase == .finished) = some done_ ∧ done_.status < 2 ^ 8 ∧ done_.lid < 2 ^ 6)) := by
  intros
  repeat' apply And.intro
  all_goals decide +kernel

/-- PacketSteps, FREEZE_PACKET: one that starts, one whose buffer is too small, its end, and one that completes, of a
partition that no context has; and RESUME_PACKET: a manifest that is accepted (`test_manifest_accepted`) and one that is not. -/
theorem test_witness_freeze :
    let fz := packet_ .started 0 [0x580000000, 0, 64, 0x100000, 0, 0x100000]
    let go : Packet := { fz with phase := .running, words := [0x580000000, 0, 5, 0x100000, 3501, 0x100000] }
    let small : Packet := { go with words := [0x580000000, 0, 5, 0x100000, 3500, 0x100000] }
    let t (p : Packet) : State := { tableCell with io := (packetCell p).io, ctl := { tableCell.ctl with residents := [] } }
    let res := packet_ .started 0 [0x680000000]
    packetType fz.words = 5 ∧ (t fz).freezeSet fz = [1] ∧ (t go).freezeSet go = [] ∧ (t go).ctl.residents = [] ∧
    (t go).ctl.shadows = [] ∧ (t go).hw.health ≠ .fatal ∧ (t fz).openPacket 0 0 0 5 = some fz ∧ fz.progress ≠ 2 ∧
    (t go).openPacket 0 0 0 5 = some go ∧
    (0 + 128 + 32 * (0 + 0) + 64 + 3309 ≤ (go.w 4).toNat ∧ (small.w 4).toNat < 3501 ∧ (go.w 3).toNat + 0 ≤ (go.w 5).toNat ∧
      ((t go).launchesOf []).length = 0) ∧
    (t go).mem.wf ∧ (t go).host.wf ∧ (t go).sys.ctxtab + 2 ^ 15 ≤ rmMemBase ∧ (t go).ctl.switches = [] ∧
    (packetCell { go with progress := 2, saved := [1] }).openPacket 0 0 0 5 = some { go with progress := 2, saved := [1] } ∧
    (packetCell res).startedPacket 0 0 0 6 .started = some res := by
  intros
  repeat' apply And.intro
  all_goals decide +kernel

theorem test_manifest_refused (s : State) (buffer : Nat) (h : s.host.read 0 8 = 0) : s.manifestAccepted 0 buffer = false := by
  have f : wfield (BitVec.ofNat 64 0) 0 32 = 0 := rfl
  simp [State.manifestAccepted, h, f]

/-- MailboxOperations: a request of each operation in order, a wrong SEQ, a PLEN beyond REQ, no firmware. -/
theorem test_witness_mailbox :
    let ask (op len : Nat) (w : Nat) : State := { hostCell with
      mem := (({} : Memory).write (rmBoxBase + 0x100) 8 (op + len * 2 ^ 32)).write (rmBoxBase + 0x108) 8 w
      io := { hostCell.io with mbBusy := true } }
    let inOrder (s : State) (op len : Nat) : Prop := s.io.mbBusy = true ∧ s.requestOp = op ∧ (s.io.nofw = false ∨ op = 6) ∧
      wfield s.request 16 16 = s.io.doorbell.toNat % 2 ^ 16 ∧ wfield s.request 8 8 = 0 ∧ wfield s.request 44 20 = 0 ∧
      s.requestLen = len ∧ len ≤ 3832
    inOrder (ask 1 0 0) 1 0 ∧ (inOrder (ask 2 8 0xF01) 2 8 ∧ wfield ((ask 2 8 0xF01).requestWord 0) 0 8 = 1) ∧
    (inOrder (ask 3 8 100) 3 8 ∧ ((ask 3 8 100).requestWord 0).toNat = 100 ∧ ((ask 3 8 99).requestWord 0).toNat < 100 ∧
      1000000 < ((ask 3 8 1000001).requestWord 0).toNat) ∧
    inOrder (ask 4 8 0) 4 8 ∧ inOrder (ask 5 32 0) 5 32 ∧
    (inOrder (ask 6 16 0xFFFFF8) 6 (8 + 8) ∧ ((ask 6 16 0xFFFFF8).requestWord 0).toNat + 8 ≤ 2 ^ 24 ∧ hostCell.flash.wf) ∧
    inOrder (ask 7 0 0) 7 0 ∧
    (wfield (ask 1 0 0).request 16 16 ≠ ({ (ask 1 0 0).io with doorbell := 1 } : HostIo).doorbell.toNat % 2 ^ 16 ∧
      3832 < (ask 1 3833 0).requestLen ∧ ({ (ask 1 0 0).io with nofw := true } : HostIo).nofw = true ∧
      (ask 2 0 0).requestOp ≠ 1 ∧ hostCell.io.mbBusy = false) ∧
    ((ask 0 0 0).requestOp = 0 ∧ (ask 0 0 0).io.mbBusy = true ∧ (ask 8 0 0).requestOp = 8 ∧ (ask 8 0 0).mem.wf) := by
  intro ask inOrder
  refine ⟨?_, ?_, ?_, ?_, ?_, ?_, ?_, ?_, ?_⟩ <;> decide +kernel

/-- ContextAndHealthSteps: a context that may drain, one to be saved, one whose save area is too small, one to be
restored, presenting tokens and done with them; HALT of context 0 and of another. -/
theorem test_witness_contexts :
    let st (r : Resident) (ws : List Switch) : State := { tableCell with
      insts := [], frames := [], ctl := { tableCell.ctl with residents := [r], switches := ws } }
    let stop : Resident := { res1 with phase := .stopping }
    let done_ : Resident := { res1 with phase := .drained, savelen := 0x1000 }
    let small : Resident := { done_ with savelen := 1 }
    let w : Switch := ⟨none, 0, .firmware⟩
    let back : Switch := ⟨some 1, 0, .firmware⟩
    let idle : State := { st res1 [back] with ctl := { tableCell.ctl with residents := [], switches := [back] } }
    let pres : Resident := { res1 with phase := .presenting }
    let mail : Token := { tok1 with mailed := true }
    let halt (c : Nat) : Op := { (default : Op) with id := 5, kind := .sys (.halt c) false }
    ((st stop []).resident 1 = some stop ∧ (st stop []).insts = [] ∧ (st stop []).tokensOut 1 = false ∧ (st stop []).ops = [] ∧
      (st stop []).gslots = [] ∧ (st stop []).carJobs = [] ∧ (st stop []).tokens = []) ∧
    ((st done_ [w]).activeSwitch 0 = some w ∧ (st done_ [w]).hw.retiring = [] ∧
      4096 + done_.cells.length * imageSize ≤ done_.savelen * 65536 ∧ small.savelen * 65536 < 4096 + small.cells.length * imageSize ∧
      ∀ x ∈ (st small [w]).ctl.switches, x.part = small.part → x = w) ∧
    ((st pres []).tokens = [] ∧ (st pres []).actions = [] ∧ (st pres []).activeSwitch 0 = none ∧
      mail.mailed = true ∧ mail.key.ctx = pres.ctx ∧ mail.phase = .offered) ∧
    (idle.ctl.switches.find? (fun w => w.restore == some 1 && idle.activeSwitch w.part == some w && (idle.residentIn w.part).isNone)
        = some back ∧
      idle.resident 1 = none ∧ idle.descriptorSound 1 = true ∧ wfield (idle.ctxWord 1 0) 1 6 = 0 ∧ idle.partCells 0 = [0] ∧
      wbit (idle.physWord ((idle.newResident 1 0).save + 32)) 0 = false ∧ idle.restoreFits (idle.newResident 1 0) = true ∧
      idle.actions = [] ∧ idle.mem.wf ∧ (idle.newResident 1 0).mbox + 16 ≤ rmMemBase) ∧
    ((opCell [halt 0]).op 5 = some (halt 0) ∧ (halt 1).key.ctx ≠ 1 ∧ ∀ x ∈ [halt 1], x.key.ctx = 1 → x.parts = []) := by
  intro st stop done_ small w back idle pres mail halt
  refine ⟨?_, ?_, ?_, ?_, ?_⟩ <;> decide +kernel

/-- The residence that context 1's descriptor gives, drained; and a state in which it is saved and then restored, with a frame. -/
def drained1 : Resident := { tableCell.newResident 1 0 with phase := .drained }
def drainedCell : State :=
  { tableCell with insts := [], ctl := { tableCell.ctl with residents := [drained1], switches := [⟨some 1, 0, .firmware⟩] } }

/-- ContextAndHealthSteps: a save whose bytes are stated, and a restore after it. -/
theorem test_witness_save :
    let s := drainedCell
    let r := drained1
    let apart (a n : Nat) : Prop := a + n ≤ rmBoxBase ∧ (a + n ≤ r.save ∨ r.save + 4096 + r.cells.length * imageSize ≤ a)
    (s.resident 1 = some r ∧ r.phase = .drained ∧ s.activeSwitch 0 = some ⟨some 1, 0, .firmware⟩ ∧ s.hw.retiring = [] ∧
      s.ctl.shadows = [] ∧ wfield ((keyed s.sys.parts 0).getD 0) 23 6 = 0 ∧
      4096 + r.cells.length * imageSize ≤ r.savelen * 65536 ∧ r.save % 65536 = 0 ∧ r.save + r.savelen * 65536 ≤ rmMemBase) ∧
    (s.mem.wf ∧ s.scratch.wf ∧ r.cells.Nodup ∧ (∀ c ∈ r.cells, c < 1152) ∧ r.ctx < 256 ∧ r.part < 64) ∧
    (r.funits = wfield r.carve 0 4 ∧ r.sunits = wfield r.carve 4 4 ∧ r.lunits = wfield r.carve 8 4 ∧
      r.funits + r.sunits + r.lunits = 15) ∧
    (s.lcache = [] ∧ s.frames = [frame1] ∧ frame1.chunk + frame1.desc.chunks ≤ r.funits * 128 ∧
      s.nextId + r.cells.length + 1 < 2 ^ 64 ∧ s.ctl.images = []) ∧
    ((∀ x ∈ s.ctl.residents, x.part = r.part → x.ctx = r.ctx) ∧ s.descriptorSound 1 = true ∧ wfield (s.ctxWord 1 0) 1 6 = r.part ∧
      r.cells ≠ [] ∧ s.newResident 1 0 = { r with phase := .presenting, since := s.sys.rtime }) ∧
    (apart (s.sys.ctxtab + 128) 128 ∧ apart r.htab 256 ∧ apart r.xtab 1024 ∧ apart r.mbox 64) ∧
    (s.physWord r.mbox = s.physWord (r.mbox + 8) ∧ s.actions = [] ∧ (∀ c ∈ r.cells, c ∉ s.hw.retired ∧ s.usedEntries c = []) ∧
      s.gslots = [] ∧ s.ctl.launches = []) := by
  intros
  repeat' apply And.intro
  all_goals decide +kernel

/-- ContextAndHealthSteps, health: addresses and frames that errors strike, a degraded package whose hour is over and one
whose is not, and a die's clock at both ends. -/
theorem test_witness_health :
    let low : State := { cell1 with hw := { cell1.hw with health := .degraded }, sys := { cell1.sys with rtime := hour } }
    cell1.inPools 0x11000 1 = true ∧ cell1.scratch.wf ∧ cell1.frameAt 0 ⟨1, 2, BitVec.ofNat 32 7⟩ = some frame1 ∧
    frame1.life ≠ .spilled ∧ 255 < frame1.desc.words ∧ (∀ no, inst1.phase ≠ .tagwin no) ∧
    (low.hw.health = .degraded ∧ hour ≤ low.sys.rtime ∧ low.hw.corrected = [] ∧ low.hw.linkRateAt = none) ∧
    (hour - 1 < 0 + hour ∧ cell1.hw.health ≠ .degraded) ∧
    ((keyed cell1.hw.dieClock 7).getD 0 = 0 ∧ (keyed [(7, 8)] 7).getD 0 = 8) := by
  refine ⟨?_, ?_, ?_, ?_, ?_, ?_, ?_, ?_, ?_⟩
  any_goals decide +kernel
  intro no h
  cases h

/-! A restore that must wait: the header of the save area is sound whatever the revision is, since it names it and its CHECK is
that of its bytes. -/

/-- Memory with a header for the residence of context 1, valid, of a revision and with a CHECK. -/
def headered (rev check : Nat) : Memory :=
  { cells := [(0x70000, 0x58), (0x70001, 0x43), (0x70002, 0x53), (0x70003, 0x56), (0x70004, BitVec.ofNat 8 rev), (0x70006, 1),
      (0x70020, 1), (0x70080, 1)] ++ ((upFrom 0x70028 8).zip (numBytes 8 check) ++ tableCell.mem.cells) }
def sealed_ : Memory := headered Config.revision.toNat (headerCheck (headered Config.revision.toNat 0) 0x70000).toNat

theorem cellsRead_skip {l t : List Host.Cell} {a : Nat} (h : ∀ c ∈ l, c.1 ≠ a) : cellsRead (l ++ t) a = cellsRead t a := by
  induction l with
  | nil => rfl
  | cons c l ih =>
    rw [List.cons_append, cellsRead, if_neg (h c List.mem_cons_self)]
    exact ih (fun x hx => h x (List.mem_cons_of_mem _ hx))

theorem cellsRead_behind (l : List Host.Cell) {t u : List Host.Cell} {a : Nat} (h : cellsRead t a = cellsRead u a) :
    cellsRead (l ++ t) a = cellsRead (l ++ u) a := by
  induction l with
  | nil => exact h
  | cons c l ih => rw [List.cons_append, List.cons_append, cellsRead, cellsRead, ih]

theorem cellsRead_run {a n j : Nat} {l : List Byte} {x : Byte} (t : List Host.Cell) (hj : j < n) (hx : l[j]? = some x) :
    cellsRead ((upFrom a n).zip l ++ t) (a + j) = x := by
  induction n generalizing a j l with
  | zero => omega
  | succ n ih =>
    match l, j with
    | [], _ => simp at hx
    | y :: l, 0 =>
      simp only [List.getElem?_cons_zero, Option.some.injEq] at hx
      rw [upFrom, List.zip_cons_cons, List.cons_append, cellsRead, if_pos (Nat.add_zero a).symm, hx]
    | y :: l, j + 1 =>
      rw [upFrom, List.zip_cons_cons, List.cons_append, cellsRead, if_neg (by omega), show a + (j + 1) = a + 1 + j by omega]
      exact ih (by omega) (by simpa using hx)

theorem mem_upFrom {k lo n : Nat} (h : k ∈ upFrom lo n) : lo ≤ k ∧ k < lo + n := by
  induction n generalizing lo with
  | zero => exact absurd h List.not_mem_nil
  | succ n ih =>
    rcases List.mem_cons.mp h with rfl | h
    · omega
    · have := ih h; omega

theorem headered_byte (rev c d : Nat) {a : Nat} (h : a < 0x70028 ∨ 0x70030 ≤ a) : (headered rev c).byte a = (headered rev d).byte a := by
  have skip (v : Nat) : cellsRead ((upFrom 0x70028 8).zip (numBytes 8 v) ++ tableCell.mem.cells) a = cellsRead tableCell.mem.cells a :=
    cellsRead_skip (fun x hx e => by have := mem_upFrom (List.of_mem_zip hx).1; omega)
  exact cellsRead_behind _ ((skip c).trans (skip d).symm)

theorem headered_check (rev c : Nat) {j : Nat} (h : j < 8) : (headered rev c).byte (0x70028 + j) = BitVec.ofNat 8 (c / 256 ^ j) := by
  rw [Memory.byte, headered, cellsRead_skip (fun x hx => by simp only [List.mem_cons, List.not_mem_nil, or_false] at hx; rcases hx with
    rfl | rfl | rfl | rfl | rfl | rfl | rfl | rfl <;> simp only [] <;> omega)]
  exact cellsRead_run _ h (numBytes_get h)

theorem headered_bytes (rev c d : Nat) {a n : Nat} (h : a + n ≤ 0x70028 ∨ 0x70030 ≤ a) :
    (headered rev c).bytes a n = (headered rev d).bytes a n := by
  induction n generalizing a with
  | zero => simp only [Memory.bytes, upFrom, List.map_nil]
  | succ n ih =>
    simp only [Memory.bytes, upFrom, List.map_cons] at ih ⊢
    rw [headered_byte rev c d (by omega), ih (by omega)]

theorem sealed_check : sealed_.read 0x70028 8 = (headerCheck sealed_ 0x70000).toNat := by
  have e : headerCheck sealed_ 0x70000 = headerCheck (headered Config.revision.toNat 0) 0x70000 := by
    rw [headerCheck, headerCheck, sealed_, headered_bytes _ _ 0 (a := 0x70000) (n := 40) (by omega),
      headered_bytes _ _ 0 (a := 0x70000 + 128) (n := 144) (by omega), headered_bytes _ _ 0 (a := 0x70000 + 512) (n := 144) (by omega)]
  rw [e]
  exact (Memory.read_of_bytes _ 8 _ (fun j hj => headered_check _ _ hj)).trans
    (Nat.mod_eq_of_lt (headerCheck (headered Config.revision.toNat 0) 0x70000).isLt)

theorem sealed_word : sealed_.read 0x70000 8 = 0x56534358 + Config.revision.toNat * 2 ^ 32 + 2 ^ 48 := by
  have h : ∀ r, r < 2 ^ 8 → ∀ j, j < 8 →
      ((headered r 0).byte (0x70000 + j)) = BitVec.ofNat 8 ((0x56534358 + r * 2 ^ 32 + 2 ^ 48) / 256 ^ j) := by decide +kernel
  have lt : ∀ r, r < 2 ^ 8 → (0x56534358 + r * 2 ^ 32 + 2 ^ 48) % 256 ^ 8 = 0x56534358 + r * 2 ^ 32 + 2 ^ 48 := by decide +kernel
  rw [sealed_, Memory.read_of_bytes _ 8 _ (fun j hj => (headered_byte _ _ 0 (by omega)).trans (h _ Config.revision.isLt j hj)),
    lt _ Config.revision.isLt]

/-- A state in which the image of context 1 holds the request-table entry that an operation of context 0 has taken. -/
def waitingCell : State :=
  { tableCell with
    mem := sealed_, ops := [{ (default : Op) with id := 9, hidx := 4 }]
    ctl := { tableCell.ctl with
      residents := [], switches := [⟨some 1, 0, .firmware⟩]
      images := [{ (default : Image) with ctx := 1, items := [{ (default : Item) with kind := 2, hidx := 4 }] }] } }

/-- ContextAndHealthSteps: a restore whose image does not fit while its header is sound. -/
theorem test_witness_restore_waits :
    let s := waitingCell
    let r := s.newResident 1 0
    s.ctl.switches.find? (fun w => w.restore == some 1 && s.activeSwitch w.part == some w && (s.residentIn w.part).isNone)
        = some ⟨some 1, 0, .firmware⟩ ∧ s.resident 1 = none ∧ s.descriptorSound 1 = true ∧ wfield (s.ctxWord 1 0) 1 6 = 0 ∧
      s.partCells 0 ≠ [] ∧ s.headerSound r = true ∧ s.restoreFits r = false := by
  have fields : ∀ n, n < 2 ^ 8 → let w := BitVec.ofNat 64 (0x56534358 + n * 2 ^ 32 + 2 ^ 48)
      wfield w 0 32 = 0x56534358 ∧ wfield w 32 16 = n ∧ wfield w 48 8 = 1 ∧ wfield w 56 6 = 0 := by decide +kernel
  obtain ⟨f0, f1, f2, f3⟩ := fields _ Config.revision.isLt
  have at_ : (waitingCell.newResident 1 0).save = 0x70000 := by decide +kernel
  have cells : (waitingCell.newResident 1 0).cells = [0] := by decide +kernel
  have phys (s : State) (a : Nat) (h : inBox a = false) (h2 : a < 2 ^ 48) : s.physWord a = BitVec.ofNat 64 (s.mem.read a 8) := by
    simp only [State.physWord, State.physRead, h, if_pos h2, Bool.false_eq_true, if_false]
  have w0 : waitingCell.physWord 0x70000 = BitVec.ofNat 64 (0x56534358 + Config.revision.toNat * 2 ^ 32 + 2 ^ 48) :=
    (phys _ _ (by decide +kernel) (by decide)).trans (congrArg (BitVec.ofNat 64) sealed_word)
  have w5 : waitingCell.physWord 0x70028 = headerCheck sealed_ 0x70000 := by
    rw [phys _ _ (by decide +kernel) (by decide), show waitingCell.mem = sealed_ from by rw [waitingCell], sealed_check, BitVec.ofNat_toNat, BitVec.setWidth_eq]
  refine ⟨by decide +kernel, by decide +kernel, by decide +kernel, by decide +kernel, by decide +kernel, ?_, by decide +kernel⟩
  have map : sealed_.read 0x70080 144 = cellBitmap [0] := by decide +kernel
  have ctx : (waitingCell.newResident 1 0).ctx = 1 := by decide +kernel
  have part : (waitingCell.newResident 1 0).part = 0 := by decide +kernel
  have mem : waitingCell.mem = sealed_ := by rw [waitingCell]
  simp only [State.headerSound, at_, cells, w0, f0, f1, f2, f3, map, w5, Nat.reduceAdd, ctx, part, mem, beq_self_eq_true, Bool.and_true]

/-! ### Races, reservations, frames that a restore left no room, and items of saved contexts -/

/-- CommitInstant and EngineSteps: a scratch write while an engine command or an MU instruction is under way; a halted
Ringmaster. -/
theorem test_witness_races :
    let e : State := { cell1 with ops := [engineOp (engine1 .cpy [(3, 0x100), (5, 0x100)])] }
    let m : State := { cell1 with ops := [muOp mu1] }
    e.racesOf 0 1 false ≠ [] ∧ e.racesOf 0 1 true = [] ∧ m.racesOf 0 1 true ≠ [] ∧ cell1.racesOf 0 1 false = [] ∧
    (({} : Race).meet {} 8 255 true true).seen ≠ [] ∧ (({} : Race).meet {} 8 255 false false).kept = [(8, 255)] ∧
    ({ cell1 with hw := { cell1.hw with rmHalted := true } } : State).hw.rmHalted = true := by decide +kernel

/-- An abandoned instance takes along the frame that only its own token has created (R243), and no other that has accepted no
token yet (R33). -/
theorem test_release_reserved :
    let fresh : State := { cell1 with frames := [{ frame1 with fresh := true }] }
    let mine : Token := { tok1 with committed := false, owner := some (0, 0), phase := .accepted }
    (fresh.releaseInst inst1).frames.length = 1 ∧
      (({ fresh with tokens := [mine] } : State).releaseInst inst1).frames = [] := by decide +kernel

/-- WaitingSteps: a Spilled frame that a restore found Dying; FaultAndSignalSteps: an item saved with its context. -/
theorem test_witness_saved :
    (let f : Frame := { frame1 with life := .spilled, doomed := true }
     let s : State := { cell1 with frames := [f] }
     s.frameAt 0 key1 = some f ∧ s.hasRoom 0 1 desc1 = true) ∧
    (let it : Item := { (default : Item) with id := 7, ctx := 1, key := key1 }
     let s : State :=
       { tableCell with ctl := { tableCell.ctl with residents := [], images := [{ (default : Image) with ctx := 1, items := [it] }] } }
     s.items.find? (fun x => x.id == 7) = none ∧ s.awayItem 7 = some it) ∧
    (let s : State := { cell1 with hw := { cell1.hw with rmHalted := true } }
     s.firmwareHalted = true) := by decide +kernel

/-- RepresentableUnchanged: 500 lies beyond the greatest E4M3 number, 0.3 does not (the table of R67). -/
theorem test_witness_round_to : (fmtE4m3, (448 : ℚ)) ∈
      [fmtF64, fmtF32, fmtBf16, fmtF16, fmtE4m3, fmtE5m2, fmtE2m3, fmtE3m2, fmtE2m1].zip
        [(2 - 2 ^ (-52 : ℤ)) * 2 ^ 1023, (2 - 2 ^ (-23 : ℤ)) * 2 ^ 127, (2 - 2 ^ (-7 : ℤ)) * 2 ^ 127, 65504, 448, 57344, 7.5, 28, 6] ∧
    (⟨500, 0, 1⟩ : Exact).rat ≠ 0 ∧ (⟨3, 0, 10⟩ : Exact).rat ≠ 0 ∧
    roundTo fmtE4m3 .rne false ⟨500, 0, 1⟩ = (0x7F, flagOverflow ||| flagInexact) ∧
    roundTo fmtE4m3 .rod false ⟨500, 0, 1⟩ = (0x7E, flagOverflow ||| flagInexact) ∧
    roundTo fmtE4m3 .rne false ⟨3, 0, 10⟩ = (0x2A, flagInexact) := by
  refine ⟨?_, by norm_num [Exact.rat], by norm_num [Exact.rat], by decide +kernel, by decide +kernel, by decide +kernel⟩
  simp [List.zip]

end Sys2Proof.Tests
end

section
/-! The register files: what a register of an instance reads after a write to its file, and what the write leaves as it
was (R6, R117, R138, R189). -/

namespace Sys2Proof.Machine

/-- A register file is a list keyed by register number, in which unwritten registers stand for the free value `free`. -/
theorem keyed_putKeyed_getD {α : Type} {w : Nat} (l : List (Nat × α)) (d r : BitVec w) (x free : α) :
    (keyed (putKeyed l d.toNat x) r.toNat).getD free = if r = d then x else (keyed l r.toNat).getD free := by
  split
  case isTrue h => rw [h, keyed_putKeyed_self, Option.getD_some]
  case isFalse h => rw [keyed_putKeyed_other l x (mt BitVec.eq_of_toNat_eq h)]

/-! ### The constant registers -/

theorem Inst.getS_zero (i : Inst) : i.getS 0 = 0 := rfl
theorem Inst.getM_zero (i : Inst) : i.getM 0 = BitVec.allOnes 64 := rfl
theorem Inst.setS_zero (i : Inst) (v : W64) : i.setS 0 v = i := rfl
theorem Inst.setM_zero (i : Inst) (v : W64) : i.setM 0 v = i := rfl

/-! ### Reads after writes -/

theorem Inst.getS_setS (i : Inst) (d r : Reg) (v : W64) :
    (i.setS d v).getS r = if r = 0 then 0 else if r = d then v else i.getS r := by
  by_cases hr : r = 0
  · rw [if_pos hr, hr, Inst.getS_zero]
  by_cases hd : d = 0
  · rw [hd, Inst.setS_zero, if_neg hr, if_neg hr]
  · simp only [Inst.getS, Inst.setS, hd, hr, if_false, keyed_putKeyed_getD]

theorem Inst.getV_setV (i : Inst) (d r : Reg) (v : VWord) :
    (i.setV d v).getV r = if r = d then v else i.getV r := by
  simp only [Inst.getV, Inst.setV, keyed_putKeyed_getD]

theorem Inst.getM_setM (i : Inst) (d r : MReg) (v : W64) :
    (i.setM d v).getM r = if r = 0 then BitVec.allOnes 64 else if r = d then v else i.getM r := by
  by_cases hr : r = 0
  · rw [if_pos hr, hr, Inst.getM_zero]
  by_cases hd : d = 0
  · rw [hd, Inst.setM_zero, if_neg hr, if_neg hr]
  · simp only [Inst.getM, Inst.setM, hd, hr, if_false, keyed_putKeyed_getD]

/-! ### The rest of the instance -/

theorem Inst.setS_frame (i : Inst) (d : Reg) (v : W64) : { i.setS d v with s := i.s } = i := by
  unfold Inst.setS
  split <;> rfl

theorem Inst.setV_frame (i : Inst) (d : Reg) (v : VWord) : { i.setV d v with v := i.v } = i := rfl

theorem Inst.setM_frame (i : Inst) (d : MReg) (v : W64) : { i.setM d v with m := i.m } = i := by
  unfold Inst.setM
  split <;> rfl

/-- Settles O12: a register that is written reads back, `s0` and `m0` keep their constants, and a write to one file changes
nothing else of the instance. -/
theorem registersReadBack : Obligations.RegistersReadBack := fun i =>
  ⟨i.getS_setS, i.getV_setV, i.getM_setM, i.setS_frame, i.setV_frame, i.setM_frame⟩

end Sys2Proof.Machine
end

section
/-! The package reset: the two ways in which the boot behind it can end, the values that stand in the registers whichever
way it takes, and the boot flash with the certificate chain (R14, R346, R354, R378, R416, R417). -/

namespace Sys2Proof.Machine

/-! ### Bytes of a memory that need not be in canonical form -/

theorem cellsRead_cellsWrite_ne (l : List Host.Cell) {a c : Nat} (b : Byte) (hne : a ≠ c) :
    cellsRead (cellsWrite l a b) c = cellsRead l c := by
  fun_induction cellsWrite l a b <;> simp_all [cellsRead]

theorem Memory.byte_putBytes_of_lt (m : Memory) {a c : Nat} (bs : List Byte) (hc : c < a) :
    (m.putBytes a bs).byte c = m.byte c := by
  induction bs generalizing m a with
  | nil => rfl
  | cons b t ih =>
    calc ((m.putByte a b).putBytes (a + 1) t).byte c
      _ = (m.putByte a b).byte c := ih _ (by omega)
      _ = m.byte c := cellsRead_cellsWrite_ne m.cells b (by omega)

/-! ### How a boot ends (R354) -/

/-- The state in which the Ringmaster starts an accepted image: the image is loaded and its start token is under way. -/
def State.bootStarts (s : State) (m : Memory) (entries : List (Nat × Nat)) (digest : BitVec 384) (svn : Nat) (t : Token) :
    State :=
  { s with
    mem := m
    sys := { s.sys with bootEntries := entries }
    io := { s.io with nofw := false }
    hw := { s.hw with bootok := true, booterr := 0, fwDigest := digest, fwSvn := svn } }.sendToken t

theorem State.boot_cases (s : State) :
    (∃ err, s.boot = s.bootFails err) ∨ ∃ m entries digest svn t, s.boot = s.bootStarts m entries digest svn t := by
  unfold State.boot
  extract_lets
  split
  · exact .inl ⟨5, rfl⟩
  split
  · exact .inl ⟨1, rfl⟩
  split
  · exact .inl ⟨1, rfl⟩
  split
  · split
    · exact .inl ⟨2, rfl⟩
    split
    · exact .inl ⟨3, rfl⟩
    split
    · exact .inl ⟨4, rfl⟩
    · exact .inr ⟨_, _, _, _, _, rfl⟩
  · exact .inl ⟨1, rfl⟩

theorem State.boot_host (s : State) : s.boot.host = s.host := by
  obtain ⟨_, h⟩ | ⟨_, _, _, _, _, h⟩ := s.boot_cases <;> rw [h] <;> rfl

theorem State.boot_flash (s : State) : s.boot.flash = s.flash := by
  obtain ⟨_, h⟩ | ⟨_, _, _, _, _, h⟩ := s.boot_cases <;> rw [h] <;> rfl

/-! ### The values of a reset -/

/-- The registers and structures of a state for which the specification gives a value at a package reset hold that value, and
no timer is armed. Only the codeblock entries that the security root installs differ from boot to boot (R354). -/
structure State.AtReset (s : State) : Prop where
  sys : s.sys = { State.reset.sys with bootEntries := s.sys.bootEntries }
  cyc : s.cyc = []
  plim : s.hw.plim = 3200
  prio : s.ctl.prio = []
  quantum : s.ctl.quantum = 10000
  watermark : s.ctl.watermark = 0
  residents : s.ctl.residents = []
  queues : s.io.queues = []
  tlb : s.tlb = []
  icache : s.icache = []
  lcache : s.lcache = []
  insts : s.insts = []
  frames : s.frames = []
  ops : s.ops = []
  items : s.items = []
  ready : s.ready = []

theorem State.reset_atReset : State.reset.AtReset := by constructor <;> rfl

theorem State.afterReset_atReset (s : State) : s.afterReset.AtReset := by constructor <;> rfl

theorem State.AtReset.bootFails {s : State} (h : s.AtReset) (err : Nat) : (s.bootFails err).AtReset := { h with }

theorem State.AtReset.bootStarts {s : State} (h : s.AtReset) (m : Memory) (entries : List (Nat × Nat)) (digest : BitVec 384)
    (svn : Nat) (t : Token) : (s.bootStarts m entries digest svn t).AtReset :=
  { h with sys := congrArg (fun r : SysRegs => { r with bootEntries := entries }) h.sys }

theorem State.AtReset.boot {s : State} (h : s.AtReset) : s.boot.AtReset := by
  obtain ⟨err, hb⟩ | ⟨m, entries, digest, svn, t, hb⟩ := s.boot_cases
  · exact hb ▸ h.bootFails err
  · exact hb ▸ h.bootStarts m entries digest svn t

/-! ### What the registers read -/

section
variable {s : State} (h : s.AtReset)
include h

theorem State.AtReset.rtime : s.sys.rtime = 0 := by rw [h.sys]; rfl

theorem State.AtReset.timers : s.sys.timers = [] := by rw [h.sys]; rfl

theorem State.AtReset.residentOn (p : Nat) : s.residentOn p = 0 := by rw [State.residentOn, h.residents]; rfl

theorem State.AtReset.resident (c : Nat) : s.resident c = none := by rw [State.resident, h.residents]; rfl

theorem State.AtReset.priority (c : Nat) : s.priority c = 8 := by rw [State.priority, h.prio]; rfl

theorem State.AtReset.queue (fn q : Nat) : s.queue fn q = default := by rw [State.queue, h.queues]; rfl

theorem State.AtReset.cycles (site : Nat) : (keyed s.cyc site).getD 0 = 0 := by rw [h.cyc]; rfl

/-- CTXTAB, SHADOW and POOLS; WIN1 to WIN15; PART0 to PART63; RTIME, EVTBASE, TIMEADDR and WDOG (R346, R378, R396). -/
theorem State.AtReset.readSys {n : Nat}
    (hn : n ≤ 2 ∨ (0x11 ≤ n ∧ n ≤ 0x1F) ∨ (0x40 ≤ n ∧ n ≤ 0x7F) ∨ n = 0x100 ∨ n = 0x105 ∨ n = 0x107 ∨ n = 0x108) :
    s.readSys n = some 0 := by
  unfold State.readSys
  rw [h.sys, h.residentOn]
  obtain hlow | hwin | hpart | rfl | rfl | rfl | rfl := hn
  · interval_cases n <;> rfl
  · rw [if_neg (by omega), if_neg (by omega), if_neg (by omega), if_pos hwin]; rfl
  · rw [if_neg (by omega), if_neg (by omega), if_neg (by omega), if_neg (by omega), if_pos hpart]; simp [State.reset, keyed]
  all_goals rfl

end

/-! ### The package reset -/

theorem exec_packageReset (s : State) : exec .packageReset s = .next s.afterReset.boot := rfl

theorem State.afterReset_boot_flash (s : State) : s.afterReset.boot.flash = bootFlash s.flash := s.afterReset.boot_flash

theorem State.afterReset_boot_host (s : State) : s.afterReset.boot.host = s.host := s.afterReset.boot_host

/-- Settles O3: both ways in which the boot can end keep the values that the reset has put in the registers. -/
theorem resetState : Obligations.ResetState := by
  unfold Obligations.ResetState
  intro fresh
  have fresh_of (s : State) (h : s.AtReset) : fresh s :=
    ⟨fun _ => h.readSys, h.rtime, h.cycles, h.plim, h.priority, h.quantum, h.watermark,
      fun fn q => by rw [h.queue]; rfl, fun e he => by simp [h.timers] at he, h.resident, h.tlb, h.icache, h.lcache,
      h.insts, h.frames, h.ops, h.items, h.ready⟩
  refine ⟨fresh_of _ State.reset_atReset, fun s =>
    ⟨_, exec_packageReset s, fresh_of _ s.afterReset_atReset.boot, s.afterReset_boot_host, fun a ha => ?_, fun hwf k b hk => ?_⟩⟩
  · rw [s.afterReset_boot_flash]
    exact s.flash.byte_putBytes_of_lt _ ha
  · rw [s.afterReset_boot_flash]
    exact Memory.byte_putBytes_at _ hk hwf

end Sys2Proof.Machine
end

section
/-! The issue of instructions and the single step: every meaning answers a next state, an instruction word leaves the memories
alone, and what a step makes of the words of a runner's next instruction (R40 to R42, R110, R111, R128, R342, R371). -/

namespace Sys2Proof.Machine

/-! ### The list of instances -/

theorem updateFirst_self {α : Type} {p : α → Bool} {l : List α} {x : α} (h : l.find? p = some x) :
    updateFirst p (fun _ => x) l = l := by
  induction l with
  | nil => rfl
  | cons a t ih =>
    cases hp : p a with
    | true => simp_all [updateFirst]
    | false => simp_all [updateFirst]

theorem find?_updateFirst_self {α : Type} {p : α → Bool} {f : α → α} (hf : ∀ x, p x = true → p (f x) = true) (l : List α) :
    (updateFirst p f l).find? p = (l.find? p).map f := by
  induction l with
  | nil => rfl
  | cons a t ih =>
    cases hp : p a with
    | true => simp [updateFirst, hp, hf a hp]
    | false => simp [updateFirst, hp, ih]

theorem find?_updateFirst_other {α : Type} {p q : α → Bool} {f : α → α}
    (hf : ∀ x, p x = true → q x = false ∧ q (f x) = false) (l : List α) :
    (updateFirst p f l).find? q = l.find? q := by
  induction l with
  | nil => rfl
  | cons a t ih =>
    cases hp : p a with
    | true => simp [updateFirst, hp, hf a hp]
    | false => simp [updateFirst, hp, ih, List.find?_cons]

theorem State.instAt_putInst (s : State) (j : Inst) :
    (s.putInst j).instAt j.site j.runner = (s.instAt j.site j.runner).map (fun _ => j) :=
  find?_updateFirst_self (fun _ _ => by simp) s.insts

theorem State.instAt_putInst_other (s : State) (j : Inst) {site runner : Nat} (h : ¬(site = j.site ∧ runner = j.runner)) :
    (s.putInst j).instAt site runner = s.instAt site runner := by
  refine find?_updateFirst_other (fun x hx => ?_) s.insts
  simp only [Bool.and_eq_true, beq_iff_eq, Bool.and_eq_false_iff, beq_eq_false_iff_ne] at hx ⊢
  omega

theorem State.instAt_site {s : State} {site runner : Nat} {i : Inst} (h : s.instAt site runner = some i) :
    i.site = site ∧ i.runner = runner := by
  simpa using List.find?_some h

theorem State.putInst_frame (s : State) (j : Inst) : { s.putInst j with insts := s.insts } = s := rfl

theorem Inst.past_pc (i : Inst) (c : Cur) : (i.past c).pc = if c.w1.isSome then c.addr + 8 else c.addr + 4 := by
  unfold Inst.past
  split <;> rfl

/-- Settles O13: `putInst` replaces one element of the list of instances, the one that stands on the runner of its argument. -/
theorem runnerAlone : Obligations.RunnerAlone := by
  intro s c i h
  refine ⟨fun j hsite hrunner => ⟨?_, fun site runner hother => ?_, s.putInst_frame j⟩, i.past_pc c, rfl, rfl⟩
  · rw [← hsite, ← hrunner, s.instAt_putInst, hsite, hrunner, h.2, Option.map_some]
  · exact s.instAt_putInst_other j (by rwa [hsite, hrunner])

/-! ### Every meaning answers a next state -/

theorem withPfx_ne_nil (p : Pfx) (w : Word) : withPfx p w ≠ [] := by
  unfold withPfx
  split <;> simp

theorem encImm27_ne_nil (i : BitVec 27) (w : BitVec 12 → Word) : encImm27 i w ≠ [] := by
  unfold encImm27
  split <;> simp

theorem encImm35_ne_nil (i : BitVec 35) (w : BitVec 20 → Word) : encImm35 i w ≠ [] := by
  unfold encImm35
  split <;> simp

theorem encode_of_isDevice {w : Instr} (hw : Instr.isDevice w = true) : encode w = [] := by
  unfold Instr.isDevice at hw
  exact List.isEmpty_iff.mp (Bool.and_eq_true_iff.mp hw).1

/-- A step of the device answers a next state from every state: each of its meanings ends every branch in one. -/
theorem exec_device_answers {w : Instr} (hw : Instr.isDevice w = true) (s : State) :
    ∃ t, Sys2Proof.Machine.exec w s = .next t := by
  cases w with
  | commit | tokenRetry | tokenAccept | tokenApply | descriptorLoad | parkReexamine | parkOverflowReadback |
  waitingSignalServe | frameFill | readyChoose | readyOverflowReturn | faultTokenDelivery | faultActionDelivery |
  completionSignal | loadPerform | storePerform | atomicPerform | prefetchPerform | pageWalk | localCacheFill |
  icacheFill | muPerform | muCompletion | carouselEntry | carouselResult | xldProcess | xldWaitRetry |
  graphLoadComplete | xunlComplete | configErrorReload | engineCommandStart | engineFaultStop |
  engineCommandComplete | tagwinRequest | tagwinInstall | launchInject | launchWave | launchWatchdog |
  launchKillMark | timerExpiry | timeWordStore | registerWrite | queueEnable | queueDisable | queueKick |
  f1bindWrite | apertureRead | apertureWrite | packetFetch | packetReread | packetStart | launchPacket |
  loadGraphPacket | memoryCopy | memoryFill | fencePacket | fencePoll | freezePacket | resumePacket |
  completionRecord | quantumExpiry | doorbell | pools | setPriority | setQuantum | setWatermark | attest |
  flashWrite | orphans | plimWrite | drainMarker | contextImageSave | contextRestore | restoreResume | haltComplete
  | tlbInvalidateComplete | pageEviction | hardwareError | droopDetect | droopRecovery | powerLimitStep |
  degradedExit | packageReset | vlpTokenReceive | vlpAcknowledge | torusProtocolError | engineElement |
  pcieCompletionTimeout =>
    dsimp only [Sys2Proof.Machine.exec, stepPart,
      execCommit, execTokenRetry, execTokenAccept, execTokenApply, execDescriptorLoad, execParkReexamine,
      execParkOverflowReadback, execWaitingSignalServe, execFrameFill, execReadyChoose, execReadyOverflowReturn,
      execFaultTokenDelivery, execFaultActionDelivery, execCompletionSignal, execLoadPerform, execStorePerform,
      execAtomicPerform, execPrefetchPerform, execPageWalk, execLocalCacheFill, execIcacheFill, execMuPerform,
      execMuCompletion, execCarouselEntry, execCarouselResult, execXldProcess, execXldWaitRetry,
      execGraphLoadComplete, execXunlComplete, execConfigErrorReload, execEngineCommandStart, execEngineFaultStop,
      execEngineCommandComplete, execTagwinRequest, execTagwinInstall, execLaunchInject, execLaunchWave,
      execLaunchWatchdog, execLaunchKillMark, execTimerExpiry, execTimeWordStore, execRegisterWrite,
      execQueueEnable, execQueueDisable, execQueueKick, execF1bindWrite, execApertureRead, execApertureWrite,
      execPacketFetch, execPacketReread, execPacketStart, execLaunchPacket, execLoadGraphPacket, execMemoryCopy,
      execMemoryFill, execFencePacket, execFencePoll, execFreezePacket, execResumePacket, execCompletionRecord,
      execQuantumExpiry, execDoorbell, execPools, execSetPriority, execSetQuantum, execSetWatermark, execAttest,
      execFlashWrite, execOrphans, execPlimWrite, execDrainMarker, execContextImageSave, execContextRestore,
      execRestoreResume, execHaltComplete, execTlbInvalidateComplete, execPageEviction, execHardwareError,
      execDroopDetect, execDroopRecovery, execPowerLimitStep, execDegradedExit, execPackageReset,
      execVlpTokenReceive, execVlpAcknowledge, execTorusProtocolError, execEngineElement, execPcieCompletionTimeout]
    repeat' split
    all_goals exact ⟨_, rfl⟩
  | illegalInstruction => cases hw
  | fcvt | fcvti | icvtf | vadd | vsub | vmul | vmulh | vmin | vmax | vadds | vsubs | vaddScalar | vsubScalar |
  vmulScalar | vmulhScalar | vminScalar | vmaxScalar | vaddsScalar | vsubsScalar | vand | vor | vxor | vandn | vshl |
  vshr | vsra | vrol | vabs | vneg | vclz | vpopc | vmadd | vclmul | vclmulh | vfadd | vfsub | vfmul | vfdiv | vfma |
  vfnma | vfmin | vfmax | vfaddScalar | vfsubScalar | vfmulScalar | vfdivScalar | vfmaScalar | vfnmaScalar |
  vfminScalar | vfmaxScalar | vfsqrt | vfabs | vfneg | vfsgn | vfrnd | vfcls | vcvt | vcvtn | vcvtw | vqmx | vqq4 |
  vdqmx | vdqq4 | vceq | vcne | vclt | vcle | vcgt | vcge | vceqScalar | vcneScalar | vcltScalar | vcleScalar |
  vcgtScalar | vcgeScalar | vperm | vbcst | vslup | vsldn | vexpn | vzip | vunzip | vscanAdd | vscanMin | vscanMax |
  vscanXor | vmov | vmovLane | mrd | mrdx | xop | vld | vldStr | vldIdx =>
    exact absurd (encode_of_isDevice hw) (withPfx_ne_nil _ _)
  | addImm | andImm | orImm | xorImm | shlImm | shrImm | sraImm | rorImm | sltI64Imm | sltN64Imm | seqImm | sneImm |
  mulImm | minI64Imm | maxI64Imm | beq | bne | bltI64 | bgeI64 | bltN64 | bgeN64 | bbs | bbc | beqImm | bneImm |
  bltI64Imm | bgeI64Imm | bltN64Imm | bgeN64Imm | bbsImm | bbcImm | fld | fst | fldv | fstv | sld | sst =>
    exact absurd (encode_of_isDevice hw) (encImm27_ne_nil _ _)
  | movi | movh | j =>
    exact absurd (encode_of_isDevice hw) (encImm35_ne_nil _ _)
  | _ => cases encode_of_isDevice hw

/-- An instruction word answers a next state wherever an instance executes it: it completes or takes a fault. -/
theorem exec_word_answers {w : Instr} (hw : Instr.isDevice w = false) {s : State} {c : Cur} {i : Inst} (h : s.executes c i) :
    ∃ t, Sys2Proof.Machine.exec w s = .next t := by
  obtain ⟨hcur, hinst⟩ := h
  cases w with
  | commit | tokenRetry | tokenAccept | tokenApply | descriptorLoad | parkReexamine | parkOverflowReadback |
  waitingSignalServe | frameFill | readyChoose | readyOverflowReturn | faultTokenDelivery | faultActionDelivery |
  completionSignal | loadPerform | storePerform | atomicPerform | prefetchPerform | pageWalk | localCacheFill |
  icacheFill | muPerform | muCompletion | carouselEntry | carouselResult | xldProcess | xldWaitRetry |
  graphLoadComplete | xunlComplete | configErrorReload | engineCommandStart | engineFaultStop |
  engineCommandComplete | tagwinRequest | tagwinInstall | launchInject | launchWave | launchWatchdog |
  launchKillMark | timerExpiry | timeWordStore | registerWrite | queueEnable | queueDisable | queueKick |
  f1bindWrite | apertureRead | apertureWrite | packetFetch | packetReread | packetStart | launchPacket |
  loadGraphPacket | memoryCopy | memoryFill | fencePacket | fencePoll | freezePacket | resumePacket |
  completionRecord | quantumExpiry | doorbell | pools | setPriority | setQuantum | setWatermark | attest |
  flashWrite | orphans | plimWrite | drainMarker | contextImageSave | contextRestore | restoreResume | haltComplete
  | tlbInvalidateComplete | pageEviction | hardwareError | droopDetect | droopRecovery | powerLimitStep |
  degradedExit | packageReset | vlpTokenReceive | vlpAcknowledge | torusProtocolError | engineElement |
  pcieCompletionTimeout =>
    cases hw
  | _ =>
    conv in Sys2Proof.Machine.exec _ _ => whnf
    simp only [hcur, hinst]
    repeat' split
    all_goals exact ⟨_, rfl⟩

theorem exec_answers (w : Instr) {s : State} {c : Cur} {i : Inst} (h : s.executes c i) :
    ∃ t, Sys2Proof.Machine.exec w s = .next t := by
  cases hw : Instr.isDevice w with
  | true => exact exec_device_answers hw s
  | false => exact exec_word_answers hw h

theorem State.atWord_executes {s u : State} (hu : s.atWord u) {c : Cur} {i : Inst} (h : s.executes c i) :
    ∃ j, u.executes c j := by
  obtain rfl | ⟨j, rfl⟩ := hu
  · exact ⟨i, h⟩
  · by_cases hj : c.site = j.site ∧ c.runner = j.runner
    · refine ⟨j, h.1, ?_⟩
      rw [hj.1, hj.2, s.instAt_putInst, ← hj.1, ← hj.2, h.2, Option.map_some]
    · exact ⟨i, h.1, (s.instAt_putInst_other j hj).trans h.2⟩

theorem runWords_answers {s : State} {c : Cur} {i : Inst} (h : s.executes c i) : ∃ t, runWords c i s = .next t := by
  obtain ⟨j, hj⟩ | ⟨u, hu, hill⟩ | ⟨w, u, -, hu, hrun⟩ := runWith_spec (decodeWords c.w0 (c.w1.getD 0)) scalarDestination
    Sys2Proof.Machine.exec c i s
  · exact ⟨_, hj⟩
  · obtain ⟨j, hj⟩ := s.atWord_executes hu h
    obtain ⟨t, ht⟩ := exec_answers (.illegalInstruction c.w0 c.w1) hj
    exact ⟨t, hill.trans ht⟩
  · obtain ⟨j, hj⟩ := s.atWord_executes hu h
    obtain ⟨t, ht⟩ := exec_answers w hj
    exact ⟨t, hrun.trans ht⟩

theorem State.issue_answers (s : State) (site runner : Nat) : ∃ t, s.issue site runner = .next t := by
  unfold State.issue
  split
  · exact ⟨_, rfl⟩
  · rename_i i hi
    split
    · exact ⟨_, rfl⟩
    · split
      · split <;> exact ⟨_, rfl⟩
      · split
        · exact ⟨_, rfl⟩
        · split
          · exact exec_device_answers (w := .icacheFill site runner) rfl s
          · dsimp only
            split
            · exact ⟨_, rfl⟩
            · exact runWords_answers ⟨rfl, hi⟩
      · exact ⟨_, rfl⟩

theorem Due.run_answers (d : Due) (s : State) : ∃ t, d.run s = .next t := by
  cases d with
  | timer n => exact exec_device_answers (w := .timerExpiry n) rfl s
  | timeWord => exact exec_device_answers (w := .timeWordStore) rfl s

theorem advance_answers (m : Move) (s : State) : ∃ t, advance m s = .next t := by
  obtain ⟨site, runner, -, h⟩ | ⟨w, -, hw, h⟩ | h := advance_spec m s
  · exact h ▸ State.issue_answers _ site runner
  · exact h ▸ exec_device_answers hw _
  · exact ⟨s, h⟩

/-- Settles O8: a step is what is due, a step of the device, or a runner's issue, and each answers a next state. -/
theorem stepAnswersNext : Obligations.StepAnswersNext := by
  intro s
  obtain ⟨d, u, -, h⟩ | ⟨m, u, -, h⟩ := step_spec s
  · exact h ▸ d.run_answers u
  · exact h ▸ advance_answers m u

end Sys2Proof.Machine
end

section
namespace Sys2Proof.Machine
theorem execRds_keeps {d : Reg} {x : Special} : Keeps (execRds d x) := lift_keeps

theorem execFldFsw_keeps {d : Reg} : Keeps (execFldFsw d) := lift_keeps

/-- No instruction word changes the memories, nor SHADOW, TSEL and PLIM: its own effect waits in its instance (R40, R41). -/
theorem exec_word_keeps {w : Instr} (hw : Instr.isDevice w = false) : Keeps (Sys2Proof.Machine.exec w) := by
  cases w with
  | commit | tokenRetry | tokenAccept | tokenApply | descriptorLoad | parkReexamine | parkOverflowReadback |
  waitingSignalServe | frameFill | readyChoose | readyOverflowReturn | faultTokenDelivery | faultActionDelivery |
  completionSignal | loadPerform | storePerform | atomicPerform | prefetchPerform | pageWalk | localCacheFill |
  icacheFill | muPerform | muCompletion | carouselEntry | carouselResult | xldProcess | xldWaitRetry |
  graphLoadComplete | xunlComplete | configErrorReload | engineCommandStart | engineFaultStop |
  engineCommandComplete | tagwinRequest | tagwinInstall | launchInject | launchWave | launchWatchdog |
  launchKillMark | timerExpiry | timeWordStore | registerWrite | queueEnable | queueDisable | queueKick |
  f1bindWrite | apertureRead | apertureWrite | packetFetch | packetReread | packetStart | launchPacket |
  loadGraphPacket | memoryCopy | memoryFill | fencePacket | fencePoll | freezePacket | resumePacket |
  completionRecord | quantumExpiry | doorbell | pools | setPriority | setQuantum | setWatermark | attest |
  flashWrite | orphans | plimWrite | drainMarker | contextImageSave | contextRestore | restoreResume | haltComplete
  | tlbInvalidateComplete | pageEviction | hardwareError | droopDetect | droopRecovery | powerLimitStep |
  degradedExit | packageReset | vlpTokenReceive | vlpAcknowledge | torusProtocolError | engineElement |
  pcieCompletionTimeout =>
    cases hw
  | add => exact execAdd_keeps
  | sub => exact execSub_keeps
  | mul => exact execMul_keeps
  | mulhI64 => exact execMulhI64_keeps
  | mulhN64 => exact execMulhN64_keeps
  | divI64 => exact execDivI64_keeps
  | divN64 => exact execDivN64_keeps
  | remI64 => exact execRemI64_keeps
  | remN64 => exact execRemN64_keeps
  | and => exact execAnd_keeps
  | or => exact execOr_keeps
  | xor => exact execXor_keeps
  | andn => exact execAndn_keeps
  | shl => exact execShl_keeps
  | shr => exact execShr_keeps
  | sra => exact execSra_keeps
  | rol => exact execRol_keeps
  | ror => exact execRor_keeps
  | clz => exact execClz_keeps
  | ctz => exact execCtz_keeps
  | popc => exact execPopc_keeps
  | minI64 => exact execMinI64_keeps
  | maxI64 => exact execMaxI64_keeps
  | minN64 => exact execMinN64_keeps
  | maxN64 => exact execMaxN64_keeps
  | sel => exact execSel_keeps
  | clmul => exact execClmul_keeps
  | clmulh => exact execClmulh_keeps
  | bgat => exact execBgat_keeps
  | bsct => exact execBsct_keeps
  | madd => exact execMadd_keeps
  | msub => exact execMsub_keeps
  | sltI64 => exact execSltI64_keeps
  | sltN64 => exact execSltN64_keeps
  | seq => exact execSeq_keeps
  | sne => exact execSne_keeps
  | extdI8 => exact execExtdI8_keeps
  | extdI16 => exact execExtdI16_keeps
  | extdI32 => exact execExtdI32_keeps
  | extdN8 => exact execExtdN8_keeps
  | extdN16 => exact execExtdN16_keeps
  | extdN32 => exact execExtdN32_keeps
  | bswap => exact execBswap_keeps
  | addImm => exact execAddImm_keeps
  | andImm => exact execAndImm_keeps
  | orImm => exact execOrImm_keeps
  | xorImm => exact execXorImm_keeps
  | shlImm => exact execShlImm_keeps
  | shrImm => exact execShrImm_keeps
  | sraImm => exact execSraImm_keeps
  | rorImm => exact execRorImm_keeps
  | sltI64Imm => exact execSltI64Imm_keeps
  | sltN64Imm => exact execSltN64Imm_keeps
  | seqImm => exact execSeqImm_keeps
  | sneImm => exact execSneImm_keeps
  | mulImm => exact execMulImm_keeps
  | minI64Imm => exact execMinI64Imm_keeps
  | maxI64Imm => exact execMaxI64Imm_keeps
  | movi => exact execMovi_keeps
  | movh => exact execMovh_keeps
  | rds => exact execRds_keeps
  | fadd => exact execFadd_keeps
  | fsub => exact execFsub_keeps
  | fmul => exact execFmul_keeps
  | fdiv => exact execFdiv_keeps
  | fsqrt => exact execFsqrt_keeps
  | fma => exact execFma_keeps
  | fnma => exact execFnma_keeps
  | fmin => exact execFmin_keeps
  | fmax => exact execFmax_keeps
  | fceq => exact execFceq_keeps
  | fclt => exact execFclt_keeps
  | fcle => exact execFcle_keeps
  | fcvt => exact execFcvt_keeps
  | fcvti => exact execFcvti_keeps (_sat := false)
  | icvtf => exact execIcvtf_keeps
  | fneg => exact execFneg_keeps
  | fabs => exact execFabs_keeps
  | fsgn => exact execFsgn_keeps
  | fcls => exact execFcls_keeps
  | beq => exact execBeq_keeps
  | bne => exact execBne_keeps
  | bltI64 => exact execBltI64_keeps
  | bgeI64 => exact execBgeI64_keeps
  | bltN64 => exact execBltN64_keeps
  | bgeN64 => exact execBgeN64_keeps
  | bbs => exact execBbs_keeps
  | bbc => exact execBbc_keeps
  | beqImm => exact execBeqImm_keeps
  | bneImm => exact execBneImm_keeps
  | bltI64Imm => exact execBltI64Imm_keeps
  | bgeI64Imm => exact execBgeI64Imm_keeps
  | bltN64Imm => exact execBltN64Imm_keeps
  | bgeN64Imm => exact execBgeN64Imm_keeps
  | bbsImm => exact execBbsImm_keeps
  | bbcImm => exact execBbcImm_keeps
  | j => exact execJ_keeps
  | jt => exact execJt_keeps
  | fin => exact execFin_keeps
  | fld => exact execFld_keeps
  | fst => exact execFst_keeps
  | fldv => exact execFldv_keeps
  | fstv => exact execFstv_keeps
  | fldFsw => exact execFldFsw_keeps
  | sld => exact execSld_keeps
  | sst => exact execSst_keeps
  | sldv => exact execSldv_keeps
  | sstv => exact execSstv_keeps
  | sldx => exact execSldx_keeps
  | sstx => exact execSstx_keeps
  | samoAdd => exact execSamoAdd_keeps
  | samoAnd => exact execSamoAnd_keeps
  | samoOr => exact execSamoOr_keeps
  | samoXor => exact execSamoXor_keeps
  | samoMin => exact execSamoMin_keeps
  | samoMax => exact execSamoMax_keeps
  | samoSwap => exact execSamoSwap_keeps
  | samoCas => exact execSamoCas_keeps
  | vadd => exact execVadd_keeps
  | vsub => exact execVsub_keeps
  | vmul => exact execVmul_keeps
  | vmulh => exact execVmulh_keeps
  | vmin => exact execVmin_keeps
  | vmax => exact execVmax_keeps
  | vadds => exact execVadds_keeps
  | vsubs => exact execVsubs_keeps
  | vaddScalar => exact execVaddScalar_keeps
  | vsubScalar => exact execVsubScalar_keeps
  | vmulScalar => exact execVmulScalar_keeps
  | vmulhScalar => exact execVmulhScalar_keeps
  | vminScalar => exact execVminScalar_keeps
  | vmaxScalar => exact execVmaxScalar_keeps
  | vaddsScalar => exact execVaddsScalar_keeps
  | vsubsScalar => exact execVsubsScalar_keeps
  | vand => exact execVand_keeps
  | vor => exact execVor_keeps
  | vxor => exact execVxor_keeps
  | vandn => exact execVandn_keeps
  | vshl => exact execVshl_keeps
  | vshr => exact execVshr_keeps
  | vsra => exact execVsra_keeps
  | vrol => exact execVrol_keeps
  | vabs => exact execVabs_keeps
  | vneg => exact execVneg_keeps
  | vclz => exact execVclz_keeps
  | vpopc => exact execVpopc_keeps
  | vmadd => exact execVmadd_keeps
  | vsel => exact execVsel_keeps
  | vclmul => exact execVclmul_keeps
  | vclmulh => exact execVclmulh_keeps
  | vfadd => exact execVfadd_keeps
  | vfsub => exact execVfsub_keeps
  | vfmul => exact execVfmul_keeps
  | vfdiv => exact execVfdiv_keeps
  | vfma => exact execVfma_keeps
  | vfnma => exact execVfnma_keeps
  | vfmin => exact execVfmin_keeps
  | vfmax => exact execVfmax_keeps
  | vfaddScalar => exact execVfaddScalar_keeps
  | vfsubScalar => exact execVfsubScalar_keeps
  | vfmulScalar => exact execVfmulScalar_keeps
  | vfdivScalar => exact execVfdivScalar_keeps
  | vfmaScalar => exact execVfmaScalar_keeps
  | vfnmaScalar => exact execVfnmaScalar_keeps
  | vfminScalar => exact execVfminScalar_keeps
  | vfmaxScalar => exact execVfmaxScalar_keeps
  | vfsqrt => exact execVfsqrt_keeps
  | vfabs => exact execVfabs_keeps
  | vfneg => exact execVfneg_keeps
  | vfsgn => exact execVfsgn_keeps
  | vfrnd => exact execVfrnd_keeps
  | vfcls => exact execVfcls_keeps
  | vcvt => exact execVcvt_keeps
  | vcvtn => exact execVcvtn_keeps
  | vcvtw => exact execVcvtw_keeps
  | vqmx => exact execVqmx_keeps
  | vqq4 => exact execVqq4_keeps
  | vdqmx => exact execVdqmx_keeps
  | vdqq4 => exact execVdqq4_keeps
  | vceq => exact execVceq_keeps
  | vcne => exact execVcne_keeps
  | vclt => exact execVclt_keeps
  | vcle => exact execVcle_keeps
  | vcgt => exact execVcgt_keeps
  | vcge => exact execVcge_keeps
  | vceqScalar => exact execVceqScalar_keeps
  | vcneScalar => exact execVcneScalar_keeps
  | vcltScalar => exact execVcltScalar_keeps
  | vcleScalar => exact execVcleScalar_keeps
  | vcgtScalar => exact execVcgtScalar_keeps
  | vcgeScalar => exact execVcgeScalar_keeps
  | vperm => exact execVperm_keeps
  | vbcst => exact execVbcst_keeps
  | vslup => exact execVslup_keeps
  | vsldn => exact execVsldn_keeps
  | vcompr => exact execVcompr_keeps
  | vexpn => exact execVexpn_keeps
  | vzip => exact execVzip_keeps
  | vunzip => exact execVunzip_keeps
  | vredAdd => exact execVredAdd_keeps
  | vredMin => exact execVredMin_keeps
  | vredMax => exact execVredMax_keeps
  | vredAnd => exact execVredAnd_keeps
  | vredOr => exact execVredOr_keeps
  | vredXor => exact execVredXor_keeps
  | vscanAdd => exact execVscanAdd_keeps
  | vscanMin => exact execVscanMin_keeps
  | vscanMax => exact execVscanMax_keeps
  | vscanXor => exact execVscanXor_keeps
  | mand => exact execMand_keeps
  | mor => exact execMor_keeps
  | mxor => exact execMxor_keeps
  | mandn => exact execMandn_keeps
  | mnot => exact execMnot_keeps
  | mpopc => exact execMpopc_keeps
  | mgets => exact execMgets_keeps
  | msets => exact execMsets_keeps
  | vmov => exact execVmov_keeps
  | vins => exact execVins_keeps
  | vext => exact execVext_keeps
  | vmovLane => exact execVmovLane_keeps
  | mzero => exact execMzero_keeps
  | mma => exact execMma_keeps
  | mmaSp => exact execMmaSp_keeps
  | mld => exact execMld_keeps
  | mst => exact execMst_keeps
  | mrd => exact execMrd_keeps
  | mrdx => exact execMrdx_keeps
  | xop => exact execXop_keeps
  | xld => exact execXld_keeps
  | xunl => exact execXunl_keeps
  | xq => exact execXq_keeps
  | send => exact execSend_keeps
  | sendv => exact execSendv_keeps
  | sig => exact execSig_keeps
  | sw => exact execSw_keeps
  | rearm => exact execRearm_keeps
  | fret => exact execFret_keeps
  | tagwin => exact execTagwin_keeps
  | mkref => exact execMkref_keeps
  | ld => exact execLd_keeps
  | ldLc => exact execLdLc_keeps
  | st => exact execSt_keeps
  | vld => exact execVld_keeps
  | vldStr => exact execVldStr_keeps
  | vldIdx => exact execVldIdx_keeps
  | vst => exact execVst_keeps
  | vstStr => exact execVstStr_keeps
  | pf => exact execPf_keeps
  | pfLc => exact execPfLc_keeps
  | gamoAdd => exact execGamoAdd_keeps
  | gamoAnd => exact execGamoAnd_keeps
  | gamoOr => exact execGamoOr_keeps
  | gamoXor => exact execGamoXor_keeps
  | gamoMinSigned => exact execGamoMinSigned_keeps
  | gamoMaxSigned => exact execGamoMaxSigned_keeps
  | gamoMinUnsigned => exact execGamoMinUnsigned_keeps
  | gamoMaxUnsigned => exact execGamoMaxUnsigned_keeps
  | gamoSwap => exact execGamoSwap_keeps
  | gamoCas => exact execGamoCas_keeps
  | gamoFadd => exact execGamoFadd_keeps
  | fence => exact execFence_keeps
  | cpy => exact execCpy_keeps
  | gth => exact execGth_keeps
  | sct => exact execSct_keeps
  | isect => exact execIsect_keeps
  | smerge => exact execSmerge_keeps
  | cmpct => exact execCmpct_keeps
  | rply => exact execRply_keeps
  | rsup => exact execRsup_keeps
  | kill => exact execKill_keeps
  | killL => exact execKillL_keeps
  | frr => exact execFrr_keeps
  | tlbi => exact execTlbi_keeps
  | tlbia => exact execTlbia_keeps
  | ctxsv => exact execCtxsv_keeps
  | ctxrs => exact execCtxrs_keeps
  | halt => exact execHalt_keeps
  | rdsr => exact execRdsr_keeps
  | wrsr => exact execWrsr_keeps
  | illegalInstruction => exact execIllegalInstruction_keeps (_w0 := 0) (_w1 := none)

/-- Settles O7: every instruction word keeps what `State.kept` holds. -/
theorem effectsArePending : Obligations.EffectsArePending := by
  intro w s t hw h
  simpa [State.kept] using exec_word_keeps hw s t h

/-! ### The issue of an instruction -/

theorem runWith_eq_of_no_substitution {D : Type} {x : Option D} {dest : D → Option Reg} {run : D → State → Out} {c : Cur}
    {i : Inst} {s : State} (h : ∀ y, i.subst = some y → y.1 ≠ i.dyn) :
    runWith x dest run c i s = match x with
      | none => execIllegalInstruction c.w0 c.w1 s
      | some d => if i.site = ringmaster ∧ !ringRuns (opcodeOf c.w0 (c.w1.getD 0)) then
          execIllegalInstruction c.w0 c.w1 s else run d s := by
  unfold runWith
  dsimp only
  split
  · cases x <;> rfl
  · rename_i didx sop v hsub
    refine (if_pos (by simpa using h _ hsub)).trans ?_
    cases x <;> rfl

theorem runWith_substituted {D : Type} {x : Option D} {dest : D → Option Reg} {run : D → State → Out} {c : Cur}
    {i : Inst} {s : State} {v : W64} (h : i.subst = some (i.dyn, opcodeOf c.w0 (c.w1.getD 0), v)) :
    runWith x dest run c i s = .next (s.putInst (match x.bind dest with
      | some d => ({ i with subst := none }.past c).setS d v
      | none => { i with subst := none }.past c)) := by
  unfold runWith
  simp [h] <;> rfl

/-- The issue of a runner whose instance is running, its frame in the matching store and its words in the instruction
cache. -/
theorem State.issue_of_fetched {s : State} {site runner : Nat} {i : Inst} {w0 : Word} {w1 : Option Word}
    (hrm : site = ringmaster → s.hw.rmHalted = false) (hi : s.instAt site runner = some i) (hph : i.phase = .running)
    (hlife : (s.frameOf i).life ≠ .spilled) (hf : s.fetched i = some (w0, w1)) :
    s.issue site runner = if 256 ≤ i.dyn then
        .next (s.takeFault i ((⟨site, runner, i.pc, w0, w1⟩ : Cur).at_ i) { cause := .threadletLength })
      else runWords ⟨site, runner, i.pc, w0, w1⟩ i { s with cur := some ⟨site, runner, i.pc, w0, w1⟩ } := by
  have hnot : ¬(site = ringmaster ∧ s.hw.rmHalted = true) := fun h => by simp [hrm h.1] at h
  unfold State.issue
  rw [hi]
  dsimp only
  rw [if_neg hnot, hph]
  dsimp only
  rw [if_neg hlife, hf]

theorem execIllegalInstruction_of_executes {s : State} {c : Cur} {i : Inst} (h : s.executes c i) (w0 : Word)
    (w1 : Option Word) :
    execIllegalInstruction w0 w1 s = .next (s.takeFault i (c.at_ i) { cause := .illegalInstruction }) :=
  lift_error h rfl

/-- Settles O5: the branches of `State.issue` and of `runWith` for a runner that has its words. -/
theorem issueExceptions : Obligations.IssueExceptions := by
  refine ⟨fun w0 w1 s c i h _ => execIllegalInstruction_of_executes h w0 w1, ?_⟩
  intro s site runner i w0 w1 hrm hi hph hlife hf c u
  have hex : u.executes c i := ⟨rfl, hi⟩
  have hissue := State.issue_of_fetched hrm hi hph hlife hf
  refine ⟨fun h => hissue.trans (if_pos h), fun hdyn hsub hnone => ?_, fun v instr hdyn hsub hdec => ?_⟩
  · rw [hissue, if_neg (by omega), ← execIllegalInstruction_of_executes hex w0 w1]
    refine (runWith_eq_of_no_substitution hsub).trans ?_
    obtain hnone | ⟨hring, hruns⟩ := hnone
    · rw [hnone]
    · cases decodeWords w0 (w1.getD 0) with
      | none => rfl
      | some instr => exact if_pos ⟨(State.instAt_site hi).1.trans hring, congrArg not hruns⟩
  · rw [hissue, if_neg (by omega)]
    unfold runWords
    rw [runWith_substituted hsub, hdec]
    rfl

theorem State.fetched_of_cachedWord {s : State} {i : Inst} {w0 : Word} {w1 : Option Word}
    (h0 : s.cachedWord i.site i.key.ctx i.pc = some w0)
    (h1 : isPrefix w0 = false ∧ w1 = none ∨
      isPrefix w0 = true ∧ ∃ w, w1 = some w ∧ s.cachedWord i.site i.key.ctx (i.pc + 4) = some w) :
    s.fetched i = some (w0, w1) := by
  unfold State.fetched
  rw [h0]
  dsimp only
  obtain ⟨hp, rfl⟩ | ⟨hp, w, rfl, hw⟩ := h1
  · rw [if_neg (by simp [hp])]
  · rw [if_pos hp, hw]
    rfl

theorem foldl_min_ge {α : Type} (f : α → Nat) (l : List α) {m t : Nat} (h : m ≤ t) :
    m ≤ l.foldl (fun t e => min t (max m (f e))) t := by
  induction l generalizing t with
  | nil => exact h
  | cons a l ih => exact ih (Nat.le_min.mpr ⟨h, Nat.le_max_left _ _⟩)

/-- RTIME does not go back. -/
theorem State.rtime_le_laterTime (s : State) (n : Nat) : s.sys.rtime ≤ s.laterTime n := by
  unfold State.laterTime
  refine foldl_min_ge _ _ ?_
  split <;> omega

theorem step_of_issue {s : State} {site runner : Nat} {rest : List Move} (hag : s.agenda = .issue site runner :: rest)
    (hdue : s.due = none) (hdue' : s.elapse.due = none) :
    step s = ({ s.elapse with agenda := rest }.clockSite site).issue site runner := by
  have hmove : s.elapse.nextMove = (.issue site runner, { s.elapse with agenda := rest }) := by
    unfold State.nextMove
    rw [s.elapse_agenda, hag]
  unfold step
  rw [hdue]
  dsimp only
  rw [hdue']
  dsimp only
  rw [hmove]
  rfl

/-- Settles O4: `step`, `advance` and the issue of a runner that has its words, one after the other. -/
theorem stepRunsDecoded : Obligations.StepRunsDecoded := by
  refine ⟨fun s => ⟨fun n h => ?_, fun h => ?_⟩, ?_⟩
  · unfold step
    rw [h]
    rfl
  · unfold step
    rw [h]
    rfl
  intro s site runner rest i w0 w1 instr hag hdue hdue' hrm hi hph hlife hdyn hsub hw0 hw1 hdec hring c u
  refine ⟨?_, ⟨rfl, hi⟩, rfl, s.rtime_le_laterTime _, rfl⟩
  have hfetched : ({ s.elapse with agenda := rest }.clockSite site).fetched i = some (w0, w1) :=
    State.fetched_of_cachedWord hw0 hw1
  have hissue := State.issue_of_fetched (s := { s.elapse with agenda := rest }.clockSite site) hrm hi hph hlife hfetched
  refine (step_of_issue hag hdue hdue').trans (hissue.trans ?_)
  rw [if_neg (by omega)]
  refine (runWith_eq_of_no_substitution hsub).trans ?_
  rw [hdec]
  exact if_neg fun h => absurd (h.2.symm.trans (congrArg not (hring ((State.instAt_site hi).1.symm.trans h.1)))) (by decide)

end Sys2Proof.Machine
end

section
/-! Loads of descriptors and walks (R302, R303, R386, R410), the checks of frame references (R23, R241, R345) and the sending
instructions (R240, R242). -/

namespace Sys2Proof.Machine

/-! ### What loads and walks change -/

theorem State.onlyLoads_refl (s : State) : s.onlyLoads s := ⟨⟨Frame.desc, (List.map_id _).symm⟩, rfl⟩

theorem State.onlyLoads_trans {s t u : State} (hst : s.onlyLoads t) (htu : t.onlyLoads u) : s.onlyLoads u := by
  obtain ⟨⟨g, hg⟩, hs⟩ := hst
  obtain ⟨⟨g', hg'⟩, ht⟩ := htu
  refine ⟨⟨fun f => g' { f with desc := g f }, ?_⟩, ?_⟩
  · rw [hg', hg, List.map_map]
    rfl
  · rw [← ht] at hs
    exact hs

/-- A state in which only translations are kept beside. -/
theorem State.onlyLoads_of_walks {s t : State} (h : { t with tlb := s.tlb, ctl := { t.ctl with walks := s.ctl.walks } } = s) :
    s.onlyLoads t := by
  refine ⟨⟨Frame.desc, ?_⟩, ?_⟩
  · rw [← h]
    exact (List.map_id _).symm
  · rw [← h]

theorem State.noteFetch_onlyLoads (s : State) (site ctx va : Nat) : s.onlyLoads (s.noteFetch site ctx va) := by
  unfold State.noteFetch
  split
  · exact s.onlyLoads_refl
  · split
    · split <;> exact State.onlyLoads_of_walks rfl
    · exact s.onlyLoads_refl

theorem State.installDesc_onlyLoads (s : State) (site ctx cb : Nat) (d : Desc) :
    s.onlyLoads (s.installDesc site ctx cb d) := by
  refine ⟨⟨fun f => (if f.site == site && f.key.ctx == ctx && f.key.cb == cb then f.under d else f).desc,
    List.map_congr_left fun f _ => ?_⟩, rfl⟩
  dsimp only
  split <;> rfl

theorem State.loadDesc_onlyLoads (s : State) (site ctx cb : Nat) : s.onlyLoads (s.loadDesc site ctx cb).1 := by
  unfold State.loadDesc
  split
  · exact s.onlyLoads_refl
  · split
    · exact s.onlyLoads_refl
    · split
      · exact s.onlyLoads_refl
      · have hnote := fun va => s.noteFetch_onlyLoads site ctx va
        dsimp only
        split
        · exact hnote _
        · split
          · exact hnote _
          · dsimp only
            split
            · exact State.onlyLoads_trans (hnote _) (State.installDesc_onlyLoads ..)
            · exact hnote _

theorem State.notePlacement_onlyLoads (s : State) (site : Nat) (d : Desc) (ctx : Nat) (tag : BitVec 32) :
    s.onlyLoads (s.notePlacement site d ctx tag) := by
  unfold State.notePlacement
  split
  · exact s.noteFetch_onlyLoads ..
  · exact s.onlyLoads_refl

theorem State.resolveHome_onlyLoads (s : State) (site : Nat) (l : List Nat) (ctx cb : Nat) (tag : BitVec 32) :
    s.onlyLoads (s.resolveHome site l ctx cb tag).1 := by
  have hload := s.loadDesc_onlyLoads site ctx cb
  unfold State.resolveHome
  dsimp only
  split
  · exact hload
  · exact State.onlyLoads_trans hload (State.notePlacement_onlyLoads ..)

theorem State.checkDesc_onlyLoads (s : State) (site ctx : Nat) (r : W64) (needed ring : Bool) :
    s.onlyLoads (s.checkDesc site ctx r needed ring).1 := by
  unfold State.checkDesc
  split
  · exact s.loadDesc_onlyLoads ..
  · exact s.onlyLoads_refl

theorem State.checkRef_onlyLoads (s : State) (site ctx : Nat) (r : W64) (need : Bool) :
    s.onlyLoads (s.checkRef site ctx r need).1 := by
  have hdesc := fun need ring => s.checkDesc_onlyLoads site ctx r need ring
  unfold State.checkRef
  dsimp only
  repeat' split
  all_goals simp only [hdesc, s.onlyLoads_refl]

/-! ### The checks of a reference -/

theorem wfield_eq (w : W64) (lo n : Nat) : wfield w lo n = w.toNat / 2 ^ lo % 2 ^ n := rfl

theorem wbit_eq_getLsbD (w : W64) (n : Nat) : wbit w n = w.getLsbD n := by
  rw [wbit, wfield_eq, BitVec.getLsbD, Nat.testBit_eq_decide_div_mod_eq]
  rfl

/-- The reserved bits of a reference (R23). -/
theorem wfield_reserved (r : W64) : wfield r 57 7 = r.toNat / 2 ^ 57 := by
  rw [wfield_eq]
  omega

theorem State.checkDesc_of_loaded {s s1 : State} {site ctx : Nat} {r : W64} {d : Desc} {needed : Bool} (ring : Bool)
    (hn : needed = true) (h : s.loadDesc site ctx (wfield r 32 12) = (s1, .ok d)) :
    s.checkDesc site ctx r needed ring = (s1, .ok ⟨d.large, none, ring⟩) := by
  rw [State.checkDesc, if_pos hn, h]
  rfl

theorem State.checkDesc_of_failed {s s1 : State} {site ctx : Nat} {r : W64} {t : Trap} {needed : Bool} (ring : Bool)
    (hn : needed = true) (h : s.loadDesc site ctx (wfield r 32 12) = (s1, .error t)) :
    s.checkDesc site ctx r needed ring = (s1, .error t) := by
  rw [State.checkDesc, if_pos hn, h]
  rfl

theorem State.checkDesc_of_not_needed (s : State) (site ctx : Nat) (r : W64) {needed : Bool} (ring : Bool)
    (hn : needed = false) : s.checkDesc site ctx r needed ring = (s, .ok ⟨false, none, ring⟩) := by
  rw [State.checkDesc, if_neg (by simp [hn])]

section
variable {s : State} {site ctx : Nat} {r : W64} {need : Bool}

theorem State.checkRef_of_reserved (h : r.toNat / 2 ^ 57 ≠ 0) :
    s.checkRef site ctx r need = (s, .error { cause := .placementFault }) := by
  unfold State.checkRef
  dsimp only
  rw [if_pos (by rwa [wfield_reserved])]

/-- A CELLV-1 reference to a cell outside the sender's partition. -/
def State.strays (s : State) (ctx : Nat) (r : W64) : Bool := wbit r 55 && !(s.senderCells ctx).contains (wfield r 44 11)

theorem State.strays_eq_true : s.strays ctx r = true ↔
    r.getLsbD 55 = true ∧ r.toNat / 2 ^ 44 % 2 ^ 11 ∉ s.senderCells ctx := by
  simp [State.strays, wbit_eq_getLsbD, wfield_eq]

theorem State.strays_eq_false : s.strays ctx r = false ↔
    r.getLsbD 55 = false ∨ r.toNat / 2 ^ 44 % 2 ^ 11 ∈ s.senderCells ctx := by
  rw [← Bool.not_eq_true, State.strays_eq_true, not_and_or, not_not, Bool.not_eq_true]

variable (h57 : r.toNat / 2 ^ 57 = 0)
include h57

theorem State.checkRef_of_absent (hcb : s.codeblock ctx (wfield r 32 12) = none) :
    s.checkRef site ctx r need =
      if s.strays ctx r then (s, .error { cause := .placementFault }) else (s, .error { cause := .codeblockAbsent }) := by
  unfold State.checkRef
  dsimp only
  rw [if_neg (not_not.mpr ((wfield_reserved r).trans h57)), hcb]
  rfl

variable {b : Codeblock} (hcb : s.codeblock ctx (wfield r 32 12) = some b)
include hcb

theorem State.checkRef_of_ring (hring : b.ring = true) :
    s.checkRef site ctx r need = s.checkDesc site ctx r (need || !r.getLsbD 55) true := by
  unfold State.checkRef
  dsimp only
  rw [if_neg (not_not.mpr ((wfield_reserved r).trans h57)), hcb]
  dsimp only
  rw [if_pos hring, wbit_eq_getLsbD]

variable (hring : b.ring = false)
include hring

theorem State.checkRef_of_strays (hstray : s.strays ctx r = true) :
    s.checkRef site ctx r need = (s, .error { cause := .placementFault }) := by
  unfold State.checkRef
  dsimp only
  rw [if_neg (not_not.mpr ((wfield_reserved r).trans h57)), hcb]
  dsimp only
  rw [if_neg (by simp [hring])]
  exact if_pos hstray

theorem State.checkRef_of_remote (hstray : s.strays ctx r = false) {m : Remote} (hrem : b.remote = some m) :
    s.checkRef site ctx r need =
      if r.getLsbD 55 then (s, .error { cause := .placementFault })
      else if !b.sound then (s, .error { cause := .codeblockDesc })
      else (s, .ok ⟨m.large, some m, false⟩) := by
  unfold State.checkRef
  dsimp only
  rw [if_neg (not_not.mpr ((wfield_reserved r).trans h57)), hcb]
  dsimp only
  rw [if_neg (by simp [hring])]
  refine (if_neg (by simpa [State.strays] using hstray)).trans ?_
  rw [hrem, wbit_eq_getLsbD]

theorem State.checkRef_of_local (hstray : s.strays ctx r = false) (hrem : b.remote = none) :
    s.checkRef site ctx r need =
      if site = ringmaster ∧ r.getLsbD 55 = false then (s, .error { cause := .placementFault })
      else s.checkDesc site ctx r (need || !r.getLsbD 55) false := by
  unfold State.checkRef
  dsimp only
  rw [if_neg (not_not.mpr ((wfield_reserved r).trans h57)), hcb]
  dsimp only
  rw [if_neg (by simp [hring])]
  refine (if_neg (by simpa [State.strays] using hstray)).trans ?_
  rw [hrem, wbit_eq_getLsbD]
  simp

end

/-! ### Sending -/

theorem Cur.place_past (c : Cur) (i : Inst) : c.place (i.past c) = c.at_ i := rfl

section
variable {s s1 : State} {c : Cur} {i : Inst} {r : W64} {need : Bool} {ok : Bool → Bool} {idx : Nat} {mk : Checked → Token}

theorem sendTo_of_failed {t : Trap} (h : s.checkRef i.site i.key.ctx r need = (s1, .error t)) :
    sendTo s (i.past c) c r need ok idx mk = (s1, .error t) := by
  rw [sendTo, Inst.past_site, Inst.past_key, h]
  rfl

variable {k : Checked} (h : s.checkRef i.site i.key.ctx r need = (s1, .ok k))
include h

theorem sendTo_of_range (hn : need = true) (hok : ok k.large = false) :
    sendTo s (i.past c) c r need ok idx mk = (s1, .error { cause := .frameRange, value := BitVec.ofNat 64 idx }) := by
  rw [sendTo, Inst.past_site, Inst.past_key, h]
  dsimp only [bind, Except.bind]
  rw [hn, hok]
  rfl

theorem sendTo_of_checked (hok : need = true → ok k.large = true) :
    sendTo s (i.past c) c r need ok idx mk = (s1, (i.past c).effect (.token (mk k) (r.getLsbD 55) (c.at_ i))) := by
  rw [sendTo, Inst.past_site, Inst.past_key, h, wbit_eq_getLsbD, Cur.place_past]
  have hok' : (need && !ok k.large) = false := by
    cases need with
    | false => rfl
    | true => simp [hok]
  dsimp only [bind, Except.bind]
  rw [hok']
  rfl

theorem sendTo_of_budget (hok : need = true → ok k.large = true) (hn : 32 ≤ i.nEff) :
    sendTo s (i.past c) c r need ok idx mk = (s1, .error { cause := .effectBudget }) := by
  rw [sendTo_of_checked h hok, Inst.effect_error (by rw [Inst.past_nEff]; omega)]

theorem sendTo_of_sent (hok : need = true → ok k.large = true) (hn : i.nEff < 32) :
    sendTo s (i.past c) c r need ok idx mk =
      (s1, .ok ((i.past c).withEffect (.token (mk k) (r.getLsbD 55) (c.at_ i)))) := by
  rw [sendTo_of_checked h hok, Inst.effect_ok (by rw [Inst.past_nEff]; omega)]
  rfl

end

/-- What a sent token holds (R237, R240). -/
theorem sentToken_fields (i : Inst) (f : Frame) (r : W64) (k : Checked) (slot : SlotNo) (kind idx : Nat)
    (rels : Option Scope) (p : Payload) :
    let t := sentToken i f r k slot kind idx rels p
    t.key = ⟨i.key.ctx, (r.toNat / 2 ^ 32) % 2 ^ 12, r.setWidth 32⟩ ∧ t.slot = slot.toNat ∧ t.kind = kind ∧ t.idx = idx ∧
      t.rels = rels ∧ t.payload = p ∧ t.epoch = r.getLsbD 56 ∧ t.lid = f.lid ∧ t.scell = i.site ∧
      t.source = .send ∧ t.phase = .offered ∧ t.committed = false ∧
      t.dcell = (if k.ring then ringmaster else (r.toNat / 2 ^ 44) % 2 ^ 11) ∧
      t.remote = k.remote.map (fun m => (m.pkg, m.port)) :=
  ⟨rfl, rfl, rfl, rfl, rfl, rfl, wbit_eq_getLsbD r 56, rfl, rfl, rfl, rfl, rfl, rfl, rfl⟩

section
variable (a b p : Reg) (slot : SlotNo) (rels : Option Scope) (s : State)

theorem exec_send (idx : BitVec 8) : Sys2Proof.Machine.exec (.send a b slot idx rels) s = liftS (fun s i c =>
    sendTo s i c (i.getS a) true (fun large => large || decide (idx.toNat < 64)) idx.toNat (fun k =>
      sentToken i (s.frameOf i) (i.getS a) k slot 1 idx.toNat rels (.word (i.getS b)))) s := rfl

theorem exec_sendv (idx : BitVec 3) : Sys2Proof.Machine.exec (.sendv a b slot idx rels) s = liftS (fun s i c =>
    sendTo s i c (i.getS a) true (fun large => large) idx.toNat (fun k =>
      sentToken i (s.frameOf i) (i.getS a) k slot 2 idx.toNat rels (.vector (i.getV b) 0))) s := rfl

theorem exec_sig : Sys2Proof.Machine.exec (.sig a slot rels) s =
    liftS (fun s i c => signalTo s i c (i.getS a) slot rels) s := rfl

theorem exec_sw : Sys2Proof.Machine.exec (.sw p a b slot rels) s =
    liftS (fun s i c => signalTo s i c (if i.getS p ≠ 0 then i.getS a else i.getS b) slot rels) s := rfl

end

section
variable {s s1 : State} {c : Cur} {i : Inst} {r : W64}

theorem signalTo_of_checked {k : Checked} (h : s.checkRef i.site i.key.ctx r false = (s1, .ok k)) (hn : i.nEff < 32)
    (slot : SlotNo) (rels : Option Scope) :
    signalTo s (i.past c) c r slot rels = (s1, .ok ((i.past c).withEffect (.token
      (sentToken (i.past c) (s.frameOf i) r k slot 0 0 rels .none) (r.getLsbD 55) (c.at_ i)))) :=
  sendTo_of_sent h (fun h => by cases h) hn

theorem signalTo_of_failed {t : Trap} (h : s.checkRef i.site i.key.ctx r false = (s1, .error t)) (slot : SlotNo)
    (rels : Option Scope) : signalTo s (i.past c) c r slot rels = (s1, .error t) :=
  sendTo_of_failed h

end

/-- Settles O39: each form is `sendTo` with a token of its kind. -/
theorem sendForms : Obligations.SendForms := by
  intro s c i hx hn p a b slot rels s1 k
  refine ⟨fun idx h hok => ⟨_, ?_, sentToken_fields ..⟩, fun idx h hok => ⟨_, ?_, sentToken_fields ..⟩,
    fun h => ⟨_, ?_, sentToken_fields ..⟩, fun hp h => ⟨_, ?_, sentToken_fields ..⟩,
    fun hp h => ⟨_, ?_, sentToken_fields ..⟩⟩
  · exact (exec_send ..).trans (liftS_ok hx (sendTo_of_sent h (fun _ => by simpa using hok) hn))
  · exact (exec_sendv ..).trans (liftS_ok hx (sendTo_of_sent h (fun _ => hok) hn))
  · exact (exec_sig ..).trans (liftS_ok hx (signalTo_of_checked h hn slot rels))
  · refine (exec_sw ..).trans (liftS_ok hx ?_)
    rw [Inst.past_getS, if_pos hp]
    exact signalTo_of_checked h hn slot rels
  · refine (exec_sw ..).trans (liftS_ok hx ?_)
    rw [Inst.past_getS, if_neg (not_not.mpr hp)]
    exact signalTo_of_checked h hn slot rels

/-- Settles O40: the branches of `checkRef`, each by its lemma, and what `sendTo` makes of its answer. -/
theorem referenceChecks : Obligations.ReferenceChecks := by
  refine ⟨fun s site ctx r need => ⟨State.checkRef_of_reserved, ?_, ?_, ?_, ?_, ?_, ?_, s.checkRef_onlyLoads site ctx r need⟩, ?_⟩
  · intro h57 hcb hin
    rw [State.checkRef_of_absent h57 hcb, if_neg]
    rw [State.strays_eq_false.mpr hin]
    decide
  · intro h57 hv hout hring
    have hstray : s.strays ctx r = true := State.strays_eq_true.mpr ⟨hv, hout⟩
    cases hcb : s.codeblock ctx (wfield r 32 12) with
    | none => rw [State.checkRef_of_absent h57 hcb, if_pos hstray]
    | some b => exact State.checkRef_of_strays h57 hcb (hring b hcb) hstray
  · intro b s1 d h57 hcb hring hrem hsite hin hload hneed
    rw [State.checkRef_of_local h57 hcb hring (State.strays_eq_false.mpr hin) hrem, if_neg (fun h => hsite h.1)]
    exact State.checkDesc_of_loaded false (by simpa using hneed) hload
  · intro b h57 hcb hrem hin hrm
    have hcheck : s.checkRef site ctx r need = s.checkDesc site ctx r (need || !r.getLsbD 55) b.ring := by
      cases hring : b.ring with
      | true => exact State.checkRef_of_ring h57 hcb hring
      | false =>
        rw [State.checkRef_of_local h57 hcb hring (State.strays_eq_false.mpr (hin hring)) hrem, if_neg]
        intro h
        rw [hrm hring h.1] at h
        cases h.2
    refine ⟨fun s1 d hneed hload => ?_, fun s1 t hneed hload => ?_, fun hneed hv => ?_⟩
    · exact hcheck.trans (State.checkDesc_of_loaded _ (by simpa using hneed) hload)
    · exact hcheck.trans (State.checkDesc_of_failed _ (by simpa using hneed) hload)
    · exact hcheck.trans (State.checkDesc_of_not_needed s site ctx r _ (by simp [hneed, hv]))
  · intro b h57 hcb hring hrem hsite hv
    rw [State.checkRef_of_local h57 hcb hring (State.strays_eq_false.mpr (.inl hv)) hrem, if_pos ⟨hsite, hv⟩]
  · intro b m h57 hcb hring hrem
    refine ⟨fun hv hin => ?_, fun hv hsound => ?_, fun hv hsound => ?_⟩
    · rw [State.checkRef_of_remote h57 hcb hring (State.strays_eq_false.mpr (.inr hin)) hrem, if_pos hv]
    · rw [State.checkRef_of_remote h57 hcb hring (State.strays_eq_false.mpr (.inl hv)) hrem, if_neg (Bool.eq_false_iff.mp hv),
        if_pos (by simp [hsound])]
    · rw [State.checkRef_of_remote h57 hcb hring (State.strays_eq_false.mpr (.inl hv)) hrem, if_neg (Bool.eq_false_iff.mp hv),
        if_neg (by simp [hsound])]
  · intro s s1 c i hx p a b slot rels
    refine ⟨fun t => ⟨fun h => ?_, fun h => ?_, fun h => ⟨fun idx => ?_, fun idx => ?_⟩⟩, fun k h =>
      ⟨fun idx hl hidx => ?_, fun idx hok hn => ?_, fun idx hl => ?_, fun idx hl hn => ?_⟩⟩
    · exact (exec_sig ..).trans (liftS_error hx (signalTo_of_failed h slot rels))
    · exact (exec_sw ..).trans (liftS_error hx (signalTo_of_failed h slot rels))
    · exact (exec_send ..).trans (liftS_error hx (sendTo_of_failed h))
    · exact (exec_sendv ..).trans (liftS_error hx (sendTo_of_failed h))
    · rw [← BitVec.ofNat_toNat 64 idx]
      refine (exec_send ..).trans (liftS_error hx (sendTo_of_range h rfl ?_))
      simpa [hl] using hidx
    · exact (exec_send ..).trans (liftS_error hx (sendTo_of_budget h (fun _ => by simpa using hok) hn))
    · rw [← BitVec.ofNat_toNat 64 idx]
      exact (exec_sendv ..).trans (liftS_error hx (sendTo_of_range h rfl hl))
    · exact (exec_sendv ..).trans (liftS_error hx (sendTo_of_budget h (fun _ => hl) hn))

end Sys2Proof.Machine
end

section
/-! The end of a run (R34, R41, R158, R165, R243): the homes of its tokens, their offering, and the retry. -/

namespace Sys2Proof.Machine

theorem State.homeOf_onlyLoads (s : State) (i : Inst) (t : Token) (cellv : Bool) :
    s.onlyLoads (s.homeOf i t cellv).1 := by
  unfold State.homeOf
  dsimp only
  split
  · exact s.onlyLoads_refl
  · split
    · exact s.onlyLoads_refl
    · split
      · exact s.onlyLoads_refl
      · exact s.resolveHome_onlyLoads ..

theorem State.homes_onlyLoads (i : Inst) (es : List (EffBody × Nat)) (s : State) : s.onlyLoads (s.homes i es).1 := by
  induction es generalizing s with
  | nil => exact s.onlyLoads_refl
  | cons e es ih =>
    obtain ⟨e, k⟩ := e
    cases e with
    | token t cellv w =>
      have hhome := s.homeOf_onlyLoads i t cellv
      rw [State.homes]
      split
      · rename_i h
        rwa [h] at hhome
      · rename_i h
        rw [h] at hhome
        exact State.onlyLoads_trans hhome (ih _)
    | _ => exact ih s

/-- The homes of an instance's tokens do not depend on its reservation. -/
theorem State.homes_reserved (i : Inst) (b : Bool) (es : List (EffBody × Nat)) (s : State) :
    s.homes { i with reserved := b } es = s.homes i es := by
  induction es generalizing s with
  | nil => rfl
  | cons e es ih =>
    obtain ⟨e, k⟩ := e
    cases e with
    | token t cellv w =>
      have hhome : s.homeOf { i with reserved := b } t cellv = s.homeOf i t cellv := rfl
      rw [State.homes, State.homes, hhome]
      split
      · rfl
      · rw [ih]
    | _ => exact ih s

/-- A token without the numbers that its sending gives it. -/
def Token.unnumbered (t : Token) : Token := { t with id := 0, arrival := 0 }

/-- Offering adds the tokens, in their order and numbered, and changes nothing else. -/
theorem State.offer_spec (ts : List Token) (s : State) :
    ∃ added n, s.offer ts = { s with tokens := s.tokens ++ added, nextId := n } ∧
      added.map Token.unnumbered = ts.map Token.unnumbered := by
  induction ts generalizing s with
  | nil => exact ⟨[], s.nextId, by simp [State.offer], rfl⟩
  | cons t ts ih =>
    obtain ⟨added, n, h, hmap⟩ := ih (s.sendToken t)
    refine ⟨{ t with id := s.nextId, arrival := s.nextId } :: added, n, ?_, ?_⟩
    · rw [State.offer, List.foldl_cons, ← State.offer, h]
      simp [State.sendToken]
    · rw [List.map_cons, List.map_cons, hmap]
      rfl

theorem State.unpins_spec (site : Nat) (pins : List Nat) (s : State) :
    ∃ g, pins.foldl (fun s n => s.unpin site n) s = { s with gslots := g } := by
  induction pins generalizing s with
  | nil => exact ⟨s.gslots, rfl⟩
  | cons n pins ih =>
    obtain ⟨g, h⟩ := ih (s.unpin site n)
    exact ⟨g, h⟩

theorem State.finishRun_of_unrecorded {s s1 : State} {i : Inst} {ts : List Token} (hr : i.recorded = [])
    (h : s.homes i i.effects.zipIdx = (s1, .ok ts)) :
    s.finishRun i = (s1.putInst { i with phase := .offering }).offer ts := by
  unfold State.finishRun
  dsimp only
  rw [if_pos (List.isEmpty_iff.mpr hr), h]

section
variable {s : State} {i : Inst} (hr : i.recorded ≠ []) (hex : s.otherExclusive i = false)
  (hun : s.unitsReserved i i.recordedUnits = false)
include hr hex hun

theorem State.finishRun_of_valid {s1 : State} {ts : List Token} (hval : s.validates i = true)
    (h : s.homes i i.effects.zipIdx = (s1, .ok ts)) :
    s.finishRun i = (s1.putInst { i with phase := .offering, reserved := true }).offer ts := by
  unfold State.finishRun
  dsimp only
  rw [if_neg (mt List.isEmpty_iff.mp hr), if_neg (by simp [hex, hun]), if_pos hval, State.homes_reserved, h]

theorem State.finishRun_of_invalid (hval : s.validates i = false) :
    s.finishRun i = (i.pins.foldl (fun s n => s.unpin i.site n) s).putInst
      { i with phase := .retrying, fails := i.fails + 1, effects := [], nEff := 0, flags := 0, recorded := [], pins := [] } := by
  unfold State.finishRun
  rw [if_neg (mt List.isEmpty_iff.mp hr), if_neg (by simp [hex, hun]), if_neg (by simp [hval])]

end

/-- The two ways in which a run comes to offer its tokens (R41, R165). -/
theorem State.finishRun_of_homes {s s1 : State} {i : Inst} {ts : List Token}
    (h : s.homes i i.effects.zipIdx = (s1, .ok ts))
    (hv : i.recorded = [] ∨ (s.otherExclusive i = false ∧ s.unitsReserved i i.recordedUnits = false) ∧ s.validates i = true) :
    s.finishRun i =
      (s1.putInst { i with phase := .offering, reserved := i.reserved || !i.recorded.isEmpty }).offer ts := by
  by_cases hr : i.recorded = []
  · rw [State.finishRun_of_unrecorded hr h, hr, List.isEmpty_nil, Bool.not_true, Bool.or_false]
  · obtain ⟨⟨hex, hun⟩, hval⟩ := hv.resolve_left hr
    rw [State.finishRun_of_valid hr hex hun hval h, Bool.eq_false_iff.mpr (mt List.isEmpty_iff.mp hr), Bool.not_false,
      Bool.or_true]

theorem State.instAt_putInst_of {s : State} {site runner : Nat} {i : Inst} (h : s.instAt site runner = some i) (j : Inst)
    (hsite : j.site = i.site) (hrunner : j.runner = i.runner) : (s.putInst j).instAt site runner = some j := by
  obtain ⟨rfl, rfl⟩ := State.instAt_site h
  rw [← hsite, ← hrunner, s.instAt_putInst, hsite, hrunner, h, Option.map_some]

theorem State.onlyLoads_insts {s t : State} (h : s.onlyLoads t) : t.insts = s.insts := by
  simpa using congrArg State.insts h.2
theorem State.onlyLoads_tokens {s t : State} (h : s.onlyLoads t) : t.tokens = s.tokens := by
  simpa using congrArg State.tokens h.2
theorem State.onlyLoads_nextId {s t : State} (h : s.onlyLoads t) : t.nextId = s.nextId := by
  simpa using congrArg State.nextId h.2

/-- Settles O42: the two answers of `finishRun`, and what resolution, offering and the release of pins change. -/
theorem runEnds : Obligations.RunEnds := by
  intro s c i hx
  refine ⟨fun s1 ts h hv => ?_, fun hr hfree hval => ?_⟩
  · have hload : s.onlyLoads s1 := by
      have := State.homes_onlyLoads (i.past c) i.effects.zipIdx s
      rwa [h] at this
    obtain ⟨added, n, hoffer, hmap⟩ := State.offer_spec ts
      (s1.putInst { i.past c with phase := .offering, reserved := i.reserved || !i.recorded.isEmpty })
    refine ⟨_, (execFin_ok hx).trans (congrArg _ ((State.finishRun_of_homes h hv).trans hoffer)), ?_, ⟨added, ?_, hmap⟩, ?_,
      hload⟩
    · have hat : s1.instAt c.site c.runner = some i := by
        rw [State.instAt, State.onlyLoads_insts hload]
        exact hx.2
      exact State.instAt_putInst_of hat _ rfl rfl
    · rw [← State.onlyLoads_tokens hload]
      rfl
    · rw [← State.onlyLoads_tokens hload, ← State.onlyLoads_insts hload, ← State.onlyLoads_nextId hload]
      rfl
  · obtain ⟨g, hg⟩ := State.unpins_spec i.site i.pins s
    refine ⟨_, (execFin_ok hx).trans (congrArg _ ((State.finishRun_of_invalid (i := i.past c) hr hfree.1 hfree.2 hval).trans
      (congrArg (fun u => State.putInst u _) hg))), ?_, rfl⟩
    exact State.instAt_putInst_of (s := { s with gslots := g }) hx.2 { i.past c with
      phase := .retrying, fails := i.fails + 1, effects := [], nEff := 0, flags := 0, recorded := [], pins := [] } rfl rfl

end Sys2Proof.Machine
end

section
/-! Tokens where they arrive (R26, R27, R29, R36, R37, R41, R302): what the receiving cell finds for a token, and the frame
that a token is applied to. -/

namespace Sys2Proof.Machine

/-! ### Elements of the keyed lists of a state -/

/-- Only what a function makes of the first match counts. -/
theorem updateFirst_congr {α : Type} {p : α → Bool} {f g : α → α} {l : List α} (h : ∀ x, l.find? p = some x → f x = g x) :
    updateFirst p f l = updateFirst p g l := by
  induction l with
  | nil => rfl
  | cons a t ih =>
    cases hp : p a with
    | true => simp [updateFirst, hp, h a (by simp [hp])]
    | false => simp [updateFirst, hp, ih (fun x hx => h x (by simpa [hp] using hx))]

theorem State.updateToken_congr {s : State} {id : Nat} {t : Token} (ht : s.token id = some t) {f g : Token → Token}
    (h : f t = g t) : s.updateToken id f = s.updateToken id g := by
  unfold State.updateToken
  rw [updateFirst_congr (fun x hx => ?_)]
  obtain rfl : t = x := Option.some.inj (ht.symm.trans hx)
  exact h

theorem State.token_updateToken (s : State) (id : Nat) {f : Token → Token} (hf : ∀ x, (f x).id = x.id) :
    (s.updateToken id f).token id = (s.token id).map f :=
  find?_updateFirst_self (fun x hx => by simpa [hf] using hx) s.tokens

theorem State.token_updateToken_other (s : State) {id j : Nat} (h : id ≠ j) {f : Token → Token} (hf : ∀ x, (f x).id = x.id) :
    (s.updateToken j f).token id = s.token id :=
  find?_updateFirst_other (fun x hx => by
    simp only [beq_iff_eq, beq_eq_false_iff_ne] at hx ⊢
    rw [hf]
    omega) s.tokens

theorem State.token_dropToken (s : State) (id : Nat) : (s.dropToken id).token id = none := by
  simp [State.token, State.dropToken]

theorem State.frameAt_site_key {s : State} {x : Nat} {k : Key} {f : Frame} (h : s.frameAt x k = some f) :
    f.site = x ∧ f.key = k := by
  simpa using List.find?_some h

/-- Whether a frame is that of a key on a site. -/
def Frame.isAt (f : Frame) (x : Nat) (k : Key) : Bool := f.site == x && f.key == k

theorem Frame.isAt_iff {f : Frame} {x : Nat} {k : Key} : f.isAt x k = true ↔ f.site = x ∧ f.key = k := by
  simp [Frame.isAt]

theorem State.frameAt_updateFrame (s : State) (x : Nat) (k : Key) {g : Frame → Frame}
    (hg : ∀ f : Frame, f.site = x ∧ f.key = k → (g f).site = x ∧ (g f).key = k) :
    (s.updateFrame x k g).frameAt x k = (s.frameAt x k).map g :=
  find?_updateFirst_self (p := fun f : Frame => f.isAt x k) (fun f hf => Frame.isAt_iff.mpr (hg f (Frame.isAt_iff.mp hf))) s.frames

theorem State.frameAt_updateFrame_other (s : State) {x y : Nat} {k j : Key} (h : ¬(x = y ∧ k = j)) {g : Frame → Frame}
    (hg : ∀ f : Frame, f.site = y ∧ f.key = j → (g f).site = y ∧ (g f).key = j) :
    (s.updateFrame y j g).frameAt x k = s.frameAt x k := by
  refine find?_updateFirst_other (fun f hf => ?_) s.frames
  have hf' := Frame.isAt_iff.mp hf
  have hg' := hg f hf'
  constructor
  · exact Bool.eq_false_iff.mpr fun hc => h ⟨(Frame.isAt_iff.mp hc).1.symm.trans hf'.1, (Frame.isAt_iff.mp hc).2.symm.trans hf'.2⟩
  · exact Bool.eq_false_iff.mpr fun hc => h ⟨(Frame.isAt_iff.mp hc).1.symm.trans hg'.1, (Frame.isAt_iff.mp hc).2.symm.trans hg'.2⟩

/-! ### Loads of descriptors -/

theorem State.loadDesc_of_held {s : State} {site ctx cb : Nat} {d : Desc} (h : s.descAt site ctx cb = some d) :
    s.loadDesc site ctx cb = (s, .ok d) := by
  rw [State.loadDesc, h]

theorem State.onlyLoads_of_loadDesc {s s1 : State} {site ctx cb : Nat} {x : Except Trap Desc}
    (h : s.loadDesc site ctx cb = (s1, x)) : s.onlyLoads s1 := by
  have := s.loadDesc_onlyLoads site ctx cb
  rwa [h] at this

theorem State.noteFetch_descs (s : State) (site ctx va : Nat) : (s.noteFetch site ctx va).descs = s.descs := by
  unfold State.noteFetch
  split
  · rfl
  · split
    · split <;> rfl
    · rfl

theorem State.noteFetch_frames (s : State) (site ctx va : Nat) : (s.noteFetch site ctx va).frames = s.frames := by
  unfold State.noteFetch
  split
  · rfl
  · split
    · split <;> rfl
    · rfl

/-- What a load of a descriptor can end in (R302): it is held, it fails with only the walk kept, or it is installed where the
context is resident. -/
theorem State.loadDesc_cases {s s1 : State} {site ctx cb : Nat} {x : Except Trap Desc}
    (h : s.loadDesc site ctx cb = (s1, x)) :
    (∃ d, s.descAt site ctx cb = some d ∧ s1 = s ∧ x = .ok d) ∨
    (s.descAt site ctx cb = none ∧ ((∃ e, x = .error e) ∧ s1.descs = s.descs ∧ s1.frames = s.frames ∨
      ∃ d va, x = .ok d ∧ s1 = if s.residentAt site ctx then (s.noteFetch site ctx va).installDesc site ctx cb d
        else s.noteFetch site ctx va)) := by
  unfold State.loadDesc at h
  split at h
  · rename_i d hd
    cases h
    exact .inl ⟨d, hd, rfl, rfl⟩
  · rename_i hnone
    refine .inr ⟨hnone, ?_⟩
    split at h
    · cases h
      exact .inl ⟨⟨_, rfl⟩, rfl, rfl⟩
    · split at h
      · cases h
        exact .inl ⟨⟨_, rfl⟩, rfl, rfl⟩
      · dsimp only at h
        split at h
        · cases h
          exact .inl ⟨⟨_, rfl⟩, s.noteFetch_descs .., s.noteFetch_frames ..⟩
        · split at h
          · cases h
            exact .inl ⟨⟨_, rfl⟩, s.noteFetch_descs .., s.noteFetch_frames ..⟩
          · cases h
            exact .inr ⟨_, _, rfl, rfl⟩

/-! ### What the receiving cell finds -/

/-- A token reaches its cell: its launch is not marked killed there, and its context is resident and not halted (R26, R358,
R368, R374). -/
def State.admits (s : State) (t : Token) : Prop :=
  s.residentAt t.dcell t.key.ctx = true ∧ s.haltedAt t.dcell t.key.ctx = false ∧
    (t.key.ctx ≠ 0 → (t.dcell, t.key.ctx, t.lid) ∉ s.killed) ∧ (t.key.ctx = 0 → t.dcell = ringmaster ∨ s.ctxValid 0 = true)

theorem State.admits_of_finds {s : State} {t : Token} {f : Frame} (h : s.finds t.dcell t.key t.epoch t.lid f) :
    s.admits t := by
  obtain ⟨-, -, -, hres, hhalt, hkill, hvalid, -⟩ := h
  exact ⟨hres, hhalt, hkill, hvalid⟩

/-- The tests of `present` that come before the search for the frame. -/
theorem State.admits_tests {s : State} {t : Token} (h : s.admits t) :
    (t.key.ctx != 0 && s.killed.contains (t.dcell, t.key.ctx, t.lid)) = false ∧
    (t.key.ctx == 0 && t.dcell != ringmaster && !s.ctxValid 0) = false ∧
    (!s.residentAt t.dcell t.key.ctx || s.haltedAt t.dcell t.key.ctx) = false := by
  obtain ⟨hres, hhalt, hkill, hvalid⟩ := h
  refine ⟨?_, ?_, by rw [hres, hhalt]; rfl⟩
  · by_cases hc : t.key.ctx = 0
    · simp [hc]
    · simp [hkill hc]
  · by_cases hc : t.key.ctx = 0
    · obtain h | h := hvalid hc <;> simp [h]
    · simp [hc]

section
variable {s s1 : State} {t : Token} (h : s.admits t)
include h

/-- A frame that a token finds is there for it (R26). -/
theorem State.present_of_frame {f : Frame} {d : Desc}
    (hf : s.frameAt t.dcell t.key = some f) (he : f.epoch = t.epoch) (hl : f.life ≠ .spilled)
    (hd : s.loadDesc t.dcell t.key.ctx t.key.cb = (s1, .ok d)) : s.present t = .frame s1 := by
  obtain ⟨hkill, hvalid, hhere⟩ := State.admits_tests h
  unfold State.present
  simp only [hkill, hvalid, hhere, hf, he, hd, bne_self_eq_false, Bool.false_eq_true, if_false]
  rw [if_neg (by simpa using hl)]

/-- A frame of the other EPOCH holds the token (R26). -/
theorem State.present_of_epoch {f : Frame} (hf : s.frameAt t.dcell t.key = some f) (he : f.epoch ≠ t.epoch) :
    s.present t = .reject s { cause := .tagExhaust, detail := 1 } := by
  obtain ⟨hkill, hvalid, hhere⟩ := State.admits_tests h
  unfold State.present
  simp only [hkill, hvalid, hhere, hf, Bool.false_eq_true, if_false]
  rw [if_pos (by simpa using he)]

/-- A descriptor that cannot be loaded holds the token (R302). -/
theorem State.present_of_failed {e : Trap} (he : ∀ f, s.frameAt t.dcell t.key = some f → f.epoch = t.epoch)
    (hd : s.loadDesc t.dcell t.key.ctx t.key.cb = (s1, .error e)) : s.present t = .reject s1 e := by
  obtain ⟨hkill, hvalid, hhere⟩ := State.admits_tests h
  unfold State.present
  cases hf : s.frameAt t.dcell t.key with
  | none => simp only [hkill, hvalid, hhere, hf, hd, Bool.false_eq_true, if_false]
  | some f => simp only [hkill, hvalid, hhere, hf, he f hf, hd, bne_self_eq_false, Bool.false_eq_true, if_false]

section
variable {d : Desc} (hf : s.frameAt t.dcell t.key = none) (hd : s.loadDesc t.dcell t.key.ctx t.key.cb = (s1, .ok d))
include hf hd

/-- Where its key has no frame, its window admits it and there is room, a token creates the frame (R26, R32, R36). -/
theorem State.present_of_room {w : Window} (hw : s1.windowAt t.dcell t.key.ctx t.key.cb = some w)
    (hin : t.isSignal = true ∨ s1.keyParked t = false ∧ s1.outsideWindow t.dcell t.key w.wlog = false)
    (hroom : s1.hasRoom t.dcell t.key.ctx d = true) :
    s.present t = .frame (s1.createFrame t.dcell t.key t.epoch t.lid d none true) := by
  obtain ⟨hkill, hvalid, hhere⟩ := State.admits_tests h
  have hpark : (!t.isSignal && s1.keyParked t) = false := by
    obtain hs | ⟨hk, -⟩ := hin
    · simp [hs]
    · simp [hk]
  have hwin : (!t.isSignal && s1.outsideWindow t.dcell t.key w.wlog) = false := by
    obtain hs | ⟨-, ho⟩ := hin
    · simp [hs]
    · simp [ho]
  have hmade : s1.makeRoom t.dcell t.key.ctx d = .made s1 := by
    rw [State.makeRoom, State.spillFor, if_pos hroom]
  unfold State.present
  simp only [hkill, hvalid, hhere, hf, hd, hpark, hw, Option.map_some, Option.getD_some, hwin, hmade, Bool.false_eq_true,
    if_false]

/-- One kept out by the window is to be parked (R36). -/
theorem State.present_of_outside {w : Window} (hw : s1.windowAt t.dcell t.key.ctx t.key.cb = some w)
    (hs : t.isSignal = false) (hk : s1.keyParked t = false) (ho : s1.outsideWindow t.dcell t.key w.wlog = true) :
    s.present t = .park s1 .window := by
  obtain ⟨hkill, hvalid, hhere⟩ := State.admits_tests h
  unfold State.present
  simp only [hkill, hvalid, hhere, hf, hd, hs, hk, hw, ho, Option.map_some, Option.getD_some, Bool.false_eq_true, if_false,
    Bool.not_false, Bool.and_false, Bool.and_true, if_true]

end

end

/-- A token meets its cell: it is offered for a codeblock of this package, and neither refused nor kept waiting (R37, R41). -/
def State.meets (s : State) (t : Token) : Prop :=
  t.phase = .offered ∧ t.isFault = false ∧ t.remote = none ∧ s.refusesDirect t = false ∧ s.parkDue t = false

theorem execTokenAccept_of_meets {s : State} {t : Token} (ht : s.token t.id = some t) (h : s.meets t) :
    execTokenAccept t.id s = .next (s.acceptToken t) := by
  obtain ⟨hp, hfault, hrem, hdirect, hdue⟩ := h
  unfold execTokenAccept
  simp [ht, hp, hfault, hrem, hdirect, hdue]

/-- A token that its cell has accepted (R41). -/
def State.accepted (s : State) (id : Nat) : State := s.updateToken id (fun x => { x with phase := .accepted })

theorem State.acceptToken_of_frame {s s1 : State} {t : Token} (h : s.present t = .frame s1) :
    s.acceptToken t = s1.accepted t.id := by
  rw [State.acceptToken, h, State.accepted]

theorem State.acceptToken_of_reject {s s1 : State} {t : Token} {e : Trap} (h : s.present t = .reject s1 e) :
    s.acceptToken t = if t.committed then s1.rejectToken t e else s1.accepted t.id := by
  rw [State.acceptToken, h, State.accepted]

theorem State.acceptToken_of_park {s s1 : State} {t : Token} {r : ParkReason} (h : s.present t = .park s1 r) :
    s.acceptToken t = s1.parkToken t r := by
  rw [State.acceptToken, h]

theorem State.token_overflowPark (s : State) (site id : Nat) (h : (s.token id).isSome = true) :
    ((s.overflowPark site).token id).isSome = true := by
  unfold State.overflowPark
  split
  · exact h
  · rename_i v hv
    split
    · by_cases hid : id = v.id
      · rw [← hid, State.token_updateToken]
        · simpa using h
        · exact fun _ => rfl
      · rwa [State.token_updateToken_other s hid]
        exact fun _ => rfl
    · exact h

/-- Without a free entry a token that is to be parked is refused (R37, R41). -/
theorem State.parkToken_refused {s : State} {t : Token} {r : ParkReason} (h : (s.token t.id).isSome = true)
    (hfull : 256 ≤ s.parkCount t.dcell) : ((s.parkToken t r).token t.id).map (·.phase) = some .refused := by
  obtain ⟨x, hx⟩ := Option.isSome_iff_exists.mp (s.token_overflowPark t.dcell t.id h)
  rw [State.parkToken, if_neg (by omega), State.token_updateToken, hx]
  · rfl
  · exact fun _ => rfl

end Sys2Proof.Machine
end

section
/-! The application of a token to its frame (R27, R29, R44, R104): the words written, the slot counted down, and what a firing
changes. -/

namespace Sys2Proof.Machine

/-! ### Ranges of numbers -/

theorem mem_upFrom_iff {k lo n : Nat} : k ∈ upFrom lo n ↔ lo ≤ k ∧ k < lo + n := by
  induction n generalizing lo with
  | zero => simp [upFrom]
  | succ n ih =>
    rw [upFrom, List.mem_cons, ih]
    omega

theorem upFrom_nodup (lo n : Nat) : (upFrom lo n).Nodup := by
  induction n generalizing lo with
  | zero => exact List.nodup_nil
  | succ n ih =>
    refine List.nodup_cons.mpr ⟨fun h => ?_, ih _⟩
    have := mem_upFrom_iff.mp h
    omega

/-! ### Words of a frame -/

theorem Frame.putWord_eq (f : Frame) (k : Nat) (w : W64) (psn : Bool) :
    ∃ ws ps, f.putWord k w psn = { f with words := ws, poison := ps } := by
  unfold Frame.putWord
  split
  · exact ⟨_, _, rfl⟩
  · exact ⟨f.words, f.poison, rfl⟩

theorem Frame.putWord_desc (f : Frame) (k : Nat) (w : W64) (psn : Bool) : (f.putWord k w psn).desc = f.desc := by
  obtain ⟨ws, ps, h⟩ := f.putWord_eq k w psn
  rw [h]

theorem Frame.word_putWord_self (f : Frame) {k : Nat} (w : W64) (psn : Bool) (hk : k < f.desc.words) :
    (f.putWord k w psn).word k = w := by
  simp [Frame.putWord, Frame.word, hk]

theorem Frame.word_putWord_other (f : Frame) {k x : Nat} (w : W64) (psn : Bool) (hx : x ≠ k) :
    (f.putWord k w psn).word x = f.word x := by
  unfold Frame.putWord
  split
  · simp [Frame.word, keyed_putKeyed_other _ _ hx]
  · rfl

/-- What a lane of a vector word becomes: the bits marked in `keep` stay (R254). -/
def mergeLane (v keep : VWord) (k : Nat) (old : W64) : W64 :=
  (old &&& keep.extractLsb' (64 * k) 64) ||| (v.extractLsb' (64 * k) 64 &&& ~~~keep.extractLsb' (64 * k) 64)

/-- One lane of a vector word written. -/
def Frame.putLane (j : Nat) (v keep : VWord) (psn : Bool) (f : Frame) (k : Nat) : Frame :=
  if keep.extractLsb' (64 * k) 64 = BitVec.allOnes 64 then f
  else f.putWord (64 + 32 * j + k) (mergeLane v keep k (f.word (64 + 32 * j + k)))
    (psn || (keep.extractLsb' (64 * k) 64 != 0 && f.poison.contains (64 + 32 * j + k)))

theorem Frame.putVector_eq_foldl (f : Frame) (j : Nat) (v keep : VWord) (psn : Bool) :
    f.putVector j v keep psn = (upFrom 0 32).foldl (Frame.putLane j v keep psn) f := rfl

section
variable (j : Nat) (v keep : VWord) (psn : Bool)

theorem Frame.putLane_eq (f : Frame) (k : Nat) :
    ∃ ws ps, Frame.putLane j v keep psn f k = { f with words := ws, poison := ps } := by
  unfold Frame.putLane
  split
  · exact ⟨f.words, f.poison, rfl⟩
  · exact f.putWord_eq ..

theorem Frame.putLanes_eq (l : List Nat) (f : Frame) :
    ∃ ws ps, l.foldl (Frame.putLane j v keep psn) f = { f with words := ws, poison := ps } := by
  induction l generalizing f with
  | nil => exact ⟨f.words, f.poison, rfl⟩
  | cons k l ih =>
    obtain ⟨ws, ps, h⟩ := Frame.putLane_eq j v keep psn f k
    obtain ⟨ws', ps', h'⟩ := ih (Frame.putLane j v keep psn f k)
    exact ⟨ws', ps', by rw [List.foldl_cons, h', h]⟩

theorem Frame.word_putLane_other (f : Frame) {k x : Nat} (hx : x ≠ 64 + 32 * j + k) :
    (Frame.putLane j v keep psn f k).word x = f.word x := by
  unfold Frame.putLane
  split
  · rfl
  · exact f.word_putWord_other _ _ hx

theorem Frame.word_putLane_self (f : Frame) {k : Nat} (hk : 64 + 32 * j + k < f.desc.words) :
    (Frame.putLane j v keep psn f k).word (64 + 32 * j + k) = mergeLane v keep k (f.word (64 + 32 * j + k)) := by
  unfold Frame.putLane
  split
  · rename_i h
    rw [mergeLane, h, BitVec.not_allOnes, BitVec.and_zero, BitVec.or_zero, BitVec.and_allOnes]
  · exact f.word_putWord_self _ _ hk

theorem Frame.word_putLanes_other {x : Nat} (l : List Nat) (f : Frame) (hx : ∀ k ∈ l, x ≠ 64 + 32 * j + k) :
    (l.foldl (Frame.putLane j v keep psn) f).word x = f.word x := by
  induction l generalizing f with
  | nil => rfl
  | cons k l ih =>
    rw [List.foldl_cons, ih _ (fun i hi => hx i (List.mem_cons_of_mem _ hi)),
      Frame.word_putLane_other j v keep psn f (hx k List.mem_cons_self)]

theorem Frame.word_putLanes {k : Nat} (l : List Nat) (f : Frame) (hl : l.Nodup) (hk : k ∈ l)
    (hw : 64 + 32 * j + k < f.desc.words) :
    (l.foldl (Frame.putLane j v keep psn) f).word (64 + 32 * j + k) = mergeLane v keep k (f.word (64 + 32 * j + k)) := by
  induction l generalizing f with
  | nil => cases hk
  | cons i l ih =>
    obtain ⟨hi, hl⟩ := List.nodup_cons.mp hl
    obtain rfl | hk := List.mem_cons.mp hk
    · rw [List.foldl_cons, Frame.word_putLanes_other, Frame.word_putLane_self j v keep psn f hw]
      rintro x hx h
      exact hi ((by omega : x = k) ▸ hx)
    · have hne : k ≠ i := fun h => hi (h ▸ hk)
      obtain ⟨ws, ps, h⟩ := Frame.putLane_eq j v keep psn f i
      rw [List.foldl_cons, ih _ hl hk (by rw [h]; exact hw), Frame.word_putLane_other j v keep psn f (by omega)]

theorem Frame.putVector_eq (f : Frame) : ∃ ws ps, f.putVector j v keep psn = { f with words := ws, poison := ps } :=
  Frame.putLanes_eq j v keep psn _ f

/-- A word of a vector word written (R21, R254). -/
theorem Frame.word_putVector (f : Frame) {k : Nat} (hk : k < 32) (hl : f.desc.large = true) (hj : j ≤ 5) :
    (f.putVector j v keep psn).word (64 + 32 * j + k) = mergeLane v keep k (f.word (64 + 32 * j + k)) := by
  refine Frame.word_putLanes j v keep psn _ f (upFrom_nodup 0 32) (mem_upFrom_iff.mpr ⟨by omega, by omega⟩) ?_
  rw [Desc.words, if_pos hl]
  omega

theorem Frame.word_putVector_other (f : Frame) {x : Nat} (hx : x < 64 + 32 * j ∨ 96 + 32 * j ≤ x) :
    (f.putVector j v keep psn).word x = f.word x := by
  refine Frame.word_putLanes_other j v keep psn _ f (fun k hk => ?_)
  have := mem_upFrom_iff.mp hk
  omega

end

theorem mergeLane_zero (v : VWord) (k : Nat) (old : W64) : mergeLane v 0 k old = v.extractLsb' (64 * k) 64 := by
  have hkeep : (0 : VWord).extractLsb' (64 * k) 64 = 0#64 := by simp
  rw [mergeLane, hkeep, BitVec.not_zero, BitVec.and_zero, BitVec.zero_or, BitVec.and_allOnes]

/-! ### The payload of a token -/

theorem Frame.putWords_eq (ws : List (W64 × Nat)) (f : Frame) :
    ∃ xs ps, ws.foldl (fun f (w, k) => f.putWord k w false) f = { f with words := xs, poison := ps } := by
  induction ws generalizing f with
  | nil => exact ⟨f.words, f.poison, rfl⟩
  | cons e ws ih =>
    obtain ⟨xs, ps, h⟩ := f.putWord_eq e.2 e.1 false
    obtain ⟨xs', ps', h'⟩ := ih (f.putWord e.2 e.1 false)
    exact ⟨xs', ps', by rw [List.foldl_cons, h', h]⟩

/-- A frame with the words of a payload. -/
def Frame.withPayload (f : Frame) (t : Token) : Frame :=
  match t.payload with
  | .none => f
  | .word w => f.putWord t.idx w t.psn
  | .vector v keep => if f.desc.large && decide (t.idx ≤ 5) then f.putVector t.idx v keep t.psn else f
  | .words ws => ws.zipIdx.foldl (fun f (w, k) => f.putWord k w false) f

theorem Frame.receive_eq_withPayload (f : Frame) (t : Token) : f.receive t = { f.withPayload t with
    psn := (f.withPayload t).psn || (t.psn && t.payload != .none), flags := (f.withPayload t).flags ||| t.flags,
    fresh := false } := by
  unfold Frame.receive Frame.withPayload
  cases t.payload <;> rfl

theorem Frame.withPayload_eq (f : Frame) (t : Token) : ∃ ws ps, f.withPayload t = { f with words := ws, poison := ps } := by
  unfold Frame.withPayload
  split
  · exact ⟨f.words, f.poison, rfl⟩
  · exact f.putWord_eq ..
  · split
    · exact Frame.putVector_eq ..
    · exact ⟨f.words, f.poison, rfl⟩
  · exact Frame.putWords_eq ..

theorem Frame.receive_eq (f : Frame) (t : Token) : ∃ ws ps pn, f.receive t =
    { f with words := ws, poison := ps, psn := pn, flags := f.flags ||| t.flags, fresh := false } := by
  obtain ⟨ws, ps, h⟩ := f.withPayload_eq t
  exact ⟨ws, ps, _, by rw [Frame.receive_eq_withPayload, h]⟩

theorem Frame.receive_word_eq (f : Frame) (t : Token) (k : Nat) : (f.receive t).word k = (f.withPayload t).word k := by
  rw [Frame.receive_eq_withPayload]
  rfl

/-! ### Slots -/

/-- A frame whose slot has counted one down, or has been reloaded (R29). -/
def Frame.countedDown (f : Frame) (slot : Nat) (st : SlotState) : Frame :=
  { f with slots := putKeyed f.slots slot { st with count := if st.count = 1 then st.reload else st.count - 1 } }

theorem Frame.decrement_of_count {f : Frame} {slot : Nat} {st : SlotState} (h : keyed f.slots slot = some st)
    (hc : st.count ≠ 0) : f.decrement slot =
      some (f.countedDown slot st, if st.count = 1 then (keyed f.desc.slots slot).map (·.thr) else none) := by
  unfold Frame.decrement Frame.countedDown
  rw [h]
  dsimp only
  rw [if_neg hc]
  by_cases h1 : st.count = 1 <;> simp [h1]

theorem Frame.decrement_of_spent {f : Frame} {slot : Nat} {st : SlotState} (h : keyed f.slots slot = some st)
    (hc : st.count = 0) : f.decrement slot = none := by
  unfold Frame.decrement
  rw [h]
  exact if_pos hc

/-! ### The ready queue -/

/-- What queueing a ready entry changes: a new entry at the end, and, when no chunk is free, a frame spilled (R44, R79). -/
theorem State.enqueueWith_spec (s : State) (site : Nat) (k : Key) (thr cls : Nat)
    (sub : Option (Nat × (Nat × Nat × Bool) × W64)) :
    ∃ (r : Ready) (u : State), s.enqueueWith site k thr cls sub = { u with nextId := s.nextId + 1, ready := s.ready ++ [r] } ∧
      (u = s ∨ ∃ v, u = s.updateFrame site v (fun f => { f with life := .spilled })) ∧
      r.site = site ∧ r.key = k ∧ r.thr = thr ∧ r.cls = cls ∧ r.subst = sub ∧ r.stamp = s.nextId := by
  unfold State.enqueueWith
  dsimp only
  split
  · exact ⟨_, s, rfl, .inl rfl, rfl, rfl, rfl, rfl, rfl, rfl⟩
  · split
    · split
      · exact ⟨_, s.updateFrame site _ _, rfl, .inr ⟨_, rfl⟩, rfl, rfl, rfl, rfl, rfl, rfl⟩
      · exact ⟨_, s, rfl, .inl rfl, rfl, rfl, rfl, rfl, rfl, rfl⟩
    · exact ⟨_, s, rfl, .inl rfl, rfl, rfl, rfl, rfl, rfl, rfl⟩

/-- A frame stays where it is when a ready entry is queued, though it may be spilled. -/
theorem State.frameAt_enqueueWith {s : State} {x : Nat} {j : Key} {f : Frame} (h : s.frameAt x j = some f) (site : Nat) (k : Key)
    (thr cls : Nat) (sub : Option (Nat × (Nat × Nat × Bool) × W64)) :
    ∃ l, (s.enqueueWith site k thr cls sub).frameAt x j = some { f with life := l } := by
  obtain ⟨r, u, heq, hu, -⟩ := s.enqueueWith_spec site k thr cls sub
  have hframe : (s.enqueueWith site k thr cls sub).frameAt x j = u.frameAt x j := by
    rw [heq]
    rfl
  rw [hframe]
  obtain rfl | ⟨v, rfl⟩ := hu
  · exact ⟨f.life, h⟩
  · by_cases hv : x = site ∧ j = v
    · obtain ⟨rfl, rfl⟩ := hv
      rw [State.frameAt_updateFrame, h]
      · exact ⟨_, rfl⟩
      · exact fun _ hf => hf
    · rw [State.frameAt_updateFrame_other s hv, h]
      · exact ⟨f.life, rfl⟩
      · exact fun _ hf => hf

theorem State.discardToken_eq (s : State) (t : Token) : ∃ cs gs, s.discardToken t =
    { s with tokens := s.tokens.filter (fun x => x.id != t.id), counts := cs, gslots := gs } := by
  have hcount : ∃ cs, (s.dropToken t.id).countTr t = { s.dropToken t.id with counts := cs } := by
    unfold State.countTr
    split
    · unfold State.count
      dsimp only
      split <;> exact ⟨_, rfl⟩
    · exact ⟨_, rfl⟩
  obtain ⟨cs, h⟩ := hcount
  unfold State.discardToken
  rw [h]
  dsimp only
  split <;> exact ⟨_, _, rfl⟩

end Sys2Proof.Machine
end

section
/-! The steps of tokens where they arrive: TOKEN_RETRY, TOKEN_ACCEPT, TOKEN_APPLY and DESCRIPTOR_LOAD (R26, R27, R29, R36, R37, R41,
R302, R303). -/

namespace Sys2Proof.Machine

/-! ### A token applied to its frame -/

/-- A state whose frame has taken a token, before its slot's threadlet fires. -/
def State.taken (s : State) (t : Token) (f1 : Frame) (f : Frame) : State :=
  let s1 := (s.updateFrame f.site f.key (fun _ => f1.receive t)).discardToken t
  if (t.rels.map Scope.wide).getD false then s1.dropLines f.site f.key.ctx else s1

theorem State.taken_eq (s : State) (t : Token) (f1 f : Frame) : ∃ cs gs lc, s.taken t f1 f =
    { s.updateFrame f.site f.key (fun _ => f1.receive t) with
      tokens := s.tokens.filter (fun x => x.id != t.id), counts := cs, gslots := gs, lcache := lc } := by
  obtain ⟨cs, gs, h⟩ := (s.updateFrame f.site f.key (fun _ => f1.receive t)).discardToken_eq t
  unfold State.taken
  rw [h]
  dsimp only
  split <;> exact ⟨_, _, _, rfl⟩

theorem State.applyTo_of_fires {s : State} {t : Token} {f f1 : Frame} {thr : Nat}
    (h : f.decrement t.slot = some (f1, some thr)) : s.applyTo t f = (s.taken t f1 f).enqueue f1 thr := by
  rw [State.applyTo, h]
  rfl

theorem State.applyTo_of_still {s : State} {t : Token} {f f1 : Frame} (h : f.decrement t.slot = some (f1, none)) :
    s.applyTo t f = s.taken t f1 f := by
  rw [State.applyTo, h]
  rfl

theorem State.applyTo_of_spent {s : State} {t : Token} {f : Frame} {st : SlotState} (h : keyed f.slots t.slot = some st)
    (hc : st.count = 0) : s.applyTo t f = (s.keepFrame f.site f.key).rejectToken t { cause := .slotSpent } := by
  rw [State.applyTo, Frame.decrement_of_spent h hc]

/-- What an application does to the frame and beside it, whether or not the slot's threadlet fires. -/
theorem State.applyTo_spec {s : State} {t : Token} {f : Frame} {st : SlotState} (hf : s.frameAt t.dcell t.key = some f)
    (hst : keyed f.slots t.slot = some st) (hc : st.count ≠ 0) :
    (∃ l, (s.applyTo t f).frameAt t.dcell t.key = some { (f.countedDown t.slot st).receive t with life := l }) ∧
    (s.applyTo t f).tokens = s.tokens.filter (fun x => x.id != t.id) ∧
    (match (if st.count = 1 then (keyed f.desc.slots t.slot).map (·.thr) else none) with
     | some thr => ∃ r ∈ (s.applyTo t f).ready, r.site = f.site ∧ r.key = f.key ∧ r.thr = thr
     | none => (s.applyTo t f).ready = s.ready) ∧
    (s.applyTo t f).kept = s.kept ∧ (s.applyTo t f).insts = s.insts ∧ (s.applyTo t f).ops = s.ops := by
  generalize hf1 : f.countedDown t.slot st = f1
  obtain ⟨hsite, hkey⟩ := State.frameAt_site_key hf
  have hsite1 : f1.site = f.site := by rw [← hf1]; rfl
  have hkey1 : f1.key = f.key := by rw [← hf1]; rfl
  obtain ⟨ws, ps, pn, hrec⟩ := f1.receive_eq t
  obtain ⟨cs, gs, lc, htaken⟩ := s.taken_eq t f1 f
  have hat : (s.taken t f1 f).frameAt t.dcell t.key = some (f1.receive t) := by
    have h : (s.updateFrame f.site f.key (fun _ => f1.receive t)).frameAt t.dcell t.key = some (f1.receive t) := by
      rw [hsite, hkey, State.frameAt_updateFrame, hf, Option.map_some]
      intro _ _
      rw [hrec]
      exact ⟨hsite1.trans hsite, hkey1.trans hkey⟩
    rw [htaken]
    exact h
  have hdec := Frame.decrement_of_count hst hc
  rw [hf1] at hdec
  have hkept := s.applyTo_kept t f
  generalize hfires : (if st.count = 1 then (keyed f.desc.slots t.slot).map (·.thr) else none) = fires at hdec ⊢
  cases fires with
  | none =>
    rw [State.applyTo_of_still hdec] at hkept ⊢
    refine ⟨⟨(f1.receive t).life, hat⟩, ?_, ?_, hkept, ?_, ?_⟩ <;> rw [htaken] <;> rfl
  | some thr =>
    rw [State.applyTo_of_fires hdec] at hkept ⊢
    obtain ⟨r, u, henq, hu, hr1, hr2, hr3, -⟩ := (s.taken t f1 f).enqueueWith_spec f1.site f1.key thr
      (((keyed f1.desc.threads thr).map (·.cls)).getD 0) none
    have hsame : u.tokens = (s.taken t f1 f).tokens ∧ u.insts = (s.taken t f1 f).insts ∧ u.ops = (s.taken t f1 f).ops := by
      obtain rfl | ⟨v, rfl⟩ := hu <;> exact ⟨rfl, rfl, rfl⟩
    obtain ⟨htokens, hinsts, hops⟩ := hsame
    have henq' : (s.taken t f1 f).enqueue f1 thr = _ := henq
    refine ⟨State.frameAt_enqueueWith hat .., ?_, ⟨r, ?_, hr1.trans hsite1, hr2.trans hkey1, hr3⟩, hkept, ?_, ?_⟩
    · rw [henq']
      exact htokens.trans (by rw [htaken])
    · rw [henq']
      exact List.mem_append_right _ List.mem_cons_self
    · rw [henq']
      exact hinsts.trans (by rw [htaken]; rfl)
    · rw [henq']
      exact hops.trans (by rw [htaken]; rfl)

theorem State.kept_eq_iff {s u : State} : u.kept = s.kept ↔ u.mem = s.mem ∧ u.host = s.host ∧ u.scratch = s.scratch ∧
    u.flash = s.flash ∧ u.ctl.shadows = s.ctl.shadows ∧ u.sys.shadow = s.sys.shadow ∧ u.sys.tsel = s.sys.tsel ∧
    u.hw.plim = s.hw.plim := by
  simp [State.kept]

theorem State.token_of_filter {s u : State} {id : Nat} (h : u.tokens = s.tokens.filter (fun x => x.id != id)) :
    u.token id = none := by
  rw [State.token, h]
  exact s.token_dropToken id

section
variable {f : Frame} {t : Token}

theorem Frame.withPayload_of_none (h : t.payload = .none) : f.withPayload t = f := by
  simp only [Frame.withPayload, h]

theorem Frame.withPayload_of_word {w : W64} (h : t.payload = .word w) : f.withPayload t = f.putWord t.idx w t.psn := by
  simp only [Frame.withPayload, h]

theorem Frame.withPayload_of_vector {v keep : VWord} (h : t.payload = .vector v keep) (hl : f.desc.large = true)
    (hi : t.idx ≤ 5) : f.withPayload t = f.putVector t.idx v keep t.psn := by
  simp [Frame.withPayload, h, hl, hi]

end

/-- R27, R29: a token applied to a frame whose slot's count is not zero. -/
theorem State.received_applyTo {s : State} {t : Token} {f : Frame} {st : SlotState} (hf : s.frameAt t.dcell t.key = some f)
    (hst : keyed f.slots t.slot = some st) (hc : st.count ≠ 0) : s.received (s.applyTo t f) t f st := by
  obtain ⟨⟨l, hat⟩, htok, hready, hkept, hinsts, -⟩ := State.applyTo_spec hf hst hc
  obtain ⟨hmem, hhost, hscratch, hflash, -⟩ := State.kept_eq_iff.mp hkept
  generalize hf1 : f.countedDown t.slot st = f1 at hat
  have hdesc : f1.desc = f.desc := by rw [← hf1]; rfl
  have hword (k : Nat) : f1.word k = f.word k := by rw [← hf1]; rfl
  have hrecword (k : Nat) : ({ f1.receive t with life := l } : Frame).word k = (f1.withPayload t).word k := f1.receive_word_eq t k
  obtain ⟨ws, ps, pn, hrec⟩ := f1.receive_eq t
  refine ⟨⟨_, hat, ?_, fun k hk => ?_, fun hp => ?_, fun w hp => ⟨fun hi => ?_, fun k hk => ?_⟩, fun v hp hl hi k hk => ?_, ?_⟩,
    State.token_of_filter htok, hready, hmem, hhost, hscratch, hflash, hinsts⟩
  · rw [hrec, ← hf1]
    exact keyed_putKeyed_self ..
  · rw [hrec, ← hf1]
    exact keyed_putKeyed_other _ _ hk
  · rw [Frame.receive_eq_withPayload, Frame.withPayload_of_none hp, ← hf1]
    rfl
  · rw [hrecword, Frame.withPayload_of_word hp, Frame.word_putWord_self _ _ _ (by rwa [hdesc])]
  · rw [hrecword, Frame.withPayload_of_word hp, Frame.word_putWord_other _ _ _ hk, hword]
  · rw [hrecword, Frame.withPayload_of_vector hp (by rwa [hdesc]) hi,
      Frame.word_putVector _ _ _ _ _ hk (by rwa [hdesc]) hi, mergeLane_zero]
  · rw [hrec, ← hf1]
    rfl

theorem State.received_learnSys {s u : State} {t : Token} {f : Frame} {st : SlotState} (h : s.received u t f st) (x : Token) :
    s.received (u.learnSys x) t f st := by
  unfold State.learnSys
  split
  · exact h
  · exact h

theorem State.applyToken_of_finds {s : State} {t : Token} {f : Frame} (h : s.finds t.dcell t.key t.epoch t.lid f) :
    s.applyToken t = s.applyTo t f := by
  have hadm := State.admits_of_finds h
  obtain ⟨hf, he, hl, -, -, -, -, hd⟩ := h
  obtain ⟨d, hd⟩ := Option.isSome_iff_exists.mp hd
  rw [State.applyToken, State.present_of_frame hadm hf he hl (State.loadDesc_of_held hd)]
  dsimp only
  rw [hf]

/-! ### A descriptor loaded -/

theorem State.descAt_installDesc (s : State) (site ctx cb : Nat) (d : Desc) :
    (s.installDesc site ctx cb d).descAt site ctx cb = some d := by
  simp [State.descAt, State.installDesc]

theorem State.windowAt_installDesc (s : State) (site ctx cb : Nat) (d : Desc) :
    ((s.installDesc site ctx cb d).windowAt site ctx cb).isSome = true := by
  unfold State.installDesc State.windowAt
  dsimp only
  cases h : s.windows.find? (fun w => w.site == site && w.ctx == ctx && w.cb == cb) with
  | none => simp
  | some w => simp [h]

/-- A frame of the codeblock follows the descriptor, any other stays (R303). -/
theorem State.frameAt_installDesc (s : State) (site ctx cb : Nat) (d : Desc) (x : Nat) (k : Key) :
    (s.installDesc site ctx cb d).frameAt x k =
      if (x, k.ctx, k.cb) = (site, ctx, cb) then (s.frameAt x k).map (fun f => f.under d) else s.frameAt x k := by
  unfold State.installDesc State.frameAt
  dsimp only
  rw [List.find?_map]
  have hp : (fun f : Frame => f.site == x && f.key == k) ∘
      (fun f => if f.site == site && f.key.ctx == ctx && f.key.cb == cb then f.under d else f) =
      fun f => f.site == x && f.key == k := by
    funext f
    dsimp only [Function.comp]
    split <;> rfl
  rw [hp]
  cases h : s.frames.find? (fun f => f.site == x && f.key == k) with
  | none => simp
  | some f =>
    obtain ⟨rfl, rfl⟩ := State.frameAt_site_key h
    simp only [Option.map_some, Prod.mk.injEq, Bool.and_eq_true, beq_iff_eq, and_assoc]
    split <;> rfl

theorem State.frames_installDesc_under {s : State} {site ctx cb : Nat} {d : Desc} {f : Frame}
    (hf : f ∈ (s.installDesc site ctx cb d).frames) (h : f.site = site ∧ f.key.ctx = ctx ∧ f.key.cb = cb) :
    { f.desc with large := d.large } = d := by
  obtain ⟨g, -, rfl⟩ := List.mem_map.mp hf
  revert h
  dsimp only
  split
  · exact fun _ => rfl
  · rename_i hg
    intro h
    simp [h] at hg

/-- What a load that the store lacked leaves where the context is resident (R302, R303). -/
theorem State.loadDesc_installs {s s1 : State} {site ctx cb : Nat} {d : Desc} (h : s.loadDesc site ctx cb = (s1, .ok d))
    (hnone : s.descAt site ctx cb = none) (hres : s.residentAt site ctx = true) :
    ∃ va, s1 = (s.noteFetch site ctx va).installDesc site ctx cb d := by
  obtain ⟨_, hd, -⟩ | ⟨-, ⟨⟨_, he⟩, -⟩ | ⟨_, va, hd, hs1⟩⟩ := State.loadDesc_cases h
  · rw [hnone] at hd
    cases hd
  · cases he
  · cases hd
    exact ⟨va, hs1.trans (if_pos hres)⟩

theorem State.loadDesc_fails {s s1 : State} {site ctx cb : Nat} {e : Trap} (h : s.loadDesc site ctx cb = (s1, .error e)) :
    s1.descs = s.descs ∧ s1.frames = s.frames := by
  obtain ⟨_, -, -, he⟩ | ⟨-, ⟨-, hkeeps⟩ | ⟨_, _, he, -⟩⟩ := State.loadDesc_cases h
  · cases he
  · exact hkeeps
  · cases he

theorem State.needsDesc_missing {s : State} {site ctx cb : Nat} (h : s.needsDesc site ctx cb = true) :
    s.descAt site ctx cb = none ∧ s.residentAt site ctx = true := by
  simp only [State.needsDesc, Bool.and_eq_true, Option.isNone_iff_eq_none] at h
  exact ⟨h.1.1.1, h.1.1.2⟩

/-- The steps of DESCRIPTOR_LOAD (R302, R303). -/
theorem descriptorLoad_steps (s : State) (site ctx cb : Nat) :
    (s.needsDesc site ctx cb = false → Sys2Proof.Machine.exec (.descriptorLoad site ctx cb) s = .next s) ∧
    (∀ s1 e, s.needsDesc site ctx cb = true → s.loadDesc site ctx cb = (s1, .error e) →
      Sys2Proof.Machine.exec (.descriptorLoad site ctx cb) s = .next s1 ∧ s1.descs = s.descs ∧ s1.frames = s.frames ∧
        s.onlyLoads s1) ∧
    (∀ s1 d, s.needsDesc site ctx cb = true → s.loadDesc site ctx cb = (s1, .ok d) →
      Sys2Proof.Machine.exec (.descriptorLoad site ctx cb) s = .next s1 ∧ s1.descAt site ctx cb = some d ∧
      (s1.windowAt site ctx cb).isSome = true ∧
      (∀ f ∈ s1.frames, f.site = site → f.key.ctx = ctx → f.key.cb = cb → { f.desc with large := d.large } = d) ∧
      (∀ x k, (x, k.ctx, k.cb) ≠ (site, ctx, cb) → s1.frameAt x k = s.frameAt x k) ∧
      s.onlyLoads s1) := by
  have hexec : Sys2Proof.Machine.exec (.descriptorLoad site ctx cb) s =
    .next (if s.needsDesc site ctx cb then (s.loadDesc site ctx cb).1 else s) := rfl
  refine ⟨fun h => ?_, fun s1 e h hload => ⟨?_, (State.loadDesc_fails hload).1, (State.loadDesc_fails hload).2,
    State.onlyLoads_of_loadDesc hload⟩, fun s1 d h hload => ⟨?_, ?_⟩⟩
  · rw [hexec, if_neg (by simp [h])]
  · rw [hexec, if_pos h, hload]
  · rw [hexec, if_pos h, hload]
  · obtain ⟨hnone, hres⟩ := State.needsDesc_missing h
    have honly := State.onlyLoads_of_loadDesc hload
    obtain ⟨va, rfl⟩ := State.loadDesc_installs hload hnone hres
    refine ⟨State.descAt_installDesc .., State.windowAt_installDesc ..,
      fun f hf h1 h2 h3 => State.frames_installDesc_under hf ⟨h1, h2, h3⟩, fun x k hk => ?_, honly⟩
    rw [State.frameAt_installDesc, if_neg hk, State.frameAt, State.noteFetch_frames]
    rfl

/-! ### A token met and applied -/

/-- The steps of TOKEN_ACCEPT for a token that meets its cell (R26, R36, R41, R302). -/
theorem tokenAccept_steps {s : State} {t : Token} (ht : s.token t.id = some t) (hm : s.meets t) :
    (∀ f, s.finds t.dcell t.key t.epoch t.lid f →
      Sys2Proof.Machine.exec (.tokenAccept t.id) s = .next (s.accepted t.id)) ∧
    (s.admits t → ∀ f s1 d, s.frameAt t.dcell t.key = some f → f.epoch = t.epoch → f.life ≠ .spilled →
      s.loadDesc t.dcell t.key.ctx t.key.cb = (s1, .ok d) →
      Sys2Proof.Machine.exec (.tokenAccept t.id) s = .next (s1.accepted t.id)) ∧
    (s.admits t → ∀ s1 e, (∀ f, s.frameAt t.dcell t.key = some f → f.epoch = t.epoch) →
      s.loadDesc t.dcell t.key.ctx t.key.cb = (s1, .error e) →
      Sys2Proof.Machine.exec (.tokenAccept t.id) s =
        .next (if t.committed then s1.rejectToken t e else s1.accepted t.id)) ∧
    (s.admits t → ∀ f, s.frameAt t.dcell t.key = some f → f.epoch ≠ t.epoch → t.committed = true →
      Sys2Proof.Machine.exec (.tokenAccept t.id) s = .next (s.rejectToken t { cause := .tagExhaust, detail := 1 })) := by
  have hexec : Sys2Proof.Machine.exec (.tokenAccept t.id) s = .next (s.acceptToken t) := execTokenAccept_of_meets ht hm
  rw [hexec]
  refine ⟨fun f hf => ?_, fun h f s1 d hf he hl hd => ?_, fun h s1 e he hd => ?_, fun h f hf he hc => ?_⟩
  · have h := State.admits_of_finds hf
    obtain ⟨hf, he, hl, -, -, -, -, hd⟩ := hf
    obtain ⟨d, hd⟩ := Option.isSome_iff_exists.mp hd
    rw [State.acceptToken_of_frame (State.present_of_frame h hf he hl (State.loadDesc_of_held hd))]
  · rw [State.acceptToken_of_frame (State.present_of_frame h hf he hl hd)]
  · rw [State.acceptToken_of_reject (State.present_of_failed h he hd)]
  · rw [State.acceptToken_of_reject (State.present_of_epoch h hf he), if_pos hc]

/-- A token kept out by the window (R36, R37, R41). -/
theorem tokenAccept_outside {s s1 : State} {t : Token} {d : Desc} {w : Window} (ht : s.token t.id = some t) (hm : s.meets t)
    (h : s.admits t) (hf : s.frameAt t.dcell t.key = none) (hd : s.loadDesc t.dcell t.key.ctx t.key.cb = (s1, .ok d))
    (hs : t.isSignal = false) (hk : s1.keyParked t = false) (hw : s1.windowAt t.dcell t.key.ctx t.key.cb = some w)
    (ho : s1.outsideWindow t.dcell t.key w.wlog = true) :
    (s.parkCount t.dcell < 256 → Sys2Proof.Machine.exec (.tokenAccept t.id) s =
      .next ({ s1 with nextId := s.nextId + 1 }.updateToken t.id (fun x =>
        { x with phase := if t.committed then .parked .window else .parkReserved .window, arrival := s.nextId }))) ∧
    (256 ≤ s.parkCount t.dcell →
      ∃ u, Sys2Proof.Machine.exec (.tokenAccept t.id) s = .next u ∧ (u.token t.id).map (·.phase) = some .refused) := by
  have honly := State.onlyLoads_of_loadDesc hd
  have htokens := State.onlyLoads_tokens honly
  have hexec : Sys2Proof.Machine.exec (.tokenAccept t.id) s = .next (s1.parkToken t .window) :=
    (execTokenAccept_of_meets ht hm).trans (congrArg _ (State.acceptToken_of_park (State.present_of_outside h hf hd hw hs hk ho)))
  have hcount : s1.parkCount t.dcell = s.parkCount t.dcell := by rw [State.parkCount, htokens, State.parkCount]
  have ht1 : s1.token t.id = some t := by rwa [State.token, htokens]
  rw [hexec]
  refine ⟨fun hroom => ?_, fun hfull => ⟨_, rfl, State.parkToken_refused (by rw [ht1]; rfl) (by omega)⟩⟩
  rw [State.parkToken, if_pos (by omega), State.onlyLoads_nextId honly]
  exact congrArg _ (State.updateToken_congr (s := { s1 with nextId := s.nextId + 1 }) ht1 rfl)

/-- The steps of TOKEN_APPLY for a token that finds its frame (R27, R29). -/
theorem tokenApply_steps {s : State} {t : Token} {f : Frame} {st : SlotState} (ht : s.token t.id = some t)
    (hp : t.phase = .accepted) (hc : t.committed = true) (hw : s.mustWait t = false) (hr : s.released t = true)
    (hh : s.hw.health ≠ .fatal) (hf : s.finds t.dcell t.key t.epoch t.lid f) (hst : keyed f.slots t.slot = some st) :
    (st.count ≠ 0 → ∃ u, Sys2Proof.Machine.exec (.tokenApply t.id) s = .next u ∧ s.received u t f st) ∧
    (st.count = 0 → Sys2Proof.Machine.exec (.tokenApply t.id) s =
      .next (((s.keepFrame f.site f.key).rejectToken t { cause := .slotSpent }).learnSys t)) := by
  have hexec : Sys2Proof.Machine.exec (.tokenApply t.id) s = .next ((s.applyTo t f).learnSys t) := by
    show execTokenApply t.id s = _
    unfold execTokenApply
    simp [ht, hp, hc, hw, hr, hh, State.applyToken_of_finds hf]
  refine ⟨fun hn => ⟨_, hexec, State.received_learnSys (State.received_applyTo hf.1 hst hn) t⟩, fun h0 => ?_⟩
  rw [hexec, State.applyTo_of_spent hst h0]

/-- Settles O49: each step through what the receiving cell finds for the token, and the loads through `loadDesc_cases`. -/
theorem tokenSteps : Obligations.TokenSteps := by
  refine ⟨fun s t ht => ⟨fun hp => ?_, fun hp hfault hrem => ?_, fun f hm => (tokenAccept_steps ht hm).1 f,
    fun f hm h hf he hl s1 d => (tokenAccept_steps ht hm).2.1 h f s1 d hf he hl,
    fun s1 e hm h he hd => ?_, fun s1 d hm h hf hd hin hw hroom => ?_, fun s1 d w hm h hf hd hs hk hw ho =>
      tokenAccept_outside ht hm h hf hd hs hk hw ho,
    fun f hm h hf he hc => (tokenAccept_steps ht hm).2.2.2 h f hf he hc,
    fun f st hp hc hw hr hh hf hst => tokenApply_steps ht hp hc hw hr hh hf hst⟩,
    fun s site ctx cb => ⟨(descriptorLoad_steps s site ctx cb).1, (descriptorLoad_steps s site ctx cb).2.1,
      (descriptorLoad_steps s site ctx cb).2.2, fun hready hnone hres hhalt => ?_⟩⟩
  · refine congrArg _ (State.updateToken_congr ht ?_)
    simp [hp]
  · show execTokenAccept t.id s = _
    unfold execTokenAccept
    simp [ht, hp, hfault, Option.isSome_iff_ne_none.mpr hrem]
  · have hexec := (tokenAccept_steps ht hm).2.2.1 h s1 e he hd
    exact ⟨fun hc => hexec.trans (by rw [if_pos hc]), fun hc => hexec.trans (by rw [if_neg (by simp [hc])]; rfl)⟩
  · obtain ⟨w, hw⟩ := Option.isSome_iff_exists.mp hw
    have hpresent := State.present_of_room h hf hd hw (hin.imp_right fun hk => ⟨hk.1, hk.2 w hw⟩) hroom
    exact (execTokenAccept_of_meets ht hm).trans (congrArg _ (State.acceptToken_of_frame hpresent))
  · have hany : s.ready.any (fun r => r.site == site && r.key.ctx == ctx && r.key.cb == cb) = true := by
      simpa [and_assoc] using hready
    rw [State.needsDesc, hnone, hres, hhalt, hany, Bool.or_true]
    rfl

end Sys2Proof.Machine
end

section
/-! What waits on a cell goes on (R32, R33, R37, R43 to R46): parked tokens, waiting signals, spilled frames and ready entries. -/

namespace Sys2Proof.Machine

/-! ### The least of a list -/

theorem leastBy_mem {α : Type} {f : α → Nat} {l : List α} {x : α} (h : leastBy f l = some x) : x ∈ l := by
  induction l generalizing x with
  | nil => cases h
  | cons a l ih =>
    rw [leastBy] at h
    split at h
    · obtain rfl := Option.some.inj h
      exact List.mem_cons_self
    · rename_i y hy
      split at h
      · obtain rfl := Option.some.inj h
        exact List.mem_cons_of_mem _ (ih hy)
      · obtain rfl := Option.some.inj h
        exact List.mem_cons_self

theorem leastBy_eq_none {α : Type} {f : α → Nat} {l : List α} : leastBy f l = none ↔ l = [] := by
  cases l with
  | nil => simp [leastBy]
  | cons a l =>
    rw [leastBy]
    split
    · simp
    · split <;> simp

/-! ### The choice of a ready entry -/

theorem State.chooseIn_mem {s : State} {site : Nat} {l : List Ready} {r : Ready} (h : s.chooseIn site l = some r) : r ∈ l := by
  unfold State.chooseIn at h
  split at h
  · cases h
  · exact (List.mem_filter.mp (leastBy_mem h)).1

theorem State.chooseIn_eq_none {s : State} {site : Nat} {l : List Ready} (h : s.chooseIn site l = none) : l = [] := by
  unfold State.chooseIn at h
  split at h
  · rename_i hl
    exact leastBy_eq_none.mp hl
  · rename_i o ho
    have hmem : o ∈ l.filter (fun r => r.key.ctx == o.key.ctx && r.key.cb == o.key.cb) :=
      List.mem_filter.mpr ⟨leastBy_mem ho, by simp⟩
    rw [leastBy_eq_none.mp h] at hmem
    cases hmem

/-- The candidates of a class. -/
def State.ofClass (s : State) (site c : Nat) : List Ready := (s.candidates site).filter (fun r => r.cls == c)

/-- ChooseReady gives the urgent entry of class 3 that waits longest, or else an entry of the first class that has one (R45). -/
theorem State.chooseReady_cases {s : State} {site : Nat} {r : Ready} (h : s.chooseReady site = some r) :
    r ∈ s.candidates site ∧ (r.urgent = true ∨
      ∀ c ≤ 3, r.cls < c → s.ofClass site c = []) := by
  unfold State.chooseReady at h
  dsimp only at h
  split at h
  · rename_i x hx
    obtain rfl := Option.some.inj h
    have hmem := List.mem_filter.mp (leastBy_mem hx)
    simp only [Bool.and_eq_true] at hmem
    exact ⟨hmem.1, .inl hmem.2.2⟩
  · obtain ⟨before, a, after, hlist, ha, hnone⟩ := List.findSome?_eq_some_iff.mp h
    obtain ⟨hmem, hcls⟩ := List.mem_filter.mp (State.chooseIn_mem ha)
    refine ⟨hmem, .inr fun c hc hlt => ?_⟩
    obtain rfl : r.cls = a := by simpa using hcls
    have hin : c ∈ before ++ r.cls :: after := hlist ▸ (by simp; omega : c ∈ [3, 2, 1, 0])
    have hfalling : (before ++ r.cls :: after).Pairwise (· > ·) := hlist ▸ (by decide : [3, 2, 1, 0].Pairwise (· > ·))
    obtain hb | hb := List.mem_append.mp hin
    · exact State.chooseIn_eq_none (hnone c hb)
    · obtain rfl | hb := List.mem_cons.mp hb
      · omega
      · have := (List.pairwise_cons.mp (List.pairwise_append.mp hfalling).2.1).1 c hb
        omega

/-- An entry that can be chosen is of a context resident on its site (R45). -/
theorem State.candidates_resident {s : State} {site : Nat} {r : Ready} (h : r ∈ s.candidates site) :
    s.residentAt site r.key.ctx = true := by
  obtain ⟨-, hr⟩ := List.mem_filter.mp h
  simp only [Bool.and_eq_true, State.fires, Bool.or_eq_true, beq_iff_eq] at hr
  obtain ⟨-, -, hctx | hres⟩ := hr
  · simp [State.residentAt, hctx]
  · unfold State.residentAt
    split
    · rfl
    · cases hr : s.resident r.key.ctx with
      | none => simp [hr] at hres
      | some x =>
        simp only [hr, Bool.and_eq_true] at hres
        exact hres.2

/-! ### Parked tokens, waiting signals and spilled frames -/

theorem execParkReexamine_none {s : State} {site ctx cb : Nat}
    (h : s.tokens.filter (fun t => t.dcell == site && t.parkConcerns ctx cb) = []) :
    Sys2Proof.Machine.exec (.parkReexamine site ctx cb) s = .next s := by
  show Host.Outcome.next (s.reexamine site ctx cb) = .next s
  rw [State.reexamine, h]
  rfl

theorem execParkReexamine_one {s : State} {site ctx cb : Nat} {t : Token} {f : Frame}
    (h : s.tokens.filter (fun t => t.dcell == site && t.parkConcerns ctx cb) = [t]) (ht : s.token t.id = some t)
    (hf : s.finds t.dcell t.key t.epoch t.lid f) :
    Sys2Proof.Machine.exec (.parkReexamine site ctx cb) s = .next (s.accepted t.id) := by
  have hunpark : s.unpark t.id = s.accepted t.id := by
    have hadm := State.admits_of_finds hf
    obtain ⟨hf, he, hl, -, -, -, -, hd⟩ := hf
    obtain ⟨d, hd⟩ := Option.isSome_iff_exists.mp hd
    rw [State.unpark, ht]
    dsimp only
    rw [State.present_of_frame hadm hf he hl (State.loadDesc_of_held hd), State.accepted]
  show Host.Outcome.next (s.reexamine site ctx cb) = _
  rw [State.reexamine, h, ← hunpark]
  rfl

theorem execWaitingSignalServe_spec {s : State} {t : Token} {f : Frame} {st : SlotState} (ht : s.token t.id = some t)
    (hp : t.phase = .waiting) (hs : t.source = .completion) (hh : s.hw.health ≠ .fatal)
    (hf : s.finds t.dcell t.key t.epoch t.lid f) (hst : keyed f.slots t.slot = some st) (hc : st.count ≠ 0) :
    ∃ u, Sys2Proof.Machine.exec (.waitingSignalServe t.id) s = .next u ∧ s.received u t f st := by
  refine ⟨s.applyToken t, ?_, ?_⟩
  · show execWaitingSignalServe t.id s = _
    unfold execWaitingSignalServe
    simp [ht, hp, hs, hh]
  · rw [State.applyToken_of_finds hf]
    exact State.received_applyTo hf.1 hst hc

/-- The fill of the Spilled frame of an instance on a runner, where there is room (R33). -/
theorem execFrameFill_spec {s : State} {f : Frame} (hf : s.frameAt f.site f.key = some f) (hl : f.life = .spilled)
    (hrun : s.running f.site f.key none = true) (hroom : s.hasRoom f.site f.key.ctx f.desc = true) :
    ∃ t g, Sys2Proof.Machine.exec (.frameFill f.site f.key.ctx f.key.cb f.key.tag) s = .next t ∧
      t.frameAt f.site f.key = some g ∧ g.life = (if f.doomed then .dying else .live) ∧ g.doomed = false ∧
      { g with life := f.life, entry := f.entry, chunk := f.chunk, doomed := f.doomed } = f ∧
      { t with frames := s.frames } = s := by
  have hmade : s.makeRoom f.site f.key.ctx f.desc = .made s := by
    rw [State.makeRoom, State.spillFor, if_pos hroom]
  have hat : (s.fillFrame f).frameAt f.site f.key = some { f with
      life := if f.doomed then .dying else .live
      doomed := false
      entry := (s.takeEntry f.site f.key.ctx f.desc).1
      chunk := (s.takeEntry f.site f.key.ctx f.desc).2 } := by
    rw [State.fillFrame, State.frameAt_updateFrame, hf]
    · rfl
    · exact fun _ h => h
  refine ⟨s.fillFrame f, _, ?_, hat, rfl, rfl, rfl, rfl⟩
  show execFrameFill f.site f.key.ctx f.key.cb f.key.tag s = _
  unfold execFrameFill
  simp [hf, hl, hrun, hmade]

/-! ### A runner takes an entry -/

theorem execReadyChoose_halted {s : State} (runner : Nat) (h : s.hw.rmHalted = true ∨ s.io.nofw = true) :
    Sys2Proof.Machine.exec (.readyChoose ringmaster runner) s = .next s := by
  refine if_neg fun hc => ?_
  obtain h | h := h <;> simp [h] at hc

theorem execReadyChoose_eq {s s1 : State} {site runner : Nat} {r : Ready} {f : Frame} {x : Except Trap Desc}
    (hr : runner < runnerCount site) (hfree : s.instAt site runner = none) (hh : s.hw.health ≠ .fatal)
    (hrm : site = ringmaster → s.hw.rmHalted = false ∧ s.io.nofw = false) (hc : s.chooseReady site = some r)
    (hf : s.frameAt site r.key = some f) (hload : s.loadDesc site r.key.ctx r.key.cb = (s1, x)) :
    Sys2Proof.Machine.exec (.readyChoose site runner) s = .next { s1 with
      nextId := s1.nextId + 1
      insts := newInst ((s1.frameAt site r.key).getD f) runner r.thr r.cls s1.nextId r.subst :: s1.insts
      ready := (s1.ready.filter (fun x => x.stamp != r.stamp)).map (fun x => if x.site == site then x.age else x) } := by
  show execReadyChoose site runner s = _
  unfold execReadyChoose
  rw [if_pos, hc]
  · dsimp only
    rw [hf]
    dsimp only
    rw [hload]
  · refine ⟨hr, by simp [hfree], hh, ?_⟩
    by_cases h : site = ringmaster
    · simp [hrm h]
    · simp [h]

/-- The frame of a chosen entry once the descriptor is loaded: it follows a descriptor that its cell lacked (R302, R303). -/
theorem State.entryOf_of_load {s s1 : State} {site : Nat} {k : Key} {f : Frame} {x : Except Trap Desc}
    (hres : s.residentAt site k.ctx = true) (hf : s.frameAt site k = some f)
    (hload : s.loadDesc site k.ctx k.cb = (s1, x)) (thr : Nat) :
    ∃ g, s1.frameAt site k = some g ∧ g.desc.entryOf thr = (match x with
      | .ok d => if (s.descAt site k.ctx k.cb).isSome then f.desc else d
      | .error _ => f.desc).entryOf thr := by
  cases hd : s.descAt site k.ctx k.cb with
  | some d =>
    rw [State.loadDesc_of_held hd] at hload
    obtain ⟨rfl, rfl⟩ := Prod.mk.inj hload
    exact ⟨f, hf, rfl⟩
  | none =>
    cases x with
    | error e =>
      refine ⟨f, ?_, rfl⟩
      rw [State.frameAt, (State.loadDesc_fails hload).2]
      exact hf
    | ok d =>
      obtain ⟨va, rfl⟩ := State.loadDesc_installs hload hd hres
      refine ⟨f.under d, ?_, rfl⟩
      rw [State.frameAt_installDesc, if_pos rfl, State.frameAt, State.noteFetch_frames]
      exact congrArg (Option.map _) hf

theorem State.onlyLoads_ready {s t : State} (h : s.onlyLoads t) : t.ready = s.ready := by
  simpa using congrArg State.ready h.2

theorem Ready.age_stamp (r : Ready) : r.age.stamp = r.stamp := by
  unfold Ready.age
  split
  · split <;> rfl
  · rfl

/-- Settles O50: each step by its own lemma above. -/
theorem waitingSteps : Obligations.WaitingSteps := by
  refine ⟨fun s site ctx cb => ⟨execParkReexamine_none, fun t f => execParkReexamine_one⟩, fun s site ctx t hroom hl ht => ?_,
    fun s t f st ht hp hs hh hf hst hc => execWaitingSignalServe_spec ht hp hs hh hf hst hc,
    fun s f hf hl hrun hroom => execFrameFill_spec hf hl hrun hroom, fun s site runner r f hr hfree hh hc hf => ⟨?_, ?_⟩,
    fun s site r h => ⟨(State.chooseReady_cases h).1, fun hurgent x hx hcls => ?_⟩, fun s site r hroom hl => ?_⟩
  · show execParkOverflowReadback site ctx s = _
    rw [execParkOverflowReadback, if_pos hroom, hl]
    refine congrArg Host.Outcome.next (State.updateToken_congr ht ?_)
    rfl
  · rintro rfl h
    exact execReadyChoose_halted runner h
  · intro s1 x hrm hload
    obtain ⟨g, hg, hentry⟩ := State.entryOf_of_load (State.candidates_resident (State.chooseReady_cases hc).1) hf hload r.thr
    obtain ⟨hsite, hkey⟩ := State.frameAt_site_key hg
    have honly := State.onlyLoads_of_loadDesc hload
    have hexec := execReadyChoose_eq hr hfree hh hrm hc hf hload
    rw [hg, Option.getD_some] at hexec
    refine ⟨_, newInst g runner r.thr r.cls s1.nextId r.subst, hexec, ?_, hkey, rfl, rfl, rfl, rfl, rfl, rfl, rfl, rfl,
      hentry, ?_, ?_⟩
    · exact List.find?_cons_of_pos (by simp [newInst, hsite])
    · intro y hy
      obtain ⟨z, hz, rfl⟩ := List.mem_map.mp hy
      have hne : z.stamp ≠ r.stamp := by simpa using (List.mem_filter.mp hz).2
      split
      · rwa [Ready.age_stamp]
      · exact hne
    · rw [← State.onlyLoads_insts honly, ← State.onlyLoads_ready honly, ← State.onlyLoads_nextId honly]
      exact honly
  · obtain ⟨hmem, hu | hnone⟩ := State.chooseReady_cases h
    · rw [hurgent r hmem] at hu
      cases hu
    · by_contra hlt
      have hx' : x ∈ s.ofClass site x.cls := List.mem_filter.mpr ⟨hx, by simp⟩
      rw [hnone x.cls hcls (by omega)] at hx'
      cases hx'
  · show execReadyOverflowReturn site s = _
    rw [execReadyOverflowReturn, if_pos hroom, hl]

end Sys2Proof.Machine
end

section
/-! Fault tokens and actions delivered (R43, R238, R366, R368, R371, R372). -/

namespace Sys2Proof.Machine

/-! ### Events and halted contexts -/

theorem State.raiseEvent_halted (s : State) (cls tag : Nat) (ws : List W64) :
    (s.raiseEvent cls tag ws).halted = s.halted := by
  unfold State.raiseEvent
  split <;> rfl

theorem State.raiseEvent_actions (s : State) (cls tag : Nat) (ws : List W64) :
    (s.raiseEvent cls tag ws).actions = s.actions := by
  unfold State.raiseEvent
  split <;> rfl

/-- The context of an item is halted on its cell afterwards (R368). -/
theorem State.haltAt_haltedAt (s : State) (it : Item) (record : List W64) :
    (s.haltAt it record).haltedAt it.site it.ctx = true := by
  unfold State.haltAt State.haltedAt
  rw [State.raiseEvent_halted]
  dsimp only
  split
  · assumption
  · simp

theorem State.haltAt_actions (s : State) (it : Item) (record : List W64) : (s.haltAt it record).actions = s.actions := by
  unfold State.haltAt
  rw [State.raiseEvent_actions]
  dsimp only
  split <;> rfl

theorem State.doubleFault_haltedAt (s : State) (it : Item) (record : List W64) :
    (s.doubleFault it record).haltedAt it.site it.ctx = true := State.haltAt_haltedAt ..

/-! ### The frame of a handler -/

/-- Words written one after another stand in the frame as far as it has them. -/
theorem Frame.word_putWords {ws : List W64} {n k : Nat} {w : W64} {f : Frame} (hk : ws[k]? = some w) (hw : n + k < f.desc.words) :
    ((ws.zipIdx n).foldl (fun f (w, k) => f.putWord k w false) f).word (n + k) = w := by
  have later (ws : List W64) (m x : Nat) (g : Frame) (hx : x < m) :
      ((ws.zipIdx m).foldl (fun f (w, k) => f.putWord k w false) g).word x = g.word x := by
    induction ws generalizing m g with
    | nil => rfl
    | cons a ws ih =>
      rw [List.zipIdx_cons, List.foldl_cons, ih _ _ (by omega)]
      exact g.word_putWord_other _ _ (by omega)
  induction ws generalizing n k f with
  | nil => cases hk
  | cons a ws ih =>
    rw [List.zipIdx_cons, List.foldl_cons]
    cases k with
    | zero =>
      obtain rfl : a = w := by simpa using hk
      rw [later _ _ _ _ (by omega)]
      exact f.word_putWord_self _ _ hw
    | succ k =>
      rw [show n + (k + 1) = n + 1 + k by omega]
      exact ih (by simpa using hk) (by rw [Frame.putWord_desc]; omega)

/-- A state with the handler frame of a fault token in the token's place (R366). -/
def State.withHandler (s : State) (t : Token) (d : Desc) (item : Nat) (held : Option VWord) (ws : List W64) : State :=
  let s3 := s.createFrame t.dcell t.key t.epoch t.lid d (some ⟨item, held⟩) false
  let s4 := s3.updateFrame t.dcell t.key (fun f => ws.zipIdx.foldl (fun f (w, k) => f.putWord k w false) f)
  { s4 with items := updateFirst (fun x => x.id == item) (fun x => { x with handler := some t.key }) s4.items }.dropToken t.id

theorem State.frameAt_createFrame (s : State) (site : Nat) (k : Key) (epoch : Bool) (lid : Nat) (d : Desc)
    (handler : Option HandlerMark) (fresh : Bool) :
    ∃ g, (s.createFrame site k epoch lid d handler fresh).frameAt site k = some g ∧ g.handler = handler ∧ g.desc = d ∧
      g.lid = lid ∧ g.epoch = epoch :=
  ⟨_, List.find?_cons_of_pos (by simp), rfl, rfl, rfl, rfl⟩

theorem State.frameAt_withHandler (s : State) (t : Token) (d : Desc) (item : Nat) (held : Option VWord) (ws : List W64) :
    ∃ g, (s.withHandler t d item held ws).frameAt t.dcell t.key = some g ∧ g.handler = some ⟨item, held⟩ ∧ g.desc = d ∧
      g.lid = t.lid ∧ g.epoch = t.epoch ∧ ∀ k w, ws[k]? = some w → k < d.words → g.word k = w := by
  obtain ⟨g, hcreated, hhandler, hdesc, hlid, hepoch⟩ :=
    s.frameAt_createFrame t.dcell t.key t.epoch t.lid d (some ⟨item, held⟩) false
  obtain ⟨xs, ps, hput⟩ := Frame.putWords_eq ws.zipIdx g
  refine ⟨ws.zipIdx.foldl (fun f (w, k) => f.putWord k w false) g, ?_, ?_, ?_, ?_, ?_, fun k w hk hw => ?_⟩
  · show ((s.createFrame t.dcell t.key t.epoch t.lid d (some ⟨item, held⟩) false).updateFrame t.dcell t.key _).frameAt
      t.dcell t.key = _
    rw [State.frameAt_updateFrame, hcreated, Option.map_some]
    intro f hf
    obtain ⟨xs, ps, h⟩ := Frame.putWords_eq ws.zipIdx f
    rw [h]
    exact hf
  · rw [hput, hhandler]
  · rw [hput, hdesc]
  · rw [hput, hlid]
  · rw [hput, hepoch]
  · have := Frame.word_putWords (n := 0) (f := g) hk (by rw [hdesc]; omega)
    rwa [Nat.zero_add] at this

/-! ### A fault token where it arrives -/

/-- A fault token that is delivered now: offered, with its record, its launch not marked killed, and nothing before it (R37, R366,
R374, R391, R414). -/
def State.deliversFault (s : State) (t : Token) (item : Nat) (held : Option VWord) (ws : List W64) : Prop :=
  s.token t.id = some t ∧ t.phase = .offered ∧ s.refusesDirect t = false ∧ s.parkDue t = false ∧ s.hw.health ≠ .fatal ∧
    t.source = .fault item held ∧ t.payload = .words ws ∧ (t.key.ctx ≠ 0 → (t.dcell, t.key.ctx, t.lid) ∉ s.killed)

/-- The tests of `deliverFault` that come before the frame of its key. -/
theorem deliversFault_tests {s : State} {t : Token} (hc : t.key.ctx = 0 → s.ctxValid 0 = true)
    (hres : s.residentAt t.dcell t.key.ctx = true) (hhalt : s.haltedAt t.dcell t.key.ctx = false) :
    ¬(t.key.ctx == 0 && !s.ctxValid 0) = true ∧ ¬(!s.residentAt t.dcell t.key.ctx || s.haltedAt t.dcell t.key.ctx) = true := by
  refine ⟨?_, by simp [hres, hhalt]⟩
  by_cases h0 : t.key.ctx = 0
  · simp [h0, hc h0]
  · simp [h0]

section
variable {s : State} {t : Token} {item : Nat} {held : Option VWord} {ws : List W64} (h : s.deliversFault t item held ws)
include h

theorem exec_faultTokenDelivery : Sys2Proof.Machine.exec (.faultTokenDelivery t.id) s = .next (s.deliverFault t item held ws) := by
  obtain ⟨ht, hp, hdirect, hdue, hh, hsrc, hpay, -⟩ := h
  show execFaultTokenDelivery t.id s = _
  unfold execFaultTokenDelivery
  simp [ht, hp, hdirect, hdue, hh, hsrc, hpay]

theorem deliversFault_not_killed : (t.key.ctx != 0 && s.killed.contains (t.dcell, t.key.ctx, t.lid)) = false := by
  obtain ⟨-, -, -, -, -, -, -, hkill⟩ := h
  by_cases hc : t.key.ctx = 0
  · simp [hc]
  · simp [hkill hc]

/-- A fault of context 0 without a context table is a double fault of the faulting cell (R358, R368). -/
theorem State.deliverFault_invalid (hc : t.key.ctx = 0) (hv : s.ctxValid 0 = false) {it : Item}
    (hit : s.items.find? (fun x => x.id == item) = some it) :
    s.deliverFault t item held ws = ((s.dropToken t.id).takeItem item).doubleFault it (doubleRecord ws) := by
  unfold State.deliverFault
  dsimp only
  rw [if_neg (Bool.eq_false_iff.mp (deliversFault_not_killed h)), if_pos (by simp [hc, hv]), hit]

/-- Where its context is halted or not resident a fault token goes to the mailbox, or is refused (R358, R366). -/
theorem State.deliverFault_away (hc : t.key.ctx = 0 → s.ctxValid 0 = true)
    (haway : ¬(s.residentAt t.dcell t.key.ctx = true ∧ s.haltedAt t.dcell t.key.ctx = false)) :
    s.deliverFault t item held ws =
      if s.ctxValid t.key.ctx then s.mailToken t else s.rejectToken t { cause := .noContext } := by
  unfold State.deliverFault
  dsimp only
  rw [if_neg (Bool.eq_false_iff.mp (deliversFault_not_killed h)), if_neg, if_pos]
  · by_cases hr : s.residentAt t.dcell t.key.ctx = true
    · simpa [hr] using haway
    · simp [hr]
  · by_cases h0 : t.key.ctx = 0
    · simp [h0, hc h0]
    · simp [h0]

variable (hc : t.key.ctx = 0 → s.ctxValid 0 = true) (hres : s.residentAt t.dcell t.key.ctx = true)
  (hhalt : s.haltedAt t.dcell t.key.ctx = false)
include hc hres hhalt

/-- A frame of its key that stands makes it a double fault of the faulting cell (R366, R368). -/
theorem State.deliverFault_framed {f : Frame} {it : Item} (hf : s.frameAt t.dcell t.key = some f)
    (hit : s.items.find? (fun x => x.id == item) = some it) :
    s.deliverFault t item held ws = ((s.dropToken t.id).takeItem item).doubleFault it (doubleRecord ws) := by
  obtain ⟨hvalid, hhere⟩ := deliversFault_tests hc hres hhalt
  unfold State.deliverFault
  dsimp only
  rw [if_neg (Bool.eq_false_iff.mp (deliversFault_not_killed h)), if_neg hvalid, if_neg hhere, if_pos (by simp [hf]), hit]

/-- The same for an item saved with its context: a `kill` waits for it (R372). -/
theorem State.deliverFault_framed_away {f : Frame} {it : Item} (hf : s.frameAt t.dcell t.key = some f)
    (hnone : s.items.find? (fun x => x.id == item) = none) (hit : s.awayItem item = some it) :
    s.deliverFault t item held ws = ((s.dropToken t.id).sendKill it).haltAt it (doubleRecord ws) := by
  obtain ⟨hvalid, hhere⟩ := deliversFault_tests hc hres hhalt
  unfold State.deliverFault
  dsimp only
  rw [if_neg (Bool.eq_false_iff.mp (deliversFault_not_killed h)), if_neg hvalid, if_neg hhere, if_pos (by simp [hf]), hnone, hit]

/-- Where there is none, and its codeblock declares threadlet 0, its handler frame is created (R366). -/
theorem State.deliverFault_creates {s1 : State} {d : Desc} {th : ThreadDecl} (hf : s.frameAt t.dcell t.key = none)
    (hd : s.loadDesc t.dcell t.key.ctx t.key.cb = (s1, .ok d)) (hth : keyed d.threads 0 = some th)
    (hroom : s1.hasRoom t.dcell t.key.ctx d = true) :
    s.deliverFault t item held ws = (s1.withHandler t d item held ws).enqueueWith t.dcell t.key 0 3 none := by
  obtain ⟨hvalid, hhere⟩ := deliversFault_tests hc hres hhalt
  have hmade : s1.makeRoom t.dcell t.key.ctx d = .made s1 := by
    rw [State.makeRoom, State.spillFor, if_pos hroom]
  unfold State.deliverFault
  dsimp only
  rw [if_neg (Bool.eq_false_iff.mp (deliversFault_not_killed h)), if_neg hvalid, if_neg hhere, if_neg (by simp [hf]), hd]
  dsimp only
  rw [hth, hmade]
  rfl

end

end Sys2Proof.Machine
end

section
/-! Actions delivered to their items, and packets of other packages (R244, R258, R371, R372). -/

namespace Sys2Proof.Machine

/-! ### Frames freed and items taken -/

/-- What the freeing of a frame changes: the frame goes, and a `kill` may follow (R33, R372). -/
theorem State.freeFrame_eq (s : State) (site : Nat) (k : Key) :
    ∃ fs n as, s.freeFrame site k = { s with frames := fs, nextId := n, actions := as } := by
  unfold State.freeFrame
  split
  · exact ⟨_, _, _, rfl⟩
  · dsimp only
    split
    · exact ⟨_, _, _, rfl⟩
    · split <;> exact ⟨_, _, _, rfl⟩

theorem State.settle_eq (s : State) (site : Nat) (k : Key) :
    ∃ fs n as, s.settle site k = { s with frames := fs, nextId := n, actions := as } := by
  unfold State.settle
  split
  · split
    · exact s.freeFrame_eq site k
    · exact ⟨_, _, _, rfl⟩
  · exact ⟨_, _, _, rfl⟩

theorem State.not_mem_takeItem {s u : State} {id : Nat} (h : u.items = (s.takeItem id).items) : ∀ x ∈ u.items, x.id ≠ id := by
  rw [h]
  intro x hx
  simpa using (List.mem_filter.mp hx).2

theorem State.op_updateOp {s : State} {id : Nat} {o : Op} (ho : s.op id = some o) {f : Op → Op} (hf : ∀ x, (f x).id = x.id) :
    (s.updateOp id f).op id = some (f o) := by
  refine (find?_updateFirst_self (fun x hx => ?_) s.ops).trans (congrArg (Option.map f) ho)
  simpa [hf] using hx

theorem State.op_id {s : State} {id : Nat} {o : Op} (h : s.op id = some o) : o.id = id := by
  simpa using List.find?_some h

/-- An operation that leaves the request table: only its entry and a pin go (R291). -/
theorem State.dropOp_eq (s : State) (id : Nat) :
    ∃ gs, s.dropOp id = { s with ops := s.ops.filter (fun x => x.id != id), gslots := gs } := by
  unfold State.dropOp
  split
  · rename_i h
    have hall : s.ops.filter (fun x => x.id != id) = s.ops :=
      List.filter_eq_self.mpr fun x hx => by simpa using List.find?_eq_none.mp h x hx
    exact ⟨s.gslots, by rw [hall]⟩
  · dsimp only
    split
    · split <;> exact ⟨_, rfl⟩
    · exact ⟨_, rfl⟩

/-! ### An operation performed again, or completed by a value -/

theorem Op.replay_parts_not_held (o : Op) : ∀ x ∈ o.replay.parts, x.isHeld = false := by
  intro x hx
  obtain ⟨p, -, rfl⟩ := List.mem_map.mp hx
  unfold Part.isHeld
  cases hp : p.st <;> simp [hp]

theorem Op.replay_kind {o : Op} (h : o.kind.access = true) : o.replay.kind = o.kind := by
  unfold Op.replay
  cases hk : o.kind <;> simp_all [OpKind.access]

theorem Op.substitute_part (o : Op) (v : W64) {k : Nat} {q : Part} (hq : o.parts[k]? = some q) :
    ∃ y, (o.substitute v).parts[k]? = some y ∧
      if q.isHeld then y.off = q.off ∧ y.len = q.len ∧ y.elem = q.elem ∧
        y.st = .done (BitVec.ofNat 64 (v.toNat / 256 ^ q.off % 256 ^ q.len)) false
      else y = q := by
  unfold Op.substitute
  dsimp only
  rw [List.getElem?_map, hq]
  refine ⟨_, rfl, ?_⟩
  unfold Part.isHeld
  cases hst : q.st <;> simp [hst]

theorem Op.substitute_kind {o : Op} (v : W64) (h : ∀ w c sc x b z, o.kind ≠ .atomic .fadd w c sc x b z) :
    (o.substitute v).kind = o.kind := by
  unfold Op.substitute
  dsimp only
  split
  · rename_i hk
    exact absurd hk (h _ _ _ _ _ _)
  · rfl

/-! ### The delivery of an action -/

/-- An action that reaches its cell (R372). -/
def State.reaches (s : State) (a : Action) : Prop :=
  s.actions.find? (fun x => x.id == a.id) = some a ∧ s.residentAt a.site a.ctx = true ∧ s.actionBefore a = false ∧
    s.commitDone a.seq = true

/-- The state without an action. -/
def State.withoutAction (s : State) (a : Action) : State := { s with actions := s.actions.filter (fun x => x.id != a.id) }

section
variable {s : State} {a : Action} (h : s.reaches a)
include h

theorem exec_faultActionDelivery : Sys2Proof.Machine.exec (.faultActionDelivery a.id) s = .next (s.deliverAction a) := by
  obtain ⟨ha, hres, hbefore, hdone⟩ := h
  show execFaultActionDelivery a.id s = _
  unfold execFaultActionDelivery
  simp [ha, hres, hbefore, hdone]

theorem exec_faultActionDelivery_none (hit : s.itemOf a = none) :
    Sys2Proof.Machine.exec (.faultActionDelivery a.id) s = .next (s.withoutAction a) := by
  rw [exec_faultActionDelivery h, State.deliverAction, hit]
  rfl

theorem exec_faultActionDelivery_some {it : Item} (hit : s.itemOf a = some it) :
    Sys2Proof.Machine.exec (.faultActionDelivery a.id) s = .next ((s.withoutAction a).applyAction a it) := by
  rw [exec_faultActionDelivery h, State.deliverAction, hit]
  rfl

end

section
variable {s : State} {a : Action} {it : Item}

/-- A suspended entry made ready again (R371). -/
theorem State.requeue_spec (s : State) (it : Item) (thr : Nat) (sub : Option (Nat × (Nat × Nat × Bool) × W64)) :
    (∀ x ∈ (s.requeue it thr sub).items, x.id ≠ it.id) ∧ (s.requeue it thr sub).actions = s.actions ∧
    (∃ r ∈ (s.requeue it thr sub).ready, r.site = it.site ∧ r.key = it.key ∧ r.thr = thr ∧ r.subst = sub) ∧
    (s.requeue it thr sub).kept = s.kept := by
  obtain ⟨r, u, heq, hu, hr1, hr2, hr3, -, hr5, -⟩ := (s.takeItem it.id).enqueueWith_spec it.site it.key thr
    (((s.frameAt it.site it.key).bind (fun f => (keyed f.desc.threads thr).map (·.cls))).getD 0) sub
  have hreq : s.requeue it thr sub = { u with nextId := (s.takeItem it.id).nextId + 1, ready := (s.takeItem it.id).ready ++ [r] } := heq
  have hsame : u.items = (s.takeItem it.id).items ∧ u.actions = s.actions := by
    obtain rfl | ⟨v, rfl⟩ := hu <;> exact ⟨rfl, rfl⟩
  refine ⟨?_, ?_, ⟨r, ?_, hr1, hr2, hr3, hr5⟩, ?_⟩
  · rw [hreq]
    exact State.not_mem_takeItem hsame.1
  · rw [hreq]
    exact hsame.2
  · rw [hreq]
    exact List.mem_append_right _ List.mem_cons_self
  · rw [State.requeue, State.enqueueWith_kept, State.takeItem_kept]

/-- An action on a suspended entry (R371). -/
theorem State.applyAction_suspended {thr cls : Nat} (s : State) (a : Action) (hb : it.body = .suspended thr cls) :
    (∀ x ∈ (s.applyAction a it).items, x.id ≠ it.id) ∧
    (a.act ≠ .kill → (s.applyAction a it).actions = s.actions) ∧
    (a.act = .rply → ∃ r ∈ (s.applyAction a it).ready, r.site = it.site ∧ r.key = it.key ∧ r.thr = thr ∧ r.subst = none) ∧
    (∀ v, a.act = .rsup v → ∃ r ∈ (s.applyAction a it).ready, r.site = it.site ∧ r.key = it.key ∧ r.thr = thr ∧
      r.subst = some (a.didx, a.opcode, v)) ∧
    (a.act = .kill → (s.applyAction a it).ready = s.ready) ∧ (s.applyAction a it).kept = s.kept := by
  unfold State.applyAction
  rw [hb]
  dsimp only
  cases hact : a.act with
  | rply =>
    obtain ⟨hitems, hactions, hready, hkept⟩ := s.requeue_spec it thr none
    exact ⟨hitems, fun _ => hactions, fun _ => hready, fun v hv => (by cases hv), fun hk => (by cases hk), hkept⟩
  | rsup v =>
    obtain ⟨hitems, hactions, hready, hkept⟩ := s.requeue_spec it thr (some (a.didx, a.opcode, v))
    refine ⟨hitems, fun _ => hactions, fun hr => (by cases hr), fun x hx => ?_, fun hk => (by cases hk), hkept⟩
    obtain rfl : v = x := by simpa using hx
    exact hready
  | kill =>
    have hkill : s.killItem it = (s.takeItem it.id).settle it.site it.key := by
      rw [State.killItem, State.discardBody, hb]
    obtain ⟨fs, n, as, h1⟩ := (s.takeItem it.id).settle_eq it.site it.key
    obtain ⟨fs', n', as', h2⟩ := ((s.takeItem it.id).settle it.site it.key).settle_eq it.site it.key
    refine ⟨?_, fun hk => absurd rfl hk, fun hr => (by cases hr), fun v hv => (by cases hv), fun _ => ?_, ?_⟩
    · exact State.not_mem_takeItem (by rw [hkill, h2, h1])
    · rw [hkill, h2, h1]
      rfl
    · rw [hkill, State.settle_kept, State.settle_kept, State.takeItem_kept]

/-- An access performed again from its held parts (R258, R371). -/
theorem State.applyAction_replays {id : Nat} {o : Op} (s : State) (a : Action) (hb : it.body = .op id) (ho : s.op id = some o)
    (hacc : o.kind.access = true) (hact : a.act = .rply) :
    s.applyAction a it = (s.takeItem it.id).updateOp id Op.replay := by
  have hid := State.op_id ho
  unfold State.applyAction
  rw [hb]
  dsimp only
  rw [ho]
  dsimp only
  rw [hact, State.actOnOp, State.restartOp, hid]
  cases hk : o.kind <;> simp_all [OpKind.access]

/-- An access completed by the value of an action (R371). -/
theorem State.applyAction_substitutes {id : Nat} {o : Op} {v : W64} (s : State) (a : Action) (hb : it.body = .op id)
    (ho : s.op id = some o) (hacc : o.kind.access = true) (hact : a.act = .rsup v) :
    s.applyAction a it = (s.takeItem it.id).updateOp id (fun o => o.substitute v) := by
  have hid := State.op_id ho
  unfold State.applyAction
  rw [hb]
  dsimp only
  rw [ho]
  dsimp only
  rw [hact, State.actOnOp, if_pos hacc, hid]

/-- An operation killed (R371). -/
theorem State.applyAction_kills {id : Nat} (s : State) (a : Action) (hb : it.body = .op id) (hact : a.act = .kill) :
    ∃ gs, s.applyAction a it =
      { s.takeItem it.id with ops := s.ops.filter (fun x => x.id != id), gslots := gs } := by
  unfold State.applyAction
  rw [hb]
  dsimp only
  cases ho : s.op id with
  | none =>
    have hall : s.ops.filter (fun x => x.id != id) = s.ops :=
      List.filter_eq_self.mpr fun x hx => by simpa using List.find?_eq_none.mp ho x hx
    exact ⟨s.gslots, by rw [hall]; rfl⟩
  | some o =>
    obtain ⟨gs, h⟩ := (s.takeItem it.id).dropOp_eq o.id
    rw [State.op_id ho] at h
    dsimp only
    rw [hact, State.actOnOp, State.op_id ho, h]
    exact ⟨gs, rfl⟩

/-- A held token presented again (R31, R371). -/
theorem State.applyAction_presents {id : Nat} {k : Token} (s : State) (a : Action) (hb : it.body = .token id)
    (hk : s.token id = some k) (hact : a.act ≠ .kill) (hplaced : k.unplaced = false) :
    s.applyAction a it = (s.takeItem it.id).updateToken id (fun x => { x with phase := .offered }) := by
  have hpresent : (s.takeItem it.id).presentAgain id =
      (s.takeItem it.id).updateToken id (fun x => { x with phase := .offered }) := by
    unfold State.presentAgain
    rw [show (s.takeItem it.id).token id = some k from hk]
    exact if_neg (by simp [hplaced])
  unfold State.applyAction
  rw [hb]
  dsimp only
  cases h : a.act with
  | kill => exact absurd h hact
  | rply => exact hpresent
  | rsup v => exact hpresent

/-- One whose placement had faulted is placed again first (R420). -/
theorem State.applyAction_places {id home : Nat} {k : Token} {d : Desc} {s2 : State} (s : State) (a : Action)
    (hb : it.body = .token id) (hk : s.token id = some k) (hact : a.act ≠ .kill) (hplaced : k.unplaced = true)
    (hd : (s.takeItem it.id).loadDesc k.dcell k.key.ctx k.key.cb = (s2, .ok d))
    (hhome : s2.resolve k.dcell (s.cellList k.dcell k.key.ctx k.lid) d k.key.ctx k.key.cb k.key.tag = .ok home) :
    s.applyAction a it = (s2.notePlacement k.dcell d k.key.ctx k.key.tag).updateToken id (fun x =>
      { x with phase := .offered, dcell := home, unplaced := false }) := by
  have hresolve : (s.takeItem it.id).resolveHome k.dcell ((s.takeItem it.id).cellList k.dcell k.key.ctx k.lid) k.key.ctx
      k.key.cb k.key.tag = (s2.notePlacement k.dcell d k.key.ctx k.key.tag, .ok home) := by
    rw [State.resolveHome, hd]
    exact congrArg (Prod.mk _) hhome
  have hpresent : (s.takeItem it.id).presentAgain id = (s2.notePlacement k.dcell d k.key.ctx k.key.tag).updateToken id (fun x =>
      { x with phase := .offered, dcell := home, unplaced := false }) := by
    unfold State.presentAgain
    rw [show (s.takeItem it.id).token id = some k from hk]
    dsimp only
    rw [if_pos hplaced, hresolve]
  unfold State.applyAction
  rw [hb]
  dsimp only
  cases h : a.act with
  | kill => exact absurd h hact
  | rply => exact hpresent
  | rsup v => exact hpresent

theorem State.token_id {s : State} {id : Nat} {k : Token} (h : s.token id = some k) : k.id = id := by
  simpa using List.find?_some h

/-- A held token killed: it counts in TR (R48, R371). -/
theorem State.applyAction_discards {id : Nat} {k : Token} (s : State) (a : Action) (hb : it.body = .token id)
    (hk : s.token id = some k) (hact : a.act = .kill) : s.applyAction a it = (s.takeItem it.id).discardToken k := by
  unfold State.applyAction
  rw [hb]
  dsimp only
  rw [hact]
  dsimp only
  rw [State.killItem, State.discardBody, hb]
  dsimp only
  rw [show (s.takeItem it.id).token id = some k from hk]

end

theorem State.count_counts {s t : State} (h : t.counts = s.counts) (site ctx lid ts tr : Nat) :
    (t.count site ctx lid ts tr).counts = (s.count site ctx lid ts tr).counts := by
  unfold State.count
  rw [h]
  dsimp only
  split <;> rfl

theorem State.discardToken_counts (s : State) {t : Token} (h : t.counted = true) :
    (s.discardToken t).counts = (s.count t.dcell t.key.ctx t.lid 0 1).counts := by
  have hcount : ((s.dropToken t.id).countTr t).counts = (s.count t.dcell t.key.ctx t.lid 0 1).counts := by
    rw [State.countTr, if_pos h]
    exact State.count_counts (s := s) (t := s.dropToken t.id) rfl _ _ _ _ _
  unfold State.discardToken
  dsimp only
  split <;> exact hcount

/-! ### Packets of other packages -/

theorem State.arrivalCell_onlyLoads (s : State) (ctx cb : Nat) (tag : BitVec 32) : s.onlyLoads (s.arrivalCell ctx cb tag).1 := by
  unfold State.arrivalCell
  dsimp only
  split <;> rename_i h <;> exact congrArg Prod.fst h ▸ s.resolveHome_onlyLoads ..

/-- Where a token of another package arrives, with what the resolution of its home keeps (R244). -/
def State.arrival (s : State) (ctx cb : Nat) (tag : BitVec 32) : State × Nat :=
  if (s.codeblock ctx cb).map (·.ring) = some true then (s, ringmaster) else s.arrivalCell ctx cb tag

theorem State.arrival_onlyLoads (s : State) (ctx cb : Nat) (tag : BitVec 32) : s.onlyLoads (s.arrival ctx cb tag).1 := by
  unfold State.arrival
  split
  · exact s.onlyLoads_refl
  · exact s.arrivalCell_onlyLoads ..

/-- A token of another package arrives offered (R244). -/
theorem execVlpTokenReceive_spec (s : State) {port ctx cb kind : Nat} {tag : BitVec 32} {epoch psn : Bool} {slot : BitVec 4}
    {idx : BitVec 8} {rels : Option Scope} {payload : BitVec 2048} (hk : kind ≤ 2) (hctx : ctx < 256) (hcb : cb < 4096) :
    ∃ u t, Sys2Proof.Machine.exec (.vlpTokenReceive port ctx cb tag epoch slot kind idx rels psn payload) s = .next (u.sendToken t) ∧
      s.onlyLoads u ∧
      t.key = ⟨ctx, cb, tag⟩ ∧ t.slot = slot.toNat ∧ t.kind = kind ∧ t.idx = idx.toNat ∧ t.epoch = epoch ∧ t.rels = rels ∧
      t.phase = .offered ∧ t.committed = true ∧ t.lid = 0 ∧
      t.payload = (if kind = 1 then .word (payload.setWidth 64) else if kind = 2 then .vector payload 0 else .none) := by
  refine ⟨(s.arrival ctx cb tag).1, _, if_neg (by omega), s.arrival_onlyLoads .., rfl, rfl, rfl, rfl, rfl, rfl, rfl, rfl, rfl, ?_⟩
  interval_cases kind <;> rfl

theorem execVlpAcknowledge_spec {s : State} {t : Token} (ht : s.token t.id = some t) (hp : t.phase = .vlp)
    (hc : t.committed = true) (hr : s.released t = true) : Sys2Proof.Machine.exec (.vlpAcknowledge t.id) s =
      .next (if t.counted then (s.dropToken t.id).count t.scell t.key.ctx t.lid 0 1 else s.dropToken t.id) := by
  show execVlpAcknowledge t.id s = _
  unfold execVlpAcknowledge
  simp [ht, hp, hc, hr]

end Sys2Proof.Machine
end

section
/-! Completion signals (R43, R250, R254, R259, R291): the lanes of a vector word, and what the signal of an operation leaves in its
frame. -/

namespace Sys2Proof.Machine

/-! ### Bits of vector words and of lanes -/

theorem getElem?_upFrom {lo n k : Nat} (h : k < n) : (upFrom lo n)[k]? = some (lo + k) := by
  induction n generalizing lo k with
  | zero => omega
  | succ n ih =>
    cases k with
    | zero => rfl
    | succ k =>
      rw [upFrom, List.getElem?_cons_succ, ih (by omega)]
      congr 1
      omega

/-- A bit of a vector word made of 64-bit words. -/
theorem getLsbD_wordsVector (ws : List W64) {n : Nat} (hn : n < 2048) :
    (wordsVector ws).getLsbD n = (ws.getD (n / 64) 0).getLsbD (n % 64) := by
  induction ws generalizing n with
  | nil => simp [wordsVector]
  | cons w ws ih =>
    have hstep : wordsVector (w :: ws) = (wordsVector ws <<< 64) ||| w.setWidth 2048 := rfl
    rw [hstep, BitVec.getLsbD_or, BitVec.getLsbD_shiftLeft, BitVec.getLsbD_setWidth]
    by_cases h : n < 64
    · simp [h, hn, Nat.div_eq_of_lt h, Nat.mod_eq_of_lt h]
    · have hdiv : n / 64 = (n - 64) / 64 + 1 := by omega
      have hmod : n % 64 = (n - 64) % 64 := by omega
      rw [ih (by omega), hdiv, hmod, List.getD_cons_succ, BitVec.getLsbD_of_ge w n (by omega)]
      simp [h, hn]

theorem Frame.getLsbD_vector (f : Frame) (j : Nat) {n : Nat} (hn : n < 2048) :
    (f.vector j).getLsbD n = (f.word (64 + 32 * j + n / 64)).getLsbD (n % 64) := by
  rw [Frame.vector, getLsbD_wordsVector _ hn, List.getD_eq_getElem?_getD, List.getElem?_map, getElem?_upFrom (by omega)]
  rfl

/-- The number that the lanes of a list make up. -/
def laneNumber (e : Nat) (l : List Nat) : Nat := l.foldr (fun x acc => x % 2 ^ laneWidth e + 2 ^ laneWidth e * acc) 0

theorem laneNumber_testBit (e : Nat) (l : List Nat) (k : Nat) {i : Nat} (hi : i < laneWidth e) :
    (laneNumber e l).testBit (laneWidth e * k + i) = (l.getD k 0).testBit i := by
  induction l generalizing k with
  | nil => simp [laneNumber]
  | cons x l ih =>
    have hstep : laneNumber e (x :: l) = 2 ^ laneWidth e * laneNumber e l + x % 2 ^ laneWidth e := Nat.add_comm _ _
    rw [hstep, Nat.testBit_two_pow_mul_add _ (Nat.mod_lt _ (Nat.two_pow_pos _))]
    cases k with
    | zero => simp [hi, Nat.testBit_mod_two_pow]
    | succ k =>
      have hsub : laneWidth e * (k + 1) + i - laneWidth e = laneWidth e * k + i := by
        rw [Nat.mul_succ]
        omega
      have hge : ¬laneWidth e * (k + 1) + i < laneWidth e := by
        rw [Nat.mul_succ]
        omega
      rw [if_neg hge, hsub, ih, List.getD_cons_succ]

theorem laneWidth_mul_elemCount (e : Nat) : laneWidth e * elemCount e = 2048 := by
  unfold laneWidth elemCount
  split <;> rfl

theorem lane_bit_lt {e k i : Nat} (hk : k < elemCount e) (hi : i < laneWidth e) : laneWidth e * k + i < 2048 := by
  have h := laneWidth_mul_elemCount e
  have : laneWidth e * (k + 1) ≤ laneWidth e * elemCount e := Nat.mul_le_mul_left _ hk
  rw [Nat.mul_succ] at this
  omega

/-- A bit of a lane of a register made of lanes (R169). -/
theorem getLsbD_ofLanes (e : Nat) (l : List Nat) {k i : Nat} (hk : k < elemCount e) (hi : i < laneWidth e) :
    (ofLanes e l).getLsbD (laneWidth e * k + i) = (l.getD k 0).testBit i := by
  rw [← laneNumber_testBit e l k hi]
  show (BitVec.ofNat 2048 (laneNumber e l)).getLsbD _ = _
  rw [BitVec.getLsbD_ofNat]
  simp [lane_bit_lt hk hi]

theorem getD_map_upFrom {α : Type} (f : Nat → α) (x : α) {k n : Nat} (hk : k < n) :
    ((upFrom 0 n).map f).getD k x = f k := by
  rw [List.getD_eq_getElem?_getD, List.getElem?_map, getElem?_upFrom hk, Nat.zero_add]
  rfl

/-- A bit of a lane of a register (R169). -/
theorem testBit_lane (e : Nat) (v : VWord) {k : Nat} (hk : k < elemCount e) (i : Nat) :
    ((lanes e v).getD k 0).testBit i = (decide (i < laneWidth e) && v.getLsbD (laneWidth e * k + i)) := by
  rw [lanes, getD_map_upFrom _ _ hk, Nat.testBit_mod_two_pow, Nat.testBit_div_two_pow, Nat.add_comm, BitVec.getLsbD]

/-- A bit of a vector word of which some bits stay (R254). -/
theorem Frame.getLsbD_vector_putVector (f : Frame) {j : Nat} (v keep : VWord) (psn : Bool) (hl : f.desc.large = true)
    (hj : j ≤ 5) {n : Nat} (hn : n < 2048) : ((f.putVector j v keep psn).vector j).getLsbD n =
      if keep.getLsbD n then (f.vector j).getLsbD n else v.getLsbD n := by
  rw [Frame.getLsbD_vector _ _ hn, Frame.getLsbD_vector _ _ hn, Frame.word_putVector _ _ _ _ _ (by omega) hl hj, mergeLane]
  have hlt : n % 64 < 64 := Nat.mod_lt _ (by decide)
  have hsum : 64 * (n / 64) + n % 64 = n := Nat.div_add_mod n 64
  simp only [BitVec.getLsbD_or, BitVec.getLsbD_and, BitVec.getLsbD_not, BitVec.getLsbD_extractLsb', hlt, hsum, decide_true,
    Bool.true_and]
  cases keep.getLsbD n <;> simp

theorem Frame.word_eq_of_receive {f : Frame} {t : Token} {l : Life} (k : Nat) :
    ({ f.receive t with life := l } : Frame).word k = (f.withPayload t).word k := f.receive_word_eq t k

/-! ### The signal of an operation -/

/-- The completion signal of an operation, under its number (R43, R238). -/
def State.signalToken (s : State) (o : Op) : Token :=
  { unitToken .completion o.key o.slot o.signal.2.2.1 o.signal.2.1 o.site o.site o.lid o.signal.1 with
    id := s.nextId, arrival := s.nextId, epoch := o.epoch, psn := partsPoison o.parts && o.signal.2.2.1 != 3,
    flags := o.signal.2.2.2, phase := .accepted, hidx := some o.hidx, pin := o.pinned, race := o.kind.race }

/-- The state in which the signal of an operation that has left the request table is under way. -/
def State.signalled (s : State) (o : Op) : State :=
  let s1 := if o.acquires then s.dropLines o.site o.key.ctx else s
  { s1 with nextId := s1.nextId + 1, ops := s1.ops.filter (fun x => x.id != o.id), tokens := s1.tokens ++ [s1.signalToken o] }

theorem State.signalOp_eq {s : State} {o : Op} (h : o.dropped = false) :
    s.signalOp o = (s.signalled o).applyToken (s.signalToken o) := by
  unfold State.signalOp State.signalled
  rw [if_neg (by simp [h])]
  dsimp only
  split <;> rfl

theorem State.signalled_eq (s : State) (o : Op) : ∃ lc n ts, s.signalled o =
    { s with lcache := lc, nextId := n, ops := s.ops.filter (fun x => x.id != o.id), tokens := ts } := by
  unfold State.signalled
  dsimp only
  split <;> exact ⟨_, _, _, rfl⟩

/-- The signal of a complete operation that finds its frame is applied to it (R43, R291). -/
theorem execCompletionSignal_spec {s : State} {o : Op} {f : Frame} {st : SlotState} (ho : s.op o.id = some o)
    (hc : o.complete = true) (hh : s.hw.health ≠ .fatal) (hd : o.dropped = false)
    (hf : s.finds o.site o.key o.epoch o.lid f) (hst : keyed f.slots o.slot = some st) (hn : st.count ≠ 0) :
    ∃ u l, Sys2Proof.Machine.exec (.completionSignal o.id) s = .next u ∧
      u.frameAt o.site o.key = some { (f.countedDown o.slot st).receive (s.signalToken o) with life := l } ∧
      u.op o.id = none ∧ u.kept = s.kept ∧ u.insts = s.insts := by
  obtain ⟨lc, n, ts, hsig⟩ := s.signalled_eq o
  have hfinds : (s.signalled o).finds (s.signalToken o).dcell (s.signalToken o).key (s.signalToken o).epoch
      (s.signalToken o).lid f := by
    rw [hsig]
    exact hf
  obtain ⟨⟨l, hat⟩, -, -, hkept, hinsts, hops⟩ := State.applyTo_spec (t := s.signalToken o) hfinds.1 hst hn
  have hwaits : s.signalWaits o = false := by
    obtain ⟨hf, -, hl, -⟩ := hf
    simp [State.signalWaits, State.needsEntry, hf, hl]
  refine ⟨(s.signalled o).applyTo (s.signalToken o) f, l, ?_, hat, ?_, ?_, ?_⟩
  · show execCompletionSignal o.id s = _
    rw [← State.applyToken_of_finds hfinds, ← State.signalOp_eq hd]
    unfold execCompletionSignal
    simp [ho, hc, hh, hwaits]
  · rw [State.op, hops, hsig]
    simp
  · rw [hkept, hsig]
    rfl
  · rw [hinsts, hsig]

end Sys2Proof.Machine
end

section
/-! FaultAndSignalSteps: what completion signals leave in their frames, and the steps of fault tokens, actions and packets. -/

namespace Sys2Proof.Machine

/-! ### What a completion signal leaves in its frame -/

/-- The frame of an operation's slot after its signal (R29, R43). -/
def State.signalFrame (s : State) (o : Op) (f : Frame) (st : SlotState) (l : Life) : Frame :=
  { (f.countedDown o.slot st).receive (s.signalToken o) with life := l }

section
variable {s : State} {o : Op} {f : Frame} {st : SlotState} {l : Life}

theorem State.signalFrame_slots : keyed (s.signalFrame o f st l).slots o.slot =
    some { st with count := if st.count = 1 then st.reload else st.count - 1 } := by
  obtain ⟨ws, ps, pn, h⟩ := (f.countedDown o.slot st).receive_eq (s.signalToken o)
  rw [State.signalFrame, h]
  exact keyed_putKeyed_self ..

theorem State.signalFrame_flags : (s.signalFrame o f st l).flags = f.flags ||| o.signal.2.2.2 := by
  obtain ⟨ws, ps, pn, h⟩ := (f.countedDown o.slot st).receive_eq (s.signalToken o)
  rw [State.signalFrame, h]
  rfl

theorem State.signalFrame_word (k : Nat) :
    (s.signalFrame o f st l).word k = ((f.countedDown o.slot st).withPayload (s.signalToken o)).word k :=
  Frame.word_eq_of_receive k

theorem State.signalFrame_word_of_word {w : W64} (hp : o.signal.1 = .word w) (hk : o.signal.2.1 < f.desc.words) :
    (s.signalFrame o f st l).word o.signal.2.1 = w ∧
      ∀ j, j ≠ o.signal.2.1 → (s.signalFrame o f st l).word j = f.word j := by
  have hpay : (s.signalToken o).payload = .word w := hp
  refine ⟨?_, fun j hj => ?_⟩
  · rw [State.signalFrame_word, Frame.withPayload_of_word hpay]
    exact Frame.word_putWord_self _ _ _ hk
  · rw [State.signalFrame_word, Frame.withPayload_of_word hpay]
    exact Frame.word_putWord_other _ _ _ hj

theorem State.signalFrame_of_none (hp : o.signal.1 = .none) : (s.signalFrame o f st l).words = f.words := by
  have hpay : (s.signalToken o).payload = .none := hp
  rw [State.signalFrame, Frame.receive_eq_withPayload, Frame.withPayload_of_none hpay]
  rfl

/-- A vector load leaves its active elements, and those made zero, in their lanes (R254). -/
theorem State.signalFrame_vload {j : Nat} {e : Size} {m : W64} {z : Bool} (hk : o.kind = .vload j e m z)
    (hl : f.desc.large = true) (hj : j ≤ 5) :
    (∀ k, k < elemCount (8 * e.bytes) → (lanes (8 * e.bytes) ((s.signalFrame o f st l).vector j)).getD k 0 =
      if active m k || z then partsValue (o.parts.filter (fun p => p.elem == k)) % 2 ^ laneWidth (8 * e.bytes)
      else (lanes (8 * e.bytes) (f.vector j)).getD k 0) ∧
    ∀ x, x < 64 + 32 * j ∨ 96 + 32 * j ≤ x → (s.signalFrame o f st l).word x = f.word x := by
  generalize hw : 8 * e.bytes = w
  generalize hv : ofLanes w ((upFrom 0 (elemCount w)).map (fun k => partsValue (o.parts.filter (fun p => p.elem == k)))) = v
  generalize hkeep : ofLanes w ((upFrom 0 (elemCount w)).map
    (fun k => if active m k || z then 0 else 2 ^ laneWidth w - 1)) = keep
  have hsignal : o.signal = (.vector v keep, j, 2, 0) := by
    unfold Op.signal
    rw [hk, ← hv, ← hkeep, ← hw]
  have hpay : (s.signalToken o).payload = .vector v keep := congrArg (·.1) hsignal
  have hidx : (s.signalToken o).idx = j := congrArg (·.2.1) hsignal
  have hword (x : Nat) : (s.signalFrame o f st l).word x =
      ((f.countedDown o.slot st).putVector j v keep (s.signalToken o).psn).word x := by
    rw [State.signalFrame_word, Frame.withPayload_of_vector hpay (by exact hl) (by omega), hidx]
  refine ⟨fun k hk => ?_, fun x hx => (hword x).trans (Frame.word_putVector_other _ _ _ _ _ hx)⟩
  have hvector : (s.signalFrame o f st l).vector j =
      ((f.countedDown o.slot st).putVector j v keep (s.signalToken o).psn).vector j := by
    rw [Frame.vector, Frame.vector, List.map_congr_left fun x _ => hword x]
  refine Nat.eq_of_testBit_eq fun i => ?_
  rw [testBit_lane _ _ hk, hvector]
  by_cases hi : i < laneWidth w
  · have hkeepbit : keep.getLsbD (laneWidth w * k + i) = !(active m k || z) := by
      rw [← hkeep, getLsbD_ofLanes _ _ hk hi, getD_map_upFrom _ _ hk]
      cases active m k || z <;> simp [hi, Nat.testBit_two_pow_sub_one]
    have hvbit : v.getLsbD (laneWidth w * k + i) = (partsValue (o.parts.filter (fun p => p.elem == k))).testBit i := by
      rw [← hv, getLsbD_ofLanes _ _ hk hi, getD_map_upFrom _ _ hk]
    rw [Frame.getLsbD_vector_putVector _ _ _ _ (by exact hl) hj (lane_bit_lt hk hi), hkeepbit, hvbit]
    cases active m k || z with
    | true => simp [hi, Nat.testBit_mod_two_pow]
    | false =>
      simp only [Bool.not_false, if_true, Bool.false_eq_true, if_false]
      rw [testBit_lane _ _ hk]
      rfl
  · cases active m k || z with
    | true => simp [hi, Nat.testBit_mod_two_pow]
    | false =>
      simp only [Bool.false_eq_true, if_false]
      rw [testBit_lane _ _ hk]
      simp [hi]

end

theorem signedOf_eq_toInt {n : Nat} (hn : 0 < n) (x : Nat) : signedOf n x = (BitVec.ofNat n x).toInt := by
  obtain ⟨m, rfl⟩ := Nat.exists_eq_succ_of_ne_zero hn.ne'
  have hpow : 2 ^ (m + 1) = 2 * 2 ^ m := Nat.pow_succ'
  rw [signedOf, BitVec.toInt_eq_toNat_cond, BitVec.toNat_ofNat, Nat.succ_eq_add_one, Nat.add_sub_cancel, hpow]
  refine if_congr (by omega) rfl (by push_cast; rfl)

theorem extendTo64_signed {n : Nat} (hn : 0 < n) (x : Nat) : extendTo64 true n x = (BitVec.ofNat n x).signExtend 64 := by
  rw [extendTo64, if_pos rfl, signedOf_eq_toInt hn]
  rfl

theorem extendTo64_unsigned (n x : Nat) : extendTo64 false n x = (BitVec.ofNat n x).setWidth 64 := by
  rw [extendTo64, if_neg (by decide), ← BitVec.ofNat_toNat, BitVec.toNat_ofNat]

/-- The frame word of an atomic's old value: the sign is extended for the signed forms of 32 bits (R259). -/
theorem atomicWord_eq (fn : AtomicFn) (wide : Bool) (old : Nat) : atomicWord fn wide old =
    if wide then BitVec.ofNat 64 old
    else if fn = .minS ∨ fn = .maxS then (BitVec.ofNat 32 old).signExtend 64 else (BitVec.ofNat 32 old).setWidth 64 := by
  have hsigned : (fn == .minS || fn == .maxS) = decide (fn = .minS ∨ fn = .maxS) := by cases fn <;> rfl
  unfold atomicWord
  rw [hsigned]
  cases wide with
  | true =>
    rw [if_pos rfl, if_pos rfl]
    cases decide (fn = .minS ∨ fn = .maxS) with
    | true => rw [extendTo64_signed (by decide), BitVec.signExtend_eq]
    | false => rw [extendTo64_unsigned, BitVec.setWidth_eq]
  | false =>
    rw [if_neg (by decide), if_neg (by decide)]
    by_cases h : fn = .minS ∨ fn = .maxS
    · rw [decide_eq_true h, extendTo64_signed (by decide), if_pos h]
    · rw [decide_eq_false h, extendTo64_unsigned, if_neg h]

end Sys2Proof.Machine
end

section
/-! FaultAndSignalSteps (R43, R244, R250, R254, R258, R259, R291, R366, R368, R371, R372): the steps put together. -/

namespace Sys2Proof.Machine

theorem State.sendKill_action (s : State) (it : Item) : ∃ x ∈ (s.sendKill it).actions,
    x.site = it.site ∧ x.ctx = it.ctx ∧ x.fref = it.fref ∧ x.hidx = it.hidx ∧ x.gen = it.gen ∧ x.act = .kill :=
  ⟨_, List.mem_append_right _ List.mem_cons_self, rfl, rfl, rfl, rfl, rfl, rfl⟩

theorem State.withHandler_kept (s : State) (t : Token) (d : Desc) (item : Nat) (held : Option VWord) (ws : List W64) :
    (s.withHandler t d item held ws).kept = s.kept :=
  s.createFrame_kept t.dcell t.key t.epoch t.lid d (some ⟨item, held⟩) false

/-- The steps of FAULT_TOKEN_DELIVERY (R358, R366, R368, R372). -/
theorem faultTokenDelivery_steps {s : State} {t : Token} {item : Nat} {held : Option VWord} {ws : List W64}
    (h : s.deliversFault t item held ws) (hc : t.key.ctx = 0 → s.ctxValid 0 = true)
    (hres : s.residentAt t.dcell t.key.ctx = true) (hhalt : s.haltedAt t.dcell t.key.ctx = false) :
    (∀ s1 d th, s.frameAt t.dcell t.key = none → s.loadDesc t.dcell t.key.ctx t.key.cb = (s1, .ok d) →
      keyed d.threads 0 = some th → s1.hasRoom t.dcell t.key.ctx d = true →
      ∃ u g, Sys2Proof.Machine.exec (.faultTokenDelivery t.id) s = .next u ∧ u.frameAt t.dcell t.key = some g ∧
        g.handler = some ⟨item, held⟩ ∧ g.desc = d ∧ g.lid = t.lid ∧ g.epoch = t.epoch ∧
        (∀ k w, ws[k]? = some w → k < d.words → g.word k = w) ∧
        u.token t.id = none ∧ (∃ r ∈ u.ready, r.site = t.dcell ∧ r.key = t.key ∧ r.thr = 0 ∧ r.cls = 3) ∧
        u.mem = s.mem ∧ u.host = s.host ∧ u.scratch = s.scratch ∧ u.insts = s.insts) ∧
    (∀ f it, s.frameAt t.dcell t.key = some f → s.items.find? (fun x => x.id == item) = some it →
      ∃ u, Sys2Proof.Machine.exec (.faultTokenDelivery t.id) s = .next u ∧ u.haltedAt it.site it.ctx = true ∧
        u.kept = s.kept) ∧
    (∀ f it, s.frameAt t.dcell t.key = some f → s.items.find? (fun x => x.id == item) = none → s.awayItem item = some it →
      ∃ u, Sys2Proof.Machine.exec (.faultTokenDelivery t.id) s = .next u ∧ u.haltedAt it.site it.ctx = true ∧
        (∃ x ∈ u.actions, x.site = it.site ∧ x.ctx = it.ctx ∧ x.fref = it.fref ∧ x.hidx = it.hidx ∧ x.gen = it.gen ∧
          x.act = .kill) ∧ u.kept = s.kept) := by
  have hexec := exec_faultTokenDelivery h
  refine ⟨fun s1 d th hf hd hth hroom => ?_, fun f it hf hit => ?_, fun f it hf hnone hit => ?_⟩
  · have honly := State.onlyLoads_of_loadDesc hd
    obtain ⟨g, hg, hhandler, hdesc, hlid, hepoch, hwords⟩ := s1.frameAt_withHandler t d item held ws
    obtain ⟨l, hat⟩ := State.frameAt_enqueueWith hg t.dcell t.key 0 3 none
    obtain ⟨r, u, heq, hu, hr1, hr2, hr3, hr4, -⟩ := (s1.withHandler t d item held ws).enqueueWith_spec t.dcell t.key 0 3 none
    have hsame : u.tokens = (s1.withHandler t d item held ws).tokens ∧ u.insts = s1.insts := by
      obtain rfl | ⟨v, rfl⟩ := hu <;> exact ⟨rfl, rfl⟩
    have hkept : ((s1.withHandler t d item held ws).enqueueWith t.dcell t.key 0 3 none).kept = s.kept := by
      rw [State.enqueueWith_kept, State.withHandler_kept, State.kept_of_eq hd (s.loadDesc_kept ..)]
    obtain ⟨hmem, hhost, hscratch, -⟩ := State.kept_eq_iff.mp hkept
    refine ⟨_, _, hexec.trans (congrArg _ (State.deliverFault_creates h hc hres hhalt hf hd hth hroom)), hat, hhandler, hdesc,
      hlid, hepoch, hwords, ?_, ⟨r, ?_, hr1, hr2, hr3, hr4⟩, hmem, hhost, hscratch, ?_⟩
    · refine State.token_of_filter (s := s1) ?_
      rw [heq]
      exact hsame.1
    · rw [heq]
      exact List.mem_append_right _ List.mem_cons_self
    · rw [heq]
      exact hsame.2.trans (State.onlyLoads_insts honly)
  · refine ⟨_, hexec.trans (congrArg _ (State.deliverFault_framed h hc hres hhalt hf hit)), State.doubleFault_haltedAt .., ?_⟩
    rw [State.doubleFault_kept, State.takeItem_kept, State.dropToken_kept]
  · refine ⟨_, hexec.trans (congrArg _ (State.deliverFault_framed_away h hc hres hhalt hf hnone hit)),
      State.haltAt_haltedAt .., ?_, ?_⟩
    · rw [State.haltAt_actions]
      exact State.sendKill_action _ it
    · rw [State.haltAt_kept, State.sendKill_kept, State.dropToken_kept]

/-- Settles O51: the steps above, each with what it leaves of the memories and the items. -/
theorem faultAndSignalSteps : Obligations.FaultAndSignalSteps := by
  refine ⟨?_, ?_, ?_, ?_, ?_, ?_⟩
  · intro s t item held ws ht hp hdirect hdue hh hsrc hpay hkill here
    have h : s.deliversFault t item held ws := ⟨ht, hp, hdirect, hdue, hh, hsrc, hpay, hkill⟩
    have hexec := exec_faultTokenDelivery h
    refine ⟨fun hc hv it hit => ?_, fun haway hv => ?_, fun haway hc hv => ?_, fun hhere hc => ?_⟩
    · refine ⟨_, hexec.trans (congrArg _ (State.deliverFault_invalid h hc hv hit)), State.doubleFault_haltedAt .., ?_⟩
      exact (State.kept_eq_iff.mp (by rw [State.doubleFault_kept, State.takeItem_kept, State.dropToken_kept])).1
    · rw [hexec, State.deliverFault_away h (fun h0 => h0 ▸ hv) haway, if_pos hv]
    · rw [hexec, State.deliverFault_away h (fun h0 => absurd h0 hc) haway, if_neg (by simp [hv])]
    · obtain ⟨hcreate, hframed, haway⟩ := faultTokenDelivery_steps h hc hhere.1 hhere.2
      refine ⟨hcreate, fun f it hf hit => ?_, fun f it hf hnone hit => ?_⟩
      · obtain ⟨u, hu, hhalt, hkept⟩ := hframed f it hf hit
        obtain ⟨hmem, hhost, hscratch, -⟩ := State.kept_eq_iff.mp hkept
        exact ⟨u, hu, hhalt, hmem, hhost, hscratch⟩
      · obtain ⟨u, hu, hhalt, haction, hkept⟩ := haway f it hf hnone hit
        obtain ⟨hmem, hhost, hscratch, -⟩ := State.kept_eq_iff.mp hkept
        exact ⟨u, hu, hhalt, haction, hmem, hhost, hscratch⟩
  · intro s a ha hres hbefore hdone s1
    have h : s.reaches a := ⟨ha, hres, hbefore, hdone⟩
    refine ⟨exec_faultActionDelivery_none h, fun it thr cls hit hb => ?_, fun it id o hit hb ho hacc hact => ?_,
      fun it id o v hit hb ho hacc hact => ?_, fun it id hit hb hact => ?_, fun it id k hit hb hk => ⟨fun hact hplaced => ?_,
        fun hact hplaced d s2 home hd hhome => ?_, fun hact => ?_⟩⟩
    · obtain ⟨hitems, hactions, hrply, hrsup, hkill, hkept⟩ := State.applyAction_suspended (s.withoutAction a) a hb
      obtain ⟨hmem, hhost, hscratch, -⟩ := State.kept_eq_iff.mp hkept
      exact ⟨_, exec_faultActionDelivery_some h hit, hitems, hactions, hrply, hrsup, hkill, hmem, hhost, hscratch⟩
    · have happly := State.applyAction_replays (s.withoutAction a) a hb ho hacc hact
      refine ⟨_, o.replay, (exec_faultActionDelivery_some h hit).trans (congrArg _ happly), ?_, ?_, o.replay_parts_not_held,
        List.length_map _, Op.replay_kind hacc, rfl⟩
      · exact State.op_updateOp (s := (s.withoutAction a).takeItem it.id) ho fun _ => rfl
      · exact State.not_mem_takeItem rfl
    · have happly := State.applyAction_substitutes (s.withoutAction a) a hb ho hacc hact
      refine ⟨_, o.substitute v, (exec_faultActionDelivery_some h hit).trans (congrArg _ happly), ?_, ?_,
        List.length_map _, fun k q hq => o.substitute_part v hq, Op.substitute_kind v, rfl⟩
      · exact State.op_updateOp (s := (s.withoutAction a).takeItem it.id) ho fun _ => rfl
      · exact State.not_mem_takeItem rfl
    · obtain ⟨gs, happly⟩ := State.applyAction_kills (s.withoutAction a) a hb hact
      refine ⟨_, (exec_faultActionDelivery_some h hit).trans (congrArg _ happly), ?_, State.not_mem_takeItem rfl, rfl, rfl, rfl, rfl,
        rfl⟩
      simp [State.op]
    · exact (exec_faultActionDelivery_some h hit).trans (congrArg _ (State.applyAction_presents _ a hb hk hact hplaced))
    · refine ⟨_, State.onlyLoads_trans (State.onlyLoads_of_loadDesc hd) (State.notePlacement_onlyLoads ..),
        (exec_faultActionDelivery_some h hit).trans (congrArg _ (State.applyAction_places _ a hb hk hact hplaced hd hhome))⟩
    · obtain ⟨cs, gs, hdiscard⟩ := ((s.withoutAction a).takeItem it.id).discardToken_eq k
      have happly := State.applyAction_discards (s.withoutAction a) a hb hk hact
      refine ⟨_, (exec_faultActionDelivery_some h hit).trans (congrArg _ happly), ?_, ?_, fun hcounted => ?_, ?_, ?_, ?_⟩
      · rw [hdiscard, State.token_id hk]
        exact State.token_dropToken _ id
      · exact State.not_mem_takeItem (by rw [hdiscard])
      · exact (State.discardToken_counts _ hcounted).trans (State.count_counts
          (s := s) (t := (s.withoutAction a).takeItem it.id) rfl _ _ _ _ _)
      · rw [hdiscard]
        rfl
      · rw [hdiscard]
        rfl
      · rw [hdiscard]
        rfl
  · intro s o f st ho hc hh hd hf hst hn
    obtain ⟨u, l, hexec, hat, hop, hkept, hinsts⟩ := execCompletionSignal_spec ho hc hh hd hf hst hn
    obtain ⟨hmem, hhost, hscratch, -⟩ := State.kept_eq_iff.mp hkept
    refine ⟨u, s.signalFrame o f st l, hexec, hop, hat, State.signalFrame_slots, fun t lc k hk hlt => ?_,
      fun j e m z hk hl hj => State.signalFrame_vload hk hl hj, fun fn wide ord sc k b c hk hlt => ?_, fun hk => ?_, hmem, hhost,
      hscratch, hinsts⟩
    · have hsignal : o.signal = (.word (extendTo64 t.signed (8 * t.bytes) (partsValue o.parts)), k, 1, 0) := by
        simp only [Op.signal, hk]
      have hidx : o.signal.2.1 = k := by rw [hsignal]
      have := State.signalFrame_word_of_word (s := s) (st := st) (l := l) (congrArg (·.1) hsignal) (by rwa [hidx])
      rwa [hidx] at this
    · have hsignal : o.signal = (.word (atomicWord fn wide (partsValue o.parts)), k, 1, if fn == .fadd then
          (atomicAdd wide (partsValue o.parts) (if wide then b.toNat else b.toNat % 2 ^ 32)).2 else 0) := by
        simp only [Op.signal, hk]
      have hidx : o.signal.2.1 = k := by rw [hsignal]
      have hflags : o.signal.2.2.2 = if fn == .fadd then
          (atomicAdd wide (partsValue o.parts) (if wide then b.toNat else b.toNat % 2 ^ 32)).2 else 0 := by rw [hsignal]
      have hword := State.signalFrame_word_of_word (s := s) (st := st) (l := l) (congrArg (·.1) hsignal) (by rwa [hidx])
      rw [hidx, atomicWord_eq] at hword
      refine ⟨hword.1, hword.2, fun hfn => ?_, fun hfn hw => ?_, fun hfn hw => ?_⟩
      · rw [State.signalFrame_flags, hflags, if_neg (by simpa using hfn)]
        exact BitVec.or_zero
      · rw [State.signalFrame_flags, hflags, if_pos (by simp [hfn]), hw]
        rfl
      · rw [State.signalFrame_flags, hflags, if_pos (by simp [hfn]), hw]
        rfl
    · have hsignal : o.signal = (.none, 0, 3, 0) := by
        obtain ⟨e, hk⟩ | ⟨e, hk⟩ := hk <;> simp only [Op.signal, hk]
      have hflags : o.signal.2.2.2 = 0 := by rw [hsignal]
      refine ⟨State.signalFrame_of_none (congrArg (·.1) hsignal), ?_⟩
      rw [State.signalFrame_flags, hflags]
      exact BitVec.or_zero
  · intro s port ctx cb kind tag epoch psn slot idx rels payload hk hctx hcb
    exact execVlpTokenReceive_spec s hk hctx hcb
  · intro s t ht hp hc hr
    have hexec := execVlpAcknowledge_spec ht hp hc hr
    exact ⟨fun h => hexec.trans (by rw [h]; rfl), fun h => hexec.trans (by rw [h]; rfl)⟩
  · intro s site kind h5 h7
    exact if_pos ⟨h5, h7⟩

end Sys2Proof.Machine
end

section
/-! Launches (R330, R351, R374): the injection of a tag, the waves and the end of a launch, and its kill mark on a cell. -/

namespace Sys2Proof.Machine

/-! ### The launch of a context and LID -/

theorem State.launch_updateLaunch {s : State} {ctx lid : Nat} {l : Launch} (h : s.launch ctx lid = some l)
    {f : Launch → Launch} (hf : ∀ x, (f x).ctx = x.ctx ∧ (f x).lid = x.lid) :
    (s.updateLaunch ctx lid f).launch ctx lid = some (f l) := by
  have hkept : ∀ x : Launch, (x.ctx == ctx && x.lid == lid) = true → ((f x).ctx == ctx && (f x).lid == lid) = true := by
    intro x hx
    rwa [(hf x).1, (hf x).2]
  exact (find?_updateFirst_self hkept _).trans (congrArg (Option.map f) h)

theorem State.launch_of_launches {s t : State} (h : t.ctl.launches = s.ctl.launches) (ctx lid : Nat) :
    t.launch ctx lid = s.launch ctx lid := by
  unfold State.launch
  rw [h]

theorem State.onlyLoads_launches {s t : State} (h : s.onlyLoads t) : t.ctl.launches = s.ctl.launches :=
  (congrArg (fun x : State => x.ctl.launches) h.2 :)

theorem State.count_eq (s : State) (site ctx lid ts tr : Nat) : ∃ cs, s.count site ctx lid ts tr = { s with counts := cs } := by
  unfold State.count
  dsimp only
  split <;> exact ⟨_, rfl⟩

theorem State.raiseEvent_eq (s : State) (cls tag : Nat) (ws : List W64) : ∃ ts n d,
    s.raiseEvent cls tag ws = { s with tokens := ts, nextId := n, sys := { s.sys with drops := d } } := by
  unfold State.raiseEvent
  split <;> exact ⟨_, _, _, rfl⟩

/-! ### Injection (R330, R420) -/

/-- The state in which the launch unit of a die has counted one more tag of a launch (R330, R48). -/
def State.injects (s : State) (l : Launch) (die : Nat) : State :=
  (s.updateLaunch l.ctx l.lid (fun l =>
    { l with injected := putKeyed l.injected die ((keyed l.injected die).getD 0 + 1) })).count (1152 + die) l.ctx l.lid 1 0

theorem State.launch_injects {s : State} {l : Launch} (h : s.launch l.ctx l.lid = some l) (die : Nat) :
    (s.injects l die).launch l.ctx l.lid
      = some { l with injected := putKeyed l.injected die ((keyed l.injected die).getD 0 + 1) } := by
  unfold State.injects
  obtain ⟨cs, hcs⟩ := (s.updateLaunch l.ctx l.lid (fun l =>
    { l with injected := putKeyed l.injected die ((keyed l.injected die).getD 0 + 1) })).count_eq (1152 + die) l.ctx l.lid 1 0
  rw [hcs]
  exact State.launch_updateLaunch (f := fun l : Launch =>
    { l with injected := putKeyed l.injected die ((keyed l.injected die).getD 0 + 1) }) h (fun _ => ⟨rfl, rfl⟩)

/-- The token of one tag of a launch as its die sends it to a cell (R328, R330). -/
def Launch.initialToken (l : Launch) (off sender c : Nat) : Token :=
  { unitToken .launch ⟨l.ctx, l.cb, BitVec.ofNat 32 (l.tbase + off)⟩ l.slot (if l.word then 1 else 0) (if l.word then l.idx else 0)
      c sender l.lid (l.payload off) with epoch := l.epoch, rels := some .sys }

theorem execLaunchInject_sends {s s1 : State} {l : Launch} {die off c : Nat} {d : Desc} (h : s.launch l.ctx l.lid = some l)
    (hoff : l.nextOffset die = some off) (hd : (s.injects l die).loadDesc (s.injector l die) l.ctx l.cb = (s1, .ok d))
    (hc : s1.resolve (s.injector l die) l.cells d l.ctx l.cb (BitVec.ofNat 32 (l.tbase + off)) = .ok c) :
    exec (.launchInject die l.ctx l.lid) s = .next
      ((s1.notePlacement (s.injector l die) d l.ctx (BitVec.ofNat 32 (l.tbase + off))).sendToken
      (l.initialToken off (s.injector l die) c)) := by
  have hhome : (s.injects l die).resolveHome (s.injector l die) l.cells l.ctx l.cb (BitVec.ofNat 32 (l.tbase + off))
      = (s1.notePlacement (s.injector l die) d l.ctx (BitVec.ofNat 32 (l.tbase + off)), .ok c) := by
    rw [State.resolveHome, hd]
    exact congrArg (Prod.mk _) hc
  show execLaunchInject die l.ctx l.lid s = _
  unfold State.injects at hhome
  unfold execLaunchInject
  rw [h]
  dsimp only
  rw [hoff]
  dsimp only
  rw [hhome]
  rfl

/-! ### Waves (R48, R351) -/

/-- A wave comes to a launch: no watchdog event is left to raise, and 1,024 ns have passed since the last (R351). -/
theorem execLaunchWave_early {s : State} {l : Launch} (h : s.launch l.ctx l.lid = some l)
    (he : s.sys.rtime < l.lastWave + 1024 ∨ l.watch = true) : exec (.launchWave l.ctx l.lid) s = .next s := by
  have hearly : (l.watch || decide (s.sys.rtime < l.lastWave + 1024)) = true := by
    rw [Bool.or_eq_true, decide_eq_true_eq]
    exact he.symm
  show execLaunchWave l.ctx l.lid s = _
  unfold execLaunchWave
  rw [h]
  exact if_pos hearly

section
variable {s : State} {l : Launch} (h : s.launch l.ctx l.lid = some l) (hw : l.watch = false)
  (ht : l.lastWave + 1024 ≤ s.sys.rtime)

theorem Launch.wave_due {s : State} {l : Launch} (hw : l.watch = false) (ht : l.lastWave + 1024 ≤ s.sys.rtime) :
    ¬(l.watch || decide (s.sys.rtime < l.lastWave + 1024)) = true := by
  simp only [hw, Bool.false_or, decide_eq_true_eq]
  omega

include h hw ht

theorem execLaunchWave_ends {ts : Nat} (hsent : l.sent = l.tags) (hwave : s.wave l.ctx l.lid = (0, ts, ts)) (hprev : l.prev = some ts) :
    exec (.launchWave l.ctx l.lid) s = .next (((s.endLaunch l l.endStatus).raiseEvent 2 (64 * l.ctx + l.lid)
      [BitVec.ofNat 64 ts]).reviewPart (wfield (s.ctxWord l.ctx 0) 1 6)) := by
  show execLaunchWave l.ctx l.lid s = _
  unfold execLaunchWave
  rw [h]
  dsimp only
  rw [hwave]
  dsimp only
  rw [if_neg (Launch.wave_due hw ht), if_pos (by simp [hsent, hprev])]

theorem execLaunchWave_goes_on {busy ts tr : Nat} (hwave : s.wave l.ctx l.lid = (busy, ts, tr))
    (hne : ¬(l.sent = l.tags ∧ busy = 0 ∧ ts = tr ∧ l.prev = some ts)) :
    exec (.launchWave l.ctx l.lid) s = .next (s.updateLaunch l.ctx l.lid (fun l =>
      l.waved ts s.sys.rtime s.sys.wdog (decide (l.sent = l.tags ∧ busy = 0 ∧ ts = tr)))) := by
  have hclean : (l.sent == l.tags && busy == 0 && ts == tr) = decide (l.sent = l.tags ∧ busy = 0 ∧ ts = tr) := by
    rw [Bool.eq_iff_iff]
    simp [and_assoc]
  show execLaunchWave l.ctx l.lid s = _
  unfold execLaunchWave
  rw [h]
  dsimp only
  rw [hwave]
  dsimp only
  rw [if_neg (Launch.wave_due hw ht), if_neg (by
    simp only [Bool.and_eq_true, beq_iff_eq]
    rintro ⟨⟨⟨h1, h2⟩, h3⟩, h4⟩
    exact hne ⟨h1, h2, h3, h4⟩)]
  refine congrArg Host.Outcome.next (congrArg (fun x => { s with ctl := { s.ctl with launches := x } })
    (updateFirst_congr fun x hx => ?_))
  obtain rfl := Option.some.inj (h.symm.trans hx)
  rw [hclean]

end

/-! ### The firmware's decision leaves launches and packets (R399, R401) -/

theorem State.endSwitch_eq (s : State) (w : Switch) :
    ∃ os ws, s.endSwitch w = { s with ops := os, ctl := { s.ctl with switches := ws } } := by
  unfold State.endSwitch
  dsimp only
  split <;> exact ⟨_, _, rfl⟩

theorem State.pumpSwitch_eq (part fuel : Nat) (s : State) : ∃ os ws rs,
    s.pumpSwitch part fuel = { s with ops := os, ctl := { s.ctl with switches := ws, residents := rs } } := by
  induction fuel generalizing s with
  | zero => exact ⟨_, _, _, rfl⟩
  | succ n ih =>
    unfold State.pumpSwitch
    split
    · split
      · rename_i w _ _ _
        obtain ⟨os, ws, he⟩ := s.endSwitch_eq w
        obtain ⟨os', ws', rs', hp⟩ := ih (s.endSwitch w)
        refine ⟨os', ws', rs', ?_⟩
        rw [hp, he]
      · exact ⟨_, _, _, rfl⟩
    · split <;> exact ⟨_, _, _, rfl⟩
    · exact ⟨_, _, _, rfl⟩

theorem State.reviewPart_eq (s : State) (part : Nat) : ∃ os ws rs qs,
    s.reviewPart part = { s with ops := os, ctl := { s.ctl with switches := ws, residents := rs, waiting := qs } } := by
  have hadd : ∀ (t : State) (w : Switch), ∃ os ws rs,
      t.addSwitch w = { t with ops := os, ctl := { t.ctl with switches := ws, residents := rs } } := by
    intro t w
    obtain ⟨os, ws, rs, h⟩ := State.pumpSwitch_eq w.part (t.ctl.switches.length + 1)
      { t with ctl := { t.ctl with switches := t.ctl.switches ++ [w] } }
    exact ⟨os, ws, rs, h⟩
  unfold State.reviewPart
  split
  · exact ⟨_, _, _, _, rfl⟩
  · split
    · exact ⟨_, _, _, _, rfl⟩
    · rename_i u _
      split
      · obtain ⟨os, ws, rs, h⟩ := hadd s ⟨some u, part, .firmware⟩
        exact ⟨os, ws, rs, _, h⟩
      · split
        · dsimp only
          split
          · rename_i r _ _ _
            obtain ⟨os, ws, rs, h⟩ := hadd { s with ctl := { s.ctl with waiting := s.ctl.waiting ++ [r.ctx] } }
              ⟨some u, part, .firmware⟩
            exact ⟨os, ws, rs, _, h⟩
          · obtain ⟨os, ws, rs, h⟩ := hadd s ⟨some u, part, .firmware⟩
            exact ⟨os, ws, rs, _, h⟩
        · exact ⟨_, _, _, _, rfl⟩

/-! ### The end of a launch (R48, R339, R351) -/

/-- What an ended launch leaves: no counter of it, in the cells and in the images, and no other change but of its packets (R48, R339). -/
theorem State.endLaunch_spec (s : State) (l : Launch) (status : Nat) : ∃ ks os io,
    s.endLaunch l status = { s with
      ctl := { s.ctl with
        launches := s.ctl.launches.filter (fun x => !(x.ctx == l.ctx && x.lid == l.lid))
        images := s.ctl.images.map (fun m => { m with counts := m.counts.filter (fun c => !(c.ctx == l.ctx && c.lid == l.lid)) })
        orphans := os }
      counts := s.counts.filter (fun c => !(c.ctx == l.ctx && c.lid == l.lid))
      killed := ks
      io := io } ∧
    (s.firmwareHalted = true → io = s.io) := by
  unfold State.endLaunch
  dsimp only
  split
  · exact ⟨_, s.ctl.orphans, s.io, rfl, fun _ => rfl⟩
  · rename_i hf
    split
    · exact ⟨_, _, _, rfl, fun h => absurd h hf⟩
    · split
      · split
        · exact ⟨_, _, _, rfl, fun h => absurd h hf⟩
        · exact ⟨_, _, _, rfl, fun h => absurd h hf⟩
      · exact ⟨_, _, _, rfl, fun h => absurd h hf⟩

theorem mem_updateFirst {α : Type} {p : α → Bool} {f : α → α} {l : List α} {x : α} (h : l.find? p = some x) :
    f x ∈ updateFirst p f l := by
  induction l with
  | nil => cases h
  | cons a l ih =>
    rw [updateFirst]
    split
    · rename_i ha
      obtain rfl : a = x := by simpa [ha] using h
      exact List.mem_cons_self
    · rename_i ha
      exact List.mem_cons_of_mem _ (ih (by simpa [ha] using h))

/-- A launch whose packet still stands has it finished with its status while the firmware runs (R339, R343). -/
theorem State.endLaunch_packet {s : State} {l : Launch} {p : Packet} (status : Nat) (hf : s.firmwareHalted = false)
    (ho : l.orphan = false) (hp : s.io.packets.find? (fun p => p.uid == l.pkt) = some p) :
    { p with phase := .finished, status := status, detail := if status = 0 then BitVec.ofNat 64 l.sent else 0 }
      ∈ (s.endLaunch l status).io.packets := by
  unfold State.endLaunch
  simp only [hf, ho, Bool.false_eq_true, if_false, Bool.not_false, if_true]
  exact mem_updateFirst hp

/-! ### Kill marks (R374) -/

theorem State.dropOps_eq (l : List Op) (s : State) : ∃ os gs,
    l.foldl (fun s o => s.dropOp o.id) s = { s with ops := os, gslots := gs } := by
  induction l generalizing s with
  | nil => exact ⟨_, _, rfl⟩
  | cons o l ih =>
    have hdrop : ∃ os gs, s.dropOp o.id = { s with ops := os, gslots := gs } := by
      unfold State.dropOp
      split
      · exact ⟨_, _, rfl⟩
      · split
        · split <;> exact ⟨_, _, rfl⟩
        · exact ⟨_, _, rfl⟩
    obtain ⟨os, gs, h⟩ := hdrop
    obtain ⟨os', gs', h'⟩ := ih (s.dropOp o.id)
    refine ⟨os', gs', ?_⟩
    rw [List.foldl_cons, h', h]

theorem State.discardTokens_eq (l : List Token) (s : State) : ∃ ts cs gs,
    l.foldl (fun s t => s.discardToken t) s = { s with tokens := ts, counts := cs, gslots := gs } := by
  induction l generalizing s with
  | nil => exact ⟨_, _, _, rfl⟩
  | cons t l ih =>
    obtain ⟨cs, gs, h⟩ := s.discardToken_eq t
    obtain ⟨ts', cs', gs', h'⟩ := ih (s.discardToken t)
    refine ⟨ts', cs', gs', ?_⟩
    rw [List.foldl_cons, h', h]

/-- What a kill mark leaves on its cell (R374). -/
theorem State.killMark_eq (s : State) (site ctx lid : Nat) : ∃ os ts cs gs, s.killMark site ctx lid = { s with
    killed := (site, ctx, lid) :: s.killed
    items := s.items.filter (fun i => !(i.site == site && (i.key.ctx == ctx && i.lid == lid)))
    ready := s.ready.filter (fun r => !(r.site == site && r.key.ctx == ctx && (s.frameAt site r.key).map (·.lid) == some lid))
    ops := os
    tokens := ts
    counts := cs
    gslots := gs
    frames := s.frames.filter (fun f => !(f.site == site && (f.key.ctx == ctx && f.lid == lid)) || s.running site f.key none) } := by
  unfold State.killMark
  dsimp only
  generalize hs1 : ({ s with killed := (site, ctx, lid) :: s.killed, items := _, ready := _ } : State) = s1
  obtain ⟨os, gs, h2⟩ := State.dropOps_eq
    (s.ops.filter (fun o => o.site == site && (o.key.ctx == ctx && o.lid == lid) && !o.performing)) s1
  rw [h2]
  dsimp only
  generalize hs3 : ({ s1 with ops := _, gslots := gs } : State) = s3
  obtain ⟨ts, cs, gs', h4⟩ := State.discardTokens_eq
    (s.tokens.filter (fun t => t.dcell == site && (t.key.ctx == ctx && t.lid == lid) && t.committed
      && (t.counts || t.phase == .waiting))) s3
  rw [h4, ← hs3, ← hs1]
  exact ⟨_, ts, cs, gs', rfl⟩

end Sys2Proof.Machine
end

section
/-! Window requests (R39, R248), timers and the time word (R349, R350), the turns of contexts (R399, R401), and the statement that
collects them with the launches. -/

namespace Sys2Proof.Machine

/-! ### Window requests (R248) -/

theorem execTagwinRequest_numbers {s : State} {i : Inst} (h : s.instAt i.site i.runner = some i) (hp : i.phase = .offering)
    (hw : i.windowSets.isEmpty = false) (hc : s.canCommit i = true) :
    exec (.tagwinRequest i.site i.runner) s = .next ({ s with
      nextId := s.nextId + 1
      ctl := { s.ctl with tagwins := s.ctl.tagwins ++ [(⟨s.nextId, i.key.ctx, i.site, i.runner, i.windowSets,
        s.partitionCells i, []⟩ : TagwinReq)] } }.putInst { i with phase := .tagwin s.nextId }) := by
  show execTagwinRequest i.site i.runner s = _
  unfold execTagwinRequest
  rw [h]
  exact if_pos (by simp [hp, hw, hc])

theorem State.partitionCells_eq (s : State) (i : Inst) :
    s.partitionCells i = if i.key.ctx = 0 then packageCells else ((s.resident i.key.ctx).map (·.cells)).getD [] := by
  unfold State.partitionCells State.senderCells
  split
  · rfl
  · cases s.resident i.key.ctx <;> rfl

/-- The window entries of one context on one site that a list of settings leaves, each given by codeblock, origin and size. -/
def State.setWindows (s : State) (site ctx : Nat) (l : List (Nat × BitVec 32 × Nat)) : State :=
  l.foldl (fun s e => s.setWindow site ctx e.1 e.2.2 e.2.1) s

theorem State.setWindows_eq (site ctx : Nat) (l : List (Nat × BitVec 32 × Nat)) (s : State) :
    ∃ ws, s.setWindows site ctx l = { s with windows := ws } := by
  induction l generalizing s with
  | nil => exact ⟨_, rfl⟩
  | cons e l ih =>
    obtain ⟨ws, h⟩ := ih (s.setWindow site ctx e.1 e.2.2 e.2.1)
    exact ⟨ws, h⟩

theorem State.windowAt_setWindow (s : State) (site ctx cb wlog : Nat) (origin : BitVec 32) :
    (s.setWindow site ctx cb wlog origin).windowAt site ctx cb = some ⟨site, ctx, cb, wlog, origin⟩ := by
  simp [State.windowAt, State.setWindow]

theorem State.windowAt_setWindow_other (s : State) {site ctx cb x y z : Nat} (wlog : Nat) (origin : BitVec 32)
    (h : ¬(x = site ∧ y = ctx ∧ z = cb)) :
    (s.setWindow site ctx cb wlog origin).windowAt x y z = s.windowAt x y z := by
  unfold State.windowAt State.setWindow
  rw [List.find?_cons_of_neg (by
    simp only [Bool.and_eq_true, beq_iff_eq]
    rintro ⟨⟨rfl, rfl⟩, rfl⟩
    exact h ⟨rfl, rfl, rfl⟩), List.find?_filter]
  congr 1
  funext w
  rw [Bool.eq_iff_iff]
  simp only [Bool.and_eq_true, beq_iff_eq, Bool.not_eq_true', Bool.and_eq_false_iff, beq_eq_false_iff_ne, decide_eq_true_eq]
  constructor
  · exact fun hw => hw.2
  · rintro ⟨⟨rfl, rfl⟩, rfl⟩
    exact ⟨by tauto, ⟨rfl, rfl⟩, rfl⟩

theorem State.windowAt_setWindows_other {site ctx x y z : Nat} (l : List (Nat × BitVec 32 × Nat)) (s : State)
    (h : (x, y) = (site, ctx) → z ∉ l.map (·.1)) : (s.setWindows site ctx l).windowAt x y z = s.windowAt x y z := by
  induction l generalizing s with
  | nil => rfl
  | cons e l ih =>
    refine (ih (s.setWindow site ctx e.1 e.2.2 e.2.1) fun hxy hz => h hxy (List.mem_cons_of_mem _ hz)).trans ?_
    refine s.windowAt_setWindow_other _ _ fun hxyz => h (Prod.ext hxyz.1 hxyz.2.1) ?_
    rw [hxyz.2.2]
    exact List.mem_cons_self

theorem State.windowAt_setWindows {site ctx : Nat} (l : List (Nat × BitVec 32 × Nat)) (s : State) (hn : (l.map (·.1)).Nodup) :
    ∀ e ∈ l, (s.setWindows site ctx l).windowAt site ctx e.1 = some ⟨site, ctx, e.1, e.2.2, e.2.1⟩ := by
  induction l generalizing s with
  | nil => exact fun e he => absurd he (List.not_mem_nil)
  | cons a l ih =>
    obtain ⟨ha, hl⟩ := List.nodup_cons.mp hn
    intro e he
    obtain rfl | he := List.mem_cons.mp he
    · exact (State.windowAt_setWindows_other l (s.setWindow site ctx e.1 e.2.2 e.2.1) fun _ => ha).trans
        (s.windowAt_setWindow site ctx e.1 e.2.2 e.2.1)
    · exact ih (s.setWindow site ctx a.1 a.2.2 a.2.1) hl e he

/-- A cell without parked tokens has none to re-examine (R37). -/
theorem State.reexamine_of_none_parked {s : State} {site : Nat} (h : ∀ t ∈ s.tokens, t.dcell = site → t.inPark = false)
    (ctx cb : Nat) :
    s.reexamine site ctx cb = s := by
  have hnone : s.tokens.filter (fun t => t.dcell == site && t.parkConcerns ctx cb) = [] := by
    rw [List.filter_eq_nil_iff]
    intro t ht hc
    rw [Bool.and_eq_true, beq_iff_eq] at hc
    have hpark := h t ht hc.1
    have hcon := hc.2
    unfold Token.inPark at hpark
    unfold Token.parkConcerns at hcon
    cases hp : t.phase <;> simp [hp] at hpark hcon
  unfold State.reexamine
  rw [hnone]
  rfl

theorem State.reexamines_of_none_parked {s : State} {site : Nat} (h : ∀ t ∈ s.tokens, t.dcell = site → t.inPark = false) (ctx : Nat)
    (l : List (Nat × BitVec 32 × Nat)) : l.foldl (fun s e => s.reexamine site ctx e.1) s = s := by
  induction l with
  | nil => rfl
  | cons e l ih => rw [List.foldl_cons, State.reexamine_of_none_parked h, ih]

theorem execTagwinInstall_sets {s : State} {site ctx : Nat} {r : TagwinReq}
    (h : leastBy (·.no) (s.ctl.tagwins.filter (fun r => r.ctx == ctx && r.cells.contains site && !r.installed.contains site)) = some r)
    (hp : ∀ t ∈ s.tokens, t.dcell = site → t.inPark = false) :
    ∃ q, exec (.tagwinInstall site ctx) s
      = .next (({ s with ctl := { s.ctl with tagwins := q } } : State).setWindows site ctx r.sets) := by
  refine ⟨updateFirst (fun x => x.no == r.no) (fun x => { x with installed := site :: x.installed }) s.ctl.tagwins, ?_⟩
  show execTagwinInstall site ctx s = _
  unfold execTagwinInstall
  rw [h]
  refine congrArg Host.Outcome.next (State.reexamines_of_none_parked ?_ ctx r.sets)
  obtain ⟨ws, hws⟩ := State.setWindows_eq site ctx r.sets ({ s with ctl := { s.ctl with
    tagwins := updateFirst (fun x => x.no == r.no) (fun x => { x with installed := site :: x.installed }) s.ctl.tagwins } } : State)
  unfold State.setWindows at hws
  rw [hws]
  exact hp

/-! ### Timers and the time word (R349, R350) -/

theorem Timer.armed_cleared (t : Timer) : ({ t with ctl := t.ctl &&& ~~~1 } : Timer).armed = false := by
  simp [Timer.armed, wbit, wfield, field]

theorem execTimerExpiry_sends {s : State} {n c : Nat} {far : Option (Nat × Nat)} {t : Timer} (h : keyed s.sys.timers n = some t)
    (hd : t.due s.sys.rtime = true) (hc : s.timerTarget t.tref = some (c, far)) :
    exec (.timerExpiry n) s = .next (({ s with sys := { s.sys with
        timers := putKeyed s.sys.timers n { t with ctl := t.ctl &&& ~~~1 } } } : State).sendToken
      { unitToken .timer (refKey 0 t.tref) (wfield t.ctl 1 4) 1 (wfield t.ctl 5 8) c ringmaster 0
          (.word (BitVec.ofNat 64 s.sys.rtime)) with epoch := wbit t.tref 56, remote := far, seq := s.nextId }) := by
  show execTimerExpiry n s = _
  unfold execTimerExpiry
  rw [h]
  dsimp only
  rw [if_pos hd, hc]

theorem SysRegs.timeDue_iff (r : SysRegs) :
    r.timeDue = true ↔ wbit r.timeaddr 0 = true ∧ r.lastTimeWord < (r.rtime + 9) / 1024 * 1024 := by
  unfold SysRegs.timeDue
  rw [Bool.and_eq_true, decide_eq_true_eq]
  rfl

section
variable {s : State} {a : Nat} {stored : State} (ha : a = wfield s.sys.timeaddr 3 49 * 8)
  (hs : stored = { s with sys := { s.sys with lastTimeWord := (s.sys.rtime + 9) / 1024 * 1024 } })
  (he : wbit s.sys.timeaddr 0 = true) (hm : s.sys.lastTimeWord < (s.sys.rtime + 9) / 1024 * 1024)

theorem execTimeWordStore_not_due (h : ¬(wbit s.sys.timeaddr 0 = true ∧ s.sys.lastTimeWord < (s.sys.rtime + 9) / 1024 * 1024)) :
    exec .timeWordStore s = .next s := by
  show execTimeWordStore s = _
  exact if_neg fun hdue => h (s.sys.timeDue_iff.mp hdue)

include ha hs he hm

theorem execTimeWordStore_due : exec .timeWordStore s =
    if !s.ringReaches a 8 then .next stored
    else if 2 ^ 48 ≤ a ∧ !Config.hostAnswers s.tick then .next (stored.healthEvent 0x07 (sourceWord ringmaster 0))
    else .next (stored.physStore a 8 s.sys.rtime false) := by
  subst ha hs
  show execTimeWordStore s = _
  exact if_pos (s.sys.timeDue_iff.mpr ⟨he, hm⟩)

theorem execTimeWordStore_stores (hr : s.ringReaches a 8 = true) (h48 : a < 2 ^ 48) (hb : inBox a = false) :
    exec .timeWordStore s = .next { stored with mem := s.mem.store a 8 s.sys.rtime false } := by
  have hstore : stored.physStore a 8 s.sys.rtime false = { stored with mem := s.mem.store a 8 s.sys.rtime false } := by
    unfold State.physStore
    rw [if_neg (by simp [hb]), if_pos h48, hs]
  rw [execTimeWordStore_due ha hs he hm, if_neg (by simp [hr]), if_neg (by omega), hstore]

theorem execTimeWordStore_refused (hr : s.ringReaches a 8 = true) (h48 : 2 ^ 48 ≤ a) (hh : Config.hostAnswers s.tick = false) :
    exec .timeWordStore s = .next (stored.healthEvent 0x07 (sourceWord ringmaster 0)) := by
  rw [execTimeWordStore_due ha hs he hm, if_neg (by simp [hr]), if_pos ⟨h48, by rw [hh]; rfl⟩]

theorem execTimeWordStore_unreached (hr : s.ringReaches a 8 = false) : exec .timeWordStore s = .next stored := by
  rw [execTimeWordStore_due ha hs he hm, if_pos (by simp [hr])]

end

/-! ### The turns of contexts (R399, R401) -/

section
variable {s : State} {part c : Nat} (hf : s.firmwareHalted = false) (hw : ∀ w ∈ s.ctl.switches, w.part ≠ part)
  (hc : s.firstWaiting part = some c)

theorem State.reviews_of_no_switch {s : State} {part : Nat} (hf : s.firmwareHalted = false)
    (hw : ∀ w ∈ s.ctl.switches, w.part ≠ part) :
    ¬(s.firmwareHalted || s.ctl.switches.any (fun w => w.part == part)) = true := by
  simpa [hf] using hw

/-- The only switch of a partition, just asked for, is the one that the partition takes up. -/
theorem find?_switch_added {l : List Switch} {w : Switch} (hw : ∀ x ∈ l, x.part ≠ w.part) :
    (l ++ [w]).find? (fun x => x.part == w.part) = some w := by
  rw [List.find?_append, List.find?_eq_none.mpr (fun x hx => by simpa using hw x hx)]
  simp

theorem State.addSwitch_restore_free {s : State} {w : Switch} (hw : ∀ x ∈ s.ctl.switches, x.part ≠ w.part)
    (hr : s.residentIn w.part = none) (hrest : w.restore.isSome = true) :
    s.addSwitch w = { s with ctl := { s.ctl with switches := s.ctl.switches ++ [w] } } := by
  have hnone : ({ s with ctl := { s.ctl with switches := s.ctl.switches ++ [w] } } : State).residentIn w.part = none := hr
  unfold State.addSwitch State.pumpSwitch
  dsimp only
  rw [find?_switch_added hw, hnone]
  dsimp only
  exact if_neg (by simpa [Option.isNone_iff_eq_none] using Option.isSome_iff_ne_none.mp hrest)

theorem State.addSwitch_resident_up {s : State} {w : Switch} {r : Resident} (hw : ∀ x ∈ s.ctl.switches, x.part ≠ w.part)
    (hr : s.residentIn w.part = some r) (hp : r.phase = .up) :
    s.addSwitch w = ({ s with ctl := { s.ctl with switches := s.ctl.switches ++ [w] } } : State).setResident r.ctx
      (fun x => { x with phase := .stopping }) := by
  have hsome : ({ s with ctl := { s.ctl with switches := s.ctl.switches ++ [w] } } : State).residentIn w.part = some r := hr
  unfold State.addSwitch State.pumpSwitch
  dsimp only
  rw [find?_switch_added hw, hsome]
  dsimp only
  exact if_pos (by rw [hp]; rfl)

theorem State.resident_setResident {s : State} {ctx : Nat} {r : Resident} (h : s.resident ctx = some r) {f : Resident → Resident}
    (hf : ∀ x, (f x).ctx = x.ctx) : (s.setResident ctx f).resident ctx = some (f r) :=
  (find?_updateFirst_self (fun x hx => by rwa [hf x]) _).trans (congrArg (Option.map f) h)

theorem State.yields_iff (s : State) (r : Resident) (u : Nat) : s.yields r u = true ↔
    s.priority r.ctx < s.priority u ∨ s.hasLaunch r.ctx = false ∨
      (s.priority r.ctx = s.priority u ∧ r.since + 1000 * s.ctl.quantum ≤ s.sys.rtime) := by
  unfold State.yields
  simp [or_assoc]

include hf hw hc

theorem State.reviewPart_free (hr : s.residentIn part = none) : s.reviewPart part = { s with
    ctl := { s.ctl with switches := s.ctl.switches ++ [⟨some c, part, .firmware⟩] } } := by
  unfold State.reviewPart
  rw [if_neg (State.reviews_of_no_switch hf hw), hc]
  dsimp only
  rw [hr]
  exact State.addSwitch_restore_free (w := ⟨some c, part, .firmware⟩) hw hr rfl

theorem State.reviewPart_stays {r : Resident} (hr : s.residentIn part = some r) (hy : s.yields r c = false) :
    s.reviewPart part = s := by
  unfold State.reviewPart
  rw [if_neg (State.reviews_of_no_switch hf hw), hc]
  dsimp only
  rw [hr]
  exact if_neg (by simp [hy])

/-- The resident context that gives way stops, and waits in its turn when it has a live launch (R401). -/
theorem State.reviewPart_yields {r : Resident} (hr : s.residentIn part = some r) (hp : r.phase = .up)
    (hy : s.yields r c = true) : ∃ qs, (s.ctl.launches.any (fun l => l.ctx == r.ctx) = true → r.ctx ∈ qs) ∧
    s.reviewPart part = ({ s with ctl := { s.ctl with waiting := qs, switches := s.ctl.switches ++ [⟨some c, part, .firmware⟩] }
      } : State).setResident r.ctx (fun x => { x with phase := .stopping }) := by
  unfold State.reviewPart
  rw [if_neg (State.reviews_of_no_switch hf hw), hc]
  dsimp only
  rw [hr]
  dsimp only
  rw [if_pos hy]
  split
  · exact ⟨_, fun _ => List.mem_append_right _ (List.mem_singleton.mpr rfl),
      State.addSwitch_resident_up (s := { s with ctl := { s.ctl with waiting := s.ctl.waiting ++ [r.ctx] } })
        (w := ⟨some c, part, .firmware⟩) hw hr hp⟩
  · rename_i hno
    refine ⟨s.ctl.waiting, fun hl => ?_, State.addSwitch_resident_up (w := ⟨some c, part, .firmware⟩) hw hr hp⟩
    simpa [hl] using hno

end

end Sys2Proof.Machine
end

section
/-! The statement of launches and timers (R48, R248, R330, R349 to R351, R374, R387, R401), one lemma for each of its subjects. -/

namespace Sys2Proof.Machine

theorem launchInject_steps {s s1 : State} {l : Launch} {die off c : Nat} {d : Desc} (h : s.launch l.ctx l.lid = some l)
    (hoff : l.nextOffset die = some off) (hd : (s.injects l die).loadDesc (s.injector l die) l.ctx l.cb = (s1, .ok d))
    (hc : s1.resolve (s.injector l die) l.cells d l.ctx l.cb (BitVec.ofNat 32 (l.tbase + off)) = .ok c) :
    ∃ u, ∃ t ∈ u.tokens, exec (.launchInject die l.ctx l.lid) s = .next u ∧
      t.key = ⟨l.ctx, l.cb, BitVec.ofNat 32 (l.tbase + off)⟩ ∧ t.dcell = c ∧ t.slot = l.slot ∧ t.lid = l.lid ∧
      t.epoch = l.epoch ∧ t.phase = .offered ∧ t.committed = true ∧ t.source = .launch ∧
      t.payload = (if l.word then .word (l.arg + BitVec.ofNat 64 off * l.astep) else .none) ∧
      t.idx = (if l.word then l.idx else 0) ∧
      u.launch l.ctx l.lid = some { l with injected := putKeyed l.injected die ((keyed l.injected die).getD 0 + 1) } ∧
      (s.injects l die).onlyLoads { u with tokens := (s.injects l die).tokens, nextId := (s.injects l die).nextId } := by
  have hloads := State.onlyLoads_trans (State.onlyLoads_of_loadDesc hd)
    (s1.notePlacement_onlyLoads (s.injector l die) d l.ctx (BitVec.ofNat 32 (l.tbase + off)))
  refine ⟨_, { l.initialToken off (s.injector l die) c with id := _, arrival := _ },
    List.mem_append_right _ (List.mem_singleton.mpr rfl), execLaunchInject_sends h hoff hd hc,
    rfl, rfl, rfl, rfl, rfl, rfl, rfl, rfl, rfl, rfl, ?_, ?_⟩
  · exact (State.launch_of_launches (State.onlyLoads_launches hloads) l.ctx l.lid).trans (State.launch_injects h die)
  · rw [← State.onlyLoads_tokens hloads, ← State.onlyLoads_nextId hloads]
    exact hloads

theorem State.signals_and_reviews (s : State) (cls tag : Nat) (ws : List W64) (part : Nat) :
    ((s.raiseEvent cls tag ws).reviewPart part).ctl.launches = s.ctl.launches ∧
    ((s.raiseEvent cls tag ws).reviewPart part).ctl.images = s.ctl.images ∧
    ((s.raiseEvent cls tag ws).reviewPart part).counts = s.counts ∧
    ((s.raiseEvent cls tag ws).reviewPart part).mem = s.mem ∧ ((s.raiseEvent cls tag ws).reviewPart part).io = s.io := by
  obtain ⟨os, sw, rs, qs, hreview⟩ := (s.raiseEvent cls tag ws).reviewPart_eq part
  obtain ⟨ts, n, dr, hevent⟩ := s.raiseEvent_eq cls tag ws
  rw [hreview, hevent]
  exact ⟨rfl, rfl, rfl, rfl, rfl⟩

/-- The end of a launch: no launch and no counter is left of it, and its packet is finished while the firmware runs (R48, R339). -/
theorem launchWave_ends {s : State} {l : Launch} {ts : Nat} (h : s.launch l.ctx l.lid = some l) (hw : l.watch = false)
    (ht : l.lastWave + 1024 ≤ s.sys.rtime) (hsent : l.sent = l.tags) (hwave : s.wave l.ctx l.lid = (0, ts, ts))
    (hprev : l.prev = some ts) :
    ∃ u, exec (.launchWave l.ctx l.lid) s = .next u ∧ u.launch l.ctx l.lid = none ∧ u.mem = s.mem ∧
      (∀ c, (c ∈ u.counts ∨ ∃ m ∈ u.ctl.images, c ∈ m.counts) → ¬(c.ctx = l.ctx ∧ c.lid = l.lid)) ∧
      (s.firmwareHalted = true → u.io = s.io) ∧
      (∀ p, s.firmwareHalted = false → l.orphan = false → s.io.packets.find? (fun p => p.uid == l.pkt) = some p →
        { p with phase := .finished, status := l.endStatus,
                 detail := if l.endStatus = 0 then BitVec.ofNat 64 l.sent else 0 } ∈ u.io.packets) := by
  refine ⟨_, execLaunchWave_ends h hw ht hsent hwave hprev, ?_⟩
  obtain ⟨hlaunches, himages, hcounts, hmem, hio⟩ := (s.endLaunch l l.endStatus).signals_and_reviews 2 (64 * l.ctx + l.lid)
    [BitVec.ofNat 64 ts] (wfield (s.ctxWord l.ctx 0) 1 6)
  have hpacket (p : Packet) := State.endLaunch_packet (s := s) (l := l) (p := p) l.endStatus
  obtain ⟨ks, os, io, hend, hhalted⟩ := s.endLaunch_spec l l.endStatus
  refine ⟨?_, hmem.trans (by rw [hend]), fun c hc => ?_, fun hf => hio.trans ?_, fun p hf ho hp => ?_⟩
  · rw [State.launch_of_launches hlaunches, hend]
    refine List.find?_eq_none.mpr fun x hx hx' => ?_
    simpa [hx'] using (List.mem_filter.mp hx).2
  · rw [hcounts, himages, hend] at hc
    obtain hc | ⟨m, hm, hc⟩ := hc
    · simpa [or_iff_not_imp_left] using (List.mem_filter.mp hc).2
    · obtain ⟨m', -, rfl⟩ := List.mem_map.mp hm
      simpa [or_iff_not_imp_left] using (List.mem_filter.mp hc).2
  · rw [hend]
    exact hhalted hf
  · rw [hio]
    exact hpacket p hf ho hp

theorem launchKillMark_steps {s : State} {l : Launch} {site : Nat} (h : s.launch l.ctx l.lid = some l) (hk : l.killed = true)
    (h0 : l.ctx ≠ 0) (hr : s.residentAt site l.ctx = true) (hn : (site, l.ctx, l.lid) ∉ s.killed) :
    ∃ u, exec (.launchKillMark site l.ctx l.lid) s = .next u ∧ (site, l.ctx, l.lid) ∈ u.killed ∧
      (∀ f ∈ u.frames, f.site = site → f.key.ctx = l.ctx → f.lid = l.lid → u.running site f.key none = true) ∧
      (∀ it ∈ u.items, ¬(it.site = site ∧ it.key.ctx = l.ctx ∧ it.lid = l.lid)) ∧
      (∀ r ∈ u.ready, ¬(r.site = site ∧ r.key.ctx = l.ctx ∧ ∃ f, s.frameAt site r.key = some f ∧ f.lid = l.lid)) ∧
      u.mem = s.mem ∧ u.scratch = s.scratch ∧ u.insts = s.insts := by
  have hexec : exec (.launchKillMark site l.ctx l.lid) s = .next (s.killMark site l.ctx l.lid) := by
    show execLaunchKillMark site l.ctx l.lid s = _
    unfold execLaunchKillMark
    rw [h]
    exact if_pos (by simp [hk, h0, hr, hn])
  obtain ⟨os, ts, cs, gs, hmark⟩ := s.killMark_eq site l.ctx l.lid
  refine ⟨_, hexec.trans (congrArg _ hmark), List.mem_cons_self, ?_, ?_, ?_, rfl, rfl, rfl⟩
  · intro f hf hsite hctx hlid
    have hkeep := (List.mem_filter.mp hf).2
    rw [hsite, hctx, hlid, beq_self_eq_true, beq_self_eq_true, beq_self_eq_true] at hkeep
    exact hkeep
  · rintro it hit ⟨hsite, hctx, hlid⟩
    have hkeep := (List.mem_filter.mp hit).2
    simp [hsite, hctx, hlid] at hkeep
  · rintro r hr ⟨hsite, hctx, f, hf, hlid⟩
    have hkeep := (List.mem_filter.mp hr).2
    simp [hsite, hctx, hf, hlid] at hkeep

theorem tagwinRequest_steps {s : State} {i : Inst} (h : s.instAt i.site i.runner = some i) (hp : i.phase = .offering)
    (hw : i.windowSets.isEmpty = false) (hc : s.canCommit i = true) :
    ∃ u, exec (.tagwinRequest i.site i.runner) s = .next u ∧
      u.ctl.tagwins = s.ctl.tagwins ++
        [⟨s.nextId, i.key.ctx, i.site, i.runner, i.windowSets,
          if i.key.ctx = 0 then packageCells else ((s.resident i.key.ctx).map (·.cells)).getD [], []⟩] ∧
      u.instAt i.site i.runner = some { i with phase := .tagwin s.nextId } ∧
      { u with insts := s.insts, nextId := s.nextId, ctl := s.ctl } = s := by
  refine ⟨_, execTagwinRequest_numbers h hp hw hc, ?_, ?_, rfl⟩
  · rw [← s.partitionCells_eq i]
    rfl
  · exact State.instAt_putInst_of (i := i) (by exact h) _ rfl rfl

theorem tagwinInstall_steps {s : State} {site ctx : Nat} {r : TagwinReq}
    (h : leastBy (·.no) (s.ctl.tagwins.filter (fun r => r.ctx == ctx && r.cells.contains site && !r.installed.contains site)) = some r)
    (hn : (r.sets.map (·.1)).Nodup) (hp : ∀ t ∈ s.tokens, t.dcell = site → t.inPark = false) :
    ∃ u, exec (.tagwinInstall site ctx) s = .next u ∧
      (∀ e ∈ r.sets, u.windowAt site ctx e.1 = some ⟨site, ctx, e.1, e.2.2, e.2.1⟩) ∧
      (∀ x y cb, (x, y) ≠ (site, ctx) → u.windowAt x y cb = s.windowAt x y cb) ∧
      (∀ cb, cb ∉ r.sets.map (·.1) → u.windowAt site ctx cb = s.windowAt site ctx cb) ∧
      { u with windows := s.windows, ctl := { u.ctl with tagwins := s.ctl.tagwins } } = s := by
  obtain ⟨q, hexec⟩ := execTagwinInstall_sets h hp
  obtain ⟨ws, hws⟩ := State.setWindows_eq site ctx r.sets { s with ctl := { s.ctl with tagwins := q } }
  refine ⟨_, hexec, State.windowAt_setWindows _ _ hn, fun x y cb hxy => ?_, fun cb hcb => ?_, by rw [hws]⟩
  · exact State.windowAt_setWindows_other r.sets _ fun h' => absurd h' hxy
  · exact State.windowAt_setWindows_other r.sets _ fun _ => hcb

theorem timerExpiry_steps {s : State} {n c : Nat} {far : Option (Nat × Nat)} {t : Timer} (h : keyed s.sys.timers n = some t)
    (hd : t.due s.sys.rtime = true) (hc : s.timerTarget t.tref = some (c, far)) :
    ∃ u, ∃ k ∈ u.tokens, exec (.timerExpiry n) s = .next u ∧ k.dcell = c ∧ k.remote = far ∧ k.key = refKey 0 t.tref ∧ k.kind = 1 ∧
      k.epoch = wbit t.tref 56 ∧ k.slot = wfield t.ctl 1 4 ∧ k.idx = wfield t.ctl 5 8 ∧
      k.payload = .word (BitVec.ofNat 64 s.sys.rtime) ∧ (keyed u.sys.timers n).map Timer.armed = some false ∧
      { u with tokens := s.tokens, nextId := s.nextId, sys := { u.sys with timers := s.sys.timers } } = s := by
  refine ⟨_, { unitToken .timer (refKey 0 t.tref) (wfield t.ctl 1 4) 1 (wfield t.ctl 5 8) c ringmaster 0
      (.word (BitVec.ofNat 64 s.sys.rtime)) with
      epoch := wbit t.tref 56, remote := far, seq := s.nextId, id := s.nextId, arrival := s.nextId },
    List.mem_append_right _ (List.mem_singleton.mpr rfl), execTimerExpiry_sends h hd hc,
    rfl, rfl, rfl, rfl, rfl, rfl, rfl, rfl, ?_, rfl⟩
  refine (congrArg (Option.map Timer.armed) (keyed_putKeyed_self _ _ _)).trans ?_
  exact congrArg some (Timer.armed_cleared t)

theorem timeWord_steps (s : State) {a : Nat} {stored : State} (ha : a = wfield s.sys.timeaddr 3 49 * 8)
    (hs : stored = { s with sys := { s.sys with lastTimeWord := (s.sys.rtime + 9) / 1024 * 1024 } })
    (he : wbit s.sys.timeaddr 0 = true) (hm : s.sys.lastTimeWord < (s.sys.rtime + 9) / 1024 * 1024)
    (hr : s.ringReaches a 8 = true) (h48 : a < 2 ^ 48) (hb : inBox a = false) (hwf : s.mem.wf) :
    ∃ u, exec .timeWordStore s = .next u ∧ u.mem.read a 8 = s.sys.rtime % 2 ^ 64 ∧
      (∀ b, b < a ∨ a + 8 ≤ b → u.mem.byte b = s.mem.byte b) ∧ { u with mem := s.mem } = stored := by
  refine ⟨_, execTimeWordStore_stores ha hs he hm hr h48 hb, ?_, fun b hb' => ?_, ?_⟩
  · exact (Memory.read_store a 8 s.sys.rtime false hwf).trans (by norm_num)
  · exact Memory.byte_store_other _ false hb' hwf
  · rw [hs]

theorem quantumExpiry_yields {s : State} {part c : Nat} {r : Resident} (hf : s.firmwareHalted = false)
    (hw : ∀ w ∈ s.ctl.switches, w.part ≠ part) (hc : s.firstWaiting part = some c) (hr : s.residentIn part = some r)
    (hp : r.phase = .up) (hres : s.resident r.ctx = some r) (hy : s.yields r c = true) :
    ∃ u, exec (.quantumExpiry part) s = .next u ∧ (u.resident r.ctx).map (·.phase) = some .stopping ∧
      ⟨some c, part, .firmware⟩ ∈ u.ctl.switches ∧ { u with ctl := s.ctl } = s ∧
      (s.ctl.launches.any (fun l => l.ctx == r.ctx) = true → r.ctx ∈ u.ctl.waiting) := by
  obtain ⟨qs, hwait, hreview⟩ := State.reviewPart_yields hf hw hc hr hp hy
  refine ⟨_, congrArg Host.Outcome.next hreview, ?_, ?_, rfl, hwait⟩
  · exact congrArg (Option.map (·.phase)) (State.resident_setResident (r := r) (f := fun x => { x with phase := .stopping })
      (by exact hres) fun _ => rfl)
  · exact List.mem_append_right _ (List.mem_singleton.mpr rfl)

/-- Settles O56: a lemma for each of the steps, which says which state it leaves. -/
theorem launchAndTimerSteps : Obligations.LaunchAndTimerSteps := by
  unfold Obligations.LaunchAndTimerSteps
  refine ⟨fun s l h => ⟨?_, ?_, fun hw ht => ⟨?_, ?_⟩, ?_, ?_, ?_⟩, ?_, ?_, ?_, ?_, ?_, ?_⟩
  · exact fun die off s1 d c hoff hd hc => launchInject_steps h hoff hd hc
  · exact fun he => execLaunchWave_early h he
  · exact fun ts hsent hwave hprev => launchWave_ends h hw ht hsent hwave hprev
  · intro busy ts tr hwave hne
    refine ⟨_, execLaunchWave_goes_on h hw ht hwave hne, rfl, ?_⟩
    refine (State.launch_updateLaunch (f := fun l =>
      l.waved ts s.sys.rtime s.sys.wdog (decide (l.sent = l.tags ∧ busy = 0 ∧ ts = tr))) h fun _ => ⟨rfl, rfl⟩).trans ?_
    unfold Launch.waved
    simp only [decide_eq_true_eq]
  · intro hw
    show execLaunchWatchdog l.ctx l.lid s = _
    unfold execLaunchWatchdog
    rw [h]
    exact if_pos hw
  · intro hw
    show execLaunchWatchdog l.ctx l.lid s = _
    unfold execLaunchWatchdog
    rw [h]
    exact if_neg (by simp [hw])
  · exact fun site hk h0 hr hn => launchKillMark_steps h hk h0 hr hn
  · exact fun s i h hp hw hc => tagwinRequest_steps h hp hw hc
  · exact fun s site ctx r h hn hp => tagwinInstall_steps h hn hp
  · exact fun s n c far t h hd hc => timerExpiry_steps h hd hc
  · intro s
    refine ⟨execTimeWordStore_not_due, fun he hm => ⟨?_, ?_, ?_⟩⟩
    · exact fun hr h48 hb hwf => timeWord_steps s rfl rfl he hm hr h48 hb hwf
    · exact fun hr h48 hh => execTimeWordStore_refused rfl rfl he hm hr h48 hh
    · exact fun hr => execTimeWordStore_unreached rfl rfl he hm hr
  · intro s part hf
    exact congrArg Host.Outcome.next (if_pos (by simp [hf]))
  · intro s part c hf hw hc
    refine ⟨fun hr => congrArg Host.Outcome.next (State.reviewPart_free hf hw hc hr),
      fun r hr hp hres => ⟨fun hy => ?_, fun hy => ?_⟩⟩
    · exact quantumExpiry_yields hf hw hc hr hp hres ((s.yields_iff r c).mpr hy)
    · refine congrArg Host.Outcome.next (State.reviewPart_stays hf hw hc hr ?_)
      exact Bool.eq_false_iff.mpr fun hy' => hy ((s.yields_iff r c).mp hy')

end Sys2Proof.Machine
end

section
/-! The commit instant (R41): why it does not leave every translation as it was. A failed `ctxrs` faults at the commit (R377), and a
cell that sends the record loads the descriptor of the handler codeblock (R302, R366), which fills its TLB (R385). -/

namespace Sys2Proof.Machine

/-- Memory with the descriptor of context 0 at 0x1000, its page table of one leaf that maps the first 4 GiB to themselves, its
codeblock 2 with a descriptor at 0x11000, and its handler table, which names codeblock 2 for CONTEXT_STATE. -/
def restoreMem : Memory :=
  ((((((((((({} : Memory).write 0x1000 8 1).write 0x1010 8 0x2000).write 0x1018 8 0x10000).write 0x1028 8 0x13000).write
    0x2000 8 0x4001).write 0x4000 8 0x6001).write 0x6000 8 0x8001).write 0x8000 8 0x21F).write
    0x10040 8 1).write 0x10048 8 0x11000).write 0x13042 2 0x8002

/-- The live frame of a threadlet of context 0 on cell 0. -/
def restoreFrame : Frame := { (default : Frame) with key := ⟨0, 2, 7⟩ }

/-- The threadlet itself, before it has an effect. -/
def restoreRunner : Inst := { (default : Inst) with key := restoreFrame.key, pc := 0x1004, dyn := 1, phase := .offering }

/-- Cell 0 with this threadlet on a runner, and an empty TLB. -/
def restoreCell : State :=
  { State.reset with
    insts := [restoreRunner], frames := [restoreFrame], mem := restoreMem,
    sys := { State.reset.sys with pools := 1, ctxtab := 0x1000, ctxtabWritten := true } }

/-- The threadlet after a `ctxrs` of context 0, the split-phase effect as the model's own issue makes it. -/
def restoring : Inst :=
  { restoreRunner with
    nEff := 1
    effects := [.op (opOf restoreCell restoreRunner ⟨0, 0, 0x1000, 0xC098A808, none⟩ 9 (.sys (.ctxrs 0 0) false) [])] }

/-- Cell 0 where the threadlet, done with its run, commits. -/
def restoreCommits : State := restoreCell.putInst restoring

/-- The translations of the state that a step answers, where it answers one. -/
def tlbAfter : Out → List TlbEntry
  | .next t => t.tlb
  | _ => []

/-- The commit of the failed restore leaves the cell the translation of the handler's descriptor. -/
theorem tlbAfter_failed_restore : (tlbAfter (exec (.commit 0 0) restoreCommits)).map (fun e => (e.site, e.ctx, e.level, e.page))
    = [(0, 0, 2, 0)] := by
  decide +kernel

/-- Refutes O48: with the preconditions of the commit met, and no fault of its own, a `ctxrs` of context 0 that a system threadlet on
a cell issued faults at the commit, and the TLB of the cell, empty before, holds the page of the handler's descriptor after it. -/
theorem not_commitInstant : ¬ Obligations.CommitInstant := by
  unfold Obligations.CommitInstant
  intro h
  obtain ⟨-, -, -, hcommit⟩ := h restoreCommits restoring restoreFrame rfl (.inl rfl) rfl
  obtain ⟨t, hstep, -, -, -, -, -, htlb, -⟩ := hcommit (fun hring => absurd hring (by decide)) (by decide +kernel) rfl
    (fun hkilled => hkilled.1 rfl) (by decide) rfl rfl Memory.wf_empty
  have hfilled := tlbAfter_failed_restore
  rw [show exec (.commit 0 0) restoreCommits = .next t from hstep] at hfilled
  have hempty : tlbAfter (.next t) = [] := htlb
  rw [hempty] at hfilled
  exact absurd hfilled (by decide)

end Sys2Proof.Machine
end

section
/-! What the taking of a fault can change (R42, R366 to R368): instances leave their runners, frames follow, and the cell looks for
the handler. -/

namespace Sys2Proof.Machine

/-! ### What threadlets hold -/

/-- `t` is `s` but for what its threadlets hold: instances, frames, tokens, queues, pins and numbers, and what loads of descriptors
leave. -/
def State.onlyThreads (s t : State) : Prop :=
  { t with
    insts := s.insts, frames := s.frames, tokens := s.tokens, ready := s.ready, gslots := s.gslots, carJobs := s.carJobs,
    nextId := s.nextId, genCount := s.genCount, actions := s.actions, descs := s.descs, windows := s.windows, tlb := s.tlb,
    ctl := { t.ctl with tagwins := s.ctl.tagwins, walks := s.ctl.walks } } = s

theorem State.onlyThreads_refl (s : State) : s.onlyThreads s := rfl

theorem State.onlyThreads_trans {s t u : State} (hst : s.onlyThreads t) (htu : t.onlyThreads u) : s.onlyThreads u := by
  unfold State.onlyThreads at hst
  rw [← htu] at hst
  exact hst

theorem State.onlyThreads_of_loads {s t : State} (h : s.onlyLoads t) : s.onlyThreads t :=
  (congrArg (fun x : State => { x with
    insts := s.insts, frames := s.frames, tokens := s.tokens, ready := s.ready, gslots := s.gslots, carJobs := s.carJobs,
    nextId := s.nextId, genCount := s.genCount, actions := s.actions,
    ctl := { x.ctl with tagwins := s.ctl.tagwins } }) h.2 :)

/-- What stands at a physical address is told by the memories, the registers behind the mailbox and the system registers. -/
theorem State.physRead_congr {s t : State} (hm : t.mem = s.mem) (hh : t.host = s.host) (hi : t.io = s.io) (hw : t.hw = s.hw)
    (hs : t.sys = s.sys) : t.physRead = s.physRead := by
  have hbox : ∀ n off, t.boxRead off n = s.boxRead off n := by
    intro n
    induction n with
    | zero => exact fun _ => rfl
    | succ k ih =>
      intro off
      unfold State.boxRead State.boxByte State.boxUnit State.hstat State.retirementMap
      rw [ih, hm, hi, hw]
  funext a n
  unfold State.physRead State.busAddress State.window
  rw [hbox, hm, hh, hs]

theorem State.physWord_congr {s t : State} (h : t.physRead = s.physRead) : t.physWord = s.physWord := by
  funext a
  unfold State.physWord
  rw [h]

theorem State.tables_congr {s t : State} (hres : t.resident = s.resident) (hw : t.physWord = s.physWord) (hs : t.sys = s.sys) :
    t.tables = s.tables := by
  funext ctx
  unfold State.tables State.ctxWord
  rw [hres, hw, hs]

theorem State.codeblock_congr {s t : State} (ht : t.tables = s.tables) (hw : t.physWord = s.physWord) (hs : t.sys = s.sys) :
    t.codeblock = s.codeblock := by
  funext ctx cb
  unfold State.codeblock
  rw [ht, hw, hs]

theorem State.eventTarget_congr {s t : State} (hres : t.resident = s.resident) (hread : t.physRead = s.physRead) (hs : t.sys = s.sys)
    (cls : Nat) : t.eventTarget cls = s.eventTarget cls := by
  have hw := State.physWord_congr hread
  unfold State.eventTarget
  rw [State.codeblock_congr (State.tables_congr hres hw hs) hw hs, hw, hs]

section
variable {s t : State} (h : s.onlyThreads t)
include h

theorem State.onlyThreads_items : t.items = s.items := (congrArg State.items h :)
theorem State.onlyThreads_halted : t.halted = s.halted := (congrArg State.halted h :)
theorem State.onlyThreads_hw : t.hw = s.hw := (congrArg State.hw h :)
theorem State.onlyThreads_sys : t.sys = s.sys := (congrArg State.sys h :)
theorem State.onlyThreads_eventTarget (cls : Nat) : t.eventTarget cls = s.eventTarget cls := by
  have hres : t.resident = s.resident := (congrArg State.resident h :)
  have hsys := State.onlyThreads_sys h
  exact State.eventTarget_congr hres (State.physRead_congr (congrArg State.mem h :) (congrArg State.host h :) (congrArg State.io h :)
    (State.onlyThreads_hw h) hsys) hsys cls

end

/-! ### Instances that leave their runners (R33, R42) -/

/-- Whether a token is one that an instance has offered and not committed (R42). -/
def Token.offeredFrom (t : Token) (site runner : Nat) : Bool := !t.committed && t.owner == some (site, runner)

/-- An instance off its runner takes its uncommitted tokens with it, and no frame but such as only they had created. -/
theorem State.releaseInst_eq (s : State) (i : Inst) : ∃ (p : Frame → Bool) (cj : List CarJob) (gs : List GSlot),
    (∀ f : Frame, f.fresh = false → p f = true) ∧ s.releaseInst i = { s with
      tokens := s.tokens.filter (fun t => !t.offeredFrom i.site i.runner), carJobs := cj, frames := s.frames.filter p, gslots := gs,
      insts := s.insts.filter (fun x => !(x.site == i.site && x.runner == i.runner)) } := by
  unfold State.releaseInst
  dsimp only
  generalize hs2 : ({ s with tokens := _, carJobs := _, frames := _ } : State) = s2
  obtain ⟨gs, hpins⟩ := State.unpins_spec i.site i.pins s2
  rw [hpins, ← hs2]
  refine ⟨_, _, gs, fun f hf => ?_, rfl⟩
  rw [hf]
  rfl

theorem State.releaseInst_onlyThreads (s : State) (i : Inst) : s.onlyThreads (s.releaseInst i) := by
  obtain ⟨p, cj, gs, -, h⟩ := s.releaseInst_eq i
  rw [h]
  rfl

theorem State.releaseInst_insts (s : State) (i : Inst) :
    (s.releaseInst i).insts = s.insts.filter (fun x => !(x.site == i.site && x.runner == i.runner)) := by
  obtain ⟨p, cj, gs, -, h⟩ := s.releaseInst_eq i
  rw [h]

theorem State.releaseInst_tokens (s : State) (i : Inst) :
    (s.releaseInst i).tokens = s.tokens.filter (fun t => !t.offeredFrom i.site i.runner) := by
  obtain ⟨p, cj, gs, -, h⟩ := s.releaseInst_eq i
  rw [h]

theorem find?_filter_of_kept {α : Type} {p q : α → Bool} {l : List α} {x : α} (h : l.find? q = some x) (hx : p x = true) :
    (l.filter p).find? q = some x := by
  induction l with
  | nil => cases h
  | cons a l ih =>
    rw [List.find?_cons] at h
    cases hq : q a with
    | true =>
      obtain rfl : a = x := by simpa [hq] using h
      simp [hx, hq]
    | false =>
      have hl : l.find? q = some x := by simpa [hq] using h
      rw [List.filter_cons]
      split
      · rw [List.find?_cons, hq]
        exact ih hl
      · exact ih hl

theorem State.frameAt_releaseInst {s : State} {x : Nat} {k : Key} {f : Frame} (h : s.frameAt x k = some f) (hf : f.fresh = false)
    (i : Inst) : (s.releaseInst i).frameAt x k = some f := by
  obtain ⟨p, cj, gs, hp, he⟩ := s.releaseInst_eq i
  rw [he]
  exact find?_filter_of_kept h (hp f hf)

theorem State.frameAt_eq_none {s : State} {x : Nat} {k : Key} : s.frameAt x k = none ↔ ∀ f ∈ s.frames, f.isAt x k = false := by
  unfold State.frameAt
  rw [List.find?_eq_none]
  exact forall₂_congr fun f _ => by rw [Frame.isAt, Bool.not_eq_true]

theorem State.frameAt_releaseInst_none {s : State} {x : Nat} {k : Key} (h : s.frameAt x k = none) (i : Inst) :
    (s.releaseInst i).frameAt x k = none := by
  obtain ⟨p, cj, gs, -, he⟩ := s.releaseInst_eq i
  rw [State.frameAt_eq_none] at h ⊢
  rw [he]
  exact fun f hf => h f (List.mem_filter.mp hf).1

theorem State.running_releaseInst (s : State) (i : Inst) (k : Key) :
    (s.releaseInst i).running i.site k none = s.running i.site k (some i.runner) := by
  unfold State.running
  rw [State.releaseInst_insts, List.any_filter]
  congr 1
  funext x
  rw [Bool.eq_iff_iff]
  simp only [Bool.and_eq_true, Bool.not_eq_true', Bool.and_eq_false_iff, beq_iff_eq, beq_eq_false_iff_ne, bne_iff_ne, ne_eq,
    Option.some.injEq, reduceCtorEq, not_false_eq_true, and_true]
  tauto

theorem State.instAt_releaseInst_self (s : State) (i : Inst) : (s.releaseInst i).instAt i.site i.runner = none := by
  unfold State.instAt
  rw [State.releaseInst_insts]
  exact List.find?_eq_none.mpr fun x hx hx' => by simpa [hx'] using (List.mem_filter.mp hx).2

theorem State.instAt_releaseInst_none {s : State} {site runner : Nat} (h : s.instAt site runner = none) (i : Inst) :
    (s.releaseInst i).instAt site runner = none := by
  unfold State.instAt at h ⊢
  rw [State.releaseInst_insts]
  exact List.find?_eq_none.mpr fun x hx => List.find?_eq_none.mp h x (List.mem_filter.mp hx).1

theorem State.instAt_releaseInst_other (s : State) {i : Inst} {site : Nat} (h : site ≠ i.site) (runner : Nat) :
    (s.releaseInst i).instAt site runner = s.instAt site runner := by
  unfold State.instAt
  rw [State.releaseInst_insts, List.find?_filter]
  congr 1
  funext x
  rw [Bool.eq_iff_iff]
  simp only [Bool.and_eq_true, Bool.not_eq_true', Bool.and_eq_false_iff, beq_iff_eq, beq_eq_false_iff_ne, decide_eq_true_eq]
  constructor
  · exact fun hx => hx.2
  · exact fun hx => ⟨.inl fun hs => h (hx.1.symm.trans hs), hx⟩

/-! ### Instances abandoned (R42, R368) -/

theorem State.dropRequest_eq (s : State) (i : Inst) : ∃ q, s.dropRequest i = { s with ctl := { s.ctl with tagwins := q } } := by
  unfold State.dropRequest
  split <;> exact ⟨_, rfl⟩

theorem State.enqueueWith_eq (s : State) (site : Nat) (k : Key) (thr cls : Nat) (sub : Option (Nat × (Nat × Nat × Bool) × W64)) :
    ∃ fs n rd, s.enqueueWith site k thr cls sub = { s with frames := fs, nextId := n, ready := rd } := by
  obtain ⟨r, u, h, hu, -⟩ := s.enqueueWith_spec site k thr cls sub
  obtain rfl | ⟨v, rfl⟩ := hu <;> exact ⟨_, _, _, h⟩

/-- An instance abandoned is one off its runner, with an entry queued: what the rest of the machine sees of it (R42). -/
theorem State.abandon_eq (s : State) (i : Inst) : ∃ u, s.onlyThreads u ∧
    u.insts = (s.releaseInst i).insts ∧ u.tokens = (s.releaseInst i).tokens ∧ u.frames = (s.releaseInst i).frames ∧
    s.abandon i = u.enqueueWith i.site i.key i.thr i.cls i.subst := by
  obtain ⟨q, hq⟩ := s.dropRequest_eq i
  refine ⟨(s.dropRequest i).releaseInst i, ?_, ?_, ?_, ?_, rfl⟩
  · refine State.onlyThreads_trans (t := s.dropRequest i) ?_ ((s.dropRequest i).releaseInst_onlyThreads i)
    rw [hq]
    rfl
  · rw [State.releaseInst_insts, State.releaseInst_insts, hq]
  · rw [State.releaseInst_tokens, State.releaseInst_tokens, hq]
  · rw [hq]
    unfold State.releaseInst
    dsimp only
    generalize hs2 : ({ s with tokens := _, carJobs := _, frames := _ } : State) = s2
    generalize hs3 : ({ s with tokens := _, carJobs := _, frames := _, ctl := _ } : State) = s3
    obtain ⟨gs, h2⟩ := State.unpins_spec i.site i.pins s2
    obtain ⟨gs', h3⟩ := State.unpins_spec i.site i.pins s3
    rw [h2, h3, ← hs2, ← hs3]
    rfl

end Sys2Proof.Machine
end

section
/-! What a cell looks up for a handler (R302, R360, R366) does not depend on what its threadlets hold, and what the fault token of a
record leaves (R366, R368). -/

namespace Sys2Proof.Machine

/-! ### What a search for a handler reads -/

/-- A state without what its threadlets hold: a search for a handler finds there what it finds in the state. -/
def State.lookups (s : State) : State :=
  { s with insts := [], frames := [], tokens := [], gslots := [], carJobs := [], nextId := 0, genCount := [] }

theorem State.lookups_physRead (s : State) : s.lookups.physRead = s.physRead := State.physRead_congr rfl rfl rfl rfl rfl

theorem State.lookups_physWord (s : State) : s.lookups.physWord = s.physWord := State.physWord_congr s.lookups_physRead

theorem State.lookups_tables (s : State) : s.lookups.tables = s.tables :=
  State.tables_congr rfl s.lookups_physWord rfl

theorem State.lookups_codeblock (s : State) : s.lookups.codeblock = s.codeblock :=
  State.codeblock_congr s.lookups_tables s.lookups_physWord rfl

theorem State.lookups_walkFrom (s : State) (va lvl base : Nat) : s.lookups.walkFrom va lvl base = s.walkFrom va lvl base := by
  have hpools : s.lookups.inPools = s.inPools := rfl
  induction lvl generalizing base with
  | zero =>
    unfold State.walkFrom
    simp only [hpools, State.lookups_physWord, State.lookups_physRead]
  | succ l ih =>
    unfold State.walkFrom
    simp only [ih, hpools, State.lookups_physWord, State.lookups_physRead]

theorem State.lookups_walk (s : State) (ctx va : Nat) : s.lookups.walk ctx va = s.walk ctx va := by
  have hleaves : ∀ root va, s.lookups.contigLeaves root va = s.contigLeaves root va := by
    intro root va
    unfold State.contigLeaves
    simp only [State.lookups_walkFrom]
  have hleaf : ∀ root va leaf, s.lookups.contigLeaf root va leaf = s.contigLeaf root va leaf := by
    intro root va leaf
    unfold State.contigLeaf
    rw [hleaves]
    rfl
  unfold State.walk
  simp only [State.lookups_walkFrom, hleaf, State.lookups_tables]

theorem State.lookups_locate (s : State) (site ctx : Nat) (a : Access) (va n : Nat) :
    s.lookups.locate site ctx a va n = s.locate site ctx a va n := by
  unfold State.locate State.translate
  rw [State.lookups_walk]
  rfl

theorem State.lookups_noteFetch (s : State) (site ctx va : Nat) :
    (s.noteFetch site ctx va).lookups = (s.lookups.noteFetch site ctx va).lookups := by
  unfold State.noteFetch
  rw [State.lookups_walk]
  refine (apply_ite State.lookups _ _ _).trans (Eq.trans ?_ (apply_ite State.lookups _ _ _).symm)
  cases s.walk ctx va with
  | error e => rfl
  | ok x =>
    have hres : s.lookups.residentAt site ctx = s.residentAt site ctx := rfl
    dsimp only
    rw [hres]
    cases s.residentAt site ctx <;> rfl

theorem State.lookups_loadDesc (s : State) (site ctx cb : Nat) :
    (s.loadDesc site ctx cb).1.lookups = (s.lookups.loadDesc site ctx cb).1.lookups ∧
      (s.loadDesc site ctx cb).2 = (s.lookups.loadDesc site ctx cb).2 := by
  have hdesc : s.lookups.descAt site ctx cb = s.descAt site ctx cb := rfl
  have hres : s.lookups.residentAt site ctx = s.residentAt site ctx := rfl
  have hread : s.lookups.deviceRead = s.deviceRead := by
    funext pa n
    unfold State.deviceRead
    rw [State.lookups_physRead]
    rfl
  have hnote := s.lookups_noteFetch site ctx
  unfold State.loadDesc
  rw [hdesc, State.lookups_codeblock]
  cases s.descAt site ctx cb with
  | some d => exact ⟨rfl, rfl⟩
  | none =>
    cases s.codeblock ctx cb with
    | none => exact ⟨rfl, rfl⟩
    | some c =>
      dsimp only
      split
      · exact ⟨rfl, rfl⟩
      · rw [State.lookups_locate]
        cases s.locate site ctx .descriptor c.desc 256 with
        | error e => exact ⟨hnote c.desc, rfl⟩
        | ok pa =>
          dsimp only
          rw [hread]
          cases parseDesc (fun off n => (s.deviceRead (pa + off) n).1) c.ring with
          | none => exact ⟨hnote c.desc, rfl⟩
          | some d =>
            dsimp only
            rw [hres]
            cases s.residentAt site ctx with
            | false => exact ⟨hnote c.desc, rfl⟩
            | true =>
              refine ⟨?_, rfl⟩
              have hinstall : ∀ t : State, (t.installDesc site ctx cb d).lookups = (t.lookups.installDesc site ctx cb d).lookups :=
                fun _ => rfl
              simp only [if_true]
              rw [hinstall, hnote c.desc, ← hinstall]

theorem State.lookups_ctxValid (s : State) : s.lookups.ctxValid = s.ctxValid := by
  have hword : s.lookups.ctxWord = s.ctxWord := by
    funext c k
    have htab : s.lookups.sys = s.sys := rfl
    unfold State.ctxWord
    rw [State.lookups_physWord, htab]
  have hsound : s.lookups.areaSound = s.areaSound := rfl
  funext c
  unfold State.ctxValid State.systemSound
  rw [hword, hsound]

theorem State.lookups_handlerEntry (s : State) : s.lookups.handlerEntry = s.handlerEntry := by
  funext c k
  have hres : s.lookups.resident c = s.resident c := rfl
  unfold State.handlerEntry
  rw [hres, State.lookups_tables, State.lookups_physRead]

theorem State.lookups_resolve (s : State) : s.lookups.resolve = s.resolve := by
  have hreplacement : s.lookups.replacement = s.replacement := rfl
  have hlive : s.lookups.live = s.live := rfl
  have htick : s.lookups.tick = s.tick := rfl
  funext site l d ctx cb tag
  unfold State.resolve
  simp only [State.lookups_locate, hreplacement, hlive, htick]

/-- What does not depend on what threadlets hold is alike in two states that differ in nothing else. -/
theorem State.agree_of_lookups {s t : State} (h : s.lookups = t.lookups) {α : Type} (g : State → α)
    (hg : ∀ x : State, g x.lookups = g x) : g t = g s := by
  rw [← hg t, ← h, hg s]

/-- The handler's home is found alike in two states that differ in what their threadlets hold. -/
theorem State.handlerHome_congr {s t : State} (h : s.lookups = t.lookups) {site ctx lid cause cb home : Nat}
    (hs : s.handlerHome site ctx lid cause cb home) : t.handlerHome site ctx lid cause cb home := by
  obtain ⟨hvalid, hentry, ⟨c, hc, hring, hremote⟩, u, d, hload, hthread, hlive, hresolve⟩ := hs
  obtain ⟨v, hv⟩ : ∃ v, (t.loadDesc site (if 0x20 ≤ cause then 0 else ctx) cb).1 = v := ⟨_, rfl⟩
  have huv : u.lookups = v.lookups := by
    rw [← hv, (t.lookups_loadDesc _ _ _).1, ← h, ← (s.lookups_loadDesc _ _ _).1, hload]
  have hd : (t.loadDesc site (if 0x20 ≤ cause then 0 else ctx) cb).2 = .ok d := by
    rw [(t.lookups_loadDesc _ _ _).2, ← h, ← (s.lookups_loadDesc _ _ _).2, hload]
  have hcells : v.live = u.live := State.agree_of_lookups huv State.live fun _ => rfl
  have hlist : v.cellList = u.cellList := State.agree_of_lookups huv State.cellList fun _ => rfl
  have hhome : v.resolve = u.resolve := State.agree_of_lookups huv State.resolve State.lookups_resolve
  have hcount : t.faultCount = s.faultCount := State.agree_of_lookups h State.faultCount fun _ => rfl
  refine ⟨?_, ?_, ⟨c, ?_, hring, hremote⟩, v, d, Prod.ext hv hd, hthread, ?_, ?_⟩
  · rw [State.agree_of_lookups h State.ctxValid State.lookups_ctxValid]
    exact hvalid
  · rw [State.agree_of_lookups h State.handlerEntry State.lookups_handlerEntry]
    exact hentry
  · rw [State.agree_of_lookups h State.codeblock State.lookups_codeblock]
    exact hc
  · rw [hlist, hcells]
    exact hlive
  · rw [hhome, hlist, hcount]
    exact hresolve

end Sys2Proof.Machine
end

section
/-! A synchronous fault taken (R42, R343, R364 to R368): its record, its fault token, a double fault, and a fault of the
Ringmaster. -/

namespace Sys2Proof.Machine

/-! ### Instances abandoned, and the frame of one that faults -/

section
variable {s : State} {x : Nat} {k : Key}

theorem State.frameAt_congr {s t : State} (h : t.frames = s.frames) (x : Nat) (k : Key) : t.frameAt x k = s.frameAt x k := by
  unfold State.frameAt
  rw [h]

theorem State.frameAt_abandon {f : Frame} (h : s.frameAt x k = some f) (hf : f.fresh = false) (j : Inst) :
    ∃ l, (s.abandon j).frameAt x k = some { f with life := l } := by
  obtain ⟨u, -, -, -, hframes, he⟩ := s.abandon_eq j
  rw [he]
  exact State.frameAt_enqueueWith ((State.frameAt_congr hframes x k).trans (State.frameAt_releaseInst h hf j)) ..

theorem State.frameAt_updateFrame_none (h : s.frameAt x k = none) (y : Nat) (j : Key) {g : Frame → Frame}
    (hg : ∀ f : Frame, (g f).site = f.site ∧ (g f).key = f.key) : (s.updateFrame y j g).frameAt x k = none := by
  by_cases hxy : y = x ∧ j = k
  · obtain ⟨rfl, rfl⟩ := hxy
    rw [State.frameAt_updateFrame, h]
    · rfl
    · exact fun f hf => ⟨(hg f).1.trans hf.1, (hg f).2.trans hf.2⟩
  · rw [State.frameAt_updateFrame_other s fun hc => hxy ⟨hc.1.symm, hc.2.symm⟩]
    · exact h
    · exact fun f hf => ⟨(hg f).1.trans hf.1, (hg f).2.trans hf.2⟩

theorem State.frameAt_abandon_none (h : s.frameAt x k = none) (j : Inst) : (s.abandon j).frameAt x k = none := by
  obtain ⟨u, -, -, -, hframes, he⟩ := s.abandon_eq j
  have hu : u.frameAt x k = none := (State.frameAt_congr hframes x k).trans (State.frameAt_releaseInst_none h j)
  obtain ⟨r, v, henqueue, hv, -⟩ := u.enqueueWith_spec j.site j.key j.thr j.cls j.subst
  rw [he, henqueue]
  obtain rfl | ⟨y, rfl⟩ := hv
  · exact hu
  · exact State.frameAt_updateFrame_none hu j.site y fun _ => ⟨rfl, rfl⟩

theorem State.abandon_insts (s : State) (j : Inst) : (s.abandon j).insts = (s.releaseInst j).insts := by
  obtain ⟨u, -, hinsts, -, -, he⟩ := s.abandon_eq j
  obtain ⟨fs, n, rd, henqueue⟩ := u.enqueueWith_eq j.site j.key j.thr j.cls j.subst
  rw [he, henqueue]
  exact hinsts

theorem State.abandon_tokens (s : State) (j : Inst) : (s.abandon j).tokens = (s.releaseInst j).tokens := by
  obtain ⟨u, -, -, htokens, -, he⟩ := s.abandon_eq j
  obtain ⟨fs, n, rd, henqueue⟩ := u.enqueueWith_eq j.site j.key j.thr j.cls j.subst
  rw [he, henqueue]
  exact htokens

theorem State.abandon_onlyThreads (s : State) (j : Inst) : s.onlyThreads (s.abandon j) := by
  obtain ⟨u, hu, -, -, -, he⟩ := s.abandon_eq j
  obtain ⟨fs, n, rd, henqueue⟩ := u.enqueueWith_eq j.site j.key j.thr j.cls j.subst
  refine State.onlyThreads_trans hu ?_
  rw [he, henqueue]
  rfl

end

/-- The instances of a list abandoned one after another (R368). -/
def State.abandons (s : State) (l : List Inst) : State := l.foldl State.abandon s

section
variable (l : List Inst) (s : State)

theorem State.abandons_onlyThreads : s.onlyThreads (s.abandons l) :=
  List.foldlRecOn l State.abandon (motive := fun t => s.onlyThreads t) s.onlyThreads_refl
    fun t ht j _ => State.onlyThreads_trans ht (t.abandon_onlyThreads j)

theorem State.frameAt_abandons {x : Nat} {k : Key} {f : Frame} (h : s.frameAt x k = some f) (hf : f.fresh = false) :
    ∃ a, (s.abandons l).frameAt x k = some { f with life := a } :=
  List.foldlRecOn l State.abandon (motive := fun t => ∃ a, t.frameAt x k = some { f with life := a }) ⟨f.life, h⟩
    fun _ ⟨a, ha⟩ j _ => State.frameAt_abandon (f := { f with life := a }) ha hf j

theorem State.frameAt_abandons_none {x : Nat} {k : Key} (h : s.frameAt x k = none) : (s.abandons l).frameAt x k = none :=
  List.foldlRecOn l State.abandon (motive := fun t => t.frameAt x k = none) h fun _ ht j _ => State.frameAt_abandon_none ht j

theorem State.instAt_abandons_none {site runner : Nat} (h : s.instAt site runner = none) :
    (s.abandons l).instAt site runner = none := by
  refine List.foldlRecOn l State.abandon (motive := fun t => t.instAt site runner = none) h fun t ht j _ => ?_
  have hreleased := State.instAt_releaseInst_none ht j
  unfold State.instAt at hreleased ⊢
  rwa [State.abandon_insts]

theorem State.instAt_abandons_other {site : Nat} (h : ∀ j ∈ l, site ≠ j.site) (runner : Nat) :
    (s.abandons l).instAt site runner = s.instAt site runner := by
  refine List.foldlRecOn l State.abandon (motive := fun t => t.instAt site runner = s.instAt site runner) rfl fun t ht j hj => ?_
  have hreleased := (t.instAt_releaseInst_other (h j hj) runner).trans ht
  unfold State.instAt at hreleased ⊢
  rwa [State.abandon_insts]

theorem State.tokens_abandons : ∀ t ∈ (s.abandons l).tokens, t ∈ s.tokens := by
  refine List.foldlRecOn l State.abandon (motive := fun u => ∀ t ∈ u.tokens, t ∈ s.tokens) (fun _ ht => ht) fun u hu j _ t ht => ?_
  rw [State.abandon_tokens, State.releaseInst_tokens] at ht
  exact hu t (List.mem_filter.mp ht).1

end

/-! ### Events and halted contexts (R347, R368) -/

theorem State.raiseEvent_sent {s : State} {cls cb slot : Nat} (h : s.eventTarget cls = some (cb, slot)) (tag : Nat) (ws : List W64) :
    ∃ k ∈ (s.raiseEvent cls tag ws).tokens, k.key = ⟨0, cb, BitVec.ofNat 32 tag⟩ ∧ k.slot = slot ∧ k.dcell = ringmaster ∧
      k.payload = .words ws := by
  unfold State.raiseEvent
  rw [h]
  exact ⟨_, List.mem_append_right _ (List.mem_singleton.mpr rfl), rfl, rfl, rfl, rfl⟩

theorem State.raiseEvent_dropped {s : State} (h : s.eventTarget 5 = none) (tag : Nat) (ws : List W64) :
    (s.raiseEvent 5 tag ws).sys.drops.getLsbD 5 = true := by
  unfold State.raiseEvent
  rw [h]
  simp

theorem State.raiseEvent_uncommitted (s : State) (cls tag : Nat) (ws : List W64) :
    ∀ k ∈ (s.raiseEvent cls tag ws).tokens, k.committed = false → k ∈ s.tokens := by
  intro k hk hc
  unfold State.raiseEvent at hk
  split at hk
  · obtain hk | hk := List.mem_append.mp hk
    · exact hk
    · rw [List.mem_singleton.mp hk] at hc
      cases hc
  · exact hk

/-- A context halted on a cell: its live launches end as halted, and the record is signalled (R339, R368). -/
theorem State.haltAt_eq (s : State) (it : Item) (ws : List W64) : ∃ hs ls,
    (∀ l ∈ ls, l.ctx = it.ctx → l.ended = false → l.halted = true) ∧
    s.haltAt it ws = ({ s with halted := hs, ctl := { s.ctl with launches := ls } } : State).raiseEvent 5
      (256 * it.site + it.ctx) ws := by
  refine ⟨if s.haltedAt it.site it.ctx then s.halted else (it.site, it.ctx) :: s.halted,
    s.ctl.launches.map (fun l => if l.ctx == it.ctx && !l.ended then { l with halted := true } else l), ?_, ?_⟩
  · intro l hl hctx hended
    obtain ⟨m, -, rfl⟩ := List.mem_map.mp hl
    split at hctx <;> rename_i hm
    · rw [if_pos hm]
    · rw [if_neg hm] at hended
      exact absurd (by simp [hctx, hended]) hm
  · unfold State.haltAt
    dsimp only
    cases s.haltedAt it.site it.ctx <;> rfl

/-! ### The fault token of a record (R360, R366) -/

theorem State.onlyLoads_faultCount {s t : State} (h : s.onlyLoads t) : t.faultCount = s.faultCount :=
  (congrArg State.faultCount h.2 :)

section
variable {s : State} {f : FaultSpec} {cb home : Nat} (item : Nat) (ws : List W64)

/-- Where the cell finds a handler's home, it sends the token there (R366). -/
theorem State.faultToken_sends (h : s.handlerHome f.site f.ctx f.lid f.cause cb home) : ∃ u, s.onlyLoads u ∧
    s.faultToken f item ws = (({ u with
      faultCount := putKeyed u.faultCount f.site ((keyed s.faultCount f.site).getD 0 + 1) } : State).sendToken
      (unitToken (.fault item f.held) ⟨if 0x20 ≤ f.cause then 0 else f.ctx, cb,
        BitVec.ofNat 32 (f.site * 2 ^ 21 + (keyed s.faultCount f.site).getD 0 % 2 ^ 21)⟩ 0 4 0 home f.site f.lid (.words ws)), true) := by
  have hsystem : (if systemCause f.cause then 0 else f.ctx) = if 0x20 ≤ f.cause then 0 else f.ctx := by simp [systemCause]
  obtain ⟨hvalid, hentry, ⟨c, hc, hring, hremote⟩, u, d, hload, hthread, hlive, hresolve⟩ := h
  have hloads := State.onlyLoads_of_loadDesc hload
  have hcount := State.onlyLoads_faultCount hloads
  refine ⟨u.notePlacement f.site d (if 0x20 ≤ f.cause then 0 else f.ctx)
    (BitVec.ofNat 32 (f.site * 2 ^ 21 + (keyed s.faultCount f.site).getD 0 % 2 ^ 21)),
    State.onlyLoads_trans hloads (u.notePlacement_onlyLoads ..), ?_⟩
  unfold State.faultToken
  dsimp only
  rw [hsystem, if_neg (by
    rw [Bool.and_eq_true, beq_iff_eq, Bool.not_eq_true']
    exact fun hno => absurd (hvalid hno.1) (by rw [hno.2]; exact Bool.false_ne_true)), hentry]
  dsimp only
  rw [hc]
  dsimp only
  rw [if_neg (by simp [hring, hremote]), hload]
  dsimp only
  rw [if_neg (by simp [Option.isSome_iff_ne_none.mp hthread, hlive]), hcount, hresolve]

/-- Where it finds none, it keeps what it has loaded (R302, R368). -/
theorem State.faultToken_fails (h : ¬∃ cb home, s.handlerHome f.site f.ctx f.lid f.cause cb home) :
    ∃ u, s.onlyLoads u ∧ s.faultToken f item ws = (u, false) := by
  have hsystem : (if systemCause f.cause then 0 else f.ctx) = if 0x20 ≤ f.cause then 0 else f.ctx := by simp [systemCause]
  unfold State.handlerHome at h
  unfold State.faultToken
  dsimp only at h ⊢
  rw [hsystem]
  generalize (if 0x20 ≤ f.cause then 0 else f.ctx) = hctx at h ⊢
  split
  · exact ⟨s, s.onlyLoads_refl, rfl⟩
  · rename_i cb hcb
    have hvalid : hctx = 0 → s.ctxValid 0 = true := by
      intro h0
      by_contra hno
      rw [if_pos (by simpa [h0] using hno)] at hcb
      cases hcb
    have hentry : s.handlerEntry hctx f.cause = some cb := by
      split at hcb
      · cases hcb
      · exact hcb
    split
    · exact ⟨s, s.onlyLoads_refl, rfl⟩
    · rename_i c hc
      split
      · exact ⟨s, s.onlyLoads_refl, rfl⟩
      · rename_i hcell
        cases hload : s.loadDesc f.site hctx cb with
        | mk u r =>
          have hloads := State.onlyLoads_of_loadDesc hload
          cases r with
          | error e => exact ⟨u, hloads, rfl⟩
          | ok d =>
            dsimp only
            split
            · exact ⟨u, hloads, rfl⟩
            · rename_i hlive
              cases hresolve : u.resolve f.site (u.cellList f.site hctx f.lid) d
                  hctx cb
                  (BitVec.ofNat 32 (f.site * 2 ^ 21 + (keyed u.faultCount f.site).getD 0 % 2 ^ 21)) with
              | error e => exact ⟨_, State.onlyLoads_trans hloads (u.notePlacement_onlyLoads f.site d _ _), rfl⟩
              | ok home =>
                refine absurd ⟨cb, home, hvalid, hentry, ⟨c, hc, ?_⟩, u, d, hload, ?_, ?_, ?_⟩ h
                · simpa [Option.not_isSome_iff_eq_none] using hcell
                · simp only [Bool.or_eq_true, not_or] at hlive
                  simpa [Option.isSome_iff_ne_none] using hlive.1
                · simp only [Bool.or_eq_true, not_or] at hlive
                  simpa using hlive.2
                · rw [← hresolve, State.onlyLoads_faultCount hloads]

end

end Sys2Proof.Machine
end

section
/-! The statement of synchronous faults (R42, R343, R364 to R368, R374). -/

namespace Sys2Proof.Machine

/-! ### Frames and queues between the steps of a fault -/

theorem State.frameAt_of_loads {s t : State} (h : s.onlyLoads t) {x : Nat} {k : Key} {f : Frame} (hf : s.frameAt x k = some f) :
    ∃ d, t.frameAt x k = some { f with desc := d } := by
  obtain ⟨⟨g, hg⟩, -⟩ := h
  refine ⟨g f, ?_⟩
  unfold State.frameAt at hf ⊢
  rw [hg, List.find?_map]
  exact congrArg (Option.map fun f => { f with desc := g f }) hf

theorem State.onlyLoads_items {s t : State} (h : s.onlyLoads t) : t.items = s.items := (congrArg State.items h.2 :)

theorem State.running_congr {s t : State} (h : t.insts = s.insts) (x : Nat) (k : Key) (but : Option Nat) :
    t.running x k but = s.running x k but := by
  unfold State.running
  rw [h]

theorem State.queued_congr {s t : State} (hr : t.ready = s.ready) (hi : t.items = s.items) (x : Nat) (k : Key) :
    t.queued x k = s.queued x k := by
  unfold State.queued
  rw [hr, hi]

theorem State.frameAt_freeFrame (s : State) (x : Nat) (k : Key) : (s.freeFrame x k).frameAt x k = none := by
  have hdropped : (s.dropFrame x k).frameAt x k = none :=
    State.frameAt_eq_none.mpr fun f hf => by simpa [Frame.isAt, or_iff_not_imp_left] using (List.mem_filter.mp hf).2
  unfold State.freeFrame
  split
  · assumption
  · dsimp only
    split
    · exact hdropped
    · split <;> exact hdropped

theorem State.settle_of_live {s : State} {x : Nat} {k : Key} {f : Frame} (h : s.frameAt x k = some f) (hl : f.life = .live) :
    s.settle x k = s := by
  unfold State.settle
  rw [h]
  exact if_neg (by rw [hl]; exact Bool.false_ne_true)

theorem State.settle_of_dying {s : State} {x : Nat} {k : Key} {f : Frame} (h : s.frameAt x k = some f) (hl : f.life = .dying)
    (hr : s.running x k none = false) (hq : s.queued x k = false) : s.settle x k = s.freeFrame x k := by
  unfold State.settle
  rw [h]
  exact if_pos (by rw [hl, hr, hq]; rfl)

theorem State.freeFrame_onlyThreads (s : State) (x : Nat) (k : Key) : s.onlyThreads (s.freeFrame x k) := by
  obtain ⟨fs, n, as, h⟩ := s.freeFrame_eq x k
  rw [h]
  rfl

theorem State.settle_onlyThreads (s : State) (x : Nat) (k : Key) : s.onlyThreads (s.settle x k) := by
  obtain ⟨fs, n, as, h⟩ := s.settle_eq x k
  rw [h]
  rfl

/-! ### A runner freed (R42) -/

/-- In `t` the runner of an instance of `s` is free, no uncommitted token of it is under way, and the instances of other sites are as
they were. -/
def State.freed (s t : State) (i : Inst) : Prop :=
  t.instAt i.site i.runner = none ∧ (∀ k ∈ t.tokens, k.committed = false → k.owner ≠ some (i.site, i.runner)) ∧
  ∀ site runner, site ≠ i.site → t.instAt site runner = s.instAt site runner

theorem State.freed_releaseInst (s : State) (i : Inst) : s.freed (s.releaseInst i) i := by
  refine ⟨s.instAt_releaseInst_self i, fun k hk hc ho => ?_, fun site runner h => s.instAt_releaseInst_other h runner⟩
  rw [State.releaseInst_tokens] at hk
  have hkept := (List.mem_filter.mp hk).2
  simp [Token.offeredFrom, hc, ho] at hkept

theorem State.freed_of_same {s t u : State} {i : Inst} (h : s.freed t i) (hi : u.insts = t.insts)
    (ht : ∀ k ∈ u.tokens, k.committed = false → k ∈ t.tokens) : s.freed u i := by
  obtain ⟨hrunner, htokens, hothers⟩ := h
  unfold State.freed State.instAt
  rw [hi]
  exact ⟨hrunner, fun k hk hc => htokens k (ht k hk hc) hc, hothers⟩

theorem State.freed_abandons {s t : State} {i : Inst} (h : s.freed t i) {l : List Inst} (hl : ∀ j ∈ l, j.site = i.site) :
    s.freed (t.abandons l) i := by
  obtain ⟨hrunner, htokens, hothers⟩ := h
  refine ⟨State.instAt_abandons_none l t hrunner, fun k hk => htokens k (State.tokens_abandons l t k hk), fun site runner hs => ?_⟩
  exact (State.instAt_abandons_other l t (fun j hj hj' => hs (hj'.trans (hl j hj))) runner).trans (hothers site runner hs)

/-! ### A fault raised (R364, R367, R368) -/

/-- A state in which a fault of a site has its number and its place in GEN (R364). -/
def State.numbered (s : State) (site : Nat) : State :=
  { s with nextId := s.nextId + 1, genCount := putKeyed s.genCount site ((keyed s.genCount site).getD 0 + 1) }

/-- The item that a fault leaves (R367). -/
def State.itemOfFault (s : State) (f : FaultSpec) : Item :=
  { id := s.nextId, site := f.site, kind := f.kind, ctx := f.ctx, lid := f.lid, key := f.key,
    fref := frameRef f.site f.key f.epoch, thr := f.thr, hidx := f.hidx, gen := (keyed s.genCount f.site).getD 0 % 256, body := f.body,
    handler := none }

section
variable {s : State} {f : FaultSpec}

theorem State.raiseFault_ring (h : f.site = ringmaster) :
    s.raiseFault f = (s.numbered f.site).ringFault f (s.itemOfFault f) ((keyed s.genCount f.site).getD 0) := by
  unfold State.raiseFault
  exact if_pos h

theorem State.raiseFault_double (h : f.site ≠ ringmaster)
    (hh : f.fromHandler = true ∨ ¬∃ cb home, (s.numbered f.site).handlerHome f.site f.ctx f.lid f.cause cb home) :
    ∃ u, (s.numbered f.site).onlyLoads u ∧
      s.raiseFault f = u.doubleFault (s.itemOfFault f) (f.record false true ((keyed s.genCount f.site).getD 0)) := by
  unfold State.raiseFault
  dsimp only
  rw [if_neg h]
  split
  · exact ⟨_, State.onlyLoads_refl _, rfl⟩
  · rename_i hno
    obtain ⟨u, hu, hfails⟩ := State.faultToken_fails (s.itemOfFault f).id (f.record true false ((keyed s.genCount f.site).getD 0))
      (hh.resolve_left hno)
    refine ⟨u, hu, ?_⟩
    unfold State.numbered State.itemOfFault at hfails
    rw [hfails]
    rfl

theorem State.raiseFault_sent {cb home : Nat} (h : f.site ≠ ringmaster) (hf : f.fromHandler = false)
    (hh : (s.numbered f.site).handlerHome f.site f.ctx f.lid f.cause cb home) :
    ∃ u, (s.numbered f.site).onlyLoads u ∧ s.raiseFault f = { (({ u with
        faultCount := putKeyed u.faultCount f.site ((keyed s.faultCount f.site).getD 0 + 1) } : State).sendToken
      (unitToken (.fault s.nextId f.held) ⟨if 0x20 ≤ f.cause then 0 else f.ctx, cb,
        BitVec.ofNat 32 (f.site * 2 ^ 21 + (keyed s.faultCount f.site).getD 0 % 2 ^ 21)⟩ 0 4 0 home f.site f.lid
        (.words (f.record true false ((keyed s.genCount f.site).getD 0))))) with items := s.itemOfFault f :: u.items } := by
  obtain ⟨u, hu, hsends⟩ := State.faultToken_sends (s.itemOfFault f).id (f.record true false ((keyed s.genCount f.site).getD 0)) hh
  refine ⟨u, hu, ?_⟩
  unfold State.raiseFault
  dsimp only
  rw [if_neg h, if_neg (by simp [hf])]
  unfold State.numbered State.itemOfFault at hsends
  rw [hsends]
  rfl

end

theorem State.doubleFault_suspended {it : Item} {thr cls : Nat} (s : State) (h : it.body = .suspended thr cls) (ws : List W64) :
    ∃ l : List Inst, (∀ j ∈ l, j.site = it.site) ∧ s.doubleFault it ws = ((s.settle it.site it.key).abandons l).haltAt it ws := by
  refine ⟨((s.settle it.site it.key).insts.filter (fun i => i.site == it.site && i.key.ctx == it.ctx)), fun j hj => ?_, ?_⟩
  · have hmine := (List.mem_filter.mp hj).2
    rw [Bool.and_eq_true, beq_iff_eq] at hmine
    exact hmine.1
  · unfold State.doubleFault State.discardBody
    rw [h]
    rfl

/-! ### The synchronous fault of an instance (R42) -/

/-- What the record of a synchronous fault is made of (R364). -/
def Inst.faultSpec (i : Inst) (f : Frame) (w : At) (x : Trap) : FaultSpec :=
  { site := i.site, kind := 0, cause := x.cause.code, lane := x.lane, dyn := w.dyn, thr := i.thr, ctx := i.key.ctx,
    lid := f.lid, key := i.key, epoch := f.epoch, iaddr := w.addr, detail := x.detail, faddr := x.faddr,
    value := x.value, level := x.level, instr := instrWord w.w0 w.w1, body := .suspended i.thr i.cls,
    fromHandler := f.handler.isSome }

theorem State.takeFault_killed {s : State} {i : Inst} (w : At) (x : Trap) (hk : s.underKill i = true) :
    s.takeFault i w x = s.endKilled i := by
  unfold State.takeFault
  exact if_pos hk

theorem State.takeFault_raises {s : State} {i : Inst} {f : Frame} (w : At) (x : Trap) (hf : s.frameAt i.site i.key = some f)
    (hk : s.underKill i = false) : s.takeFault i w x = (s.releaseInst i).raiseFault (i.faultSpec f w x) := by
  have hframe : s.frameOf i = f := by
    unfold State.frameOf
    rw [hf]
    rfl
  unfold State.takeFault
  dsimp only
  rw [if_neg (by simp [hk]), hframe]
  rfl

end Sys2Proof.Machine
end

section
/-! The cases of a synchronous fault (R42, R343, R366, R368, R374), and the statement that collects them. -/

namespace Sys2Proof.Machine

/-! ### Faults of the Ringmaster (R343) -/

theorem State.ringFault_halts {s : State} {f : FaultSpec} (h : ∃ slot, s.eventTarget 5 = some (f.key.cb, slot)) (it : Item) (gen : Nat) :
    s.ringFault f it gen = { s with hw := { s.hw with rmHalted := true, health := .fatal }, items := it :: s.items } := by
  obtain ⟨slot, h⟩ := h
  unfold State.ringFault
  rw [h]
  exact if_pos rfl

theorem State.ringFault_signals {s : State} {f : FaultSpec} (h : ∀ slot, s.eventTarget 5 ≠ some (f.key.cb, slot)) (it : Item)
    (gen : Nat) : s.ringFault f it gen
      = ({ s with items := it :: s.items } : State).raiseEvent 5 0x7FF00 (f.record true false gen) := by
  unfold State.ringFault
  split
  · rename_i cb slot hcb
    exact if_neg fun he => h slot (by rw [hcb, he])
  · rfl

theorem State.eventTarget_items (s : State) (l : List Item) (cls : Nat) :
    ({ s with items := l } : State).eventTarget cls = s.eventTarget cls := by
  have hread : ({ s with items := l } : State).physRead = s.physRead := State.physRead_congr rfl rfl rfl rfl rfl
  have hres : ({ s with items := l } : State).resident = s.resident := rfl
  exact State.eventTarget_congr hres hread rfl cls

theorem State.eventTarget_halted (s : State) (hs : List (Nat × Nat)) (ls : List Launch) (cls : Nat) :
    ({ s with halted := hs, ctl := { s.ctl with launches := ls } } : State).eventTarget cls = s.eventTarget cls := by
  have hread : ({ s with halted := hs, ctl := { s.ctl with launches := ls } } : State).physRead = s.physRead :=
    State.physRead_congr rfl rfl rfl rfl rfl
  have hres : ({ s with halted := hs, ctl := { s.ctl with launches := ls } } : State).resident = s.resident := rfl
  exact State.eventTarget_congr hres hread rfl cls

theorem State.raiseEvent_keeps (s : State) (cls tag : Nat) (ws : List W64) :
    (s.raiseEvent cls tag ws).insts = s.insts ∧ (s.raiseEvent cls tag ws).frames = s.frames ∧
    (s.raiseEvent cls tag ws).items = s.items ∧ (s.raiseEvent cls tag ws).hw = s.hw ∧
    (s.raiseEvent cls tag ws).ctl = s.ctl ∧ (s.raiseEvent cls tag ws).halted = s.halted := by
  obtain ⟨ts, n, d, h⟩ := s.raiseEvent_eq cls tag ws
  rw [h]
  exact ⟨rfl, rfl, rfl, rfl, rfl, rfl⟩

/-! ### The cases of a fault -/

theorem Inst.faultSpec_record (i : Inst) (f : Frame) (w : At) (x : Trap) (held double : Bool) (gen : Nat) :
    (i.faultSpec f w x).record held double gen =
      [BitVec.ofNat 64 (x.cause.code + held.toNat * 2 ^ 9 + x.lane % 64 * 2 ^ 10 + w.dyn % 512 * 2 ^ 16 + i.thr * 2 ^ 25
         + i.site * 2 ^ 29 + i.key.ctx * 2 ^ 40 + f.lid * 2 ^ 48),
       frameRef i.site i.key f.epoch, w.addr.setWidth 64, x.detail, BitVec.ofNat 64 x.faddr, x.value,
       BitVec.ofNat 64 (x.faddr / 2 ^ 64 % 2 ^ 8 + w.addr.toNat / 2 ^ 64 * 2 ^ 8 + x.level * 2 ^ 16 + double.toNat * 2 ^ 19
         + gen % 256 * 2 ^ 20),
       instrWord w.w0 w.w1] := by
  simp [FaultSpec.record, Inst.faultSpec]

/-- The state of a fault once the runner is free and the fault has its number. -/
def State.faulting (s : State) (i : Inst) : State := (s.releaseInst i).numbered i.site

theorem State.faulting_onlyThreads (s : State) (i : Inst) : s.onlyThreads (s.faulting i) :=
  State.onlyThreads_trans (s.releaseInst_onlyThreads i) rfl

theorem State.faulting_lookups (s : State) (i : Inst) : (s.faulting i).lookups = s.lookups := by
  obtain ⟨p, cj, gs, -, h⟩ := s.releaseInst_eq i
  unfold State.faulting State.numbered
  rw [h]
  rfl

theorem State.releaseInst_counters (s : State) (i : Inst) : (s.releaseInst i).genCount = s.genCount ∧
    (s.releaseInst i).faultCount = s.faultCount ∧ (s.releaseInst i).ready = s.ready := by
  obtain ⟨p, cj, gs, -, h⟩ := s.releaseInst_eq i
  rw [h]
  exact ⟨rfl, rfl, rfl⟩

section
variable {s : State} {i : Inst} {f : Frame} (w : At) (x : Trap) (hf : s.frameAt i.site i.key = some f) (hk : s.underKill i = false)
include hf hk

theorem State.takeFault_ring (h : i.site = ringmaster) : s.takeFault i w x = (s.faulting i).ringFault (i.faultSpec f w x)
    ((s.releaseInst i).itemOfFault (i.faultSpec f w x)) ((keyed s.genCount i.site).getD 0) := by
  rw [State.takeFault_raises w x hf hk, State.raiseFault_ring h, (s.releaseInst_counters i).1]
  rfl

/-- A double fault (R368): every instance that the halted context has on the cell is abandoned. -/
theorem State.takeFault_double (h : i.site ≠ ringmaster)
    (hh : f.handler.isSome = true ∨ ¬∃ cb home, s.handlerHome i.site i.key.ctx f.lid x.cause.code cb home) :
    ∃ u l, (s.faulting i).onlyLoads u ∧ (∀ j ∈ l, j.site = i.site) ∧
      s.takeFault i w x = ((u.settle i.site i.key).abandons l).haltAt ((s.releaseInst i).itemOfFault (i.faultSpec f w x))
        ((i.faultSpec f w x).record false true ((keyed s.genCount i.site).getD 0)) := by
  have hhome : (i.faultSpec f w x).fromHandler = true ∨
      ¬∃ cb home, (s.faulting i).handlerHome i.site i.key.ctx f.lid x.cause.code cb home :=
    hh.imp_right fun hno ⟨cb, home, hsome⟩ => hno ⟨cb, home, State.handlerHome_congr (s.faulting_lookups i) hsome⟩
  obtain ⟨u, hu, hraise⟩ := State.raiseFault_double (s := s.releaseInst i) (f := i.faultSpec f w x) h hhome
  obtain ⟨l, hl, hdouble⟩ := u.doubleFault_suspended (it := (s.releaseInst i).itemOfFault (i.faultSpec f w x)) (thr := i.thr)
    (cls := i.cls) rfl ((i.faultSpec f w x).record false true ((keyed s.genCount i.site).getD 0))
  refine ⟨u, l, hu, hl, ?_⟩
  rw [State.takeFault_raises w x hf hk, hraise, (s.releaseInst_counters i).1]
  exact hdouble

theorem State.takeFault_sent {cb home : Nat} (h : i.site ≠ ringmaster) (hn : f.handler = none)
    (hh : s.handlerHome i.site i.key.ctx f.lid x.cause.code cb home) :
    ∃ u, (s.faulting i).onlyLoads u ∧ s.takeFault i w x = { (({ u with
        faultCount := putKeyed u.faultCount i.site ((keyed s.faultCount i.site).getD 0 + 1) } : State).sendToken
      (unitToken (.fault (s.releaseInst i).nextId none) ⟨if 0x20 ≤ x.cause.code then 0 else i.key.ctx, cb,
        BitVec.ofNat 32 (i.site * 2 ^ 21 + (keyed s.faultCount i.site).getD 0 % 2 ^ 21)⟩ 0 4 0 home i.site f.lid
        (.words ((i.faultSpec f w x).record true false ((keyed s.genCount i.site).getD 0))))) with
      items := (s.releaseInst i).itemOfFault (i.faultSpec f w x) :: u.items } := by
  obtain ⟨u, hu, hraise⟩ := State.raiseFault_sent (s := s.releaseInst i) (f := i.faultSpec f w x) (cb := cb) (home := home) h
    (by rw [show (i.faultSpec f w x).fromHandler = f.handler.isSome from rfl, hn]; rfl)
    (State.handlerHome_congr (s.faulting_lookups i).symm hh)
  refine ⟨u, hu, ?_⟩
  rw [State.takeFault_raises w x hf hk, hraise, (s.releaseInst_counters i).1, (s.releaseInst_counters i).2.1]
  rfl

end

/-! ### What every fault leaves -/

theorem State.freed_endKilled (s : State) (i : Inst) : s.freed (s.endKilled i) i := by
  obtain ⟨fs, n, as, h⟩ := (s.releaseInst i).freeFrame_eq i.site i.key
  unfold State.endKilled
  dsimp only
  rw [h]
  split
  · exact s.freed_releaseInst i
  · exact State.freed_of_same (s.freed_releaseInst i) rfl fun k hk _ => hk

theorem State.freed_of_loads {s t u : State} {i : Inst} (h : s.freed t i) (hu : t.onlyLoads u) : s.freed u i :=
  State.freed_of_same h (State.onlyLoads_insts hu) fun k hk _ => by rwa [State.onlyLoads_tokens hu] at hk

theorem State.freed_haltAt {s t : State} {i : Inst} (h : s.freed t i) (it : Item) (ws : List W64) : s.freed (t.haltAt it ws) i := by
  obtain ⟨hs, ls, -, he⟩ := t.haltAt_eq it ws
  rw [he]
  exact State.freed_of_same h (State.raiseEvent_keeps _ _ _ _).1 (State.raiseEvent_uncommitted _ _ _ _)

/-- The runner of a faulting instance is free, and its uncommitted tokens are gone (R42). -/
theorem State.freed_takeFault {s : State} {i : Inst} {f : Frame} (w : At) (x : Trap) (hf : s.frameAt i.site i.key = some f) :
    s.freed (s.takeFault i w x) i := by
  have hfree : s.freed (s.faulting i) i := State.freed_of_same (s.freed_releaseInst i) rfl fun k hk _ => hk
  cases hk : s.underKill i with
  | true =>
    rw [State.takeFault_killed w x hk]
    exact s.freed_endKilled i
  | false =>
    by_cases hring : i.site = ringmaster
    · rw [State.takeFault_ring w x hf hk hring]
      by_cases ht : ∃ slot, (s.faulting i).eventTarget 5 = some ((i.faultSpec f w x).key.cb, slot)
      · rw [State.ringFault_halts ht]
        exact State.freed_of_same hfree rfl fun k hk _ => hk
      · rw [State.ringFault_signals fun slot hslot => ht ⟨slot, hslot⟩]
        exact State.freed_of_same hfree (State.raiseEvent_keeps _ _ _ _).1 (State.raiseEvent_uncommitted _ _ _ _)
    · by_cases hh : f.handler.isSome = true ∨ ¬∃ cb home, s.handlerHome i.site i.key.ctx f.lid x.cause.code cb home
      · obtain ⟨u, l, hu, hl, he⟩ := State.takeFault_double w x hf hk hring hh
        obtain ⟨fs, n, as, hsettle⟩ := u.settle_eq i.site i.key
        rw [he]
        refine State.freed_haltAt (State.freed_abandons ?_ hl) _ _
        rw [hsettle]
        exact State.freed_of_same (State.freed_of_loads hfree hu) rfl fun k hk _ => hk
      · rw [not_or, not_not, Bool.not_eq_true, Option.isSome_eq_false_iff, Option.isNone_iff_eq_none] at hh
        obtain ⟨hn, cb, home, hh⟩ := hh
        obtain ⟨u, hu, he⟩ := State.takeFault_sent w x hf hk hring hn hh
        rw [he]
        refine State.freed_of_same (State.freed_of_loads hfree hu) rfl fun k hk hc => ?_
        obtain hk | hk := List.mem_append.mp hk
        · exact hk
        · rw [List.mem_singleton.mp hk] at hc
          cases hc

end Sys2Proof.Machine
end

section
/-! The statement of synchronous faults (R42, R343, R364 to R368, R374), one lemma for each of its clauses. -/

namespace Sys2Proof.Machine

theorem State.frameAt_faulting {s : State} {i : Inst} {f : Frame} (hf : s.frameAt i.site i.key = some f) (hfresh : f.fresh = false) :
    (s.faulting i).frameAt i.site i.key = some f := State.frameAt_releaseInst hf hfresh i

/-- What the event of class 5 with a record is: a token to the codeblock of the class, or its bit of DROPS (R347). -/
theorem State.raiseEvent_event {s t : State} (h : t.eventTarget 5 = s.eventTarget 5) (tag : Nat) (ws : List W64) :
    match s.eventTarget 5 with
    | some (cb, slot) => ∃ k ∈ (t.raiseEvent 5 tag ws).tokens,
        k.key = ⟨0, cb, BitVec.ofNat 32 tag⟩ ∧ k.slot = slot ∧ k.dcell = ringmaster ∧ k.payload = .words ws
    | none => (t.raiseEvent 5 tag ws).sys.drops.getLsbD 5 = true := by
  cases he : s.eventTarget 5 with
  | none => exact State.raiseEvent_dropped (h.trans he) tag ws
  | some target => exact State.raiseEvent_sent (h.trans he) tag ws

/-- What the halting of a context on a cell leaves, beside the record that it signals (R339, R368). -/
theorem State.haltAt_steps (s : State) (it : Item) (ws : List W64) :
    (s.haltAt it ws).items = s.items ∧ (s.haltAt it ws).frames = s.frames ∧
    (∀ l ∈ (s.haltAt it ws).ctl.launches, l.ctx = it.ctx → l.ended = false → l.halted = true) ∧
    ∃ t : State, t.eventTarget 5 = s.eventTarget 5 ∧ s.haltAt it ws = t.raiseEvent 5 (256 * it.site + it.ctx) ws := by
  obtain ⟨hs, ls, hlaunches, hhalt⟩ := s.haltAt_eq it ws
  have htarget := s.eventTarget_halted hs ls 5
  obtain ⟨t, ht⟩ : ∃ t : State, t = { s with halted := hs, ctl := { s.ctl with launches := ls } } := ⟨_, rfl⟩
  obtain ⟨-, hframes, hitems, -, hctl, -⟩ := t.raiseEvent_keeps 5 (256 * it.site + it.ctx) ws
  rw [← ht] at hhalt htarget
  rw [hhalt, hitems, hframes, hctl]
  refine ⟨?_, ?_, ?_, t, htarget, rfl⟩
  · rw [ht]
  · rw [ht]
  · rw [ht]
    exact hlaunches

section
variable {s : State} {i : Inst} {f : Frame} (w : At) (x : Trap)

/-- Under a kill mark nothing of the instance is left, and its frame goes unless another runner holds it (R374). -/
theorem takeFault_killed_steps (hk : s.underKill i = true) :
    (s.takeFault i w x).items = s.items ∧ (∀ k ∈ (s.takeFault i w x).tokens, k ∈ s.tokens) ∧
      (s.takeFault i w x).halted = s.halted ∧
      (s.running i.site i.key (some i.runner) = false → (s.takeFault i w x).frameAt i.site i.key = none) := by
  have htokens : ∀ k ∈ (s.releaseInst i).tokens, k ∈ s.tokens := by
    rw [State.releaseInst_tokens]
    exact fun k hk => (List.mem_filter.mp hk).1
  have hreleased := s.releaseInst_onlyThreads i
  rw [State.takeFault_killed w x hk]
  unfold State.endKilled
  dsimp only
  rw [s.running_releaseInst i]
  split
  · rename_i hrun
    exact ⟨State.onlyThreads_items hreleased, htokens, State.onlyThreads_halted hreleased,
      fun h => absurd (h.symm.trans hrun) (by decide)⟩
  · have hfreed := State.onlyThreads_trans hreleased ((s.releaseInst i).freeFrame_onlyThreads i.site i.key)
    refine ⟨State.onlyThreads_items hfreed, ?_, State.onlyThreads_halted hfreed, fun _ => State.frameAt_freeFrame ..⟩
    obtain ⟨fs, n, as, h⟩ := (s.releaseInst i).freeFrame_eq i.site i.key
    rw [h]
    exact htokens

variable (hf : s.frameAt i.site i.key = some f) (hfresh : f.fresh = false) (hk : s.underKill i = false)
include hf hfresh hk

theorem takeFault_live (hl : f.life = .live) :
    ∃ g, (s.takeFault i w x).frameAt i.site i.key = some g ∧ { g with life := .live, desc := f.desc } = f := by
  have hat := State.frameAt_faulting hf hfresh
  by_cases hring : i.site = ringmaster
  · refine ⟨f, ?_, by rw [← hl]⟩
    rw [State.takeFault_ring w x hf hk hring]
    by_cases ht : ∃ slot, (s.faulting i).eventTarget 5 = some ((i.faultSpec f w x).key.cb, slot)
    · rw [State.ringFault_halts ht]
      exact hat
    · rw [State.ringFault_signals fun slot hslot => ht ⟨slot, hslot⟩]
      exact (State.frameAt_congr (State.raiseEvent_keeps _ _ _ _).2.1 ..).trans hat
  · by_cases hh : f.handler.isSome = true ∨ ¬∃ cb home, s.handlerHome i.site i.key.ctx f.lid x.cause.code cb home
    · obtain ⟨u, l, hu, hsites, he⟩ := State.takeFault_double w x hf hk hring hh
      obtain ⟨d, hd⟩ := State.frameAt_of_loads hu hat
      obtain ⟨a, ha⟩ := State.frameAt_abandons l u hd hfresh
      refine ⟨{ f with desc := d, life := a }, ?_, by rw [← hl]⟩
      rw [he, State.settle_of_live hd hl]
      exact (State.frameAt_congr (State.haltAt_steps _ _ _).2.1 ..).trans ha
    · rw [not_or, not_not, Bool.not_eq_true, Option.isSome_eq_false_iff, Option.isNone_iff_eq_none] at hh
      obtain ⟨hn, cb, home, hh⟩ := hh
      obtain ⟨u, hu, he⟩ := State.takeFault_sent w x hf hk hring hn hh
      obtain ⟨d, hd⟩ := State.frameAt_of_loads hu hat
      refine ⟨{ f with desc := d }, ?_, by rw [← hl]⟩
      rw [he]
      exact hd

/-- A double fault leaves no item, halts the context on the cell, and signals its record (R368). -/
theorem takeFault_double_steps (hsite : i.site ≠ ringmaster)
    (hh : f.handler.isSome = true ∨ ¬∃ cb home, s.handlerHome i.site i.key.ctx f.lid x.cause.code cb home) :
    (s.takeFault i w x).items = s.items ∧ (s.takeFault i w x).haltedAt i.site i.key.ctx = true ∧
    (∀ l ∈ (s.takeFault i w x).ctl.launches, l.ctx = i.key.ctx → l.ended = false → l.halted = true) ∧
    (∃ t : State, t.eventTarget 5 = s.eventTarget 5 ∧ s.takeFault i w x = t.raiseEvent 5 (256 * i.site + i.key.ctx)
      ((i.faultSpec f w x).record false true ((keyed s.genCount i.site).getD 0))) ∧
    (f.life = .dying → s.running i.site i.key (some i.runner) = false → s.queued i.site i.key = false →
      (s.takeFault i w x).frameAt i.site i.key = none) := by
  obtain ⟨u, l, hu, hsites, he⟩ := State.takeFault_double w x hf hk hsite hh
  have hthreads : s.onlyThreads ((u.settle i.site i.key).abandons l) :=
    State.onlyThreads_trans (s.faulting_onlyThreads i) (State.onlyThreads_trans (State.onlyThreads_of_loads hu)
      (State.onlyThreads_trans (u.settle_onlyThreads i.site i.key) (State.abandons_onlyThreads l _)))
  obtain ⟨hitems, hframes, hlaunches, hsignal⟩ := ((u.settle i.site i.key).abandons l).haltAt_steps
    ((s.releaseInst i).itemOfFault (i.faultSpec f w x)) ((i.faultSpec f w x).record false true ((keyed s.genCount i.site).getD 0))
  rw [he]
  refine ⟨hitems.trans (State.onlyThreads_items hthreads), State.haltAt_haltedAt .., hlaunches, ?_, fun hl hrun hq => ?_⟩
  · obtain ⟨t, ht, hevent⟩ := hsignal
    exact ⟨t, ht.trans (State.onlyThreads_eventTarget hthreads 5), hevent⟩
  · obtain ⟨d, hd⟩ := State.frameAt_of_loads hu (State.frameAt_faulting hf hfresh)
    have hfree := State.settle_of_dying hd hl
      ((State.running_congr (State.onlyLoads_insts hu) ..).trans ((s.running_releaseInst i i.key).trans hrun))
      ((State.queued_congr ((State.onlyLoads_ready hu).trans (s.releaseInst_counters i).2.2)
        ((State.onlyLoads_items hu).trans (State.onlyThreads_items (s.faulting_onlyThreads i))) ..).trans hq)
    refine (State.frameAt_congr hframes ..).trans (State.frameAt_abandons_none l _ ?_)
    rw [hfree]
    exact State.frameAt_freeFrame ..

/-- What a fault whose handler has a home leaves: its item, and its token under way there (R366, R367). -/
theorem takeFault_sent_steps {cb home : Nat} (hsite : i.site ≠ ringmaster) (hn : f.handler = none)
    (hh : s.handlerHome i.site i.key.ctx f.lid x.cause.code cb home) :
    (s.takeFault i w x).halted = s.halted ∧ (∃ d, (s.takeFault i w x).frameAt i.site i.key = some { f with desc := d }) ∧
    keyed (s.takeFault i w x).faultCount i.site = some ((keyed s.faultCount i.site).getD 0 + 1) ∧
    (s.takeFault i w x).items = (s.releaseInst i).itemOfFault (i.faultSpec f w x) :: s.items ∧
    ∃ k ∈ (s.takeFault i w x).tokens, k.source = .fault (s.releaseInst i).nextId none ∧ k.kind = 4 ∧ k.slot = 0 ∧ k.dcell = home ∧
      k.lid = f.lid ∧ k.epoch = false ∧ k.key = ⟨if 0x20 ≤ x.cause.code then 0 else i.key.ctx, cb,
        BitVec.ofNat 32 (i.site * 2 ^ 21 + (keyed s.faultCount i.site).getD 0 % 2 ^ 21)⟩ ∧
      k.payload = .words ((i.faultSpec f w x).record true false ((keyed s.genCount i.site).getD 0)) := by
  obtain ⟨u, hu, he⟩ := State.takeFault_sent w x hf hk hsite hn hh
  obtain ⟨d, hd⟩ := State.frameAt_of_loads hu (State.frameAt_faulting hf hfresh)
  have hthreads := State.onlyThreads_trans (s.faulting_onlyThreads i) (State.onlyThreads_of_loads hu)
  have hhalted := State.onlyThreads_halted hthreads
  rw [he]
  refine ⟨hhalted, ⟨d, hd⟩, keyed_putKeyed_self .., ?_, _,
    List.mem_append_right _ (List.mem_singleton.mpr rfl), rfl, rfl, rfl, rfl, rfl, rfl, rfl, rfl⟩
  exact congrArg (List.cons _) (State.onlyThreads_items hthreads)

omit hfresh in
/-- A fault of the Ringmaster leaves its item, and halts it or signals its record (R343). -/
theorem takeFault_ring_steps (hring : i.site = ringmaster) :
    (s.takeFault i w x).items = (s.releaseInst i).itemOfFault (i.faultSpec f w x) :: s.items ∧ (s.takeFault i w x).halted = s.halted ∧
    ((∃ slot, s.eventTarget 5 = some (i.key.cb, slot)) →
      (s.takeFault i w x).hw.rmHalted = true ∧ (s.takeFault i w x).hw.health = .fatal) ∧
    ((∀ slot, s.eventTarget 5 ≠ some (i.key.cb, slot)) → (s.takeFault i w x).hw = s.hw ∧
      ∃ t : State, t.eventTarget 5 = s.eventTarget 5 ∧ s.takeFault i w x = t.raiseEvent 5 0x7FF00
        ((i.faultSpec f w x).record true false ((keyed s.genCount i.site).getD 0))) := by
  have hthreads := s.faulting_onlyThreads i
  have htarget := State.onlyThreads_eventTarget hthreads 5
  have hitems : (s.releaseInst i).itemOfFault (i.faultSpec f w x) :: (s.faulting i).items
      = (s.releaseInst i).itemOfFault (i.faultSpec f w x) :: s.items :=
    congrArg (List.cons _) (State.onlyThreads_items hthreads)
  have hhalted := State.onlyThreads_halted hthreads
  have hhw := State.onlyThreads_hw hthreads
  have htake := State.takeFault_ring w x hf hk hring
  by_cases ht : ∃ slot, s.eventTarget 5 = some (i.key.cb, slot)
  · rw [State.ringFault_halts (f := i.faultSpec f w x) (by rw [htarget]; exact ht)] at htake
    rw [htake]
    exact ⟨hitems, hhalted, fun _ => ⟨rfl, rfl⟩, fun hno => absurd ht fun ⟨slot, hs⟩ => hno slot hs⟩
  · rw [State.ringFault_signals (f := i.faultSpec f w x) fun slot hs => ht ⟨slot, htarget.symm.trans hs⟩] at htake
    obtain ⟨-, -, hi, hw, -, hh⟩ := State.raiseEvent_keeps
      ({ s.faulting i with items := (s.releaseInst i).itemOfFault (i.faultSpec f w x) :: (s.faulting i).items } : State)
      5 0x7FF00 ((i.faultSpec f w x).record true false ((keyed s.genCount i.site).getD 0))
    refine ⟨?_, ?_, fun hsome => absurd hsome ht, fun _ => ⟨?_, _, ?_, htake⟩⟩
    · rw [htake]
      exact hi.trans hitems
    · rw [htake]
      exact hh.trans hhalted
    · rw [htake]
      exact hw.trans hhw
    · exact (State.eventTarget_items _ _ 5).trans htarget

end

/-- A halted Ringmaster chooses, issues and commits nothing (R343). -/
theorem ringmaster_halted (s : State) (runner : Nat) (h : s.hw.rmHalted = true) :
    s.issue ringmaster runner = .next s ∧ exec (.commit ringmaster runner) s = .next s ∧
      exec (.readyChoose ringmaster runner) s = .next s := by
  have hcommit : execCommit ringmaster runner s = .next s := by
    unfold execCommit
    cases s.instAt ringmaster runner with
    | none => rfl
    | some i => exact if_pos ⟨rfl, h⟩
  have hissue : s.issue ringmaster runner = .next s := by
    unfold State.issue
    cases s.instAt ringmaster runner with
    | none => rfl
    | some i => exact if_pos ⟨rfl, h⟩
  exact ⟨hissue, hcommit, execReadyChoose_halted runner (.inl h)⟩

/-- The suspended entry that a synchronous fault leaves (R367). -/
theorem itemOfFault_entry (s : State) (i : Inst) (f : Frame) (w : At) (x : Trap) :
    let it := (s.releaseInst i).itemOfFault (i.faultSpec f w x)
    it.site = i.site ∧ it.key = i.key ∧ it.kind = 0 ∧ it.ctx = i.key.ctx ∧ it.lid = f.lid ∧ it.thr = i.thr ∧
      it.gen = (keyed s.genCount i.site).getD 0 % 256 ∧ it.body = .suspended i.thr i.cls := by
  refine ⟨rfl, rfl, rfl, rfl, rfl, rfl, ?_, rfl⟩
  show (keyed (s.releaseInst i).genCount i.site).getD 0 % 256 = _
  rw [(s.releaseInst_counters i).1]

/-- Settles O6: the cases of a fault, each by its own lemma. -/
theorem synchronousFault : Obligations.SynchronousFault := by
  unfold Obligations.SynchronousFault
  refine ⟨fun s i w x f _ hf hfresh => ?_, ringmaster_halted⟩
  obtain ⟨hrunner, htokens, hothers⟩ := State.freed_takeFault w x hf
  obtain ⟨hmem, hhost, hscratch, hflash, -⟩ := State.kept_eq_iff.mp (s.takeFault_kept i w x)
  refine ⟨hrunner, htokens, hmem, hhost, hscratch, hflash, hothers, takeFault_killed_steps w x,
    fun hk hl => takeFault_live w x hf hfresh hk hl, fun hk hsite hh => ?_, fun cb home hk hsite hn hh => ?_, fun hring hk => ?_⟩
  · obtain ⟨hitems, hhalted, hlaunches, ⟨t, ht, he⟩, hdying⟩ := takeFault_double_steps w x hf hfresh hk hsite hh
    refine ⟨hitems, hhalted, hlaunches, ?_, hdying⟩
    have hevent := State.raiseEvent_event ht (256 * i.site + i.key.ctx)
      ((i.faultSpec f w x).record false true ((keyed s.genCount i.site).getD 0))
    rw [← he, Inst.faultSpec_record] at hevent
    exact hevent
  · obtain ⟨hhalted, hframe, hcount, hitems, k, hmem, hsource, hkind, hslot, hcell, hlid, hepoch, hkey, hpayload⟩ :=
      takeFault_sent_steps w x hf hfresh hk hsite hn hh
    rw [Inst.faultSpec_record] at hpayload
    exact ⟨hhalted, hframe, hcount, _, hitems, itemOfFault_entry s i f w x, k, hmem, hsource, hkind, hslot, hcell, hlid, hepoch, hkey,
      hpayload⟩
  · obtain ⟨hitems, hhalted, hfatal, hsignals⟩ := takeFault_ring_steps w x hf hk hring
    refine ⟨⟨_, hitems, itemOfFault_entry s i f w x⟩, hhalted, hfatal, fun hno => ?_⟩
    obtain ⟨hhw, t, ht, he⟩ := hsignals hno
    refine ⟨hhw, ?_⟩
    have hevent := State.raiseEvent_event ht 0x7FF00 ((i.faultSpec f w x).record true false ((keyed s.genCount i.site).getD 0))
    rw [← he, Inst.faultSpec_record] at hevent
    exact hevent

end Sys2Proof.Machine
end

section
/-! Exact numbers as rationals, and the rounding of an exact magnitude to an integer (R62, R63). -/

namespace Sys2Proof.Machine

/-! ### The five directions -/

theorem roundQuotient_of_dvd {n d : Nat} (h : d ∣ n) (r : Round) (negative : Bool) : roundQuotient r negative n d = (n / d, true) :=
  if_pos (Nat.dvd_iff_mod_eq_zero.mp h)

theorem roundQuotient_of_not_dvd {n d : Nat} (h : ¬d ∣ n) (r : Round) (negative : Bool) :
    roundQuotient r negative n d = (match r with
      | .rne => if 2 * (n % d) < d then n / d else if d < 2 * (n % d) then n / d + 1 else n / d + n / d % 2
      | .rtz => n / d
      | .rdn => if negative then n / d + 1 else n / d
      | .rup => if negative then n / d else n / d + 1
      | .rod => n / d ||| 1, false) := by
  have hrem : n % d ≠ 0 := fun h0 => h (Nat.dvd_of_mod_eq_zero h0)
  unfold roundQuotient
  cases r <;> exact if_neg hrem

theorem roundQuotient_exact_iff (r : Round) (negative : Bool) (n d : Nat) : (roundQuotient r negative n d).2 = true ↔ d ∣ n := by
  by_cases h : d ∣ n
  · simp [roundQuotient_of_dvd h, h]
  · simp [roundQuotient_of_not_dvd h, h]

/-- The odd one of a number and its successor. -/
theorem or_one_eq (q : Nat) : q ||| 1 = q + (1 - q % 2) := by
  have hhalf : (q ||| 1) / 2 = q / 2 := by rw [Nat.or_div_two]; simp
  have hodd : (q ||| 1) % 2 = 1 := Nat.or_mod_two_eq_one.mpr (.inr rfl)
  omega

theorem roundQuotient_neighbour {n d : Nat} (h : ¬d ∣ n) (r : Round) (negative : Bool) :
    (roundQuotient r negative n d).1 = n / d ∨ (roundQuotient r negative n d).1 = n / d + 1 := by
  rw [roundQuotient_of_not_dvd h]
  have hodd := or_one_eq (n / d)
  cases r with
  | rtz => exact .inl rfl
  | rdn | rup | rne =>
    dsimp only
    split_ifs <;> omega
  | rod =>
    dsimp only
    omega

/-- The integer nearest to a quotient is one of its two neighbours, the lower where the remainder is the smaller half. -/
theorem abs_sub_mul_le_of_nearer {n d c : Nat} (hc : (c = n / d ∧ 2 * (n % d) ≤ d) ∨ (c = n / d + 1 ∧ d ≤ 2 * (n % d) ∧ n % d ≤ d))
    (q : Int) : |(n : Int) - c * d| ≤ |(n : Int) - q * d| := by
  have hn : (n : Int) = d * (n / d : Nat) + (n % d : Nat) := by exact_mod_cast (Nat.div_add_mod n d).symm
  generalize n / d = k at hn hc
  generalize n % d = m at hn hc
  have hnear : |(n : Int) - c * d| ≤ m ∧ |(n : Int) - c * d| ≤ d - m := by
    rw [abs_le, abs_le, hn]
    rcases hc with ⟨rfl, _⟩ | ⟨rfl, _, _⟩ <;> push_cast <;> ring_nf <;> omega
  rcases le_or_gt q k with hq | hq
  · have hqd : q * d ≤ k * d := by gcongr
    exact hnear.1.trans ((by linarith : (m : Int) ≤ n - q * d).trans (le_abs_self _))
  · have hqd : (k + 1 : Int) * d ≤ q * d := mul_le_mul_of_nonneg_right hq d.cast_nonneg
    exact hnear.2.trans ((by linarith : (d - m : Int) ≤ -(n - q * d)).trans (neg_le_abs _))

/-- Settles O23: each direction by its branch of `roundQuotient`. -/
theorem roundingDirections : Obligations.RoundingDirections := by
  intro negative n d hd
  refine ⟨fun r => ⟨fun h => roundQuotient_of_dvd h r negative, fun h => ⟨?_, roundQuotient_neighbour h r negative⟩⟩, fun h => ?_⟩
  · rw [roundQuotient_of_not_dvd h]
  · have hrem : n % d < d := Nat.mod_lt n hd
    simp only [roundQuotient_of_not_dvd h]
    refine ⟨trivial, trivial, trivial, Nat.or_mod_two_eq_one.mpr (.inr rfl), abs_sub_mul_le_of_nearer ?_, fun htie => ?_⟩
    · split_ifs <;> omega
    · rw [if_neg (by omega), if_neg (by omega)]
      omega

end Sys2Proof.Machine
end

section
/-! Exact numbers as rationals: each operation on `Exact` is the one on its value (R51, R62, R72, R73). -/

namespace Sys2Proof.Machine

/-! ### The value of an exact number -/

theorem pow2_eq {k : Int} (h : 0 ≤ k) : (pow2 k : ℚ) = (2 : ℚ) ^ k := by
  lift k to ℕ using h
  simp [pow2]

/-- The two powers by which a number is brought to a unit stand in the ratio of its exponent to the unit. -/
theorem pow2_sub_ratio (a b : Int) : (pow2 (a - b) : ℚ) * 2 ^ b = pow2 (b - a) * 2 ^ a := by
  rcases le_total b a with h | h
  · rw [pow2_eq (by omega), pow2, Int.toNat_of_nonpos (by omega), ← zpow_add₀ two_ne_zero]
    simp
  · rw [pow2_eq (k := b - a) (by omega), pow2, Int.toNat_of_nonpos (by omega), ← zpow_add₀ two_ne_zero]
    simp

theorem Exact.rat_ofInt (n : Int) : (Exact.ofInt n).rat = n := by simp [Exact.rat, Exact.ofInt]

theorem Exact.rat_den_one (n k : Int) : (Exact.rat ⟨n, k, 1⟩) = n * (2 : ℚ) ^ k := by simp [Exact.rat]

theorem Exact.isZero_iff {x : Exact} (hx : 0 < x.den) : x.isZero = true ↔ x.rat = 0 := by
  have hd : (x.den : ℚ) ≠ 0 := by positivity
  have hp : (2 : ℚ) ^ x.exp ≠ 0 := by positivity
  simp [Exact.isZero, Exact.rat, hd, hp]

theorem Exact.rat_neg (x : Exact) : x.neg.rat = -x.rat := by
  simp only [Exact.rat, Exact.neg, Int.cast_neg]
  ring

theorem Exact.rat_mul (x y : Exact) : (x.mul y).rat = x.rat * y.rat := by
  simp only [Exact.rat, Exact.mul, Int.cast_mul, Nat.cast_mul, zpow_add₀ (two_ne_zero' ℚ)]
  ring

theorem Exact.rat_add {x y : Exact} (hx : 0 < x.den) (hy : 0 < y.den) : (x.add y).rat = x.rat + y.rat := by
  have hdx : (x.den : ℚ) ≠ 0 := by positivity
  have hdy : (y.den : ℚ) ≠ 0 := by positivity
  have hshift (z : Exact) (e : Int) (he : e ≤ z.exp) : (z.num : ℚ) * pow2 (z.exp - e) * 2 ^ e = z.num * 2 ^ z.exp := by
    rw [pow2_eq (by omega), mul_assoc, ← zpow_add₀ two_ne_zero, sub_add_cancel]
  have hax := hshift x (min x.exp y.exp) (min_le_left _ _)
  have hay := hshift y (min x.exp y.exp) (min_le_right _ _)
  unfold Exact.add
  dsimp only
  split
  case isTrue h =>
    simp only [Exact.rat, ← h]
    push_cast
    rw [← add_div, ← hax, ← hay]
    ring
  case isFalse =>
    simp only [Exact.rat]
    push_cast
    rw [← hax, ← hay]
    field_simp

theorem Exact.den_add_pos {x y : Exact} (hx : 0 < x.den) (hy : 0 < y.den) : 0 < (x.add y).den := by
  unfold Exact.add
  dsimp only
  split
  · exact hx
  · exact Nat.mul_pos hx hy

theorem Exact.rat_sub {x y : Exact} (hx : 0 < x.den) (hy : 0 < y.den) : (x.sub y).rat = x.rat - y.rat := by
  rw [Exact.sub, Exact.rat_add (y := y.neg) hx hy, Exact.rat_neg, sub_eq_add_neg]

theorem Exact.rat_neg_iff {x : Exact} (hx : 0 < x.den) : x.num < 0 ↔ x.rat < 0 := by
  have hp : (0 : ℚ) < 2 ^ x.exp / x.den := by positivity
  rw [Exact.rat, mul_div_assoc, mul_neg_iff]
  simp [hp, hp.not_gt]

theorem Exact.lt_iff {x y : Exact} (hx : 0 < x.den) (hy : 0 < y.den) : x.lt y = true ↔ x.rat < y.rat := by
  rw [Exact.lt, decide_eq_true_iff, Exact.rat_neg_iff (x := x.sub y) (Exact.den_add_pos hx hy), Exact.rat_sub hx hy, sub_neg]

theorem Exact.abs_rat (x : Exact) : |x.rat| = x.num.natAbs * (2 : ℚ) ^ x.exp / x.den := by
  rw [Exact.rat, abs_div, abs_mul, abs_of_pos (by positivity : (0 : ℚ) < 2 ^ x.exp), Nat.abs_cast, Nat.cast_natAbs, Int.cast_abs]

theorem Exact.units_snd_pos {x : Exact} (hx : 0 < x.den) (u : Int) : 0 < (x.units u).2 :=
  Nat.mul_pos hx (Nat.pow_pos two_pos)

/-- The units of a number: its magnitude over 2^u. -/
theorem Exact.units_ratio {x : Exact} (hx : 0 < x.den) (u : Int) : ((x.units u).1 : ℚ) / (x.units u).2 = |x.rat| / 2 ^ u := by
  have hd : (x.den : ℚ) ≠ 0 := by positivity
  have hp : (pow2 (u - x.exp) : ℚ) ≠ 0 := by simp [pow2]
  rw [Exact.abs_rat, Exact.units]
  push_cast
  rw [div_eq_div_iff (by positivity) (by positivity), div_mul_eq_mul_div, eq_div_iff hd]
  linear_combination (x.num.natAbs * x.den : ℚ) * pow2_sub_ratio x.exp u

/-! ### The exponent of the leading bit -/

theorem log2_bounds {n : Nat} (h : n ≠ 0) : (2 : ℚ) ^ (n.log2 : Int) ≤ n ∧ (n : ℚ) < 2 ^ ((n.log2 : Int) + 1) := by
  refine ⟨?_, ?_⟩
  · exact_mod_cast Nat.log2_self_le h
  · exact_mod_cast Nat.lt_log2_self

theorem Exact.units_lt_iff {x : Exact} (hx : 0 < x.den) (u : Int) : (x.units u).1 < (x.units u).2 ↔ |x.rat| < 2 ^ u := by
  have hd : (0 : ℚ) < (x.units u).2 := by exact_mod_cast Exact.units_snd_pos hx u
  have hp : (0 : ℚ) < 2 ^ u := by positivity
  rw [← div_lt_one hp, ← Exact.units_ratio hx, div_lt_one hd, Nat.cast_lt]

/-- The leading bit of a number (R182: Floor(Log2(m))). -/
theorem Exact.log2_spec {x : Exact} (hx : 0 < x.den) (h0 : x.rat ≠ 0) :
    (2 : ℚ) ^ x.log2 ≤ |x.rat| ∧ |x.rat| < 2 ^ (x.log2 + 1) := by
  have hn : x.num.natAbs ≠ 0 := by
    rintro h
    exact h0 (by simp [Exact.rat, Int.natAbs_eq_zero.mp h])
  obtain ⟨hnl, hnu⟩ := log2_bounds hn
  obtain ⟨hdl, hdu⟩ := log2_bounds hx.ne'
  have hd : (0 : ℚ) < x.den := by exact_mod_cast hx
  have hp : (0 : ℚ) < 2 ^ x.exp := by positivity
  set e : Int := (x.num.natAbs.log2 : Int) - (x.den.log2 : Int) + x.exp with he
  have hlow : (2 : ℚ) ^ (e - 1) ≤ |x.rat| := by
    rw [Exact.abs_rat, le_div_iff₀ hd]
    calc (2 : ℚ) ^ (e - 1) * x.den ≤ 2 ^ (e - 1) * 2 ^ ((x.den.log2 : Int) + 1) := by gcongr
      _ = 2 ^ (x.num.natAbs.log2 : Int) * 2 ^ x.exp := by
        rw [← zpow_add₀ two_ne_zero, ← zpow_add₀ two_ne_zero]
        congr 1
        omega
      _ ≤ x.num.natAbs * 2 ^ x.exp := by gcongr
  have hup : |x.rat| < 2 ^ (e + 1) := by
    rw [Exact.abs_rat, div_lt_iff₀ hd]
    calc (x.num.natAbs : ℚ) * 2 ^ x.exp < 2 ^ ((x.num.natAbs.log2 : Int) + 1) * 2 ^ x.exp := by gcongr
      _ = 2 ^ (e + 1) * 2 ^ (x.den.log2 : Int) := by
        rw [← zpow_add₀ two_ne_zero, ← zpow_add₀ two_ne_zero]
        congr 1
        omega
      _ ≤ 2 ^ (e + 1) * x.den := by gcongr
  have hlog : x.log2 = if (x.units e).1 < (x.units e).2 then e - 1 else e := rfl
  rw [hlog]
  split
  case isTrue h =>
    rw [sub_add_cancel]
    exact ⟨hlow, (Exact.units_lt_iff hx e).mp h⟩
  case isFalse h => exact ⟨le_of_not_gt (fun hlt => h ((Exact.units_lt_iff hx e).mpr hlt)), hup⟩

/-- The exponent of a leading bit is the only one whose power and its double hold the number between them. -/
theorem exponent_unique {v : ℚ} {a b : Int} (ha : (2 : ℚ) ^ a ≤ v ∧ v < 2 ^ (a + 1)) (hb : (2 : ℚ) ^ b ≤ v ∧ v < 2 ^ (b + 1)) :
    a = b := by
  have h1 := (zpow_lt_zpow_iff_right₀ (one_lt_two (α := ℚ))).mp (ha.1.trans_lt hb.2)
  have h2 := (zpow_lt_zpow_iff_right₀ (one_lt_two (α := ℚ))).mp (hb.1.trans_lt ha.2)
  omega

/-! ### Rounding as `roundsTo` has it -/

theorem roundsTo_self (r : Round) (k : Int) : roundsTo r k k := by
  cases r <;> simp [roundsTo]

/-- A quotient that is no integer lies strictly between its two neighbours, at the distance of its remainder. -/
theorem quotient_between {n d : Nat} (hd : 0 < d) (h : ¬d ∣ n) :
    ((n / d : Nat) : ℚ) < n / d ∧ (n : ℚ) / d < (n / d : Nat) + 1 ∧ (n : ℚ) / d = (n / d : Nat) + (n % d : Nat) / d := by
  have hdq : (0 : ℚ) < d := by exact_mod_cast hd
  have hsum : (n : ℚ) / d = (n / d : Nat) + (n % d : Nat) / d := by
    have hn : (n : ℚ) = d * (n / d : Nat) + (n % d : Nat) := by exact_mod_cast (Nat.div_add_mod n d).symm
    rw [div_eq_iff hdq.ne', add_mul, div_mul_cancel₀ _ hdq.ne']
    linarith
  have hpos : (0 : ℚ) < (n % d : Nat) / d :=
    div_pos (by exact_mod_cast Nat.pos_of_ne_zero (fun h0 => h (Nat.dvd_of_mod_eq_zero h0))) hdq
  have hlt : ((n % d : Nat) : ℚ) / d < 1 := (div_lt_one hdq).mpr (by exact_mod_cast Nat.mod_lt n hd)
  exact ⟨by linarith, by linarith, hsum⟩

theorem abs_signed_sub (negative : Bool) (v : ℚ) (q : Nat) :
    |(if negative then -v else v) - ((if negative then -(q : Int) else q : Int) : ℚ)| = |v - q| := by
  cases negative
  · simp
  · rw [← abs_neg]
    congr 1
    simp
    ring

theorem signed_mod_two (negative : Bool) (q : Nat) : (if negative then -(q : Int) else q) % 2 = (q % 2 : Nat) := by
  cases negative <;> simp

/-- The model's rounding of a magnitude is that of R62 and R63 of the signed value. -/
theorem roundQuotient_roundsTo (r : Round) (negative : Bool) {n d : Nat} (hd : 0 < d) :
    roundsTo r (if negative then -((n : ℚ) / d) else n / d)
      (if negative then -((roundQuotient r negative n d).1 : Int) else (roundQuotient r negative n d).1) := by
  by_cases h : d ∣ n
  case pos =>
    have hq : (n : ℚ) / d = ((n / d : Nat) : Int) := by
      rw [Nat.cast_div_charZero h |>.symm]
      rfl
    rw [roundQuotient_of_dvd h, hq]
    cases negative
    · exact roundsTo_self r _
    · exact_mod_cast roundsTo_self r (-((n / d : Nat) : Int))
  case neg =>
    obtain ⟨hlow, hup, hsum⟩ := quotient_between hd h
    have hnon : (0 : ℚ) ≤ (n / d : Nat) := Nat.cast_nonneg _
    have hfloor : ⌊(n : ℚ) / d⌋ = (n / d : Nat) := Int.floor_eq_iff.mpr ⟨by exact_mod_cast hlow.le, by exact_mod_cast hup⟩
    have hceil : ⌈(n : ℚ) / d⌉ = (n / d : Nat) + 1 := by
      rw [Int.ceil_eq_iff, Int.cast_add, Int.cast_natCast, Int.cast_one]
      exact ⟨by linarith, hup.le⟩
    have hdq : (0 : ℚ) < d := by exact_mod_cast hd
    have hnear : (2 * (n % d) ≤ d ↔ (n : ℚ) / d - (n / d : Nat) ≤ 1 / 2) ∧ (d ≤ 2 * (n % d) ↔ 1 / 2 ≤ (n : ℚ) / d - (n / d : Nat)) := by
      rw [hsum, add_sub_cancel_left, div_le_div_iff₀ hdq two_pos, div_le_div_iff₀ two_pos hdq, one_mul, mul_comm _ (2 : ℚ)]
      exact ⟨by exact_mod_cast Iff.rfl, by exact_mod_cast Iff.rfl⟩
    rw [roundQuotient_of_not_dvd h]
    generalize (n : ℚ) / d = v at *
    generalize n / d = q at *
    cases r with
    | rtz =>
      cases negative with
      | false => simp [roundsTo, hfloor, (hnon.trans hlow.le).not_gt]
      | true => simp [roundsTo, hfloor, Int.ceil_neg, hnon.trans_lt hlow]
    | rdn => cases negative <;> simp [roundsTo, hfloor, hceil, Int.floor_neg]
    | rup => cases negative <;> simp [roundsTo, hfloor, hceil, Int.ceil_neg]
    | rod =>
      have hodd : q ||| 1 = q ∧ q % 2 = 1 ∨ q ||| 1 = q + 1 ∧ q % 2 = 0 := by
        have := or_one_eq q
        omega
      have hfrac : ((⌊if negative then -v else v⌋ : Int) : ℚ) ≠ if negative then -v else v := by
        cases negative
        · simpa [hfloor] using hlow.ne
        · simp only [if_true, Int.floor_neg, hceil]
          push_cast
          linarith
      rw [roundsTo, if_neg hfrac, abs_signed_sub, signed_mod_two, abs_lt]
      rcases hodd with ⟨h1, h2⟩ | ⟨h1, h2⟩ <;> rw [h1] <;> push_cast <;> refine ⟨⟨?_, ?_⟩, by omega⟩ <;> linarith
    | rne =>
      rw [roundsTo, abs_signed_sub, signed_mod_two]
      dsimp only
      split_ifs with hless hmore
      · have hlt : v - q < 1 / 2 := lt_of_not_ge (fun hge => absurd (hnear.2.mpr hge) (by omega))
        rw [abs_of_nonneg (by linarith)]
        exact ⟨hlt.le, fun heq => absurd heq hlt.ne⟩
      · have hgt : 1 / 2 < v - q := lt_of_not_ge (fun hge => absurd (hnear.1.mpr hge) (by omega))
        push_cast
        rw [abs_of_nonpos (by linarith)]
        exact ⟨by linarith, fun heq => by linarith⟩
      · have htie : v - q = 1 / 2 := le_antisymm (hnear.1.mp (by omega)) (hnear.2.mp (by omega))
        refine ⟨?_, fun _ => by omega⟩
        rcases Nat.mod_two_eq_zero_or_one q with hq | hq <;> rw [hq] <;> push_cast <;> rw [abs_le] <;> constructor <;> linarith

/-- A rounding reported exact is the quotient itself. -/
theorem roundQuotient_exact {r : Round} {negative : Bool} {n d : Nat} (h : (roundQuotient r negative n d).2 = true) :
    ((roundQuotient r negative n d).1 : ℚ) = n / d := by
  have hdvd := (roundQuotient_exact_iff r negative n d).mp h
  rw [roundQuotient_of_dvd hdvd, Nat.cast_div_charZero hdvd]

end Sys2Proof.Machine
end

section
/-! The fields of floating encodings: which are finite, what they stand for, and the one rounding to a format (R51, R52, R62 to
R64, R66). -/

namespace Sys2Proof.Machine

/-! ### Fields -/

/-- The significand of an exponent field and a mantissa field (R51). -/
def FFmt.significand (f : FFmt) (e m : Nat) : Nat := if e = 0 then m else 2 ^ f.mbits + m

/-- The exponent of the last bit of an encoding with an exponent field (R51). -/
def FFmt.lastBit (f : FFmt) (e : Nat) : Int := max (e : Int) 1 - f.bias - f.mbits

/-- The exact number of a sign, an exponent field and a mantissa field. -/
def FFmt.number (f : FFmt) (s : Bool) (e m : Nat) : Exact :=
  ⟨if s then -(f.significand e m : Int) else f.significand e m, f.lastBit e, 1⟩

/-- The fields that are those of a finite number (R52). -/
def FFmt.finiteFields (f : FFmt) (e m : Nat) : Prop := m < 2 ^ f.mbits ∧ (e < f.maxExp ∨ e = f.maxExp ∧ m ≤ f.maxMan)

/-- The widths that every format of R51 keeps to. -/
abbrev FFmt.regular (f : FFmt) : Prop := 2 ≤ f.ebits ∧ 1 ≤ f.mbits

/-- The largest finite magnitude of a format. -/
def FFmt.greatest (f : FFmt) : ℚ := (2 ^ f.mbits + f.maxMan : Nat) * 2 ^ ((f.maxExp : Int) - f.bias - f.mbits)

section
variable {f : FFmt} {e m : Nat} (he : e < 2 ^ f.ebits) (hm : m < 2 ^ f.mbits)

theorem FFmt.pack_eq (s : Bool) (e m : Nat) : f.pack s e m = (s.toNat * 2 ^ f.ebits + e) * 2 ^ f.mbits + m := by
  cases s <;> simp [FFmt.pack, pow_add, add_mul]

include hm in
theorem FFmt.pack_mantissa (s : Bool) : f.pack s e m % 2 ^ f.mbits = m := by
  rw [FFmt.pack_eq, Nat.mul_add_mod_of_lt hm]

include hm in
theorem FFmt.pack_div (s : Bool) : f.pack s e m / 2 ^ f.mbits = s.toNat * 2 ^ f.ebits + e := by
  rw [FFmt.pack_eq, add_comm, Nat.add_mul_div_right _ _ (by positivity), Nat.div_eq_of_lt hm, zero_add]

include he hm in
theorem FFmt.pack_exponent (s : Bool) : f.pack s e m / 2 ^ f.mbits % 2 ^ f.ebits = e := by
  rw [FFmt.pack_div hm, Nat.mul_add_mod_of_lt he]

include he hm in
theorem FFmt.pack_sign (s : Bool) : (f.pack s e m / 2 ^ (f.ebits + f.mbits) % 2 == 1) = s := by
  rw [add_comm, pow_add, ← Nat.div_div_eq_div_mul, FFmt.pack_div hm, add_comm, Nat.add_mul_div_right _ _ (by positivity),
    Nat.div_eq_of_lt he, zero_add]
  cases s <;> rfl

include he hm in
theorem FFmt.pack_lt (s : Bool) : f.pack s e m < 2 ^ f.width := by
  have hse : s.toNat * 2 ^ f.ebits + e < 2 * 2 ^ f.ebits := by
    have hs : s.toNat ≤ 1 := s.toNat_le
    nlinarith
  rw [FFmt.pack_eq, FFmt.width, pow_add, pow_add, pow_one]
  nlinarith

/-- Every encoding is that of its fields. -/
theorem FFmt.exists_pack {a : Nat} (ha : a < 2 ^ f.width) : ∃ s e m, e < 2 ^ f.ebits ∧ m < 2 ^ f.mbits ∧ a = f.pack s e m := by
  refine ⟨decide (a / 2 ^ f.mbits / 2 ^ f.ebits = 1), a / 2 ^ f.mbits % 2 ^ f.ebits, a % 2 ^ f.mbits,
    Nat.mod_lt _ (by positivity), Nat.mod_lt _ (by positivity), ?_⟩
  have hs : a / 2 ^ f.mbits / 2 ^ f.ebits < 2 := by
    rw [Nat.div_div_eq_div_mul, Nat.div_lt_iff_lt_mul (by positivity)]
    rwa [FFmt.width, add_assoc, pow_add, pow_one, pow_add, mul_comm (2 ^ f.ebits)] at ha
  have hbit : (decide (a / 2 ^ f.mbits / 2 ^ f.ebits = 1)).toNat = a / 2 ^ f.mbits / 2 ^ f.ebits := by
    interval_cases a / 2 ^ f.mbits / 2 ^ f.ebits <;> rfl
  rw [FFmt.pack_eq, hbit, Nat.div_add_mod', Nat.div_add_mod']

theorem FFmt.finiteFields.exponent_lt (h : f.finiteFields e m) (hf : f.regular) : e < 2 ^ f.ebits := by
  have hpow : 2 ^ 2 ≤ 2 ^ f.ebits := Nat.pow_le_pow_right two_pos hf.1
  have hmax : f.maxExp < 2 ^ f.ebits := by
    unfold FFmt.maxExp
    split <;> omega
  have := h.2
  omega

theorem FFmt.maxExp_pos (hf : f.regular) : 1 ≤ f.maxExp := by
  have hpow : 2 ^ 2 ≤ 2 ^ f.ebits := Nat.pow_le_pow_right two_pos hf.1
  unfold FFmt.maxExp
  split <;> omega

theorem FFmt.maxMan_lt : f.maxMan < 2 ^ f.mbits := by
  have : 0 < 2 ^ f.mbits := by positivity
  unfold FFmt.maxMan
  split <;> omega

theorem FFmt.greatest_finiteFields : f.finiteFields f.maxExp f.maxMan := ⟨FFmt.maxMan_lt, .inr ⟨rfl, le_rfl⟩⟩

end

/-! ### Decoding -/

section
variable {f : FFmt} (hf : f.regular) {e m : Nat} (he : e < 2 ^ f.ebits) (hm : m < 2 ^ f.mbits)

include hf he hm in
/-- An encoding stands for a finite number just where its fields are those of one (R52). -/
theorem FFmt.decode_pack (s : Bool) : (f.finiteFields e m → f.decode (f.pack s e m) = .fin s (f.number s e m)) ∧
    (¬f.finiteFields e m → ∀ t x, f.decode (f.pack s e m) ≠ .fin t x) := by
  have hpow : 2 ^ 2 ≤ 2 ^ f.ebits := Nat.pow_le_pow_right two_pos hf.1
  have hman : 2 ^ 1 ≤ 2 ^ f.mbits := Nat.pow_le_pow_right two_pos hf.2
  have hfin : (if e = 0 then FVal.fin s ⟨if s then -(m : Int) else m, 1 - (f.bias : Int) - f.mbits, 1⟩
      else .fin s ⟨if s then -((2 ^ f.mbits + m : Nat) : Int) else (2 ^ f.mbits + m : Nat), (e : Int) - f.bias - f.mbits, 1⟩)
        = .fin s (f.number s e m) := by
    unfold FFmt.number FFmt.significand FFmt.lastBit
    split
    case isTrue h => simp [h]
    case isFalse h => rw [max_eq_left (by omega)]
  unfold FFmt.decode FFmt.finiteFields FFmt.maxExp FFmt.maxMan
  simp only [FFmt.pack_sign he hm, FFmt.pack_exponent he hm, FFmt.pack_mantissa hm, hfin]
  cases f.kind with
  | ieee =>
    dsimp only
    by_cases htop : e = 2 ^ f.ebits - 1
    · rw [if_pos htop]
      refine ⟨fun h => by omega, fun _ t x => ?_⟩
      split <;> exact FVal.noConfusion
    · rw [if_neg htop]
      exact ⟨fun _ => rfl, fun h => absurd ⟨hm, by omega⟩ h⟩
  | nanOnly =>
    dsimp only
    by_cases htop : e = 2 ^ f.ebits - 1 ∧ m = 2 ^ f.mbits - 1
    · rw [if_pos htop]
      exact ⟨fun h => by omega, fun _ t x => FVal.noConfusion⟩
    · rw [if_neg htop]
      exact ⟨fun _ => rfl, fun h => absurd ⟨hm, by omega⟩ h⟩
  | finite =>
    dsimp only
    exact ⟨fun _ => rfl, fun h => absurd ⟨hm, by omega⟩ h⟩

include hf in
theorem FFmt.decode_pack_finite {e m : Nat} (s : Bool) (h : f.finiteFields e m) : f.decode (f.pack s e m) = .fin s (f.number s e m) :=
  (FFmt.decode_pack hf (h.exponent_lt hf) h.1 s).1 h

include hf in
theorem FFmt.exists_fields_of_decode {a : Nat} {t : Bool} {x : Exact} (ha : a < 2 ^ f.width) (h : f.decode a = .fin t x) :
    ∃ e m, f.finiteFields e m ∧ a = f.pack t e m ∧ x = f.number t e m := by
  obtain ⟨s, e, m, he, hm, rfl⟩ := FFmt.exists_pack ha
  obtain ⟨hfin, hnot⟩ := FFmt.decode_pack hf he hm s
  by_cases hfields : f.finiteFields e m
  · rw [hfin hfields] at h
    obtain ⟨rfl, rfl⟩ := FVal.fin.inj h
    exact ⟨e, m, hfields, rfl, rfl⟩
  · exact absurd h (hnot hfields t x)

end

/-! ### Values -/

section
variable {f : FFmt}

theorem FFmt.rat_number (s : Bool) (e m : Nat) :
    (f.number s e m).rat = if s then -((f.significand e m : ℚ) * 2 ^ f.lastBit e) else (f.significand e m : ℚ) * 2 ^ f.lastBit e := by
  rw [FFmt.number, Exact.rat_den_one]
  cases s <;> simp

theorem FFmt.greatest_eq (hf : f.regular) : f.greatest = f.significand f.maxExp f.maxMan * 2 ^ f.lastBit f.maxExp := by
  have := FFmt.maxExp_pos hf
  rw [FFmt.greatest, FFmt.significand, if_neg (by omega), FFmt.lastBit, max_eq_left (by omega)]

theorem FFmt.significand_lt {e m : Nat} (hm : m < 2 ^ f.mbits) : f.significand e m < 2 ^ (f.mbits + 1) := by
  rw [FFmt.significand, pow_succ]
  split <;> omega

theorem FFmt.lastBit_eq {e : Nat} (h : 1 ≤ e) : f.lastBit e = e - f.bias - f.mbits := by
  rw [FFmt.lastBit, max_eq_left (by omega)]

theorem FFmt.significand_eq {e : Nat} (h : 1 ≤ e) (m : Nat) : f.significand e m = 2 ^ f.mbits + m := if_neg (by omega)

/-- A number with an exponent field below another is at most the least number with that one. -/
theorem FFmt.number_le_of_lt {e k m : Nat} (hm : m < 2 ^ f.mbits) (h : e < k) :
    (f.significand e m : ℚ) * 2 ^ f.lastBit e < 2 ^ f.mbits * 2 ^ f.lastBit k := by
  by_cases h0 : e = 0
  · have hsig : (f.significand e m : ℚ) < 2 ^ f.mbits := by rw [FFmt.significand, if_pos h0]; exact_mod_cast hm
    have hbit : f.lastBit e ≤ f.lastBit k := by unfold FFmt.lastBit; omega
    calc (f.significand e m : ℚ) * 2 ^ f.lastBit e < 2 ^ f.mbits * 2 ^ f.lastBit e := by gcongr
      _ ≤ 2 ^ f.mbits * 2 ^ f.lastBit k := by gcongr; exact one_le_two
  · have hsig : (f.significand e m : ℚ) < 2 ^ (f.mbits + 1) := by exact_mod_cast FFmt.significand_lt hm
    have hbit : f.lastBit e + 1 ≤ f.lastBit k := by unfold FFmt.lastBit; omega
    calc (f.significand e m : ℚ) * 2 ^ f.lastBit e < 2 ^ (f.mbits + 1) * 2 ^ f.lastBit e := by gcongr
      _ = 2 ^ f.mbits * 2 ^ (f.lastBit e + 1) := by
        rw [zpow_add_one₀ two_ne_zero, pow_succ]
        ring
      _ ≤ 2 ^ f.mbits * 2 ^ f.lastBit k := by gcongr; exact one_le_two

/-- The finite numbers are those with magnitudes up to the largest one. -/
theorem FFmt.finiteFields_iff (hf : f.regular) {e m : Nat} (hm : m < 2 ^ f.mbits) :
    f.finiteFields e m ↔ (f.significand e m : ℚ) * 2 ^ f.lastBit e ≤ f.greatest := by
  have hmax := FFmt.maxExp_pos hf
  rw [FFmt.greatest_eq hf]
  rcases lt_trichotomy e f.maxExp with hlt | rfl | hgt
  · refine ⟨fun _ => (FFmt.number_le_of_lt hm hlt).le.trans ?_, fun _ => ⟨hm, .inl hlt⟩⟩
    rw [FFmt.significand_eq hmax]
    gcongr
    exact_mod_cast Nat.le_add_right _ _
  · rw [mul_le_mul_iff_left₀ (by positivity), Nat.cast_le, FFmt.significand_eq hmax, FFmt.significand_eq hmax, Nat.add_le_add_iff_left]
    exact ⟨fun h => h.2.elim (fun h => absurd h (lt_irrefl _)) And.right, fun h => ⟨hm, .inr ⟨rfl, h⟩⟩⟩
  · refine ⟨fun h => absurd h.2 (by omega), fun h => absurd h (not_le_of_gt ?_)⟩
    refine (FFmt.number_le_of_lt FFmt.maxMan_lt hgt).trans_le ?_
    rw [FFmt.significand_eq (by omega)]
    gcongr
    exact_mod_cast Nat.le_add_right _ _

/-- The least normal number is finite. -/
theorem FFmt.two_zpow_emin_le (hf : f.regular) : (2 : ℚ) ^ (1 - (f.bias : Int)) ≤ f.greatest := by
  have h := (FFmt.finiteFields_iff hf (e := 1) (m := 0) (by positivity)).mp ⟨by positivity, by
    have := FFmt.maxExp_pos hf
    omega⟩
  rwa [FFmt.significand_eq le_rfl, add_zero, Nat.cast_pow, Nat.cast_ofNat, FFmt.lastBit_eq le_rfl, ← zpow_natCast,
    ← zpow_add₀ two_ne_zero, show (f.mbits : Int) + ((1 : Nat) - f.bias - f.mbits) = 1 - f.bias by push_cast; ring] at h

end

end Sys2Proof.Machine
end

section
/-! The one rounding of an exact number to a floating format (R63, R64, R66, R68). -/

namespace Sys2Proof.Machine

/-! ### Rounded significands -/

theorem roundQuotient_le {n d N : Nat} (h : n ≤ N * d) (r : Round) (negative : Bool) :
    (roundQuotient r negative n d).1 ≤ N := by
  have hle : n / d ≤ N := Nat.div_le_of_le_mul (by rwa [mul_comm])
  by_cases hdvd : d ∣ n
  · rwa [roundQuotient_of_dvd hdvd]
  · have hne : n / d ≠ N := by
      rintro rfl
      exact hdvd ⟨n / d, le_antisymm (by rwa [mul_comm]) (Nat.mul_div_le n d)⟩
    rcases roundQuotient_neighbour hdvd r negative with h' | h' <;> omega

theorem le_roundQuotient {n d N : Nat} (hd : 0 < d) (h : N * d ≤ n) (r : Round) (negative : Bool) :
    N ≤ (roundQuotient r negative n d).1 := by
  have hle : N ≤ n / d := (Nat.le_div_iff_mul_le hd).mpr h
  by_cases hdvd : d ∣ n
  · rwa [roundQuotient_of_dvd hdvd]
  · rcases roundQuotient_neighbour hdvd r negative with h' | h' <;> omega

/-- The magnitude of a number rounded to a multiple of the unit of an exponent, in that unit, and whether it was exact. -/
def FFmt.rounded (f : FFmt) (r : Round) (x : Exact) (k : Int) : Nat × Bool :=
  roundQuotient r (x.num < 0) (x.units (k - f.mbits)).1 (x.units (k - f.mbits)).2

/-- The encoding of a significand in the unit of an exponent. -/
def FFmt.encode (f : FFmt) (s : Bool) (k : Int) (q : Nat) : Nat :=
  if q < 2 ^ f.mbits then f.pack s 0 q
  else if q < 2 ^ (f.mbits + 1) then f.pack s (k - f.mbits + f.mbits + f.bias).toNat (q - 2 ^ f.mbits)
  else f.pack s (k - f.mbits + f.mbits + f.bias + 1).toNat 0

section
variable {f : FFmt} {x : Exact} (hx : 0 < x.den)

theorem FFmt.rat_largest : (Exact.rat ⟨2 ^ f.mbits + f.maxMan, (f.maxExp : Int) - f.bias - f.mbits, 1⟩) = f.greatest := by
  rw [Exact.rat_den_one, FFmt.greatest]
  push_cast
  rfl

/-- The branches of `roundTo`, by the values they compare. -/
theorem roundTo_eq (r : Round) (sat : Bool) : roundTo f r sat x =
    if f.greatest < (f.rounded r x x.log2).1 * (2 : ℚ) ^ (x.log2 - f.mbits) then
      (overflowed f r sat (x.num < 0), flagOverflow ||| flagInexact)
    else
      (f.encode (x.num < 0) (max x.log2 (1 - f.bias)) (f.rounded r x (max x.log2 (1 - f.bias))).1,
        if (f.rounded r x (max x.log2 (1 - f.bias))).2 then 0
        else if (f.rounded r x x.log2).1 * (2 : ℚ) ^ (x.log2 - f.mbits) < 2 ^ (1 - (f.bias : Int)) then flagUnderflow ||| flagInexact
        else flagInexact) := by
  have hover : (Exact.lt ⟨2 ^ f.mbits + f.maxMan, (f.maxExp : Int) - f.bias - f.mbits, 1⟩
      ⟨(f.rounded r x x.log2).1, x.log2 - f.mbits, 1⟩ = true) = (f.greatest < (f.rounded r x x.log2).1 * (2 : ℚ) ^ (x.log2 - f.mbits)) := by
    rw [Exact.lt_iff one_pos one_pos, FFmt.rat_largest, Exact.rat_den_one, Int.cast_natCast]
  have htiny : (Exact.lt ⟨(f.rounded r x x.log2).1, x.log2 - f.mbits, 1⟩ ⟨1, 1 - (f.bias : Int), 1⟩ = true)
      = ((f.rounded r x x.log2).1 * (2 : ℚ) ^ (x.log2 - f.mbits) < 2 ^ (1 - (f.bias : Int))) := by
    rw [Exact.lt_iff one_pos one_pos, Exact.rat_den_one, Exact.rat_den_one, Int.cast_natCast, Int.cast_one, one_mul]
  have hraw : roundTo f r sat x =
      if Exact.lt ⟨2 ^ f.mbits + f.maxMan, (f.maxExp : Int) - f.bias - f.mbits, 1⟩ ⟨(f.rounded r x x.log2).1, x.log2 - f.mbits, 1⟩ then
        (overflowed f r sat (x.num < 0), flagOverflow ||| flagInexact)
      else
        (f.encode (x.num < 0) (max x.log2 (1 - f.bias)) (f.rounded r x (max x.log2 (1 - f.bias))).1,
          if (f.rounded r x (max x.log2 (1 - f.bias))).2 then 0
          else if Exact.lt ⟨(f.rounded r x x.log2).1, x.log2 - f.mbits, 1⟩ ⟨1, 1 - (f.bias : Int), 1⟩ then flagUnderflow ||| flagInexact
          else flagInexact) := by
    unfold roundTo FFmt.encode FFmt.rounded
    dsimp only
    split_ifs <;> rfl
  rw [hraw]
  simp only [hover, htiny]

/-- The signed value in a unit rounds as R62 and R63 have it. -/
theorem FFmt.rounded_roundsTo (hx : 0 < x.den) (r : Round) (k : Int) : roundsTo r (x.rat / 2 ^ (k - f.mbits))
    (if x.num < 0 then -((f.rounded r x k).1 : Int) else (f.rounded r x k).1) := by
  have h := roundQuotient_roundsTo r (x.num < 0) (n := (x.units (k - f.mbits)).1) (Exact.units_snd_pos hx (k - f.mbits))
  simp only [decide_eq_true_iff, Exact.units_ratio hx] at h
  have hv : x.rat / 2 ^ (k - f.mbits) = if x.num < 0 then -(|x.rat| / 2 ^ (k - f.mbits)) else |x.rat| / 2 ^ (k - f.mbits) := by
    split
    case isTrue hneg => rw [abs_of_neg ((Exact.rat_neg_iff hx).mp hneg), neg_div, neg_neg]
    case isFalse hneg => rw [abs_of_nonneg (not_lt.mp (fun hr => hneg ((Exact.rat_neg_iff hx).mpr hr)))]
  rw [hv]
  exact h

theorem FFmt.rounded_exact_iff (hx : 0 < x.den) (r : Round) (k : Int) :
    (f.rounded r x k).2 = true ↔ ((f.rounded r x k).1 : ℚ) * 2 ^ (k - f.mbits) = |x.rat| := by
  have hd := Exact.units_snd_pos hx (k - f.mbits)
  have hdq : ((x.units (k - f.mbits)).2 : ℚ) ≠ 0 := by exact_mod_cast hd.ne'
  have hv : |x.rat| = ((x.units (k - f.mbits)).1 : ℚ) / (x.units (k - f.mbits)).2 * 2 ^ (k - f.mbits) := by
    rw [Exact.units_ratio hx, div_mul_cancel₀ _ (by positivity)]
  rw [hv, mul_left_inj' (by positivity)]
  refine ⟨roundQuotient_exact, fun h => (roundQuotient_exact_iff ..).mpr ?_⟩
  rw [eq_div_iff hdq] at h
  exact ⟨_, (by exact_mod_cast h.symm.trans (mul_comm _ _))⟩

theorem two_pow_mul_zpow (n : Nat) (u : Int) : ((2 ^ n : Nat) : ℚ) * 2 ^ u = 2 ^ (n + u) := by
  rw [Nat.cast_pow, Nat.cast_ofNat, ← zpow_natCast, ← zpow_add₀ two_ne_zero]

theorem FFmt.rounded_le_of_le (hx : 0 < x.den) (r : Round) {k : Int} {N : Nat} (h : |x.rat| ≤ N * 2 ^ (k - f.mbits)) :
    (f.rounded r x k).1 ≤ N := by
  have hd := Exact.units_snd_pos hx (k - f.mbits)
  rw [← div_le_iff₀ (by positivity), ← Exact.units_ratio hx, div_le_iff₀ (by exact_mod_cast hd)] at h
  exact roundQuotient_le (by exact_mod_cast h) r _

theorem FFmt.le_rounded_of_le (hx : 0 < x.den) (r : Round) {k : Int} {N : Nat} (h : N * 2 ^ (k - f.mbits) ≤ |x.rat|) :
    N ≤ (f.rounded r x k).1 := by
  have hd := Exact.units_snd_pos hx (k - f.mbits)
  rw [← le_div_iff₀ (by positivity), ← Exact.units_ratio hx, le_div_iff₀ (by exact_mod_cast hd)] at h
  exact le_roundQuotient hd (by exact_mod_cast h) r _

theorem FFmt.rounded_le (hx : 0 < x.den) (r : Round) {k : Int} (h : |x.rat| < 2 ^ (k + 1)) : (f.rounded r x k).1 ≤ 2 ^ (f.mbits + 1) := by
  refine FFmt.rounded_le_of_le hx r (h.le.trans_eq ?_)
  rw [two_pow_mul_zpow]
  congr 1
  push_cast
  ring

theorem FFmt.le_rounded (hx : 0 < x.den) (r : Round) {k : Int} (h : 2 ^ k ≤ |x.rat|) : 2 ^ f.mbits ≤ (f.rounded r x k).1 := by
  refine FFmt.le_rounded_of_le hx r (h.trans_eq' ?_)
  rw [two_pow_mul_zpow, add_sub_cancel]

/-- A number up to a power of two that is a multiple of the unit rounds to one up to it. -/
theorem FFmt.rounded_mul_le (hx : 0 < x.den) (r : Round) {k j : Int} (hj : k ≤ j + f.mbits) (h : |x.rat| ≤ 2 ^ j) :
    (f.rounded r x k).1 * (2 : ℚ) ^ (k - f.mbits) ≤ 2 ^ j := by
  have hN : ((2 ^ (j - (k - f.mbits)).toNat : Nat) : ℚ) * 2 ^ (k - f.mbits) = 2 ^ j := by
    rw [two_pow_mul_zpow, Int.toNat_of_nonneg (by omega), sub_add_cancel]
  rw [← hN] at h ⊢
  gcongr
  exact FFmt.rounded_le_of_le hx r h

end

/-! ### The encoding of a rounded significand -/

section
variable {f : FFmt} (hf : f.regular)

include hf in
/-- A significand in the unit of an exponent that the format has is encoded by its fields, which are finite up to the largest
number. -/
theorem FFmt.encode_spec (s : Bool) {k : Int} {q : Nat} (hk : 1 - (f.bias : Int) ≤ k) (hq : q ≤ 2 ^ (f.mbits + 1))
    (hsub : q < 2 ^ f.mbits → k = 1 - f.bias) (hle : (q : ℚ) * 2 ^ (k - f.mbits) ≤ f.greatest) :
    ∃ e m, f.finiteFields e m ∧ f.encode s k q = f.pack s e m ∧ (f.significand e m : ℚ) * 2 ^ f.lastBit e = q * 2 ^ (k - f.mbits) := by
  have hpow : 2 ^ (f.mbits + 1) = 2 ^ f.mbits + 2 ^ f.mbits := by rw [pow_succ]; ring
  have hfields : ∀ e m, m < 2 ^ f.mbits → f.encode s k q = f.pack s e m →
      (f.significand e m : ℚ) * 2 ^ f.lastBit e = q * 2 ^ (k - f.mbits) →
      ∃ e m, f.finiteFields e m ∧ f.encode s k q = f.pack s e m ∧
        (f.significand e m : ℚ) * 2 ^ f.lastBit e = q * 2 ^ (k - f.mbits) :=
    fun e m hm hpack hval => ⟨e, m, (FFmt.finiteFields_iff hf hm).mpr (hval ▸ hle), hpack, hval⟩
  unfold FFmt.encode at hfields ⊢
  split_ifs at hfields ⊢ with hlow hmid
  · refine hfields 0 q hlow rfl ?_
    rw [FFmt.significand, if_pos rfl, FFmt.lastBit, hsub hlow]
    rfl
  · refine hfields _ (q - 2 ^ f.mbits) (by omega) rfl ?_
    rw [FFmt.significand_eq (by omega), FFmt.lastBit_eq (by omega), Nat.add_sub_cancel' (by omega)]
    congr 2
    omega
  · refine hfields _ 0 (by positivity) rfl ?_
    have hqe : q = 2 ^ f.mbits * 2 := by omega
    rw [FFmt.significand_eq (by omega), FFmt.lastBit_eq (by omega), hqe]
    push_cast
    rw [add_zero, mul_assoc, ← zpow_one_add₀ two_ne_zero]
    congr 2
    omega

include hf in
/-- A number rounded to a format that does not overflow (R63, R64): the encoding stands for the number in the unit of its exponent,
or of the least normal one, and the flags compare both. -/
theorem roundTo_in_range {x : Exact} (hx : 0 < x.den) (h0 : x.rat ≠ 0) (r : Round) (sat : Bool)
    (h : (f.rounded r x x.log2).1 * (2 : ℚ) ^ (x.log2 - f.mbits) ≤ f.greatest) :
    ∃ e m, f.finiteFields e m ∧ (roundTo f r sat x).1 = f.pack (x.num < 0) e m ∧
      (f.significand e m : ℚ) * 2 ^ f.lastBit e
        = (f.rounded r x (max x.log2 (1 - f.bias))).1 * 2 ^ (max x.log2 (1 - f.bias) - f.mbits) := by
  obtain ⟨hlow, hup⟩ := Exact.log2_spec hx h0
  rw [roundTo_eq, if_neg (not_lt.mpr h)]
  rcases le_or_gt (1 - (f.bias : Int)) x.log2 with hk | hk
  · rw [max_eq_left hk]
    exact FFmt.encode_spec hf _ hk (FFmt.rounded_le hx r hup) (fun hq => absurd (FFmt.le_rounded hx r hlow) (not_le_of_gt hq)) h
  · rw [max_eq_right hk.le]
    have hsmall : |x.rat| ≤ 2 ^ (1 - (f.bias : Int)) := hup.le.trans (zpow_le_zpow_right₀ one_le_two (by omega))
    refine FFmt.encode_spec hf _ le_rfl (FFmt.rounded_le hx r (hsmall.trans_lt (zpow_lt_zpow_right₀ one_lt_two (by omega)))) (fun _ => rfl) ?_
    exact (FFmt.rounded_mul_le hx r (by omega) hsmall).trans (FFmt.two_zpow_emin_le hf)

end

/-! ### The numbers of a format -/

section
variable {f : FFmt} {e m : Nat} (h : f.finiteFields e m) (h0 : f.significand e m ≠ 0) (s : Bool)

theorem FFmt.abs_rat_number (s : Bool) (e m : Nat) : |(f.number s e m).rat| = f.significand e m * 2 ^ f.lastBit e := by
  rw [FFmt.rat_number]
  cases s <;> simp [abs_mul]

include h0 in
theorem FFmt.rat_number_ne_zero : (f.number s e m).rat ≠ 0 := by
  rw [← abs_pos, FFmt.abs_rat_number]
  positivity

include h0 in
theorem FFmt.number_negative : decide ((f.number s e m).num < 0) = s := by
  have : 0 < f.significand e m := Nat.pos_of_ne_zero h0
  cases s with
  | false => simp [FFmt.number]
  | true =>
    simp [FFmt.number]
    omega

include h h0 in
theorem FFmt.log2_number_subnormal (he : e = 0) : (f.number s e m).log2 < 1 - f.bias := by
  obtain ⟨hlow, -⟩ := Exact.log2_spec (x := f.number s e m) one_pos (FFmt.rat_number_ne_zero h0 s)
  rw [FFmt.abs_rat_number] at hlow
  have hsig : (f.significand e m : ℚ) < (2 ^ f.mbits : Nat) := by
    rw [FFmt.significand, if_pos he]
    exact_mod_cast h.1
  refine (zpow_lt_zpow_iff_right₀ (one_lt_two (α := ℚ))).mp (hlow.trans_lt ?_)
  calc (f.significand e m : ℚ) * 2 ^ f.lastBit e < (2 ^ f.mbits : Nat) * 2 ^ f.lastBit e := by gcongr
    _ = 2 ^ (1 - (f.bias : Int)) := by
      rw [two_pow_mul_zpow, FFmt.lastBit, he]
      congr 1
      norm_num

include h h0 in
theorem FFmt.log2_number_normal (he : 1 ≤ e) : (f.number s e m).log2 = f.lastBit e + f.mbits := by
  obtain ⟨hlow, hup⟩ := Exact.log2_spec (x := f.number s e m) one_pos (FFmt.rat_number_ne_zero h0 s)
  refine exponent_unique ⟨hlow, hup⟩ ⟨?_, ?_⟩ <;> rw [FFmt.abs_rat_number]
  · rw [add_comm, ← two_pow_mul_zpow, FFmt.significand_eq he]
    gcongr
    omega
  · rw [show f.lastBit e + f.mbits + 1 = (f.mbits + 1 : Nat) + f.lastBit e by push_cast; ring, ← two_pow_mul_zpow]
    gcongr
    exact FFmt.significand_lt h.1

theorem FFmt.rounded_number (r : Round) : f.rounded r (f.number s e m) (f.lastBit e + f.mbits) = (f.significand e m, true) := by
  have hunits : (f.number s e m).units (f.lastBit e + f.mbits - f.mbits) = (f.significand e m, 1) := by
    rw [add_sub_cancel_right]
    cases s <;> simp [FFmt.number, Exact.units, pow2]
  rw [FFmt.rounded, hunits, roundQuotient_of_dvd (one_dvd _), Nat.div_one]

include h in
theorem FFmt.encode_number : f.encode s (f.lastBit e + f.mbits) (f.significand e m) = f.pack s e m := by
  have hm := h.1
  unfold FFmt.encode
  by_cases he : e = 0
  · rw [FFmt.significand, if_pos he, if_pos hm, he]
  · rw [FFmt.significand_eq (by omega), if_neg (by omega), if_pos (by rw [pow_succ]; omega), Nat.add_sub_cancel_left,
      FFmt.lastBit_eq (by omega)]
    congr 1
    omega

include h h0 in
/-- A number of the format rounds to its own encoding, without a flag. -/
theorem roundTo_number (hf : f.regular) (r : Round) (sat : Bool) : roundTo f r sat (f.number s e m) = (f.pack s e m, 0) := by
  set x := f.number s e m with hxdef
  have hx : 0 < x.den := one_pos
  have hunit : max x.log2 (1 - f.bias) = f.lastBit e + f.mbits ∧
      (f.rounded r x x.log2).1 * (2 : ℚ) ^ (x.log2 - f.mbits) ≤ f.greatest := by
    by_cases he : e = 0
    · have hlt : x.log2 < 1 - f.bias := FFmt.log2_number_subnormal h h0 s he
      have hup := (Exact.log2_spec hx (FFmt.rat_number_ne_zero h0 s)).2
      refine ⟨by rw [max_eq_right hlt.le, FFmt.lastBit, he]; norm_num, ?_⟩
      exact (FFmt.rounded_mul_le hx r (by omega) (hup.le.trans (zpow_le_zpow_right₀ one_le_two (by omega)))).trans
        (FFmt.two_zpow_emin_le hf)
    · have hlog : x.log2 = f.lastBit e + f.mbits := FFmt.log2_number_normal h h0 s (by omega)
      rw [hlog, FFmt.rounded_number, add_sub_cancel_right]
      exact ⟨max_eq_left (by unfold FFmt.lastBit; omega), (FFmt.finiteFields_iff hf h.1).mp h⟩
  rw [roundTo_eq, if_neg (not_lt.mpr hunit.2), hunit.1, FFmt.rounded_number, FFmt.number_negative h0 s, FFmt.encode_number h]
  rfl

end

end Sys2Proof.Machine
end

section
/-! The nine formats of R51, and the statement of R62 to R64 and R66 for every one of them. -/

namespace Sys2Proof.Machine

/-! ### Overflow -/

theorem overflowed_eq (f : FFmt) (r : Round) (sat s : Bool) : overflowed f r sat s =
    if (r = .rne ∨ r = .rdn ∧ s = true ∨ r = .rup ∧ s = false) ∧ sat = false then
      match f.kind with
      | .ieee => f.infinity s
      | .nanOnly => f.canonicalNan
      | .finite => f.largest s
    else f.largest s := by
  unfold overflowed
  cases r <;> cases s <;> cases sat <;> rfl

/-! ### The formats -/

theorem FFmt.greatest_of_full {f : FFmt} (hm : f.maxMan = 2 ^ f.mbits - 1) {k : Int} (hk : (f.maxExp : Int) - f.bias = k) :
    f.greatest = (2 - 2 ^ (-(f.mbits : Int))) * 2 ^ k := by
  have hpos : 1 ≤ 2 ^ f.mbits := Nat.one_le_two_pow
  rw [FFmt.greatest, hm, hk, sub_eq_add_neg k, zpow_add₀ two_ne_zero, mul_comm ((2 : ℚ) ^ k), ← mul_assoc, zpow_neg, zpow_natCast]
  congr 1
  push_cast [Nat.cast_sub hpos]
  field_simp
  ring

/-- The formats of R51 with their largest finite numbers. -/
theorem formats_greatest : ∀ e ∈ [fmtF64, fmtF32, fmtBf16, fmtF16, fmtE4m3, fmtE5m2, fmtE2m3, fmtE3m2, fmtE2m1].zip
      [(2 - 2 ^ (-52 : ℤ)) * 2 ^ 1023, (2 - 2 ^ (-23 : ℤ)) * 2 ^ 127, (2 - 2 ^ (-7 : ℤ)) * 2 ^ 127, 65504, 448, 57344, 7.5, 28,
        (6 : ℚ)], e.1.regular ∧ e.1.greatest = e.2 := by
  have hbig {f : FFmt} (n k : Nat) (hm : f.maxMan = 2 ^ f.mbits - 1) (hn : f.mbits = n) (hk : (f.maxExp : Int) - f.bias = k) :
      f.greatest = (2 - 2 ^ (-(n : Int))) * 2 ^ k := by
    rw [FFmt.greatest_of_full hm hk, hn, zpow_natCast]
  simp only [List.zip_cons_cons, List.zip_nil_right, List.forall_mem_cons, List.not_mem_nil, false_imp_iff, implies_true, and_true]
  refine ⟨⟨by decide, hbig 52 1023 rfl rfl rfl⟩, ⟨by decide, hbig 23 127 rfl rfl rfl⟩, ⟨by decide, hbig 7 127 rfl rfl rfl⟩,
    ⟨by decide, ?_⟩, ⟨by decide, ?_⟩, ⟨by decide, ?_⟩, ⟨by decide, ?_⟩, ⟨by decide, ?_⟩, ⟨by decide, ?_⟩⟩ <;>
  norm_num [FFmt.greatest, FFmt.maxExp, FFmt.maxMan, fmtF16, fmtE4m3, fmtE5m2, fmtE2m3, fmtE3m2, fmtE2m1]

theorem formats_regular {f : FFmt} (h : f ∈ [fmtF64, fmtF32, fmtBf16, fmtF16, fmtE4m3, fmtE5m2, fmtE2m3, fmtE3m2, fmtE2m1]) :
    f.regular := by
  fin_cases h <;> decide

/-- The largest encoding stands for the largest number. -/
theorem FFmt.decode_largest {f : FFmt} (hf : f.regular) (s : Bool) :
    ∃ y, f.decode (f.largest s) = .fin s y ∧ y.rat = if s then -f.greatest else f.greatest :=
  ⟨_, FFmt.decode_pack_finite hf s FFmt.greatest_finiteFields, by rw [FFmt.rat_number, FFmt.greatest_eq hf]⟩

/-- A representable number keeps its encoding. -/
theorem roundTo_of_decode {f : FFmt} (hf : f.regular) {a : Nat} {s : Bool} {x : Exact} (ha : a < 2 ^ f.width)
    (h : f.decode a = .fin s x) (h0 : x.num ≠ 0) (r : Round) (sat : Bool) : roundTo f r sat x = (a, 0) := by
  obtain ⟨e, m, hfields, rfl, rfl⟩ := FFmt.exists_fields_of_decode hf ha h
  refine roundTo_number hfields (fun hz => h0 ?_) s hf r sat
  simp [FFmt.number, hz]

theorem abs_signed {p : Prop} [Decidable p] (n : Nat) : ((|if p then -(n : Int) else n| : Int) : ℚ) = n := by
  split <;> simp

section
variable {f : FFmt} {x : Exact} (hx : 0 < x.den) (r : Round) (sat : Bool) (h0 : x.rat ≠ 0)

include hx h0 in
/-- A result beyond the largest finite number, as R64 and R66 have it. -/
theorem roundTo_overflow (h : f.greatest < (f.rounded r x x.log2).1 * (2 : ℚ) ^ (x.log2 - f.mbits)) :
    let out := roundTo f r sat x
    let s := decide (x.num < 0)
    let away : Prop := r = .rne ∨ r = .rdn ∧ x.rat < 0 ∨ r = .rup ∧ 0 < x.rat
    (away ∧ sat = false → out.1 = match f.kind with
      | .ieee => f.infinity s
      | .nanOnly => f.canonicalNan
      | .finite => f.largest s) ∧
    (¬(away ∧ sat = false) → out.1 = f.largest s) ∧ out.2 = flagOverflow ||| flagInexact := by
  have haway : (r = .rne ∨ r = .rdn ∧ x.rat < 0 ∨ r = .rup ∧ 0 < x.rat) ↔
      (r = .rne ∨ r = .rdn ∧ decide (x.num < 0) = true ∨ r = .rup ∧ decide (x.num < 0) = false) := by
    have hpos : 0 < x.rat ↔ ¬x.rat < 0 := ⟨not_lt_of_gt, fun hn => lt_of_le_of_ne (not_lt.mp hn) h0.symm⟩
    simp only [decide_eq_true_iff, decide_eq_false_iff_not, Exact.rat_neg_iff hx, hpos]
  dsimp only
  rw [roundTo_eq, if_pos h, haway, overflowed_eq]
  exact ⟨fun ha => if_pos ha, fun ha => if_neg ha, rfl⟩

include hx h0 in
/-- A result up to the largest finite number, as R63, R64 and R68 have it. -/
theorem roundTo_in_range_spec (hf : f.regular)
    (h : (f.rounded r x x.log2).1 * (2 : ℚ) ^ (x.log2 - f.mbits) ≤ f.greatest) :
    let k := max x.log2 (1 - (f.bias : Int))
    ∃ y, (roundTo f r sat x).1 < 2 ^ f.width ∧ f.decode (roundTo f r sat x).1 = .fin (x.num < 0) y ∧
      y.rat = (if x.num < 0 then -((f.rounded r x k).1 : Int) else (f.rounded r x k).1 : Int) * 2 ^ (k - f.mbits) ∧
      (roundTo f r sat x).2 = if y.rat = x.rat then 0
        else if (f.rounded r x x.log2).1 * (2 : ℚ) ^ (x.log2 - f.mbits) < 2 ^ (1 - (f.bias : Int)) then flagUnderflow ||| flagInexact
        else flagInexact := by
  intro k
  obtain ⟨e, m, hfields, hpack, hval⟩ := roundTo_in_range hf hx h0 r sat h
  have hy : (f.number (x.num < 0) e m).rat
      = (if x.num < 0 then -((f.rounded r x k).1 : Int) else (f.rounded r x k).1 : Int) * 2 ^ (k - f.mbits) := by
    rw [FFmt.rat_number, hval]
    by_cases hn : x.num < 0 <;> simp [hn, k]
  have hexact : (f.rounded r x k).2 = true ↔ (f.number (x.num < 0) e m).rat = x.rat := by
    rw [FFmt.rounded_exact_iff hx, hy]
    by_cases hn : x.num < 0
    · rw [if_pos hn, abs_of_neg ((Exact.rat_neg_iff hx).mp hn), Int.cast_neg, neg_mul, neg_eq_iff_eq_neg, Int.cast_natCast]
    · rw [if_neg hn, abs_of_nonneg (not_lt.mp (fun hr => hn ((Exact.rat_neg_iff hx).mpr hr))), Int.cast_natCast]
  refine ⟨_, hpack ▸ FFmt.pack_lt (hfields.exponent_lt hf) hfields.1 _, hpack ▸ FFmt.decode_pack_finite hf _ hfields, hy, ?_⟩
  rw [roundTo_eq, if_neg (not_lt.mpr h)]
  simp only [← hexact]
  rfl

end

/-- Settles O24: a representable number has the unit of its own encoding; every other is rounded once by `FFmt.rounded`. -/
theorem representableUnchanged : Obligations.RepresentableUnchanged := by
  unfold Obligations.RepresentableUnchanged
  refine ⟨fun f hmem a s x ha hd h0 r sat => roundTo_of_decode (formats_regular hmem) ha hd h0 r sat, fun f top hmem => ?_⟩
  obtain ⟨hf, htop⟩ := formats_greatest _ hmem
  change f.regular at hf
  change f.greatest = top at htop
  subst htop
  refine ⟨FFmt.decode_largest hf, fun r sat x hx h0 => ?_⟩
  obtain ⟨hlow, hup⟩ := Exact.log2_spec hx h0
  have hneg : decide (x.rat < 0) = decide (x.num < 0) := by simp only [Exact.rat_neg_iff hx]
  refine ⟨x.log2, _, _, hlow, hup, FFmt.rounded_roundsTo hx r _, FFmt.rounded_roundsTo hx r _, ?_, ?_⟩ <;>
    rw [abs_signed, hneg] <;> intro hcmp
  · exact roundTo_overflow hx r sat h0 hcmp
  · exact roundTo_in_range_spec hx r sat h0 hf hcmp

end Sys2Proof.Machine
end

section
/-! Reductions, scans and the matrix sum (R70 to R73, R187, R188): the model's list recursions against the rules' own forms. -/

namespace Sys2Proof.Machine

theorem upFrom_eq_range' (lo n : Nat) : upFrom lo n = List.range' lo n := by
  induction n generalizing lo with
  | zero => rfl
  | succ n ih => rw [upFrom, ih, List.range'_succ]

/-! ### The tree of a reduction (R70) -/

/-- A lane of a tree: its value when it is active. -/
def treeLane (s : (Nat → Nat) × (Nat → Bool)) (j : Nat) : Option Nat := if s.2 j then some (s.1 j) else none

/-- One level of TreeReduce (R70) on values and activity. -/
def treeStep (op : Nat → Nat → Flagged) (s : (Nat → Nat) × (Nat → Bool)) : (Nat → Nat) × (Nat → Bool) :=
  (fun i => if s.2 (2 * i) && s.2 (2 * i + 1) then (op (s.1 (2 * i)) (s.1 (2 * i + 1))).1
    else if s.2 (2 * i + 1) then s.1 (2 * i + 1) else s.1 (2 * i),
   fun i => s.2 (2 * i) || s.2 (2 * i + 1))

theorem treeLevel_cons₂ (op : Nat → Nat → Flagged) (s : (Nat → Nat) × (Nat → Bool)) (j : Nat) (l : List (Option Nat)) :
    (treeLevel op (treeLane s (2 * j) :: treeLane s (2 * j + 1) :: l)).1 = treeLane (treeStep op s) j :: (treeLevel op l).1 := by
  unfold treeLane treeStep
  cases h0 : s.2 (2 * j) <;> cases h1 : s.2 (2 * j + 1) <;> simp [treeLevel, h0, h1]

theorem treeLevel_lanes (op : Nat → Nat → Flagged) (s : (Nat → Nat) × (Nat → Bool)) (n lo : Nat) :
    (treeLevel op ((List.range' (2 * lo) (2 * n)).map (treeLane s))).1 = (List.range' lo n).map (treeLane (treeStep op s)) := by
  induction n generalizing lo with
  | zero => rfl
  | succ n ih =>
    rw [Nat.mul_succ, List.range'_succ, List.range'_succ, List.range'_succ, List.map_cons, List.map_cons, List.map_cons,
      treeLevel_cons₂, ← ih (lo + 1)]
    rfl

theorem treeReduce_lanes (op : Nat → Nat → Flagged) (levels : Nat) (s : (Nat → Nat) × (Nat → Bool)) (fl : BitVec 5) :
    (treeReduce op levels ((List.range' 0 (2 ^ levels)).map (treeLane s)) fl).1 = treeLane ((treeStep op)^[levels] s) 0 := by
  induction levels generalizing s fl with
  | zero => rfl
  | succ n ih =>
    rw [Function.iterate_succ_apply, ← ih (treeStep op s)]
    show (treeReduce op n (treeLevel op _).1 _).1 = _
    rw [pow_succ', treeLevel_lanes op s (2 ^ n) 0]

/-! ### The run of a scan (R188) -/

/-- The value at an active element is the left fold of the run so far and the active elements up to it. -/
theorem scanFrom_getElem? (op : Nat → Nat → Flagged) (m : W64) (l : List (Nat × Nat)) (run : Option Nat) (j y : Nat) (e : Nat × Nat)
    (he : l[j]? = some e) (hact : active m e.2 = true) (hy : (scanFrom op m run l).1[j]? = some y) :
    ∃ first rest, run.toList ++ ((l.take (j + 1)).filter (fun e => active m e.2)).map (·.1) = first :: rest ∧
      y = rest.foldl (fun run e => (op run e).1) first := by
  induction l generalizing run j with
  | nil => simp at he
  | cons a t ih =>
    obtain ⟨x, k⟩ := a
    cases hk : active m k with
    | false =>
      cases j with
      | zero =>
        rw [List.getElem?_cons_zero, Option.some.injEq] at he
        rw [← he, hk] at hact
        cases hact
      | succ j =>
        simp only [scanFrom, hk, Bool.false_eq_true, if_false, List.getElem?_cons_succ] at he hy
        simpa [List.take_succ_cons, List.filter_cons, hk] using ih run j he hy
    | true =>
      simp only [scanFrom, hk, if_true] at hy
      cases j with
      | zero =>
        cases run with
        | none => exact ⟨x, [], by simp [hk], by simpa using hy.symm⟩
        | some r => exact ⟨r, [x], by simp [hk], by simpa using hy.symm⟩
      | succ j =>
        obtain ⟨first, rest, hsplit, hfold⟩ := ih _ j he hy
        obtain ⟨rfl, rfl⟩ := List.cons.inj hsplit
        cases run with
        | none => exact ⟨x, _, by simp [hk], hfold⟩
        | some r => exact ⟨r, x :: _, by simp [hk], hfold⟩

theorem scanFrom_length (op : Nat → Nat → Flagged) (m : W64) (l : List (Nat × Nat)) (run : Option Nat) :
    (scanFrom op m run l).1.length = l.length := by
  induction l generalizing run with
  | nil => rfl
  | cons a t ih =>
    unfold scanFrom
    split <;> simp [ih]

/-! ### The groups of a matrix element (R71, R73) -/

/-- A group added to an element (R73). -/
def addGroup (g c : Nat) (ps : List FVal) (k : Nat) : Nat := (floatAdd fmtF64 .rne c (groupValue ((ps.drop (k * g)).take g))).1

theorem matrixElement_eq (g c : Nat) (ps : List FVal) :
    matrixElement g c ps = (List.range' 0 ((ps.length + g - 1) / g)).foldl (fun c k => addGroup g c ps k) c := by
  rw [matrixElement, upFrom_eq_range']
  rfl

theorem matrixElement_nil {g : Nat} (hg : 0 < g) (c : Nat) : matrixElement g c [] = c := by
  rw [matrixElement_eq, List.length_nil, Nat.div_eq_of_lt (by omega)]
  rfl

theorem matrixElement_group {g : Nat} (c : Nat) {ps : List FVal} (h0 : 0 < ps.length) (hg : ps.length ≤ g) :
    matrixElement g c ps = (floatAdd fmtF64 .rne c (groupValue ps)).1 := by
  have hone : (ps.length + g - 1) / g = 1 := Nat.div_eq_of_lt_le (by omega) (by omega)
  rw [matrixElement_eq, hone, List.range'_one, List.foldl_cons, List.foldl_nil, addGroup, Nat.zero_mul, List.drop_zero,
    List.take_of_length_le hg]

theorem matrixElement_append {g : Nat} (hg : 0 < g) (c : Nat) {ps : List FVal} (qs : List FVal) (h : ps.length % g = 0) :
    matrixElement g c (ps ++ qs) = matrixElement g (matrixElement g c ps) qs := by
  obtain ⟨n, hn⟩ : ∃ n, ps.length = n * g := ⟨ps.length / g, (Nat.div_mul_cancel (Nat.dvd_of_mod_eq_zero h)).symm⟩
  have hps : (ps.length + g - 1) / g = n := by
    rw [hn, Nat.add_sub_assoc hg, add_comm, Nat.add_mul_div_right _ _ hg, Nat.div_eq_of_lt (by omega), zero_add]
  have hall : ((ps ++ qs).length + g - 1) / g = n + (qs.length + g - 1) / g := by
    rw [List.length_append, hn, Nat.add_assoc, Nat.add_sub_assoc (by omega), add_comm, Nat.add_mul_div_right _ _ hg, add_comm]
  have hfirst : ∀ k ∈ List.range' 0 n, ∀ c, addGroup g c (ps ++ qs) k = addGroup g c ps k := by
    intro k hk c
    have hlt : k * g + g ≤ ps.length := by
      rw [hn, ← Nat.succ_mul]
      exact Nat.mul_le_mul_right g (by simpa [Nat.succ_le_iff] using hk)
    rw [addGroup, addGroup, List.drop_append_of_le_length (by omega), List.take_append_of_le_length (by rw [List.length_drop]; omega)]
  have hsecond : ∀ k c, addGroup g c (ps ++ qs) (n + k) = addGroup g c qs k := by
    intro k c
    rw [addGroup, addGroup, Nat.add_mul, ← hn, List.drop_length_add_append]
  rw [matrixElement_eq, matrixElement_eq, matrixElement_eq, hps, hall, ← List.range'_append_1, List.foldl_append, Nat.zero_add,
    List.foldl_ext _ _ c (fun c k hk => hfirst k hk c), ← Nat.add_zero n, ← List.map_add_range' (a := n), List.foldl_map, Nat.add_zero]
  simp only [hsecond]

/-! ### The product and the sum of a group (R72) -/

theorem FVal.mul_nan {a b : FVal} (h : ∃ sg, a = .nan sg ∨ b = .nan sg) : a.mul b = .nan false := by
  obtain ⟨sg, rfl | rfl⟩ := h
  · rfl
  · cases a <;> rfl

theorem FVal.mul_inf_fin {x : Exact} (hx : 0 < x.den) (h t : Bool) :
    (x.rat = 0 → (FVal.inf h).mul (.fin t x) = .nan false) ∧ (x.rat ≠ 0 → (FVal.inf h).mul (.fin t x) = .inf (h != t)) := by
  rw [ne_eq, ← Exact.isZero_iff hx]
  exact ⟨fun h0 => if_pos h0, fun h0 => if_neg h0⟩

theorem FVal.mul_comm_inf (h t : Bool) (x : Exact) : (FVal.fin t x).mul (.inf h) = (FVal.inf h).mul (.fin t x) := by
  show (if x.isZero then FVal.nan false else .inf (t != h)) = if x.isZero then .nan false else .inf (h != t)
  rw [bne_comm]

/-- What a product adds to the exact sum of its group. -/
def FVal.term (v : FVal) : ℚ := match v with | .fin _ x => x.rat | _ => 0

/-- The exact sum that `groupValue` forms. -/
def sumInto (acc : Exact) (v : FVal) : Exact := match v with | .fin _ x => acc.add x | _ => acc

theorem rat_sumInto (ps : List FVal) (hden : ∀ h x, FVal.fin h x ∈ ps → 0 < x.den) (acc : Exact) (hacc : 0 < acc.den) :
    0 < (ps.foldl sumInto acc).den ∧ (ps.foldl sumInto acc).rat = acc.rat + (ps.map FVal.term).sum := by
  induction ps generalizing acc with
  | nil => exact ⟨hacc, by simp⟩
  | cons v t ih =>
    have htail := ih (fun h x hm => hden h x (List.mem_cons_of_mem _ hm))
    have hstep : 0 < (sumInto acc v).den ∧ (sumInto acc v).rat = acc.rat + v.term := by
      cases v with
      | fin s x =>
        have hx := hden s x List.mem_cons_self
        exact ⟨Exact.den_add_pos hacc hx, Exact.rat_add hacc hx⟩
      | nan sg => exact ⟨hacc, (add_zero _).symm⟩
      | inf s => exact ⟨hacc, (add_zero _).symm⟩
    obtain ⟨hpos, hrat⟩ := htail _ hstep.1
    exact ⟨hpos, by rw [List.foldl_cons, hrat, hstep.2, List.map_cons, List.sum_cons, add_assoc]⟩

section
variable (ps : List FVal)

theorem any_isNan_iff : ps.any FVal.isNan = true ↔ ∃ sg, FVal.nan sg ∈ ps := by
  rw [List.any_eq_true]
  constructor
  · rintro ⟨v, hv, hnan⟩
    cases v with
    | nan sg => exact ⟨sg, hv⟩
    | _ => cases hnan
  · rintro ⟨sg, h⟩
    exact ⟨_, h, rfl⟩

theorem any_isInf_iff (h : Bool) : ps.any (·.isInf h) = true ↔ FVal.inf h ∈ ps := by
  simp [FVal.isInf]

/-- Whether every product of a group is −0. -/
def allMinusZero : Bool := ps.all (fun v => match v with | .fin s x => s && x.isZero | _ => false)

theorem groupValue_eq : groupValue ps =
    if (∃ sg, FVal.nan sg ∈ ps) ∨ (FVal.inf true ∈ ps ∧ FVal.inf false ∈ ps) then 0x7FF8000000000000
    else if FVal.inf true ∈ ps then 0xFFF0000000000000
    else if FVal.inf false ∈ ps then 0x7FF0000000000000
    else if (ps.foldl sumInto (.ofInt 0)).isZero then if allMinusZero ps then 2 ^ 63 else 0
    else (roundTo fmtF64 .rne false (ps.foldl sumInto (.ofInt 0))).1 := by
  have hraw : groupValue ps =
      if ps.any FVal.isNan || (ps.any (·.isInf true) && ps.any (·.isInf false)) then 0x7FF8000000000000
      else if ps.any (·.isInf true) then 0xFFF0000000000000
      else if ps.any (·.isInf false) then 0x7FF0000000000000
      else if (ps.foldl sumInto (.ofInt 0)).isZero then fmtF64.zero (allMinusZero ps)
      else (roundTo fmtF64 .rne false (ps.foldl sumInto (.ofInt 0))).1 := rfl
  have hzero : fmtF64.zero (allMinusZero ps) = if allMinusZero ps then 2 ^ 63 else 0 := by cases allMinusZero ps <;> rfl
  rw [hraw, hzero]
  simp only [Bool.or_eq_true, Bool.and_eq_true, any_isNan_iff, any_isInf_iff]

theorem allMinusZero_iff (hden : ∀ h x, FVal.fin h x ∈ ps → 0 < x.den) :
    allMinusZero ps = true ↔ ∀ v ∈ ps, ∃ x, v = .fin true x ∧ x.rat = 0 := by
  rw [allMinusZero, List.all_eq_true]
  refine forall₂_congr (fun v hv => ?_)
  cases v with
  | fin s x => 
    rw [Bool.and_eq_true, Exact.isZero_iff (hden s x hv)]
    simp
  | nan sg => simp
  | inf s => simp

end

/-- The value of a group in the cases of R72. -/
theorem groupValue_spec {ps : List FVal} (hden : ∀ h x, FVal.fin h x ∈ ps → 0 < x.den) :
    let nan : Prop := (∃ sg, FVal.nan sg ∈ ps) ∨ (FVal.inf true ∈ ps ∧ FVal.inf false ∈ ps)
    let total : ℚ := (ps.map FVal.term).sum
    (nan → groupValue ps = 0x7FF8000000000000) ∧
    (¬nan → FVal.inf true ∈ ps → groupValue ps = 0xFFF0000000000000) ∧
    (¬nan → FVal.inf false ∈ ps → groupValue ps = 0x7FF0000000000000) ∧
    ((∀ v ∈ ps, ∃ h x, v = .fin h x) →
      (total ≠ 0 → ∃ z, 0 < z.den ∧ z.rat = total ∧ groupValue ps = (roundTo fmtF64 .rne false z).1) ∧
      (total = 0 → (∀ v ∈ ps, ∃ x, v = .fin true x ∧ x.rat = 0) → groupValue ps = 2 ^ 63) ∧
      (total = 0 → ¬(∀ v ∈ ps, ∃ x, v = .fin true x ∧ x.rat = 0) → groupValue ps = 0)) := by
  intro nan total
  obtain ⟨hpos, hsum⟩ := rat_sumInto ps hden (.ofInt 0) one_pos
  rw [Exact.rat_ofInt, Int.cast_zero, zero_add] at hsum
  have hzero : (ps.foldl sumInto (.ofInt 0)).isZero = true ↔ total = 0 := by rw [Exact.isZero_iff hpos, hsum]
  rw [groupValue_eq, ← allMinusZero_iff ps hden]
  refine ⟨fun h => if_pos h, fun h hi => ?_, fun h hi => ?_, fun hfin => ?_⟩
  · rw [if_neg h, if_pos hi]
  · rw [if_neg h, if_neg (fun ht => h (.inr ⟨ht, hi⟩)), if_pos hi]
  · have hnan : ∀ sg, FVal.nan sg ∉ ps := fun sg hm => by obtain ⟨_, _, hv⟩ := hfin _ hm; cases hv
    have hinf : ∀ s, FVal.inf s ∉ ps := fun s hm => by obtain ⟨_, _, hv⟩ := hfin _ hm; cases hv
    simp only [hnan, hinf, exists_false, false_and, or_false, if_false, hzero]
    refine ⟨fun h => ⟨_, hpos, hsum, if_neg h⟩, fun h hall => ?_, fun h hall => ?_⟩
    · rw [if_pos h, if_pos hall]
    · rw [if_pos h, if_neg hall]

/-! ### The groups' sizes (R71) -/

/-- The group size of a format that is neither an MX nor a Q4N format. -/
def ownGroup (c : Nat) : Nat := if c = 0 then 2 else if c = 1 then 4 else if c ≤ 3 then 8 else 16

theorem groupSize_table : ∀ a < 17, ∀ b < 17, groupSize a b =
    if (9 ≤ a ∧ a ≤ 13) ∨ (9 ≤ b ∧ b ≤ 13) then 32 else if a = 16 ∨ b = 16 then 64 else min (ownGroup a) (ownGroup b) := by
  decide +kernel

/-- Settles O38: the tree level by level, the scan by its run, the matrix sum group by group. -/
theorem reductionTree : Obligations.ReductionTree := by
  refine ⟨fun op levels x act => ?_, fun op m l j y hact hy => ?_, fun g c ps qs hg => ?_, fun a b => ?_, fun ps _ hden => ?_,
    fun a b ha hb => ?_⟩
  · have h := treeReduce_lanes op levels (x, act) 0
    rw [← List.range_eq_range'] at h
    exact h
  · have hj : j < l.zipIdx.length := by
      rw [← scanFrom_length op m l.zipIdx none]
      exact (List.getElem?_eq_some_iff.mp hy).1
    exact scanFrom_getElem? op m l.zipIdx none j y _ (List.getElem?_eq_getElem hj) (by simpa using hact) hy
  · exact ⟨matrixElement_nil hg c, matrixElement_group c, matrixElement_append hg c qs⟩
  · refine ⟨FVal.mul_nan, fun h t ha hb => ?_, fun h t x hx hab => ?_, fun h t x y ha hb hx hy => ?_⟩
    · rw [ha, hb]
      rfl
    · rcases hab with ⟨rfl, rfl⟩ | ⟨rfl, rfl⟩
      · exact FVal.mul_inf_fin hx h t
      · rw [FVal.mul_comm_inf]
        exact FVal.mul_inf_fin hx h t
    · rw [ha, hb]
      exact ⟨_, rfl, Nat.mul_pos hx hy, Exact.rat_mul x y⟩
  · exact groupValue_spec hden
  · rw [groupSize_table a (by omega) b (by omega)]
    refine ⟨fun h => if_pos h, fun h hq => ?_, fun h hqa hqb => ?_⟩
    · rw [if_neg h, if_pos hq]
    · rw [if_neg h, if_neg (not_or.mpr ⟨hqa, hqb⟩)]
      rfl

end Sys2Proof.Machine
end

section
/-! The bytes of scratch that an MU instruction writes: the runs of a stored row, and what a race keeps (R82, R102, R196, R199). -/

namespace Sys2Proof.Machine

/-! ### Memories that differ in some bytes -/

/-- A memory in canonical form that differs from another at most in the bytes of a set. -/
def Memory.differsIn (m : Memory) (P : Nat → Prop) (m' : Memory) : Prop := m'.wf ∧ ∀ x, ¬P x → m'.byte x = m.byte x

theorem Memory.differsIn_refl {m : Memory} (h : m.wf) (P : Nat → Prop) : m.differsIn P m := ⟨h, fun _ _ => rfl⟩

theorem Memory.differsIn_trans {m m' m'' : Memory} {P : Nat → Prop} (h : m.differsIn P m') (h' : m'.differsIn P m'') :
    m.differsIn P m'' := ⟨h'.1, fun x hx => (h'.2 x hx).trans (h.2 x hx)⟩

theorem Memory.differsIn_mono {m m' : Memory} {P Q : Nat → Prop} (hPQ : ∀ x, P x → Q x) (h : m.differsIn P m') : m.differsIn Q m' :=
  ⟨h.1, fun x hx => h.2 x (fun hp => hx (hPQ x hp))⟩

/-- Steps that each differ in the bytes of a set differ in them together. -/
theorem Memory.differsIn_foldl {α : Type} {P : Nat → Prop} {f : Memory → α → Memory} (l : List α)
    (hf : ∀ m : Memory, m.wf → ∀ a ∈ l, m.differsIn P (f m a)) {m : Memory} (h : m.wf) : m.differsIn P (l.foldl f m) := by
  exact List.foldlRecOn l f (motive := m.differsIn P) (Memory.differsIn_refl h P)
    (fun m' hm' a ha => Memory.differsIn_trans hm' (hf m' hm'.1 a ha))

theorem Memory.differsIn_store {m : Memory} (h : m.wf) (a n v : Nat) (psn : Bool) :
    m.differsIn (fun x => a ≤ x ∧ x < a + n) (m.store a n v psn) :=
  ⟨Memory.wf_store a n v psn h, fun x hx => Memory.byte_store_other v psn (by omega) h⟩

theorem Memory.differsIn_putByte {m : Memory} (h : m.wf) (a : Nat) (b : Byte) : m.differsIn (fun x => x = a) (m.putByte a b) :=
  ⟨Memory.wf_putByte a b h, fun _ hx => Memory.byte_putByte_other b hx h⟩

/-- Poison is in no byte. -/
theorem Memory.differsIn_poisonUnits {m : Memory} (h : m.wf) (l : List Nat) (P : Nat → Prop) :
    m.differsIn P (l.foldl (fun (m : Memory) a => m.poisonUnit a) m) :=
  Memory.differsIn_foldl l (fun _ hm _ _ => ⟨Memory.wf_poisonUnit _ hm, fun _ _ => rfl⟩) h

theorem Memory.byte_poisonUnits (l : List Nat) (m : Memory) (x : Nat) :
    (l.foldl (fun (m : Memory) a => m.poisonUnit a) m).byte x = m.byte x := by
  induction l generalizing m with
  | nil => rfl
  | cons a t ih => exact ih _

/-! ### The bytes that a race keeps (R102, R196) -/

theorem Memory.byte_of_read {m : Memory} {a n k : Nat} (hk : k < n) : BitVec.ofNat 8 (m.read a n / 256 ^ k) = m.byte (a + k) := by
  induction n generalizing a k with
  | zero => omega
  | succ n ih =>
    rw [Memory.read]
    cases k with
    | zero =>
      rw [pow_zero, Nat.div_one, Nat.add_zero]
      apply BitVec.eq_of_toNat_eq
      have := (m.byte a).isLt
      simp
      omega
    | succ k =>
      rw [pow_succ', ← Nat.div_div_eq_div_mul, Nat.add_mul_div_left _ _ (by norm_num), Nat.div_eq_of_lt (m.byte a).isLt, zero_add,
        ih (by omega)]
      congr 1
      omega

/-- A memory in canonical form whose byte is that of one of two others. -/
def Memory.oneOf (old new : Memory) (x : Nat) (m : Memory) : Prop := m.wf ∧ (m.byte x = new.byte x ∨ m.byte x = old.byte x)

theorem Memory.oneOf_putByte {old new m : Memory} {x : Nat} (h : Memory.oneOf old new x m) (a : Nat) :
    Memory.oneOf old new x (m.putByte a (old.byte a)) := by
  refine ⟨Memory.wf_putByte a _ h.1, ?_⟩
  by_cases hx : x = a
  · exact .inr (by rw [hx, Memory.byte_putByte_self _ _ h.1])
  · rw [Memory.byte_putByte_other _ hx h.1]
    exact h.2

theorem Memory.oneOf_putUnit {old new m : Memory} {x : Nat} (h : Memory.oneOf old new x m) (u : Nat) :
    Memory.oneOf old new x (m.putUnit (old.copyUnit u)) := by
  refine ⟨Memory.wf_store u 8 _ _ h.1, ?_⟩
  by_cases hx : u ≤ x ∧ x < u + 8
  · obtain ⟨k, rfl⟩ := Nat.exists_eq_add_of_le hx.1
    exact .inr ((Memory.byte_store_at _ _ (by omega) h.1).trans (Memory.byte_of_read (by omega)))
  · rw [Memory.putUnit, Memory.byte_store_other _ _ (by dsimp only [Memory.copyUnit]; omega) h.1]
    exact h.2

/-- A byte of scratch after a merge is the new one or, where a racing write keeps some, the old one. -/
theorem Race.byte_merge (r : Race) (old : Memory) {new : Memory} (h : new.wf) (x : Nat) :
    (r.merge old new).byte x = new.byte x ∨ (r.kept ≠ [] ∧ (r.merge old new).byte x = old.byte x) := by
  by_cases hk : r.kept = []
  · exact .inl (by rw [Race.merge, hk, List.foldl_nil])
  have hmix : Memory.oneOf old new x (r.merge old new) := by
    refine List.foldlRecOn r.kept _ ⟨h, .inl rfl⟩ (fun m hm e _ => ?_)
    split
    · exact Memory.oneOf_putUnit hm e.1
    · refine List.foldlRecOn (upFrom 0 8) _ hm (fun m hm b _ => ?_)
      split
      · exact Memory.oneOf_putByte hm (e.1 + b)
      · exact hm
  exact hmix.2.imp id (fun ho => ⟨hk, ho⟩)

/-! ### The runs of a stored row (R82, R199) -/

/-- The line of 64 bytes to which Rotate takes a line (R82). -/
def rotateLine (L c : Nat) : Nat := L / 32 * 32 + (L % 32 + c) % 32

theorem rotate_eq (o i k : Nat) : rotate o i k = rotateLine (o / 64) (i * k) * 64 + o % 64 := by
  unfold rotate rotateLine
  generalize i * k = c
  dsimp only
  omega

theorem rotateLine_inj {L L' c : Nat} (h : rotateLine L c = rotateLine L' c) : L = L' := by
  unfold rotateLine at h
  omega

/-- Where a stored row begins before Rotate (R199). -/
def tdStart (t : Td) (row : Nat) : Nat := tdBase t + row / 64 * tdTilePitch t + row % 64 * tdRowPitch t

/-- A run of a stored row from a byte on: its bytes lie in one line. -/
theorem mem_rowRuns {t : Td} {row beta n fuel : Nat} {y : Nat × Nat × Nat} (h : y ∈ rowRuns t row beta n fuel) :
    beta ≤ y.2.1 ∧ y.2.1 < n ∧ y.1 = rotate (tdStart t row + y.2.1) (row % 64) (tdRot t) ∧
      (tdStart t row + y.2.1) % 64 + y.2.2 ≤ 64 := by
  induction fuel generalizing beta with
  | zero => cases h
  | succ f ih =>
    unfold rowRuns at h
    split at h
    · cases h
    · rcases List.mem_cons.mp h with rfl | h
      · exact ⟨le_rfl, not_le.mp ‹_›, rfl, by dsimp only [tdStart]; omega⟩
      · obtain ⟨h1, h2⟩ := ih h
        exact ⟨by omega, h2⟩

/-- The line of a byte of a run. -/
theorem line_of_run {t : Td} {row beta n fuel x : Nat} {y : Nat × Nat × Nat} (h : y ∈ rowRuns t row beta n fuel)
    (hx : y.1 ≤ x ∧ x < y.1 + y.2.2) : x / 64 = rotateLine ((tdStart t row + y.2.1) / 64) (row % 64 * tdRot t) := by
  obtain ⟨-, -, hat, hlen⟩ := mem_rowRuns h
  rw [rotate_eq] at hat
  omega

/-- No byte is in both of two runs. -/
def runsApart (y z : Nat × Nat × Nat) : Prop := ∀ x, y.1 ≤ x ∧ x < y.1 + y.2.2 → ¬(z.1 ≤ x ∧ x < z.1 + z.2.2)

/-- The runs of a stored row lie in lines of their own, which Rotate keeps apart (R82, R199). -/
theorem rowRuns_apart (t : Td) (row beta n fuel : Nat) : (rowRuns t row beta n fuel).Pairwise runsApart := by
  induction fuel generalizing beta with
  | zero => exact List.Pairwise.nil
  | succ f ih =>
    by_cases hn : n ≤ beta
    · rw [rowRuns, if_pos hn]
      exact List.Pairwise.nil
    · have hhead : (rotate (tdStart t row + beta) (row % 64) (tdRot t), beta, min (n - beta) (64 - (tdStart t row + beta) % 64))
          ∈ rowRuns t row beta n (f + 1) := by
        rw [rowRuns, if_neg hn]
        exact List.mem_cons_self
      rw [rowRuns, if_neg hn]
      refine List.Pairwise.cons (fun z hz x hx hxz => ?_) (ih _)
      obtain ⟨hlow, hup, -⟩ := mem_rowRuns hz
      have hline := rotateLine_inj ((line_of_run hhead hx).symm.trans (line_of_run hz hxz))
      dsimp only at hline
      unfold tdStart at hline
      omega

/-! ### A number stored in the runs of a row -/

/-- The bytes of a number stored in runs, each from its own first byte on. -/
def Memory.storeRuns (m : Memory) (key v : Nat) (l : List (Nat × Nat × Nat)) : Memory :=
  l.foldl (fun (m : Memory) x => m.store (key + x.1) x.2.2 (v / 256 ^ x.2.1) false) m

/-- The addresses of some runs. -/
def inRuns (key : Nat) (l : List (Nat × Nat × Nat)) (x : Nat) : Prop := ∃ y ∈ l, key + y.1 ≤ x ∧ x < key + y.1 + y.2.2

theorem Memory.storeRuns_differsIn {m : Memory} (h : m.wf) (key v : Nat) (l : List (Nat × Nat × Nat)) :
    m.differsIn (inRuns key l) (m.storeRuns key v l) :=
  Memory.differsIn_foldl l (fun _ hm y hy => Memory.differsIn_mono (fun _ hx => ⟨y, hy, hx⟩) (Memory.differsIn_store hm _ _ _ _)) h

theorem Memory.storeRuns_byte {m : Memory} (h : m.wf) (key v : Nat) {l : List (Nat × Nat × Nat)} (hl : l.Pairwise runsApart)
    {y : Nat × Nat × Nat} (hy : y ∈ l) {k : Nat} (hk : k < y.2.2) :
    (m.storeRuns key v l).byte (key + y.1 + k) = BitVec.ofNat 8 (v / 256 ^ (y.2.1 + k)) := by
  induction l generalizing m with
  | nil => cases hy
  | cons a t ih =>
    obtain ⟨hat, ht⟩ := List.pairwise_cons.mp hl
    have hw := Memory.wf_store (key + a.1) a.2.2 (v / 256 ^ a.2.1) false h
    rcases List.mem_cons.mp hy with rfl | hy
    · refine ((Memory.storeRuns_differsIn hw key v t).2 _ ?_).trans ?_
      · rintro ⟨z, hz, hx⟩
        exact hat z hz (y.1 + k) (by omega) (by omega)
      · rw [Memory.byte_store_at _ _ hk h, Nat.div_div_eq_div_mul, ← pow_add]
    · exact ih hw ht hy

end Sys2Proof.Machine
end

section
/-! Accumulator tiles (R193, R203, R205, R206): what is read after a tile has been written. -/

namespace Sys2Proof.Machine

/-! ### Packed elements (R56) -/

theorem packedAt_packBits (w : Nat) (l : List Nat) (k : Nat) : packedAt w (packBits w l) k = l.getD k 0 % 2 ^ w := by
  induction l generalizing k with
  | nil => simp [packedAt, packBits]
  | cons x t ih =>
    have hcons : packBits w (x :: t) = x % 2 ^ w + 2 ^ w * packBits w t := rfl
    have hlt : x % 2 ^ w < 2 ^ w := Nat.mod_lt _ (by positivity)
    cases k with
    | zero => simp [packedAt, hcons]
    | succ k =>
      rw [packedAt, hcons, Nat.mul_succ, add_comm (w * k), pow_add, ← Nat.div_div_eq_div_mul,
        Nat.add_mul_div_left _ _ (by positivity), Nat.div_eq_of_lt hlt, zero_add]
      exact ih k

theorem packedAt_ofNat {n j w : Nat} (h : w * j + w ≤ n) (v : Nat) : packedAt w (BitVec.ofNat n v).toNat j = packedAt w v j := by
  unfold packedAt
  rw [BitVec.toNat_ofNat, ← Nat.mod_mul_right_div_self, ← Nat.mod_mul_right_div_self, ← pow_add,
    Nat.mod_mod_of_dvd _ (pow_dvd_pow 2 h)]

/-! ### Lists keyed by numbers -/

theorem keyed_dropKeyed_self {α : Type} (l : List (Nat × α)) (k : Nat) : keyed (dropKeyed l k) k = none := by
  unfold dropKeyed
  induction l with
  | nil => rfl
  | cons a t ih =>
    rw [List.filter_cons]
    split
    case isTrue h => rw [keyed, if_neg (by simpa using h), ih]
    case isFalse => exact ih

theorem keyed_dropKeyed_other {α : Type} (l : List (Nat × α)) {k j : Nat} (h : j ≠ k) : keyed (dropKeyed l k) j = keyed l j := by
  unfold dropKeyed
  induction l with
  | nil => rfl
  | cons a t ih =>
    rw [List.filter_cons]
    split
    case isTrue => rw [keyed, keyed, ih]
    case isFalse hk =>
      rw [keyed, if_neg (by simp at hk; omega), ih]

/-! ### Tiles -/

/-- A row of a tile put into the list of rows, where a row of zeros is not listed. -/
def putRow (key : Nat → Nat) (row : Nat → BitVec 4096) (l : List (Nat × BitVec 4096)) (i : Nat) : List (Nat × BitVec 4096) :=
  if row i = 0 then dropKeyed l (key i) else putKeyed l (key i) (row i)

theorem keyed_putRow_self (key : Nat → Nat) (row : Nat → BitVec 4096) (l : List (Nat × BitVec 4096)) (i : Nat) :
    (keyed (putRow key row l i) (key i)).getD 0 = row i := by
  unfold putRow
  split
  case isTrue h => rw [keyed_dropKeyed_self, h]; rfl
  case isFalse => rw [keyed_putKeyed_self]; rfl

theorem keyed_putRow_other (key : Nat → Nat) (row : Nat → BitVec 4096) (l : List (Nat × BitVec 4096)) {i k : Nat} (h : k ≠ key i) :
    keyed (putRow key row l i) k = keyed l k := by
  unfold putRow
  split
  · exact keyed_dropKeyed_other l h
  · exact keyed_putKeyed_other l _ h

theorem keyed_putRows {key : Nat → Nat} (hkey : Function.Injective key) (row : Nat → BitVec 4096) (is : List Nat)
    (l : List (Nat × BitVec 4096)) {i : Nat} (hi : i ∈ is) : (keyed (is.foldl (putRow key row) l) (key i)).getD 0 = row i := by
  induction is using List.reverseRecOn generalizing l with
  | nil => cases hi
  | append_singleton t j ih =>
    rw [List.foldl_append, List.foldl_cons, List.foldl_nil]
    by_cases h : i = j
    · rw [h, keyed_putRow_self]
    · rw [keyed_putRow_other _ _ _ (fun hk => h (hkey hk))]
      exact ih l (by simpa [h] using hi)

section
variable (s : State) (site acc : Nat)

theorem tileKey_injective : Function.Injective (tileKey site acc) := fun _ _ h => Nat.add_left_cancel h

theorem State.tileRow_putTile (row : Nat → BitVec 4096) {i : Nat} (hi : i < 64) : (s.putTile site acc row).tileRow site acc i = row i :=
  keyed_putRows (tileKey_injective site acc) row _ s.tiles (mem_upFrom_iff.mpr ⟨Nat.zero_le i, by omega⟩)

theorem State.tileAt_putTile (row : Nat → Nat) {i j : Nat} (hi : i < 64) (hj : j < 64) :
    (s.putTile site acc (fun i => BitVec.ofNat 4096 (row i))).tileAt site acc i j = packedAt 64 (row i) j := by
  rw [State.tileAt, State.tileRow_putTile _ _ _ _ hi, packedAt_ofNat (by omega)]

theorem State.tileBad_cleanTile {i j : Nat} (hi : i < 64) (hj : j < 64) : (s.cleanTile site acc).tileBad site acc i j = false := by
  have hkey : (tileKey site acc i * 64 + j) / 64 / 64 = site * 4 + acc := by
    unfold tileKey
    omega
  simp [State.tileBad, State.cleanTile, hkey]

end

end Sys2Proof.Machine
end

section
/-! MU_PERFORM of `mzero`, `mld`, `mma` and `mma.sp` (R195, R196, R203, R205, R206). -/

namespace Sys2Proof.Machine

/-! ### The first MU instruction of a cell -/

theorem State.muHead_mem {s : State} {site : Nat} {o : Op} {m : Mu} (h : s.muHead site = some (o, m)) :
    o.site = site ∧ o.kind = .mu m ∧ o ∈ s.ops := by
  obtain ⟨x, hx, hsome⟩ := List.mem_filterMap.mp (leastBy_mem h)
  split at hsome
  case isTrue hs =>
    obtain ⟨n, hn, hpair⟩ := Option.map_eq_some_iff.mp hsome
    obtain ⟨rfl, rfl⟩ := Prod.mk.inj hpair
    refine ⟨by simpa using hs, ?_, hx⟩
    unfold Op.mu at hn
    split at hn
    · rename_i hk
      rw [hk, Option.some.inj hn]
    · cases hn
  case isFalse => cases hsome

/-- The first MU instruction of a cell, not performed, held or stopped: what MU_PERFORM finds (R195). -/
structure State.muReady (s : State) (site : Nat) (o : Op) (m : Mu) : Prop where
  head : s.muHead site = some (o, m)
  op : s.op o.id = some o
  performed : m.performed = false
  held : o.heldOp = none
  drained : s.drained o.key.ctx = false

section
variable {s : State} {site : Nat} {o : Op} {m : Mu} (h : s.muReady site o m)

include h in
theorem State.muReady.exec_muPerform : Sys2Proof.Machine.exec (.muPerform site) s = .next (s.muStep o m) := by
  show execMuPerform site s = _
  simp [execMuPerform, h.head, h.performed, h.held, h.drained]

include h in
theorem State.muReady.kind : o.kind = .mu m := (State.muHead_mem h.head).2.1

theorem State.op_updateMu {t : State} (hop : t.op o.id = some o) (hk : o.kind = .mu m) (f : Mu → Mu) :
    (t.updateMu o.id f).op o.id = some { o with kind := .mu (f m) } := by
  refine (State.op_updateOp hop ?_).trans ?_
  · exact fun _ => rfl
  · rw [hk]

theorem State.op_muDone {t : State} (hop : t.op o.id = some o) (hk : o.kind = .mu m) (fl : BitVec 5) :
    (t.muDone o.id fl).op o.id = some { o with kind := .mu { m with performed := true, flags := m.flags ||| fl } } :=
  State.op_updateMu hop hk _

/-- An operation that stands as an MU instruction performed. -/
def State.finishedMu (u : State) (id : Nat) : Prop := ∃ n, (u.op id).map (·.kind) = some (.mu n) ∧ n.performed = true

theorem State.finishedMu_muDone {t : State} (hop : t.op o.id = some o) (hk : o.kind = .mu m) (fl : BitVec 5) :
    (t.muDone o.id fl).finishedMu o.id :=
  ⟨{ m with performed := true, flags := m.flags ||| fl }, by rw [State.op_muDone hop hk]; rfl, rfl⟩

/-- `t` is `s` but for its operations and its tiles. -/
def State.onlyTiles (s t : State) : Prop := { t with ops := s.ops, tiles := s.tiles, tilePoison := s.tilePoison } = s

theorem State.onlyTiles_trans {s t u : State} (hst : s.onlyTiles t) (htu : t.onlyTiles u) : s.onlyTiles u := by
  unfold State.onlyTiles at hst
  rw [← htu] at hst
  exact hst

theorem State.onlyTiles_putTile (t : State) (site acc : Nat) (row : Nat → BitVec 4096) : t.onlyTiles (t.putTile site acc row) := rfl

theorem State.onlyTiles_cleanTile (t : State) (site acc : Nat) : t.onlyTiles (t.cleanTile site acc) := rfl

theorem State.onlyTiles_muDone (t : State) (id : Nat) (fl : BitVec 5) : t.onlyTiles (t.muDone id fl) := rfl

/-- A state with another scratch. -/
def State.withScratch (t : State) (x : Memory) : State := { t with scratch := x }

theorem State.finishedMu_withScratch {u : State} {id : Nat} (hu : u.finishedMu id) (x : Memory) : (u.withScratch x).finishedMu id := hu

theorem State.tileAt_withScratch (t : State) (x : Memory) (site acc i j : Nat) :
    (t.withScratch x).tileAt site acc i j = t.tileAt site acc i j := rfl

/-- What an MU instruction makes of the cell as it finds it, with scratch as it was. -/
theorem State.onlyTiles_seenBy {t : State} (ht : (s.seenBy m).onlyTiles t) : s.onlyTiles (t.withScratch s.scratch) :=
  (congrArg (fun x : State => { x with scratch := s.scratch }) ht :)

/-! ### Tiles cleared and loaded -/

/-- A tile written anew, without poison, by an instruction that is then performed. -/
def State.newTile (t : State) (o : Op) (acc : Nat) (row : Nat → BitVec 4096) : State :=
  ((t.putTile o.site acc row).cleanTile o.site acc).muDone o.id 0

theorem State.newTile_spec {t : State} (hop : t.op o.id = some o) (hk : o.kind = .mu m) (acc : Nat) (row : Nat → BitVec 4096) :
    (t.newTile o acc row).finishedMu o.id ∧ t.onlyTiles (t.newTile o acc row) ∧ ∀ i j, i < 64 → j < 64 →
      (t.newTile o acc row).tileAt o.site acc i j = packedAt 64 (row i).toNat j ∧
      (t.newTile o acc row).tileBad o.site acc i j = false := by
  have hput := t.onlyTiles_putTile o.site acc row
  have hrow := fun i => State.tileRow_putTile t o.site acc row (i := i)
  have hop' : (t.putTile o.site acc row).op o.id = some o := hop
  unfold State.newTile
  generalize t.putTile o.site acc row = p at *
  have hclean := p.onlyTiles_cleanTile o.site acc
  have hbad := fun i j => p.tileBad_cleanTile o.site acc (i := i) (j := j)
  have hrow' := fun i => (show (p.cleanTile o.site acc).tileRow o.site acc i = p.tileRow o.site acc i from rfl)
  have hop'' : (p.cleanTile o.site acc).op o.id = some o := hop'
  generalize p.cleanTile o.site acc = q at *
  refine ⟨State.finishedMu_muDone hop'' hk 0, State.onlyTiles_trans (State.onlyTiles_trans hput hclean) (q.onlyTiles_muDone o.id 0),
    fun i j hi hj => ⟨?_, hbad i j hi hj⟩⟩
  show packedAt 64 (q.tileRow o.site acc i).toNat j = _
  rw [hrow', hrow i hi]

include h in
theorem muPerform_zero (hc : m.cmd = .zero) : ∃ u, Sys2Proof.Machine.exec (.muPerform site) s = .next u ∧ u.finishedMu o.id ∧
    s.onlyTiles u ∧ ∀ i j, i < 64 → j < 64 → u.tileAt o.site m.acc i j = 0 ∧ u.tileBad o.site m.acc i j = false := by
  have hstep : s.muStep o m = s.newTile o m.acc (fun _ => 0) := by
    rw [State.muStep, hc]
    rfl
  obtain ⟨hfin, honly, htile⟩ := State.newTile_spec h.op h.kind m.acc (fun _ => 0)
  refine ⟨_, by rw [h.exec_muPerform, hstep], hfin, honly, fun i j hi hj => ⟨?_, (htile i j hi hj).2⟩⟩
  have hzero : (0 : BitVec 4096).toNat = 0 := BitVec.toNat_zero
  rw [(htile i j hi hj).1, hzero, packedAt, Nat.zero_div, Nat.zero_mod]

/-- The rows of scratch of which `mld` makes a tile (R199, R206). -/
def State.storedRows (t : State) (key : Nat) (a : Td) : List Nat := (upFrom 0 64).map (fun r => t.readRow key a r 512)

/-- Row i of the tile that `mld` makes of them (R206). -/
def State.loadedRow (t : State) (key : Nat) (a : Td) (i : Nat) : Nat :=
  if tdDown a then packBits 64 ((upFrom 0 64).map (fun j => packedAt 64 ((t.storedRows key a).getD j 0) i))
  else (t.storedRows key a).getD i 0

theorem State.packedAt_loadedRow (t : State) (key : Nat) (a : Td) {i j : Nat} (hi : i < 64) (hj : j < 64) :
    packedAt 64 (t.loadedRow key a i) j
      = if tdDown a then packedAt 64 (t.readRow key a j 512) i else packedAt 64 (t.readRow key a i 512) j := by
  have hrows {r : Nat} (hr : r < 64) : (t.storedRows key a).getD r 0 = t.readRow key a r 512 := getD_map_upFrom _ _ hr
  unfold State.loadedRow
  split
  · rw [packedAt_packBits, getD_map_upFrom _ _ hj, hrows hj]
    exact Nat.mod_eq_of_lt (Nat.mod_lt _ (by norm_num))
  · rw [hrows hi]

include h in
theorem muPerform_load (hc : m.cmd = .ld) :
    let key := scratchKey o.site o.key.ctx 0
    let a : Td := (m.a0, m.a1)
    let v := s.seenBy m
    v.poisonedByte key (tileRuns a 64) = none → ∃ u, Sys2Proof.Machine.exec (.muPerform site) s = .next u ∧ u.finishedMu o.id ∧
      s.onlyTiles u ∧ ∀ i j, i < 64 → j < 64 → u.tileAt o.site m.acc i j
        = (if tdDown a then packedAt 64 (v.readRow key a j 512) i else packedAt 64 (v.readRow key a i 512) j) ∧
      u.tileBad o.site m.acc i j = false := by
  intro key a v hclean
  have hstep : s.muStep o m = (v.newTile o m.acc (fun i => BitVec.ofNat 4096 (v.loadedRow key a i))).withScratch s.scratch := by
    simp only [State.muStep, hc, State.muLoad]
    rw [hclean]
    rfl
  have hop : v.op o.id = some o := h.op
  obtain ⟨hfin, honly, htile⟩ := State.newTile_spec hop h.kind m.acc (fun i => BitVec.ofNat 4096 (v.loadedRow key a i))
  refine ⟨_, by rw [h.exec_muPerform, hstep], State.finishedMu_withScratch hfin _, State.onlyTiles_seenBy honly,
    fun i j hi hj => ⟨?_, (htile i j hi hj).2⟩⟩
  rw [State.tileAt_withScratch, (htile i j hi hj).1, packedAt_ofNat (by omega)]
  exact v.packedAt_loadedRow key a hi hj

/-! ### Products (R73, R205) -/

theorem State.length_operandRows (t : State) (key : Nat) (d : Td) : (t.operandRows key d).length = 64 := by
  simp [State.operandRows, upFrom_eq_range']

theorem State.tileAt_product (t : State) (site key : Nat) (m : Mu) {i j : Nat} (hi : i < 64) (hj : j < 64) :
    (t.product site key m).tileAt site m.acc i j
      = matrixElement (groupSize (tdFmt (m.a0, m.a1)) (tdFmt (m.b0, m.b1))) (t.tileAt site m.acc i j)
          (List.zipWith FVal.mul ((t.operandRows key (m.a0, m.a1)).getD i []) ((t.operandRows key (m.b0, m.b1)).getD j [])) % 2 ^ 64 := by
  have hlen : j < (t.operandRows key (m.b0, m.b1)).length := by rw [State.length_operandRows]; exact hj
  rw [State.product, State.tileAt_putTile _ _ _ _ hi hj, packedAt_packBits, List.getD_eq_getElem _ _ (by simpa using hlen),
    List.getElem_map, List.getElem_zipIdx, List.getD_eq_getElem _ _ hlen, Nat.zero_add]

theorem State.op_putTile (t : State) (site acc : Nat) (row : Nat → BitVec 4096) (id : Nat) :
    (t.putTile site acc row).op id = t.op id := rfl

theorem State.op_product (t : State) (site key : Nat) (m : Mu) (id : Nat) : (t.product site key m).op id = t.op id := by
  rw [State.product, State.op_putTile]

theorem State.muProduct_spec {t : State} (hop : t.op o.id = some o) (hk : o.kind = .mu m) (key : Nat) :
    ((t.product o.site key m).muDone o.id 0).finishedMu o.id ∧ t.onlyTiles ((t.product o.site key m).muDone o.id 0) ∧
      ∀ acc i j, ((t.product o.site key m).muDone o.id 0).tileAt o.site acc i j = (t.product o.site key m).tileAt o.site acc i j := by
  have hput : t.onlyTiles (t.product o.site key m) := State.onlyTiles_putTile _ _ _ _
  have hop' : (t.product o.site key m).op o.id = some o := (t.op_product o.site key m o.id).trans hop
  generalize t.product o.site key m = p at *
  exact ⟨State.finishedMu_muDone hop' hk 0, State.onlyTiles_trans hput (p.onlyTiles_muDone o.id 0), fun _ _ _ => rfl⟩

include h in
theorem muPerform_product (hc : m.cmd = .mma ∨ m.cmd = .mmaSp) :
    let key := scratchKey o.site o.key.ctx 0
    let a : Td := (m.a0, m.a1)
    let b : Td := (m.b0, m.b1)
    let v := s.seenBy m
    v.badMask key a b = none → v.poisonedByte key (operandRuns a ++ operandRuns b) = none →
      ∃ u, Sys2Proof.Machine.exec (.muPerform site) s = .next u ∧ u.finishedMu o.id ∧ s.onlyTiles u ∧ ∀ i j, i < 64 → j < 64 →
        u.tileAt o.site m.acc i j = matrixElement (groupSize (tdFmt a) (tdFmt b)) (s.tileAt o.site m.acc i j)
          (List.zipWith FVal.mul ((v.operandRows key a).getD i []) ((v.operandRows key b).getD j [])) % 2 ^ 64 := by
  intro key a b v hmask hclean
  have hstep : s.muStep o m = ((v.product o.site key m).muDone o.id 0).withScratch s.scratch := by
    rcases hc with hc | hc <;>
    · simp only [State.muStep, hc, State.muProduct]
      rw [hmask, hclean]
      rfl
  have hop : v.op o.id = some o := h.op
  obtain ⟨hfin, honly, htile⟩ := State.muProduct_spec hop h.kind key
  refine ⟨_, by rw [h.exec_muPerform, hstep], State.finishedMu_withScratch hfin _, State.onlyTiles_seenBy honly,
    fun i j hi hj => ?_⟩
  rw [State.tileAt_withScratch, htile]
  exact State.tileAt_product v o.site key m hi hj

/-- The operand that a held position mask names: A, unless A's own mask there is right. -/
theorem State.badMask_at {t : State} {key : Nat} {a b : Td} {r q side x y z : Nat}
    (hm : (match t.wrongMask key a r q, t.wrongMask key b r q with
      | some m, _ => some (0, r, q, m)
      | none, some m => some (1, r, q, m)
      | none, none => none) = some (side, x, y, z)) :
    x = r ∧ y = q ∧ t.wrongMask key (if side = 0 then a else b) r q = some z ∧ (side ≠ 0 → t.wrongMask key a r q = none) := by
  cases ha : t.wrongMask key a r q with
  | some k =>
    obtain ⟨rfl, rfl, rfl, rfl⟩ : 0 = side ∧ r = x ∧ q = y ∧ k = z := by simpa [ha] using hm
    exact ⟨rfl, rfl, ha, fun hne => absurd rfl hne⟩
  | none =>
    cases hb : t.wrongMask key b r q with
    | some k =>
      obtain ⟨rfl, rfl, rfl, rfl⟩ : 1 = side ∧ r = x ∧ q = y ∧ k = z := by simpa [ha, hb] using hm
      exact ⟨rfl, rfl, hb, fun _ => rfl⟩
    | none => simp [ha, hb] at hm

theorem State.wrongMask_beyond (t : State) (key : Nat) (d : Td) (r : Nat) {q : Nat} (hq : tdK d / 24 ≤ q) :
    t.wrongMask key d r q = none := by
  simp [State.wrongMask, hq]

/-- What is found first in a range is found nowhere below. -/
theorem findSome?_upFrom {α : Type} {f : Nat → Option α} {lo n : Nat} {x : α} (hf : (upFrom lo n).findSome? f = some x) :
    ∃ k, f k = some x ∧ ∀ j, lo ≤ j → j < k → f j = none := by
  induction n generalizing lo with
  | zero => cases hf
  | succ n ih =>
    rw [upFrom, List.findSome?_cons] at hf
    split at hf
    case h_1 y hy => exact ⟨lo, hy.trans hf, fun j _ _ => by omega⟩
    case h_2 hnone =>
      obtain ⟨k, hk, hbelow⟩ := ih hf
      refine ⟨k, hk, fun j hlo hj => ?_⟩
      rcases Nat.eq_or_lt_of_le hlo with rfl | hlt
      · exact hnone
      · exact hbelow j hlt hj

theorem findSome?_upFrom_none {α : Type} {f : Nat → Option α} {n q : Nat} (hf : (upFrom 0 n).findSome? f = none) (hq : q < n) :
    f q = none :=
  List.findSome?_eq_none_iff.mp hf q (mem_upFrom_iff.mpr ⟨Nat.zero_le q, by omega⟩)

/-- No position mask of either operand is wrong at a place where none is found. -/
theorem State.wrongMask_of_badMask_none {t : State} {key : Nat} {a b : Td} {r q : Nat}
    (hm : (match t.wrongMask key a r q, t.wrongMask key b r q with
      | some m, _ => some (0, r, q, m)
      | none, some m => some (1, r, q, m)
      | none, none => (none : Option (Nat × Nat × Nat × Nat))) = none) :
    t.wrongMask key a r q = none ∧ t.wrongMask key b r q = none := by
  split at hm
  case h_1 => cases hm
  case h_2 => cases hm
  case h_3 ha hb => exact ⟨ha, hb⟩

/-- The position mask at which a product is held is wrong, and none below it is (R205). -/
theorem State.badMask_lowest {t : State} {key : Nat} {a b : Td} {side r q k : Nat} (hb : t.badMask key a b = some (side, r, q, k)) :
    t.wrongMask key (if side = 0 then a else b) r q = some k ∧
      (∀ r' q', r' < r ∨ r' = r ∧ q' < q → t.wrongMask key a r' q' = none ∧ t.wrongMask key b r' q' = none) ∧
      (side ≠ 0 → t.wrongMask key a r q = none) := by
  obtain ⟨r₀, hrow, hrows⟩ := findSome?_upFrom hb
  obtain ⟨q₀, hat, hbelow⟩ := findSome?_upFrom hrow
  obtain ⟨rfl, rfl, hwrong, hside⟩ := State.badMask_at hat
  refine ⟨hwrong, fun r' q' hlt => ?_, hside⟩
  rcases hlt with hr | ⟨rfl, hq⟩
  · by_cases hq : q' < max (tdK a) (tdK b) / 24
    · exact State.wrongMask_of_badMask_none (findSome?_upFrom_none (hrows r' (Nat.zero_le _) hr) hq)
    · exact ⟨State.wrongMask_beyond t key a r' (by omega), State.wrongMask_beyond t key b r' (by omega)⟩
  · exact State.wrongMask_of_badMask_none (hbelow q' (Nat.zero_le _) hq)

section
variable (hc : m.cmd = .mma ∨ m.cmd = .mmaSp)

include h hc in
theorem muPerform_badMask {side r q k : Nat} :
    let key := scratchKey o.site o.key.ctx 0
    let v := s.seenBy m
    v.badMask key (m.a0, m.a1) (m.b0, m.b1) = some (side, r, q, k) →
      Sys2Proof.Machine.exec (.muPerform site) s =
        .next { v.muHold o .sparseMask (maskDetail side r q) (BitVec.ofNat 64 k) 0 with scratch := s.scratch } := by
  intro key v hmask
  rw [h.exec_muPerform]
  rcases hc with hc | hc <;>
  · simp only [State.muStep, hc, State.muProduct]
    rw [hmask]

include h hc in
theorem muPerform_poisonedProduct {x : Nat} :
    let key := scratchKey o.site o.key.ctx 0
    let a : Td := (m.a0, m.a1)
    let b : Td := (m.b0, m.b1)
    let v := s.seenBy m
    v.badMask key a b = none → v.poisonedByte key (operandRuns a ++ operandRuns b) = some x →
      Sys2Proof.Machine.exec (.muPerform site) s = .next { v.muHold o .poisonConsumed 0 0 x with scratch := s.scratch } := by
  intro key a b v hmask hpoison
  rw [h.exec_muPerform]
  rcases hc with hc | hc <;>
  · simp only [State.muStep, hc, State.muProduct]
    rw [hmask, hpoison]

end

end

end Sys2Proof.Machine
end

section
/-! Readouts to scratch (R206, R207): the bytes of a stored row and of its scales, row by row, and what `mst` and `mrd` write. -/

namespace Sys2Proof.Machine

/-! ### What the last of several rows leaves -/

theorem upFrom_succ_last (n : Nat) : upFrom 0 (n + 1) = upFrom 0 n ++ [n] := by
  rw [upFrom_eq_range', upFrom_eq_range', List.range'_1_concat, Nat.zero_add]

/-- A byte that one of several rows writes and none after it. -/
theorem Memory.byte_foldl_last {f : Memory → Nat → Memory} {P : Nat → Nat → Prop}
    (hf : ∀ (m : Memory) row, m.wf → m.differsIn (P row) (f m row)) {n row x : Nat} {v : Byte} (hrow : row < n)
    (hval : ∀ m, m.wf → (f m row).byte x = v) (hlater : ∀ later, row < later → later < n → ¬P later x) {m : Memory} (hm : m.wf) :
    ((upFrom 0 n).foldl f m).byte x = v := by
  induction n with
  | zero => omega
  | succ n ih =>
    have hwf : ((upFrom 0 n).foldl f m).wf := List.foldlRecOn _ f hm (fun m' hm' a _ => (hf m' a hm').1)
    rw [upFrom_succ_last, List.foldl_append, List.foldl_cons, List.foldl_nil]
    rcases Nat.lt_succ_iff_lt_or_eq.mp hrow with hlt | rfl
    · rw [(hf _ n hwf).2 x (hlater n hlt (Nat.lt_succ_self n))]
      exact ih hlt (fun later h h' => hlater later h (by omega))
    · exact hval _ hwf

/-! ### Blocks -/

theorem quantiseMX_scale_lt (x : NarrowFmt) (r : Round) (sat : Bool) (l : List FVal) : (quantiseMX x r sat l).1 < 256 := by
  unfold quantiseMX
  split
  · norm_num
  · dsimp only
    omega

theorem quantiseMX_codes_length (x : NarrowFmt) (r : Round) (sat : Bool) (l : List FVal) :
    (quantiseMX x r sat l).2.1.length = l.length := by
  unfold quantiseMX
  split <;> simp

/-- The codes of two blocks, element by element. -/
theorem map_blockCode {block : Nat → List Nat} (hlen : ∀ b, (block b).length = 32) :
    (upFrom 0 64).map (fun e => (block (e / 32)).getD (e % 32) 0) = block 0 ++ block 1 := by
  have h0 := hlen 0
  have h1 := hlen 1
  refine List.ext_getElem (by simp [upFrom_eq_range', h0, h1]) (fun i hi _ => ?_)
  have hi : i < 64 := by simpa [upFrom_eq_range'] using hi
  simp only [upFrom_eq_range', List.getElem_map, List.getElem_range', Nat.zero_add, Nat.one_mul]
  by_cases hlt : i < 32
  · rw [List.getElem_append_left (by omega), Nat.div_eq_of_lt hlt, Nat.mod_eq_of_lt hlt, List.getD_eq_getElem]
  · have hq : i / 32 = 1 := by omega
    have hr : i % 32 = i - (block 0).length := by omega
    rw [List.getElem_append_right (by omega), hq, hr, List.getD_eq_getElem]

/-- The two bytes of a pair of scales. -/
theorem byte_scales {x y : Nat} (hx : x < 256) :
    BitVec.ofNat 8 (x + 256 * y) = BitVec.ofNat 8 x ∧ BitVec.ofNat 8 ((x + 256 * y) / 256) = BitVec.ofNat 8 y := by
  constructor
  · apply BitVec.eq_of_toNat_eq
    simp
  · rw [Nat.add_mul_div_left _ _ (by norm_num), Nat.div_eq_of_lt hx, Nat.zero_add]

/-! ### One stored row -/

/-- Block b of a row of elements, quantised (R182, R207). -/
def readoutQuant (t : Td) (src : FFmt) (r : Round) (sat : Bool) (el : Nat → Nat) (b : Nat) : Nat × List Nat × BitVec 5 :=
  quantiseMX (mxElement (tdFmt t)) r sat ((upFrom (32 * b) 32).map (fun e => src.decode (el e)))

/-- The code of an element of a row as a readout stores it (R207). -/
def readoutCode (t : Td) (src : FFmt) (r : Round) (sat : Bool) (el : Nat → Nat) (e : Nat) : Nat :=
  if fmtIsMx (tdFmt t) then (readoutQuant t src r sat el (e / 32)).2.1.getD (e % 32) 0
  else (readoutElement src (tdFmt t) r sat (el e)).1

/-- A stored row as a number (R199, R207). -/
def readoutNumber (t : Td) (src : FFmt) (r : Round) (sat : Bool) (el : Nat → Nat) : Nat :=
  packBits (fmtWidth (tdFmt t)) ((upFrom 0 64).map (readoutCode t src r sat el))

/-- The runs of a stored row of a readout. -/
def readoutRow (t : Td) (row : Nat) : List (Nat × Nat × Nat) := rowOf t row (rowBytes 64 (fmtWidth (tdFmt t)))

/-- Where the scales of a stored row stand (R200). -/
def scaleAt (key : Nat) (t : Td) (row : Nat) : Nat := key + tdScale t + row * tdScalePitch t

/-- The bytes of the scales of a stored row of an MX format. -/
def inScale (key : Nat) (t : Td) (row x : Nat) : Prop :=
  fmtIsMx (tdFmt t) = true ∧ scaleAt key t row ≤ x ∧ x < scaleAt key t row + 2

/-- The bytes of a stored row, with those of its scales. -/
def inReadout (key : Nat) (t : Td) (row x : Nat) : Prop := inRuns key (readoutRow t row) x ∨ inScale key t row x

/-- Scratch after a stored row of a readout. -/
def Memory.readoutRow (m : Memory) (key : Nat) (t : Td) (src : FFmt) (r : Round) (sat : Bool) (row : Nat) (el : Nat → Nat × Bool) :
    Memory :=
  let w := fmtWidth (tdFmt t)
  let stored := m.storeRuns key (readoutNumber t src r sat (fun e => (el e).1)) (Sys2Proof.Machine.readoutRow t row)
  let marked := (badBytes key t row (rowBytes 64 w) w (fun e => (el e).2)).foldl (fun (m : Memory) a => m.poisonUnit a) stored
  if fmtIsMx (tdFmt t) then
    marked.store (scaleAt key t row) 2
      ((readoutQuant t src r sat (fun e => (el e).1) 0).1 + 256 * (readoutQuant t src r sat (fun e => (el e).1) 1).1) false
  else marked

section
variable (key : Nat) (t : Td) (src : FFmt) (r : Round) (sat : Bool)

theorem map_readoutCode_mx (h : fmtIsMx (tdFmt t) = true) (el : Nat → Nat) : (upFrom 0 64).map (readoutCode t src r sat el)
    = (readoutQuant t src r sat el 0).2.1 ++ (readoutQuant t src r sat el 1).2.1 := by
  have hlen : ∀ b, (readoutQuant t src r sat el b).2.1.length = 32 := fun b => by
    simp [readoutQuant, quantiseMX_codes_length, upFrom_eq_range']
  refine Eq.trans ?_ (map_blockCode hlen)
  unfold readoutCode
  simp only [h, if_true]

theorem readoutBlock_eq (row : Nat → Nat × Bool) (b : Nat) :
    let y := readoutBlock (mxElement (tdFmt t)) r sat ((upFrom (32 * b) 32).map (fun e => (src.decode (row e).1, (row e).2)))
    y.1 = (readoutQuant t src r sat (fun e => (row e).1) b).1 ∧ y.2.1 = (readoutQuant t src r sat (fun e => (row e).1) b).2.1 := by
  simp only [readoutBlock, readoutQuant, List.map_map]
  exact ⟨rfl, rfl⟩

theorem State.readoutRow_withScratch (s : State) (m : Memory) (row : Nat) (el : Nat → Nat × Bool) :
    (s.withScratch m).readoutRow key t src r sat row el
      = (s.withScratch (m.readoutRow key t src r sat row el), (s.readoutRow key t src r sat row el).2) := by
  unfold State.readoutRow Memory.readoutRow
  by_cases hmx : fmtIsMx (tdFmt t) = true
  · obtain ⟨h0, c0⟩ := readoutBlock_eq t src r sat el 0
    obtain ⟨h1, c1⟩ := readoutBlock_eq t src r sat el 1
    simp only [hmx, if_true, readoutNumber, map_readoutCode_mx t src r sat hmx]
    rw [h0, c0, h1, c1]
    rfl
  · simp only [hmx, readoutNumber, List.map_map]
    have hcode : readoutCode t src r sat (fun e => (el e).1) = fun e => (readoutElement src (tdFmt t) r sat (el e).1).1 := by
      funext e
      simp [readoutCode, hmx]
    rw [hcode]
    rfl

section
variable {key t src r sat}
variable {m : Memory} (hm : m.wf) (row : Nat) (el : Nat → Nat × Bool)

/-- A stored row before its scales. -/
theorem Memory.storedRow_wf (l : List Nat) (v : Nat) (runs : List (Nat × Nat × Nat)) (hm : m.wf) :
    (l.foldl (fun (m : Memory) a => m.poisonUnit a) (m.storeRuns key v runs)).wf :=
  (Memory.differsIn_poisonUnits (Memory.storeRuns_differsIn hm key v runs).1 l (fun _ => False)).1

include hm in
theorem Memory.readoutRow_differsIn : m.differsIn (inReadout key t row) (m.readoutRow key t src r sat row el) := by
  have hstored := Memory.storeRuns_differsIn hm key (readoutNumber t src r sat (fun e => (el e).1)) (Sys2Proof.Machine.readoutRow t row)
  have hmarked := Memory.differsIn_trans hstored (Memory.differsIn_poisonUnits hstored.1
    (badBytes key t row (rowBytes 64 (fmtWidth (tdFmt t))) (fmtWidth (tdFmt t)) (fun e => (el e).2)) _)
  unfold Memory.readoutRow
  split
  case isTrue hmx =>
    exact Memory.differsIn_trans (Memory.differsIn_mono (fun _ hx => .inl hx) hmarked)
      (Memory.differsIn_mono (fun _ hx => .inr ⟨hmx, hx⟩) (Memory.differsIn_store hmarked.1 _ _ _ _))
  case isFalse => exact Memory.differsIn_mono (fun _ hx => .inl hx) hmarked

include hm in
theorem Memory.byte_readoutRow {y : Nat × Nat × Nat} (hy : y ∈ Sys2Proof.Machine.readoutRow t row) {k : Nat} (hk : k < y.2.2)
    (hscale : ¬inScale key t row (key + y.1 + k)) : (m.readoutRow key t src r sat row el).byte (key + y.1 + k)
      = BitVec.ofNat 8 (readoutNumber t src r sat (fun e => (el e).1) / 256 ^ (y.2.1 + k)) := by
  have hstored := Memory.storeRuns_byte hm key (readoutNumber t src r sat (fun e => (el e).1)) (rowRuns_apart t row 0 _ _) hy hk
  unfold Memory.readoutRow
  split
  case isTrue hmx =>
    refine ((Memory.differsIn_store (Memory.storedRow_wf _ _ _ hm) _ _ _ _).2 _ (fun hx => hscale ⟨hmx, hx⟩)).trans ?_
    rw [Memory.byte_poisonUnits]
    exact hstored
  case isFalse =>
    rw [Memory.byte_poisonUnits]
    exact hstored

include hm in
theorem Memory.byte_readoutScale (hmx : fmtIsMx (tdFmt t) = true) {b : Nat} (hb : b < 2) :
    (m.readoutRow key t src r sat row el).byte (scaleAt key t row + b)
      = BitVec.ofNat 8 (readoutQuant t src r sat (fun e => (el e).1) b).1 := by
  unfold Memory.readoutRow
  rw [if_pos hmx, Memory.byte_store_at _ _ hb (Memory.storedRow_wf _ _ _ hm)]
  obtain ⟨h0, h1⟩ := byte_scales (y := (readoutQuant t src r sat (fun e => (el e).1) 1).1)
    (quantiseMX_scale_lt _ r sat ((upFrom (32 * 0) 32).map (fun e => src.decode (el e).1)))
  obtain rfl | rfl : b = 0 ∨ b = 1 := by omega
  · rw [pow_zero, Nat.div_one]
    exact h0
  · rw [pow_one]
    exact h1

end

/-! ### The rows of a readout -/

/-- The rows of a readout, one by one, on a memory: `el row e` is element e of a row and whether it is poisoned. -/
def Memory.readoutRows (m : Memory) (el : Nat → Nat → Nat × Bool) (n : Nat) : Memory :=
  (upFrom 0 n).foldl (fun m row => m.readoutRow key t src r sat row (el row)) m

/-- The flags of the rows of a readout (R207). -/
def State.readoutFlags (s : State) (el : Nat → Nat → Nat × Bool) (n : Nat) : BitVec 5 :=
  (upFrom 0 n).foldl (fun acc row => acc ||| (s.readoutRow key t src r sat row (el row)).2) 0

theorem State.readoutRows_eq (s : State) (el : Nat → Nat → Nat × Bool) (l : List Nat) (m : Memory) (fl : BitVec 5) :
    l.foldl (fun (acc : State × BitVec 5) row =>
        let (s1, fl) := acc.1.readoutRow key t src r sat row (el row)
        (s1, acc.2 ||| fl)) (s.withScratch m, fl)
      = (s.withScratch (l.foldl (fun m row => m.readoutRow key t src r sat row (el row)) m),
          l.foldl (fun acc row => acc ||| (s.readoutRow key t src r sat row (el row)).2) fl) := by
  induction l generalizing m fl with
  | nil => rfl
  | cons a l ih =>
    rw [List.foldl_cons, State.readoutRow_withScratch]
    exact ih _ _

/-- Element e of a stored row: of the rows of a tile, or of its columns (R199). -/
def tdElement {α : Type} (t : Td) (el : Nat → Nat → α) (row e : Nat) : α := if tdDown t then el e row else el row e

theorem State.readout_eq (s : State) (el : Nat → Nat → Nat × Bool) : s.readout key t src r sat el
    = (s.withScratch (s.scratch.readoutRows key t src r sat (tdElement t el) 64),
        s.readoutFlags key t src r sat (tdElement t el) 64) :=
  State.readoutRows_eq key t src r sat s (tdElement t el) (upFrom 0 64) s.scratch 0

section
variable {m : Memory} (hm : m.wf) (el : Nat → Nat → Nat × Bool)

include hm in
theorem Memory.readoutRows_differsIn (n : Nat) :
    m.differsIn (fun x => ∃ row < n, inReadout key t row x) (m.readoutRows key t src r sat el n) :=
  Memory.differsIn_foldl _ (fun _ hm row hrow => Memory.differsIn_mono (fun _ hx => ⟨row, by have := mem_upFrom_iff.mp hrow; omega, hx⟩)
    (Memory.readoutRow_differsIn hm row (el row))) hm

include hm in
theorem Memory.byte_readoutRows {n row : Nat} (hrow : row < n) {y : Nat × Nat × Nat} (hy : y ∈ Sys2Proof.Machine.readoutRow t row)
    {k : Nat} (hk : k < y.2.2)
    (hruns : ∀ later, row < later → later < n → ¬inRuns key (Sys2Proof.Machine.readoutRow t later) (key + y.1 + k))
    (hscales : ∀ later, row ≤ later → later < n → ¬inScale key t later (key + y.1 + k)) :
    (m.readoutRows key t src r sat el n).byte (key + y.1 + k)
      = BitVec.ofNat 8 (readoutNumber t src r sat (fun e => (el row e).1) / 256 ^ (y.2.1 + k)) := by
  refine Memory.byte_foldl_last (P := inReadout key t) (fun _ row hm => Memory.readoutRow_differsIn hm row (el row)) hrow
    (fun _ hm => Memory.byte_readoutRow hm row (el row) hy hk (hscales row le_rfl hrow)) (fun later hlt hn hin => ?_) hm
  exact hin.elim (hruns later hlt hn) (hscales later (by omega) hn)

include hm in
theorem Memory.byte_readoutScales (hmx : fmtIsMx (tdFmt t) = true) {n row b : Nat} (hrow : row < n) (hb : b < 2)
    (hlater : ∀ later, row < later → later < n → ¬inReadout key t later (scaleAt key t row + b)) :
    (m.readoutRows key t src r sat el n).byte (scaleAt key t row + b)
      = BitVec.ofNat 8 (readoutQuant t src r sat (fun e => (el row e).1) b).1 :=
  Memory.byte_foldl_last (P := inReadout key t) (fun _ row hm => Memory.readoutRow_differsIn hm row (el row)) hrow
    (fun _ hm => Memory.byte_readoutScale hm row (el row) hmx hb) hlater hm

end

/-! ### The flags of a readout -/

theorem getLsbD_foldl_or {α : Type} (f : α → BitVec 5) (l : List α) (b : Nat) (x : BitVec 5) :
    (l.foldl (fun acc a => acc ||| f a) x).getLsbD b = (x.getLsbD b || l.any (fun a => (f a).getLsbD b)) := by
  induction l generalizing x with
  | nil => simp
  | cons a l ih => rw [List.foldl_cons, ih, BitVec.getLsbD_or, List.any_cons, Bool.or_assoc]

theorem getLsbD_foldl_or_zero {α : Type} (f : α → BitVec 5) (l : List α) (b : Nat) :
    (l.foldl (fun acc a => acc ||| f a) 0).getLsbD b = l.any (fun a => (f a).getLsbD b) := by
  rw [getLsbD_foldl_or]
  simp

/-- The flags of the elements of a row that are not poisoned (R207). -/
theorem State.readoutRow_flags (s : State) (hmx : fmtIsMx (tdFmt t) = false) (row : Nat) (el : Nat → Nat × Bool) (b : Nat) :
    (s.readoutRow key t src r sat row el).2.getLsbD b
      = (upFrom 0 64).any (fun e => !(el e).2 && (readoutElement src (tdFmt t) r sat (el e).1).2.getLsbD b) := by
  have hor (acc : BitVec 5) (y : Flagged × Bool) : (if y.2 then acc else acc ||| y.1.2) = acc ||| (if y.2 then 0 else y.1.2) := by
    cases y.2 <;> simp
  unfold State.readoutRow
  simp only [hmx, hor]
  rw [if_neg Bool.false_ne_true, getLsbD_foldl_or_zero, List.any_map]
  congr 1
  funext e
  cases h : (el e).2 <;> simp [h]

theorem State.getLsbD_readoutFlags (s : State) (hmx : fmtIsMx (tdFmt t) = false) (el : Nat → Nat → Nat × Bool) (n b : Nat) :
    (s.readoutFlags key t src r sat el n).getLsbD b = (upFrom 0 n).any (fun row => (upFrom 0 64).any (fun e =>
      !(el row e).2 && (readoutElement src (tdFmt t) r sat (el row e).1).2.getLsbD b)) := by
  simp only [State.readoutFlags, getLsbD_foldl_or_zero, State.readoutRow_flags _ _ _ _ _ s hmx]

theorem tdElement_fst {α β : Type} (f : Nat → Nat → α) (g : Nat → Nat → β) (row e : Nat) :
    (tdElement t (fun i j => (f i j, g i j)) row e).1 = tdElement t f row e := by
  unfold tdElement
  split <;> rfl

theorem tdElement_snd {α β : Type} (f : Nat → Nat → α) (g : Nat → Nat → β) (row e : Nat) :
    (tdElement t (fun i j => (f i j, g i j)) row e).2 = tdElement t g row e := by
  unfold tdElement
  split <;> rfl

end

/-! ### MU instructions that write scratch (R102, R196) -/

section
variable {s : State} {site : Nat} {o : Op} {m : Mu}

theorem State.muKind_updateMu {t : State} {id : Nat} (hop : (t.op id).map (·.kind) = some (.mu m)) (f : Mu → Mu) :
    ((t.updateMu id f).op id).map (·.kind) = some (.mu (f m)) := by
  obtain ⟨x, hx, hk⟩ := Option.map_eq_some_iff.mp hop
  obtain rfl := State.op_id hx
  rw [State.op_updateMu hx hk]
  rfl

/-- What is left of an operation of the cell when an MU instruction has written some runs of scratch: the later MU instructions see
what it wrote (R102, R196). -/
def Op.following (o : Op) (new : Memory) (runs : List (Nat × Nat)) (x : Op) : Op :=
  if x.site == o.site && x.key.ctx == o.key.ctx && x.id != o.id && x.mu.isSome then
    { x with kind := x.kind.mapRace (fun r => { r with seen := r.seen.map (fun c => c.follow new runs) }) }
  else x

theorem Op.following_id (o : Op) (new : Memory) (runs : List (Nat × Nat)) (x : Op) : (o.following new runs x).id = x.id := by
  unfold Op.following
  split <;> rfl

theorem Op.following_self (o : Op) (new : Memory) (runs : List (Nat × Nat)) : o.following new runs o = o := by
  simp [Op.following]

theorem State.op_following {s : State} {o : Op} (hop : s.op o.id = some o) (new : Memory) (runs : List (Nat × Nat)) :
    (s.ops.map (o.following new runs)).find? (fun x => x.id == o.id) = some o := by
  have hp : (fun x : Op => x.id == o.id) ∘ o.following new runs = fun x => x.id == o.id :=
    funext (fun x => by rw [Function.comp_apply, Op.following_id])
  rw [List.find?_map, hp]
  exact (congrArg (Option.map (o.following new runs)) hop).trans (congrArg some (o.following_self new runs))

/-- What an MU instruction that has written scratch leaves: it stands performed, and scratch is the merge of what it wrote with what
the races keep. -/
theorem State.muWrote_spec (hop : s.op o.id = some o) (hk : o.kind = .mu m) (runs : List (Nat × Nat)) (s1 : State) (fl : BitVec 5) :
    ∃ u n, s.muWrote o m runs s1 fl = u ∧ (u.op o.id).map (·.kind) = some (.mu n) ∧ n.performed = true ∧ n.out = m.out ∧
      n.flags = m.flags ||| fl ∧ { u with ops := s.ops, scratch := s.scratch } = s ∧
      u.scratch = m.race.merge s.scratch s1.scratch := by
  have hmap := State.op_following hop (m.race.merge s.scratch s1.scratch) runs
  have hplaced := State.muKind_updateMu (t := { s with
      scratch := m.race.merge s.scratch s1.scratch
      ops := s.ops.map (o.following (m.race.merge s.scratch s1.scratch) runs) })
    (Option.map_eq_some_iff.mpr ⟨o, hmap, hk⟩) (fun m => { m with race := m.race.placed s.scratch runs })
  exact ⟨_, _, rfl, State.muKind_updateMu hplaced _, rfl, rfl, rfl, rfl, rfl⟩

/-- The elements of a tile with their poison, as a readout takes them. -/
def State.tileElements (s : State) (site acc i j : Nat) : Nat × Bool := (s.tileAt site acc i j, s.tileBad site acc i j)

theorem muPerform_readout (h : s.muReady site o m) (hc : m.cmd = .st ∨ m.cmd = .rd) :
    let key := scratchKey o.site o.key.ctx 0
    let a : Td := (m.a0, m.a1)
    let r := if m.cmd = .rd then m.round else .rne
    let sat := m.cmd = .rd && m.sat
    let el := tdElement a (s.tileElements o.site m.acc)
    ∃ u n, Sys2Proof.Machine.exec (.muPerform site) s = .next u ∧ (u.op o.id).map (·.kind) = some (.mu n) ∧ n.performed = true ∧
      { u with ops := s.ops, scratch := s.scratch } = s ∧
      u.scratch = m.race.merge s.scratch (s.scratch.readoutRows key a fmtF64 r sat el 64) ∧
      (m.cmd = .st → n.flags = m.flags) ∧ (m.cmd = .rd → n.flags = m.flags ||| s.readoutFlags key a fmtF64 r sat el 64) := by
  intro key a r sat el
  have hread := State.readout_eq key a fmtF64 r sat s (s.tileElements o.site m.acc)
  have hstep : ∃ runs fl, s.muStep o m = s.muWrote o m runs (s.readout key a fmtF64 r sat (s.tileElements o.site m.acc)).1 fl ∧
      (m.cmd = .st → fl = 0) ∧ (m.cmd = .rd → fl = s.readoutFlags key a fmtF64 r sat el 64) := by
    rcases hc with hc | hc
    · refine ⟨runsAt key (tileRuns a 64), 0, ?_, fun _ => rfl, fun hrd => by simp [hc] at hrd⟩
      have hr : r = .rne := by simp [r, hc]
      have hsat : sat = false := by simp [sat, hc]
      rw [hr, hsat]
      simp only [State.muStep, hc]
      rfl
    · refine ⟨runsAt key (readoutRuns a), (s.readout key a fmtF64 r sat (s.tileElements o.site m.acc)).2, ?_,
        fun hst => by simp [hc] at hst, fun _ => by rw [hread]⟩
      have hr : r = m.round := by simp [r, hc]
      have hsat : sat = m.sat := by simp [sat, hc]
      rw [hr, hsat]
      simp only [State.muStep, hc]
      rfl
  obtain ⟨runs, fl, hstep, hst, hrd⟩ := hstep
  obtain ⟨u, n, hu, hkind, hperf, -, hflags, honly, hscratch⟩ := State.muWrote_spec h.op h.kind runs
    (s.readout key a fmtF64 r sat (s.tileElements o.site m.acc)).1 fl
  rw [hread] at hscratch
  refine ⟨u, n, by rw [h.exec_muPerform, hstep, hu], hkind, hperf, honly, hscratch, fun hc => ?_, fun hc => ?_⟩
  · rw [hflags, hst hc]
    simp
  · rw [hflags, hrd hc]

/-- Every byte of a merge of races is as it was written or, where a racing write keeps some, as it was. -/
theorem Race.byte_merge_of_eq (r : Race) (old : Memory) {new : Memory} (hnew : new.wf) {x : Nat} {v : Byte} (hv : new.byte x = v) :
    (r.kept ≠ [] ∧ (r.merge old new).byte x = old.byte x) ∨ (r.merge old new).byte x = v :=
  (Race.byte_merge r old hnew x).symm.imp_right (fun hx => hx.trans hv)

theorem Race.byte_merge_of_differsIn (r : Race) {old new : Memory} {P : Nat → Prop} (h : old.differsIn P new) {x : Nat} (hx : ¬P x) :
    (r.merge old new).byte x = old.byte x :=
  (Race.byte_merge r old h.1 x).elim (fun hn => hn.trans (h.2 x hx)) And.right

theorem muPerform_stored (h : s.muReady site o m) (hc : m.cmd = .st ∨ m.cmd = .rd) (hwf : s.scratch.wf) :
    let key := scratchKey o.site o.key.ctx 0
    let a : Td := (m.a0, m.a1)
    let r := if m.cmd = .rd then m.round else .rne
    let sat := m.cmd = .rd && m.sat
    let el := tdElement a (s.tileAt o.site m.acc)
    let bad := tdElement a (s.tileBad o.site m.acc)
    ∃ u n, Sys2Proof.Machine.exec (.muPerform site) s = .next u ∧ (u.op o.id).map (·.kind) = some (.mu n) ∧ n.performed = true ∧
      { u with ops := s.ops, scratch := s.scratch } = s ∧
      let raced (x : Nat) : Prop := m.race.kept ≠ [] ∧ u.scratch.byte x = s.scratch.byte x
      (∀ x, (∀ row, row < 64 → ¬inRuns key (readoutRow a row) x ∧ ¬inScale key a row x) →
        u.scratch.byte x = s.scratch.byte x) ∧
      (∀ row y k, row < 64 → y ∈ readoutRow a row → k < y.2.2 →
        (∀ later, row < later → later < 64 → ¬inRuns key (readoutRow a later) (key + y.1 + k)) →
        (∀ later, row ≤ later → later < 64 → ¬inScale key a later (key + y.1 + k)) →
        raced (key + y.1 + k) ∨ u.scratch.byte (key + y.1 + k)
          = BitVec.ofNat 8 (readoutNumber a fmtF64 r sat (el row) / 256 ^ (y.2.1 + k))) ∧
      (fmtIsMx (tdFmt a) = true → ∀ row b, row < 64 → b < 2 →
        (∀ later, row < later → later < 64 → ¬inRuns key (readoutRow a later) (scaleAt key a row + b) ∧
          ¬inScale key a later (scaleAt key a row + b)) →
        raced (scaleAt key a row + b) ∨ u.scratch.byte (scaleAt key a row + b)
          = BitVec.ofNat 8 (readoutQuant a fmtF64 r sat (el row) b).1) ∧
      (m.cmd = .st → n.flags = m.flags) ∧
      (m.cmd = .rd → fmtIsMx (tdFmt a) = false → ∀ b, n.flags.getLsbD b = (m.flags.getLsbD b ||
        (upFrom 0 64).any (fun row => (upFrom 0 64).any (fun e =>
          !bad row e && (readoutElement fmtF64 (tdFmt a) r sat (el row e)).2.getLsbD b)))) := by
  intro key a r sat el bad
  obtain ⟨u, n, hexec, hkind, hperf, honly, hscratch, hst, hrd⟩ := muPerform_readout h hc
  have hfst (row : Nat) : (fun e => (tdElement a (s.tileElements o.site m.acc) row e).1) = el row :=
    funext (fun e => tdElement_fst a _ (s.tileBad o.site m.acc) row e)
  have hdiff := Memory.readoutRows_differsIn key a fmtF64 r sat hwf (tdElement a (s.tileElements o.site m.acc)) 64
  refine ⟨u, n, hexec, hkind, hperf, honly, fun x hx => ?_, fun row y k hrow hy hk hruns hscales => ?_,
    fun hmx row b hrow hb hlater => ?_, hst, fun hc hmx b => ?_⟩
  · rw [hscratch]
    refine Race.byte_merge_of_differsIn m.race hdiff ?_
    rintro ⟨row, hrow, hin⟩
    exact hin.elim (hx row hrow).1 (hx row hrow).2
  · have hbyte := Memory.byte_readoutRows key a fmtF64 r sat hwf (tdElement a (s.tileElements o.site m.acc))
      hrow hy hk hruns hscales
    rw [hfst] at hbyte
    rw [hscratch]
    exact Race.byte_merge_of_eq m.race s.scratch hdiff.1 hbyte
  · have hbyte := Memory.byte_readoutScales key a fmtF64 r sat hwf
      (tdElement a (s.tileElements o.site m.acc)) hmx hrow hb
      (fun later hlt hn hin => hin.elim (hlater later hlt hn).1 (hlater later hlt hn).2)
    rw [hfst] at hbyte
    rw [hscratch]
    exact Race.byte_merge_of_eq m.race s.scratch hdiff.1 hbyte
  · rw [hrd hc, BitVec.getLsbD_or, State.getLsbD_readoutFlags _ _ _ _ _ _ hmx]
    have hel : s.tileElements o.site m.acc = fun i j => (s.tileAt o.site m.acc i j, s.tileBad o.site m.acc i j) := rfl
    simp only [hel, tdElement_fst, tdElement_snd]
    rfl

end

end Sys2Proof.Machine
end

section
/-! `mrdx` (R208): the rows that it sends to the Carousel and the destination that it then writes. -/

namespace Sys2Proof.Machine

/-! ### Elements and masks of a row -/

theorem elemAt_ofLanes32 (l : List Nat) {k : Nat} (hk : k < 64) : elemAt 32 (ofLanes 32 l) k = l.getD k 0 % 2 ^ 32 := by
  rw [← packedAt_packBits 32 l k, ← packedAt_ofNat (n := 2048) (by omega) (packBits 32 l)]
  rfl

/-- The number whose bits are those of the places that a predicate does not hold of. -/
def maskNumber (f : Nat → Bool) (n : Nat) : Nat := ((upFrom 0 n).map (fun j => if f j then 0 else 2 ^ j)).sum

theorem maskNumber_succ (f : Nat → Bool) (n : Nat) : maskNumber f (n + 1) = maskNumber f n + if f n then 0 else 2 ^ n := by
  simp [maskNumber, upFrom_succ_last]

theorem maskNumber_lt (f : Nat → Bool) (n : Nat) : maskNumber f n < 2 ^ n := by
  induction n with
  | zero => exact Nat.one_pos
  | succ n ih =>
    rw [maskNumber_succ, pow_succ]
    split <;> omega

theorem testBit_maskNumber (f : Nat → Bool) (n e : Nat) : (maskNumber f n).testBit e = (decide (e < n) && !f e) := by
  induction n with
  | zero => simp [maskNumber, upFrom]
  | succ n ih =>
    have hlt := maskNumber_lt f n
    rw [maskNumber_succ]
    cases hf : f n with
    | true =>
      rw [if_pos rfl, Nat.add_zero, ih]
      rcases Nat.lt_trichotomy e n with h | rfl | h
      · simp [h, Nat.lt_succ_of_lt h]
      · simp [hf]
      · simp [not_lt.mpr h.le, not_lt.mpr (Nat.succ_le_of_lt h)]
    | false =>
      have hsum : maskNumber f n + 2 ^ n = 2 ^ n * 1 + maskNumber f n := by ring
      rw [if_neg Bool.false_ne_true, hsum, Nat.testBit_two_pow_mul_add _ hlt]
      rcases Nat.lt_trichotomy e n with h | rfl | h
      · rw [if_pos h, ih]
        simp [h, Nat.lt_succ_of_lt h]
      · simp [hf]
      · rw [if_neg (by omega), Nat.testBit_lt_two_pow (Nat.one_lt_two_pow (by omega))]
        simp [not_lt.mpr (Nat.succ_le_of_lt h)]

theorem zipIdx_mask {α : Type} (g : Nat → α × Bool) (n : Nat) :
    (((upFrom 0 n).map g).zipIdx.map (fun (e, j) => if e.2 then 0 else 2 ^ j)).sum = maskNumber (fun j => (g j).2) n := by
  unfold maskNumber
  congr 1
  refine List.ext_getElem (by simp) (fun i _ _ => ?_)
  simp [upFrom_eq_range']

/-! ### A row sent -/

section
variable {s : State} {site : Nat} {o : Op} {m : Mu}

/-- The request of a row of an `mrdx`: its elements as binary32, the active ones those that hold no poison (R208). -/
def CarJob.ofRow (j : CarJob) (s : State) (o : Op) (m : Mu) (aux : Nat) : Prop :=
  j.site = o.site ∧ j.who = .mu o.id ∧ j.gslot = m.gslot ∧ j.entered = none ∧ j.delivered = false ∧
    (∀ e, e < 64 → elemAt 32 j.op0 e
      = (convertFloat fmtF64 fmtF32 m.round m.sat (s.tileAt o.site m.acc m.out.length e)).1 % 2 ^ 32 ∧
      active j.mask e = !s.tileBad o.site m.acc m.out.length e) ∧
    j.op1 = (if m.aux then BitVec.ofNat 2048 aux else 0) ∧ j.op2 = 0 ∧ j.sc = BitVec.ofNat 64 m.out.length

theorem State.sendRow_spec (hop : (s.op o.id).map (·.kind) = some (.mu m)) (aux : Nat) :
    ∃ u n j, s.sendRow o m aux = u ∧ { u with ops := s.ops, carJobs := s.carJobs } = s ∧
      (u.op o.id).map (·.kind) = some (.mu { m with flags := n }) ∧ u.carJobs = s.carJobs ++ [j] ∧ j.ofRow s o m aux := by
  refine ⟨_, _, _, rfl, rfl, State.muKind_updateMu hop _, rfl, rfl, rfl, rfl, rfl, rfl, fun e he => ⟨?_, ?_⟩, rfl, rfl, rfl⟩
  · rw [elemAt_ofLanes32 _ he, List.map_map, getD_map_upFrom _ _ he]
    rfl
  · rw [zipIdx_mask, active, BitVec.getLsbD_ofNat, testBit_maskNumber]
    simp [he]

/-- The runs of the row of the auxiliary descriptor that an `mrdx` reads next. -/
def Mu.auxRuns (m : Mu) : List (Nat × Nat) := (rowOf (m.b0, m.b1) m.out.length 256).map (fun x => (x.1, x.2.2))

/-- An `mrdx` that has looked at the next row of its auxiliary descriptor, where it has one. -/
def Mu.atRow (m : Mu) (scratch : Memory) (key : Nat) : Mu := if m.aux then m.look scratch key m.auxRuns else m

/-- The cell as the rows of an `mrdx` before the next one would leave it. -/
def State.beforeRow (s : State) (o : Op) (m : Mu) (key : Nat) : State :=
  ((s.seenBy (m.atRow s.scratch key)).putRows o (m.atRow s.scratch key) key m.out.length).1

/-- The poisoned byte that holds an `mrdx` at the next row. -/
def State.badRow (s : State) (o : Op) (m : Mu) (key : Nat) : Option Nat :=
  if m.aux then (s.beforeRow o m key).poisonedByte key m.auxRuns else none

theorem State.muRow_stays {key : Nat} (hrow : m.out.length < 64)
    (hbusy : (s.carJobs.any (fun j => j.who == .mu o.id && !j.delivered) || s.stuckSlot o.site m.gslot) = true) :
    s.muRow o m key = s := by
  simp [State.muRow, hrow, hbusy]

theorem State.muRow_held {key x : Nat} (hrow : m.out.length < 64)
    (hfree : (s.carJobs.any (fun j => j.who == .mu o.id && !j.delivered) || s.stuckSlot o.site m.gslot) = false)
    (hbad : s.badRow o m key = some x) : s.muRow o m key = s.muHold o .poisonConsumed 0 0 x := by
  unfold State.badRow State.beforeRow Mu.atRow at hbad
  split at hbad
  case isTrue ha =>
    unfold State.muRow
    rw [if_pos hrow, hfree, if_neg Bool.false_ne_true, if_pos ha]
    dsimp only
    unfold Mu.auxRuns at hbad
    rw [hbad]
  case isFalse => cases hbad

/-- An `mrdx` sends its next row (R208). -/
theorem State.muRow_sends {key : Nat} (hop : s.op o.id = some o) (hk : o.kind = .mu m) (hrow : m.out.length < 64)
    (hfree : (s.carJobs.any (fun j => j.who == .mu o.id && !j.delivered) || s.stuckSlot o.site m.gslot) = false)
    (hbad : s.badRow o m key = none) :
    ∃ u n j, s.muRow o m key = u ∧ { u with ops := s.ops, carJobs := s.carJobs } = s ∧
      (u.op o.id).map (·.kind) = some (.mu { m.atRow s.scratch key with flags := n }) ∧ u.carJobs = s.carJobs ++ [j] ∧
      j.ofRow s o m ((s.beforeRow o m key).readRow key (m.b0, m.b1) m.out.length 256) := by
  have hop' : (s.op o.id).map (·.kind) = some (.mu m) := by rw [hop, Option.map_some, hk]
  cases ha : m.aux with
  | true =>
    have hat : m.atRow s.scratch key = m.look s.scratch key m.auxRuns := if_pos ha
    have hlooked := State.muKind_updateMu hop' (fun x => x.look s.scratch key m.auxRuns)
    obtain ⟨u, n, j, hu, honly, hkind, hjobs, hj⟩ := State.sendRow_spec hlooked
      ((s.beforeRow o m key).readRow key (m.b0, m.b1) m.out.length 256)
    refine ⟨u, n, j, ?_, congrArg (fun t : State => { t with ops := s.ops }) honly, by rw [hat]; exact hkind, hjobs, hj⟩
    rw [← hu]
    unfold State.badRow State.beforeRow at hbad
    rw [if_pos ha, hat] at hbad
    unfold State.muRow State.beforeRow
    rw [if_pos hrow, hfree, if_neg Bool.false_ne_true, if_pos ha, hat]
    dsimp only
    unfold Mu.auxRuns at hbad
    rw [hbad]
    rfl
  | false =>
    have hat : m.atRow s.scratch key = m := if_neg (by simp [ha])
    obtain ⟨u, n, j, hu, honly, hkind, hjobs, hsite, hwho, hslot, hent, hdel, hels, hop1, hrest⟩ := State.sendRow_spec hop' 0
    refine ⟨u, n, j, ?_, honly, by rw [hat]; exact hkind, hjobs, hsite, hwho, hslot, hent, hdel, hels, ?_, hrest⟩
    · rw [← hu]
      simp [State.muRow, hrow, hfree, ha]
    · simpa [ha] using hop1

/-! ### The destination written (R208) -/

theorem Memory.differsIn_putBytes {x : Memory} (hx : x.wf) {P : Nat → Prop} (l : List (Nat × Nat)) (v : Nat × Nat → Byte)
    (hl : ∀ y ∈ l, P y.1) : x.differsIn P (l.foldl (fun (m : Memory) y => m.putByte y.1 (v y)) x) :=
  Memory.differsIn_foldl l (fun _ hm y hy => Memory.differsIn_mono (fun _ hz => hz ▸ hl y hy) (Memory.differsIn_putByte hm y.1 (v y))) hx

theorem State.writeBits_differsIn {t : State} (ht : t.scratch.wf) (key : Nat) (d : Td) (row n lo bits v : Nat) :
    t.scratch.differsIn (inRuns key (rowOf d row n)) (t.writeBits key d row n lo bits v).scratch := by
  refine Memory.differsIn_putBytes ht _ _ (fun y hy => ?_)
  obtain ⟨x, hx, hyx⟩ := List.mem_flatMap.mp (List.mem_of_mem_filter hy)
  obtain ⟨k, hk, rfl⟩ := List.mem_map.mp hyx
  have := mem_upFrom_iff.mp hk
  exact ⟨x, hx, by dsimp only; omega⟩

/-- A fold over states with flags, each step of which differs in some bytes of scratch. -/
theorem State.foldl_differsIn {P : Nat → Prop} {f : State × BitVec 5 → Nat → State × BitVec 5} (l : List Nat)
    (hf : ∀ (acc : State × BitVec 5) i, i ∈ l → acc.1.scratch.wf → acc.1.scratch.differsIn P (f acc i).1.scratch) {acc : State × BitVec 5}
    (hacc : acc.1.scratch.wf) : acc.1.scratch.differsIn P (l.foldl f acc).1.scratch :=
  List.foldlRecOn l f (motive := fun x => acc.1.scratch.differsIn P x.1.scratch) (Memory.differsIn_refl hacc P)
    (fun x hx i hi => Memory.differsIn_trans hx (hf x i hi hx.1))

/-- The bytes of all rows of a readout, with their scales (R207). -/
def inTile (key : Nat) (d : Td) (x : Nat) : Prop := ∃ row < 64, inReadout key d row x

theorem State.readoutColumn_differsIn {t : State} (ht : t.scratch.wf) (key : Nat) (d : Td) (src : FFmt) (r : Round) (sat : Bool)
    {i : Nat} (hi : i < 64) (el : Nat → Nat → Nat × Bool) :
    t.scratch.differsIn (inTile key d) (t.readoutColumn key d src r sat i el).1.scratch := by
  unfold State.readoutColumn
  split
  case isTrue hmx =>
    split
    case isTrue =>
      refine State.foldl_differsIn _ (fun acc row hrow hacc => ?_) (acc := (t, 0)) ht
      have hlt : row < 64 := by have := mem_upFrom_iff.mp hrow; omega
      generalize readoutBlock (mxElement (tdFmt d)) r sat _ = block
      obtain ⟨scale, codes, fl⟩ := block
      have hbits := State.writeBits_differsIn hacc key d row (rowBytes 64 (fmtWidth (tdFmt d))) ((i - 31) * fmtWidth (tdFmt d))
        (32 * fmtWidth (tdFmt d)) (packBits (fmtWidth (tdFmt d)) codes)
      refine Memory.differsIn_trans (Memory.differsIn_mono (fun _ hx => ⟨row, hlt, .inl hx⟩) hbits)
        (Memory.differsIn_mono (fun x hx => ⟨row, hlt, .inr ⟨hmx, ?_⟩⟩) (Memory.differsIn_store hbits.1 _ _ _ _))
      unfold scaleAt
      omega
    case isFalse => exact Memory.differsIn_refl ht _
  case isFalse =>
    refine State.foldl_differsIn _ (fun acc row hrow hacc => ?_) (acc := (t, 0)) ht
    have hlt : row < 64 := by have := mem_upFrom_iff.mp hrow; omega
    exact Memory.differsIn_mono (fun _ hx => ⟨row, hlt, .inl hx⟩) (State.writeBits_differsIn hacc key d row _ _ _ _)

theorem State.markRow_differsIn {t : State} (ht : t.scratch.wf) (key : Nat) (d : Td) (row n w : Nat) (bad : Nat → Bool)
    (P : Nat → Prop) : t.scratch.differsIn P (t.markRow key d row n w bad).scratch := by
  have hmarked : t.scratch.differsIn P
      ((rowOf d row n).foldl (fun (m : Memory) x => m.markWritten (key + x.1) x.2.2 false) t.scratch) :=
    Memory.differsIn_foldl _ (fun _ hm _ _ => ⟨Memory.wf_markWritten _ _ _ hm, fun _ _ => Memory.byte_markWritten _ _ _ _ _⟩) ht
  exact Memory.differsIn_trans hmarked (Memory.differsIn_poisonUnits hmarked.1 _ P)

theorem State.markColumns_differsIn {t : State} (ht : t.scratch.wf) (site key : Nat) (m : Mu) (n : Nat) (P : Nat → Prop) :
    t.scratch.differsIn P (t.markColumns site key m n).scratch := by
  unfold State.markColumns
  dsimp only
  split
  · exact List.foldlRecOn _ _ (motive := fun x : State => t.scratch.differsIn P x.scratch) (Memory.differsIn_refl ht P)
      (fun x hx _ _ => Memory.differsIn_trans hx (State.markRow_differsIn hx.1 _ _ _ _ _ _ P))
  · exact Memory.differsIn_refl ht P

/-- The rows that its graph has returned, as the elements of a readout. -/
def State.returned (s : State) (o : Op) (m : Mu) (i j : Nat) : Nat × Bool :=
  (elemAt 32 (m.out.getD i 0) j, s.tileBad o.site m.acc i j)

theorem State.readoutRow_scratch (t : State) (key : Nat) (d : Td) (src : FFmt) (r : Round) (sat : Bool) (row : Nat)
    (el : Nat → Nat × Bool) :
    (t.readoutRow key d src r sat row el).1.scratch = t.scratch.readoutRow key d src r sat row el :=
  congrArg (fun x : State × BitVec 5 => x.1.scratch) (State.readoutRow_withScratch key d src r sat t t.scratch row el)

theorem State.putRows_differsIn (hwf : s.scratch.wf) (key : Nat) :
    s.scratch.differsIn (inTile key (m.a0, m.a1)) (s.putRows o m key 64).1.scratch := by
  unfold State.putRows
  dsimp only
  have hrows := State.foldl_differsIn (P := inTile key (m.a0, m.a1)) (upFrom 0 64) (f := fun acc i =>
    let (s1, fl) :=
      if tdDown (m.a0, m.a1) then acc.1.readoutColumn key (m.a0, m.a1) fmtF32 .rne m.sat i (s.returned o m)
      else acc.1.readoutRow key (m.a0, m.a1) fmtF32 .rne m.sat i (s.returned o m i)
    (s1, acc.2 ||| fl)) (fun acc i hi hacc => ?_) (acc := (s, 0)) hwf
  · exact Memory.differsIn_trans hrows (State.markColumns_differsIn hrows.1 _ _ _ _ _)
  · have hlt : i < 64 := by have := mem_upFrom_iff.mp hi; omega
    dsimp only
    split
    · exact State.readoutColumn_differsIn hacc key _ _ _ _ hlt _
    · rw [State.readoutRow_scratch]
      exact Memory.differsIn_mono (fun _ hx => ⟨i, hlt, hx⟩) (Memory.readoutRow_differsIn hacc i _)

/-- A destination whose rows are the rows of the tile: they are stored one by one (R208). -/
theorem State.putRows_scratch (hdown : tdDown (m.a0, m.a1) = false) (key n : Nat) : (s.putRows o m key n).1.scratch
    = s.scratch.readoutRows key (m.a0, m.a1) fmtF32 .rne m.sat (s.returned o m) n := by
  unfold State.putRows
  simp only [hdown, State.markColumns]
  have hrows := State.readoutRows_eq key (m.a0, m.a1) fmtF32 .rne m.sat s (s.returned o m) (upFrom 0 n) s.scratch 0
  exact congrArg (fun x : State × BitVec 5 => x.1.scratch) hrows

theorem mem_readoutRuns {key : Nat} {d : Td} {x : Nat} (h : inTile key d x) :
    ∃ y ∈ readoutRuns d, key + y.1 ≤ x ∧ x < key + y.1 + y.2 := by
  obtain ⟨row, hrow, hin⟩ := h
  have hmem : row ∈ upFrom 0 64 := mem_upFrom_iff.mpr ⟨Nat.zero_le row, by omega⟩
  rcases hin with ⟨y, hy, hx⟩ | ⟨hmx, hx⟩
  · exact ⟨(y.1, y.2.2), List.mem_append_left _ (List.mem_flatMap.mpr ⟨row, hmem, List.mem_map_of_mem hy⟩), hx⟩
  · refine ⟨(tdScale d + row * tdScalePitch d, 2), List.mem_append_right _ ?_, ?_⟩
    · rw [if_pos hmx]
      exact List.mem_map_of_mem hmem
    · unfold scaleAt at hx
      dsimp only
      omega

theorem State.muReady.exec_muRow (h : s.muReady site o m) (hc : m.cmd = .rdx) :
    Sys2Proof.Machine.exec (.muPerform site) s = .next (s.muRow o m (scratchKey o.site o.key.ctx 0)) := by
  rw [h.exec_muPerform, State.muStep, hc]

/-- The number of a row in a format without blocks. -/
theorem readoutNumber_plain {t : Td} (hmx : fmtIsMx (tdFmt t) = false) (src : FFmt) (r : Round) (sat : Bool) (el : Nat → Nat) :
    readoutNumber t src r sat el
      = packBits (fmtWidth (tdFmt t)) ((upFrom 0 64).map (fun e => (readoutElement src (tdFmt t) r sat (el e)).1)) := by
  have hcode : readoutCode t src r sat el = fun e => (readoutElement src (tdFmt t) r sat (el e)).1 := by
    funext e
    simp [readoutCode, hmx]
  rw [readoutNumber, hcode]

theorem muPerform_rowsWritten (h : s.muReady site o m) (hc : m.cmd = .rdx) (hrow : 64 ≤ m.out.length) (hwf : s.scratch.wf) :
    let key := scratchKey o.site o.key.ctx 0
    let a : Td := (m.a0, m.a1)
    ∃ u n, Sys2Proof.Machine.exec (.muPerform site) s = .next u ∧ { u with ops := s.ops, scratch := s.scratch } = s ∧
      (u.op o.id).map (·.kind) = some (.mu n) ∧ n.performed = true ∧ n.out = m.out ∧
      let el (i e : Nat) : Nat := elemAt 32 (m.out.getD i 0) e
      let code (i e : Nat) : Nat := (readoutElement fmtF32 (tdFmt a) .rne m.sat (el i e)).1
      (∀ x, (∀ y ∈ readoutRuns a, x < key + y.1 ∨ key + y.1 + y.2 ≤ x) → u.scratch.byte x = s.scratch.byte x) ∧
      (tdDown a = false → fmtIsMx (tdFmt a) = false →
        ∀ i y k, i < 64 → y ∈ readoutRow a i → k < y.2.2 →
          (∀ later, i < later → later < 64 → ¬inRuns key (readoutRow a later) (key + y.1 + k)) →
          (m.race.kept ≠ [] ∧ u.scratch.byte (key + y.1 + k) = s.scratch.byte (key + y.1 + k)) ∨
          u.scratch.byte (key + y.1 + k)
            = BitVec.ofNat 8 (packBits (fmtWidth (tdFmt a)) ((upFrom 0 64).map (code i)) / 256 ^ (y.2.1 + k))) := by
  intro key a
  obtain ⟨u, n, hu, hkind, hperf, hout, -, honly, hscratch⟩ := State.muWrote_spec h.op h.kind (runsAt key (readoutRuns a))
    (s.putRows o m key 64).1 (s.putRows o m key 64).2
  have hstep : s.muRow o m key = u := by
    rw [← hu, State.muRow, if_neg (by omega)]
  have hdiff := State.putRows_differsIn (o := o) (m := m) hwf key
  refine ⟨u, n, by rw [h.exec_muRow hc, hstep], honly, hkind, hperf, hout, fun x hx => ?_, fun hdown hmx i y k hi hy hk hlater => ?_⟩
  · rw [hscratch]
    refine Race.byte_merge_of_differsIn m.race hdiff (fun hin => ?_)
    obtain ⟨y, hy, hyx⟩ := mem_readoutRuns hin
    have := hx y hy
    omega
  · have hbyte := Memory.byte_readoutRows key a fmtF32 .rne m.sat hwf (s.returned o m) hi hy hk hlater
      (fun later _ _ hin => by simp [inScale, hmx] at hin)
    rw [← State.putRows_scratch hdown, readoutNumber_plain hmx] at hbyte
    rw [hscratch]
    exact Race.byte_merge_of_eq m.race s.scratch hdiff.1 hbyte

end

end Sys2Proof.Machine
end

section
/-! MU_COMPLETION (R37, R194, R195) and the steps of the Carousel (R211 to R214, R228). -/

namespace Sys2Proof.Machine

/-! ### MU_COMPLETION -/

theorem State.applyTo_tiles {s : State} {t : Token} {f : Frame} {st : SlotState} (hst : keyed f.slots t.slot = some st)
    (hc : st.count ≠ 0) : (s.applyTo t f).tiles = s.tiles := by
  have hdec := Frame.decrement_of_count hst hc
  obtain ⟨cs, gs, lc, htaken⟩ := s.taken_eq t (f.countedDown t.slot st) f
  generalize (if st.count = 1 then (keyed f.desc.slots t.slot).map (·.thr) else none) = fires at hdec
  cases fires with
  | none =>
    rw [State.applyTo_of_still hdec, htaken]
    rfl
  | some thr =>
    obtain ⟨fs, n, rd, henq⟩ := (s.taken t (f.countedDown t.slot st) f).enqueueWith_eq (f.countedDown t.slot st).site
      (f.countedDown t.slot st).key thr (((keyed (f.countedDown t.slot st).desc.threads thr).map (·.cls)).getD 0) none
    rw [State.applyTo_of_fires hdec, State.enqueue, henq, htaken]
    rfl

/-- The signal of an operation that finds its frame is applied to it (R43, R291). -/
theorem State.signalOp_spec {s : State} {o : Op} {f : Frame} {st : SlotState} (hd : o.dropped = false)
    (hf : s.finds o.site o.key o.epoch o.lid f) (hst : keyed f.slots o.slot = some st) (hn : st.count ≠ 0) :
    ∃ l, (s.signalOp o).frameAt o.site o.key = some (s.signalFrame o f st l) ∧ (s.signalOp o).op o.id = none ∧
      (s.signalOp o).kept = s.kept ∧ (s.signalOp o).tiles = s.tiles := by
  obtain ⟨lc, n, ts, hsig⟩ := s.signalled_eq o
  have hfinds : (s.signalled o).finds (s.signalToken o).dcell (s.signalToken o).key (s.signalToken o).epoch
      (s.signalToken o).lid f := by
    rw [hsig]
    exact hf
  obtain ⟨⟨l, hat⟩, -, -, hkept, -, hops⟩ := State.applyTo_spec (t := s.signalToken o) hfinds.1 hst hn
  rw [State.signalOp_eq hd, State.applyToken_of_finds hfinds]
  refine ⟨l, hat, ?_, ?_, ?_⟩
  · rw [State.op, hops, hsig]
    simp
  · rw [hkept, hsig]
    rfl
  · rw [State.applyTo_tiles hst hn, hsig]

theorem muCompletion_spec {s : State} {site : Nat} {o : Op} {m : Mu} {f : Frame} {st : SlotState}
    (hhead : s.muHead site = some (o, m)) (hperf : m.performed = true) (hheld : o.heldOp = none) (hh : s.hw.health ≠ .fatal)
    (hd : o.dropped = false) (hf : s.finds o.site o.key o.epoch o.lid f) (hst : keyed f.slots o.slot = some st)
    (hn : st.count ≠ 0) : ∃ u g, Sys2Proof.Machine.exec (.muCompletion site) s = .next u ∧ u.op o.id = none ∧
      u.frameAt o.site o.key = some g ∧
      keyed g.slots o.slot = some { st with count := if st.count = 1 then st.reload else st.count - 1 } ∧
      g.flags = f.flags ||| m.flags ∧ g.words = f.words ∧ u.mem = s.mem ∧ u.scratch = s.scratch ∧ u.tiles = s.tiles := by
  have hsignal : o.signal = (.none, 0, 3, m.flags) := by simp only [Op.signal, (State.muHead_mem hhead).2.1]
  have hwaits : s.signalWaits o = false := by
    obtain ⟨hf, -, hl, -⟩ := hf
    simp [State.signalWaits, State.needsEntry, hf, hl]
  obtain ⟨l, hat, hop, hkept, htiles⟩ := State.signalOp_spec hd hf hst hn
  obtain ⟨hmem, -, hscratch, -⟩ := State.kept_eq_iff.mp hkept
  refine ⟨s.signalOp o, s.signalFrame o f st l, ?_, hop, hat, State.signalFrame_slots, ?_,
    State.signalFrame_of_none (congrArg (·.1) hsignal), hmem, hscratch, htiles⟩
  · show execMuCompletion site s = _
    simp [execMuCompletion, hhead, hperf, hheld, hh, hwaits]
  · rw [State.signalFrame_flags, hsignal]

/-! ### CAROUSEL_ENTRY -/

/-- A request that enters waits for its slot, which admits it, and what it reserves is free (R228, R231). -/
theorem State.admitted_spec {s : State} {site t : Nat} {j : CarJob} (h : s.admitted site t = some j) :
    j ∈ s.waitingJobs site ∧ s.canEnter j t = true := by
  unfold State.admitted at h
  dsimp only at h
  split at h
  case h_1 j' hj =>
    split at h
    case isTrue hcan =>
      obtain rfl := Option.some.inj h
      exact ⟨List.mem_of_mem_filter (leastBy_mem hj), hcan⟩
    case isFalse => cases h
  case h_2 =>
    have hmem := leastBy_mem h
    exact ⟨List.mem_of_mem_filter hmem, (List.mem_filter.mp hmem).2⟩

theorem State.mem_waitingJobs {s : State} {site : Nat} {j : CarJob} (h : j ∈ s.waitingJobs site) :
    j ∈ s.carJobs ∧ j.site = site ∧ j.entered = none ∧ j.delivered = false ∧
      ∃ g, s.gslot site j.gslot = some g ∧ g.broken = false := by
  obtain ⟨hmem, hwait⟩ := List.mem_filter.mp h
  simp only [Bool.and_eq_true, beq_iff_eq, Option.isNone_iff_eq_none, Bool.not_eq_true'] at hwait
  obtain ⟨⟨⟨hsite, hent⟩, hdel⟩, hslot⟩ := hwait
  obtain ⟨g, hg, hbroken⟩ := Option.map_eq_some_iff.mp hslot
  exact ⟨hmem, hsite, hent, hdel, g, hg, by simpa using hbroken⟩

theorem State.canEnter_free {s : State} {j : CarJob} {t : Nat} {g : GSlot} (h : s.canEnter j t = true)
    (hg : s.gslot j.site j.gslot = some g) {r : Nat × Nat} (hr : r ∈ g.graph.reserves t) {x : CarJob} (hx : x ∈ s.carJobs)
    (hsite : x.site = j.site) : r ∉ x.holds := by
  intro hhold
  rw [State.canEnter, hg] at h
  have hfree := List.all_eq_true.mp h r hr
  have htaken : r ∈ (s.carJobs.filter (fun x => x.site == j.site)).flatMap (·.holds) :=
    List.mem_flatMap.mpr ⟨x, List.mem_filter.mpr ⟨hx, by simpa using hsite⟩, hhold⟩
  simp [htaken] at hfree

theorem carouselEntry_spec (s : State) (site : Nat) :
    let now := s.carNow site
    let kept := s.carJobs.filter (fun j =>
      !(j.site == site && (j.delivered && j.holds.all (fun r => decide (r.2 < now + 1)))))
    let s1 : State := { s with carClock := putKeyed s.carClock site (now + 1), carJobs := kept }
    (s.admitted site now = none → Sys2Proof.Machine.exec (.carouselEntry site) s = .next s1) ∧
    (∀ j, s.admitted site now = some j → ∃ g, s.gslot site j.gslot = some g ∧ g.broken = false ∧ j ∈ s.carJobs ∧
      j.entered = none ∧ j.delivered = false ∧
      (∀ r ∈ g.graph.reserves now, ∀ x ∈ s.carJobs, x.site = site → r ∉ x.holds) ∧
      Sys2Proof.Machine.exec (.carouselEntry site) s = .next { s1 with
        carJobs := updateFirst (· == j) (fun j => { j with entered := some now, holds := g.graph.reserves now }) kept }) := by
  intro now kept s1
  refine ⟨fun h => ?_, fun j h => ?_⟩
  · show execCarouselEntry site s = _
    simp only [execCarouselEntry]
    rw [h]
    rfl
  · obtain ⟨hwait, hcan⟩ := State.admitted_spec h
    obtain ⟨hmem, rfl, hent, hdel, g, hg, hbroken⟩ := State.mem_waitingJobs hwait
    refine ⟨g, hg, hbroken, hmem, hent, hdel, fun r hr x hx hsite => State.canEnter_free hcan hg hr hx hsite, ?_⟩
    show execCarouselEntry j.site s = _
    simp only [execCarouselEntry]
    rw [h]
    dsimp only
    rw [hg]
    rfl

/-! ### CAROUSEL_RESULT -/

section
variable {s : State} {j : CarJob} {rest : List CarJob} {g : GSlot} {t : Nat}

theorem carouselResult_due (hjobs : s.carJobs = j :: rest) (hent : j.entered = some t) (hdel : j.delivered = false)
    (hg : s.gslot j.site j.gslot = some g) (hdue : t + g.graph.lat ≤ s.carNow j.site) :
    Sys2Proof.Machine.exec (.carouselResult j.site) s = .next (s.deliverResult j g.graph) := by
  show execCarouselResult j.site s = _
  simp [execCarouselResult, hjobs, hent, hdel, hg, hdue]

theorem updateFirst_head {α : Type} {p : α → Bool} {a : α} (h : p a = true) (f : α → α) (l : List α) :
    updateFirst p f (a :: l) = f a :: l := if_pos h

theorem State.updateOp_congr {s : State} {id : Nat} {o : Op} (ho : s.op id = some o) {f f' : Op → Op} (h : f o = f' o) :
    s.updateOp id f = s.updateOp id f' := by
  refine congrArg (fun ops => { s with ops := ops }) (updateFirst_congr (fun x hx => ?_))
  obtain rfl : x = o := Option.some.inj (hx.symm.trans ho)
  exact h

/-- A destination of an `xop` that takes the active elements of a result (R170, R212). -/
def Inst.putLanes (i : Inst) (z : Bool) (m : W64) (d : Nat) (v : VWord) : Inst :=
  i.setV (BitVec.ofNat 5 d) (masked z m 32 (i.getV (BitVec.ofNat 5 d)) (elemAt 32 v))

/-- A runner that has got the results of its `xop`. -/
def Inst.answered (i : Inst) (z : Bool) (m : W64) (d : Nat) (two : Bool) (r0 r1 : VWord) (fl : BitVec 5) : Inst :=
  { (if two then (i.putLanes z m d r0).putLanes z m (d + 1) r1 else i.putLanes z m d r0).raise fl with phase := .running }

theorem Inst.answered_keeps (i : Inst) (z : Bool) (m : W64) (d : Nat) (two : Bool) (r0 r1 : VWord) (fl : BitVec 5) :
    let h := i.answered z m d two r0 r1 fl
    h.site = i.site ∧ h.runner = i.runner ∧ h.flags = i.flags ||| fl ∧ h.s = i.s ∧ h.m = i.m ∧ h.effects = i.effects ∧
      h.pc = i.pc := by
  cases two <;> exact ⟨rfl, rfl, rfl, rfl, rfl, rfl, rfl⟩

theorem ofNat5_succ_ne (d : Nat) : BitVec.ofNat 5 (d + 1) ≠ BitVec.ofNat 5 d := by
  intro h
  have := congrArg BitVec.toNat h
  simp at this
  omega

theorem Inst.getV_putLanes_self (i : Inst) (z : Bool) (m : W64) (d : Nat) (v : VWord) :
    (i.putLanes z m d v).getV (BitVec.ofNat 5 d) = masked z m 32 (i.getV (BitVec.ofNat 5 d)) (elemAt 32 v) := by
  rw [Inst.putLanes, Inst.getV_setV, if_pos rfl]

theorem Inst.getV_putLanes_other (i : Inst) (z : Bool) (m : W64) (v : VWord) {d e : Nat} (h : BitVec.ofNat 5 e ≠ BitVec.ofNat 5 d) :
    (i.putLanes z m d v).getV (BitVec.ofNat 5 e) = i.getV (BitVec.ofNat 5 e) := by
  rw [Inst.putLanes, Inst.getV_setV, if_neg h]

theorem Inst.getV_answered (i : Inst) (z : Bool) (m : W64) (d : Nat) (two : Bool) (r0 r1 : VWord) (fl : BitVec 5) :
    (i.answered z m d two r0 r1 fl).getV (BitVec.ofNat 5 d) = masked z m 32 (i.getV (BitVec.ofNat 5 d)) (elemAt 32 r0) := by
  cases two with
  | true =>
    refine Eq.trans ?_ (i.getV_putLanes_self z m d r0)
    exact Inst.getV_putLanes_other _ z m r1 (ofNat5_succ_ne d).symm
  | false => exact i.getV_putLanes_self z m d r0

theorem Inst.getV_answered_two (i : Inst) (z : Bool) (m : W64) (d : Nat) (r0 r1 : VWord) (fl : BitVec 5) :
    (i.answered z m d true r0 r1 fl).getV (BitVec.ofNat 5 (d + 1))
      = masked z m 32 (i.getV (BitVec.ofNat 5 (d + 1))) (elemAt 32 r1) := by
  rw [← Inst.getV_putLanes_other i z m r0 (ofNat5_succ_ne d)]
  exact (i.putLanes z m d r0).getV_putLanes_self z m (d + 1) r1

/-- The results of a request, by lanes. -/
def CarJob.lanes (j : CarJob) (g : Graph) : List (Nat × Nat × BitVec 5) := g.call j.op0 j.op1 j.op2 j.sc

/-- The flags that the active elements of a request raise. -/
def CarJob.raised (j : CarJob) (g : Graph) : BitVec 5 := flagsOf j.mask 64 (fun e => ((j.lanes g).getD e (0, 0, 0)).2.2)

theorem carouselResult_runner {r d : Nat} {i : Inst} {k : W64} {z : Bool} (hjobs : s.carJobs = j :: rest) (hent : j.entered = some t)
    (hdel : j.delivered = false) (hg : s.gslot j.site j.gslot = some g) (hdue : t + g.graph.lat ≤ s.carNow j.site)
    (hwho : j.who = .runner r) (hi : s.instAt j.site r = some i) (hphase : i.phase = .waitXop d k z) :
    let lanes := j.lanes g.graph
    ∃ u h, Sys2Proof.Machine.exec (.carouselResult j.site) s = .next u ∧ u.instAt j.site r = some h ∧ h.phase = .running ∧
      h.getV (BitVec.ofNat 5 d) = masked z k 32 (i.getV (BitVec.ofNat 5 d)) (elemAt 32 (ofLanes 32 (lanes.map (·.1)))) ∧
      (g.graph.two = true → h.getV (BitVec.ofNat 5 (d + 1))
        = masked z k 32 (i.getV (BitVec.ofNat 5 (d + 1))) (elemAt 32 (ofLanes 32 (lanes.map (·.2.1))))) ∧
      h.flags = i.flags ||| j.raised g.graph ∧ h.s = i.s ∧ h.m = i.m ∧ h.effects = i.effects ∧ h.pc = i.pc ∧
      u.carJobs = { j with delivered := true } :: rest ∧ { u with insts := s.insts, carJobs := s.carJobs } = s := by
  intro lanes
  let r0 := ofLanes 32 (lanes.map (·.1))
  let r1 := ofLanes 32 (lanes.map (·.2.1))
  let h := i.answered z k d g.graph.two r0 r1 (j.raised g.graph)
  let s1 : State := { s with carJobs := { j with delivered := true } :: rest }
  obtain ⟨hsite, hrunner, hflags, hs, hm, heffects, hpc⟩ := i.answered_keeps z k d g.graph.two r0 r1 (j.raised g.graph)
  have hdeliver : s.deliverResult j g.graph = s1.putInst h := by
    have hi1 : State.instAt { s with carJobs := { j with delivered := true } :: rest } j.site r = some i := hi
    unfold State.deliverResult
    dsimp only
    rw [hjobs, updateFirst_head (p := (· == j)) (beq_self_eq_true j)]
    split
    case h_1 r' hr =>
      obtain rfl : r = r' := by simpa [hwho] using hr
      rw [hi1]
      dsimp only
      rw [hphase]
      rfl
    case h_2 hr => simp [hwho] at hr
  have hat : (s1.putInst h).instAt j.site r = some h := State.instAt_putInst_of (i := i) hi h hsite hrunner
  refine ⟨_, h, (carouselResult_due hjobs hent hdel hg hdue).trans (congrArg _ hdeliver), hat, rfl,
    i.getV_answered z k d g.graph.two r0 r1 _, fun htwo => ?_, hflags, hs, hm, heffects, hpc, rfl, rfl⟩
  dsimp only [h]
  rw [htwo]
  exact i.getV_answered_two z k d r0 r1 _

theorem carouselResult_mu {o : Op} {m : Mu} (hjobs : s.carJobs = j :: rest) (hent : j.entered = some t)
    (hdel : j.delivered = false) (hg : s.gslot j.site j.gslot = some g) (hdue : t + g.graph.lat ≤ s.carNow j.site)
    (hwho : j.who = .mu o.id) (ho : s.op o.id = some o) (hk : o.kind = .mu m) :
    Sys2Proof.Machine.exec (.carouselResult j.site) s = .next ({ s with carJobs := { j with delivered := true } :: rest }.updateOp o.id
      (fun x : Op => { x with kind := .mu { m with
        out := m.out ++ [ofLanes 32 ((j.lanes g.graph).map (fun e : Nat × Nat × BitVec 5 => e.1))], flags := m.flags ||| j.raised g.graph } })) := by
  rw [carouselResult_due hjobs hent hdel hg hdue]
  unfold State.deliverResult
  dsimp only
  rw [hjobs, updateFirst_head (p := (· == j)) (beq_self_eq_true j)]
  split
  case h_1 hr => simp [hwho] at hr
  case h_2 op hop =>
    obtain rfl : o.id = op := by simpa [hwho] using hop
    refine congrArg _ (State.updateOp_congr (o := o) ?_ ?_)
    · exact ho
    · rw [hk]
      rfl

end

/-! ### XLD_PROCESS, XLD_WAIT_RETRY and XUNL_COMPLETE -/

section
variable {s : State} {o : Op} {n : Nat}

/-- An `xld` that takes the cases of R213. -/
theorem exec_xldStep (ho : s.op o.id = some o) (hk : o.kind = .xld n .fresh) (hheld : o.heldOp = none)
    (hdrained : s.drained o.key.ctx = false) {w : Instr} (hw : w ∈ [Instr.xldProcess o.id, .xldWaitRetry o.id]) :
    Sys2Proof.Machine.exec w s = .next (s.xldStep o n) := by
  have hfresh : s.freshXld o.id = some (o, n) := by
    unfold State.freshXld
    rw [ho]
    dsimp only
    rw [hk]
    simp [hheld, hdrained]
  rcases List.mem_cons.mp hw with rfl | hw
  · show execXldProcess o.id s = _
    rw [execXldProcess, hfresh]
  · obtain rfl := List.mem_singleton.mp hw
    show execXldWaitRetry o.id s = _
    rw [execXldWaitRetry, hfresh]

section
variable (hd : o.dropped = false)

include hd in
theorem State.xldStep_invalid (hv : (s.graphEntry o.key.ctx n).1 = false) :
    s.xldStep o n = s.badGraph o n 0x01 (s.graphEntry o.key.ctx n).2 := by
  simp [State.xldStep, hd, hv]

include hd in
theorem State.xldStep_misaligned (hv : (s.graphEntry o.key.ctx n).1 = true) (ha : (s.graphEntry o.key.ctx n).2.toNat % 64 ≠ 0) :
    s.xldStep o n = s.badGraph o n 0x02 (s.graphEntry o.key.ctx n).2 := by
  simp [State.xldStep, hd, hv, ha]

include hd in
theorem State.xldStep_held (hv : (s.graphEntry o.key.ctx n).1 = true) (ha : (s.graphEntry o.key.ctx n).2.toNat % 64 = 0)
    {g : GSlot} (hg : s.slotOf o.site n = some g) (himage : g.image = (s.graphEntry o.key.ctx n).2) :
    s.xldStep o n = s.setXld o.id (if g.st == .resident then .ready else .on g.slot false) := by
  simp [State.xldStep, hd, hv, ha, hg, himage]

include hd in
theorem State.xldStep_loads (hv : (s.graphEntry o.key.ctx n).1 = true) (ha : (s.graphEntry o.key.ctx n).2.toNat % 64 = 0) {k : Nat}
    (hnone : s.slotOf o.site n = none) (hfree : (upFrom 0 8).find? (fun k => (s.gslot o.site k).isNone) = some k) :
    s.xldStep o n = s.startLoad o k n (s.graphEntry o.key.ctx n).2 := by
  simp [State.xldStep, hd, hv, ha, hnone, hfree]

end

theorem xunlComplete_spec (ho : s.op o.id = some o) (hk : o.kind = .xunl n false) :
    let done (u : State) : State := u.updateOp o.id (fun x => { x with kind := .xunl n true })
    (s.slotOf o.site n = none → Sys2Proof.Machine.exec (.xunlComplete o.id) s = .next (done s)) ∧
    (∀ g, s.slotOf o.site n = some g → g.st = .resident → g.pins = 0 → s.slotBusyCar o.site g.slot = false →
      Sys2Proof.Machine.exec (.xunlComplete o.id) s = .next (done (s.emptySlot o.site g.slot))) ∧
    (∀ g, s.slotOf o.site n = some g → (g.pins ≠ 0 ∨ g.st = .loading) →
      Sys2Proof.Machine.exec (.xunlComplete o.id) s = .next s) := by
  intro done
  refine ⟨fun hnone => ?_, fun g hg hst hpins hbusy => ?_, fun g hg hwaits => ?_⟩
  all_goals show execXunlComplete o.id s = _
  · simp [execXunlComplete, ho, hk, hnone, done]
  · simp [execXunlComplete, ho, hk, hg, hst, hpins, hbusy, done]
  · rcases hwaits with hpins | hst
    · simp [execXunlComplete, ho, hk, hg, hpins]
    · simp [execXunlComplete, ho, hk, hg, hst]

end

end Sys2Proof.Machine
end

section
/-! Graph slots (R211, R231): what of them faults and errors change, the end of a load, and the reload after an error. -/

namespace Sys2Proof.Machine

/-! ### Slots but for their pins -/

/-- A graph slot without its pins. -/
def GSlot.bare (g : GSlot) : GSlot := { g with pins := 0 }

/-- The graph slots of two states are the same but for their pins. -/
def State.sameSlots (s t : State) : Prop := t.gslots.map GSlot.bare = s.gslots.map GSlot.bare

theorem State.sameSlots_of_eq {s t : State} (h : t.gslots = s.gslots) : s.sameSlots t := congrArg (List.map GSlot.bare) h

theorem State.sameSlots_refl (s : State) : s.sameSlots s := rfl

theorem State.sameSlots_trans {s t u : State} (hst : s.sameSlots t) (htu : t.sameSlots u) : s.sameSlots u := Eq.trans htu hst

theorem State.sameSlots_after {s t u : State} (h : t.sameSlots u) (he : t.gslots = s.gslots) : s.sameSlots u :=
  h.trans (congrArg (List.map GSlot.bare) he)

theorem State.sameSlots_foldl {α : Type} {f : State → α → State} (hf : ∀ (t : State) a, t.sameSlots (f t a)) (l : List α) (s : State) :
    s.sameSlots (l.foldl f s) :=
  List.foldlRecOn l f (motive := s.sameSlots) s.sameSlots_refl (fun t ht a _ => State.sameSlots_trans ht (hf t a))

theorem State.gslot_bare (s : State) (site k : Nat) :
    (s.gslot site k).map GSlot.bare = (s.gslots.map GSlot.bare).find? (fun g => g.site == site && g.slot == k) := by
  rw [List.find?_map]
  rfl

theorem State.gslot_of_sameSlots {s t : State} (h : s.sameSlots t) (site k : Nat) :
    (t.gslot site k).map GSlot.bare = (s.gslot site k).map GSlot.bare := by
  rw [State.gslot_bare, State.gslot_bare, h]

theorem State.gslot_none_of_sameSlots {s t : State} (h : s.sameSlots t) {site k : Nat} (hn : s.gslot site k = none) :
    t.gslot site k = none := by
  have hmap := State.gslot_of_sameSlots h site k
  rw [hn] at hmap
  exact Option.map_eq_none_iff.mp hmap

theorem State.stuckSlot_of_sameSlots {s t : State} (h : s.sameSlots t) (site k : Nat) : t.stuckSlot site k = s.stuckSlot site k := by
  have hany (u : State) : u.stuckSlot site k = ((u.gslot site k).map GSlot.bare).any (·.stuck) := by
    unfold State.stuckSlot
    cases u.gslot site k <;> rfl
  rw [hany, hany, State.gslot_of_sameSlots h]

theorem map_updateFirst {α β : Type} {p : α → Bool} {f : α → α} {g : α → β} (h : ∀ x, g (f x) = g x) (l : List α) :
    (updateFirst p f l).map g = l.map g := by
  induction l with
  | nil => rfl
  | cons a t ih =>
    unfold updateFirst
    split
    · rw [List.map_cons, List.map_cons, h]
    · rw [List.map_cons, List.map_cons, ih]

theorem State.unpin_sameSlots (s : State) (site n : Nat) : s.sameSlots (s.unpin site n) := by
  refine map_updateFirst (fun g => ?_) s.gslots
  rfl

theorem State.dropOp_sameSlots (s : State) (id : Nat) : s.sameSlots (s.dropOp id) := by
  unfold State.dropOp
  split
  · exact s.sameSlots_refl
  · dsimp only
    split
    · split
      · exact State.unpin_sameSlots { s with ops := s.ops.filter (fun x => x.id != id) } _ _
      · exact State.sameSlots_of_eq rfl
    · exact State.sameSlots_of_eq rfl

theorem State.countTr_sameSlots (s : State) (t : Token) : s.sameSlots (s.countTr t) := by
  refine State.sameSlots_of_eq ?_
  unfold State.countTr State.count
  dsimp only
  split
  · split <;> rfl
  · rfl

theorem State.discardToken_sameSlots (s : State) (t : Token) : s.sameSlots (s.discardToken t) := by
  have hcount : s.sameSlots ((s.dropToken t.id).countTr t) :=
    State.sameSlots_trans (State.sameSlots_of_eq (t := s.dropToken t.id) rfl) (State.countTr_sameSlots _ t)
  unfold State.discardToken
  dsimp only
  split
  · exact State.sameSlots_trans hcount (State.unpin_sameSlots _ _ _)
  · exact hcount

theorem State.discardBody_sameSlots (s : State) (it : Item) : s.sameSlots (s.discardBody it) := by
  unfold State.discardBody
  split
  · obtain ⟨fs, n, as, h⟩ := s.settle_eq it.site it.key
    rw [h]
    exact State.sameSlots_of_eq rfl
  · exact s.dropOp_sameSlots _
  · split
    · exact s.discardToken_sameSlots _
    · exact s.sameSlots_refl

theorem State.releaseInst_sameSlots (s : State) (i : Inst) : s.sameSlots (s.releaseInst i) := by
  unfold State.releaseInst
  exact State.sameSlots_foldl (fun t n => t.unpin_sameSlots i.site n) i.pins _

theorem State.abandon_sameSlots (s : State) (i : Inst) : s.sameSlots (s.abandon i) := by
  obtain ⟨q, hq⟩ := s.dropRequest_eq i
  obtain ⟨fs, n, rd, h⟩ := ((s.dropRequest i).releaseInst i).enqueueWith_eq i.site i.key i.thr i.cls i.subst
  have hdrop : s.sameSlots (s.dropRequest i) := by
    rw [hq]
    exact State.sameSlots_of_eq rfl
  refine State.sameSlots_trans hdrop (State.sameSlots_trans (State.releaseInst_sameSlots _ i) ?_)
  unfold State.abandon
  rw [h]
  exact State.sameSlots_of_eq rfl

theorem State.raiseEvent_sameSlots (s : State) (cls tag : Nat) (ws : List W64) : s.sameSlots (s.raiseEvent cls tag ws) := by
  obtain ⟨ts, n, d, h⟩ := s.raiseEvent_eq cls tag ws
  rw [h]
  exact State.sameSlots_of_eq rfl

theorem State.haltAt_sameSlots (s : State) (it : Item) (ws : List W64) : s.sameSlots (s.haltAt it ws) := by
  obtain ⟨hs, ls, -, h⟩ := s.haltAt_eq it ws
  rw [h]
  exact State.sameSlots_after (State.raiseEvent_sameSlots _ 5 _ ws) rfl

theorem State.doubleFault_sameSlots (s : State) (it : Item) (ws : List W64) : s.sameSlots (s.doubleFault it ws) := by
  unfold State.doubleFault
  exact State.sameSlots_trans (s.discardBody_sameSlots it)
    (State.sameSlots_trans (State.sameSlots_foldl State.abandon_sameSlots _ _) (State.haltAt_sameSlots _ it ws))

theorem State.onlyLoads_sameSlots {s t : State} (h : s.onlyLoads t) : s.sameSlots t :=
  State.sameSlots_of_eq (by simpa using congrArg State.gslots h.2)

theorem State.ringFault_sameSlots (s : State) (f : FaultSpec) (it : Item) (gen : Nat) : s.sameSlots (s.ringFault f it gen) := by
  unfold State.ringFault
  split
  · split
    · exact State.sameSlots_of_eq rfl
    · exact State.sameSlots_after (State.raiseEvent_sameSlots _ 5 _ _) rfl
  · exact State.sameSlots_after (State.raiseEvent_sameSlots _ 5 _ _) rfl

/-- A fault changes no graph slot but its pins. -/
theorem State.raiseFault_sameSlots (s : State) (f : FaultSpec) : s.sameSlots (s.raiseFault f) := by
  have hnumbered : s.sameSlots (s.numbered f.site) := State.sameSlots_of_eq rfl
  by_cases hring : f.site = ringmaster
  · rw [State.raiseFault_ring hring]
    exact State.sameSlots_trans hnumbered (State.ringFault_sameSlots _ _ _ _)
  by_cases hdouble : f.fromHandler = true ∨ ¬∃ cb home, (s.numbered f.site).handlerHome f.site f.ctx f.lid f.cause cb home
  · obtain ⟨u, hu, heq⟩ := State.raiseFault_double hring hdouble
    rw [heq]
    exact State.sameSlots_trans hnumbered (State.sameSlots_trans (State.onlyLoads_sameSlots hu) (State.doubleFault_sameSlots _ _ _))
  · obtain ⟨hnot, hhome⟩ := not_or.mp hdouble
    obtain ⟨cb, home, hhome⟩ := not_not.mp hhome
    obtain ⟨u, hu, heq⟩ := State.raiseFault_sent hring (by simpa using hnot) hhome
    rw [heq]
    exact State.sameSlots_trans (State.sameSlots_trans hnumbered (State.onlyLoads_sameSlots hu)) (State.sameSlots_of_eq rfl)

theorem State.badGraph_sameSlots (s : State) (o : Op) (n code : Nat) (image : VAddr) : s.sameSlots (s.badGraph o n code image) :=
  State.sameSlots_after (State.raiseFault_sameSlots _ _) rfl

/-! ### Walks of an image (R386, R410) -/

/-- `t` is `s` but for kept translations. -/
def State.onlyWalks (s t : State) : Prop := { t with tlb := s.tlb, ctl := { t.ctl with walks := s.ctl.walks } } = s

theorem State.onlyWalks_trans {s t u : State} (hst : s.onlyWalks t) (htu : t.onlyWalks u) : s.onlyWalks u := by
  unfold State.onlyWalks at hst
  rw [← htu] at hst
  exact hst

theorem State.onlyWalks_keeps {s t : State} (h : s.onlyWalks t) : t.gslots = s.gslots ∧ t.tick = s.tick ∧ t.hw = s.hw := by
  have heq : { t with tlb := s.tlb, ctl := { t.ctl with walks := s.ctl.walks } } = s := h
  exact ⟨by simpa using congrArg State.gslots heq, by simpa using congrArg State.tick heq, by simpa using congrArg State.hw heq⟩

theorem State.noteFetch_onlyWalks (s : State) (site ctx va : Nat) : s.onlyWalks (s.noteFetch site ctx va) := by
  unfold State.noteFetch
  split
  · rfl
  · split
    · split <;> rfl
    · rfl

theorem State.noteUnits_onlyWalks (s : State) (site ctx : Nat) (image : VAddr) (k n : Nat) :
    s.onlyWalks (s.noteUnits site ctx image k n) := by
  induction n generalizing s k with
  | zero => rfl
  | succ n ih =>
    have hnote := s.noteFetch_onlyWalks site ctx (image + BitVec.ofNat 72 (64 * k)).toNat
    unfold State.noteUnits
    dsimp only
    split
    · exact hnote
    · exact State.onlyWalks_trans hnote (ih _ _)

theorem State.noteImage_onlyWalks (s : State) (site ctx : Nat) (image : VAddr) : s.onlyWalks (s.noteImage site ctx image) := by
  unfold State.noteImage
  split <;> exact State.noteUnits_onlyWalks s site ctx image 0 _

/-! ### GRAPH_LOAD_COMPLETE -/

section
variable {s : State} {site k : Nat} {g : GSlot}

theorem State.gslot_site (h : s.gslot site k = some g) : g.site = site ∧ g.slot = k := by
  simpa using List.find?_some h

theorem State.gslot_updateSlot (h : s.gslot site k = some g) {f : GSlot → GSlot} (hf : ∀ x, (f x).site = x.site ∧ (f x).slot = x.slot) :
    (s.updateSlot site k f).gslot site k = some (f g) := by
  refine (find?_updateFirst_self (fun x hx => ?_) s.gslots).trans (congrArg (Option.map f) h)
  simpa [hf x] using hx

theorem State.gslot_emptySlot (s : State) (site k : Nat) : (s.emptySlot site k).gslot site k = none := by
  refine List.find?_eq_none.mpr (fun x hx => ?_)
  have hne := (List.mem_filter.mp hx).2
  simpa [imp_iff_not_or] using hne

/-- A load that fails leaves its slot Empty (R213). -/
theorem State.gslot_failLoad {hold : State → Op → State} (hh : ∀ (t : State) o, t.sameSlots (hold t o)) (g : GSlot) :
    (s.failLoad g hold).gslot g.site g.slot = none := by
  have hempty : ((s.emptySlot g.site g.slot).settleXlds g.site g.slot .fresh).gslot g.site g.slot = none :=
    s.gslot_emptySlot g.site g.slot
  unfold State.failLoad
  dsimp only
  split
  · exact hempty
  · split
    · exact State.gslot_none_of_sameSlots (State.dropOp_sameSlots _ _) hempty
    · exact State.gslot_none_of_sameSlots (hh _ _) hempty

theorem State.settleXlds_waits (s : State) (site k : Nat) {st : XldState} (hst : ∀ b, st ≠ .on k b) :
    ∀ o ∈ (s.settleXlds site k st).ops, o.site = site → ∀ n b, o.kind ≠ .xld n (.on k b) := by
  intro o ho hsite n b hk
  obtain ⟨x, -, hx⟩ := List.mem_map.mp ho
  split at hx
  case h_1 m j l hkind =>
    split at hx
    case isTrue =>
      subst hx
      simp only [OpKind.xld.injEq] at hk
      exact hst b hk.2
    case isFalse hne =>
      subst hx
      rw [hk] at hkind
      simp only [OpKind.xld.injEq, XldState.on.injEq] at hkind
      simp [hsite, hkind.2.1] at hne
  case h_2 hkind =>
    subst hx
    exact hkind n k b hk

theorem graphLoadComplete_spec {bs : List Byte} (hg : s.gslot site k = some g)
    (hbs : s.fetchImage site (s.userAt site) g.image = .ok bs) (hst : g.st = .loading) (hdrained : s.drained (s.userAt site) = false) :
    (imageDefects bs (readGraph bs) = [] → ∃ u, Sys2Proof.Machine.exec (.graphLoadComplete site k false) s = .next u ∧
      u.gslot site k = some { g with st := .resident, graph := readGraph bs, lastUse := s.tick } ∧
      (∀ o ∈ u.ops, o.site = site → ∀ n b, o.kind ≠ .xld n (.on k b)) ∧
      { u with gslots := s.gslots, ops := s.ops, tlb := s.tlb, ctl := { u.ctl with walks := s.ctl.walks } } = s) ∧
    ((imageDefects bs (readGraph bs)).isEmpty = false → ∃ u, Sys2Proof.Machine.exec (.graphLoadComplete site k false) s = .next u ∧
      u.gslot site k = none) := by
  have hwalks := s.noteImage_onlyWalks site (s.userAt site) g.image
  have hexec : Sys2Proof.Machine.exec (.graphLoadComplete site k false) s = match imageDefects bs (readGraph bs) with
      | c :: _ => .next ((s.noteImage site (s.userAt site) g.image).failLoad g (fun s o => s.badGraph o g.n c g.image))
      | [] => .next ((s.noteImage site (s.userAt site) g.image).finishLoad g (readGraph bs)) := by
    show execGraphLoadComplete site k false s = _
    unfold execGraphLoadComplete
    rw [hg]
    dsimp only
    rw [hst, hdrained, hbs]
    rfl
  generalize s.noteImage site (s.userAt site) g.image = t at hwalks hexec
  obtain ⟨hslots, htick, -⟩ := State.onlyWalks_keeps hwalks
  have hat : t.gslot site k = some g := by rw [State.gslot, hslots]; exact hg
  obtain ⟨rfl, rfl⟩ := State.gslot_site hg
  refine ⟨fun hnone => ?_, fun hsome => ?_⟩
  · refine ⟨t.finishLoad g (readGraph bs), by rw [hexec, hnone], ?_,
      State.settleXlds_waits _ g.site g.slot (st := .ready) (fun _ => by simp), ?_⟩
    · rw [← htick]
      exact State.gslot_updateSlot hat (fun _ => ⟨rfl, rfl⟩)
    · exact congrArg (fun t : State => { t with gslots := s.gslots, ops := s.ops }) hwalks
  · obtain ⟨c, cs, hcs⟩ := List.exists_cons_of_ne_nil (fun h => by simp [h] at hsome : imageDefects bs (readGraph bs) ≠ [])
    exact ⟨_, by rw [hexec, hcs], State.gslot_failLoad (fun t o => t.badGraph_sameSlots o g.n c g.image) g⟩

end

/-! ### An error reported (R413) -/

/-- A save asked for of a partition in which a context is resident waits behind it. -/
theorem State.addSwitch_of_resident {s : State} {w : Switch} {r : Resident} (h : s.residentIn w.part = some r) :
    ∃ ct, s.addSwitch w = { s with ctl := ct } := by
  have hres : State.residentIn { s with ctl := { s.ctl with switches := s.ctl.switches ++ [w] } } w.part = some r := h
  unfold State.addSwitch State.pumpSwitch
  rw [hres]
  cases (s.ctl.switches ++ [w]).find? (fun x => x.part == w.part) with
  | none => exact ⟨_, rfl⟩
  | some x =>
    dsimp only
    split <;> exact ⟨_, rfl⟩

theorem State.healthEvent_eq (s : State) (code source : Nat) : ∃ ts n d, s.healthEvent code source =
    { s with hw := { s.hw with eventSeq := s.hw.eventSeq + 1 }, tokens := ts, nextId := n, sys := { s.sys with drops := d } } := by
  obtain ⟨ts, n, d, h⟩ := State.raiseEvent_eq { s with hw := { s.hw with eventSeq := s.hw.eventSeq + 1 } } 6 s.hw.eventSeq
    [BitVec.ofNat 64 code, BitVec.ofNat 64 source]
  exact ⟨ts, n, d, h⟩

/-- `t` is `s` but for the health record, the control state, the tokens and the event counters, with what errors are recorded. -/
def State.onlyHealth (s t : State) (errors : List (Nat × Nat × Bool)) : Prop := ∃ hw ct ts n sy,
  t = { s with hw := hw, ctl := ct, tokens := ts, nextId := n, sys := sy } ∧ hw.uncorrected = errors

theorem State.onlyHealth_healthEvent {s t : State} {errors : List (Nat × Nat × Bool)} (h : s.onlyHealth t errors) (code source : Nat) :
    s.onlyHealth (t.healthEvent code source) errors := by
  obtain ⟨hw, ct, ts, n, sy, rfl, herr⟩ := h
  obtain ⟨ts', n', d, heq⟩ := State.healthEvent_eq { s with hw := hw, ctl := ct, tokens := ts, nextId := n, sys := sy } code source
  exact ⟨_, _, _, _, _, heq, herr⟩

theorem State.retireCell_onlyHealth (s : State) (c : Nat) : s.onlyHealth (s.retireCell c) s.hw.uncorrected := by
  unfold State.retireCell
  dsimp only
  split
  · exact ⟨_, _, _, _, _, rfl, rfl⟩
  · split
    · exact ⟨_, _, _, _, _, rfl, rfl⟩
    · exact State.onlyHealth_healthEvent ⟨_, _, _, _, _, rfl, rfl⟩ _ _

theorem State.beginRetire_onlyHealth (s : State) (c : Nat) : s.onlyHealth (s.beginRetire c) s.hw.uncorrected := by
  unfold State.beginRetire
  split
  · exact ⟨_, _, _, _, _, rfl, rfl⟩
  · split
    case h_1 => exact s.retireCell_onlyHealth c
    case h_2 r hr =>
      obtain ⟨p, -, hres⟩ := Option.bind_eq_some_iff.mp hr
      have hpart : r.part = p := by simpa using List.find?_some hres
      obtain ⟨ct, h⟩ := State.addSwitch_of_resident (w := ⟨none, r.part, .firmware⟩) (r := r) (s := { s with
        hw := { s.hw with retiring := putNat s.hw.retiring c }
        ctl := { s.ctl with waiting :=
          if s.ctl.launches.any (fun l => l.ctx == r.ctx) && !s.ctl.waiting.contains r.ctx then s.ctl.waiting ++ [r.ctx]
          else s.ctl.waiting } }) (by rw [hpart]; exact hres)
      exact ⟨_, _, _, _, _, h, rfl⟩

/-- An error reported stands in the record of the package (R413). -/
theorem State.reportError_onlyHealth (s : State) (c : Nat) (control : Bool) : ∃ errors, s.onlyHealth (s.reportError c control) errors ∧
    (c ≠ ringmaster → (c, s.sys.rtime, control) ∈ errors) := by
  unfold State.reportError
  split
  case isTrue hc => exact ⟨s.hw.uncorrected, ⟨_, _, _, _, _, rfl, rfl⟩, fun h => absurd hc h⟩
  case isFalse =>
    refine ⟨(c, s.sys.rtime, control) :: s.hw.uncorrected, ?_, fun _ => List.mem_cons_self⟩
    dsimp only
    split
    · obtain ⟨hw, ct, ts, n, sy, h, herr⟩ := State.beginRetire_onlyHealth
        { s with hw := { s.hw with uncorrected := (c, s.sys.rtime, control) :: s.hw.uncorrected } } c
      exact ⟨hw, ct, ts, n, sy, h, herr⟩
    · exact ⟨_, _, _, _, _, rfl, rfl⟩

/-! ### CONFIG_ERROR_RELOAD (R231) -/

section
variable {s : State} {site k : Nat} {g : GSlot}

theorem configErrorReload_stuck (hg : s.gslot site k = some g) (h : g.stuck = true) (again : Bool) :
    Sys2Proof.Machine.exec (.configErrorReload site k again) s = .next s := by
  show execConfigErrorReload site k again s = _
  simp [execConfigErrorReload, hg, h]

/-- The requests of a damaged slot out of the array, to be entered again later (R231). -/
def leaveSlot (site k : Nat) (j : CarJob) : CarJob :=
  if j.site == site && j.gslot == k && !j.delivered then { j with entered := none, holds := [] } else j

/-- A slot damaged, which admits nothing (R231). -/
def State.breakSlot (s : State) (site k : Nat) : State :=
  { s.updateSlot site k (fun g => { g with broken := true }) with carJobs := s.carJobs.map (leaveSlot site k) }

theorem leaveSlot_keeps (site k : Nat) (j : CarJob) :
    (leaveSlot site k j).site = j.site ∧ (leaveSlot site k j).gslot = j.gslot ∧ (leaveSlot site k j).delivered = j.delivered := by
  unfold leaveSlot
  split <;> exact ⟨rfl, rfl, rfl⟩

theorem leaveSlot_waits {site k : Nat} {j : CarJob} (hsite : (leaveSlot site k j).site = site)
    (hslot : (leaveSlot site k j).gslot = k) (hdel : (leaveSlot site k j).delivered = false) :
    (leaveSlot site k j).entered = none ∧ (leaveSlot site k j).holds = [] := by
  obtain ⟨hs, hk, hd⟩ := leaveSlot_keeps site k j
  rw [hs] at hsite
  rw [hk] at hslot
  rw [hd] at hdel
  unfold leaveSlot
  rw [if_pos (by simp [hsite, hslot, hdel])]
  exact ⟨rfl, rfl⟩

/-- A first error stops the admission of the slot and takes its requests out of the array. -/
theorem configErrorReload_breaks (hg : s.gslot site k = some g) (hst : g.st = .resident) (hstuck : g.stuck = false)
    (hb : g.broken = false) (again : Bool) : ∃ u, Sys2Proof.Machine.exec (.configErrorReload site k again) s = .next u ∧
      u.gslot site k = some { g with broken := true } ∧
      (∀ j ∈ u.carJobs, j.site = site → j.gslot = k → j.delivered = false → j.entered = none ∧ j.holds = []) ∧
      (site ≠ ringmaster → (site, s.sys.rtime, false) ∈ u.hw.uncorrected) ∧
      u.frames = s.frames ∧ u.insts = s.insts ∧ u.ops = s.ops ∧ u.mem = s.mem ∧ u.scratch = s.scratch := by
  let t := s.breakSlot site k
  have hat : t.gslot site k = some { g with broken := true } := State.gslot_updateSlot hg (fun _ => ⟨rfl, rfl⟩)
  have hexec : Sys2Proof.Machine.exec (.configErrorReload site k again) s = .next (t.reportError site false) := by
    show execConfigErrorReload site k again s = _
    unfold execConfigErrorReload
    rw [hg]
    dsimp only
    rw [hst, hstuck, hb]
    rfl
  obtain ⟨errors, ⟨hw, ct, ts, n, sy, heq, herr⟩, hmem⟩ := t.reportError_onlyHealth site false
  refine ⟨_, hexec, ?_, ?_, fun hring => ?_, ?_⟩
  · rw [heq]
    exact hat
  · rw [heq]
    intro j hj hsite hslot hdel
    obtain ⟨x, -, rfl⟩ := List.mem_map.mp hj
    exact leaveSlot_waits hsite hslot hdel
  · rw [heq]
    exact herr ▸ hmem hring
  · rw [heq]
    exact ⟨rfl, rfl, rfl, rfl, rfl⟩

theorem configErrorReload_of_broken (hg : s.gslot site k = some g) (hst : g.st = .resident) (hstuck : g.stuck = false)
    (hb : g.broken = true) (hops : ∀ o ∈ s.ops, o.dropped = false) (again : Bool) :
    execConfigErrorReload site k again s =
      let ended (t : State) : State := t.healthEvent 0x03 (sourceWord site (t.userAt site))
      if again then .next (ended ((s.haltCarousel g 0x11).reportError site false))
      else
        let s1 := s.noteImage site (s.userAt site) g.image
        match s.fetchImage site (s.userAt site) g.image with
        | .error t => .next (s1.holdReload g t)
        | .ok bs =>
          match imageDefects bs (readGraph bs) with
          | c :: _ => .next (ended (s1.haltCarousel g c))
          | [] => .next (ended (s1.updateSlot site k (fun g => { g with graph := readGraph bs, broken := false }))) := by
  have hnone : s.ops.any (fun o => o.site == site && o.dropped && o.kind == .xld g.n .fresh) = false :=
    List.any_eq_false.mpr (fun o ho => by simp [hops o ho])
  unfold execConfigErrorReload
  rw [hg]
  dsimp only
  rw [hst, hstuck, hb, hnone]
  rfl

/-- A reload without a defect restores the slot, and event 0x03 is raised. -/
theorem configErrorReload_restores {bs : List Byte} (hg : s.gslot site k = some g) (hst : g.st = .resident) (hstuck : g.stuck = false)
    (hb : g.broken = true) (hops : ∀ o ∈ s.ops, o.dropped = false)
    (hbs : s.fetchImage site (s.userAt site) g.image = .ok bs) (hsound : imageDefects bs (readGraph bs) = []) :
    ∃ u, Sys2Proof.Machine.exec (.configErrorReload site k false) s = .next u ∧
      u.gslot site k = some { g with graph := readGraph bs, broken := false } ∧ u.hw.eventSeq = s.hw.eventSeq + 1 := by
  have hexec : Sys2Proof.Machine.exec (.configErrorReload site k false) s = _ := configErrorReload_of_broken hg hst hstuck hb hops false
  dsimp only at hexec
  rw [if_neg Bool.false_ne_true, hbs] at hexec
  dsimp only at hexec
  rw [hsound] at hexec
  obtain ⟨hslots, -, hhw⟩ := State.onlyWalks_keeps (s.noteImage_onlyWalks site (s.userAt site) g.image)
  generalize s.noteImage site (s.userAt site) g.image = t at hslots hhw hexec
  have hat : t.gslot site k = some g := by rw [State.gslot, hslots]; exact hg
  refine ⟨_, hexec, ?_, ?_⟩
  all_goals
    obtain ⟨ts, n, d, h⟩ := State.healthEvent_eq (t.updateSlot site k (fun g => { g with graph := readGraph bs, broken := false }))
      0x03 (sourceWord site ((t.updateSlot site k (fun g => { g with graph := readGraph bs, broken := false })).userAt site))
    rw [h]
  · exact State.gslot_updateSlot hat (fun _ => ⟨rfl, rfl⟩)
  · exact congrArg (fun x => x.eventSeq + 1) hhw

/-- A context halted for its Carousel stands halted on the cell, and the slot stays damaged (R231, R368). -/
theorem State.haltCarousel_spec (hg : s.gslot site k = some g) (code : Nat) :
    (s.haltCarousel g code).haltedAt site (s.userAt site) = true ∧ (s.haltCarousel g code).stuckSlot site k = true := by
  obtain ⟨rfl, rfl⟩ := State.gslot_site hg
  unfold State.haltCarousel
  refine ⟨State.doubleFault_haltedAt .., ?_⟩
  rw [State.stuckSlot_of_sameSlots (State.doubleFault_sameSlots _ _ _)]
  have hat := State.gslot_updateSlot hg (f := fun g => { g with broken := true, stuck := true }) (fun _ => ⟨rfl, rfl⟩)
  exact (congrArg (Option.any (·.stuck)) hat :)

theorem State.onlyHealth_keeps {s t : State} {errors : List (Nat × Nat × Bool)} (h : s.onlyHealth t errors) :
    t.halted = s.halted ∧ t.gslots = s.gslots := by
  obtain ⟨hw, ct, ts, n, sy, rfl, -⟩ := h
  exact ⟨rfl, rfl⟩

/-- A second error halts the context on the cell, and the slot stays damaged. -/
theorem configErrorReload_halts (hg : s.gslot site k = some g) (hst : g.st = .resident) (hstuck : g.stuck = false)
    (hb : g.broken = true) (hops : ∀ o ∈ s.ops, o.dropped = false) :
    ∃ u, Sys2Proof.Machine.exec (.configErrorReload site k true) s = .next u ∧ u.haltedAt site (s.userAt site) = true ∧
      u.stuckSlot site k = true := by
  have hexec : Sys2Proof.Machine.exec (.configErrorReload site k true) s = _ := configErrorReload_of_broken hg hst hstuck hb hops true
  dsimp only at hexec
  rw [if_pos rfl] at hexec
  obtain ⟨hhalted, hstuck⟩ := State.haltCarousel_spec hg 0x11
  generalize s.haltCarousel g 0x11 = t at hexec hhalted hstuck
  obtain ⟨errors, hreport, -⟩ := t.reportError_onlyHealth site false
  obtain ⟨hkept, hslots⟩ := State.onlyHealth_keeps (State.onlyHealth_healthEvent hreport 0x03
    (sourceWord site ((t.reportError site false).userAt site)))
  refine ⟨_, hexec, ?_, ?_⟩
  · rw [State.haltedAt, hkept]
    exact hhalted
  · rw [State.stuckSlot, State.gslot, hslots]
    exact hstuck

end

end Sys2Proof.Machine
end

section
/-! MatrixAndCarouselSteps (R73, R195, R205 to R208, R211 to R214, R228, R231): the steps put together. -/

namespace Sys2Proof.Machine

/-- The steps of a row of an `mrdx` (R208). -/
theorem muPerform_row {s : State} {site : Nat} {o : Op} {m : Mu} (h : s.muReady site o m) (hc : m.cmd = .rdx)
    (hrow : m.out.length < 64) :
    let key := scratchKey o.site o.key.ctx 0
    let busy := s.carJobs.any (fun j => j.who == .mu o.id && !j.delivered)
    ((busy = true ∨ s.stuckSlot o.site m.gslot = true) → Sys2Proof.Machine.exec (.muPerform site) s = .next s) ∧
    (busy = false → s.stuckSlot o.site m.gslot = false →
      (∀ x, s.badRow o m key = some x → Sys2Proof.Machine.exec (.muPerform site) s = .next (s.muHold o .poisonConsumed 0 0 x)) ∧
      (s.badRow o m key = none → ∃ u n j, Sys2Proof.Machine.exec (.muPerform site) s = .next u ∧
        { u with ops := s.ops, carJobs := s.carJobs } = s ∧
        (u.op o.id).map (·.kind) = some (.mu { m.atRow s.scratch key with flags := n }) ∧ u.carJobs = s.carJobs ++ [j] ∧
        j.ofRow s o m ((s.beforeRow o m key).readRow key (m.b0, m.b1) m.out.length 256))) := by
  intro key busy
  rw [h.exec_muRow hc]
  refine ⟨fun hbusy => ?_, fun hjobs hstuck => ⟨fun x hbad => ?_, fun hbad => ?_⟩⟩
  · rw [State.muRow_stays hrow (by simpa [busy] using hbusy)]
  · rw [State.muRow_held hrow (Bool.or_eq_false_iff.mpr ⟨hjobs, hstuck⟩) hbad]
  · obtain ⟨u, n, j, hu, hrest⟩ := State.muRow_sends h.op h.kind hrow (Bool.or_eq_false_iff.mpr ⟨hjobs, hstuck⟩) hbad
    exact ⟨u, n, j, congrArg _ hu, hrest⟩

/-- Settles O54: the steps of the matrix unit, of the Carousel and of its slots, each by its own lemma. -/
theorem matrixAndCarouselSteps : Obligations.MatrixAndCarouselSteps := by
  refine ⟨?_, ?_, ?_, ?_, ?_, ?_, ?_⟩
  · intro s site o m hhead hop hperf hheld hdrained
    have h : s.muReady site o m := ⟨hhead, hop, hperf, hheld, hdrained⟩
    refine ⟨muPerform_zero h, muPerform_load h, fun hc => ⟨muPerform_product h hc, fun side r q k hmask => ?_,
      fun x => muPerform_poisonedProduct h hc⟩, fun hc hwf _ => muPerform_stored h hc hwf, fun hc => ⟨?_, ?_, ?_, ?_⟩⟩
    · obtain ⟨hwrong, hlowest, hside⟩ := State.badMask_lowest hmask
      exact ⟨muPerform_badMask h hc hmask, hwrong, hlowest, hside⟩
    · exact fun hrow hbusy => (muPerform_row h hc hrow).1 hbusy
    · exact fun x hrow hjobs hstuck hbad => ((muPerform_row h hc hrow).2 hjobs hstuck).1 x hbad
    · intro hrow hjobs hstuck hbad
      obtain ⟨u, n, j, hexec, honly, hkind, hcar, hsite, hwho, hslot, hent, hdel, hels, hop1, hop2, hsc⟩ :=
        ((muPerform_row h hc hrow).2 hjobs hstuck).2 hbad
      exact ⟨u, n, j, hexec, honly, hkind, hcar, hsite, hwho, hslot, hent, hdel, hels, hop1, hop2, hsc⟩
    · exact fun hrow hwf => muPerform_rowsWritten h hc hrow hwf
  · exact fun s site o m f st hhead hperf hheld hh hd hf hst hn => muCompletion_spec hhead hperf hheld hh hd hf hst hn
  · exact carouselEntry_spec
  · intro s j r t d g i k z rest hjobs hent hdel hg hdue
    exact ⟨fun hwho hi hphase => carouselResult_runner hjobs hent hdel hg hdue hwho hi hphase,
      fun o m hwho ho hk => carouselResult_mu hjobs hent hdel hg hdue hwho ho hk⟩
  · intro s o n ho hk hheld hd hdrained w hw image
    rw [exec_xldStep ho hk hheld hdrained hw]
    exact ⟨fun hv => congrArg _ (State.xldStep_invalid hd hv), fun hv ha => congrArg _ (State.xldStep_misaligned hd hv ha),
      fun hv ha => ⟨fun g hg himage => congrArg _ (State.xldStep_held hd hv ha hg himage),
        fun k hnone hfree => congrArg _ (State.xldStep_loads hd hv ha hnone hfree)⟩⟩
  · intro s site k g bs hg hbs
    refine ⟨fun hst hdrained => graphLoadComplete_spec hg hbs hst hdrained, fun hstuck again => configErrorReload_stuck hg hstuck again,
      fun hst hstuck => ⟨fun hb again => configErrorReload_breaks hg hst hstuck hb again,
        fun hb hops => ⟨fun hsound => configErrorReload_restores hg hst hstuck hb hops hbs hsound,
          configErrorReload_halts hg hst hstuck hb hops⟩⟩⟩
  · exact fun s o n ho hk => xunlComplete_spec ho hk

end Sys2Proof.Machine
end

section
namespace Sys2Proof.Machine

/-- A step of the device keeps the invariant: each of its meanings does. -/
theorem exec_device_ok {w : Instr} (hw : Instr.isDevice w = true) {s : State} (hs : s.kept.ok) :
    nextOk (Sys2Proof.Machine.exec w s) := by
  cases w with
  | tokenRetry => exact execTokenRetry_ok hs
  | tokenAccept => exact execTokenAccept_ok hs
  | tokenApply => exact execTokenApply_ok hs
  | descriptorLoad => exact execDescriptorLoad_ok hs
  | parkReexamine => exact execParkReexamine_ok hs
  | parkOverflowReadback => exact execParkOverflowReadback_ok hs
  | waitingSignalServe => exact execWaitingSignalServe_ok hs
  | frameFill => exact execFrameFill_ok hs
  | readyChoose => exact execReadyChoose_ok hs
  | readyOverflowReturn => exact execReadyOverflowReturn_ok hs
  | faultTokenDelivery => exact execFaultTokenDelivery_ok hs
  | faultActionDelivery => exact execFaultActionDelivery_ok hs
  | completionSignal => exact execCompletionSignal_ok hs
  | vlpTokenReceive => exact execVlpTokenReceive_ok hs
  | vlpAcknowledge => exact execVlpAcknowledge_ok hs
  | commit => exact execCommit_ok hs
  | loadPerform => exact execLoadPerform_ok hs
  | storePerform => exact execStorePerform_ok hs
  | atomicPerform => exact execAtomicPerform_ok hs
  | prefetchPerform => exact execPrefetchPerform_ok hs
  | pageWalk => exact execPageWalk_ok hs
  | localCacheFill => exact execLocalCacheFill_ok hs
  | pcieCompletionTimeout => exact execPcieCompletionTimeout_ok hs
  | icacheFill => exact execIcacheFill_ok hs
  | tlbInvalidateComplete => exact execTlbInvalidateComplete_ok hs
  | engineCommandStart => exact execEngineCommandStart_ok hs
  | engineElement => exact execEngineElement_ok hs
  | engineFaultStop => exact execEngineFaultStop_ok hs
  | engineCommandComplete => exact execEngineCommandComplete_ok hs
  | carouselEntry => exact execCarouselEntry_ok hs
  | carouselResult => exact execCarouselResult_ok hs
  | xldProcess => exact execXldProcess_ok hs
  | xldWaitRetry => exact execXldWaitRetry_ok hs
  | graphLoadComplete => exact execGraphLoadComplete_ok hs
  | xunlComplete => exact execXunlComplete_ok hs
  | configErrorReload => exact execConfigErrorReload_ok hs
  | muPerform => exact execMuPerform_ok hs
  | muCompletion => exact execMuCompletion_ok hs
  | launchInject => exact execLaunchInject_ok hs
  | quantumExpiry => exact execQuantumExpiry_ok hs
  | launchWave => exact execLaunchWave_ok hs
  | launchWatchdog => exact execLaunchWatchdog_ok hs
  | launchKillMark => exact execLaunchKillMark_ok hs
  | timerExpiry => exact execTimerExpiry_ok hs
  | timeWordStore => exact execTimeWordStore_ok hs
  | tagwinRequest => exact execTagwinRequest_ok hs
  | tagwinInstall => exact execTagwinInstall_ok hs
  | drainMarker => exact execDrainMarker_ok hs
  | contextImageSave => exact execContextImageSave_ok hs
  | contextRestore => exact execContextRestore_ok hs
  | restoreResume => exact execRestoreResume_ok hs
  | haltComplete => exact execHaltComplete_ok hs
  | queueEnable => exact execQueueEnable_ok hs
  | queueDisable => exact execQueueDisable_ok hs
  | queueKick => exact execQueueKick_ok hs
  | f1bindWrite => exact execF1bindWrite_ok hs
  | doorbell => exact execDoorbell_ok hs
  | plimWrite => exact execPlimWrite_ok hs
  | registerWrite => exact execRegisterWrite_ok hs
  | apertureRead => exact execApertureRead_ok hs
  | apertureWrite => exact execApertureWrite_ok hs
  | packetFetch => exact execPacketFetch_ok hs
  | packetReread => exact execPacketReread_ok hs
  | completionRecord => exact execCompletionRecord_ok hs
  | packetStart => exact execPacketStart_ok hs
  | launchPacket => exact execLaunchPacket_ok hs
  | memoryCopy => exact execMemoryCopy_ok hs
  | memoryFill => exact execMemoryFill_ok hs
  | fencePacket => exact execFencePacket_ok hs
  | fencePoll => exact execFencePoll_ok hs
  | loadGraphPacket => exact execLoadGraphPacket_ok hs
  | freezePacket => exact execFreezePacket_ok hs
  | resumePacket => exact execResumePacket_ok hs
  | pools => exact execPools_ok hs
  | setPriority => exact execSetPriority_ok hs
  | setQuantum => exact execSetQuantum_ok hs
  | setWatermark => exact execSetWatermark_ok hs
  | attest => exact execAttest_ok hs
  | flashWrite => exact execFlashWrite_ok hs
  | orphans => exact execOrphans_ok hs
  | packageReset => exact execPackageReset_ok hs
  | hardwareError => exact execHardwareError_ok hs
  | degradedExit => exact execDegradedExit_ok hs
  | torusProtocolError => exact execTorusProtocolError_ok hs
  | droopDetect => exact execDroopDetect_ok hs
  | droopRecovery => exact execDroopRecovery_ok hs
  | powerLimitStep => exact execPowerLimitStep_ok hs
  | pageEviction => exact execPageEviction_ok hs
  | illegalInstruction => cases hw
  | fcvt | fcvti | icvtf | vadd | vsub | vmul | vmulh | vmin | vmax | vadds | vsubs | vaddScalar | vsubScalar |
  vmulScalar | vmulhScalar | vminScalar | vmaxScalar | vaddsScalar | vsubsScalar | vand | vor | vxor | vandn | vshl |
  vshr | vsra | vrol | vabs | vneg | vclz | vpopc | vmadd | vclmul | vclmulh | vfadd | vfsub | vfmul | vfdiv | vfma |
  vfnma | vfmin | vfmax | vfaddScalar | vfsubScalar | vfmulScalar | vfdivScalar | vfmaScalar | vfnmaScalar |
  vfminScalar | vfmaxScalar | vfsqrt | vfabs | vfneg | vfsgn | vfrnd | vfcls | vcvt | vcvtn | vcvtw | vqmx | vqq4 |
  vdqmx | vdqq4 | vceq | vcne | vclt | vcle | vcgt | vcge | vceqScalar | vcneScalar | vcltScalar | vcleScalar |
  vcgtScalar | vcgeScalar | vperm | vbcst | vslup | vsldn | vexpn | vzip | vunzip | vscanAdd | vscanMin | vscanMax |
  vscanXor | vmov | vmovLane | mrd | mrdx | xop | vld | vldStr | vldIdx =>
    exact absurd (encode_of_isDevice hw) (withPfx_ne_nil _ _)
  | addImm | andImm | orImm | xorImm | shlImm | shrImm | sraImm | rorImm | sltI64Imm | sltN64Imm | seqImm | sneImm |
  mulImm | minI64Imm | maxI64Imm | beq | bne | bltI64 | bgeI64 | bltN64 | bgeN64 | bbs | bbc | beqImm | bneImm |
  bltI64Imm | bgeI64Imm | bltN64Imm | bgeN64Imm | bbsImm | bbcImm | fld | fst | fldv | fstv | sld | sst =>
    exact absurd (encode_of_isDevice hw) (encImm27_ne_nil _ _)
  | movi | movh | j =>
    exact absurd (encode_of_isDevice hw) (encImm35_ne_nil _ _)
  | _ => cases encode_of_isDevice hw

/-- Every meaning keeps the invariant: a word changes none of what it speaks of, a step of the device keeps it. -/
theorem exec_ok (w : Instr) {s : State} (hs : s.kept.ok) : nextOk (Sys2Proof.Machine.exec w s) := by
  cases hw : Instr.isDevice w with
  | true => exact exec_device_ok hw hs
  | false => exact fun t h => State.ok_of_kept (exec_word_keeps hw s t h) hs

theorem runWords_nextOk (c : Cur) (i : Inst) {s : State} (hs : s.kept.ok) : nextOk (runWords c i s) := by
  have at_ {u : State} (hu : s.atWord u) : u.kept.ok := State.ok_of_kept (State.atWord_kept hu) hs
  unfold runWords
  obtain ⟨j, h⟩ | ⟨u, hu, h⟩ | ⟨w, u, -, hu, h⟩ := runWith_spec (decodeWords c.w0 (c.w1.getD 0)) scalarDestination
    Sys2Proof.Machine.exec c i s
  · exact h ▸ nextOk_next hs
  · exact h ▸ exec_ok (.illegalInstruction c.w0 c.w1) (at_ hu)
  · exact h ▸ exec_ok w (at_ hu)

theorem State.issue_nextOk (site runner : Nat) {s : State} (hs : s.kept.ok) : nextOk (s.issue site runner) := by
  obtain h | ⟨i, -, h⟩ | h | ⟨i, w, h⟩ | ⟨c, i, -, h⟩ := s.issue_spec site runner
  · exact h ▸ nextOk_next hs
  · exact h ▸ nextOk_next hs
  · exact h ▸ execIcacheFill_ok hs
  · exact h ▸ nextOk_next (State.ok_of_kept (State.takeFault_kept s i w _) hs)
  · exact h ▸ runWords_nextOk c i hs

theorem Due.run_nextOk (d : Due) {s : State} (hs : s.kept.ok) : nextOk (d.run s) := by
  cases d with
  | timer n => exact execTimerExpiry_ok hs
  | timeWord => exact execTimeWordStore_ok hs

theorem advance_nextOk (m : Move) {s : State} (hs : s.kept.ok) : nextOk (advance m s) := by
  obtain ⟨site, runner, -, h⟩ | ⟨w, -, -, h⟩ | h := advance_spec m s
  · exact h ▸ State.issue_nextOk site runner hs
  · exact h ▸ exec_ok w hs
  · exact h ▸ nextOk_next hs

/-- Settles O2: a step is what is due or a move, and each answers a state that keeps the invariant. -/
theorem stepKeepsInv : Obligations.StepKeepsInv := by
  intro s t hs h
  obtain ⟨d, u, hu, hd⟩ | ⟨m, u, hu, hm⟩ := step_spec s
  · exact d.run_nextOk (State.ok_of_kept hu hs) t (hd ▸ h)
  · exact advance_nextOk m (State.ok_of_kept hu hs) t (hm ▸ h)

end Sys2Proof.Machine
end

section
/-! Translations, walks and fills of caches (R88, R110, R257, R258, R377, R382 to R387): what each keeps, and what it leaves. -/

namespace Sys2Proof.Machine

/-! ### What walks keep -/

/-- A state with the leaf of a walk kept by a cell's TLB and by the walker (R385, R410). -/
def State.walked (s : State) (site ctx va : Nat) (leaf : W64) (lvl : Nat) : State :=
  (s.fillTlb site ctx va leaf lvl).noteWalk site ctx va lvl

/-- A leaf that a walk has brought is the one that the TLB holds for its page. -/
theorem State.tlbEntry_fillTlb (s : State) (site ctx va : Nat) (leaf : W64) (lvl : Nat) :
    (s.fillTlb site ctx va leaf lvl).tlbEntry site ctx va = some ⟨site, ctx, lvl, va / 2 ^ (12 + 10 * lvl), leaf⟩ := by
  simp [State.fillTlb, State.tlbEntry]

theorem State.tlbEntry_walked (s : State) (site ctx va : Nat) (leaf : W64) (lvl : Nat) :
    (s.walked site ctx va leaf lvl).tlbEntry site ctx va = some ⟨site, ctx, lvl, va / 2 ^ (12 + 10 * lvl), leaf⟩ :=
  s.tlbEntry_fillTlb site ctx va leaf lvl

theorem State.noteFetch_of_walk {s : State} {site ctx va lvl : Nat} {leaf : W64} (hsite : site ≠ ringmaster)
    (hmiss : s.tlbEntry site ctx va = none) (hwalk : s.walk ctx va = .ok (leaf, lvl)) :
    s.noteFetch site ctx va =
      (if s.residentAt site ctx then s.fillTlb site ctx va leaf lvl else s).noteWalk site ctx va lvl := by
  unfold State.noteFetch
  rw [if_neg (by simp [hsite, hmiss]), hwalk]

/-! ### Parts of an operation -/

theorem mem_modify {α : Type} {l : List α} {k : Nat} {f : α → α} {x : α} (h : x ∈ l.modify k f) :
    x ∈ l ∨ ∃ y ∈ l, x = f y := by
  obtain ⟨j, hj⟩ := List.mem_iff_getElem?.mp h
  rw [List.getElem?_modify] at hj
  obtain ⟨y, hy, hxy⟩ := Option.map_eq_some_iff.mp hj
  split at hxy
  · exact .inr ⟨y, List.mem_of_getElem? hy, hxy.symm⟩
  · exact .inl (hxy ▸ List.mem_of_getElem? hy)

/-- An operation none of whose parts is held has no fault to record (R258). -/
theorem State.closeParts_of_none_held {s : State} {id : Nat} {o : Op} (ho : s.op id = some o)
    (h : ∀ x ∈ o.parts, x.isHeld = false) : s.closeParts id = s := by
  have hnone : o.parts.find? Part.isHeld = none := List.find?_eq_none.mpr fun x hx => by simp [h x hx]
  unfold State.closeParts
  rw [ho]
  dsimp only
  rw [hnone]
  exact ite_self s

theorem State.op_modifyPart {s : State} {id : Nat} {o : Op} (ho : s.op id = some o) (k : Nat) (f : Part → Part) :
    (s.modifyPart id k f).op id = some { o with parts := o.parts.modify k f } :=
  State.op_updateOp ho fun _ => rfl

/-- A part performed where no part of the operation is held. -/
theorem State.donePart_eq {s : State} {id : Nat} {o : Op} (ho : s.op id = some o) (h : ∀ x ∈ o.parts, x.isHeld = false)
    (k v : Nat) (psn : Bool) : s.donePart id k v psn = s.setPart id k (.done (BitVec.ofNat 64 v) psn) := by
  refine State.closeParts_of_none_held (State.op_modifyPart ho k _) fun x hx => ?_
  obtain hx | ⟨y, -, rfl⟩ := mem_modify hx
  · exact h x hx
  · rfl

/-! ### The step of a part -/

section
variable {s : State} {o : Op} {k : Nat} {p : Part} (ho : s.op o.id = some o) (hp : o.parts[k]? = some p)

/-- The step that performs the parts of an access (R258). -/
noncomputable def Op.partStep (o : Op) (k : Nat) : Instr :=
  if o.kind.isLoad then .loadPerform o.id k else if o.kind.isStore then .storePerform o.id k else .atomicPerform o.id k

include ho hp

theorem stepPart_of_issued {ok : OpKind → Bool} (perform : State → Op → Part → Nat → Nat → State) (hok : ok o.kind = true)
    (hst : p.st = .issued) :
    stepPart ok perform o.id k s = if s.maySend o p then .next (s.translatePart o p k) else .next s := by
  unfold stepPart
  simp only [ho, hp, hok, hst, Bool.not_true, Bool.false_eq_true, if_false]

theorem stepPart_of_translated {ok : OpKind → Bool} (perform : State → Op → Part → Nat → Nat → State) (hok : ok o.kind = true)
    {pa : Nat} (hst : p.st = .translated pa) :
    stepPart ok perform o.id k s = if s.mayPerform o p pa then .next (perform s o p k pa) else .next s := by
  unfold stepPart
  simp only [ho, hp, hok, hst, Bool.not_true, Bool.false_eq_true, if_false]

/-- An issued part of any access is sent when its order allows it. -/
theorem exec_partStep_of_issued (hacc : o.kind.access = true) (hst : p.st = .issued) :
    Sys2Proof.Machine.exec (o.partStep k) s = if s.maySend o p then .next (s.translatePart o p k) else .next s := by
  unfold Op.partStep
  cases hkind : o.kind with
  | load | vload => exact stepPart_of_issued ho hp State.performLoad (by rw [hkind]; rfl) hst
  | store | vstore => exact stepPart_of_issued ho hp State.performStore (by rw [hkind]; rfl) hst
  | atomic => exact stepPart_of_issued ho hp State.performAtomic (by rw [hkind]; rfl) hst
  | _ => rw [hkind] at hacc; cases hacc

end

theorem OpKind.stores_of_access {k : OpKind} (h : k.access = true) : k.stores = !k.isLoad := by
  cases k <;> first | rfl | cases h

/-! ### Translation -/

/-- An operation whose part k has been forwarded to a physical address in the step of a state. -/
def Op.forwarded (o : Op) (tick k pa : Nat) : Op :=
  { o with parts := o.parts.modify k (fun q => { q with st := .translated pa, fwd := tick, pa := some pa }) }

section
variable {s : State} {o : Op} {p : Part} {pa : Nat}

theorem State.forwardTo_of_window (ha : o.kind.isAtomic = true) (h : 2 ^ 48 ≤ pa) (k : Nat) :
    s.forwardTo o p k pa = s.holdPart o.id k 0x16 0 := by
  unfold State.forwardTo
  rw [ha, decide_eq_true h]
  rfl

theorem State.forwardTo_of_reached (hacc : o.kind.access = true) (h : o.kind.isAtomic = true → pa < 2 ^ 48) (k : Nat) :
    s.forwardTo o p k pa = if o.kind.isLoad then s.updateOp o.id (fun x => x.forwarded s.tick k pa)
      else (s.updateOp o.id (fun x => x.forwarded s.tick k pa)).dropLine o.site o.key.ctx pa p.len := by
  unfold State.forwardTo
  rw [if_neg (by simpa using h), OpKind.stores_of_access hacc]
  cases o.kind.isLoad <;> rfl

/-- A part forwarded changes its operation and lines of the local cache, a load's none (R88). -/
theorem State.forwardTo_lines (hacc : o.kind.access = true) (h : o.kind.isAtomic = true → pa < 2 ^ 48) (k : Nat) :
    ∃ l, (o.kind.isLoad = true → l = s.lcache) ∧
      s.forwardTo o p k pa = { s.updateOp o.id (fun x => x.forwarded s.tick k pa) with lcache := l } := by
  rw [State.forwardTo_of_reached hacc h]
  cases o.kind.isLoad with
  | true => exact ⟨_, fun _ => rfl, rfl⟩
  | false => exact ⟨_, fun hl => (by cases hl), rfl⟩

theorem State.translatePart_misaligned (h : o.misaligned p = true) (k : Nat) :
    s.translatePart o p k = s.holdPart o.id k 0x15 0 := by
  unfold State.translatePart
  rw [if_pos h]
  rfl

variable (hal : o.misaligned p = false) (hsite : o.site ≠ ringmaster)
include hal hsite

theorem State.translatePart_miss (h : s.tlbEntry o.site o.key.ctx p.va.toNat = none) (k : Nat) : s.translatePart o p k = s := by
  unfold State.translatePart
  simp [hal, hsite, h]

theorem State.translatePart_passes {e : TlbEntry} (h : s.tlbEntry o.site o.key.ctx p.va.toNat = some e)
    (hc : s.checkLeaf o.kind.accessKind e.leaf e.level p.va.toNat = .ok pa) (k : Nat) :
    s.translatePart o p k = s.forwardTo o p k pa := by
  unfold State.translatePart
  simp [hal, hsite, h, hc]

theorem State.translatePart_fails {e : TlbEntry} {x : NoPage} (h : s.tlbEntry o.site o.key.ctx p.va.toNat = some e)
    (hc : s.checkLeaf o.kind.accessKind e.leaf e.level p.va.toNat = .error x) (k : Nat) :
    s.translatePart o p k = s.holdPart o.id k (x.fault.code o.kind.accessKind) x.level := by
  unfold State.translatePart
  simp [hal, hsite, h, hc]

end

/-! ### PAGE_WALK -/

/-- A part that waits for the walk of its page (R386). -/
structure State.missing (s : State) (o : Op) (k : Nat) (p : Part) : Prop where
  op : s.op o.id = some o
  part : o.parts[k]? = some p
  issued : p.st = .issued
  access : o.kind.access = true
  cell : o.site ≠ ringmaster
  free : s.maySend o p = true
  aligned : o.misaligned p = false
  miss : s.tlbEntry o.site o.key.ctx p.va.toNat = none

section
variable {s : State} {o : Op} {k : Nat} {p : Part} (h : s.missing o k p)
include h

theorem State.missing.pageWalk_unmapped {x : NoPage} (hwalk : s.walk o.key.ctx p.va.toNat = .error x) :
    Sys2Proof.Machine.exec (.pageWalk o.id k) s = .next (s.holdPart o.id k (x.fault.code o.kind.accessKind) x.level) := by
  show execPageWalk o.id k s = _
  simp [execPageWalk, h.op, h.part, h.issued, h.access, h.cell, h.free, h.aligned, h.miss, hwalk]

variable {leaf : W64} {lvl : Nat} (hwalk : s.walk o.key.ctx p.va.toNat = .ok (leaf, lvl))
include hwalk

theorem State.missing.exec_pageWalk : Sys2Proof.Machine.exec (.pageWalk o.id k) s =
    .next ((s.walked o.site o.key.ctx p.va.toNat leaf lvl).translatePart o p k) := by
  show execPageWalk o.id k s = _
  simp [execPageWalk, h.op, h.part, h.issued, h.access, h.cell, h.free, h.aligned, h.miss, hwalk, State.walked]

theorem State.missing.pageWalk_passes {pa : Nat} (hc : s.checkLeaf o.kind.accessKind leaf lvl p.va.toNat = .ok pa)
    (hpa : o.kind.isAtomic = true → pa < 2 ^ 48) :
    ∃ u, Sys2Proof.Machine.exec (.pageWalk o.id k) s = .next u ∧ u.op o.id = some (o.forwarded s.tick k pa) ∧
      u.tlbEntry o.site o.key.ctx p.va.toNat = some ⟨o.site, o.key.ctx, lvl, p.va.toNat / 2 ^ (12 + 10 * lvl), leaf⟩ ∧
      (o.kind.isLoad = true → u.lcache = s.lcache) ∧
      { u with tlb := s.tlb, lcache := s.lcache, ops := s.ops, ctl := { u.ctl with walks := s.ctl.walks } } = s := by
  have htlb := s.tlbEntry_walked o.site o.key.ctx p.va.toNat leaf lvl
  refine ⟨_, h.exec_pageWalk hwalk, ?_⟩
  obtain ⟨l, hl, hforward⟩ := State.forwardTo_lines (s := s.walked o.site o.key.ctx p.va.toNat leaf lvl) (p := p) h.access hpa k
  rw [State.translatePart_passes h.aligned h.cell htlb hc, hforward]
  exact ⟨State.op_updateOp (s := s.walked o.site o.key.ctx p.va.toNat leaf lvl) h.op fun _ => rfl, htlb, hl, rfl⟩

theorem State.missing.pageWalk_fails {x : NoPage} (hc : s.checkLeaf o.kind.accessKind leaf lvl p.va.toNat = .error x) :
    Sys2Proof.Machine.exec (.pageWalk o.id k) s =
      .next ((s.walked o.site o.key.ctx p.va.toNat leaf lvl).holdPart
        o.id k (x.fault.code o.kind.accessKind) x.level) := by
  rw [h.exec_pageWalk hwalk]
  exact congrArg _ (State.translatePart_fails h.aligned h.cell
    (s.tlbEntry_walked o.site o.key.ctx p.va.toNat leaf lvl) hc k)

end

/-! ### The local cache -/

/-- A state with other translations kept. -/
def State.withWalks (s : State) (l : List TlbEntry) (w : List (Nat × Nat × Nat × Nat)) : State :=
  { s with tlb := l, ctl := { s.ctl with walks := w } }

/-- What a fill does to the local cache does not depend on the translations kept. -/
theorem State.withWalks_fillLine (s : State) (l : List TlbEntry) (w : List (Nat × Nat × Nat × Nat)) (site ctx pa : Nat) :
    (s.fillLine site ctx pa).withWalks l w = (s.withWalks l w).fillLine site ctx pa := by
  by_cases hc : pa < 2 ^ 48 ∧ 0 < s.lineRoom site ctx ∧ (s.lineAt site ctx pa).isNone = true
  · exact (congrArg (State.withWalks · l w) (if_pos hc)).trans (Eq.symm (if_pos hc))
  · exact (congrArg (State.withWalks · l w) (if_neg hc)).trans (Eq.symm (if_neg hc))

theorem State.fillLine_eq (s : State) (site ctx pa : Nat) : ∃ l, s.fillLine site ctx pa = { s with lcache := l } := by
  unfold State.fillLine
  dsimp only
  split <;> exact ⟨_, rfl⟩

theorem State.fillLines_eq (s : State) (site ctx pa n : Nat) : ∃ l, s.fillLines site ctx pa n = { s with lcache := l } := by
  obtain ⟨l, h⟩ := s.fillLine_eq site ctx pa
  obtain ⟨l', h'⟩ := (s.fillLine site ctx pa).fillLine_eq site ctx (pa + n - 1)
  exact ⟨l', h'.trans (by rw [h])⟩

/-- A line filled stands in the cache. -/
theorem State.lineAt_fillLine {s : State} {site ctx pa : Nat} (hpa : pa < 2 ^ 48) (hroom : 0 < s.lineRoom site ctx) :
    ((s.fillLine site ctx pa).lineAt site ctx pa).isSome = true := by
  unfold State.fillLine
  dsimp only
  split
  · simp [State.lineAt]
  · rename_i h
    simpa only [hpa, hroom, true_and, Option.isNone_iff_eq_none, ← Option.isSome_iff_ne_none] using h

theorem State.fillLine_of_held {s : State} {site ctx pa : Nat} (h : (s.lineAt site ctx pa).isSome = true) :
    s.fillLine site ctx pa = s := by
  unfold State.fillLine
  dsimp only
  rw [if_neg]
  rintro ⟨-, -, hn⟩
  rw [Option.isNone_iff_eq_none.mp hn] at h
  cases h

theorem State.lineAt_fillLines_one {s : State} {site ctx pa : Nat} (hpa : pa < 2 ^ 48) (hroom : 0 < s.lineRoom site ctx) :
    ((s.fillLines site ctx pa 1).lineAt site ctx pa).isSome = true := by
  have h := State.lineAt_fillLine hpa hroom
  show (((s.fillLine site ctx pa).fillLine site ctx pa).lineAt site ctx pa).isSome = true
  rwa [State.fillLine_of_held h]

/-! ### Prefetches, timeouts and fetches -/

section
variable {s : State} {o : Op} {k : Nat} {p : Part} (ho : s.op o.id = some o) (hp : o.parts[k]? = some p)
include ho hp

theorem exec_prefetchPerform_fails {lc : Bool} {x : NoPage} (hk : o.kind = .prefetch lc)
    (hloc : s.locate o.site o.key.ctx .load p.va.toNat 1 = .error x) : Sys2Proof.Machine.exec (.prefetchPerform o.id k) s =
      .next ((s.dropOp o.id).noteFetch o.site o.key.ctx p.va.toNat) := by
  show execPrefetchPerform o.id k s = _
  simp only [execPrefetchPerform, ho, hp, hk, hloc]

theorem exec_prefetchPerform_located {lc : Bool} {pa : Nat} (hk : o.kind = .prefetch lc)
    (hloc : s.locate o.site o.key.ctx .load p.va.toNat 1 = .ok pa) : Sys2Proof.Machine.exec (.prefetchPerform o.id k) s =
      .next (if lc then ((s.dropOp o.id).noteFetch o.site o.key.ctx p.va.toNat).fillLine o.site o.key.ctx pa
        else (s.dropOp o.id).noteFetch o.site o.key.ctx p.va.toNat) := by
  show execPrefetchPerform o.id k s = _
  simp only [execPrefetchPerform, ho, hp, hk, hloc]

theorem exec_localCacheFill {pa idx : Nat} {t : LoadTy} (hst : p.st = .translated pa) (hk : o.kind = .load t true idx) :
    Sys2Proof.Machine.exec (.localCacheFill o.id k) s = .next (s.fillLines o.site o.key.ctx pa p.len) := by
  show execLocalCacheFill o.id k s = _
  unfold execLocalCacheFill
  simp only [ho, hp, hk, hst]

theorem exec_pcieCompletionTimeout {pa : Nat} (hst : p.st = .translated pa) (hl : o.kind.isLoad = true) (hpa : 2 ^ 48 ≤ pa) :
    Sys2Proof.Machine.exec (.pcieCompletionTimeout o.id k) s =
      .next (s.donePart o.id k (Config.failedRead s.tick pa % 256 ^ p.len) true) := by
  show execPcieCompletionTimeout o.id k s = _
  unfold execPcieCompletionTimeout
  simp only [ho, hp, hl, hst, if_pos hpa]

end

theorem State.dropOp_walks (s : State) (id : Nat) : (s.dropOp id).tlb = s.tlb ∧ (s.dropOp id).ctl = s.ctl := by
  obtain ⟨gs, h⟩ := s.dropOp_eq id
  rw [h]
  exact ⟨rfl, rfl⟩

/-- A prefetch that translates leaves its entry, with the line filled for `.lc` (R257). -/
theorem prefetchPerform_located {s : State} {o : Op} {k pa : Nat} {p : Part} {lc : Bool} (ho : s.op o.id = some o)
    (hp : o.parts[k]? = some p) (hk : o.kind = .prefetch lc) (hloc : s.locate o.site o.key.ctx .load p.va.toNat 1 = .ok pa) :
    ∃ u, Sys2Proof.Machine.exec (.prefetchPerform o.id k) s = .next u ∧
      { u with tlb := s.tlb, ctl := { u.ctl with walks := s.ctl.walks } }
        = (if lc then (s.dropOp o.id).fillLine o.site o.key.ctx pa else s.dropOp o.id) := by
  have hwalks := (s.dropOp o.id).noteFetch_onlyWalks o.site o.key.ctx p.va.toNat
  obtain ⟨htlb, hctl⟩ := s.dropOp_walks o.id
  refine ⟨_, exec_prefetchPerform_located ho hp hk hloc, ?_⟩
  rw [← htlb, ← hctl]
  cases lc with
  | false => exact hwalks
  | true => exact (State.withWalks_fillLine _ _ _ o.site o.key.ctx pa).trans (congrArg (State.fillLine · o.site o.key.ctx pa) hwalks)

section
variable {s : State} {i : Inst} {a : VAddr} (hi : s.instAt i.site i.runner = some i) (hph : i.phase = .running)
  (hmiss : s.missingWord i = some a)
include hi hph hmiss

theorem exec_icacheFill_fails {x : NoPage} (hloc : s.locate i.site i.key.ctx .fetch a.toNat 4 = .error x) :
    Sys2Proof.Machine.exec (.icacheFill i.site i.runner) s = .next ((s.noteFetch i.site i.key.ctx a.toNat).takeFault i
      ⟨i.dyn, i.pc, (s.cachedWord i.site i.key.ctx i.pc).getD 0, none⟩ { x.trap .fetch a.toNat with detail := 1 }) := by
  show execIcacheFill i.site i.runner s = _
  simp only [execIcacheFill, hi, hph, hmiss, hloc, bne_self_eq_false, Bool.false_eq_true, if_false]

theorem exec_icacheFill_located {pa : Nat} (hloc : s.locate i.site i.key.ctx .fetch a.toNat 4 = .ok pa) :
    Sys2Proof.Machine.exec (.icacheFill i.site i.runner) s = .next ((s.noteFetch i.site i.key.ctx a.toNat).fillWord
      i.site i.key.ctx a (BitVec.ofNat 32 (s.deviceRead pa 4).1)) := by
  show execIcacheFill i.site i.runner s = _
  simp only [execIcacheFill, hi, hph, hmiss, hloc, bne_self_eq_false, Bool.false_eq_true, if_false]

end

theorem State.cachedWord_fillWord (s : State) (site ctx : Nat) (a : VAddr) (w : Word) :
    (s.fillWord site ctx a w).cachedWord site ctx a = some w := by
  simp [State.fillWord, State.cachedWord]

/-- A word of memory as a fetch brings it (R110, R387). -/
theorem State.deviceRead_word (s : State) (pa : Nat) : BitVec.ofNat 32 (s.deviceRead pa 4).1 = BitVec.ofNat 32
    (if 2 ^ 48 ≤ pa ∧ Config.hostAnswers s.tick = false then Config.failedRead s.tick pa else (s.physRead pa 4).1) := by
  unfold State.deviceRead
  simp only [Bool.not_eq_true']
  split
  · exact BitVec.eq_of_toNat_eq (by simp)
  · rfl

/-- A missing word that translates is filled (R110), and its translation kept (R385). -/
theorem icacheFill_located {s : State} {i : Inst} {a : VAddr} {pa : Nat} (hi : s.instAt i.site i.runner = some i)
    (hph : i.phase = .running) (hmiss : s.missingWord i = some a)
    (hloc : s.locate i.site i.key.ctx .fetch a.toNat 4 = .ok pa) :
    ∃ u, Sys2Proof.Machine.exec (.icacheFill i.site i.runner) s = .next u ∧
      { u with icache := s.icache, tlb := s.tlb, ctl := { u.ctl with walks := s.ctl.walks } } = s ∧
      u.cachedWord i.site i.key.ctx a = some (BitVec.ofNat 32
        (if 2 ^ 48 ≤ pa ∧ Config.hostAnswers s.tick = false then Config.failedRead s.tick pa else (s.physRead pa 4).1)) ∧
      ∀ leaf lvl, i.site ≠ ringmaster → s.residentAt i.site i.key.ctx = true →
        s.tlbEntry i.site i.key.ctx a.toNat = none → s.walk i.key.ctx a.toNat = .ok (leaf, lvl) →
        u.tlbEntry i.site i.key.ctx a.toNat = some ⟨i.site, i.key.ctx, lvl, a.toNat / 2 ^ (12 + 10 * lvl), leaf⟩ := by
  refine ⟨_, exec_icacheFill_located hi hph hmiss hloc, ?_, ?_, fun leaf lvl hsite hres htlb hwalk => ?_⟩
  · exact congrArg (fun x : State => { x with icache := s.icache }) (s.noteFetch_onlyWalks i.site i.key.ctx a.toNat)
  · rw [State.cachedWord_fillWord, State.deviceRead_word]
  · rw [State.noteFetch_of_walk hsite htlb hwalk, if_pos hres]
    exact s.tlbEntry_fillTlb i.site i.key.ctx a.toNat leaf lvl

/-! ### Invalidation -/

/-- A state without the translations that a request covers (R377). -/
def State.uncovered (s : State) (r : SysReq) : State :=
  { s with tlb := s.tlb.filter (fun e => !r.covers e.ctx (e.page * 2 ^ (12 + 10 * e.level)) e.level) }

theorem State.mem_uncovered {s : State} {r : SysReq} {e : TlbEntry} (he : e ∈ (s.uncovered r).tlb) :
    r.covers e.ctx (e.page * 2 ^ (12 + 10 * e.level)) e.level = false := by
  simpa using (List.mem_filter.mp he).2

theorem SysReq.covers_page (c : Nat) (va : VAddr) (e : TlbEntry) :
    (SysReq.tlbi c va).covers e.ctx (e.page * 2 ^ (12 + 10 * e.level)) e.level = true ↔
      e.ctx = c ∧ e.page = va.toNat / 2 ^ (12 + 10 * e.level) := by
  simp only [SysReq.covers, Nat.mul_div_cancel e.page (Nat.two_pow_pos (12 + 10 * e.level)), Bool.and_eq_true, beq_iff_eq]
  exact and_congr eq_comm eq_comm

theorem exec_tlbInvalidateComplete {s : State} {o : Op} {r : SysReq} (ho : s.op o.id = some o) (hk : o.kind = .sys r false)
    (hr : r.invalidates = true) : Sys2Proof.Machine.exec (.tlbInvalidateComplete o.id) s =
      .next (if s.inFlight r then s.uncovered r else (s.uncovered r).updateOp o.id (fun x => { x with kind := .sys r true })) := by
  show execTlbInvalidateComplete o.id s = _
  unfold execTlbInvalidateComplete
  simp only [ho, hk, hr, if_true]
  exact (apply_ite Host.Outcome.next _ _ _).symm

/-- An invalidation leaves no translation that it covers, and is complete when no access under way uses one (R377). -/
theorem tlbInvalidateComplete_spec {s : State} {o : Op} {r : SysReq} (ho : s.op o.id = some o) (hk : o.kind = .sys r false)
    (hr : r.invalidates = true) : ∃ u, Sys2Proof.Machine.exec (.tlbInvalidateComplete o.id) s = .next u ∧
      u.tlb = (s.uncovered r).tlb ∧ u.op o.id = some { o with kind := .sys r (!s.inFlight r) } ∧
      { u with tlb := s.tlb, ops := s.ops } = s := by
  refine ⟨_, exec_tlbInvalidateComplete ho hk hr, ?_⟩
  cases s.inFlight r with
  | true => exact ⟨rfl, ho.trans (congrArg some (by rw [Bool.not_true, ← hk])), rfl⟩
  | false => exact ⟨rfl, State.op_updateOp (s := s.uncovered r) ho fun _ => rfl, rfl⟩

/-- Settles O53: translation and the walk of a part, prefetches, fills, fetches and invalidations, each by its own lemma. -/
theorem translationAndFills : Obligations.TranslationAndFills := by
  refine ⟨?_, ?_, ?_, ?_, ?_⟩
  · intro s o k p ho hp hst hacc hsite
    have hstep := exec_partStep_of_issued ho hp hacc hst
    have hsent : s.maySend o p = true → Sys2Proof.Machine.exec (o.partStep k) s = .next (s.translatePart o p k) :=
      fun hsend => hstep.trans (if_pos hsend)
    refine ⟨fun hstay => hstep.trans (if_neg (by simp [hstay])),
      fun hsend hmis => (hsent hsend).trans (congrArg _ (State.translatePart_misaligned hmis k)),
      fun hsend hal hmiss => (hsent hsend).trans (congrArg _ (State.translatePart_miss hal hsite hmiss k)), ?_, ?_⟩
    · intro e hsend hal hhit
      refine ⟨fun pa hc => ⟨fun hpa => ?_, fun hat hpa => ?_⟩, fun x hc => ?_⟩
      · exact (hsent hsend).trans (congrArg _ ((State.translatePart_passes hal hsite hhit hc k).trans
          (State.forwardTo_of_reached hacc hpa k)))
      · exact (hsent hsend).trans (congrArg _ ((State.translatePart_passes hal hsite hhit hc k).trans
          (State.forwardTo_of_window hat hpa k)))
      · exact (hsent hsend).trans (congrArg _ (State.translatePart_fails hal hsite hhit hc k))
    · intro hsend hal hmiss
      have h : s.missing o k p := ⟨ho, hp, hst, hacc, hsite, hsend, hal, hmiss⟩
      exact ⟨fun leaf lvl pa hwalk hc hpa => h.pageWalk_passes hwalk hc hpa, fun leaf lvl x hwalk hc => h.pageWalk_fails hwalk hc,
        fun x hwalk => h.pageWalk_unmapped hwalk⟩
  · intro s o k p lc ho hp hk
    refine ⟨fun x hloc => ?_, fun pa hloc => prefetchPerform_located ho hp hk hloc⟩
    exact ⟨_, State.noteFetch_onlyLoads .., exec_prefetchPerform_fails ho hp hk hloc⟩
  · intro s o k pa idx p t ho hp hst
    refine ⟨fun hk => ⟨_, exec_localCacheFill ho hp hst hk, ?_, fun hpa hroom hlen => ?_⟩, fun hl hpa hheld => ?_⟩
    · obtain ⟨l, hl⟩ := s.fillLines_eq o.site o.key.ctx pa p.len
      rw [hl]
    · rw [hlen]
      exact State.lineAt_fillLines_one hpa hroom
    · exact (exec_pcieCompletionTimeout ho hp hst hl hpa).trans (congrArg _ (State.donePart_eq ho hheld k _ true))
  · intro s i a hi hph hmiss
    refine ⟨fun pa hloc => icacheFill_located hi hph hmiss hloc, fun x hloc => ?_⟩
    exact ⟨_, State.noteFetch_onlyLoads .., exec_icacheFill_fails hi hph hmiss hloc⟩
  · intro s o r ho hk hr
    obtain ⟨u, hexec, htlb, hop, hrest⟩ := tlbInvalidateComplete_spec ho hk hr
    have huncovered : ∀ e ∈ u.tlb, r.covers e.ctx (e.page * 2 ^ (12 + 10 * e.level)) e.level = false :=
      fun e he => State.mem_uncovered (htlb ▸ he)
    refine ⟨u, hexec, fun c va hrc e he hcov => ?_, fun c hrc e he hctx => ?_, fun hrc => ?_, hop, hrest⟩
    · exact Bool.eq_false_iff.mp (huncovered e he) (hrc ▸ (SysReq.covers_page c va e).mpr hcov)
    · exact Bool.eq_false_iff.mp (huncovered e he) (by simp [hrc, SysReq.covers, hctx])
    · exact List.eq_nil_iff_forall_not_mem.mpr fun e he => Bool.eq_false_iff.mp (huncovered e he) (by rw [hrc]; rfl)

end Sys2Proof.Machine
end

section
/-! The turns of a stream-engine command (R261, R266 to R272): what each round of its loop needs, puts or stops at. -/

namespace Sys2Proof.Machine

/-! ### The walks of an engine's accesses (R385, R410) -/

theorem State.noteEach_onlyWalks (s : State) (o : Op) (a : Access) (l : List (Nat × Nat)) : s.onlyWalks (s.noteEach o a l) := by
  induction l generalizing s with
  | nil => rfl
  | cons e l ih =>
    have hnote := s.noteFetch_onlyWalks o.site o.key.ctx e.1
    unfold State.noteEach
    dsimp only
    split
    · exact hnote
    · exact State.onlyWalks_trans hnote (ih _)

theorem State.noteRuns_onlyWalks (s : State) (o : Op) (a : Access) (va n : Nat) : s.onlyWalks (s.noteRuns o a va n) :=
  s.noteEach_onlyWalks o a _

theorem State.noteInput_onlyWalks (s : State) (o : Op) (e : Engine) (input : Option Bool) (idx : Nat) :
    s.onlyWalks (s.noteInput o e input idx) := by
  unfold State.noteInput
  split
  · rfl
  · split
    · rfl
    · exact s.noteRuns_onlyWalks ..

theorem State.noteFault_onlyWalks (s : State) (o : Op) (e : Engine) : s.onlyWalks (s.noteFault o e) := by
  unfold State.noteFault
  split
  · split
    · rfl
    · exact s.noteRuns_onlyWalks ..
  · exact s.noteInput_onlyWalks ..
  · rfl

/-! ### The steps of a running command -/

/-- An operation is a running engine command (R272, R274). -/
structure State.runs (s : State) (o : Op) (e : Engine) : Prop where
  op : s.op o.id = some o
  kind : o.kind = .engine e
  started : e.started = true
  unfinished : e.finished = false
  free : o.heldOp = none
  up : s.drained o.key.ctx = false

/-- What a step of a command answers. -/
def State.engineAnswer (s : State) (id : Nat) (r : Except Trap (Option (State × Engine))) : Out :=
  match r with
  | .ok (some (s1, e1)) => .next (s1.setEngine id e1)
  | _ => .next s

section
variable {s : State} {o : Op} {e : Engine} (h : s.runs o e)
include h

theorem State.runs.engineRuns (begun : Bool) : s.engineRuns o e begun = true := by
  simp [State.engineRuns, h.started, h.unfinished, h.free, h.up]

theorem State.runs.engine : o.engine = some e := by simp [Op.engine, h.kind]

theorem State.runs.exec_perform :
    Sys2Proof.Machine.exec (.engineElement o.id .perform) s = s.engineAnswer o.id (s.performTurn o e) := by
  show execEngineElement o.id .perform s = _
  unfold execEngineElement
  rw [h.op]
  dsimp only
  rw [h.engine]
  dsimp only
  rw [h.engineRuns]
  rfl

theorem State.runs.exec_stage (second : Bool) :
    Sys2Proof.Machine.exec (.engineElement o.id (.stage second)) s = s.engineAnswer o.id (.ok (s.stageAhead o e second)) := by
  show execEngineElement o.id (.stage second) s = _
  unfold execEngineElement
  rw [h.op]
  dsimp only
  rw [h.engine]
  dsimp only
  rw [h.engineRuns]
  rfl

theorem State.runs.exec_write :
    Sys2Proof.Machine.exec (.engineElement o.id .write) s = s.engineAnswer o.id (s.writeOldest o e) := by
  show execEngineElement o.id .write s = _
  unfold execEngineElement
  rw [h.op]
  dsimp only
  rw [h.engine]
  dsimp only
  rw [h.engineRuns]
  rfl

theorem State.runs.exec_faultStop {t : Trap} (ht : s.engineFault o e = some t) :
    ∃ u, s.onlyLoads u ∧ Sys2Proof.Machine.exec (.engineFaultStop o.id) s = .next (u.stopEngine o t) := by
  refine ⟨s.noteFault o e, State.onlyLoads_of_walks (s.noteFault_onlyWalks o e), ?_⟩
  show execEngineFaultStop o.id s = _
  unfold execEngineFaultStop
  rw [h.op]
  dsimp only
  rw [h.engine]
  dsimp only
  rw [h.engineRuns, ht]
  rfl

theorem State.runs.exec_complete : Sys2Proof.Machine.exec (.engineCommandComplete o.id) s =
    if e.closed && e.buf.isEmpty && e.part.isNone then .next (s.setEngine o.id { e with finished := true }) else .next s := by
  show execEngineCommandComplete o.id s = _
  unfold execEngineCommandComplete
  rw [h.op]
  dsimp only
  rw [h.engine]
  dsimp only
  rw [h.engineRuns, Bool.true_and]

end

/-- ENGINE_COMMAND_START: nothing of the cell comes first, and fewer than eight are running (R272). -/
theorem exec_engineCommandStart {s : State} {o : Op} {e : Engine} {others : List (Op × Engine)} (ho : s.op o.id = some o)
    (hk : o.kind = .engine e) (hs : e.started = false) (hd : s.drained o.key.ctx = false)
    (hothers : others = s.ops.filterMap
      (fun x => if x.site == o.site && x.id != o.id then x.engine.map (fun y => (x, y)) else none))
    (hfirst : ∀ x ∈ others, x.2.started = false → o.seq < x.1.seq ∨ o.seq = x.1.seq ∧ o.prog ≤ x.1.prog)
    (hroom : (others.filter (fun x => x.2.started && !x.2.finished)).length < 8) :
    Sys2Proof.Machine.exec (.engineCommandStart o.id) s = .next (s.setEngine o.id { e with started := true }) := by
  have hengine : o.engine = some e := by simp [Op.engine, hk]
  have hearlier : others.any (fun x => !x.2.started
      && (decide (x.1.seq < o.seq) || (x.1.seq == o.seq && decide (x.1.prog < o.prog)))) = false := by
    refine List.any_eq_false.mpr fun x hx hbefore => ?_
    simp only [Bool.and_eq_true, Bool.not_eq_true', Bool.or_eq_true, decide_eq_true_eq, beq_iff_eq] at hbefore
    have := hfirst x hx hbefore.1
    omega
  show execEngineCommandStart o.id s = _
  unfold execEngineCommandStart
  rw [ho]
  dsimp only
  rw [hengine]
  dsimp only
  rw [← hothers]
  refine if_neg ?_
  simp only [hs, hearlier, hd, Bool.or_false, Bool.false_or, decide_eq_true_eq, not_le]
  exact hroom

/-! ### What a turn of the loop answers -/

/-- The next step of a command takes a turn that leaves `e1`. -/
def State.engineTurns (s : State) (o : Op) (e1 : Engine) : Prop :=
  Sys2Proof.Machine.exec (.engineElement o.id .perform) s = .next (s.setEngine o.id e1)

/-- A command goes no further, and stops at a fault once its results are written (R271). -/
def State.engineStops (s : State) (o : Op) (e : Engine) (t : Trap) : Prop :=
  Sys2Proof.Machine.exec (.engineElement o.id .perform) s = .next s ∧
    (e.buf = [] → ∃ u, s.onlyLoads u ∧ Sys2Proof.Machine.exec (.engineFaultStop o.id) s = .next (u.stopEngine o t))

/-- The next step of a command reads an entry of an input, waits for its place in the order, or stops at its fault. -/
def State.engineReads (s : State) (o : Op) (e : Engine) (input : Option Bool) (idx : Nat) : Prop :=
  (∀ u e1, s.readInput o e input idx = .ok (some (u, e1)) →
    Sys2Proof.Machine.exec (.engineElement o.id .perform) s = .next (u.setEngine o.id e1)) ∧
  (s.readInput o e input idx = .ok none → Sys2Proof.Machine.exec (.engineElement o.id .perform) s = .next s) ∧
  (∀ t, s.readInput o e input idx = .error t → s.engineStops o e t)

/-- A running command whose next turn has room (R272). -/
structure State.turning (s : State) (o : Op) (e : Engine) : Prop extends s.runs o e where
  whole : e.part = none
  opened : e.closed = false
  room : e.buf.length ≤ 62

section
variable {s : State} {o : Op} {e : Engine} (h : s.turning o e)
include h

theorem State.turning.performTurn_turned {e1 : Engine} (ht : e.turn = .ok (.turned e1)) :
    s.performTurn o e = .ok (some (s, e1)) := by
  simp [State.performTurn, h.whole, h.opened, h.room, ht]

theorem State.turning.performTurn_fault {t : Trap} (ht : e.turn = .error t) : s.performTurn o e = .error t := by
  simp [State.performTurn, h.whole, h.opened, h.room, ht]

theorem State.turning.performTurn_need {input : Option Bool} {idx : Nat} (ht : e.turn = .ok (.need input idx)) :
    s.performTurn o e = s.readInput o e input idx := by
  simp [State.performTurn, h.whole, h.opened, h.room, ht]

theorem State.turning.stops_of_fault {t : Trap} (ht : s.performTurn o e = .error t) : s.engineStops o e t := by
  refine ⟨h.exec_perform.trans (congrArg _ ht), fun hbuf => h.exec_faultStop ?_⟩
  unfold State.engineFault
  simp only [hbuf, List.isEmpty_nil, if_true, ht]

theorem State.turning.turns {e1 : Engine} (ht : e.turn = .ok (.turned e1)) : s.engineTurns o e1 :=
  h.exec_perform.trans (congrArg _ (h.performTurn_turned ht))

theorem State.turning.stops {t : Trap} (ht : e.turn = .error t) : s.engineStops o e t :=
  h.stops_of_fault (h.performTurn_fault ht)

theorem State.turning.reads {input : Option Bool} {idx : Nat} (ht : e.turn = .ok (.need input idx)) :
    s.engineReads o e input idx := by
  have hread := h.performTurn_need ht
  refine ⟨fun u e1 hr => ?_, fun hr => ?_, fun t hr => h.stops_of_fault (hread.trans hr)⟩
  all_goals
    rw [h.exec_perform, hread, hr]
    rfl

end

/-! ### The rounds of each command -/

/-- A result as a command puts it into its buffer. -/
def Engine.result (e : Engine) (k : Nat) (disp : Int) (n v : Nat) (psn : Bool) : EngineOut :=
  { loc := k, disp := disp, n := n, v := v, psn := psn, elem := e.elem, value := e.atValue }

/-- A fault at a displacement from a location (R365). -/
def Engine.faultAt (e : Engine) (k : Nat) (disp : Int) (elem value : Nat) (c : Cause) : Trap :=
  { cause := c, faddr := (e.place k disp).toNat, detail := e.detail 0 elem, value := BitVec.ofNat 64 value }

section
variable {e : Engine} (hall : e.allPerformed = false)

section
include hall

theorem Engine.turn_cpy (hc : e.cmd = .cpy) : e.turn = .ok e.cpyTurn := by simp [Engine.turn, hall, hc]
theorem Engine.turn_indexed (hc : e.cmd = .gth ∨ e.cmd = .sct) : e.turn = e.indexedTurn := by
  obtain hc | hc := hc <;> simp [Engine.turn, hall, hc]
theorem Engine.turn_isect (hc : e.cmd = .isect) : e.turn = e.isectTurn := by simp [Engine.turn, hall, hc]
theorem Engine.turn_smerge (hc : e.cmd = .smerge) : e.turn = e.smergeTurn := by simp [Engine.turn, hall, hc]
theorem Engine.turn_cmpct (hc : e.cmd = .cmpct) : e.turn = e.cmpctTurn := by simp [Engine.turn, hall, hc]

end

theorem Engine.poisonTrap_isect (hc : e.cmd = .isect) (second : Bool) : e.poisonTrap second =
    e.faultAt second.toNat ((if second then e.j else e.i) * e.unit : Nat) e.m e.cursor .poisonConsumed := by
  simp only [Engine.poisonTrap, Engine.source, Engine.pos, Engine.elem, Engine.atValue, hc]
  rfl

theorem Engine.poisonTrap_smerge (hc : e.cmd = .smerge) (second : Bool) : e.poisonTrap second =
    e.faultAt second.toNat ((if second then e.j else e.i) * e.unit : Nat) e.m e.cursor .poisonConsumed := by
  simp only [Engine.poisonTrap, Engine.source, Engine.pos, Engine.elem, Engine.atValue, hc]
  rfl

end

section
variable {s : State} {o : Op} {e : Engine} (h : s.turning o e) (hall : e.allPerformed = false)
include h hall

/-- `cpy`: the element at the cursor goes to the place of its strides (R266). -/
theorem State.turning.cpy (hc : e.cmd = .cpy) :
    (e.staged false e.i = none → s.engineReads o e (some false) e.i) ∧
    ∀ v p, e.staged false e.i = some (v, p) → s.engineTurns o
      { e with i := e.i + 1, buf := e.buf ++ [e.result 1 (e.boxDisp e.strideT e.i) e.size v p] }.trim := by
  have hturn := Engine.turn_cpy hall hc
  refine ⟨fun hv => h.reads ?_, fun v p hv => h.turns ?_⟩
  · rw [hturn, Engine.cpyTurn, hv]
  · rw [hturn, Engine.cpyTurn, hv]
    rfl

/-- `gth` and `sct`: the index word first, then the element (R103, R267). -/
theorem State.turning.indexed (hc : e.cmd = .gth ∨ e.cmd = .sct) :
    (e.staged true e.i = none → s.engineReads o e (some true) e.i) ∧
    (∀ x, e.staged true e.i = some (x, true) →
      s.engineStops o e (e.faultAt 2 (e.i * e.indexSize : Nat) e.i 0 .poisonIndex)) ∧
    ∀ x, e.staged true e.i = some (x, false) →
      (e.staged false e.i = none → s.engineReads o e (some false) e.i) ∧
      ∀ v p, e.staged false e.i = some (v, p) →
        (e.cmd = .gth → s.engineTurns o
          { e with i := e.i + 1, buf := e.buf ++ [e.result 1 (e.i * e.strideT 0) e.size v p] }.trim) ∧
        (e.cmd = .sct → s.engineTurns o
          { e with i := e.i + 1, buf := e.buf ++ [e.result 1 (x * e.size : Nat) e.size v p] }.trim) := by
  have hturn := Engine.turn_indexed hall hc
  refine ⟨fun hx => h.reads ?_, fun x hx => h.stops ?_, fun x hx => ⟨fun hv => h.reads ?_, fun v p hv => ⟨fun hg => h.turns ?_,
    fun hg => h.turns ?_⟩⟩⟩
  · rw [hturn, Engine.indexedTurn, hx]
  · rw [hturn, Engine.indexedTurn, hx]
    rfl
  · simp only [hturn, Engine.indexedTurn, hx, hv]
  · have hcmd : (e.cmd == EngineCmd.gth) = true := beq_iff_eq.mpr hg
    simp only [hturn, Engine.indexedTurn, hx, hv, hcmd, if_true]
    rfl
  · have hcmd : (e.cmd == EngineCmd.gth) = false := by rw [hg]; rfl
    simp only [hturn, Engine.indexedTurn, hx, hv, hcmd, Bool.false_eq_true, if_false]
    rfl

/-- `isect`: A's key and its order before B's, then the pair of equal keys, or the lesser passed (R268). -/
theorem State.turning.isect (hc : e.cmd = .isect) :
    (e.staged false e.i = none → s.engineReads o e (some false) e.i) ∧
    (∀ x, e.staged false e.i = some (x, true) →
      s.engineStops o e (e.faultAt 0 (e.i * e.unit : Nat) e.m e.cursor .poisonConsumed)) ∧
    ∀ a, e.staged false e.i = some (a, false) →
      (∀ p, e.prevA = some p → a ≤ p → s.engineStops o e (e.fieldTrap .streamOrder 3 a)) ∧
      ((∀ p, e.prevA = some p → p < a) →
        (e.staged true e.j = none → s.engineReads o e (some true) e.j) ∧
        (∀ x, e.staged true e.j = some (x, true) →
          s.engineStops o e (e.faultAt 1 (e.j * e.unit : Nat) e.m e.cursor .poisonConsumed)) ∧
        ∀ b, e.staged true e.j = some (b, false) →
          (∀ p, e.prevB = some p → b ≤ p → s.engineStops o e (e.fieldTrap .streamOrder 4 b)) ∧
          ((∀ p, e.prevB = some p → p < b) →
            (a = b → e.m = e.cap → s.engineStops o e (e.fieldTrap .sparseFieldOverflow 0 e.m)) ∧
            (a = b → e.m ≠ e.cap → s.engineTurns o { e with
              i := e.i + 1, j := e.j + 1, m := e.m + 1, prevA := some a, prevB := some b
              buf := e.buf ++ [e.result 2 (8 + 8 * e.m : Nat) 8 (e.i % 2 ^ 32 + e.j % 2 ^ 32 * 2 ^ 32) false] }.trim) ∧
            (a < b → s.engineTurns o { e with i := e.i + 1, prevA := some a }.trim) ∧
            (b < a → s.engineTurns o { e with j := e.j + 1, prevB := some b }.trim))) := by
  have hturn : e.turn = _ := (Engine.turn_isect hall hc).trans (Engine.isectTurn.eq_1 e)
  have hpoison := Engine.poisonTrap_isect hc
  have order : ∀ {q : Option Nat} {k : Nat}, (∀ p, q = some p → p < k) → (q.map (fun p => decide (k ≤ p))).getD false = false := by
    intro q k hq
    cases q with
    | none => rfl
    | some p => exact decide_eq_false (Nat.not_le.mpr (hq p rfl))
  refine ⟨fun ha => h.reads ?_, fun x ha => h.stops ?_, fun a ha => ⟨fun p hp hap => h.stops ?_, fun hordA => ⟨fun hb => h.reads ?_,
    fun x hb => h.stops ?_, fun b hb => ⟨fun p hp hbp => h.stops ?_, fun hordB => ?_⟩⟩⟩⟩
  · rw [hturn, ha]
  · rw [hturn, ha]
    exact congrArg _ (hpoison false)
  · simp only [hturn, ha, hp, Option.map_some, Option.getD_some, hap, decide_true, if_true]
  · simp only [hturn, ha, hb, order hordA, Bool.false_eq_true, if_false]
  · simp only [hturn, ha, hb, order hordA, Bool.false_eq_true, if_false]
    exact congrArg _ (hpoison true)
  · simp only [hturn, ha, hb, order hordA, hp, Option.map_some, Option.getD_some, hbp, decide_true, if_true, Bool.false_eq_true,
      if_false]
  · have hA := order hordA
    have hB := order hordB
    refine ⟨fun hab hm => h.stops ?_, fun hab hm => h.turns ?_, fun hab => h.turns ?_, fun hab => h.turns ?_⟩
    · simp only [hturn, ha, hb, hA, hB, Bool.false_eq_true, if_false, if_pos hab, if_pos hm]
    · simp only [hturn, ha, hb, hA, hB, Bool.false_eq_true, if_false, if_pos hab, if_neg hm]
      rfl
    · simp only [hturn, ha, hb, hA, hB, Bool.false_eq_true, if_false, if_neg (Nat.ne_of_lt hab), if_pos hab]
    · simp only [hturn, ha, hb, hA, hB, Bool.false_eq_true, if_false, if_neg (Nat.ne_of_gt hab), if_neg (Nat.lt_asymm hab)]

end

end Sys2Proof.Machine
end

section
/-! The rounds of `smerge` and `cmpct` (R269, R270), what follows the last element, and reads ahead of the cursor (R272). -/

namespace Sys2Proof.Machine

/-! ### `smerge` -/

/-- The key that `smerge` sees of an input at its cursor: that of its window, or none where the input is exhausted. -/
def Engine.keyOf (e : Engine) (second : Bool) : Option (Nat × Bool) :=
  if e.pos second < e.total second then e.staged second (e.pos second) else some (0, false)

section
variable {e : Engine} (hc : e.cmd = .smerge)
include hc

theorem Engine.keyOf_first : e.keyOf false = if e.i < e.countA then e.staged false e.i else some (0, false) := by
  simp only [Engine.keyOf, Engine.pos, Engine.total, hc, Bool.false_eq_true, if_false]

theorem Engine.keyOf_second : e.keyOf true = if e.j < e.countB then e.staged true e.j else some (0, false) := by
  simp only [Engine.keyOf, Engine.pos, Engine.total, hc, if_true]

variable (hall : e.allPerformed = false)
include hall

theorem Engine.turn_smerge_eq : e.turn = match e.keyOf false, e.keyOf true with
    | none, _ => .ok (.need (some false) e.i)
    | some (_, true), _ => .error (e.poisonTrap false)
    | some _, none => .ok (.need (some true) e.j)
    | some _, some (_, true) => .error (e.poisonTrap true)
    | some (a, false), some (b, false) =>
      let k := if e.fromA then a else b
      if ((if e.fromA then e.prevA else e.prevB).map (fun p => decide (k < p))).getD false then
        .error (e.fieldTrap .streamOrder (if e.fromA then 3 else 4) k)
      else if e.recordSize = e.size then .ok (.turned (e.putRecord k (0, false)))
      else
        match e.rest with
        | none => .ok (.need none (if e.fromA then e.i else e.j))
        | some r => .ok (.turned (e.putRecord k r)) := by
  rw [Engine.keyOf_first hc, Engine.keyOf_second hc]
  exact Engine.turn_smerge hall hc

end

/-- The position, the last key and the number in a fault of the input from which `smerge` takes its record. -/
def Engine.takenAt (e : Engine) : Nat := if e.fromA then e.i else e.j

def Engine.takenPrev (e : Engine) : Option Nat := if e.fromA then e.prevA else e.prevB

/-- The buffer with the record of a key. -/
def Engine.withRecord (e : Engine) (k : Nat) (rest : Nat × Bool) : List EngineOut :=
  e.buf ++ [e.result 2 (e.m * e.recordSize : Nat) e.recordSize (k + rest.1 * 256 ^ e.size) rest.2]

theorem Engine.putRecord_first {e : Engine} (hfrom : e.fromA = true) (k : Nat) (r : Nat × Bool) : e.putRecord k r =
    { e with i := e.i + 1, m := e.m + 1, prevA := some k, rest := none, buf := e.withRecord k r }.trim :=
  if_pos hfrom

theorem Engine.putRecord_second {e : Engine} (hfrom : e.fromA = false) (k : Nat) (r : Nat × Bool) : e.putRecord k r =
    { e with j := e.j + 1, m := e.m + 1, prevB := some k, rest := none, buf := e.withRecord k r }.trim :=
  if_neg (by rw [hfrom]; exact Bool.false_ne_true)

/-- `smerge` takes the record of A with this key (R269). -/
def State.takesA (s : State) (o : Op) (e : Engine) (a : Nat) : Prop :=
  let turned (r : Nat × Bool) : Prop := s.engineTurns o
    { e with i := e.i + 1, m := e.m + 1, prevA := some a, rest := none, buf := e.withRecord a r }.trim
  (∀ p, e.prevA = some p → a < p → s.engineStops o e (e.fieldTrap .streamOrder 3 a)) ∧
  ((∀ p, e.prevA = some p → p ≤ a) →
    (e.recordSize = e.size → turned (0, false)) ∧
    (e.recordSize ≠ e.size → (e.rest = none → s.engineReads o e none e.i) ∧ ∀ r, e.rest = some r → turned r))

/-- `smerge` takes the record of B with this key (R269). -/
def State.takesB (s : State) (o : Op) (e : Engine) (b : Nat) : Prop :=
  let turned (r : Nat × Bool) : Prop := s.engineTurns o
    { e with j := e.j + 1, m := e.m + 1, prevB := some b, rest := none, buf := e.withRecord b r }.trim
  (∀ p, e.prevB = some p → b < p → s.engineStops o e (e.fieldTrap .streamOrder 4 b)) ∧
  ((∀ p, e.prevB = some p → p ≤ b) →
    (e.recordSize = e.size → turned (0, false)) ∧
    (e.recordSize ≠ e.size → (e.rest = none → s.engineReads o e none e.j) ∧ ∀ r, e.rest = some r → turned r))

section
variable {s : State} {o : Op} {e : Engine} (h : s.turning o e) (hc : e.cmd = .smerge) (hall : e.allPerformed = false)
include h hc hall

/-- What `smerge` does with the key `k` of the record that it takes: its order first, then the rest of the record (R269). -/
theorem State.turning.smerge_takes {a b k : Nat} (ha : e.keyOf false = some (a, false)) (hb : e.keyOf true = some (b, false))
    (hk : k = if e.fromA then a else b) :
    (∀ p, e.takenPrev = some p → k < p → s.engineStops o e (e.fieldTrap .streamOrder (if e.fromA then 3 else 4) k)) ∧
    ((∀ p, e.takenPrev = some p → p ≤ k) →
      (e.recordSize = e.size → s.engineTurns o (e.putRecord k (0, false))) ∧
      (e.recordSize ≠ e.size → (e.rest = none → s.engineReads o e none e.takenAt) ∧
        ∀ r, e.rest = some r → s.engineTurns o (e.putRecord k r))) := by
  subst hk
  have hturn := Engine.turn_smerge_eq hc hall
  simp only [ha, hb] at hturn
  refine ⟨fun p hp hkp => h.stops ?_, fun hord => ?_⟩
  · rw [hturn]
    refine if_pos ?_
    unfold Engine.takenPrev at hp
    rw [hp]
    exact decide_eq_true hkp
  · have hord' : e.turn = _ := hturn.trans (if_neg (by
      unfold Engine.takenPrev at hord
      cases hq : (if e.fromA then e.prevA else e.prevB) with
      | none => exact Bool.false_ne_true
      | some p => exact fun ht => absurd (of_decide_eq_true ht) (Nat.not_lt.mpr (hord p hq))))
    refine ⟨fun hsize => h.turns ?_, fun hsize => ⟨fun hrest => h.reads ?_, fun r hrest => h.turns ?_⟩⟩
    · rw [hord', if_pos hsize]
    · rw [hord', if_neg hsize, hrest]
      rfl
    · rw [hord', if_neg hsize, hrest]

theorem State.turning.takesA {a b : Nat} (ha : e.keyOf false = some (a, false)) (hb : e.keyOf true = some (b, false))
    (hfrom : e.fromA = true) : s.takesA o e a := by
  have htakes := h.smerge_takes hc hall ha hb (k := a) (by rw [hfrom, if_pos rfl])
  simp only [Engine.takenPrev, Engine.takenAt, Engine.putRecord_first hfrom, hfrom, if_true] at htakes
  exact htakes

theorem State.turning.takesB {a b : Nat} (ha : e.keyOf false = some (a, false)) (hb : e.keyOf true = some (b, false))
    (hfrom : e.fromA = false) : s.takesB o e b := by
  have htakes := h.smerge_takes hc hall ha hb (k := b) (by rw [hfrom, if_neg Bool.false_ne_true])
  simp only [Engine.takenPrev, Engine.takenAt, Engine.putRecord_second hfrom, hfrom, Bool.false_eq_true, if_false] at htakes
  exact htakes

/-- `smerge`: the keys at the cursor, A's before B's, then the record of the key that is not greater (R269). -/
theorem State.turning.smerge :
    (∀ a, e.j = e.countB → e.staged false e.i = some (a, false) → s.takesA o e a) ∧
    (∀ b, e.i = e.countA → e.j < e.countB → e.staged true e.j = some (b, false) → s.takesB o e b) ∧
    (∀ a b, e.i < e.countA → e.j < e.countB → e.staged false e.i = some (a, false) → e.staged true e.j = some (b, false) →
      (a ≤ b → s.takesA o e a) ∧ (b < a → s.takesB o e b)) ∧
    (e.i < e.countA → e.staged false e.i = none → s.engineReads o e (some false) e.i) ∧
    (∀ x, e.i < e.countA → e.staged false e.i = some (x, true) →
      s.engineStops o e (e.faultAt 0 (e.i * e.unit : Nat) e.m e.cursor .poisonConsumed)) ∧
    ((∀ x, e.i < e.countA → e.staged false e.i ≠ some (x, true) ∧ e.staged false e.i ≠ none) → e.j < e.countB →
      (e.staged true e.j = none → s.engineReads o e (some true) e.j) ∧
      ∀ x, e.staged true e.j = some (x, true) →
        s.engineStops o e (e.faultAt 1 (e.j * e.unit : Nat) e.m e.cursor .poisonConsumed)) := by
  have hA := Engine.keyOf_first hc
  have hB := Engine.keyOf_second hc
  have hturn := Engine.turn_smerge_eq hc hall
  have hpoison := Engine.poisonTrap_smerge hc
  have hleft : e.i < e.countA ∨ e.j < e.countB := by
    simp only [Engine.allPerformed, hc, Bool.not_eq_false', Bool.or_eq_true, decide_eq_true_eq] at hall
    exact hall
  refine ⟨fun a hj ha => ?_, fun b hi hj hb => ?_, fun a b hi hj ha hb => ⟨fun hab => ?_, fun hab => ?_⟩, fun hi ha => h.reads ?_,
    fun x hi ha => h.stops ?_, fun hclean hj => ?_⟩
  · have hi : e.i < e.countA := by omega
    refine h.takesA hc hall (b := 0) (hA.trans ((if_pos hi).trans ha)) (hB.trans (if_neg (by omega))) ?_
    simp [Engine.fromA, hj]
  · refine h.takesB hc hall (a := 0) (hA.trans (if_neg (by omega))) (hB.trans ((if_pos hj).trans hb)) ?_
    simp [Engine.fromA, hi, Nat.ne_of_lt hj]
  · refine h.takesA hc hall (hA.trans ((if_pos hi).trans ha)) (hB.trans ((if_pos hj).trans hb)) ?_
    simp [Engine.fromA, ha, hb, hi, hab]
  · refine h.takesB hc hall (hA.trans ((if_pos hi).trans ha)) (hB.trans ((if_pos hj).trans hb)) ?_
    simp [Engine.fromA, ha, hb, hab, Nat.ne_of_lt hj]
  · rw [hturn, hA, if_pos hi, ha]
  · rw [hturn, hA, if_pos hi, ha]
    exact congrArg _ (hpoison false)
  · obtain ⟨a, ha⟩ : ∃ a, e.keyOf false = some (a, false) := by
      rw [hA]
      split
      · rename_i hi
        obtain ⟨⟨a, q⟩, hq⟩ := Option.ne_none_iff_exists'.mp (hclean 0 hi).2
        cases q with
        | true => exact absurd hq (hclean a hi).1
        | false => exact ⟨a, hq⟩
      · exact ⟨0, rfl⟩
    refine ⟨fun hb => h.reads ?_, fun x hb => h.stops ?_⟩
    · rw [hturn, ha, hB, if_pos hj, hb]
    · rw [hturn, ha, hB, if_pos hj, hb]
      exact congrArg _ (hpoison true)

end

/-! ### `cmpct` -/

/-- The cursor of `cmpct` behind an element (R270). -/
def Engine.nextCell (e : Engine) : Engine :=
  if e.j + 1 < e.extent 0 then { e with j := e.j + 1 } else { e with i := e.i + 1, j := 0, rowPut := false }

theorem Engine.putOffset_overflows {e : Engine} (hm : 256 ^ e.offsetSize ≤ e.m) (r : Nat) :
    e.putOffset r = .error (e.fieldTrap .sparseFieldOverflow 1 e.m) := if_pos hm

theorem Engine.putOffset_fits {e : Engine} (hm : e.m < 256 ^ e.offsetSize) (r : Nat) : e.putOffset r =
    .ok { e with buf := e.buf ++ [e.result 3 (r * e.offsetSize : Nat) e.offsetSize e.m false] } := if_neg (Nat.not_le.mpr hm)

theorem Engine.close_isect {e : Engine} (hc : e.cmd = .isect) : e.close = .ok { (e.push 2 0 8 e.m false) with closed := true } := by
  unfold Engine.close
  rw [hc]

theorem Engine.close_cmpct_overflows {e : Engine} (hc : e.cmd = .cmpct) (hm : 256 ^ e.offsetSize ≤ e.m) :
    e.close = .error (e.fieldTrap .sparseFieldOverflow 1 e.m) := by
  simp only [Engine.close, hc, Engine.putOffset_overflows hm]

theorem Engine.close_cmpct_fits {e : Engine} (hc : e.cmd = .cmpct) (hm : e.m < 256 ^ e.offsetSize) : e.close =
    .ok { e with closed := true, buf := e.buf ++ [e.result 3 (e.i * e.offsetSize : Nat) e.offsetSize e.m false] } := by
  unfold Engine.close
  split
  · simp_all
  · rw [Engine.putOffset_fits hm]
  · exact absurd hc ‹_›

theorem Engine.close_other {e : Engine} (h1 : e.cmd ≠ .isect) (h2 : e.cmd ≠ .cmpct) : e.close = .ok { e with closed := true } := by
  unfold Engine.close
  split
  · exact absurd ‹_› h1
  · exact absurd ‹_› h2
  · rfl

section
variable {s : State} {o : Op} {e : Engine} (h : s.turning o e)
include h

section
variable (hc : e.cmd = .cmpct) (hall : e.allPerformed = false)
include hc hall

/-- `cmpct` at the start of a row: its offset (R270). -/
theorem State.turning.cmpct_row (hrow : e.rowPut = false) :
    (256 ^ e.offsetSize ≤ e.m → s.engineStops o e (e.fieldTrap .sparseFieldOverflow 1 e.m)) ∧
    (e.m < 256 ^ e.offsetSize → s.engineTurns o
      { e with rowPut := true, buf := e.buf ++ [e.result 3 (e.i * e.offsetSize : Nat) e.offsetSize e.m false] }) := by
  have hturn : e.turn = match e.putOffset e.i with
      | .error t => .error t
      | .ok e1 => .ok (.turned { e1 with rowPut := true }) := by
    rw [Engine.turn_cmpct hall hc, Engine.cmpctTurn, hrow]
    rfl
  refine ⟨fun hm => h.stops ?_, fun hm => h.turns ?_⟩
  · rw [hturn, Engine.putOffset_overflows hm]
  · rw [hturn, Engine.putOffset_fits hm]

/-- `cmpct` within a row: zeros are skipped, a nonzero element is kept with its column (R270). -/
theorem State.turning.cmpct_element (hrow : e.rowPut = true) :
    let c := e.i * e.extent 0 + e.j
    (e.staged false c = none → s.engineReads o e (some false) c) ∧
    (∀ x, e.staged false c = some (x, true) → s.engineStops o e (e.faultAt 0
      ((c / e.extent 0 : Nat) * e.strideS 1 + (c % e.extent 0 : Nat) * e.strideS 0) e.m e.cursor .poisonConsumed)) ∧
    (e.staged false c = some (0, false) → s.engineTurns o e.nextCell.trim) ∧
    ∀ x, x ≠ 0 → e.staged false c = some (x, false) →
      (256 ^ e.columnSize ≤ e.j → s.engineStops o e (e.fieldTrap .sparseFieldOverflow 2 e.j)) ∧
      (e.j < 256 ^ e.columnSize → s.engineTurns o (Engine.nextCell { e with
        m := e.m + 1
        buf := e.buf ++ [e.result 2 (e.m * e.columnSize : Nat) e.columnSize e.j false,
          e.result 1 (e.m * e.size : Nat) e.size x false] }).trim) := by
  intro c
  have hpos : e.pos false = c := by simp only [Engine.pos, hc, c]
  have hturn : e.turn = match e.staged false c with
      | none => .ok (.need (some false) c)
      | some (_, true) => .error (e.poisonTrap false)
      | some (x, false) =>
        if x = 0 then .ok (.turned e.nextCell.trim)
        else if 256 ^ e.columnSize ≤ e.j then .error (e.fieldTrap .sparseFieldOverflow 2 e.j)
        else .ok (.turned (Engine.nextCell { ((e.push 2 (e.m * e.columnSize : Nat) e.columnSize e.j false).push 1
          (e.m * e.size : Nat) e.size x false) with m := e.m + 1 }).trim) := by
    rw [Engine.turn_cmpct hall hc, Engine.cmpctTurn, hrow, hpos]
    rfl
  have hpoison : e.poisonTrap false = e.faultAt 0
      ((c / e.extent 0 : Nat) * e.strideS 1 + (c % e.extent 0 : Nat) * e.strideS 0) e.m e.cursor .poisonConsumed := by
    simp only [Engine.poisonTrap, hpos, Engine.source, Engine.elem, Engine.atValue, hc]
    rfl
  refine ⟨fun hx => h.reads ?_, fun x hx => h.stops ?_, fun hx => h.turns ?_, fun x hnz hx => ⟨fun hj => h.stops ?_,
    fun hj => h.turns ?_⟩⟩
  · rw [hturn, hx]
  · rw [hturn, hx]
    exact congrArg _ hpoison
  · rw [hturn, hx]
    rfl
  · rw [hturn, hx]
    exact (if_neg hnz).trans (if_pos hj)
  · refine hturn.trans ?_
    rw [hx]
    refine (if_neg hnz).trans ((if_neg (Nat.not_le.mpr hj)).trans ?_)
    exact congrArg (fun l => (.ok (.turned (Engine.nextCell { e with m := e.m + 1, buf := l }).trim) : Except Trap EngineTurn))
      (List.append_assoc e.buf [_] [_])

end

/-! ### Behind the last element -/

/-- When every element has been taken: the count of `isect`, the last offset of `cmpct` (R268, R270). -/
theorem State.turning.closes (hall : e.allPerformed = true) :
    (e.cmd = .isect → s.engineTurns o { e with closed := true, buf := e.buf ++ [e.result 2 0 8 e.m false] }) ∧
    (e.cmd = .cmpct →
      (256 ^ e.offsetSize ≤ e.m → s.engineStops o e (e.fieldTrap .sparseFieldOverflow 1 e.m)) ∧
      (e.m < 256 ^ e.offsetSize → s.engineTurns o
        { e with closed := true, buf := e.buf ++ [e.result 3 (e.i * e.offsetSize : Nat) e.offsetSize e.m false] })) ∧
    (e.cmd ≠ .isect → e.cmd ≠ .cmpct → s.engineTurns o { e with closed := true }) := by
  have hturn : e.turn = e.close.map .turned := by rw [Engine.turn, hall, if_pos rfl]
  refine ⟨fun hc => h.turns ?_, fun hc => ⟨fun hm => h.stops ?_, fun hm => h.turns ?_⟩, fun h1 h2 => h.turns ?_⟩
  · rw [hturn, Engine.close_isect hc]
    rfl
  · rw [hturn, Engine.close_cmpct_overflows hc hm]
    rfl
  · rw [hturn, Engine.close_cmpct_fits hc hm]
    rfl
  · rw [hturn, Engine.close_other h1 h2]
    rfl

end

/-! ### Reads ahead of the cursor -/

/-- An entry ahead of the cursor is read while its window has room, and only the walks of a read that faults stay (R272). -/
theorem State.runs.stages {s : State} {o : Op} {e : Engine} (h : s.runs o e) (hpart : e.part = none) (hopen : e.closed = false)
    (second : Bool) :
    let act := Sys2Proof.Machine.exec (.engineElement o.id (.stage second)) s
    let next := e.unread second
    (e.total second ≤ next ∨ 64 ≤ (e.win second).length → act = .next s) ∧
    ((e.win second).length < 64 → next < e.total second →
      (∀ u e1, s.readInput o e (some second) next = .ok (some (u, e1)) → act = .next (u.setEngine o.id e1)) ∧
      (s.readInput o e (some second) next = .ok none → act = .next s) ∧
      (∀ t, s.readInput o e (some second) next = .error t → ∃ u, s.onlyLoads u ∧ act = .next (u.setEngine o.id e))) := by
  intro act next
  have hact : act = s.engineAnswer o.id (.ok (s.stageAhead o e second)) := h.exec_stage second
  refine ⟨fun hfull => ?_, fun hroom hmore => ?_⟩
  · have hnone : s.stageAhead o e second = none := if_neg (by
      simp only [hpart, hopen, Bool.and_eq_true, decide_eq_true_eq]
      rintro ⟨⟨-, hroom⟩, hmore⟩
      exact hfull.elim (fun hle => absurd hmore (Nat.not_lt.mpr hle)) (fun hle => absurd hroom (Nat.not_lt.mpr hle)))
    rw [hact, hnone]
    rfl
  · have hstage : s.stageAhead o e second = match s.readInput o e (some second) next with
        | .ok r => r
        | .error _ => some (s.noteInput o e (some second) next, e) :=
      if_pos (by simp only [hpart, hopen, hroom, hmore, next, Option.isNone_none, Bool.not_false, decide_true, Bool.and_true])
    refine ⟨fun u e1 hr => ?_, fun hr => ?_, fun t hr => ⟨_, State.onlyLoads_of_walks (s.noteInput_onlyWalks o e (some second) next), ?_⟩⟩
    all_goals
      rw [hact, hstage, hr]
      rfl

end Sys2Proof.Machine
end

section
/-! The bytes and the poison that a stream-engine command finds in scratch, and those that its writes leave (R102, R104). -/

namespace Sys2Proof.Machine

/-! ### The units of a command's view -/

theorem unitsOf_unit {u : Nat} (hu : u % 8 = 0) : unitsOf u 8 = [u] := by
  have hlast : (u + 7) / 8 - u / 8 = 0 := by omega
  have hunit : u / 8 * 8 = u := by omega
  simp [unitsOf, unitOf, hlast, hunit, upFrom]

theorem unitsOf_aligned {a n u : Nat} (h : u ∈ unitsOf a n) : u % 8 = 0 := by
  unfold unitsOf at h
  split at h
  · exact absurd h List.not_mem_nil
  · obtain ⟨k, -, rfl⟩ := List.mem_map.mp h
    unfold unitOf
    omega

theorem mem_putNat_iff {l : List Nat} {k x : Nat} : x ∈ putNat l k ↔ x ∈ l ∨ x = k := by
  refine ⟨mem_putNat, fun h => ?_⟩
  induction l with
  | nil => exact h.elim (fun hx => absurd hx List.not_mem_nil) (fun hx => hx ▸ List.mem_singleton_self k)
  | cons j t ih =>
    unfold putNat
    split
    · exact List.mem_cons.mpr h.symm
    · rw [List.mem_cons] at h
      split
      · rename_i hkj
        exact List.mem_cons.mpr (h.elim id (fun hk => .inl (hk.trans hkj)))
      · exact List.mem_cons.mpr (h.elim (fun hx => hx.elim .inl (fun ht => .inr (ih (.inl ht)))) (fun hk => .inr (ih (.inr hk))))

/-- A memory in canonical form with the bytes and the poison of another. -/
def Memory.alike (m m' : Memory) : Prop := m'.wf ∧ (∀ x, m'.byte x = m.byte x) ∧ ∀ u, u ∈ m'.poison ↔ u ∈ m.poison

theorem Memory.poison_write (m : Memory) (a n v : Nat) : (m.write a n v).poison = m.poison := by
  induction n generalizing m a v with
  | zero => rfl
  | succ n ih => exact ih ..

theorem Memory.poison_markWritten_unit (m : Memory) {u : Nat} (hu : u % 8 = 0) (psn : Bool) (w : Nat) :
    w ∈ (m.markWritten u 8 psn).poison ↔ if psn then w ∈ m.poison ∨ w = u else w ∈ m.poison ∧ w ≠ u := by
  have hunit : unitOf u = u := by unfold unitOf; omega
  rw [Memory.markWritten, unitsOf_unit hu, List.foldl_cons, List.foldl_nil]
  cases psn with
  | true =>
    rw [if_pos rfl, if_pos rfl]
    show w ∈ putNat m.poison (unitOf u) ↔ _
    rw [hunit, mem_putNat_iff]
  | false =>
    rw [if_neg Bool.false_ne_true, if_neg Bool.false_ne_true, if_pos ⟨le_rfl, le_rfl⟩]
    show w ∈ dropNat m.poison u ↔ _
    simp [dropNat]

theorem Memory.poisoned_unit (m : Memory) {u : Nat} (hu : u % 8 = 0) : m.poisoned u 8 = true ↔ u ∈ m.poison := by
  simp [Memory.poisoned, unitsOf_unit hu]

/-- A unit put back as it was found changes neither bytes nor poison. -/
theorem Memory.alike_putUnit {m m' : Memory} (h : m.alike m') {u : Nat} (hu : u % 8 = 0) : m.alike (m'.putUnit (m.copyUnit u)) := by
  obtain ⟨hwf, hbytes, hpoison⟩ := h
  refine ⟨Memory.wf_putUnit _ hwf, fun x => ?_, fun w => ?_⟩
  · by_cases hx : u ≤ x ∧ x < u + 8
    · obtain ⟨k, rfl⟩ := Nat.exists_eq_add_of_le hx.1
      exact (Memory.byte_store_at _ _ (by omega) hwf).trans (Memory.byte_of_read (by omega))
    · rw [Memory.putUnit, Memory.byte_store_other _ _ (by dsimp only [Memory.copyUnit]; omega) hwf]
      exact hbytes x
  · have hwrite : (m'.write u 8 (m.read u 8)).poison = m'.poison := Memory.poison_write ..
    have hunit := m.poisoned_unit hu
    show w ∈ ((m'.write u 8 (m.read u 8)).markWritten u 8 (m.poisoned u 8)).poison ↔ _
    rw [Memory.poison_markWritten_unit _ hu, hwrite, hpoison w]
    split
    · exact ⟨fun hw => hw.elim id (fun hw => hw ▸ hunit.mp ‹_›), .inl⟩
    · exact ⟨And.left, fun hw => ⟨hw, fun hwu => ‹¬_› (hunit.mpr (hwu ▸ hw))⟩⟩

theorem Memory.alike_read {m m' : Memory} (h : m.alike m') (a n : Nat) : m'.read a n = m.read a n := by
  have hof := fun (x : Memory) hx => Memory.read_of_bytes (m := x) a n (m.read a n) hx
  rw [hof m' fun j hj => (h.2.1 _).trans (Memory.byte_of_read hj).symm, ← hof m fun j hj => (Memory.byte_of_read hj).symm]

theorem Memory.alike_poisoned {m m' : Memory} (h : m.alike m') (a n : Nat) : m'.poisoned a n = m.poisoned a n := by
  unfold Memory.poisoned
  refine congrArg (List.any (unitsOf a n)) (funext fun u => ?_)
  rw [Bool.eq_iff_iff, List.contains_iff_mem, List.contains_iff_mem]
  exact h.2.2 u

/-- A command that nothing has raced with yet finds scratch as it stands (R102). -/
theorem Race.view_look_alike {r : Race} (hseen : r.seen = []) {m : Memory} (h : m.wf) (a n : Nat) :
    m.alike ((r.look m a n).view m) := by
  have hlook : (r.look m a n).seen = (unitsOf a n).map m.copyUnit := by simp [Race.look, Race.has, hseen]
  rw [Race.view, hlook, List.foldl_map]
  exact List.foldlRecOn _ _ ⟨h, fun _ => rfl, fun _ => Iff.rfl⟩ (fun m' hm' u hu => Memory.alike_putUnit hm' (unitsOf_aligned hu))

/-! ### A write to scratch -/

/-- A write in which nothing is kept is a store. -/
theorem Race.write_of_kept_zero {r : Race} (hkept : ∀ x ∈ r.kept, x.2 = 0) (m : Memory) (a n v : Nat) (psn : Bool) :
    r.write m a n v psn = m.store a n v psn := by
  refine if_pos (List.all_eq_true.mpr fun u _ => beq_iff_eq.mpr ?_)
  refine List.foldlRecOn (motive := fun acc => acc = 0) _ _ rfl (fun acc hacc x hx => ?_)
  rw [hacc, hkept x (List.mem_filter.mp hx).1]
  rfl

theorem Race.write_differsIn (r : Race) {m : Memory} (h : m.wf) (a n v : Nat) (psn : Bool) :
    m.differsIn (fun x => a ≤ x ∧ x < a + n) (r.write m a n v psn) := by
  unfold Race.write
  split
  · exact Memory.differsIn_store h a n v psn
  · refine Memory.differsIn_foldl _ (fun m' hm' k hk => ?_) h
    have hk := mem_upFrom_iff.mp hk
    split
    · exact Memory.differsIn_refl hm' _
    · exact Memory.differsIn_mono (by omega) (Memory.differsIn_store hm' (a + k) 1 _ psn)

/-- A byte of a write is the new one, or stays where a racing write keeps it. -/
theorem Race.byte_write (r : Race) {m : Memory} (h : m.wf) (a v : Nat) (psn : Bool) {n b : Nat} (hb : b < n) :
    (r.write m a n v psn).byte (a + b) = BitVec.ofNat 8 (v / 256 ^ b) ∨ (r.write m a n v psn).byte (a + b) = m.byte (a + b) := by
  unfold Race.write
  split
  · exact .inl (Memory.byte_store_at v psn hb h)
  · refine (List.foldlRecOn (upFrom 0 n) _ (motive := fun (m' : Memory) => m'.wf ∧
      (m'.byte (a + b) = BitVec.ofNat 8 (v / 256 ^ b) ∨ m'.byte (a + b) = m.byte (a + b))) ⟨h, .inr rfl⟩
      (fun m' hm' k _ => ?_)).2
    split
    · exact hm'
    · refine ⟨Memory.wf_store _ _ _ _ hm'.1, ?_⟩
      by_cases hk : k = b
      · rw [← hk]
        have hbyte := Memory.byte_store_at (a := a + k) (k := 0) (v / 256 ^ k) psn Nat.one_pos hm'.1
        rw [pow_zero, Nat.div_one] at hbyte
        exact .inl hbyte
      · rw [Memory.byte_store_other _ psn (by omega) hm'.1]
        exact hm'.2

/-! ### The commands and MU instructions that a write races with (R102) -/

section
variable {s : State} {site ctx : Nat} {byEngine : Bool} (hnone : s.racesOf site ctx byEngine = [])
include hnone

/-- A write meets nothing where no race is under way. -/
theorem State.meetRaces_of_none (bs : List (Nat × Byte)) (psn : Bool) : s.meetRaces site ctx byEngine bs psn = s := by
  obtain ⟨hops, htokens⟩ := List.append_eq_nil_iff.mp hnone
  rw [List.map_eq_nil_iff, List.filter_eq_nil_iff] at hops htokens
  have same : ∀ {α : Type} {p : α → Bool} {f : α → α} (l : List α), (∀ x ∈ l, ¬p x) → l.map (fun x => if p x then f x else x) = l :=
    fun l hl => List.map_congr_left (fun x hx => if_neg (hl x hx)) |>.trans l.map_id
  unfold State.meetRaces
  dsimp only
  rw [same s.ops hops, same s.tokens htokens]

theorem State.shielded_of_none (a : Nat) : s.shielded site ctx byEngine a = false := by rw [State.shielded, hnone]; rfl

end

theorem unitMask_of_none {p : Nat → Bool} (hp : ∀ a, p a = false) (u : Nat) : unitMask u p = 0 := by
  simp [unitMask, hp, upFrom]

/-- A write of a command to scratch that meets no race and keeps nothing is a store. -/
theorem State.scratchWrite_of_none {s : State} {o : Op} {e : Engine} (hnone : s.racesOf o.site o.key.ctx true = [])
    (hkept : e.race.kept = []) (a n v : Nat) (psn : Bool) : s.scratchWrite o e a n v psn =
      ({ s with scratch := s.scratch.store a n v psn }, { e with race := e.race.written a n v psn }) := by
  unfold State.scratchWrite
  dsimp only
  rw [State.meetRaces_of_none hnone, Race.write_of_kept_zero]
  intro x hx
  rw [hkept, List.nil_append] at hx
  obtain ⟨u, -, rfl⟩ := List.mem_map.mp hx
  exact unitMask_of_none (State.shielded_of_none hnone) u

end Sys2Proof.Machine
end

section
/-! The places that a stream-engine command reads and writes: scratch, and whole elements of global memory (R261, R271, R272). -/

namespace Sys2Proof.Machine

/-! ### The place of an element -/

theorem scratchSpan_within {bound n : Nat} {p : Int} (h0 : 0 ≤ p) (hn : p.toNat + n ≤ bound) : scratchSpan bound p n = .ok p.toNat :=
  if_pos ⟨h0, by omega⟩

theorem scratchSpan_beyond {bound n : Nat} {p : Int} (h0 : 0 ≤ p) (hn : bound < p.toNat + n) :
    ∃ a, scratchSpan bound p n = .error { cause := .scratchRange, faddr := a } :=
  ⟨_, if_neg (by omega)⟩

/-- The scratch fault of an element has the element's place in its fields (R365). -/
theorem Engine.elementTrap_scratchRange (e : Engine) (k : Nat) (disp : Int) (elem value a : Nat) :
    e.elementTrap k disp elem value { cause := .scratchRange, faddr := a } = e.faultAt k disp elem value .scratchRange := rfl

/-- The page fault of an element has the element's place in its fields (R365). -/
theorem Engine.elementTrap_trap (e : Engine) (k : Nat) (disp : Int) (elem value va : Nat) (x : NoPage) (a : Access) :
    e.elementTrap k disp elem value (x.trap a va) =
      { e.faultAt k disp elem value (.walk x.fault a) with level := x.level } := rfl

/-! ### An element within a page -/

theorem pageRuns_within {va n : Nat} (h : va % 4096 + n ≤ 4096) : pageRuns va n = [(va, n)] := if_pos (by omega)

section
variable {s : State} {o : Op} {a : Access} {va n : Nat} (hpage : va % 4096 + n ≤ 4096)
include hpage

theorem State.elementRuns_ok {pa : Nat} (hloc : s.locate o.site o.key.ctx a va n = .ok pa) :
    s.elementRuns o a va n = .ok [(pa, n)] := by
  simp [State.elementRuns, pageRuns_within hpage, hloc]

theorem State.elementRuns_error {x : NoPage} (hloc : s.locate o.site o.key.ctx a va n = .error x) :
    s.elementRuns o a va n = .error (x.trap a va) := by
  simp [State.elementRuns, pageRuns_within hpage, hloc]

end

/-- A naturally aligned element of a power of two of at most 8 bytes is in one page, and one access (R89). -/
structure NaturalAt (va n : Nat) : Prop where
  pos : 0 < n
  le : n ≤ 8
  page : va % 4096 + n ≤ 4096
  piece : pieceSize va n = n

theorem naturalAt_of_dvd {va n : Nat} (hn : n = 1 ∨ n = 2 ∨ n = 4 ∨ n = 8) (hva : va % n = 0) : NaturalAt va n := by
  refine ⟨by omega, by omega, ?_, if_pos ⟨by omega, hva⟩⟩
  rcases hn with rfl | rfl | rfl | rfl <;> omega

theorem eq_pow_of_dvd_page {n : Nat} (h0 : 0 < n) (hn : n ≤ 8) (hpage : 4096 % n = 0) : n = 1 ∨ n = 2 ∨ n = 4 ∨ n = 8 := by
  interval_cases n <;> simp_all

theorem tornBytes_one (tick : Nat) : tornBytes tick 1 0 = [0] := by simp [tornBytes, upFrom]

theorem runByte_zero (pa n m : Nat) : runByte [(pa, n)] (0 * m) = pa := by simp [runByte]

/-! ### Reads -/

/-- A command with an entry of an input read. -/
def Engine.gotEntry (e : Engine) (input : Option Bool) (idx v : Nat) (p : Bool) : Engine :=
  { e with
    part := none
    rest := if input = none then some (v, p) else e.rest
    winA := if input = some false then e.winA ++ [(idx, v, p)] else e.winA
    winB := if input = some true then e.winB ++ [(idx, v, p)] else e.winB }

theorem Engine.take_eq (e : Engine) (input : Option Bool) (idx v : Nat) (p : Bool) :
    e.take input idx (v, p) = e.gotEntry input idx v p := by
  match input with
  | none => rfl
  | some false => rfl
  | some true => rfl

section
variable {s : State} {o : Op} {e : Engine} {input : Option Bool} {idx k n : Nat} {disp : Int} (hsrc : e.source input idx = some (k, disp, n))
include hsrc

/-! #### Scratch -/

section
variable (hin : e.inScratch k = true) (h0 : 0 ≤ e.place k disp)
include hin h0

/-- A read of scratch brings the bytes and the poison of the command's view (R102). -/
theorem State.readInput_scratch (hn : (e.place k disp).toNat + n ≤ s.scratchBound o.key.ctx) :
    let key := scratchKey o.site o.key.ctx (e.place k disp).toNat
    let r := e.race.look s.scratch key n
    let m := r.view s.scratch
    s.readInput o e input idx = .ok (some (s, { e.gotEntry input idx (m.read key n) (m.poisoned key n) with race := r })) := by
  intro key r m
  simp only [State.readInput, hsrc, hin, if_true, scratchSpan_within h0 hn, State.scratchRead, Engine.take_eq]
  rfl

theorem State.readInput_scratchRange (hn : s.scratchBound o.key.ctx < (e.place k disp).toNat + n) :
    s.readInput o e input idx = .error (e.faultAt k disp e.elem e.atValue .scratchRange) := by
  obtain ⟨a, ha⟩ := scratchSpan_beyond h0 hn
  simp only [State.readInput, hsrc, hin, if_true, ha, Engine.elementTrap_scratchRange]

end

/-! #### Global memory -/

section
variable (hin : e.inScratch k = false)
include hin

/-- A read whose page is not found stops at its element (R365, R384). -/
theorem State.readInput_noPage {x : NoPage} (hpage : (e.place k disp).toNat % 4096 + n ≤ 4096)
    (hloc : s.locate o.site o.key.ctx .engineRead (e.place k disp).toNat n = .error x) : s.readInput o e input idx =
      .error { e.faultAt k disp e.elem e.atValue (.walk x.fault .engineRead) with level := x.level } := by
  simp only [State.readInput, hsrc, hin, Bool.false_eq_true, if_false, State.elementRuns_error hpage hloc, Engine.elementTrap_trap]

section
variable {pa : Nat} (hinput : input ≠ none) (hnat : NaturalAt (e.place k disp).toNat n)
  (hloc : s.locate o.site o.key.ctx .engineRead (e.place k disp).toNat n = .ok pa)
include hinput hnat hloc

/-- A read of a whole element is one access (R89). -/
theorem State.readInput_global : s.readInput o e input idx =
    .ok (if s.engineMay o pa n then some (s.noteRuns o .engineRead (e.place k disp).toNat n,
      e.gotEntry input idx ((s.deviceRead pa n).1 % 256 ^ n) (s.deviceRead pa n).2) else none) := by
  have hunit : (if input.isNone then e.size else n) = n := if_neg (by simpa using hinput)
  simp only [State.readInput, hsrc, hin, Bool.false_eq_true, if_false, State.elementRuns_ok hnat.page hloc, State.readPieces, hunit,
    hnat.piece, Nat.div_self hnat.pos, tornBytes_one, runByte_zero, List.all_cons, List.all_nil, Bool.and_true, List.foldl_cons,
    List.foldl_nil]
  cases s.engineMay o pa n with
  | false => rfl
  | true => simp [allBytes, Engine.take_eq]

/-- A whole element read waits for its place in the order, and brings its bytes and poison (R272). -/
theorem State.readInput_global_spec :
    (s.engineMay o pa n = false → s.readInput o e input idx = .ok none) ∧
    (s.engineMay o pa n = true → pa < 2 ^ 48 → ∃ u, s.onlyWalks u ∧ s.readInput o e input idx =
      .ok (some (u, e.gotEntry input idx ((s.physRead pa n).1 % 256 ^ n) (s.physRead pa n).2))) := by
  have hread := State.readInput_global hsrc hin hinput hnat hloc
  refine ⟨fun hmay => ?_, fun hmay hpa => ⟨_, s.noteRuns_onlyWalks o .engineRead (e.place k disp).toNat n, ?_⟩⟩
  · rw [hread, hmay]
    rfl
  · have hdevice : s.deviceRead pa n = s.physRead pa n := if_neg (fun h => absurd h.1 (Nat.not_le.mpr hpa))
    rw [hread, hmay, hdevice]
    rfl

end

end

end

/-! ### Writes -/

section
variable {s : State} {o : Op} {e : Engine} {x : EngineOut} {rest : List EngineOut} (hbuf : e.buf = x :: rest)
include hbuf

/-- A write whose place is out of reach holds the command with its fault (R271, R273). -/
theorem State.runs.faults (h : s.runs o e) {t : Trap} (ht : s.writeOldest o e = .error t) :
    Sys2Proof.Machine.exec (.engineElement o.id .write) s = .next s ∧
      ∃ u, s.onlyLoads u ∧ Sys2Proof.Machine.exec (.engineFaultStop o.id) s = .next (u.stopEngine o t) := by
  refine ⟨h.exec_write.trans (congrArg _ ht), h.exec_faultStop ?_⟩
  simp only [State.engineFault, hbuf, List.isEmpty_cons, Bool.false_eq_true, if_false, ht]

/-! #### Scratch -/

section
variable (hin : e.inScratch x.loc = true) (h0 : 0 ≤ e.place x.loc x.disp)
include hin h0

theorem State.writeOldest_scratchRange (hn : s.scratchBound o.key.ctx < (e.place x.loc x.disp).toNat + x.n) :
    s.writeOldest o e = .error (e.faultAt x.loc x.disp x.elem x.value .scratchRange) := by
  obtain ⟨a, ha⟩ := scratchSpan_beyond h0 hn
  simp only [State.writeOldest, hbuf, hin, if_true, ha, Engine.elementTrap_scratchRange]

section
variable (hn : (e.place x.loc x.disp).toNat + x.n ≤ s.scratchBound o.key.ctx)
include hn

theorem State.writeOldest_scratch :
    let w := s.scratchWrite o e (scratchKey o.site o.key.ctx (e.place x.loc x.disp).toNat) x.n x.v x.psn
    s.writeOldest o e = .ok (some (w.1, { w.2 with buf := rest })) := by
  intro w
  simp only [State.writeOldest, hbuf, hin, if_true, scratchSpan_within h0 hn, w]

/-- A result goes to its bytes of scratch; where races are under way one of them may keep a byte (R102, R261). -/
theorem State.runs.writes_scratch (h : s.runs o e) (hwf : s.scratch.wf) :
    let key := scratchKey o.site o.key.ctx (e.place x.loc x.disp).toNat
    let races := s.racesOf o.site o.key.ctx true
    (races = [] → e.race.kept = [] → ∃ m, Sys2Proof.Machine.exec (.engineElement o.id .write) s =
        .next (State.setEngine { s with scratch := m } o.id { e with buf := rest, race := e.race.written key x.n x.v x.psn }) ∧
      (∀ b, b < x.n → m.byte (key + b) = BitVec.ofNat 8 (x.v / 256 ^ b)) ∧
      (∀ a, a < key ∨ key + x.n ≤ a → m.byte a = s.scratch.byte a)) ∧
    ∃ u, Sys2Proof.Machine.exec (.engineElement o.id .write) s = .next u ∧
      { u with ops := s.ops, tokens := s.tokens, scratch := s.scratch } = s ∧
      (∀ b, b < x.n → u.scratch.byte (key + b) = BitVec.ofNat 8 (x.v / 256 ^ b) ∨
        (races ≠ [] ∨ e.race.kept ≠ []) ∧ u.scratch.byte (key + b) = s.scratch.byte (key + b)) ∧
      (∀ a, a < key ∨ key + x.n ≤ a → u.scratch.byte a = s.scratch.byte a) := by
  intro key races
  have hwrite := State.writeOldest_scratch hbuf hin h0 hn
  have hexec := h.exec_write.trans (congrArg (s.engineAnswer o.id) hwrite)
  have hstore : races = [] → e.race.kept = [] → s.scratchWrite o e key x.n x.v x.psn =
      ({ s with scratch := s.scratch.store key x.n x.v x.psn }, { e with race := e.race.written key x.n x.v x.psn }) :=
    fun hraces hkept => State.scratchWrite_of_none hraces hkept ..
  refine ⟨fun hraces hkept => ⟨s.scratch.store key x.n x.v x.psn, ?_, fun b hb => Memory.byte_store_at _ _ hb hwf,
    fun a ha => Memory.byte_store_other _ _ ha hwf⟩, _, hexec, rfl, fun b hb => ?_, fun a ha => ?_⟩
  · rw [hexec]
    show s.engineAnswer o.id (.ok (some ((s.scratchWrite o e key x.n x.v x.psn).1,
      { (s.scratchWrite o e key x.n x.v x.psn).2 with buf := rest }))) = _
    rw [hstore hraces hkept]
    rfl
  · show (s.scratchWrite o e key x.n x.v x.psn).1.scratch.byte (key + b) = _ ∨ _
    by_cases hraces : races = [] ∧ e.race.kept = []
    · rw [hstore hraces.1 hraces.2]
      exact .inl (Memory.byte_store_at _ _ hb hwf)
    · exact (Race.byte_write _ hwf key x.v x.psn hb).imp id (fun hold => ⟨not_and_or.mp hraces, hold⟩)
  · exact (Race.write_differsIn _ hwf key x.n x.v x.psn).2 a (by omega)

end

end

/-! #### Global memory -/

section
variable (hin : e.inScratch x.loc = false) (hput : x.put = 0)
include hin hput

theorem State.writeOldest_noPage {y : NoPage} (hpage : (e.place x.loc x.disp).toNat % 4096 + x.n ≤ 4096)
    (hloc : s.locate o.site o.key.ctx .engineWrite (e.place x.loc x.disp).toNat x.n = .error y) : s.writeOldest o e =
      .error { e.faultAt x.loc x.disp x.elem x.value (.walk y.fault .engineWrite) with level := y.level } := by
  simp only [State.writeOldest, hbuf, hin, Bool.false_eq_true, if_false, hput, if_true, State.elementRuns_error hpage hloc,
    Engine.elementTrap_trap]

variable {pa : Nat} (hcmd : e.cmd ≠ .smerge) (hnat : NaturalAt (e.place x.loc x.disp).toNat x.n)
  (hloc : s.locate o.site o.key.ctx .engineWrite (e.place x.loc x.disp).toNat x.n = .ok pa)
include hcmd hnat hloc

/-- A write of a whole element is one access (R89). -/
theorem State.writeOldest_global : s.writeOldest o e =
    .ok (if s.engineMay o pa x.n then
      some (((s.noteRuns o .engineWrite (e.place x.loc x.disp).toNat x.n).runWrite o pa x.n (x.v % 256 ^ x.n) x.psn).runMark pa x.n
        x.psn, { e with buf := rest }) else none) := by
  have hunit : (if (e.cmd == EngineCmd.smerge) = true then e.size else x.n) = x.n := if_neg (by simpa using hcmd)
  simp only [State.writeOldest, hbuf, hin, Bool.false_eq_true, if_false, hput, if_true, State.elementRuns_ok hnat.page hloc, hunit,
    hnat.piece, Nat.div_self hnat.pos, tornBytes_one, runByte_zero, List.all_cons, List.all_nil, Bool.and_true, List.foldl_cons,
    List.foldl_nil]
  cases s.engineMay o pa x.n with
  | false => rfl
  | true => simp [allBytes]

end

end

theorem ofNat_mod_pow_div {n b : Nat} (hb : b < n) (v : Nat) :
    BitVec.ofNat 8 (v % 256 ^ n / 256 ^ b) = BitVec.ofNat 8 (v / 256 ^ b) := by
  obtain ⟨c, rfl⟩ := Nat.exists_eq_add_of_lt hb
  apply BitVec.eq_of_toNat_eq
  rw [BitVec.toNat_ofNat, BitVec.toNat_ofNat, show b + c + 1 = b + (c + 1) by omega, Nat.pow_add, Nat.mod_mul_right_div_self, pow_succ',
    Nat.mod_mod_of_dvd]
  exact Dvd.intro _ rfl

/-- A run of package memory outside Ringmaster's box. -/
theorem State.runWrite_mem {s : State} {o : Op} {pa n v : Nat} {psn : Bool} (hbox : inBox pa = false) (hpa : pa < 2 ^ 48) :
    (s.runWrite o pa n v psn).runMark pa n psn = { s with mem := (s.mem.store pa n v psn).markWritten pa n psn } := by
  have hwrite : s.runWrite o pa n v psn = { s with mem := s.mem.store pa n v psn } := by
    unfold State.runWrite
    rw [if_neg (fun h => absurd h.1 (Nat.not_le.mpr hpa)), State.physStore, hbox, if_neg Bool.false_ne_true, if_pos hpa]
  rw [hwrite, State.runMark, hbox, if_neg Bool.false_ne_true, if_pos hpa]

/-- A whole result goes to its bytes of package memory and to no other (R261). -/
theorem State.runs.writes_global {s : State} {o : Op} {e : Engine} (h : s.runs o e) {x : EngineOut} {rest : List EngineOut}
    (hbuf : e.buf = x :: rest) (hin : e.inScratch x.loc = false) (hput : x.put = 0) {pa : Nat} (hcmd : e.cmd ≠ .smerge)
    (hnat : NaturalAt (e.place x.loc x.disp).toNat x.n)
    (hloc : s.locate o.site o.key.ctx .engineWrite (e.place x.loc x.disp).toNat x.n = .ok pa) :
    (s.engineMay o pa x.n = false → Sys2Proof.Machine.exec (.engineElement o.id .write) s = .next s) ∧
    (s.engineMay o pa x.n = true → pa + x.n ≤ rmBoxBase ∨ rmBoxBase + 0x10000 ≤ pa → pa + x.n ≤ 2 ^ 48 → s.mem.wf →
      ∃ u : State, Sys2Proof.Machine.exec (.engineElement o.id .write) s = .next (u.setEngine o.id { e with buf := rest }) ∧
        (∀ b, b < x.n → u.mem.byte (pa + b) = BitVec.ofNat 8 (x.v / 256 ^ b)) ∧
        (∀ a, a < pa ∨ pa + x.n ≤ a → u.mem.byte a = s.mem.byte a) ∧
        { u with mem := s.mem, tlb := s.tlb, ctl := { u.ctl with walks := s.ctl.walks } } = s) := by
  have hwrite := State.writeOldest_global hbuf hin hput hcmd hnat hloc
  refine ⟨fun hmay => ?_, fun hmay hbox hpa hwf => ?_⟩
  · rw [h.exec_write, hwrite, hmay]
    rfl
  · have hpos := hnat.pos
    have hout : inBox pa = false := decide_eq_false (by omega)
    have hnote := s.noteRuns_onlyWalks o .engineWrite (e.place x.loc x.disp).toNat x.n
    generalize s.noteRuns o .engineWrite (e.place x.loc x.disp).toNat x.n = w at hwrite hnote
    unfold State.onlyWalks at hnote
    have hmem : w.mem = s.mem := by rw [← hnote]
    rw [hmay, if_pos rfl, State.runWrite_mem hout (by omega), hmem] at hwrite
    refine ⟨_, h.exec_write.trans (congrArg _ hwrite), fun b hb => ?_, fun a ha => ?_, ?_⟩
    · rw [Memory.byte_markWritten, Memory.byte_store_at _ _ hb hwf, ofNat_mod_pow_div hb]
    · rw [Memory.byte_markWritten, Memory.byte_store_other _ _ ha hwf]
    · rw [← hmem]
      exact hnote

end Sys2Proof.Machine
end

section
/-! The steps of a stream-engine command together (R261, R266 to R273). -/

namespace Sys2Proof.Machine

/-- Settles O55: each clause is the lemma of its command, of a read, of a write or of completion. -/
theorem engineSteps : Obligations.EngineSteps := by
  intro s o e hop hkind now others act running turned stops reads out at_
  have hruns : running → s.runs o e := fun ⟨hstarted, hunfinished, hfree, hup⟩ => ⟨hop, hkind, hstarted, hunfinished, hfree, hup⟩
  refine ⟨fun hs hd hfirst hroom => exec_engineCommandStart hop hkind hs hd rfl hfirst hroom, fun hr hwhole hopen hroom hall => ?_,
    fun hr hwhole hopen hroom hall => ?_, fun second hr hwhole hopen => (hruns hr).stages hwhole hopen second,
    fun input idx k disp n hsrc => ?_, fun hr x rest hbuf => ?_, fun hr hclosed hbuf hpart => ?_, fun hr hmore => ?_⟩
  · have h : s.turning o e := ⟨hruns hr, hwhole, hopen, hroom⟩
    exact ⟨h.cpy hall, h.indexed hall, h.isect hall, fun hc => h.smerge hc hall, fun hc => h.cmpct_row hc hall,
      fun hc => h.cmpct_element hc hall⟩
  · have h : s.turning o e := ⟨hruns hr, hwhole, hopen, hroom⟩
    exact h.closes hall
  · intro off bound got key
    refine ⟨fun hin h0 hn => ⟨State.readInput_scratch hsrc hin h0 hn, fun hseen hwf => ?_⟩,
      fun hin h0 _ hn => State.readInput_scratchRange hsrc hin h0 hn, fun pa hin hinput hpos hn hoff hdvd hloc => ?_,
      fun x hin hpage hloc => State.readInput_noPage hsrc hin hpage hloc⟩
    · have halike := Race.view_look_alike hseen hwf key n
      exact ⟨Memory.alike_read halike key n, Memory.alike_poisoned halike key n⟩
    · exact State.readInput_global_spec hsrc hin hinput (naturalAt_of_dvd (eq_pow_of_dvd_page hpos hn hdvd) hoff) hloc
  · intro off bound key fault races
    have h := hruns hr
    exact ⟨fun hin h0 hn hwf => State.runs.writes_scratch hbuf hin h0 hn h hwf,
      fun hin h0 _ hn => h.faults hbuf (State.writeOldest_scratchRange hbuf hin h0 hn),
      fun pa hin hcmd hput hn hoff hloc => h.writes_global hbuf hin hput hcmd (naturalAt_of_dvd hn hoff) hloc,
      fun y hin hput hpage hloc => h.faults hbuf (State.writeOldest_noPage hbuf hin hput hpage hloc)⟩
  · rw [(hruns hr).exec_complete, hclosed, hbuf, hpart]
    rfl
  · rw [(hruns hr).exec_complete, if_neg]
    rintro hdone
    simp only [Bool.and_eq_true, List.isEmpty_iff] at hdone
    obtain ⟨⟨hclosed, hempty⟩, -⟩ := hdone
    exact hmore.elim (fun hopen => by rw [hopen] at hclosed; exact Bool.false_ne_true hclosed) (fun hbuf => hbuf hempty)

end Sys2Proof.Machine
end

section
/-! The round trip of the encoder and the decoder: the law of each constructor under `Laws.RoundTrip` holds of every
instruction (R110 to R127). -/

namespace Sys2Proof.Laws.Encoding

/-- The words of every well-formed instruction read back as it: each constructor has its law. -/
theorem readsBack_encode (i : Instr) : Laws.RoundTrip.Statement i := by
  open Laws.RoundTrip in
  exact Instr.casesOn i
    add sub mul mulhI64 mulhN64 divI64 divN64 remI64 remN64 and or xor andn shl shr sra rol ror clz ctz popc minI64
    maxI64 minN64 maxN64 sel clmul clmulh bgat bsct madd msub sltI64 sltN64 seq sne extdI8 extdI16 extdI32 extdN8
    extdN16 extdN32 bswap addImm andImm orImm xorImm shlImm shrImm sraImm rorImm sltI64Imm sltN64Imm seqImm sneImm
    mulImm minI64Imm maxI64Imm movi movh rds fadd fsub fmul fdiv fsqrt fma fnma fmin fmax fceq fclt fcle fcvt fcvti
    icvtf fneg fabs fsgn fcls beq bne bltI64 bgeI64 bltN64 bgeN64 bbs bbc beqImm bneImm bltI64Imm bgeI64Imm bltN64Imm
    bgeN64Imm bbsImm bbcImm j jt fld fst fldv fstv fldFsw sld sst sldv sstv sldx sstx samoAdd samoAnd samoOr samoXor
    samoMin samoMax samoSwap samoCas vadd vsub vmul vmulh vmin vmax vadds vsubs vaddScalar vsubScalar vmulScalar
    vmulhScalar vminScalar vmaxScalar vaddsScalar vsubsScalar vand vor vxor vandn vshl vshr vsra vrol vabs vneg vclz
    vpopc vmadd vsel vclmul vclmulh vfadd vfsub vfmul vfdiv vfma vfnma vfmin vfmax vfaddScalar vfsubScalar vfmulScalar
    vfdivScalar vfmaScalar vfnmaScalar vfminScalar vfmaxScalar vfsqrt vfabs vfneg vfsgn vfrnd vfcls vcvt vcvtn vcvtw
    vqmx vqq4 vdqmx vdqq4 vceq vcne vclt vcle vcgt vcge vceqScalar vcneScalar vcltScalar vcleScalar vcgtScalar
    vcgeScalar vperm vbcst vslup vsldn vcompr vexpn vzip vunzip vredAdd vredMin vredMax vredAnd vredOr vredXor
    vscanAdd vscanMin vscanMax vscanXor mand mor mxor mandn mnot mpopc mgets msets vmov vins vext vmovLane mzero mma
    mmaSp mld mst mrd mrdx xop xld xunl xq send sendv sig sw rearm tagwin mkref ld ldLc st vld vldStr vldIdx vst
    vstStr pf pfLc gamoAdd gamoAnd gamoOr gamoXor gamoMinSigned gamoMaxSigned gamoMinUnsigned gamoMaxUnsigned gamoSwap
    gamoCas gamoFadd fence cpy gth sct isect smerge cmpct rply rsup kill killL frr tlbi tlbia ctxsv ctxrs halt rdsr
    wrsr fin fret commit tokenRetry tokenAccept tokenApply descriptorLoad parkReexamine parkOverflowReadback
    waitingSignalServe frameFill readyChoose readyOverflowReturn faultTokenDelivery faultActionDelivery
    completionSignal loadPerform storePerform atomicPerform prefetchPerform pageWalk localCacheFill icacheFill
    muPerform muCompletion carouselEntry carouselResult xldProcess xldWaitRetry graphLoadComplete xunlComplete
    configErrorReload engineCommandStart engineFaultStop engineCommandComplete tagwinRequest tagwinInstall
    launchInject launchWave launchWatchdog launchKillMark timerExpiry timeWordStore registerWrite queueEnable
    queueDisable queueKick f1bindWrite apertureRead apertureWrite packetFetch packetReread packetStart launchPacket
    loadGraphPacket memoryCopy memoryFill fencePacket fencePoll freezePacket resumePacket completionRecord
    quantumExpiry doorbell pools setPriority setQuantum setWatermark attest flashWrite orphans plimWrite drainMarker
    contextImageSave contextRestore restoreResume haltComplete tlbInvalidateComplete pageEviction hardwareError
    droopDetect droopRecovery powerLimitStep degradedExit packageReset vlpTokenReceive vlpAcknowledge
    torusProtocolError illegalInstruction engineElement pcieCompletionTimeout

theorem encode_ne_nil {i : Instr} (hd : Machine.Instr.isDevice i = false) (hill : ∀ w0 w1, i ≠ .illegalInstruction w0 w1) :
    encode i ≠ [] := by
  intro h
  unfold Machine.Instr.isDevice at hd
  rw [h] at hd
  cases i with
  | illegalInstruction w0 w1 => exact hill w0 w1 rfl
  | _ => cases hd

/-- Words that read back are one or two, unless there are none. -/
theorem readsBack_cases {ws : List Word} {i : Instr} (h : readsBack ws i) (hne : ws ≠ []) :
    (∃ w, ws = [w] ∧ ∀ x, decodeWords w x = some i) ∨ ∃ p w, ws = [p, w] ∧ decodeWords p w = some i := by
  match ws, h, hne with
  | [w], h, _ => exact .inl ⟨w, rfl, h⟩
  | [p, w], h, _ => exact .inr ⟨p, w, rfl, h⟩

/-- Settles O10: every instruction that a word names has words, and they read back as it. -/
theorem roundTrip : Obligations.RoundTrip := fun i hwf hd hill =>
  readsBack_cases (readsBack_encode i hwf) (encode_ne_nil hd hill)

end Sys2Proof.Laws.Encoding
end

section
/-! What the decoder gives and what it refuses, major by major (R112, R114, R115, R126 to R128). -/

namespace Sys2Proof.Laws.Encoding

open Sys2Proof.Machine

/-! ### Values that a partial decoding gives -/

/-- Whatever `x` gives has the property. -/
def Yields {α : Type} (P : α → Prop) (x : Option α) : Prop := ∀ a, x = some a → P a

section
variable {α β : Type} {P Q : α → Prop}

theorem yields_none : Yields P none ↔ True := by simp [Yields]

theorem yields_some {a : α} : Yields P (some a) ↔ P a := by simp [Yields]

theorem yields_guarded {ok : Bool} {x : Option α} : Yields P (guarded ok x) ↔ (ok = true → Yields P x) := by
  cases ok <;> simp [guarded, Yields]

theorem yields_map {f : β → α} {x : Option β} : Yields P (x.map f) ↔ ∀ b, x = some b → P (f b) := by
  cases x <;> simp [Yields]

theorem yields_bind {f : β → Option α} {x : Option β} : Yields P (x.bind f) ↔ ∀ b, x = some b → Yields P (f b) := by
  cases x <;> simp [Yields]

theorem Yields.mono {x : Option α} (h : Yields P x) (hPQ : ∀ a, P a → Q a) : Yields Q x := fun a ha => hPQ a (h a ha)

end

/-! ### Which majors there are, and which fields before them are used (R114) -/

/-- The majors that R114 assigns. -/
def assignedMajors : List Nat :=
  [0x01, 0x02, 0x03, 0x04, 0x05, 0x06, 0x07, 0x08, 0x09, 0x0A, 0x0B, 0x0C, 0x0D, 0x10, 0x11, 0x12, 0x13, 0x14, 0x18, 0x19,
   0x1A, 0x1B, 0x1C, 0x1D, 0x1E, 0x1F, 0x20, 0x21, 0x22, 0x23, 0x24, 0x25, 0x26, 0x38, 0x39, 0x3A, 0x40, 0x41, 0x42, 0x43,
   0x44, 0x45, 0x48, 0x49, 0x4A, 0x4B, 0x4C, 0x4D, 0x4E, 0x50, 0x51, 0x60, 0x61]

/-- The majors that have no long form. -/
def bareMajors : List Nat :=
  [0x01, 0x02, 0x07, 0x0C, 0x0D, 0x13, 0x14, 0x23, 0x25, 0x3A, 0x40, 0x41, 0x42, 0x43, 0x44, 0x48, 0x49, 0x4A, 0x4C, 0x4D,
   0x50, 0x51, 0x60]

def x3Majors : List Nat := [0x1C, 0x1D, 0x1E, 0x1F, 0x38, 0x4E]
def satMajors : List Nat := [0x08, 0x1F, 0x38]
def zroMajors : List Nat :=
  [0x18, 0x19, 0x1A, 0x1B, 0x1C, 0x1D, 0x1E, 0x1F, 0x20, 0x21, 0x22, 0x24, 0x26, 0x39, 0x4B]
def cMajors : List Nat := [0x1A, 0x1C, 0x1D, 0x1E, 0x1F, 0x39, 0x4E]
/-- The majors that use all of XIMM: it widens their immediate. -/
def immMajors : List Nat := [0x03, 0x04, 0x05, 0x06, 0x09, 0x0A, 0x0B, 0x10, 0x11, 0x12, 0x45, 0x61]
def ximmMajors : List Nat := immMajors ++ [0x39, 0x4E]

/-- Of the fields of a long form only those are non-zero of which its major makes use. -/
def Fits (p : Pfx) (m : Nat) : Prop :=
  p.only (x3Majors.contains m) (satMajors.contains m) (zroMajors.contains m) (cMajors.contains m) (ximmMajors.contains m) = true ∧
    (m ∉ immMajors → p.ximm.extractLsb' 5 10 = 0)

section
variable {p : Pfx} {a b c d e : Bool} {m : Nat}

theorem only_iff : p.only a b c d e = true ↔
    (a = false → p.x3 = 0) ∧ (b = false → p.sat = false) ∧ (c = false → p.zro = false) ∧ (d = false → p.c = 0) ∧
      (e = false → p.ximm = 0) := by
  cases a <;> cases b <;> cases c <;> cases d <;> cases e <;> simp [Pfx.only, and_assoc]

/-- A major may use more fields than one of its instructions does. -/
theorem only_mono {a' b' c' d' e' : Bool} (h : p.only a b c d e = true) (ha : a' = false → a = false)
    (hb : b' = false → b = false) (hc : c' = false → c = false) (hd : d' = false → d = false) (he : e' = false → e = false) :
    p.only a' b' c' d' e' = true := by
  obtain ⟨hx3, hsat, hzro, hcc, hximm⟩ := only_iff.mp h
  exact only_iff.mpr ⟨hx3 ∘ ha, hsat ∘ hb, hzro ∘ hc, hcc ∘ hd, hximm ∘ he⟩

theorem fits_of_only (h : p.only a b c d false = true)
    (hle : (x3Majors.contains m = false → a = false) ∧ (satMajors.contains m = false → b = false) ∧
      (zroMajors.contains m = false → c = false) ∧ (cMajors.contains m = false → d = false)) : Fits p m := by
  obtain ⟨ha, hb, hc, hd⟩ := hle
  obtain ⟨-, -, -, -, hximm⟩ := only_iff.mp h
  exact ⟨only_mono h ha hb hc hd fun _ => rfl, fun _ => by rw [hximm rfl]; rfl⟩

theorem fits_of_imm (h : p.only false false false false true = true) (hm : m ∈ immMajors) : Fits p m :=
  ⟨only_mono h (fun _ => rfl) (fun _ => rfl) (fun _ => rfl) (fun _ => rfl) (by simp [ximmMajors, hm]),
    fun hn => absurd hm hn⟩

end

/-! ### The instructions of the majors -/

theorem isDevice_of_encode {i : Instr} (h : encode i ≠ []) : Instr.isDevice i = false := by
  cases hd : Instr.isDevice i with
  | false => rfl
  | true => exact absurd (encode_of_isDevice hd) h

theorem dec01_yields (w : Word) :
    Yields (fun i => Instr.isDevice i = false ∧ ((bits w 0 5).toNat ∉ [25, 30, 31] → bits w 5 5 = 0)) (dec01 w) := by
  unfold dec01
  split
  all_goals simp only [yields_guarded, yields_some, yields_none, Bool.and_eq_true, beq_iff_eq, and_imp]
  all_goals
    intros
    refine ⟨isDevice_of_encode (List.cons_ne_nil _ _), fun hn => ?_⟩
    simp_all

theorem dec02_yields (w : Word) : Yields (fun i => Instr.isDevice i = false ∧ bits w 5 5 = 0) (dec02 w) := by
  unfold dec02
  split
  all_goals simp only [yields_guarded, yields_some, yields_none, Bool.and_eq_true, beq_iff_eq, and_imp]
  all_goals intros; exact ⟨isDevice_of_encode (List.cons_ne_nil _ _), ‹bits w 5 5 = 0›⟩

theorem dec07_yields (w : Word) :
    Yields (fun i => Instr.isDevice i = false ∧ bits w 5 5 = 0 ∧ bits w 10 5 = 0) (dec07 w) := by
  unfold dec07
  split
  all_goals simp only [yields_guarded, yields_map, yields_none, Bool.and_eq_true, beq_iff_eq, and_imp]
  intro hb hc _ _
  exact ⟨isDevice_of_encode (List.cons_ne_nil _ _), hc, hb⟩

theorem dec0B_yields (long : Bool) (p : Pfx) (w : Word) :
    Yields (fun i => Instr.isDevice i = false ∧ bits w 20 5 = 0) (dec0B long p w) := by
  simp only [dec0B, yields_guarded, yields_some, beq_iff_eq]
  exact fun hz => ⟨isDevice_of_encode (encImm35_ne_nil _ _), hz⟩

theorem dec0C_yields (w : Word) : Yields (fun i => Instr.isDevice i = false ∧ bits w 10 10 = 0) (dec0C w) := by
  simp only [dec0C, yields_guarded, yields_some, beq_iff_eq]
  exact fun hz => ⟨isDevice_of_encode (List.cons_ne_nil _ _), hz⟩

theorem dec0D_yields (w : Word) : Yields (fun i => Instr.isDevice i = false ∧ bits w 0 25 = 0) (dec0D w) := by
  simp only [dec0D, yields_guarded, yields_some, beq_iff_eq]
  exact fun hz => ⟨isDevice_of_encode (List.cons_ne_nil _ _), hz⟩

theorem dec14_yields (w : Word) :
    Yields (fun i => Instr.isDevice i = false ∧ ((bits w 0 3).toNat ≠ 7 → bits w 5 5 = 0)) (dec14 w) := by
  unfold dec14
  split
  all_goals simp only [yields_guarded, yields_some, yields_none, Bool.and_eq_true, beq_iff_eq, and_imp]
  all_goals
    intros
    refine ⟨isDevice_of_encode (List.cons_ne_nil _ _), fun hn => ?_⟩
    simp_all

theorem dec25_yields (w : Word) :
    Yields (fun i => Instr.isDevice i = false ∧ bits w 7 3 = 0 ∧ bits w 3 4 = 0) (dec25 w) := by
  unfold dec25
  split
  all_goals simp only [yields_guarded, yields_some, yields_none, Bool.and_eq_true, beq_iff_eq, and_imp]
  all_goals
    intro hk ht
    intros
    exact ⟨isDevice_of_encode (List.cons_ne_nil _ _), hk, ht⟩

theorem dec43_yields (w : Word) : Yields (fun i => Instr.isDevice i = false ∧ bits w 0 3 = 0) (dec43 w) := by
  simp only [dec43, yields_guarded, yields_map, beq_iff_eq]
  exact fun hz _ _ => ⟨isDevice_of_encode (List.cons_ne_nil _ _), hz⟩

theorem dec4A_yields (w : Word) : Yields (fun i => Instr.isDevice i = false ∧ bits w 0 4 = 0) (dec4A w) := by
  simp only [dec4A, yields_guarded, yields_some, beq_iff_eq]
  exact fun hz => ⟨isDevice_of_encode (List.cons_ne_nil _ _), hz⟩

/-- The majors that have no long form and of which R115 marks no field zero. -/
theorem register_majors_yield (w : Word) :
    (∀ x ∈ [dec13 w, dec23 w, dec3A w, dec40 w, dec41 w, dec42 w, dec44 w, dec48 w, dec49 w],
      Yields (fun i => Instr.isDevice i = false) x) := by
  simp only [List.forall_mem_cons]
  refine ⟨?_, ?_, ?_, ?_, ?_, ?_, ?_, ?_, ?_, List.forall_mem_nil _⟩
  all_goals simp only [dec13, dec23, dec3A, dec40, dec41, dec42, dec44, dec48, dec49]
  all_goals try split
  all_goals simp only [yields_guarded, yields_some, yields_map, yields_none]
  all_goals intros; exact isDevice_of_encode (List.cons_ne_nil _ _)

/-- The majors with an immediate of 12 bits that XIMM widens. -/
theorem imm27_majors_yield (long : Bool) (p : Pfx) (w : Word) :
    ∀ x ∈ [dec03 long p w, dec04 long p w, dec09 long p w, dec0A long p w, dec11 long p w, dec12 long p w],
      Yields (fun i => Instr.isDevice i = false) x := by
  simp only [List.forall_mem_cons]
  refine ⟨?_, ?_, ?_, ?_, ?_, ?_, List.forall_mem_nil _⟩
  all_goals simp only [dec03, dec04, dec09, dec0A, dec11, dec12]
  all_goals try split
  all_goals simp only [yields_guarded, yields_some, yields_map, yields_none]
  all_goals intros; exact isDevice_of_encode (encImm27_ne_nil _ _)

theorem dec05_yields (long : Bool) (p : Pfx) (w : Word) : Yields (fun i => Instr.isDevice i = false) (dec05 long p w) :=
  yields_some.mpr (isDevice_of_encode (encImm35_ne_nil _ _))

theorem dec06_yields (long : Bool) (p : Pfx) (w : Word) : Yields (fun i => Instr.isDevice i = false) (dec06 long p w) :=
  yields_some.mpr (isDevice_of_encode (encImm35_ne_nil _ _))

theorem dec10_yields (long : Bool) (p : Pfx) (w : Word) : Yields (fun i => Instr.isDevice i = false) (dec10 long p w) := by
  unfold dec10
  split
  all_goals simp only [yields_guarded, yields_some, yields_none]
  case h_5 => exact fun _ => isDevice_of_encode (List.cons_ne_nil _ _)
  all_goals exact isDevice_of_encode (encImm27_ne_nil _ _)

/-- The vector majors whose every instruction has a long form. -/
theorem vector_majors_yield (p : Pfx) (w : Word) :
    ∀ x ∈ [(0x18, dec18 p w), (0x19, dec19 p w), (0x1B, dec1B p w), (0x1C, dec1C p w), (0x1D, dec1D p w), (0x1E, dec1E p w),
        (0x1F, dec1F p w), (0x20, dec20 p w), (0x21, dec21 p w), (0x24, dec24 p w), (0x4B, dec4B p w)],
      Yields (fun i => Instr.isDevice i = false ∧ Fits p x.1) x.2 := by
  simp only [List.forall_mem_cons]
  refine ⟨?_, ?_, ?_, ?_, ?_, ?_, ?_, ?_, ?_, ?_, ?_, List.forall_mem_nil _⟩
  all_goals simp only [dec18, dec19, dec1B, dec1C, dec1D, dec1E, dec1F, dec20, dec21, dec24, dec4B]
  all_goals split
  all_goals simp only [yields_guarded, yields_some, yields_map, yields_bind, yields_none, Bool.and_eq_true, and_imp]
  all_goals
    intro hp
    intros
    exact ⟨isDevice_of_encode (withPfx_ne_nil _ _), fits_of_only hp (by decide)⟩

theorem dec1A_yields (p : Pfx) (w : Word) : Yields (fun i => Instr.isDevice i = false ∧ Fits p 0x1A) (dec1A p w) := by
  unfold dec1A
  split
  all_goals simp only [yields_guarded, yields_map, yields_none, Bool.and_eq_true, and_imp]
  case h_6 => exact fun hp _ _ => ⟨isDevice_of_encode (List.cons_ne_nil _ _), fits_of_only hp (by decide)⟩
  all_goals
    intro hp
    intros
    exact ⟨isDevice_of_encode (withPfx_ne_nil _ _), fits_of_only hp (by decide)⟩

theorem dec22_yields (p : Pfx) (w : Word) : Yields (fun i => Instr.isDevice i = false ∧ Fits p 0x22) (dec22 p w) := by
  unfold dec22
  split
  all_goals simp only [yields_guarded, yields_map, yields_none, Bool.and_eq_true, and_imp]
  case h_5 => exact fun hp _ _ _ => ⟨isDevice_of_encode (List.cons_ne_nil _ _), fits_of_only hp (by decide)⟩
  all_goals
    intro hp
    intros
    exact ⟨isDevice_of_encode (withPfx_ne_nil _ _), fits_of_only hp (by decide)⟩

theorem dec26_yields (p : Pfx) (w : Word) : Yields (fun i => Instr.isDevice i = false ∧ Fits p 0x26) (dec26 p w) := by
  unfold dec26
  split
  all_goals simp only [yields_guarded, yields_map, yields_none, Bool.and_eq_true, and_imp]
  case h_1 | h_4 =>
    intro hp
    intros
    exact ⟨isDevice_of_encode (withPfx_ne_nil _ _), fits_of_only hp (by decide)⟩
  all_goals exact fun hp _ _ _ => ⟨isDevice_of_encode (List.cons_ne_nil _ _), fits_of_only hp (by decide)⟩

theorem dec39_yields (p : Pfx) (w : Word) :
    Yields (fun i => Instr.isDevice i = false ∧ bits w 0 1 = 0 ∧ Fits p 0x39) (dec39 p w) := by
  simp only [dec39, yields_guarded, yields_some, Bool.and_eq_true, beq_iff_eq, and_imp]
  exact fun hp hx hz => ⟨isDevice_of_encode (withPfx_ne_nil _ _), hz, hp, fun _ => hx⟩

theorem dec45_yields (p : Pfx) (w : Word) : Yields (fun i => Instr.isDevice i = false ∧ Fits p 0x45) (dec45 p w) := by
  unfold dec45
  split
  all_goals simp only [yields_guarded, yields_some, yields_none]
  exact fun hp => ⟨isDevice_of_encode (List.cons_ne_nil _ _), fits_of_only hp (by decide)⟩

/-- Three instructions of major 0x08 have a long form. -/
theorem dec08_yields (long : Bool) (p : Pfx) (w : Word) : Yields (fun i => Instr.isDevice i = false ∧
    (long = true → (bits w 0 5).toNat ∈ [12, 13, 14] ∧ Fits p 0x08)) (dec08 long p w) := by
  unfold dec08
  split
  all_goals simp only [yields_guarded, yields_some, yields_map, yields_none, Bool.and_eq_true, Bool.not_eq_true', and_imp]
  case h_13 hm | h_14 hm | h_15 hm =>
    exact fun hp _ _ _ => ⟨isDevice_of_encode (withPfx_ne_nil _ _), fun _ => ⟨by rw [hm]; decide, fits_of_only hp (by decide)⟩⟩
  all_goals
    intro hs
    intros
    exact ⟨isDevice_of_encode (List.cons_ne_nil _ _), fun hl => absurd (hs.symm.trans hl) Bool.false_ne_true⟩

/-- Two instructions of major 0x38 have a long form, and one makes use of XN. -/
theorem dec38_yields (long : Bool) (p : Pfx) (w : Word) : Yields (fun i => Instr.isDevice i = false ∧
    ((bits w 0 3).toNat ≠ 6 → bits w 3 6 = 0) ∧ (long = true → (bits w 0 3).toNat ∈ [5, 6] ∧ Fits p 0x38)) (dec38 long p w) := by
  unfold dec38
  split
  all_goals simp only [yields_guarded, yields_some, yields_map, yields_none, Bool.and_eq_true, Bool.not_eq_true', beq_iff_eq,
    and_imp]
  case h_6 hm =>
    exact fun hp _ _ hx _ _ => ⟨isDevice_of_encode (withPfx_ne_nil _ _), fun _ => hx,
      fun _ => ⟨by rw [hm]; decide, fits_of_only hp (by decide)⟩⟩
  case h_7 hm =>
    exact fun hp _ _ _ _ => ⟨isDevice_of_encode (withPfx_ne_nil _ _), fun hn => absurd hm hn,
      fun _ => ⟨by rw [hm]; decide, fits_of_only hp (by decide)⟩⟩
  all_goals
    intro hs _ _ hx
    exact ⟨isDevice_of_encode (List.cons_ne_nil _ _), fun _ => hx, fun hl => absurd (hs.symm.trans hl) Bool.false_ne_true⟩

end Sys2Proof.Laws.Encoding
end

section
/-! Reserved majors, fields and long forms (R112, R114, R115, R127, R128). -/

namespace Sys2Proof.Laws.Encoding

open Sys2Proof.Machine

/-! ### A base word -/

/-- A major is assigned, and behind another word it has a long form and makes use of the fields that are non-zero. -/
def WordForm (long : Bool) (p : Pfx) (m : Nat) : Prop := m ∈ assignedMajors ∧ (long = true → m ∉ bareMajors ∧ Fits p m)

section
variable {α : Type} {P : α → Prop} {x : Option α} {long : Bool} {p : Pfx} {m : Nat}

theorem yields_bare (hm : m ∈ assignedMajors) (h : Yields P x) :
    Yields (fun a => P a ∧ WordForm long p m) (guarded (!long) x) :=
  yields_guarded.mpr fun hs => h.mono fun _ ha => ⟨ha, hm, fun hl => by rw [hl] at hs; cases hs⟩

theorem yields_imm (hm : m ∈ assignedMajors ∧ m ∉ bareMajors ∧ m ∈ immMajors) (h : Yields P x) :
    Yields (fun a => P a ∧ WordForm long p m) (guarded (p.only false false false false true) x) :=
  yields_guarded.mpr fun hp => h.mono fun _ ha => ⟨ha, hm.1, fun _ => ⟨hm.2.1, fits_of_imm hp hm.2.2⟩⟩

theorem yields_fits (hm : m ∈ assignedMajors ∧ m ∉ bareMajors) (h : Yields (fun a => P a ∧ (long = true → Fits p m)) x) :
    Yields (fun a => P a ∧ WordForm long p m) x :=
  h.mono fun _ ha => ⟨ha.1, hm.1, fun hl => ⟨hm.2, ha.2 hl⟩⟩

end

theorem decodeHead_yields (long : Bool) (p : Pfx) (w : Word) :
    Yields (fun i => Instr.isDevice i = false ∧ WordForm long p (majorOf w)) (decodeHead long p w) := by
  have hreg := register_majors_yield w
  have himm := imm27_majors_yield long p w
  have hvec := vector_majors_yield p w
  simp only [List.forall_mem_cons] at hreg himm hvec
  obtain ⟨h13, h23, h3A, h40, h41, h42, h44, h48, h49, -⟩ := hreg
  obtain ⟨h03, h04, h09, h0A, h11, h12, -⟩ := himm
  obtain ⟨h18, h19, h1B, h1C, h1D, h1E, h1F, h20, h21, h24, h4B, -⟩ := hvec
  have used {x : Option Instr} {m : Nat} (hm : m ∈ assignedMajors ∧ m ∉ bareMajors)
      (h : Yields (fun i => Instr.isDevice i = false ∧ Fits p m) x) :
      Yields (fun i => Instr.isDevice i = false ∧ WordForm long p m) x :=
    yields_fits hm (h.mono fun _ ha => ⟨ha.1, fun _ => ha.2⟩)
  unfold decodeHead
  generalize majorOf w = m
  split
  · exact yields_bare (by decide) ((dec01_yields w).mono fun _ => And.left)
  · exact yields_bare (by decide) ((dec02_yields w).mono fun _ => And.left)
  · exact yields_imm (by decide) h03
  · exact yields_imm (by decide) h04
  · exact yields_imm (by decide) (dec05_yields long p w)
  · exact yields_imm (by decide) (dec06_yields long p w)
  · exact yields_bare (by decide) ((dec07_yields w).mono fun _ => And.left)
  · exact yields_fits (by decide) ((dec08_yields long p w).mono fun _ h => ⟨h.1, fun hl => (h.2 hl).2⟩)
  · exact yields_imm (by decide) h09
  · exact yields_imm (by decide) h0A
  · exact yields_imm (by decide) ((dec0B_yields long p w).mono fun _ => And.left)
  · exact yields_bare (by decide) ((dec0C_yields w).mono fun _ => And.left)
  · exact yields_bare (by decide) ((dec0D_yields w).mono fun _ => And.left)
  · exact yields_imm (by decide) (dec10_yields long p w)
  · exact yields_imm (by decide) h11
  · exact yields_imm (by decide) h12
  · exact yields_bare (by decide) h13
  · exact yields_bare (by decide) ((dec14_yields w).mono fun _ => And.left)
  · exact used (by decide) h18
  · exact used (by decide) h19
  · exact used (by decide) (dec1A_yields p w)
  · exact used (by decide) h1B
  · exact used (by decide) h1C
  · exact used (by decide) h1D
  · exact used (by decide) h1E
  · exact used (by decide) h1F
  · exact used (by decide) h20
  · exact used (by decide) h21
  · exact used (by decide) (dec22_yields p w)
  · exact yields_bare (by decide) h23
  · exact used (by decide) h24
  · exact yields_bare (by decide) ((dec25_yields w).mono fun _ => And.left)
  · exact used (by decide) (dec26_yields p w)
  · exact yields_fits (by decide) ((dec38_yields long p w).mono fun _ h => ⟨h.1, fun hl => (h.2.2 hl).2⟩)
  · exact used (by decide) ((dec39_yields p w).mono fun _ h => ⟨h.1, h.2.2⟩)
  · exact yields_bare (by decide) h3A
  · exact yields_bare (by decide) h40
  · exact yields_bare (by decide) h41
  · exact yields_bare (by decide) h42
  · exact yields_bare (by decide) ((dec43_yields w).mono fun _ => And.left)
  · exact yields_bare (by decide) h44
  · exact used (by decide) (dec45_yields p w)
  · exact yields_bare (by decide) h48
  · exact yields_bare (by decide) h49
  · exact yields_bare (by decide) ((dec4A_yields w).mono fun _ => And.left)
  · exact used (by decide) h4B
  · exact yields_none.mpr trivial

theorem dec4E_yields (p : Pfx) (w : Word) : Yields (fun _ => Fits p 0x4E) (dec4E p w) := by
  unfold dec4E
  split
  all_goals simp only [yields_guarded, yields_bind, yields_map, yields_none, Bool.and_eq_true, beq_iff_eq, and_imp]
  all_goals
    intro hp hx
    intros
    exact ⟨only_mono hp (by decide) (by decide) (by decide) (by decide) (by decide), fun _ => hx⟩

theorem dec61_yields (p : Pfx) (w : Word) : Yields (fun _ => Fits p 0x61) (dec61 p w) := by
  unfold dec61
  split
  all_goals simp only [yields_guarded, yields_some, yields_none, Bool.and_eq_true, and_imp]
  all_goals exact fun hp _ => fits_of_only hp (by decide)

theorem isDevice_toInstr (t : Tail) : Instr.isDevice t.toInstr = false := by
  cases t <;> rfl

theorem wf_toInstr (t : Tail) : t.toInstr.wf = true := by
  cases t <;> rfl

theorem decodeTail_yields (long : Bool) (p : Pfx) (w : Word) :
    Yields (fun t => Instr.isDevice t.toInstr = false ∧ WordForm long p (majorOf w)) (decodeTail long p w) := by
  have word (x : Option Tail) : Yields (fun t => Instr.isDevice t.toInstr = false) x := fun t _ => isDevice_toInstr t
  unfold decodeTail
  generalize majorOf w = m
  split
  · exact yields_bare (by decide) (word _)
  · exact yields_bare (by decide) (word _)
  · exact yields_guarded.mpr fun _ => yields_fits (by decide)
      ((dec4E_yields p w).mono fun t h => ⟨isDevice_toInstr t, fun _ => h⟩)
  · exact yields_bare (by decide) (word _)
  · exact yields_bare (by decide) (word _)
  · exact yields_bare (by decide) (word _)
  · exact yields_fits (by decide) ((dec61_yields p w).mono fun t h => ⟨isDevice_toInstr t, fun _ => h⟩)
  · exact yields_none.mpr trivial

section
variable {long : Bool} {p : Pfx} {w : Word}

theorem decodeLimited_head {P : Instr → Prop} (hm : majorOf w < 0x4C) (h : Yields P (decodeHead long p w)) :
    Yields (fun i => i.wf = true ∧ P i) (decodeLimited long p w) := by
  unfold decodeLimited
  rw [if_pos hm]
  split
  case h_1 i hi =>
    split
    case isTrue hwf => exact yields_some.mpr ⟨hwf, h i hi⟩
    case isFalse => exact yields_none.mpr trivial
  case h_2 => exact yields_none.mpr trivial

theorem decodeLimited_tail {P : Instr → Prop} (hm : 0x4C ≤ majorOf w)
    (h : Yields (fun t => P t.toInstr) (decodeTail long p w)) :
    Yields (fun i => i.wf = true ∧ P i) (decodeLimited long p w) := by
  unfold decodeLimited
  rw [if_neg (Nat.not_lt.mpr hm)]
  exact yields_map.mpr fun t ht => ⟨wf_toInstr t, h t ht⟩

/-- What a base word decodes to is well formed and no step of the device, and the major has that form. -/
theorem decodeLimited_yields (long : Bool) (p : Pfx) (w : Word) :
    Yields (fun i => i.wf = true ∧ Instr.isDevice i = false ∧ WordForm long p (majorOf w)) (decodeLimited long p w) := by
  obtain hm | hm := Nat.lt_or_ge (majorOf w) 0x4C
  · exact decodeLimited_head hm (decodeHead_yields long p w)
  · exact decodeLimited_tail hm (decodeTail_yields long p w)

theorem decodeLimited_assigned {i : Instr} (h : decodeLimited long p w = some i) : majorOf w ∈ assignedMajors := by
  obtain ⟨-, -, hm, -⟩ := decodeLimited_yields _ _ _ i h
  exact hm

theorem decodeLimited_long {i : Instr} (h : decodeLimited true p w = some i) : majorOf w ∉ bareMajors ∧ Fits p (majorOf w) := by
  obtain ⟨-, -, -, hlong⟩ := decodeLimited_yields _ _ _ i h
  exact hlong rfl

/-! ### Fields that must be zero -/

/-- The fields that R115 and R127 mark zero for a whole major: the major, the lowest bit and the number of bits. -/
def zeroFields : List (Nat × Nat × Nat) :=
  [(0x02, 5, 5), (0x07, 5, 5), (0x07, 10, 5), (0x0B, 20, 5), (0x0C, 10, 10), (0x0D, 0, 25), (0x25, 7, 3), (0x25, 3, 4),
   (0x39, 0, 1), (0x43, 0, 3), (0x4A, 0, 4), (0x4D, 17, 8), (0x4D, 3, 4), (0x50, 3, 22)]

theorem dec4D_yields (w : Word) : Yields (fun _ => bits w 17 8 = 0 ∧ bits w 3 4 = 0) (dec4D w) := by
  unfold dec4D
  split
  all_goals simp only [yields_guarded, yields_some, yields_none, Bool.and_eq_true, beq_iff_eq]
  all_goals exact fun h => h

theorem dec50_yields (w : Word) : Yields (fun _ => bits w 3 22 = 0) (dec50 w) := by
  simp only [dec50, yields_guarded, yields_map, beq_iff_eq]
  exact fun hz _ _ => hz

/-- A fact about a base word that decodes, from what the decoder of its major gives. -/
theorem of_head {P : Prop} {i : Instr} (h : decodeLimited long p w = some i) (hm : majorOf w < 0x4C)
    (hP : Yields (fun _ => P) (decodeHead long p w)) : P :=
  (decodeLimited_head hm hP i h).2

theorem of_tail {P : Prop} {i : Instr} (h : decodeLimited long p w = some i) (hm : 0x4C ≤ majorOf w)
    (hP : Yields (fun _ => P) (decodeTail long p w)) : P :=
  (decodeLimited_tail (P := fun _ => P) hm hP i h).2

theorem Yields.guarded {α : Type} {P : α → Prop} {x : Option α} (h : Yields P x) (ok : Bool) : Yields P (guarded ok x) :=
  yields_guarded.mpr fun _ => h

theorem decodeLimited_zero {i : Instr} (h : decodeLimited long p w = some i) :
    ∀ z ∈ zeroFields, majorOf w = z.1 → bits w z.2.1 z.2.2 = 0 := by
  simp only [zeroFields, List.forall_mem_cons]
  refine ⟨?_, ?_, ?_, ?_, ?_, ?_, ?_, ?_, ?_, ?_, ?_, ?_, ?_, ?_, List.forall_mem_nil _⟩ <;> intro hm
  · exact of_head h (by omega) (by rw [decodeHead, hm]; exact ((dec02_yields w).mono fun _ => And.right).guarded _)
  · exact of_head h (by omega) (by rw [decodeHead, hm]; exact ((dec07_yields w).mono fun _ hz => hz.2.1).guarded _)
  · exact of_head h (by omega) (by rw [decodeHead, hm]; exact ((dec07_yields w).mono fun _ hz => hz.2.2).guarded _)
  · exact of_head h (by omega) (by rw [decodeHead, hm]; exact ((dec0B_yields long p w).mono fun _ => And.right).guarded _)
  · exact of_head h (by omega) (by rw [decodeHead, hm]; exact ((dec0C_yields w).mono fun _ => And.right).guarded _)
  · exact of_head h (by omega) (by rw [decodeHead, hm]; exact ((dec0D_yields w).mono fun _ => And.right).guarded _)
  · exact of_head h (by omega) (by rw [decodeHead, hm]; exact ((dec25_yields w).mono fun _ hz => hz.2.1).guarded _)
  · exact of_head h (by omega) (by rw [decodeHead, hm]; exact ((dec25_yields w).mono fun _ hz => hz.2.2).guarded _)
  · exact of_head h (by omega) (by rw [decodeHead, hm]; exact (dec39_yields p w).mono fun _ hz => hz.2.1)
  · exact of_head h (by omega) (by rw [decodeHead, hm]; exact ((dec43_yields w).mono fun _ => And.right).guarded _)
  · exact of_head h (by omega) (by rw [decodeHead, hm]; exact ((dec4A_yields w).mono fun _ => And.right).guarded _)
  · exact of_tail h (by omega) (by rw [decodeTail, hm]; exact ((dec4D_yields w).mono fun _ => And.left).guarded _)
  · exact of_tail h (by omega) (by rw [decodeTail, hm]; exact ((dec4D_yields w).mono fun _ => And.right).guarded _)
  · exact of_tail h (by omega) (by rw [decodeTail, hm]; exact (dec50_yields w).guarded _)

theorem decodeLimited_01 {i : Instr} (h : decodeLimited long p w = some i) (hm : majorOf w = 0x01) :
    (bits w 0 5).toNat ∉ [25, 30, 31] → bits w 5 5 = 0 :=
  of_head h (by omega) (by rw [decodeHead, hm]; exact ((dec01_yields w).mono fun _ => And.right).guarded _)

theorem decodeLimited_14 {i : Instr} (h : decodeLimited long p w = some i) (hm : majorOf w = 0x14) :
    (bits w 0 3).toNat ≠ 7 → bits w 5 5 = 0 :=
  of_head h (by omega) (by rw [decodeHead, hm]; exact ((dec14_yields w).mono fun _ => And.right).guarded _)

theorem decodeLimited_08 {i : Instr} (h : decodeLimited true p w = some i) (hm : majorOf w = 0x08) :
    (bits w 0 5).toNat ∈ [12, 13, 14] :=
  of_head h (by omega) (by rw [decodeHead, hm]; exact (dec08_yields true p w).mono fun _ hz => (hz.2 rfl).1)

theorem decodeLimited_38 {i : Instr} (h : decodeLimited long p w = some i) (hm : majorOf w = 0x38) :
    ((bits w 0 3).toNat ≠ 6 → bits w 3 6 = 0) ∧ (long = true → (bits w 0 3).toNat ∈ [5, 6]) :=
  of_head h (by omega) (by
    rw [decodeHead, hm]; exact (dec38_yields long p w).mono fun _ hz => ⟨hz.2.1, fun hl => (hz.2.2 hl).1⟩)

theorem decodeLimited_4E (hm : majorOf w = 0x4E) : decodeLimited false p w = none := by
  rw [decodeLimited, hm, if_neg (by decide), decodeTail, hm]
  rfl

end

/-! ### One word or two -/

/-- The word that holds the major: the one behind the first when that is `0x7F`. -/
def baseWord (w0 w1 : Word) : Word := if isPrefix w0 then w1 else w0

theorem isPrefix_of_majorOf {w : Word} {m : Nat} (hm : majorOf w = m) (hne : m ≠ 0x7F) : isPrefix w = false := by
  rw [isPrefix, hm]
  exact beq_false_of_ne hne

section
variable {w0 w1 : Word} {i : Instr}

theorem decodeWords_of_isPrefix (hp : isPrefix w0 = true) (h : decodeWords w0 w1 = some i) :
    isPrefix w1 = false ∧ decodeLimited true (Pfx.ofWord w0) w1 = some i := by
  rw [decodeWords, if_pos hp] at h
  cases hp1 : isPrefix w1 with
  | true => rw [hp1] at h; cases h
  | false => rw [hp1] at h; exact ⟨rfl, h⟩

theorem decodeWords_of_not_isPrefix (hp : isPrefix w0 = false) :
    decodeWords w0 w1 = decodeLimited false Pfx.zero w0 := by
  rw [decodeWords, hp]
  rfl

theorem decodeWords_base (h : decodeWords w0 w1 = some i) : ∃ long p, decodeLimited long p (baseWord w0 w1) = some i := by
  unfold baseWord
  cases hp : isPrefix w0 with
  | true => exact ⟨true, _, (decodeWords_of_isPrefix hp h).2⟩
  | false => exact ⟨false, _, (decodeWords_of_not_isPrefix hp).symm.trans h⟩

end

theorem field_toNat (w : Word) (lo n : Nat) : field w.toNat lo n = (bits w lo n).toNat := (bits_toNat w lo n).symm

theorem bits_ne_zero {w : Word} {lo n : Nat} (h : field w.toNat lo n ≠ 0) : bits w lo n ≠ 0 := by
  intro hz
  rw [field_toNat, hz] at h
  exact h BitVec.toNat_zero

theorem bits_bits (w : Word) : (bits w 0 15).extractLsb' 5 10 = bits w 5 10 := by
  apply BitVec.eq_of_toNat_eq
  simp only [BitVec.extractLsb'_toNat, bits_toNat, Nat.shiftRight_eq_div_pow]
  omega

/-- The fields of a first word `0x7F`, with the majors that make use of each (R113, R114). -/
def usedFields : List (Nat × Nat × List Nat) :=
  [(22, 3, x3Majors), (21, 1, satMajors), (20, 1, zroMajors), (15, 5, cMajors), (0, 15, ximmMajors), (5, 10, immMajors)]

theorem bits_of_fits {w : Word} {m : Nat} (h : Fits (Pfx.ofWord w) m) :
    ∀ u ∈ usedFields, m ∉ u.2.2 → bits w u.1 u.2.1 = 0 := by
  obtain ⟨honly, hwide⟩ := h
  obtain ⟨hx3, hsat, hzro, hc, hximm⟩ := only_iff.mp honly
  have unused {l : List Nat} (hm : m ∉ l) : l.contains m = false := by simpa using hm
  have bit {lo : Nat} (hb : (bits w lo 1 == 1#1) = false) : bits w lo 1 = 0 :=
    (BitVec.eq_zero_or_eq_one _).resolve_right (by simpa using hb)
  simp only [usedFields, List.forall_mem_cons]
  refine ⟨fun hm => hx3 (unused hm), fun hm => bit (hsat (unused hm)), fun hm => bit (hzro (unused hm)),
    fun hm => hc (unused hm), fun hm => hximm (unused hm), fun hm => ?_, List.forall_mem_nil _⟩
  rw [← bits_bits]
  exact hwide hm

theorem decodeWords_none_of {w0 w1 : Word} (h : ∀ i, decodeWords w0 w1 ≠ some i) : decodeWords w0 w1 = none :=
  Option.eq_none_iff_forall_ne_some.mpr h

/-- Settles O11: each clause turns round a fact about the words that decode. -/
theorem reservedRefused : Obligations.ReservedRefused := by
  unfold Obligations.ReservedRefused
  intro assigned bare uses zero base
  have single {w0 w1 : Word} {i : Instr} {m : Nat} (hm : majorOf w0 = m) (hne : m ≠ 0x7F) (h : decodeWords w0 w1 = some i) :
      decodeLimited false Pfx.zero w0 = some i :=
    (decodeWords_of_not_isPrefix (isPrefix_of_majorOf hm hne)).symm.trans h
  refine ⟨fun w0 w1 hp hp1 => decodeWords_none_of fun i h => ?_, fun w0 w1 hp hm => decodeWords_none_of fun i h => ?_,
    fun w0 w1 hp hm => decodeWords_none_of fun i h => ?_, fun w0 w1 hm => decodeWords_none_of fun i h => ?_,
    fun w0 w1 hp hm => decodeWords_none_of fun i h => ?_, fun w0 w1 hp hm hn => decodeWords_none_of fun i h => ?_,
    fun w0 w1 hp hm hn => decodeWords_none_of fun i h => ?_,
    fun u hu w0 w1 hp hf hm => decodeWords_none_of fun i h => ?_,
    fun z hz w0 w1 hm hf => decodeWords_none_of fun i h => ?_, fun w0 w1 hm hn hf => decodeWords_none_of fun i h => ?_,
    fun w0 w1 hm hn hf => decodeWords_none_of fun i h => ?_, fun w0 w1 hm hn hf => decodeWords_none_of fun i h => ?_,
    fun w0 w1 i h => ?_⟩
  · exact Bool.false_ne_true ((decodeWords_of_isPrefix hp h).1.symm.trans hp1)
  · rw [decodeWords_of_not_isPrefix hp] at h
    exact hm (decodeLimited_assigned h)
  · exact hm (decodeLimited_assigned (decodeWords_of_isPrefix hp h).2)
  · exact Option.some_ne_none i ((single hm (by decide) h).symm.trans (decodeLimited_4E hm))
  · exact (decodeLimited_long (decodeWords_of_isPrefix hp h).2).1 hm
  · rw [field_toNat] at hn
    exact hn (decodeLimited_08 (decodeWords_of_isPrefix hp h).2 hm)
  · rw [field_toNat] at hn
    exact hn ((decodeLimited_38 (decodeWords_of_isPrefix hp h).2 hm).2 rfl)
  · exact bits_ne_zero hf (bits_of_fits (decodeLimited_long (decodeWords_of_isPrefix hp h).2).2 u hu hm)
  · obtain ⟨long, p, hb⟩ := decodeWords_base h
    exact bits_ne_zero hf (decodeLimited_zero hb z hz hm)
  · rw [field_toNat] at hn
    exact bits_ne_zero hf (decodeLimited_01 (single hm (by decide) h) hm hn)
  · rw [field_toNat] at hn
    exact bits_ne_zero hf (decodeLimited_14 (single hm (by decide) h) hm hn)
  · obtain ⟨long, p, hb⟩ := decodeWords_base h
    rw [field_toNat] at hn
    exact bits_ne_zero hf ((decodeLimited_38 hb hm).1 hn)
  · obtain ⟨long, p, hb⟩ := decodeWords_base h
    obtain ⟨hwf, hword, -⟩ := decodeLimited_yields _ _ _ i hb
    exact ⟨hwf, hword⟩

/-- Settles O9: each word is evaluated in the decoder's tables. -/
theorem decodeWords : Obligations.DecodeWords :=
  ⟨rfl, rfl, rfl, rfl, rfl, rfl, rfl, rfl, rfl, rfl, rfl, rfl, rfl, rfl⟩

end Sys2Proof.Laws.Encoding
end

section
/-! The system instructions at issue (R129, R346, R369 to R378). -/

namespace Sys2Proof.Machine

/-! ### The gate of R129 -/

/-- The gate lets an instruction pass: in context 0, or in a handler frame where handlers are admitted. -/
def State.passes (s : State) (i : Inst) (handler : Bool) : Prop :=
  i.key.ctx = 0 ∨ (handler && (s.frameOf i).handler.isSome) = true

theorem systemGate_ok {s : State} {i : Inst} {handler : Bool} (h : s.passes i handler) : systemGate s i handler = .ok () := by
  rw [systemGate, if_neg]
  rintro ⟨hctx, hframe⟩
  obtain h | h := h
  · exact hctx h
  · rw [h] at hframe
    cases hframe

theorem systemGate_error {s : State} {i : Inst} {handler : Bool} (h : ¬s.passes i handler) :
    systemGate s i handler = .error { cause := .systemOnly } := by
  rw [State.passes, not_or, Bool.not_eq_true] at h
  rw [systemGate, if_pos ⟨h.1, by rw [h.2]; rfl⟩]

section
variable {w : Instr} {handler : Bool} {g : State → Inst → Cur → Except Trap Inst}
  (hw : ∀ s, Sys2Proof.Machine.exec w s = lift (fun s i c => do systemGate s i handler; g s i c) s)
include hw

theorem RunsWhen.of_gate {p : State → Inst → Prop} {f : State → Cur → Inst → Inst} (hpass : ∀ s i, p s i → s.passes i handler)
    (hg : ∀ s c i, p s i → g s (i.past c) c = .ok (f s c (i.past c))) : RunsWhen w p f := by
  refine .of_lift hw fun s c i hp => ?_
  rw [systemGate_ok (i := i.past c) (hpass s i hp)]
  exact hg s c i hp

theorem Traps.of_gate : Traps w (fun s i => ¬s.passes i handler) (fun _ _ => { cause := .systemOnly }) := by
  refine .of_lift hw fun s c i hp => ?_
  rw [systemGate_error (i := i.past c) hp]
  rfl

end

/-! ### The frame words of an action -/

theorem readWord_of_wordSeen {s : State} {i : Inst} {k : Nat} {x : W64} (h : s.wordSeen i k = some x) :
    readWord (s.frameOf i) i k = .ok x := by
  unfold State.wordSeen at h
  unfold readWord
  split at h
  case h_1 => exact congrArg Except.ok (Option.some.inj h)
  case h_2 =>
    split at h
    case isTrue => cases h
    case isFalse hpoison => rw [if_neg hpoison]; exact congrArg Except.ok (Option.some.inj h)

theorem mapM_readWord {s : State} {i : Inst} {l : List Nat} {ws : List W64} (h : l.map (s.wordSeen i) = ws.map some) :
    l.mapM (readWord (s.frameOf i) i) = .ok ws := by
  induction l generalizing ws with
  | nil => cases ws with
    | nil => rfl
    | cons => cases h
  | cons k l ih => cases ws with
    | nil => cases h
    | cons x ws =>
      obtain ⟨hk, hl⟩ := List.cons.inj h
      rw [List.mapM_cons, readWord_of_wordSeen hk, ih hl]
      rfl

/-! ### The forms -/

theorem Inst.effect_past {i : Inst} {e : EffBody} {c : Cur} (h : i.nEff < 32) :
    (i.past c).effect e = .ok ((i.past c).withEffect e) :=
  Inst.effect_ok (n := 1) h

theorem wfield_low (x : W64) (n : Nat) : wfield x 0 n = x.toNat % 2 ^ n := by
  rw [wfield_eq, pow_zero, Nat.div_one]

theorem RunsWhen.of_actOn {w : Instr} {n : Nat} {v : Inst → W64} (hw : ∀ s, Sys2Proof.Machine.exec w s = actOn n v s)
    (ws : List W64) :
    RunsWhen w (fun s i => s.passes i true ∧ (upFrom 0 8).map (s.wordSeen i) = ws.map some ∧ i.nEff < 32)
      (fun _ _ i => i.withEffect (.act n (v i) ws)) := by
  refine .of_gate hw (fun s i hp => hp.1) fun s c i ⟨_, hws, hn⟩ => ?_
  have hread : (upFrom 0 8).mapM (readWord (s.frameOf (i.past c)) (i.past c)) = .ok ws := mapM_readWord hws
  rw [hread]
  exact Inst.effect_past hn

theorem RunsWhen.of_request {w : Instr} {r : Inst → SysReq} {slot : SlotNo}
    (hw : ∀ s, Sys2Proof.Machine.exec w s = request r slot s) :
    RunsWhen w (fun s i => s.passes i false ∧ i.nEff < 32)
      (fun s u i => i.withEffect (.op (opOf s i u slot.toNat (.sys (r i) false) []))) :=
  .of_gate hw (fun _ _ hp => hp.1) fun _ _ _ hp => Inst.effect_past hp.2

section
variable (d a b : Reg) (slot : SlotNo) (num : BitVec 12) (s : State)

theorem exec_killL : Sys2Proof.Machine.exec (.killL a) s = lift (fun s i _ => do
    systemGate s i false
    i.effect (.killLaunch ((i.getS a).toNat % 256) ((i.getS a).toNat / 256 % 64))) s := by
  show execKillL a s = _
  simp only [execKillL, wfield_low]
  rfl

theorem exec_tlbi : Sys2Proof.Machine.exec (.tlbi slot a b) s =
    request (fun i => .tlbi ((i.getS a).toNat % 256) ((i.getS b).signExtend 72)) slot s := by
  show execTlbi slot a b s = _
  simp only [execTlbi, wfield_low]
  rfl

theorem exec_tlbia : Sys2Proof.Machine.exec (.tlbia slot a) s =
    request (fun i => .tlbia (if (i.getS a).getLsbD 8 then none else some ((i.getS a).toNat % 256))) slot s := by
  show execTlbia slot a s = _
  simp only [execTlbia, wfield_low, wbit_eq_getLsbD]
  rfl

theorem exec_ctxsv : Sys2Proof.Machine.exec (.ctxsv slot a) s = request (fun i => .ctxsv ((i.getS a).toNat % 64)) slot s := by
  show execCtxsv slot a s = _
  simp only [execCtxsv, wfield_low]
  rfl

theorem exec_ctxrs : Sys2Proof.Machine.exec (.ctxrs slot a b) s =
    request (fun i => .ctxrs ((i.getS a).toNat % 256) ((i.getS b).toNat % 64)) slot s := by
  show execCtxrs slot a b s = _
  simp only [execCtxrs, wfield_low]
  rfl

theorem exec_halt : Sys2Proof.Machine.exec (.halt slot a) s = request (fun i => .halt ((i.getS a).toNat % 256)) slot s := by
  show execHalt slot a s = _
  simp only [execHalt, wfield_low]
  rfl

theorem exec_rply : Sys2Proof.Machine.exec .rply s = actOn 0 (fun _ => 0) s := rfl
theorem exec_rsup : Sys2Proof.Machine.exec (.rsup a) s = actOn 1 (fun i => i.getS a) s := rfl
theorem exec_kill : Sys2Proof.Machine.exec .kill s = actOn 2 (fun _ => 0) s := rfl
theorem exec_frr : Sys2Proof.Machine.exec (.frr d) s = execFrr d s := rfl
theorem exec_rdsr : Sys2Proof.Machine.exec (.rdsr d num) s = execRdsr d num s := rfl
theorem exec_wrsr : Sys2Proof.Machine.exec (.wrsr num a) s = execWrsr num a s := rfl

end

/-- Settles O47: what each form does once the gate of R129 lets it pass, and the gate's fault where it does not. -/
theorem systemForms : Obligations.SystemForms := by
  intro d a b slot num system handler acts asks
  have system_passes (s : State) (i : Inst) (h : system s i) : s.passes i false := .inl h
  have system_of_passes (s : State) (i : Inst) (h : s.passes i false) : system s i := h.resolve_right Bool.false_ne_true
  have asks_of {w : Instr} {r : Inst → SysReq} (hw : ∀ s, Sys2Proof.Machine.exec w s = request r slot s) : asks w r :=
    fun s c i hx hp => RunsWhen.of_request hw s c i hx ⟨system_passes s i hp.1, hp.2⟩
  refine ⟨.of_actOn exec_rply, .of_actOn (exec_rsup a), .of_actOn exec_kill, ?_, ?_, asks_of (exec_tlbi a b slot),
    asks_of (exec_tlbia a slot), asks_of (exec_ctxsv a slot), asks_of (exec_ctxrs a b slot), asks_of (exec_halt a slot),
    fun v => ?_, ?_, ?_, ?_, ?_, ?_, ?_, ?_⟩
  · refine .of_gate (handler := true) (exec_frr d) (fun s i hp => hp) fun s c i _ => ?_
    simp only [State.frameOf_past]
    rcases (s.frameOf i).handler with _ | ⟨_, _ | _⟩ <;> rfl
  · exact .of_gate (exec_killL a) (fun s i hp => system_passes s i hp.1) fun s c i hp => Inst.effect_past hp.2
  · refine .of_lift (exec_rdsr d num) fun s c i ⟨hsite, hv⟩ => ?_
    simp only [Inst.past_site, hsite, if_true, hv]
    rfl
  · refine .of_lift (exec_wrsr a num) fun s c i ⟨hsite, hv, hn⟩ => ?_
    rw [Inst.past_site, if_pos ⟨hsite, hv⟩]
    exact Inst.effect_past hn
  · refine .of_lift (exec_rdsr d num) fun s c i ⟨hsite, hreads, hsys⟩ => ?_
    simp only [Inst.past_site, if_neg hsite, if_pos hreads, systemGate_ok (i := i.past c) (system_passes s i hsys)]
    rfl
  · have traps {w : Instr} {g : State → Inst → Cur → Except Trap Inst}
        (hw : ∀ s, Sys2Proof.Machine.exec w s = lift (fun s i c => do systemGate s i true; g s i c) s) :
        Traps w (fun s i => ¬handler s i) (fun _ _ => { cause := .systemOnly }) := .of_gate hw
    simp only [List.forall_mem_cons]
    exact ⟨traps exec_rply, traps (exec_rsup a), traps exec_kill, traps (exec_frr d), List.forall_mem_nil _⟩
  · have traps {w : Instr} {g : State → Inst → Cur → Except Trap Inst}
        (hw : ∀ s, Sys2Proof.Machine.exec w s = lift (fun s i c => do systemGate s i false; g s i c) s) :
        Traps w (fun s i => ¬system s i) (fun _ _ => { cause := .systemOnly }) :=
      fun s c i hx hp => Traps.of_gate hw s c i hx (mt (system_of_passes s i) hp)
    simp only [List.forall_mem_cons]
    exact ⟨traps (exec_killL a), traps (exec_tlbi a b slot), traps (exec_tlbia a slot), traps (exec_ctxsv a slot),
      traps (exec_ctxrs a b slot), traps (exec_halt a slot), List.forall_mem_nil _⟩
  · refine .of_lift (exec_rdsr d num) fun s c i ⟨hsite, hreads, hsys⟩ => ?_
    simp only [Inst.past_site, if_neg hsite, if_pos hreads,
      systemGate_error (i := i.past c) (mt (system_of_passes s i) hsys)]
    rfl
  · refine .of_lift (exec_rdsr d num) fun s c i hp => ?_
    obtain ⟨hsite, hreads⟩ | ⟨hsite, hreads⟩ := hp
    · simp only [Inst.past_site, if_neg hsite, hreads]
      rfl
    · simp only [Inst.past_site, if_pos hsite, hreads]
      rfl
  · refine .of_lift (exec_wrsr a num) fun s c i hp => ?_
    rw [if_neg]
    · rfl
    · rintro ⟨hsite, hsome⟩
      obtain h | h := hp
      · exact h hsite
      · rw [h] at hsome
        cases hsome

end Sys2Proof.Machine
end

section
/-! The scalar integer instructions (R141 to R148) and the control instructions (R155 to R157): the values that majors 0x01 to
0x07 write, and where majors 0x09 to 0x0C continue. -/

namespace Sys2Proof.Machine

/-- A word whose meaning is a pure change of its instance, said by another function with the same values. -/
theorem Runs.of_pure_eq {w : Instr} {f g : Inst → Inst} (h : ∀ s, Sys2Proof.Machine.exec w s = liftPure f s)
    (hfg : ∀ i, f i = g i) : Runs w g :=
  (funext hfg : f = g) ▸ .of_pure h

/-! ### Comparisons as the rules write them -/

theorem boolWord_decide (p : Prop) [Decidable p] : boolWord (decide p) = if p then 1 else 0 := by
  by_cases h : p <;> simp [boolWord, h]

theorem boolWord_not_decide (p : Prop) [Decidable p] : boolWord (!decide p) = if p then 0 else 1 := by
  by_cases h : p <;> simp [boolWord, h]

theorem signedMin_eq (x y : W64) : signedMin x y = if y.toInt < x.toInt then y else x := by
  simp only [signedMin, BitVec.slt, decide_eq_true_eq]

theorem signedMax_eq (x y : W64) : signedMax x y = if x.toInt < y.toInt then y else x := by
  simp only [signedMax, BitVec.slt, decide_eq_true_eq]

theorem unsignedMin_eq (x y : W64) : unsignedMin x y = if y < x then y else x := by
  simp only [unsignedMin, BitVec.ult, decide_eq_true_eq, BitVec.lt_def]

theorem unsignedMax_eq (x y : W64) : unsignedMax x y = if x < y then y else x := by
  simp only [unsignedMax, BitVec.ult, decide_eq_true_eq, BitVec.lt_def]

/-- Settles O14: each register form writes its value of R142's table. -/
theorem integerRegisterForms : Obligations.IntegerRegisterForms := fun d _ _ _ =>
  ⟨.of_pure fun _ => rfl, .of_pure fun _ => rfl, .of_pure fun _ => rfl, .of_pure fun _ => rfl, .of_pure fun _ => rfl,
    .of_pure fun _ => rfl, .of_pure fun _ => rfl, .of_pure fun _ => rfl, .of_pure fun _ => rfl, .of_pure fun _ => rfl,
    .of_pure fun _ => rfl, .of_pure fun _ => rfl, .of_pure fun _ => rfl, .of_pure fun _ => rfl, .of_pure fun _ => rfl,
    .of_pure fun _ => rfl, .of_pure fun _ => rfl,
    .of_pure_eq (fun _ => rfl) fun i => congrArg (i.setS d) (signedMin_eq _ _),
    .of_pure_eq (fun _ => rfl) fun i => congrArg (i.setS d) (signedMax_eq _ _),
    .of_pure_eq (fun _ => rfl) fun i => congrArg (i.setS d) (unsignedMin_eq _ _),
    .of_pure_eq (fun _ => rfl) fun i => congrArg (i.setS d) (unsignedMax_eq _ _),
    .of_pure fun _ => rfl, .of_pure fun _ => rfl, .of_pure fun _ => rfl⟩

/-! ### Division (R143) -/

theorem divRem_fst (x y : Int) : (divRem x y).1 = if y = 0 then -1 else x.tdiv y := by
  unfold divRem
  split <;> rfl

theorem divRem_snd (x y : Int) : (divRem x y).2 = if y = 0 then x else x - x.tdiv y * y := by
  unfold divRem
  split <;> rfl

/-- Settles O16: the four forms are DivRem, whose corners are those of the sentence of R143. -/
theorem division : Obligations.Division := by
  refine ⟨fun d a b => ⟨?_, ?_, ?_, ?_⟩, by decide, by decide, fun x => ⟨rfl, ?_, rfl, ?_⟩⟩
  · exact .of_pure_eq (fun _ => rfl) fun i => congrArg (fun z => i.setS d (.ofInt 64 z)) (divRem_fst _ _)
  · exact .of_pure_eq (fun _ => rfl) fun i => congrArg (fun z => i.setS d (.ofInt 64 z)) (divRem_snd _ _)
  · exact .of_pure_eq (fun _ => rfl) fun i => congrArg (fun z => i.setS d (.ofInt 64 z)) (divRem_fst _ _)
  · exact .of_pure_eq (fun _ => rfl) fun i => congrArg (fun z => i.setS d (.ofInt 64 z)) (divRem_snd _ _)
  · exact BitVec.ofInt_toInt
  · exact BitVec.ofInt_natCast .. |>.trans (BitVec.ofNat_toNat ..) |>.trans (BitVec.setWidth_eq x)

/-! ### Compares and extensions (R145) -/

/-- Settles O18: each form writes its value of R145's table. -/
theorem compareAndExtend : Obligations.CompareAndExtend := fun d _ _ =>
  ⟨.of_pure_eq (fun _ => rfl) fun i => congrArg (i.setS d) (boolWord_decide _),
    .of_pure_eq (fun _ => rfl) fun i => congrArg (i.setS d) (boolWord_decide _),
    .of_pure_eq (fun _ => rfl) fun i => congrArg (i.setS d) (boolWord_decide _),
    .of_pure_eq (fun _ => rfl) fun i => congrArg (i.setS d) (boolWord_not_decide _),
    .of_pure fun _ => rfl, .of_pure fun _ => rfl, .of_pure fun _ => rfl, .of_pure fun _ => rfl, .of_pure fun _ => rfl,
    .of_pure fun _ => rfl, .of_pure fun _ => rfl⟩

/-! ### Immediates (R146, R147) -/

theorem toInt_signExtend_imm (m : BitVec 27) : (m.signExtend 64).toInt = m.toInt :=
  BitVec.toInt_signExtend_of_le (by decide)

/-- An immediate from 0 to 63 is the shift amount that it stands for. -/
theorem amount_imm {m : BitVec 27} (h : m.toNat ≤ 63) : amount (m.signExtend 64) = m.toNat := by
  have hmsb : m.msb = false := by
    rw [BitVec.msb_eq_decide, decide_eq_false_iff_not]
    omega
  rw [amount, BitVec.signExtend_eq_setWidth_of_msb_false hmsb, BitVec.toNat_setWidth]
  omega

theorem boolWord_slt_imm (x : W64) (m : BitVec 27) :
    boolWord (x.slt (m.signExtend 64)) = if x.toInt < m.toInt then 1 else 0 := by
  rw [← toInt_signExtend_imm]
  exact boolWord_decide _

theorem signedMin_imm (x : W64) (m : BitVec 27) :
    signedMin x (m.signExtend 64) = if m.toInt < x.toInt then m.signExtend 64 else x := by
  rw [signedMin_eq, toInt_signExtend_imm]

theorem signedMax_imm (x : W64) (m : BitVec 27) :
    signedMax x (m.signExtend 64) = if x.toInt < m.toInt then m.signExtend 64 else x := by
  rw [signedMax_eq, toInt_signExtend_imm]

section
variable (d a : Reg) (m : BitVec 27) (s : State)

theorem exec_sltI64Imm : Sys2Proof.Machine.exec (.sltI64Imm d a m) s = intImm (fun x y => boolWord (x.slt y)) d a m s := rfl
theorem exec_sltN64Imm : Sys2Proof.Machine.exec (.sltN64Imm d a m) s = intImm (fun x y => boolWord (x.ult y)) d a m s := rfl
theorem exec_seqImm : Sys2Proof.Machine.exec (.seqImm d a m) s = intImm (fun x y => boolWord (x == y)) d a m s := rfl
theorem exec_sneImm : Sys2Proof.Machine.exec (.sneImm d a m) s = intImm (fun x y => boolWord (x != y)) d a m s := rfl
theorem exec_minI64Imm : Sys2Proof.Machine.exec (.minI64Imm d a m) s = intImm signedMin d a m s := rfl
theorem exec_maxI64Imm : Sys2Proof.Machine.exec (.maxI64Imm d a m) s = intImm signedMax d a m s := rfl
theorem exec_shlImm : Sys2Proof.Machine.exec (.shlImm d a m) s = intImm (fun x y => x <<< amount y) d a m s := rfl
theorem exec_shrImm : Sys2Proof.Machine.exec (.shrImm d a m) s = intImm (fun x y => x >>> amount y) d a m s := rfl
theorem exec_sraImm : Sys2Proof.Machine.exec (.sraImm d a m) s = intImm (fun x y => x.sshiftRight (amount y)) d a m s := rfl
theorem exec_rorImm : Sys2Proof.Machine.exec (.rorImm d a m) s = intImm (fun x y => x.rotateRight (amount y)) d a m s := rfl
theorem exec_rds (x : Special) :
    Sys2Proof.Machine.exec (.rds d x) s = lift (fun s i _ => .ok (i.setS d (specialValue s i x))) s := rfl

end

/-- Settles O19: each form writes its value of R146 to R148. -/
theorem immediateForms : Obligations.ImmediateForms := by
  refine ⟨fun d a m => ⟨.of_pure fun _ => rfl, .of_pure fun _ => rfl, .of_pure fun _ => rfl, .of_pure fun _ => rfl,
    .of_pure fun _ => rfl, ?_, ?_, ?_, ?_, ?_, ?_, fun hm => ⟨?_, ?_, ?_, ?_⟩⟩,
    fun d m => ⟨.of_pure fun _ => rfl, .of_pure fun _ => rfl⟩,
    fun d x => .of_lift (fun s => exec_rds d s x) fun s c i _ => by cases x <;> rfl⟩
  · exact .of_pure_eq (exec_sltI64Imm d a m) fun i => congrArg (i.setS d) (boolWord_slt_imm _ m)
  · exact .of_pure_eq (exec_sltN64Imm d a m) fun i => congrArg (i.setS d) (boolWord_decide _)
  · exact .of_pure_eq (exec_seqImm d a m) fun i => congrArg (i.setS d) (boolWord_decide _)
  · exact .of_pure_eq (exec_sneImm d a m) fun i => congrArg (i.setS d) (boolWord_not_decide _)
  · exact .of_pure_eq (exec_minI64Imm d a m) fun i => congrArg (i.setS d) (signedMin_imm _ m)
  · exact .of_pure_eq (exec_maxI64Imm d a m) fun i => congrArg (i.setS d) (signedMax_imm _ m)
  · exact .of_pure_eq (exec_shlImm d a m) fun i => congrArg (fun n => i.setS d (i.getS a <<< n)) (amount_imm hm)
  · exact .of_pure_eq (exec_shrImm d a m) fun i => congrArg (fun n => i.setS d (i.getS a >>> n)) (amount_imm hm)
  · exact .of_pure_eq (exec_sraImm d a m) fun i => congrArg (fun n => i.setS d ((i.getS a).sshiftRight n)) (amount_imm hm)
  · exact .of_pure_eq (exec_rorImm d a m) fun i => congrArg (fun n => i.setS d ((i.getS a).rotateRight n)) (amount_imm hm)

/-! ### Branches (R155 to R157) -/

/-- A compare and branch whose test says `p` of the instance before the word. -/
theorem branchIf_runs {w : Instr} {t : Inst → Bool} {o : BitVec 27} {p : Inst → Prop}
    (hw : ∀ s, Sys2Proof.Machine.exec w s = branchIf t o s) (hp : ∀ i c, t (i.past c) = true ↔ p i) :
    RunsWhen w (fun _ i => p i) (fun _ c i => { i with pc := c.addr + o.signExtend 72 * 4 }) ∧
      RunsWhen w (fun _ i => ¬p i) (fun _ _ i => i) := by
  refine ⟨.of_lift hw fun s c i h => ?_, .of_lift hw fun s c i h => ?_⟩
  · rw [if_pos ((hp i c).mpr h)]
    rfl
  · rw [if_neg (mt (hp i c).mp h)]

theorem slt_iff (x y : W64) : x.slt y = true ↔ x.toInt < y.toInt := decide_eq_true_iff
theorem not_slt_iff (x y : W64) : (!x.slt y) = true ↔ y.toInt ≤ x.toInt := by simp [BitVec.slt]
theorem ult_iff (x y : W64) : x.ult y = true ↔ x.toNat < y.toNat := decide_eq_true_iff
theorem not_ult_iff (x y : W64) : (!x.ult y) = true ↔ y.toNat ≤ x.toNat := by simp [BitVec.ult]

theorem toInt_signExtend_imm5 (b : BitVec 5) : (b.signExtend 64).toInt = b.toInt :=
  BitVec.toInt_signExtend_of_le (by decide)

section
variable (a b : Reg) (n : BitVec 5) (o : BitVec 27) (s : State)

theorem exec_beq : Sys2Proof.Machine.exec (.beq a b o) s = branchReg (· == ·) a b o s := rfl
theorem exec_bne : Sys2Proof.Machine.exec (.bne a b o) s = branchReg (· != ·) a b o s := rfl
theorem exec_bltI64 : Sys2Proof.Machine.exec (.bltI64 a b o) s = branchReg BitVec.slt a b o s := rfl
theorem exec_bgeI64 : Sys2Proof.Machine.exec (.bgeI64 a b o) s = branchReg (fun x y => !x.slt y) a b o s := rfl
theorem exec_bltN64 : Sys2Proof.Machine.exec (.bltN64 a b o) s = branchReg BitVec.ult a b o s := rfl
theorem exec_bgeN64 : Sys2Proof.Machine.exec (.bgeN64 a b o) s = branchReg (fun x y => !x.ult y) a b o s := rfl
theorem exec_bbs : Sys2Proof.Machine.exec (.bbs a b o) s = branchReg bitSet a b o s := rfl
theorem exec_bbc : Sys2Proof.Machine.exec (.bbc a b o) s = branchReg (fun x y => !bitSet x y) a b o s := rfl
theorem exec_beqImm : Sys2Proof.Machine.exec (.beqImm a n o) s = branchImm (· == ·) a n o s := rfl
theorem exec_bneImm : Sys2Proof.Machine.exec (.bneImm a n o) s = branchImm (· != ·) a n o s := rfl
theorem exec_bltI64Imm : Sys2Proof.Machine.exec (.bltI64Imm a n o) s = branchImm BitVec.slt a n o s := rfl
theorem exec_bgeI64Imm : Sys2Proof.Machine.exec (.bgeI64Imm a n o) s = branchImm (fun x y => !x.slt y) a n o s := rfl
theorem exec_bltN64Imm : Sys2Proof.Machine.exec (.bltN64Imm a n o) s = branchImm BitVec.ult a n o s := rfl
theorem exec_bgeN64Imm : Sys2Proof.Machine.exec (.bgeN64Imm a n o) s = branchImm (fun x y => !x.ult y) a n o s := rfl
theorem exec_bbsImm : Sys2Proof.Machine.exec (.bbsImm a n o) s = branchIf (fun i => (i.getS a).getLsbD n.toNat) o s := rfl
theorem exec_bbcImm : Sys2Proof.Machine.exec (.bbcImm a n o) s = branchIf (fun i => !(i.getS a).getLsbD n.toNat) o s := rfl

end

theorem exec_j (o : BitVec 35) (s : State) :
    Sys2Proof.Machine.exec (.j o) s = lift (fun _ i c => .ok { i with pc := c.addr + o.signExtend 72 * 4 }) s := rfl

theorem exec_jt (a : Reg) (m : BitVec 10) (s : State) : Sys2Proof.Machine.exec (.jt a m) s = lift (fun _ i c => .ok { i with
    pc := c.addr + BitVec.ofNat 72 (4 + 4 * if (i.getS a).toNat < m.toNat + 1 then (i.getS a).toNat else m.toNat + 1) }) s := rfl

/-- The address of entry `k` of the table behind a `jt` (R157). -/
theorem jt_address (x : VAddr) (k : Nat) : x + BitVec.ofNat 72 (4 + 4 * k) = x + 4 + BitVec.ofNat 72 (4 * k) := by
  rw [BitVec.ofNat_add, BitVec.add_assoc]
  rfl

/-- Settles O25: each branch by its test, `j` and `jt` by their targets. -/
theorem branchesAndJumps : Obligations.BranchesAndJumps := by
  refine ⟨fun a b o => ⟨?_, ?_, ?_, ?_, ?_, ?_, ?_, ?_⟩, fun a b o => ⟨?_, ?_, ?_, ?_, ?_, ?_, ?_, ?_⟩,
    fun o => .of_lift (exec_j o) fun _ _ _ _ => rfl, fun a m => ⟨.of_lift (exec_jt a m) fun s c i h => ?_,
      .of_lift (exec_jt a m) fun s c i h => ?_⟩⟩
  · exact branchIf_runs (exec_beq a b o) fun _ _ => beq_iff_eq
  · exact branchIf_runs (exec_bne a b o) fun _ _ => bne_iff_ne
  · exact branchIf_runs (exec_bltI64 a b o) fun _ _ => slt_iff _ _
  · exact branchIf_runs (exec_bgeI64 a b o) fun _ _ => not_slt_iff _ _
  · exact branchIf_runs (exec_bltN64 a b o) fun _ _ => ult_iff _ _
  · exact branchIf_runs (exec_bgeN64 a b o) fun _ _ => not_ult_iff _ _
  · exact branchIf_runs (exec_bbs a b o) fun _ _ => Iff.rfl
  · exact branchIf_runs (exec_bbc a b o) fun _ _ => iff_of_eq (Bool.not_eq_true' _)
  · exact branchIf_runs (exec_beqImm a b o) fun _ _ => beq_iff_eq
  · exact branchIf_runs (exec_bneImm a b o) fun _ _ => bne_iff_ne
  · exact branchIf_runs (exec_bltI64Imm a b o) fun _ _ => toInt_signExtend_imm5 b ▸ slt_iff _ _
  · exact branchIf_runs (exec_bgeI64Imm a b o) fun _ _ => toInt_signExtend_imm5 b ▸ not_slt_iff _ _
  · exact branchIf_runs (exec_bltN64Imm a b o) fun _ _ => ult_iff _ _
  · exact branchIf_runs (exec_bgeN64Imm a b o) fun _ _ => not_ult_iff _ _
  · exact branchIf_runs (exec_bbsImm a b o) fun _ _ => Iff.rfl
  · exact branchIf_runs (exec_bbcImm a b o) fun _ _ => iff_of_eq (Bool.not_eq_true' _)
  · rw [Inst.past_getS, if_pos h, jt_address]
  · rw [Inst.past_getS, if_neg (not_lt.mpr h), jt_address]

end Sys2Proof.Machine
end

section
/-! The counts, high products and byte swap of R142 and R145, and the carry-less product and bit permutations of R144, against
what the rules say by bits. -/

namespace Sys2Proof.Machine

/-! ### Counts (R142) -/

theorem leadingZeros_of_ne_zero {x : W64} (h : x ≠ 0) : x.toNat.log2 ≤ 63 ∧ leadingZeros 64 x.toNat = 63 - x.toNat.log2 := by
  have h0 : x.toNat ≠ 0 := fun hz => h (BitVec.eq_of_toNat_eq hz)
  exact ⟨Nat.le_of_lt_succ ((Nat.log2_lt h0).mpr x.isLt), if_neg h0⟩

theorem leadingZeros_spec {x : W64} (h : x ≠ 0) :
    leadingZeros 64 x.toNat ≤ 63 ∧ x.getLsbD (63 - leadingZeros 64 x.toNat) = true ∧
      ∀ k, 63 - leadingZeros 64 x.toNat < k → x.getLsbD k = false := by
  obtain ⟨hle, hz⟩ := leadingZeros_of_ne_zero h
  have h0 : x.toNat ≠ 0 := fun hz => h (BitVec.eq_of_toNat_eq hz)
  have htop : 63 - (63 - x.toNat.log2) = x.toNat.log2 := by omega
  rw [hz, htop]
  refine ⟨by omega, Nat.testBit_log2 h0, fun k hk => ?_⟩
  exact Nat.testBit_lt_two_pow ((Nat.log2_lt h0).mp hk)

theorem trailingZeros_zero (n : Nat) : trailingZeros n 0 = n := by
  induction n with
  | zero => rfl
  | succ n ih => rw [trailingZeros, if_neg (by decide), Nat.zero_div, ih, Nat.add_comm]

theorem trailingZeros_spec {n a : Nat} (h0 : a ≠ 0) (h : a < 2 ^ n) :
    a.testBit (trailingZeros n a) = true ∧ ∀ k, k < trailingZeros n a → a.testBit k = false := by
  induction n generalizing a with
  | zero => omega
  | succ n ih =>
    rw [trailingZeros]
    split
    case isTrue hodd => exact ⟨by simp [Nat.testBit_zero, hodd], fun k hk => absurd hk (Nat.not_lt_zero k)⟩
    case isFalse heven =>
      obtain ⟨hbit, hbelow⟩ := ih (a := a / 2) (by omega) (by omega)
      rw [Nat.add_comm, Nat.testBit_succ]
      refine ⟨hbit, fun k hk => ?_⟩
      cases k with
      | zero => simp [Nat.testBit_zero, heven]
      | succ k =>
        rw [Nat.testBit_succ]
        exact hbelow k (by omega)

theorem popCount_eq (n a : Nat) : popCount n a = ((List.range n).filter a.testBit).length := by
  induction n generalizing a with
  | zero => rfl
  | succ n ih =>
    have hstep : ((List.range n).map Nat.succ).filter a.testBit = ((List.range n).filter (a / 2).testBit).map Nat.succ := by
      rw [List.filter_map]
      congr 2
      funext k
      exact Nat.testBit_succ a k
    rw [popCount, ih, List.range_succ_eq_map, List.filter_cons, hstep, Nat.testBit_zero]
    rcases Nat.mod_two_eq_zero_or_one a with h | h <;> simp [h, Nat.add_comm]

/-! ### High products (R142) -/

theorem mulHighUnsigned_spec (x y : W64) :
    (mulHighUnsigned x y).toNat * 2 ^ 64 + (x * y).toNat = x.toNat * y.toNat := by
  have hlt : x.toNat * y.toNat < 2 ^ 64 * 2 ^ 64 := Nat.mul_lt_mul'' x.isLt y.isLt
  rw [mulHighUnsigned, BitVec.toNat_ofNat, BitVec.toNat_mul, Nat.mod_eq_of_lt (Nat.div_lt_of_lt_mul hlt), Nat.mul_comm,
    Nat.div_add_mod]

/-- The product of two signed words lies within 126 bits and its sign. -/
theorem signed_product_bounds (x y : W64) : -(2 ^ 126 : Int) ≤ x.toInt * y.toInt ∧ x.toInt * y.toInt ≤ 2 ^ 126 := by
  have habs (z : W64) : |z.toInt| ≤ 2 ^ 63 := abs_le.mpr ⟨z.le_toInt, z.toInt_lt.le⟩
  rw [← abs_le, abs_mul]
  exact mul_le_mul (habs x) (habs y) (abs_nonneg _) (by decide)

theorem mulHighSigned_spec (x y : W64) :
    (mulHighSigned x y).toInt * 2 ^ 64 + (x * y).toNat = x.toInt * y.toInt := by
  obtain ⟨hlow, hup⟩ := signed_product_bounds x y
  have hhigh : (mulHighSigned x y).toInt = x.toInt * y.toInt / 2 ^ 64 := by
    rw [mulHighSigned, BitVec.toInt_ofInt]
    exact Int.bmod_eq_of_le (by omega) (by omega)
  have hprod : ((x * y).toNat : Int) = x.toInt * y.toInt % 2 ^ 64 := by
    have hxy : x * y = BitVec.ofInt 64 (x.toInt * y.toInt) := by
      rw [BitVec.ofInt_mul, BitVec.ofInt_toInt, BitVec.ofInt_toInt]
    rw [hxy, BitVec.toNat_ofInt, Int.toNat_of_nonneg (Int.emod_nonneg _ (by decide))]
    rfl
  rw [hhigh, hprod, mul_comm, Int.mul_ediv_add_emod]

/-! ### Bytes of little-endian numbers (R3, R145) -/

theorem numberOf_byte (bs : List Byte) (k : Nat) : numberOf bs / 256 ^ k % 256 = (bs.getD k 0).toNat := by
  induction bs generalizing k with
  | nil => simp [numberOf]
  | cons b bs ih =>
    have hstep : numberOf (b :: bs) = b.toNat + 256 * numberOf bs := rfl
    cases k with
    | zero =>
      rw [hstep, pow_zero, Nat.div_one, Nat.add_mul_mod_self_left, Nat.mod_eq_of_lt b.isLt]
      rfl
    | succ k =>
      rw [hstep, pow_succ', ← Nat.div_div_eq_div_mul, Nat.add_mul_div_left _ _ (by decide), Nat.div_eq_of_lt b.isLt, Nat.zero_add,
        ih, List.getD_cons_succ]

theorem byteSwap_eq (x : W64) :
    byteSwap x = BitVec.ofNat 64 (numberOf ((upFrom 0 8).map (fun k => x.extractLsb' (8 * (7 - k)) 8))) := by
  rw [byteSwap, numberOf, List.foldr_map]
  congr 3
  funext k acc
  rw [BitVec.extractLsb'_toNat, Nat.shiftRight_eq_div_pow, pow_mul]
  rfl

theorem extractLsb'_ofNat_byte (n : Nat) {k : Nat} (hk : k < 8) :
    (BitVec.ofNat 64 n).extractLsb' (8 * k) 8 = BitVec.ofNat 8 (n / 256 ^ k) := by
  have hpow : (256 : Nat) ^ k = 2 ^ (8 * k) := (pow_mul 2 8 k).symm
  refine BitVec.eq_of_getLsbD_eq fun i hi => ?_
  rw [BitVec.getLsbD_extractLsb', BitVec.getLsbD_ofNat, BitVec.getLsbD_ofNat, hpow, Nat.testBit_div_two_pow, Nat.add_comm (8 * k)]
  simp [hi, show i + 8 * k < 64 by omega]

theorem byteSwap_byte (x : W64) {k : Nat} (hk : k < 8) :
    (byteSwap x).extractLsb' (8 * k) 8 = x.extractLsb' (8 * (7 - k)) 8 := by
  refine BitVec.eq_of_toNat_eq ?_
  rw [byteSwap_eq, extractLsb'_ofNat_byte _ hk, BitVec.toNat_ofNat, numberOf_byte, getD_map_upFrom _ _ hk]

/-- Settles O15: each count, product and swap by its lemma. -/
theorem bitCounts : Obligations.BitCounts := by
  refine fun x y => ⟨?_, leadingZeros_spec, ?_, fun h => ?_, popCount_eq 64 x.toNat, mulHighUnsigned_spec x y,
    mulHighSigned_spec x y, fun k hk => byteSwap_byte x hk⟩
  · rintro rfl
    rfl
  · rintro rfl
    exact trailingZeros_zero 64
  · exact trailingZeros_spec (fun hz => h (BitVec.eq_of_toNat_eq hz)) x.isLt

/-! ### The loops of R144 -/

theorem getLsbD_iff_mod (b : W64) (i : Nat) : b.getLsbD i = true ↔ b.toNat / 2 ^ i % 2 = 1 := by
  rw [BitVec.getLsbD, Nat.testBit_eq_decide_div_mod_eq, decide_eq_true_iff]

theorem div_two_pow_succ (n i : Nat) : n / 2 ^ (i + 1) = n / 2 ^ i / 2 := by
  rw [pow_succ, Nat.div_div_eq_div_mul]

/-- CarrylessProduct of R144 from bit `lo` on. -/
theorem foldl_carryless (a b : W64) (n lo : Nat) (p : BitVec 128) :
    (List.range' lo n).foldl (fun p i => if b.getLsbD i then p ^^^ (a.setWidth 128 <<< i) else p) p =
      p ^^^ BitVec.ofNat 128 (carryless n (a.toNat * 2 ^ lo) (b.toNat / 2 ^ lo)) := by
  induction n generalizing lo p with
  | zero => simp [carryless]
  | succ n ih =>
    have hshift : a.setWidth 128 <<< lo = BitVec.ofNat 128 (a.toNat * 2 ^ lo) :=
      BitVec.eq_of_toNat_eq (by simp [Nat.shiftLeft_eq])
    have hnext : a.toNat * 2 ^ (lo + 1) = 2 * (a.toNat * 2 ^ lo) := by ring
    rw [List.range'_succ, List.foldl_cons, ih, carryless, hnext, div_two_pow_succ, BitVec.ofNat_xor, ← BitVec.xor_assoc]
    by_cases hb : b.getLsbD lo = true
    · rw [if_pos hb, if_pos ((getLsbD_iff_mod b lo).mp hb), hshift]
    · rw [if_neg hb, if_neg (mt (getLsbD_iff_mod b lo).mpr hb), BitVec.xor_zero]

theorem ofNat_shiftLeft (n k : Nat) : BitVec.ofNat 64 n <<< k = BitVec.ofNat 64 (n <<< k) :=
  BitVec.eq_of_toNat_eq (by simp [Nat.shiftLeft_eq])

/-- A bit of a word below a number, at the place where the loops of R144 put it. -/
theorem ofNat_bit_shiftLeft (a : W64) (i r k : Nat) : BitVec.ofNat 64 (a.toNat / 2 ^ i % 2 + 2 * r) <<< k =
    (((if a.getLsbD i then 1 else 0) <<< k : Nat) : W64) ||| (BitVec.ofNat 64 r <<< (k + 1)) := by
  have hbit : (if a.getLsbD i then 1 else 0) = a.toNat / 2 ^ i % 2 := by
    simp only [getLsbD_iff_mod]
    split <;> omega
  have hor : a.toNat / 2 ^ i % 2 + 2 * r = r <<< 1 ||| a.toNat / 2 ^ i % 2 := by
    rw [Nat.add_comm, Nat.shiftLeft_eq, Nat.mul_comm r]
    exact Nat.two_pow_add_eq_or_of_lt (i := 1) (Nat.mod_lt _ two_pos) r
  rw [hbit, hor, BitVec.natCast_eq_ofNat, ofNat_shiftLeft, ofNat_shiftLeft, Nat.shiftLeft_or_distrib, BitVec.ofNat_or,
    BitVec.or_comm, ← Nat.shiftLeft_add, Nat.add_comm 1]

/-- BitGather of R144 from bit `lo` on, with `k` bits placed. -/
theorem foldl_gather (a m : W64) (n lo : Nat) (v : W64) (k : Nat) :
    ((List.range' lo n).foldl (fun (v, k) i => if m.getLsbD i then (v ||| ((if a.getLsbD i then 1 else 0) <<< k), k + 1)
      else (v, k)) (v, k)).1 =
      v ||| (BitVec.ofNat 64 (bitGather n (a.toNat / 2 ^ lo) (m.toNat / 2 ^ lo)) <<< k) := by
  induction n generalizing lo v k with
  | zero => simp [bitGather]
  | succ n ih =>
    rw [List.range'_succ, List.foldl_cons, bitGather, ← div_two_pow_succ, ← div_two_pow_succ]
    dsimp only
    by_cases hm : m.getLsbD lo = true
    · rw [if_pos hm, ih, if_pos ((getLsbD_iff_mod m lo).mp hm), ofNat_bit_shiftLeft, BitVec.or_assoc]
    · rw [if_neg hm, ih, if_neg (mt (getLsbD_iff_mod m lo).mpr hm)]

/-- BitScatter of R144 from bit `lo` on, with `k` bits taken. -/
theorem foldl_scatter (a m : W64) (n lo : Nat) (v : W64) (k : Nat) :
    ((List.range' lo n).foldl (fun (v, k) i => if m.getLsbD i then (v ||| ((if a.getLsbD k then 1 else 0) <<< i), k + 1)
      else (v, k)) (v, k)).1 =
      v ||| (BitVec.ofNat 64 (bitScatter n (a.toNat / 2 ^ k) (m.toNat / 2 ^ lo)) <<< lo) := by
  induction n generalizing lo v k with
  | zero => simp [bitScatter]
  | succ n ih =>
    rw [List.range'_succ, List.foldl_cons, bitScatter, ← div_two_pow_succ, ← div_two_pow_succ]
    dsimp only
    by_cases hm : m.getLsbD lo = true
    · rw [if_pos hm, ih, if_pos ((getLsbD_iff_mod m lo).mp hm), ofNat_bit_shiftLeft, BitVec.or_assoc]
    · rw [if_neg hm, ih, if_neg (mt (getLsbD_iff_mod m lo).mpr hm), ofNat_shiftLeft, ofNat_shiftLeft, Nat.shiftLeft_succ_inside]

theorem extractLsb'_ofNat_low (n : Nat) : (BitVec.ofNat 128 n).extractLsb' 0 64 = BitVec.ofNat 64 n := by
  refine BitVec.eq_of_toNat_eq ?_
  rw [BitVec.extractLsb'_toNat, BitVec.toNat_ofNat, BitVec.toNat_ofNat]
  omega

theorem extractLsb'_ofNat_high (n : Nat) : (BitVec.ofNat 128 n).extractLsb' 64 64 = BitVec.ofNat 64 (n / 2 ^ 64) := by
  refine BitVec.eq_of_toNat_eq ?_
  rw [BitVec.extractLsb'_toNat, BitVec.toNat_ofNat, BitVec.toNat_ofNat, Nat.shiftRight_eq_div_pow]
  omega

/-- Settles O17: each loop from bit 0 on, nothing placed. -/
theorem carrylessAndBitPermutation : Obligations.CarrylessAndBitPermutation := by
  unfold Obligations.CarrylessAndBitPermutation
  intro product gather scatter d a b
  have hproduct (x y : W64) : product x y = BitVec.ofNat 128 (carryless 64 x.toNat y.toNat) := by
    have h := foldl_carryless x y 64 0 0#128
    rwa [BitVec.zero_xor, pow_zero, Nat.mul_one, Nat.div_one, ← List.range_eq_range'] at h
  have hgather (x y : W64) : (gather x y).1 = BitVec.ofNat 64 (bitGather 64 x.toNat y.toNat) := by
    have h := foldl_gather x y 64 0 0#64 0
    rwa [BitVec.zero_or, pow_zero, Nat.div_one, Nat.div_one, BitVec.shiftLeft_zero, ← List.range_eq_range'] at h
  have hscatter (x y : W64) : (scatter x y).1 = BitVec.ofNat 64 (bitScatter 64 x.toNat y.toNat) := by
    have h := foldl_scatter x y 64 0 0#64 0
    rwa [BitVec.zero_or, pow_zero, Nat.div_one, Nat.div_one, BitVec.shiftLeft_zero, ← List.range_eq_range'] at h
  have hlow (x y : W64) : (product x y).extractLsb' 0 64 = BitVec.ofNat 64 (carryless 64 x.toNat y.toNat) := by
    rw [hproduct, extractLsb'_ofNat_low]
  have hhigh (x y : W64) : (product x y).extractLsb' 64 64 = BitVec.ofNat 64 (carryless 64 x.toNat y.toNat / 2 ^ 64) := by
    rw [hproduct, extractLsb'_ofNat_high]
  exact ⟨.of_pure_eq (fun _ => rfl) fun i => congrArg (i.setS d) (hlow _ _).symm,
    .of_pure_eq (fun _ => rfl) fun i => congrArg (i.setS d) (hhigh _ _).symm,
    .of_pure_eq (fun _ => rfl) fun i => congrArg (i.setS d) (hgather _ _).symm,
    .of_pure_eq (fun _ => rfl) fun i => congrArg (i.setS d) (hscatter _ _).symm⟩

end Sys2Proof.Machine
end

section
/-! Pending writes (R139): what an instance's later reads see of each effect that it appends. -/

namespace Sys2Proof.Machine

section
variable (i : Inst)

/-! ### Data words -/

theorem Inst.pendingWord_frameWord (k : Nat) (w : W64) (n : Nat) :
    (i.withEffect (.frameWord k w)).pendingWord n = if n = k then some w else i.pendingWord n := by
  simp only [Inst.pendingWord, Inst.withEffect, List.foldl_append, List.foldl_cons, List.foldl_nil, eq_comm (a := k)]

theorem Inst.pendingWord_frameVector (j : Nat) (v : VWord) (n : Nat) :
    (i.withEffect (.frameVector j v)).pendingWord n =
      if 64 + 32 * j ≤ n ∧ n < 96 + 32 * j then some (v.extractLsb' (64 * (n - 64 - 32 * j)) 64) else i.pendingWord n := by
  simp only [Inst.pendingWord, Inst.withEffect, List.foldl_append, List.foldl_cons, List.foldl_nil]

theorem Inst.pendingWord_scratch (bs : List (Nat × Byte)) (n : Nat) :
    (i.withEffect (.scratch bs)).pendingWord n = i.pendingWord n := by
  simp only [Inst.pendingWord, Inst.withEffect, List.foldl_append, List.foldl_cons, List.foldl_nil]

/-! ### Scratch bytes -/

theorem Inst.pendingByte_frameWord (k : Nat) (w : W64) (o : Nat) :
    (i.withEffect (.frameWord k w)).pendingByte o = i.pendingByte o := by
  simp only [Inst.pendingByte, Inst.withEffect, List.foldl_append, List.foldl_cons, List.foldl_nil]

theorem Inst.pendingByte_frameVector (j : Nat) (v : VWord) (o : Nat) :
    (i.withEffect (.frameVector j v)).pendingByte o = i.pendingByte o := by
  simp only [Inst.pendingByte, Inst.withEffect, List.foldl_append, List.foldl_cons, List.foldl_nil]

theorem Inst.pendingByte_scratch (bs : List (Nat × Byte)) (o : Nat) :
    (i.withEffect (.scratch bs)).pendingByte o =
      bs.foldl (fun acc b => if b.1 = o then some b.2 else acc) (i.pendingByte o) := by
  simp only [Inst.pendingByte, Inst.withEffect, List.foldl_append, List.foldl_cons, List.foldl_nil]

end

theorem bytesAt_succ_last (o n v : Nat) : bytesAt o (n + 1) v = bytesAt o n v ++ [(o + n, BitVec.ofNat 8 (v / 256 ^ n))] := by
  rw [bytesAt, upFrom_succ_last, List.map_append]
  rfl

/-- The latest byte that a number written at `o` leaves at `p`. -/
theorem foldl_bytesAt (o n v p : Nat) (x : Option Byte) :
    (bytesAt o n v).foldl (fun acc b => if b.1 = p then some b.2 else acc) x =
      if o ≤ p ∧ p < o + n then some (BitVec.ofNat 8 (v / 256 ^ (p - o))) else x := by
  induction n with
  | zero => exact (if_neg (by omega)).symm
  | succ n ih =>
    rw [bytesAt_succ_last, List.foldl_append, ih, List.foldl_cons, List.foldl_nil]
    by_cases hp : o + n = p
    · rw [if_pos hp, if_pos (by omega), ← hp, Nat.add_sub_cancel_left]
    · rw [if_neg hp]
      exact if_congr (by omega) rfl rfl

/-- Settles O26: each kind of effect by its lemma. -/
theorem pendingWritesReadBack : Obligations.PendingWritesReadBack := by
  refine fun i => ⟨i.pendingWord_frameWord, i.pendingByte_frameWord, fun j v m hm => ?_, fun j v n hn => ?_,
    i.pendingByte_frameVector, fun o n v k hk => ?_, fun o n v p hp => ?_, i.pendingWord_scratch⟩
  · rw [i.pendingWord_frameVector, if_pos (by omega), show 64 + 32 * j + m - 64 - 32 * j = m by omega]
  · rw [i.pendingWord_frameVector, if_neg hn]
  · rw [i.pendingByte_scratch, foldl_bytesAt, if_pos (by omega), Nat.add_sub_cancel_left]
  · rw [i.pendingByte_scratch, foldl_bytesAt, if_neg hp]

end Sys2Proof.Machine
end

section
/-! Frame words and scratch bytes as an instruction reads them, with the faults of a place out of range and of poison (R80, R104,
R139, R159, R160, R162 to R164). -/

namespace Sys2Proof.Machine

/-! ### Checks in order -/

theorem mapM_eq_ok {ε α β : Type} {f : α → Except ε β} {g : α → β} {l : List α} (h : ∀ x ∈ l, f x = .ok (g x)) :
    l.mapM f = .ok (l.map g) := by
  induction l with
  | nil => rfl
  | cons x l ih =>
    rw [List.mapM_cons, h x List.mem_cons_self, ih (fun y hy => h y (List.mem_cons_of_mem _ hy))]
    rfl

theorem exists_mapM_eq_ok {ε α β : Type} {f : α → Except ε β} {l : List α} (h : ∀ x ∈ l, ∃ y, f x = .ok y) :
    ∃ ys, l.mapM f = .ok ys := by
  induction l with
  | nil => exact ⟨[], rfl⟩
  | cons x l ih =>
    obtain ⟨y, hy⟩ := h x List.mem_cons_self
    obtain ⟨ys, hys⟩ := ih fun z hz => h z (List.mem_cons_of_mem _ hz)
    exact ⟨y :: ys, by rw [List.mapM_cons, hy, hys]; rfl⟩

/-- The first number of a range at which a check fails decides. -/
theorem mapM_upFrom_eq_error {ε β : Type} {f : Nat → Except ε β} {lo n j : Nat} {t : ε} (hlo : lo ≤ j) (hj : j < lo + n)
    (hok : ∀ l, lo ≤ l → l < j → ∃ y, f l = .ok y) (ht : f j = .error t) : (upFrom lo n).mapM f = .error t := by
  induction n generalizing lo with
  | zero => omega
  | succ n ih =>
    rw [upFrom, List.mapM_cons]
    by_cases h : lo = j
    · rw [h, ht]
      rfl
    · obtain ⟨y, hy⟩ := hok lo le_rfl (by omega)
      rw [hy, ih (by omega) (by omega) (fun l hl => hok l (by omega))]
      rfl

theorem upFrom_eq_map_add (lo n : Nat) : upFrom lo n = (upFrom 0 n).map (lo + ·) := by
  rw [upFrom_eq_range', upFrom_eq_range', List.map_add_range', Nat.add_zero]

/-! ### Frame words -/

section
variable {f : Frame} {k j : Nat} {x : Int}

theorem frameIndex_ok (h : k < f.desc.words) : frameIndex f k = .ok k :=
  if_pos ⟨Int.natCast_nonneg k, Int.ofNat_lt.mpr h⟩

theorem frameIndex_error (h : x < 0 ∨ f.desc.words ≤ x) :
    frameIndex f x = .error { cause := .frameRange, value := BitVec.ofInt 64 x } :=
  if_neg (by omega)

theorem vectorIndex_ok (hl : f.desc.large = true) (hj : j ≤ 5) : vectorIndex f j = .ok j :=
  if_pos ⟨hl, Int.natCast_nonneg j, by omega⟩

theorem vectorIndex_error (h : f.desc.large = false ∨ x < 0 ∨ 5 < x) :
    vectorIndex f x = .error { cause := .frameRange, value := BitVec.ofInt 64 x } := by
  refine if_neg fun ⟨hl, h0, h5⟩ => ?_
  rw [hl] at h
  obtain h | h | h := h
  · cases h
  · omega
  · omega

end

theorem readWord_of_unseen {s : State} {i : Inst} {k : Nat} (h : s.wordSeen i k = none) :
    readWord (s.frameOf i) i k = .error { cause := .poisonConsumed } := by
  unfold State.wordSeen at h
  unfold readWord
  split at h
  case h_1 => cases h
  case h_2 =>
    split at h
    case isTrue hpoison => rw [if_pos hpoison]
    case isFalse => cases h

/-- A vector word is the one whose 64-bit parts are the data words (R21). -/
theorem wordsVector_parts (v : VWord) : wordsVector ((upFrom 0 32).map (fun n => v.extractLsb' (64 * n) 64)) = v := by
  refine BitVec.eq_of_getLsbD_eq fun n hn => ?_
  rw [getLsbD_wordsVector _ hn, getD_map_upFrom _ _ (by omega), BitVec.getLsbD_extractLsb', Nat.div_add_mod]
  simp [Nat.mod_lt]

theorem readVector_ok {s : State} {i : Inst} {j : Nat} {v : VWord}
    (h : ∀ n, n < 32 → s.wordSeen i (64 + 32 * j + n) = some (v.extractLsb' (64 * n) 64)) :
    readVector (s.frameOf i) i j = .ok v := by
  have hseen : (upFrom (64 + 32 * j) 32).map (s.wordSeen i) =
      ((upFrom 0 32).map (fun n => v.extractLsb' (64 * n) 64)).map some := by
    rw [upFrom_eq_map_add, List.map_map, List.map_map]
    exact List.map_congr_left fun n hn => h n (by simpa using (mem_upFrom_iff.mp hn).2)
  rw [readVector, mapM_readWord hseen]
  exact congrArg Except.ok (wordsVector_parts v)

theorem readVector_error {s : State} {i : Inst} {j : Nat} (h : ∃ n, n < 32 ∧ s.wordSeen i (64 + 32 * j + n) = none) :
    readVector (s.frameOf i) i j = .error { cause := .poisonConsumed } := by
  classical
  obtain ⟨hlt, hnone⟩ := Nat.find_spec h
  have hfirst : ∀ k, 64 + 32 * j ≤ k → k < 64 + 32 * j + Nat.find h → ∃ w, readWord (s.frameOf i) i k = .ok w := by
    intro k hk hkn
    have hseen : s.wordSeen i k ≠ none := fun hn => Nat.find_min h (m := k - (64 + 32 * j)) (by omega)
      ⟨by omega, by rwa [Nat.add_sub_cancel' hk]⟩
    obtain ⟨w, hw⟩ := Option.ne_none_iff_exists'.mp hseen
    exact ⟨w, readWord_of_wordSeen hw⟩
  rw [readVector, mapM_upFrom_eq_error (Nat.le_add_right _ _) (Nat.add_lt_add_left hlt _) hfirst (readWord_of_unseen hnone)]
  rfl

/-! ### The span of a scratch access -/

/-- The fault of a scratch access that leaves the carve, with the first byte outside (R80). -/
def outsideTrap (bound : Nat) (o : Int) (lane : Nat) : Trap :=
  { cause := .scratchRange, lane := lane, faddr := wrapOf 64 (if 0 ≤ o ∧ o < bound then bound else o) }

theorem scratchSpan_ok {bound o n : Nat} (h : o + n ≤ bound) : scratchSpan bound o n = .ok o :=
  scratchSpan_within (Int.natCast_nonneg o) h

theorem scratchSpan_error {bound n : Nat} {o : Int} (h : o < 0 ∨ bound < o + n) :
    scratchSpan bound o n = .error (outsideTrap bound o 0) :=
  if_neg (by omega)

/-! ### Scratch bytes -/

section
variable {s : State} {i : Inst}

/-- The bytes of an access that are taken from scratch and not from pending writes, with the values found there (R164). -/
def State.takenBytes (s : State) (i : Inst) (o n : Nat) : List (Nat × Byte) :=
  ((upFrom o n).filter (fun p => (i.pendingByte p).isNone)).map
    (fun p => (p, (s.scratchFor i.site i.key.ctx).byte (scratchKey i.site i.key.ctx p)))

theorem State.takenBytes_succ (s : State) (i : Inst) (o n : Nat) :
    s.takenBytes i o (n + 1) = s.takenBytes i o 1 ++ s.takenBytes i (o + 1) n := by
  simp only [State.takenBytes, ← List.map_append, ← List.filter_append]
  rfl

theorem State.readScratch_unseen {o : Nat} (h : s.scratchSeen i o = none) (n : Nat) :
    s.readScratch i o (n + 1) = .error { cause := .poisonConsumed, faddr := o } := by
  unfold State.scratchSeen at h
  unfold State.readScratch
  split at h
  case h_1 => cases h
  case h_2 =>
    split at h
    case isTrue hpoison => exact if_pos hpoison
    case isFalse => cases h

theorem State.readScratch_seen {o : Nat} {b : Byte} (h : s.scratchSeen i o = some b) (n : Nat) :
    s.readScratch i o (n + 1) = (s.readScratch i (o + 1) n).map (fun r => (b :: r.1, s.takenBytes i o 1 ++ r.2)) := by
  unfold State.scratchSeen at h
  split at h
  case h_1 x hpend =>
    obtain rfl := Option.some.inj h
    have htaken : s.takenBytes i o 1 = [] := by simp [State.takenBytes, upFrom, hpend]
    rw [State.readScratch, htaken, hpend]
    cases s.readScratch i (o + 1) n <;> rfl
  case h_2 hpend =>
    split at h
    case isTrue => cases h
    case isFalse hpoison =>
      obtain rfl := Option.some.inj h
      have htaken : s.takenBytes i o 1 =
          [(o, (s.scratchFor i.site i.key.ctx).byte (scratchKey i.site i.key.ctx o))] := by
        simp [State.takenBytes, upFrom, hpend]
      rw [State.readScratch, htaken, hpend]
      refine (if_neg hpoison).trans ?_
      cases s.readScratch i (o + 1) n <;> rfl

theorem State.readScratch_ok {o n : Nat} {bs : List Byte} (h : (upFrom o n).map (s.scratchSeen i) = bs.map some) :
    s.readScratch i o n = .ok (bs, s.takenBytes i o n) := by
  induction n generalizing o bs with
  | zero => cases bs with
    | nil => rfl
    | cons => cases h
  | succ n ih => cases bs with
    | nil => cases h
    | cons b bs =>
      obtain ⟨ho, hrest⟩ := List.cons.inj h
      rw [State.readScratch_seen ho, ih hrest, State.takenBytes_succ s i o n]
      rfl

theorem State.readScratch_error {o n p : Nat} (hlo : o ≤ p) (hp : p < o + n) (hnone : s.scratchSeen i p = none)
    (hseen : ∀ q, o ≤ q → q < p → s.scratchSeen i q ≠ none) :
    s.readScratch i o n = .error { cause := .poisonConsumed, faddr := p } := by
  induction n generalizing o with
  | zero => omega
  | succ n ih =>
    by_cases h : o = p
    · rw [h, State.readScratch_unseen hnone]
    · obtain ⟨b, hb⟩ := Option.ne_none_iff_exists'.mp (hseen o le_rfl (by omega))
      rw [State.readScratch_seen hb, ih (by omega) (by omega) (fun q hq => hseen q (by omega))]
      rfl

/-- Bytes that are all seen form a list. -/
theorem State.exists_seen {o n : Nat} (h : ∀ p, o ≤ p → p < o + n → s.scratchSeen i p ≠ none) :
    ∃ bs : List Byte, (upFrom o n).map (s.scratchSeen i) = bs.map some := by
  refine ⟨(upFrom o n).map (fun p => (s.scratchSeen i p).getD 0), ?_⟩
  rw [List.map_map]
  refine List.map_congr_left fun p hp => ?_
  obtain ⟨hlo, hhi⟩ := mem_upFrom_iff.mp hp
  obtain ⟨b, hb⟩ := Option.ne_none_iff_exists'.mp (h p hlo hhi)
  simp [hb]

end

/-! ### The lanes of a vector access (R163) -/

/-- One lane of a vector scratch load. -/
def State.loadLane (s : State) (i : Inst) (m : W64) (e : Nat) (off : Nat → Int) (k : Nat) : Except Trap Nat :=
  if active m k then
    atLane k (do
      let o ← scratchSpan (s.scratchBound i.key.ctx) (off k) e
      let (bs, _) ← s.readScratch i o e
      return numberOf bs)
  else .ok 0

/-- One lane of a vector scratch store. -/
def State.storeLane (s : State) (i : Inst) (m : W64) (e : Nat) (v : VWord) (off : Nat → Int) (k : Nat) :
    Except Trap (List (Nat × Byte)) :=
  if active m k then
    atLane k (do
      let o ← scratchSpan (s.scratchBound i.key.ctx) (off k) e
      return bytesAt o e (elemAt (8 * e) v k))
  else .ok []

section
variable {s : State} {i : Inst} {m : W64} {e : Nat} {v : VWord} {off : Nat → Int} {k : Nat}

theorem State.loadLanes_eq (n : Nat) : s.loadLanes i m n e off = (upFrom 0 n).mapM (s.loadLane i m e off) := rfl

theorem State.storeLanes_eq (n : Nat) :
    s.storeLanes i m n e v off = ((upFrom 0 n).mapM (s.storeLane i m e v off)).map List.flatten := by
  show (upFrom 0 n).mapM (s.storeLane i m e v off) >>= (fun ls => .ok ls.flatten) = _
  cases (upFrom 0 n).mapM (s.storeLane i m e v off) <;> rfl

theorem State.loadLane_inactive (h : active m k = false) : s.loadLane i m e off k = .ok 0 := by
  rw [State.loadLane, h]
  rfl

theorem State.storeLane_inactive (h : active m k = false) : s.storeLane i m e v off k = .ok [] := by
  rw [State.storeLane, h]
  rfl

section
variable (hact : active m k = true)
include hact

theorem State.loadLane_ok {o : Nat} {bs : List Byte} (ho : off k = o) (hin : o + e ≤ s.scratchBound i.key.ctx)
    (hseen : (upFrom o e).map (s.scratchSeen i) = bs.map some) : s.loadLane i m e off k = .ok (numberOf bs) := by
  rw [State.loadLane, if_pos hact, ho, scratchSpan_ok hin]
  show atLane k (s.readScratch i o e >>= _) = _
  rw [State.readScratch_ok hseen]
  rfl

theorem State.loadLane_outside (h : off k < 0 ∨ s.scratchBound i.key.ctx < off k + e) :
    s.loadLane i m e off k = .error (outsideTrap (s.scratchBound i.key.ctx) (off k) k) := by
  rw [State.loadLane, if_pos hact, scratchSpan_error h]
  rfl

theorem State.loadLane_poison {o p : Nat} (ho : off k = o) (hin : o + e ≤ s.scratchBound i.key.ctx) (hlo : o ≤ p) (hp : p < o + e)
    (hnone : s.scratchSeen i p = none) (hseen : ∀ q, o ≤ q → q < p → s.scratchSeen i q ≠ none) :
    s.loadLane i m e off k = .error { cause := .poisonConsumed, lane := k, faddr := p } := by
  rw [State.loadLane, if_pos hact, ho, scratchSpan_ok hin]
  show atLane k (s.readScratch i o e >>= _) = _
  rw [State.readScratch_error hlo hp hnone hseen]
  rfl

theorem State.storeLane_ok {o : Nat} (ho : off k = o) (hin : o + e ≤ s.scratchBound i.key.ctx) :
    s.storeLane i m e v off k = .ok (bytesAt o e (elemAt (8 * e) v k)) := by
  rw [State.storeLane, if_pos hact, ho, scratchSpan_ok hin]
  rfl

theorem State.storeLane_outside (h : off k < 0 ∨ s.scratchBound i.key.ctx < off k + e) :
    s.storeLane i m e v off k = .error (outsideTrap (s.scratchBound i.key.ctx) (off k) k) := by
  rw [State.storeLane, if_pos hact, scratchSpan_error h]
  rfl

end

end

/-- A masked result depends on the values of the active elements alone (R170). -/
theorem masked_congr {m : W64} {e : Nat} {f g : Nat → Nat} (h : ∀ j, j < elemCount e → active m j = true → f j = g j) (z : Bool)
    (old : VWord) : masked z m e old f = masked z m e old g := by
  unfold masked
  congr 1
  refine List.map_congr_left fun x hx => ?_
  have hlt : x.2 < elemCount e := by
    have := List.snd_lt_of_mem_zipIdx hx
    rwa [lanes, List.length_map, upFrom_eq_range', List.length_range'] at this
  dsimp only
  split
  case isTrue hact => rw [h x.2 hlt hact]
  case isFalse => rfl

/-- Lists of the elements that a test admits, end to end. -/
theorem flatten_map_ite {α β : Type} (p : α → Bool) (f : α → List β) (l : List α) :
    (l.map (fun k => if p k then f k else [])).flatten = (l.filter p).flatMap f := by
  induction l with
  | nil => rfl
  | cons x l ih =>
    rw [List.map_cons, List.flatten_cons, ih, List.filter_cons]
    cases p x <;> rfl

theorem ElemTy.eight_mul_bytes (t : ElemTy) : 8 * (t.width / 8) = t.width := by
  rcases t with t | t <;> cases t <;> rfl

end Sys2Proof.Machine
end

section
/-! The frame accesses of major 0x10 (R159 to R161) and the scratch accesses of majors 0x11 to 0x14 (R162 to R164): where they
complete, where they fault, and with which fields. -/

namespace Sys2Proof.Machine

/-! ### Conditions on a word -/

theorem RunsWhen.mono {w : Instr} {p q : State → Inst → Prop} {f : State → Cur → Inst → Inst} (h : RunsWhen w p f)
    (hq : ∀ s i, q s i → p s i) : RunsWhen w q f :=
  fun s c i hx hs => h s c i hx (hq s i hs)

theorem Traps.mono {w : Instr} {p q : State → Inst → Prop} {t : State → Inst → Trap} (h : Traps w p t)
    (hq : ∀ s i, q s i → p s i) : Traps w q t :=
  fun s c i hx hs => h s c i hx (hq s i hs)

theorem ok_bind {ε α β : Type} (x : α) (f : α → Except ε β) : Except.ok x >>= f = f x := rfl
theorem error_bind {ε α β : Type} (t : ε) (f : α → Except ε β) : Except.error t >>= f = Except.error t := rfl

theorem readWord_past (f : Frame) (i : Inst) (c : Cur) (k : Nat) : readWord f (i.past c) k = readWord f i k := rfl
theorem readVector_past (f : Frame) (i : Inst) (c : Cur) (j : Nat) : readVector f (i.past c) j = readVector f i j := rfl

/-- A word whose first check fails. -/
theorem Traps.of_check {α : Type} {w : Instr} {p : State → Inst → Prop} {t : State → Inst → Trap}
    {g : State → Inst → Cur → Except Trap α} {k : State → Inst → Cur → α → Except Trap Inst}
    (hw : ∀ s, Sys2Proof.Machine.exec w s = lift (fun s i c => g s i c >>= k s i c) s)
    (hg : ∀ s c i, p s i → g s (i.past c) c = .error (t s i)) : Traps w p t := by
  refine .of_lift hw fun s c i h => ?_
  rw [hg s c i h, error_bind]

theorem Inst.effect_past_error {i : Inst} {e : EffBody} {c : Cur} (h : 32 ≤ i.nEff) :
    (i.past c).effect e = .error { cause := .effectBudget } :=
  Inst.effect_error (n := 1) (by rw [Inst.past_nEff]; omega)

/-! ### Frame accesses -/

section
variable (d a : Reg) (m : BitVec 27) (s : State)

theorem exec_fld : Sys2Proof.Machine.exec (.fld d a m) s = lift (fun s i _ =>
    frameIndex (s.frameOf i) (baseOffset (i.getS a) m) >>= fun k =>
      readWord (s.frameOf i) i k >>= fun w => .ok (i.setS d w)) s := rfl

theorem exec_fst : Sys2Proof.Machine.exec (.fst d a m) s = lift (fun s i _ =>
    frameIndex (s.frameOf i) (baseOffset (i.getS a) m) >>= fun k => i.effect (.frameWord k (i.getS d))) s := rfl

theorem exec_fldv : Sys2Proof.Machine.exec (.fldv d a m) s = lift (fun s i _ =>
    vectorIndex (s.frameOf i) (baseOffset (i.getS a) m) >>= fun j =>
      readVector (s.frameOf i) i j >>= fun v => .ok (i.setV d v)) s := rfl

theorem exec_fstv : Sys2Proof.Machine.exec (.fstv d a m) s = lift (fun s i _ =>
    vectorIndex (s.frameOf i) (baseOffset (i.getS a) m) >>= fun j => i.effect (.frameVector j (i.getV d))) s := rfl

theorem exec_fldFsw : Sys2Proof.Machine.exec (.fldFsw d) s = execFldFsw d s := rfl

end

section
variable (d a : Reg) (m : BitVec 27)

theorem fld_runs (k : Nat) (w : W64) : RunsWhen (.fld d a m)
    (fun s i => baseOffset (i.getS a) m = k ∧ k < (s.frameOf i).desc.words ∧ s.wordSeen i k = some w)
    (fun _ _ i => i.setS d w) := by
  refine .of_lift (exec_fld d a m) fun s c i ⟨ho, hk, hw⟩ => ?_
  rw [Inst.past_getS, State.frameOf_past, ho, frameIndex_ok hk, ok_bind, readWord_past,
    readWord_of_wordSeen hw, ok_bind]

theorem fld_range : Traps (.fld d a m)
    (fun s i => baseOffset (i.getS a) m < 0 ∨ (s.frameOf i).desc.words ≤ baseOffset (i.getS a) m)
    (fun _ i => { cause := .frameRange, value := BitVec.ofInt 64 (baseOffset (i.getS a) m) }) :=
  .of_check (exec_fld d a m) fun _ _ _ h => frameIndex_error h

theorem fld_poison : Traps (.fld d a m)
    (fun s i => ∃ k : Nat, baseOffset (i.getS a) m = k ∧ k < (s.frameOf i).desc.words ∧ s.wordSeen i k = none)
    (fun _ _ => { cause := .poisonConsumed }) := by
  refine .of_lift (exec_fld d a m) fun s c i ⟨k, ho, hk, hw⟩ => ?_
  rw [Inst.past_getS, State.frameOf_past, ho, frameIndex_ok hk, ok_bind, readWord_past,
    readWord_of_unseen hw, error_bind]

theorem fst_runs (k : Nat) : RunsWhen (.fst d a m)
    (fun s i => baseOffset (i.getS a) m = k ∧ k < (s.frameOf i).desc.words ∧ i.nEff < 32)
    (fun _ _ i => i.withEffect (.frameWord k (i.getS d))) := by
  refine .of_lift (exec_fst d a m) fun s c i ⟨ho, hk, hn⟩ => ?_
  rw [Inst.past_getS, State.frameOf_past, ho, frameIndex_ok hk, ok_bind]
  exact Inst.effect_past hn

theorem fst_range : Traps (.fst d a m)
    (fun s i => baseOffset (i.getS a) m < 0 ∨ (s.frameOf i).desc.words ≤ baseOffset (i.getS a) m)
    (fun _ i => { cause := .frameRange, value := BitVec.ofInt 64 (baseOffset (i.getS a) m) }) :=
  .of_check (exec_fst d a m) fun _ _ _ h => frameIndex_error h

theorem fst_budget : Traps (.fst d a m)
    (fun s i => ∃ k : Nat, baseOffset (i.getS a) m = k ∧ k < (s.frameOf i).desc.words ∧ 32 ≤ i.nEff)
    (fun _ _ => { cause := .effectBudget }) := by
  refine .of_lift (exec_fst d a m) fun s c i ⟨k, ho, hk, hn⟩ => ?_
  rw [Inst.past_getS, State.frameOf_past, ho, frameIndex_ok hk, ok_bind]
  exact Inst.effect_past_error hn

theorem fldv_runs (j : Nat) (v : VWord) : RunsWhen (.fldv d a m)
    (fun s i => baseOffset (i.getS a) m = j ∧ j ≤ 5 ∧ (s.frameOf i).desc.large = true ∧
      ∀ n, n < 32 → s.wordSeen i (64 + 32 * j + n) = some (v.extractLsb' (64 * n) 64))
    (fun _ _ i => i.setV d v) := by
  refine .of_lift (exec_fldv d a m) fun s c i ⟨ho, hj, hl, hw⟩ => ?_
  rw [Inst.past_getS, State.frameOf_past, ho, vectorIndex_ok hl hj, ok_bind, readVector_past,
    readVector_ok hw, ok_bind]

theorem fldv_range : Traps (.fldv d a m)
    (fun s i => (s.frameOf i).desc.large = false ∨ baseOffset (i.getS a) m < 0 ∨ 5 < baseOffset (i.getS a) m)
    (fun _ i => { cause := .frameRange, value := BitVec.ofInt 64 (baseOffset (i.getS a) m) }) :=
  .of_check (exec_fldv d a m) fun _ _ _ h => vectorIndex_error h

theorem fldv_poison : Traps (.fldv d a m)
    (fun s i => ∃ j : Nat, baseOffset (i.getS a) m = j ∧ j ≤ 5 ∧ (s.frameOf i).desc.large = true ∧
      ∃ n, n < 32 ∧ s.wordSeen i (64 + 32 * j + n) = none)
    (fun _ _ => { cause := .poisonConsumed }) := by
  refine .of_lift (exec_fldv d a m) fun s c i ⟨j, ho, hj, hl, hw⟩ => ?_
  rw [Inst.past_getS, State.frameOf_past, ho, vectorIndex_ok hl hj, ok_bind, readVector_past,
    readVector_error hw, error_bind]

theorem fstv_runs (j : Nat) : RunsWhen (.fstv d a m)
    (fun s i => baseOffset (i.getS a) m = j ∧ j ≤ 5 ∧ (s.frameOf i).desc.large = true ∧ i.nEff < 32)
    (fun _ _ i => i.withEffect (.frameVector j (i.getV d))) := by
  refine .of_lift (exec_fstv d a m) fun s c i ⟨ho, hj, hl, hn⟩ => ?_
  rw [Inst.past_getS, State.frameOf_past, ho, vectorIndex_ok hl hj, ok_bind]
  exact Inst.effect_past hn

theorem fstv_range : Traps (.fstv d a m)
    (fun s i => (s.frameOf i).desc.large = false ∨ baseOffset (i.getS a) m < 0 ∨ 5 < baseOffset (i.getS a) m)
    (fun _ i => { cause := .frameRange, value := BitVec.ofInt 64 (baseOffset (i.getS a) m) }) :=
  .of_check (exec_fstv d a m) fun _ _ _ h => vectorIndex_error h

theorem fstv_budget : Traps (.fstv d a m)
    (fun s i => ∃ j : Nat, baseOffset (i.getS a) m = j ∧ j ≤ 5 ∧ (s.frameOf i).desc.large = true ∧ 32 ≤ i.nEff)
    (fun _ _ => { cause := .effectBudget }) := by
  refine .of_lift (exec_fstv d a m) fun s c i ⟨j, ho, hj, hl, hn⟩ => ?_
  rw [Inst.past_getS, State.frameOf_past, ho, vectorIndex_ok hl hj, ok_bind]
  exact Inst.effect_past_error hn

end

/-- Settles O27: each form where its index is in range. -/
theorem frameAccessForms : Obligations.FrameAccessForms := fun d a m =>
  ⟨fld_runs d a m, fst_runs d a m, fldv_runs d a m, fstv_runs d a m, .of_lift (fun s => exec_fldFsw d s) fun _ _ _ _ => rfl⟩

end Sys2Proof.Machine
end

section
/-! The scratch accesses of majors 0x11 to 0x14 (R162 to R164): where they complete, where they fault, and with which fields. -/

namespace Sys2Proof.Machine

/-! ### Scalar accesses (R162) -/

section
variable (d a : Reg) (t : LoadTy) (u : Size) (m : BitVec 27)

theorem exec_sld (s : State) : Sys2Proof.Machine.exec (.sld d a t m) s = lift (fun s i _ =>
    scratchSpan (s.scratchBound i.key.ctx) (baseOffset (i.getS a) m) t.bytes >>= fun o =>
      s.readScratch i o t.bytes >>= fun r => .ok (i.setS d (extendTo64 t.signed (8 * t.bytes) (numberOf r.1)))) s := rfl

theorem exec_sst (s : State) : Sys2Proof.Machine.exec (.sst d a u m) s = lift (fun s i _ =>
    scratchSpan (s.scratchBound i.key.ctx) (baseOffset (i.getS a) m) u.bytes >>= fun o =>
      i.effect (.scratch (bytesAt o u.bytes (i.getS d).toNat))) s := rfl

theorem State.readScratch_past (s : State) (i : Inst) (c : Cur) (o n : Nat) :
    s.readScratch (i.past c) o n = s.readScratch i o n := by
  induction n generalizing o with
  | zero => rfl
  | succ n ih =>
    cases h : s.scratchSeen i o with
    | none => rw [State.readScratch_unseen h, State.readScratch_unseen (i := i.past c) h]
    | some b =>
      rw [State.readScratch_seen h, State.readScratch_seen (i := i.past c) h, ih]
      rfl

theorem sld_runs (o : Nat) (bs : List Byte) : RunsWhen (.sld d a t m)
    (fun s i => baseOffset (i.getS a) m = o ∧ o + t.bytes ≤ s.scratchBound i.key.ctx ∧
      (upFrom o t.bytes).map (s.scratchSeen i) = bs.map some)
    (fun _ _ i => i.setS d (extendTo64 t.signed (8 * t.bytes) (numberOf bs))) := by
  refine .of_lift (exec_sld d a t m) fun s c i ⟨ho, hin, hseen⟩ => ?_
  rw [Inst.past_getS, Inst.past_key, ho, scratchSpan_ok hin, ok_bind, State.readScratch_past, State.readScratch_ok hseen, ok_bind]

theorem sld_outside : Traps (.sld d a t m)
    (fun s i => baseOffset (i.getS a) m < 0 ∨ s.scratchBound i.key.ctx < baseOffset (i.getS a) m + t.bytes)
    (fun s i => outsideTrap (s.scratchBound i.key.ctx) (baseOffset (i.getS a) m) 0) :=
  .of_check (exec_sld d a t m) fun _ _ _ h => scratchSpan_error h

theorem sld_poison (p o : Nat) : Traps (.sld d a t m)
    (fun s i => baseOffset (i.getS a) m = o ∧ o + t.bytes ≤ s.scratchBound i.key.ctx ∧ o ≤ p ∧ p < o + t.bytes ∧
      s.scratchSeen i p = none ∧ ∀ q, o ≤ q → q < p → s.scratchSeen i q ≠ none)
    (fun _ _ => { cause := .poisonConsumed, faddr := p }) := by
  refine .of_lift (exec_sld d a t m) fun s c i ⟨ho, hin, hlo, hp, hnone, hseen⟩ => ?_
  rw [Inst.past_getS, Inst.past_key, ho, scratchSpan_ok hin, ok_bind, State.readScratch_past,
    State.readScratch_error hlo hp hnone hseen, error_bind]

theorem sst_runs (o : Nat) : RunsWhen (.sst d a u m)
    (fun s i => baseOffset (i.getS a) m = o ∧ o + u.bytes ≤ s.scratchBound i.key.ctx ∧ i.nEff < 32)
    (fun _ _ i => i.withEffect (.scratch (bytesAt o u.bytes (i.getS d).toNat))) := by
  refine .of_lift (exec_sst d a u m) fun s c i ⟨ho, hin, hn⟩ => ?_
  rw [Inst.past_getS, Inst.past_key, ho, scratchSpan_ok hin, ok_bind]
  exact Inst.effect_past hn

theorem sst_outside : Traps (.sst d a u m)
    (fun s i => baseOffset (i.getS a) m < 0 ∨ s.scratchBound i.key.ctx < baseOffset (i.getS a) m + u.bytes)
    (fun s i => outsideTrap (s.scratchBound i.key.ctx) (baseOffset (i.getS a) m) 0) :=
  .of_check (exec_sst d a u m) fun _ _ _ h => scratchSpan_error h

theorem sst_budget : Traps (.sst d a u m)
    (fun s i => ¬(baseOffset (i.getS a) m < 0 ∨ s.scratchBound i.key.ctx < baseOffset (i.getS a) m + u.bytes) ∧ 32 ≤ i.nEff)
    (fun _ _ => { cause := .effectBudget }) := by
  refine .of_lift (exec_sst d a u m) fun s c i ⟨hin, hn⟩ => ?_
  obtain ⟨o, ho⟩ : ∃ o : Nat, baseOffset (i.getS a) m = o := Int.eq_ofNat_of_zero_le (by omega)
  rw [Inst.past_getS, Inst.past_key, ho, scratchSpan_ok (by omega), ok_bind]
  exact Inst.effect_past_error hn

end

/-! ### Vector accesses (R163) -/

section
variable (d a b : Reg) (k : MReg) (t : ElemTy)

theorem exec_sldv (s : State) : Sys2Proof.Machine.exec (.sldv d a b k t) s = vectorLoad unitOffsets d a b k t s := rfl
theorem exec_sldx (s : State) : Sys2Proof.Machine.exec (.sldx d a b k t) s = vectorLoad indexOffsets d a b k t s := rfl
theorem exec_sstv (s : State) : Sys2Proof.Machine.exec (.sstv d a b k t) s = vectorStore unitOffsets d a b k t s := rfl
theorem exec_sstx (s : State) : Sys2Proof.Machine.exec (.sstx d a b k t) s = vectorStore indexOffsets d a b k t s := rfl

/-- Where a lane is live: an active element of the type. -/
def Inst.liveLane (i : Inst) (k : MReg) (t : ElemTy) (l : Nat) : Prop := l < elemCount t.width ∧ active (i.getM k) l = true

/-- An element that lies within scratch and holds no poison. -/
def State.elementSeen (s : State) (i : Inst) (e : Nat) (o : Int) : Prop :=
  ¬(o < 0 ∨ s.scratchBound i.key.ctx < o + e) ∧ ∀ p : Nat, o ≤ p → (p : Int) < o + e → s.scratchSeen i p ≠ none

theorem State.elementSeen_loads {s : State} {i : Inst} {m : W64} {e : Nat} {off : Nat → Int} {l : Nat}
    (h : active m l = true → s.elementSeen i e (off l)) : ∃ x, s.loadLane i m e off l = .ok x := by
  cases hact : active m l with
  | false => exact ⟨0, State.loadLane_inactive hact⟩
  | true =>
    obtain ⟨hin, hseen⟩ := h hact
    obtain ⟨o, ho⟩ : ∃ o : Nat, off l = o := Int.eq_ofNat_of_zero_le (by omega)
    rw [ho] at hin hseen
    obtain ⟨bs, hbs⟩ := State.exists_seen (s := s) (i := i) (o := o) (n := e) fun p hlo hp => hseen p (by omega) (by omega)
    exact ⟨numberOf bs, State.loadLane_ok hact ho (by omega) hbs⟩

theorem State.storeLane_stores {s : State} {i : Inst} {m : W64} {e : Nat} {v : VWord} {off : Nat → Int} {l : Nat}
    (h : active m l = true → ¬(off l < 0 ∨ s.scratchBound i.key.ctx < off l + e)) :
    ∃ x, s.storeLane i m e v off l = .ok x := by
  cases hact : active m l with
  | false => exact ⟨[], State.storeLane_inactive hact⟩
  | true =>
    have hin := h hact
    obtain ⟨o, ho⟩ : ∃ o : Nat, off l = o := Int.eq_ofNat_of_zero_le (by omega)
    exact ⟨_, State.storeLane_ok hact ho (by omega)⟩

/-- A place of an element that depends on the registers alone. -/
abbrev Inst.offsetOfRegisters (off : Inst → Reg → Reg → Nat → Nat → Int) : Prop := ∀ (i : Inst) (c : Cur), off (i.past c) = off i

section
variable {d a b k t} {off : Inst → Reg → Reg → Nat → Nat → Int} (hoff : Inst.offsetOfRegisters off) {w : Instr}

section
variable (hw : ∀ s, Sys2Proof.Machine.exec w s = vectorLoad off d a b k t s)
include hw

theorem exec_vectorLoad (s : State) : Sys2Proof.Machine.exec w s = lift (fun s i _ =>
    (upFrom 0 (elemCount t.width)).mapM (s.loadLane i (i.getM k) (t.width / 8) (off i a b (t.width / 8))) >>= fun l =>
      .ok (i.setV d (masked false (i.getM k) t.width (i.getV d) (fun j => l.getD j 0)))) s := hw s

include hoff

theorem vectorLoad_runs (x : Nat → Nat) : RunsWhen w
    (fun s i => ∀ l, i.liveLane k t l → ∃ o : Nat, off i a b (t.width / 8) l = o ∧ o + t.width / 8 ≤ s.scratchBound i.key.ctx ∧
      ∃ bs, (upFrom o (t.width / 8)).map (s.scratchSeen i) = bs.map some ∧ numberOf bs = x l)
    (fun _ _ i => i.setV d (masked false (i.getM k) t.width (i.getV d) x)) := by
  refine .of_lift (exec_vectorLoad hw) fun s c i h => ?_
  have hlanes : ∀ l ∈ upFrom 0 (elemCount t.width),
      s.loadLane (i.past c) (i.getM k) (t.width / 8) (off i a b (t.width / 8)) l =
        .ok (if active (i.getM k) l then x l else 0) := by
    intro l hl
    cases hact : active (i.getM k) l with
    | false => exact State.loadLane_inactive hact
    | true =>
      obtain ⟨o, ho, hin, bs, hseen, hx⟩ := h l ⟨by simpa using (mem_upFrom_iff.mp hl).2, hact⟩
      rw [if_pos rfl, ← hx]
      exact State.loadLane_ok hact ho hin hseen
  rw [Inst.past_getM, hoff, mapM_eq_ok hlanes, ok_bind]
  congr 2
  refine masked_congr (fun j hj hact => ?_) _ _
  rw [getD_map_upFrom _ _ hj, if_pos hact]

theorem vectorLoad_outside (j : Nat) : Traps w
    (fun s i => i.liveLane k t j ∧ (∀ l, l < j → i.liveLane k t l → s.elementSeen i (t.width / 8) (off i a b (t.width / 8) l)) ∧
      (off i a b (t.width / 8) j < 0 ∨ s.scratchBound i.key.ctx < off i a b (t.width / 8) j + (t.width / 8 : Nat)))
    (fun s i => outsideTrap (s.scratchBound i.key.ctx) (off i a b (t.width / 8) j) j) := by
  refine .of_check (exec_vectorLoad hw) fun s c i ⟨⟨hj, hact⟩, hbelow, hout⟩ => ?_
  rw [Inst.past_getM, hoff]
  refine mapM_upFrom_eq_error (Nat.zero_le j) (by omega) (fun l _ hl => ?_) (State.loadLane_outside hact hout)
  exact State.elementSeen_loads (i := i.past c) fun hl' => hbelow l hl ⟨by omega, hl'⟩

theorem vectorLoad_poison (j p : Nat) : Traps w
    (fun s i => i.liveLane k t j ∧ (∀ l, l < j → i.liveLane k t l → s.elementSeen i (t.width / 8) (off i a b (t.width / 8) l)) ∧
      ∃ o : Nat, off i a b (t.width / 8) j = o ∧ o + t.width / 8 ≤ s.scratchBound i.key.ctx ∧ o ≤ p ∧ p < o + t.width / 8 ∧
        s.scratchSeen i p = none ∧ ∀ q, o ≤ q → q < p → s.scratchSeen i q ≠ none)
    (fun _ _ => { cause := .poisonConsumed, lane := j, faddr := p }) := by
  refine .of_check (exec_vectorLoad hw) fun s c i ⟨⟨hj, hact⟩, hbelow, o, ho, hin, hlo, hp, hnone, hseen⟩ => ?_
  rw [Inst.past_getM, hoff]
  refine mapM_upFrom_eq_error (Nat.zero_le j) (by omega) (fun l _ hl => ?_) (State.loadLane_poison hact ho hin hlo hp hnone hseen)
  exact State.elementSeen_loads (i := i.past c) fun hl' => hbelow l hl ⟨by omega, hl'⟩

end

section
variable (hw : ∀ s, Sys2Proof.Machine.exec w s = vectorStore off d a b k t s)
include hw

theorem exec_vectorStore (s : State) : Sys2Proof.Machine.exec w s = lift (fun s i _ =>
    s.storeLanes i (i.getM k) (elemCount t.width) (t.width / 8) (i.getV d) (off i a b (t.width / 8)) >>= fun bs =>
      i.effect (.scratch bs)) s := hw s

include hoff

theorem vectorStore_runs (o : Nat → Nat) : RunsWhen w
    (fun s i => (∀ l, off i a b (t.width / 8) l = o l) ∧
      (∀ l, i.liveLane k t l → o l + t.width / 8 ≤ s.scratchBound i.key.ctx) ∧ i.nEff < 32)
    (fun _ _ i => i.withEffect (.scratch (((upFrom 0 (elemCount t.width)).filter (fun j => active (i.getM k) j)).flatMap
      (fun j => bytesAt (o j) (t.width / 8) (elemAt t.width (i.getV d) j))))) := by
  refine .of_lift (exec_vectorStore hw) fun s c i ⟨ho, hin, hn⟩ => ?_
  have hlanes : ∀ l ∈ upFrom 0 (elemCount t.width),
      s.storeLane (i.past c) (i.getM k) (t.width / 8) (i.getV d) (off i a b (t.width / 8)) l =
        .ok (if active (i.getM k) l then bytesAt (o l) (t.width / 8) (elemAt t.width (i.getV d) l) else []) := by
    intro l hl
    cases hact : active (i.getM k) l with
    | false => exact State.storeLane_inactive hact
    | true =>
      have hin := hin l ⟨by simpa using (mem_upFrom_iff.mp hl).2, hact⟩
      have hok := State.storeLane_ok (s := s) (i := i.past c) (v := i.getV d) hact (ho l) hin
      rwa [ElemTy.eight_mul_bytes] at hok
  rw [Inst.past_getM, Inst.past_getV, hoff, State.storeLanes_eq, mapM_eq_ok hlanes]
  show (i.past c).effect _ = _
  rw [flatten_map_ite]
  exact Inst.effect_past hn

theorem vectorStore_outside (j : Nat) : Traps w
    (fun s i => i.liveLane k t j ∧
      (∀ l, l < j → i.liveLane k t l →
        ¬(off i a b (t.width / 8) l < 0 ∨ s.scratchBound i.key.ctx < off i a b (t.width / 8) l + (t.width / 8 : Nat))) ∧
      (off i a b (t.width / 8) j < 0 ∨ s.scratchBound i.key.ctx < off i a b (t.width / 8) j + (t.width / 8 : Nat)))
    (fun s i => outsideTrap (s.scratchBound i.key.ctx) (off i a b (t.width / 8) j) j) := by
  refine .of_check (exec_vectorStore hw) fun s c i ⟨⟨hj, hact⟩, hbelow, hout⟩ => ?_
  rw [Inst.past_getM, Inst.past_getV, hoff, State.storeLanes_eq,
    mapM_upFrom_eq_error (Nat.zero_le j) (by omega) (fun l _ hl => ?_) (State.storeLane_outside (i := i.past c) hact hout)]
  · rfl
  · exact State.storeLane_stores (i := i.past c) fun hl' => hbelow l hl ⟨by omega, hl'⟩

theorem vectorStore_budget : Traps w
    (fun s i => (∀ l, i.liveLane k t l →
        ¬(off i a b (t.width / 8) l < 0 ∨ s.scratchBound i.key.ctx < off i a b (t.width / 8) l + (t.width / 8 : Nat))) ∧ 32 ≤ i.nEff)
    (fun _ _ => { cause := .effectBudget }) := by
  refine .of_lift (exec_vectorStore hw) fun s c i ⟨hin, hn⟩ => ?_
  obtain ⟨ls, hls⟩ := exists_mapM_eq_ok (f := s.storeLane (i.past c) (i.getM k) (t.width / 8) (i.getV d) (off i a b (t.width / 8)))
    (l := upFrom 0 (elemCount t.width)) fun l hl =>
      State.storeLane_stores (i := i.past c) fun hact => hin l ⟨by simpa using (mem_upFrom_iff.mp hl).2, hact⟩
  rw [Inst.past_getM, Inst.past_getV, hoff, State.storeLanes_eq, hls]
  exact Inst.effect_past_error hn

end

end

end

theorem unitOffsets_past : Inst.offsetOfRegisters unitOffsets := fun _ _ => rfl
theorem indexOffsets_past : Inst.offsetOfRegisters indexOffsets := fun _ _ => rfl

/-- Settles O28: scalar accesses, and vector accesses by their offsets. -/
theorem scratchAccessForms : Obligations.ScratchAccessForms := by
  refine ⟨fun d a t m o bs => sld_runs d a t m o bs, fun d a u m o => sst_runs d a u m o, ?_, ?_⟩
  · rintro d a b k t x o w (rfl | rfl)
    · refine (vectorLoad_runs unitOffsets_past (exec_sldv d a b k t) x).mono fun s i ⟨ho, h⟩ l hl => ⟨o l, ?_, h l hl.1 hl.2⟩
      rw [ho l, if_pos rfl]
      rfl
    · refine (vectorLoad_runs indexOffsets_past (exec_sldx d a b k t) x).mono fun s i ⟨ho, h⟩ l hl => ⟨o l, ?_, h l hl.1 hl.2⟩
      rw [ho l, if_neg Instr.noConfusion]
      rfl
  · rintro d a b k t o w (rfl | rfl)
    · refine (vectorStore_runs unitOffsets_past (exec_sstv d a b k t) o).mono fun s i ⟨ho, h, hn⟩ =>
        ⟨fun l => ?_, fun l hl => h l hl.1 hl.2, hn⟩
      rw [ho l, if_pos rfl]
      rfl
    · refine (vectorStore_runs indexOffsets_past (exec_sstx d a b k t) o).mono fun s i ⟨ho, h, hn⟩ =>
        ⟨fun l => ?_, fun l hl => h l hl.1 hl.2, hn⟩
      rw [ho l, if_neg Instr.noConfusion]
      rfl

end Sys2Proof.Machine
end

section
/-! The scratch atomics of major 0x14 (R164), and the faults of frame and scratch accesses. -/

namespace Sys2Proof.Machine

/-! ### Scratch atomics -/

/-- The size of the word of a scratch atomic. -/
abbrev samoBytes (w : Bool) : Nat := if w then 8 else 4

/-- The instance with bytes added to those that its atomics took from scratch (R164). -/
def Inst.recording (i : Inst) (taken : List (Nat × Byte)) : Inst := { i with recorded := i.recorded ++ taken }

theorem Inst.recording_nEff (i : Inst) (taken : List (Nat × Byte)) : (i.recording taken).nEff = i.nEff := rfl

/-- The effect of a scratch atomic (R140, R164). -/
def samoEffect (o e : Nat) (new : Option Nat) : EffBody :=
  match new with
  | some v => .scratch (bytesAt o e v)
  | none => .nothing

/-- What a scratch atomic does at an aligned word within the carve. -/
def samoAt (w : Bool) (f : Nat → Inst → Option Nat) (d : Reg) (s : State) (i : Inst) (o : Nat) : Except Trap Inst :=
  s.readScratch i o (samoBytes w) >>= fun r =>
    (i.recording r.2).effect (samoEffect o (samoBytes w) (f (numberOf r.1) i)) >>= fun j =>
      .ok (j.setS d (BitVec.ofNat 64 (numberOf r.1)))

theorem samo_eq (w : Bool) (f : Nat → Inst → Option Nat) (d a : Reg) (s : State) : samo w f d a s = lift (fun s i _ =>
    scratchSpan (s.scratchBound i.key.ctx) (i.getS a).toNat (samoBytes w) >>= fun o =>
      if o % samoBytes w ≠ 0 then .error { cause := .scratchAlign, faddr := o } else samoAt w f d s i o) s := rfl

section
variable {w : Bool} {f : Nat → Inst → Option Nat} {d a : Reg} {word : Instr}
  (hw : ∀ s, Sys2Proof.Machine.exec word s = samo w f d a s)
include hw

theorem exec_samo (s : State) : Sys2Proof.Machine.exec word s = lift (fun s i _ =>
    scratchSpan (s.scratchBound i.key.ctx) (i.getS a).toNat (samoBytes w) >>= fun o =>
      if o % samoBytes w ≠ 0 then .error { cause := .scratchAlign, faddr := o } else samoAt w f d s i o) s :=
  (hw s).trans (samo_eq w f d a s)

theorem samo_runs {new : Inst → Nat → Option Nat} (hnew : ∀ i x, f x i = new i x) (o : Nat) (bs : List Byte) : RunsWhen word
    (fun s i => (i.getS a).toNat = o ∧ o % samoBytes w = 0 ∧ o + samoBytes w ≤ s.scratchBound i.key.ctx ∧ i.nEff < 32 ∧
      (upFrom o (samoBytes w)).map (s.scratchSeen i) = bs.map some)
    (fun s _ i => ((i.recording (s.takenBytes i o (samoBytes w))).withEffect
      (samoEffect o (samoBytes w) (new i (numberOf bs)))).setS d (BitVec.ofNat 64 (numberOf bs))) := by
  refine .of_lift (exec_samo hw) fun s c i ⟨ho, halign, hin, hn, hseen⟩ => ?_
  rw [Inst.past_getS, Inst.past_key, ho, scratchSpan_ok hin, ok_bind, if_neg (not_not.mpr halign), samoAt,
    State.readScratch_ok (i := i.past c) hseen, ok_bind, hnew,
    Inst.effect_ok (by rw [Inst.recording_nEff, Inst.past_nEff]; omega), ok_bind]
  rfl

theorem samo_outside : Traps word (fun s i => s.scratchBound i.key.ctx < (i.getS a).toNat + samoBytes w)
    (fun s i => outsideTrap (s.scratchBound i.key.ctx) (i.getS a).toNat 0) :=
  .of_check (exec_samo hw) fun _ _ _ h => scratchSpan_error (.inr (by exact_mod_cast h))

theorem samo_misaligned : Traps word
    (fun s i => (i.getS a).toNat + samoBytes w ≤ s.scratchBound i.key.ctx ∧ (i.getS a).toNat % samoBytes w ≠ 0)
    (fun _ i => { cause := .scratchAlign, faddr := (i.getS a).toNat }) := by
  refine .of_lift (exec_samo hw) fun s c i ⟨hin, halign⟩ => ?_
  rw [Inst.past_getS, Inst.past_key, scratchSpan_ok hin, ok_bind, if_pos halign]

theorem samo_poison (p o : Nat) : Traps word
    (fun s i => (i.getS a).toNat = o ∧ o + samoBytes w ≤ s.scratchBound i.key.ctx ∧ o % samoBytes w = 0 ∧ o ≤ p ∧
      p < o + samoBytes w ∧ s.scratchSeen i p = none ∧ ∀ q, o ≤ q → q < p → s.scratchSeen i q ≠ none)
    (fun _ _ => { cause := .poisonConsumed, faddr := p }) := by
  refine .of_lift (exec_samo hw) fun s c i ⟨ho, hin, halign, hlo, hp, hnone, hseen⟩ => ?_
  rw [Inst.past_getS, Inst.past_key, ho, scratchSpan_ok hin, ok_bind, if_neg (not_not.mpr halign), samoAt,
    State.readScratch_error (i := i.past c) hlo hp hnone hseen, error_bind]

theorem samo_budget : Traps word
    (fun s i => (i.getS a).toNat + samoBytes w ≤ s.scratchBound i.key.ctx ∧ (i.getS a).toNat % samoBytes w = 0 ∧
      (∀ q, (i.getS a).toNat ≤ q → q < (i.getS a).toNat + samoBytes w → s.scratchSeen i q ≠ none) ∧ 32 ≤ i.nEff)
    (fun _ _ => { cause := .effectBudget }) := by
  refine .of_lift (exec_samo hw) fun s c i ⟨hin, halign, hseen, hn⟩ => ?_
  obtain ⟨bs, hbs⟩ := State.exists_seen hseen
  rw [Inst.past_getS, Inst.past_key, scratchSpan_ok hin, ok_bind, if_neg (not_not.mpr halign), samoAt,
    State.readScratch_ok (i := i.past c) hbs, ok_bind,
    Inst.effect_error (by rw [Inst.recording_nEff, Inst.past_nEff]; omega), error_bind]

end

section
variable (d a b c : Reg) (w u : Bool) (s : State)

theorem exec_samoAdd : Sys2Proof.Machine.exec (.samoAdd d a b w) s = execSamoAdd d a b w s := rfl
theorem exec_samoAnd : Sys2Proof.Machine.exec (.samoAnd d a b w) s = execSamoAnd d a b w s := rfl
theorem exec_samoOr : Sys2Proof.Machine.exec (.samoOr d a b w) s = execSamoOr d a b w s := rfl
theorem exec_samoXor : Sys2Proof.Machine.exec (.samoXor d a b w) s = execSamoXor d a b w s := rfl
theorem exec_samoMin : Sys2Proof.Machine.exec (.samoMin d a b w u) s = execSamoMin d a b w u s := rfl
theorem exec_samoMax : Sys2Proof.Machine.exec (.samoMax d a b w u) s = execSamoMax d a b w u s := rfl
theorem exec_samoSwap : Sys2Proof.Machine.exec (.samoSwap d a b w) s = execSamoSwap d a b w s := rfl
theorem exec_samoCas : Sys2Proof.Machine.exec (.samoCas d a b c w) s = execSamoCas d a b c w s := rfl

end

theorem lowOf_eq (w : Bool) (x : W64) : lowOf w x = x.toNat % 2 ^ (8 * samoBytes w) := by
  cases w with
  | false => rfl
  | true => exact (Nat.mod_eq_of_lt x.isLt).symm

theorem samoLess_iff (w u : Bool) (x y : Nat) : samoLess w u x y = true ↔
    if u then x < y else signedOf (8 * samoBytes w) x < signedOf (8 * samoBytes w) y := by
  cases w <;> cases u <;> exact decide_eq_true_iff

/-- Settles O29: each operation by the value that it makes of the old one. -/
theorem scratchAtomicForms : Obligations.ScratchAtomicForms := by
  intro d a b c w u e val less form
  have hform {word : Instr} {f : Nat → Inst → Option Nat} {new : Inst → Nat → Option Nat}
      (hw : ∀ s, Sys2Proof.Machine.exec word s = samo w f d a s) (hnew : ∀ i x, f x i = new i x) : form word new :=
    fun o bs => samo_runs hw hnew o bs
  have hval (i : Inst) (r : Reg) : lowOf w (i.getS r) = val i r := lowOf_eq w _
  have hless (x y : Nat) : samoLess w u x y = true ↔ less x y := samoLess_iff w u x y
  clear_value form
  refine ⟨?_, ?_, ?_, ?_, fun new hnew => ?_, fun new hnew => ?_, ?_, ?_⟩
  · exact hform (exec_samoAdd d a b w) fun i x => congrArg (fun y => some (x + y)) (hval i b)
  · exact hform (exec_samoAnd d a b w) fun i x => congrArg (fun y => some (x &&& y)) (hval i b)
  · exact hform (exec_samoOr d a b w) fun i x => congrArg (fun y => some (x ||| y)) (hval i b)
  · exact hform (exec_samoXor d a b w) fun i x => congrArg (fun y => some (x ^^^ y)) (hval i b)
  · refine hform (exec_samoMin d a b w u) fun i x => ?_
    dsimp only
    rw [hval]
    split
    case isTrue h => exact ((hnew i x).1 ((hless _ _).mp h)).symm
    case isFalse h => exact ((hnew i x).2 (mt (hless _ _).mpr h)).symm
  · refine hform (exec_samoMax d a b w u) fun i x => ?_
    dsimp only
    rw [hval]
    split
    case isTrue h => exact ((hnew i x).1 ((hless _ _).mp h)).symm
    case isFalse h => exact ((hnew i x).2 (mt (hless _ _).mpr h)).symm
  · exact hform (exec_samoSwap d a b w) fun i _ => congrArg some (hval i b)
  · exact hform (exec_samoCas d a b c w) fun i x => if_congr (by rw [hval i c]) (congrArg some (hval i b)) rfl

/-- Every scratch atomic is `samo` with its operation. -/
theorem exists_exec_samo {d a b c : Reg} {w u : Bool} {word : Instr} (h : word ∈ [Instr.samoAdd d a b w, .samoAnd d a b w,
    .samoOr d a b w, .samoXor d a b w, .samoMin d a b w u, .samoMax d a b w u, .samoSwap d a b w, .samoCas d a b c w]) :
    ∃ f, ∀ s, Sys2Proof.Machine.exec word s = samo w f d a s := by
  simp only [List.mem_cons, List.not_mem_nil, or_false] at h
  obtain rfl | rfl | rfl | rfl | rfl | rfl | rfl | rfl := h
  · exact ⟨_, exec_samoAdd d a b w⟩
  · exact ⟨_, exec_samoAnd d a b w⟩
  · exact ⟨_, exec_samoOr d a b w⟩
  · exact ⟨_, exec_samoXor d a b w⟩
  · exact ⟨_, exec_samoMin d a b w u⟩
  · exact ⟨_, exec_samoMax d a b w u⟩
  · exact ⟨_, exec_samoSwap d a b w⟩
  · exact ⟨_, exec_samoCas d a b c w⟩

/-! ### Faults -/

theorem State.scratchBound_zero (s : State) : s.scratchBound 0 = 0 := rfl

theorem State.scratchBound_of_not_resident {s : State} {ctx : Nat} (h : s.resident ctx = none) : s.scratchBound ctx = 0 := by
  rw [State.scratchBound, h]
  exact ite_self 0

theorem indexOffsets_eq (i : Inst) (a b : Reg) (e l : Nat) :
    indexOffsets i a b e l = (i.getS a).toNat + elemAt 32 (i.getV b) l * e := rfl

/-- The place of an index that is not outside the words of a frame. -/
theorem exists_word_of_inside {f : Frame} {x : Int} (h : ¬(x < 0 ∨ (f.desc.words : Int) ≤ x)) :
    x = x.toNat ∧ x.toNat < f.desc.words := by omega

/-- The place of an index that names a vector word of a large frame. -/
theorem exists_vector_of_inside {f : Frame} {x : Int} (h : ¬(f.desc.large = false ∨ x < 0 ∨ 5 < x)) :
    x = x.toNat ∧ x.toNat ≤ 5 ∧ f.desc.large = true := by
  rw [not_or, Bool.not_eq_false] at h
  obtain ⟨hl, h⟩ := h
  exact ⟨by omega, by omega, hl⟩

/-- The place of an element within scratch whose lowest unseen byte is known. -/
theorem State.exists_unseen {s : State} {i : Inst} {x : Int} {e p : Nat} (hin : ¬(x < 0 ∨ (s.scratchBound i.key.ctx : Int) < x + e))
    (hlo : x ≤ p) (hp : (p : Int) < x + e) (hnone : s.scratchSeen i p = none)
    (hseen : ∀ q : Nat, x ≤ q → q < p → s.scratchSeen i q ≠ none) :
    ∃ o : Nat, x = o ∧ o + e ≤ s.scratchBound i.key.ctx ∧ o ≤ p ∧ p < o + e ∧ s.scratchSeen i p = none ∧
      ∀ q, o ≤ q → q < p → s.scratchSeen i q ≠ none := by
  lift x to Nat using by omega
  exact ⟨x, rfl, by omega, by omega, by omega, hnone, fun q hq => hseen q (by omega)⟩

/-- Settles O30: the lemma of each access for each fault. -/
theorem frameAndScratchTraps : Obligations.FrameAndScratchTraps := by
  unfold Obligations.FrameAndScratchTraps
  refine ⟨fun d a m => ?_, ?_⟩
  · intro words outside noVector range
    have hwords (s : State) (i : Inst) : words s i = (s.frameOf i).desc.words := by
      show (if _ then _ else _) = ((if _ then _ else _ : Nat) : Int)
      split <;> rfl
    have hout {s : State} {i : Inst} (h : outside s i) :
        baseOffset (i.getS a) m < 0 ∨ ((s.frameOf i).desc.words : Int) ≤ baseOffset (i.getS a) m := by
      rwa [← hwords s i]
    have hin {s : State} {i : Inst} (h : ¬outside s i) := exists_word_of_inside (f := s.frameOf i) (by rwa [← hwords s i])
    refine ⟨(fld_range d a m).mono fun _ _ => hout, (fst_range d a m).mono fun _ _ => hout, fldv_range d a m, fstv_range d a m,
      (fld_poison d a m).mono fun s i h => ?_, (fldv_poison d a m).mono fun s i h => ?_,
      (fst_budget d a m).mono fun s i h => ?_, (fstv_budget d a m).mono fun s i h => ?_⟩
    · obtain ⟨ho, hk⟩ := hin h.1
      exact ⟨_, ho, hk, h.2⟩
    · obtain ⟨ho, hj, hl⟩ := exists_vector_of_inside h.1
      exact ⟨_, ho, hj, hl, h.2⟩
    · obtain ⟨ho, hk⟩ := hin h.1
      exact ⟨_, ho, hk, h.2⟩
    · obtain ⟨ho, hj, hl⟩ := exists_vector_of_inside h.1
      exact ⟨_, ho, hj, hl, h.2⟩
  · intro trap outside
    refine ⟨fun d a t u m => ⟨sld_outside d a t m, sst_outside d a u m, sst_budget d a u m, fun p o => sld_poison d a t m p o⟩,
      fun d a b c w u word h => ?_, fun d a b k t j => ?_, fun s ctx => State.scratchBound_of_not_resident, State.scratchBound_zero⟩
    · obtain ⟨f, hw⟩ := exists_exec_samo h
      exact ⟨samo_outside hw, samo_misaligned hw, samo_poison hw, samo_budget hw⟩
    · intro e live outsideOf unseen store load unit index
      have hload {word : Instr} {off : Inst → Reg → Reg → Nat → Nat → Int} (hoff : Inst.offsetOfRegisters off)
          (hw : ∀ s, Sys2Proof.Machine.exec word s = vectorLoad off d a b k t s) : load word (fun i => off i a b e) := by
        refine ⟨vectorLoad_outside hoff hw j, fun p => (vectorLoad_poison hoff hw j p).mono
          fun s i ⟨hlive, hbelow, hin, hlo, hp, hnone, hseen⟩ =>
            ⟨hlive, hbelow, State.exists_unseen hin hlo hp hnone hseen⟩⟩
      have hstore {word : Instr} {off : Inst → Reg → Reg → Nat → Nat → Int} (hoff : Inst.offsetOfRegisters off)
          (hw : ∀ s, Sys2Proof.Machine.exec word s = vectorStore off d a b k t s) : store word (fun i => off i a b e) :=
        ⟨vectorStore_outside hoff hw j, vectorStore_budget hoff hw⟩
      exact ⟨hload unitOffsets_past (exec_sldv d a b k t), hload indexOffsets_past (exec_sldx d a b k t),
        hstore unitOffsets_past (exec_sstv d a b k t), hstore indexOffsets_past (exec_sstx d a b k t)⟩

end Sys2Proof.Machine
end

section
/-! The classes, the minima and maxima and the compares of floating encodings (R153, R154). -/

namespace Sys2Proof.Machine

/-! ### Encodings of the floating types -/

/-- The sign bit of an encoding. -/
def FFmt.signBit (f : FFmt) (a : Nat) : Bool := a / 2 ^ (f.ebits + f.mbits) % 2 == 1

theorem fmt_regular (t : FloatTy) : t.fmt.regular := by cases t <;> decide

theorem fmt_ieee (t : FloatTy) : t.fmt.kind = .ieee := by cases t <;> rfl

theorem FFmt.decode_zero {f : FFmt} (hf : f.regular) (s : Bool) :
    f.decode (f.zero s) = .fin s ⟨0, 1 - (f.bias : Int) - f.mbits, 1⟩ := by
  have hfields : f.finiteFields 0 0 := ⟨Nat.two_pow_pos _, .inl (FFmt.maxExp_pos hf)⟩
  rw [FFmt.zero, FFmt.decode_pack_finite hf s hfields, FFmt.number, FFmt.significand, if_pos rfl, FFmt.lastBit]
  cases s <;> rfl

theorem FFmt.signBit_zero (f : FFmt) (s : Bool) : f.signBit (f.zero s) = s :=
  FFmt.pack_sign (Nat.two_pow_pos _) (Nat.two_pow_pos _) s

/-- An operand is an encoding of its type (R149). -/
theorem Inst.getF_lt (i : Inst) (t : FloatTy) (r : Reg) : i.getF t r < 2 ^ t.fmt.width := Nat.mod_lt _ (Nat.two_pow_pos _)

/-- A result without a flag. -/
theorem Inst.setF_zero (i : Inst) (d : Reg) (n : Nat) : i.setF d (n, 0) = i.setS d (BitVec.ofNat 64 n) := by
  show { i.setS d (BitVec.ofNat 64 n) with flags := (i.setS d (BitVec.ofNat 64 n)).flags ||| 0#5 } = _
  rw [BitVec.or_zero]

/-! ### Classes (R154) -/

/-- The bit of the class of an encoding, by its fields (R51, R52). -/
def FFmt.classBit (f : FFmt) (x : Nat) : Nat :=
  let s := x / 2 ^ (f.width - 1)
  let e := x / 2 ^ f.mbits % 2 ^ f.ebits
  let m := x % 2 ^ f.mbits
  if e = 2 ^ f.ebits - 1 then
    if m = 0 then if s = 1 then 0 else 7
    else if m < 2 ^ (f.mbits - 1) then 8 else 9
  else if e = 0 then
    if m = 0 then if s = 1 then 3 else 4
    else if s = 1 then 2 else 5
  else if s = 1 then 1 else 6

theorem FFmt.signBit_iff {f : FFmt} {a : Nat} (ha : a < 2 ^ f.width) :
    (a / 2 ^ (f.ebits + f.mbits) % 2 == 1) = true ↔ a / 2 ^ (f.width - 1) = 1 := by
  have hw : f.width = f.ebits + f.mbits + 1 := by rw [FFmt.width, add_assoc, Nat.add_comm]
  have hlt : a / 2 ^ (f.ebits + f.mbits) < 2 := Nat.div_lt_of_lt_mul (by rwa [← pow_succ, ← hw])
  rw [hw, Nat.add_sub_cancel, beq_iff_eq, Nat.mod_eq_of_lt hlt]

theorem Exact.isZero_signed (s : Bool) (n : Nat) (k : Int) (d : Nat) :
    (Exact.mk (if s then -(n : Int) else n) k d).isZero = decide (n = 0) := by
  rw [Bool.eq_iff_iff, Exact.isZero, beq_iff_eq, decide_eq_true_iff]
  cases s <;> simp

theorem floatClass_eq {f : FFmt} (hf : f.regular) (hk : f.kind = .ieee) {a : Nat} (ha : a < 2 ^ f.width) :
    floatClass f a = 2 ^ f.classBit a := by
  have htop : 0 ≠ 2 ^ f.ebits - 1 := by
    have : 2 ^ 2 ≤ 2 ^ f.ebits := Nat.pow_le_pow_right two_pos hf.1
    omega
  have hsign : (a / 2 ^ (f.ebits + f.mbits) % 2 == 1) = decide (a / 2 ^ (f.width - 1) = 1) := by
    rw [Bool.eq_iff_iff, FFmt.signBit_iff ha, decide_eq_true_iff]
  unfold floatClass FFmt.decode FFmt.classBit
  rw [hk, hsign]
  generalize a / 2 ^ f.mbits % 2 ^ f.ebits = e
  generalize a % 2 ^ f.mbits = m
  generalize a / 2 ^ (f.width - 1) = s
  dsimp only
  by_cases he : e = 2 ^ f.ebits - 1
  · rw [if_pos he, if_pos he]
    by_cases hm : m = 0
    · rw [if_pos hm, if_pos hm]
      by_cases hs : s = 1 <;> simp [hs]
    · rw [if_neg hm, if_neg hm]
      by_cases hq : m < 2 ^ (f.mbits - 1) <;> simp [hq, Nat.div_eq_zero_iff]
  · rw [if_neg he, if_neg he]
    by_cases h0 : e = 0
    · rw [if_pos h0, if_pos h0]
      dsimp only
      rw [Exact.isZero_signed]
      by_cases hm : m = 0
      · rw [if_pos hm]
        by_cases hs : s = 1 <;> simp [hs, hm]
      · rw [if_neg hm]
        by_cases hs : s = 1 <;> simp [hs, hm, h0]
    · rw [if_neg h0, if_neg h0]
      dsimp only
      rw [Exact.isZero_signed, decide_eq_false (by have := Nat.two_pow_pos f.mbits; omega)]
      by_cases hs : s = 1 <;> simp [hs, h0]

theorem exec_fcls (d a : Reg) (t : FloatTy) (s : State) : Sys2Proof.Machine.exec (.fcls d a t) s =
    liftPure (fun i => i.setF d (floatClass t.fmt (i.getF t a), 0)) s := rfl

/-! ### Minima and maxima (R153) -/

theorem signals_eq (vs : List FVal) : signals vs = signalling vs := by
  unfold signals signalling
  simp only [List.any_eq_true, beq_iff_eq, exists_eq_right]

section
variable {f : FFmt} {a b : Nat} (larger : Bool)

theorem floatMinMax_snd : (floatMinMax f larger a b).2 = signalling [f.decode a, f.decode b] := by
  unfold floatMinMax
  dsimp only
  rw [signals_eq]
  split_ifs <;> rfl

theorem floatMinMax_nan_nan (ha : (f.decode a).isNan = true) (hb : (f.decode b).isNan = true) :
    (floatMinMax f larger a b).1 = f.canonicalNan := by
  simp [floatMinMax, ha, hb]

theorem floatMinMax_nan_left (ha : (f.decode a).isNan = true) (hb : (f.decode b).isNan = false) :
    (floatMinMax f larger a b).1 = b := by
  simp [floatMinMax, ha, hb]

theorem floatMinMax_nan_right (ha : (f.decode a).isNan = false) (hb : (f.decode b).isNan = true) :
    (floatMinMax f larger a b).1 = a := by
  simp [floatMinMax, ha, hb]

/-- The first operand counts as the smaller one: by value, or by its sign where the values are equal. -/
def firstSmaller (f : FFmt) (a b : Nat) : Bool :=
  if (f.decode a).compare (f.decode b) = 0 then f.signBit a else decide ((f.decode a).compare (f.decode b) < 0)

theorem floatMinMax_numbers (ha : (f.decode a).isNan = false) (hb : (f.decode b).isNan = false) :
    (floatMinMax f larger a b).1 = if firstSmaller f a b != larger then a else b := by
  simp only [floatMinMax, ha, hb, firstSmaller, FFmt.signBit, Bool.and_self, Bool.false_eq_true, if_false]
  rfl

theorem floatMinMax_of_firstSmaller (ha : (f.decode a).isNan = false) (hb : (f.decode b).isNan = false)
    (h : firstSmaller f a b = true) : (floatMinMax f false a b).1 = a ∧ (floatMinMax f true a b).1 = b := by
  rw [floatMinMax_numbers _ ha hb, floatMinMax_numbers _ ha hb, h]
  exact ⟨rfl, rfl⟩

theorem floatMinMax_of_not_firstSmaller (ha : (f.decode a).isNan = false) (hb : (f.decode b).isNan = false)
    (h : firstSmaller f a b = false) : (floatMinMax f false a b).1 = b ∧ (floatMinMax f true a b).1 = a := by
  rw [floatMinMax_numbers _ ha hb, floatMinMax_numbers _ ha hb, h]
  exact ⟨rfl, rfl⟩

theorem firstSmaller_of_lt (h : (f.decode a).compare (f.decode b) < 0) : firstSmaller f a b = true := by
  rw [firstSmaller, if_neg h.ne, decide_eq_true h]

theorem firstSmaller_of_gt (h : 0 < (f.decode a).compare (f.decode b)) : firstSmaller f a b = false := by
  rw [firstSmaller, if_neg h.ne', decide_eq_false h.not_gt]

end

/-- Of a zero pair of opposite signs, −0 counts as the smaller. -/
theorem firstSmaller_zero {f : FFmt} (hf : f.regular) (s g : Bool) : firstSmaller f (f.zero s) (f.zero g) = s := by
  have hcmp : (f.decode (f.zero s)).compare (f.decode (f.zero g)) = 0 := by
    rw [FFmt.decode_zero hf, FFmt.decode_zero hf]
    show ((Exact.sub _ _).num).sign = 0
    simp [Exact.sub, Exact.add, Exact.neg]
  rw [firstSmaller, if_pos hcmp, FFmt.signBit_zero]

/-! ### Compares (R153) -/

section
variable (t : FloatTy) {a b : Nat}

theorem compareWord_nan {p : Rel} (hp : p ≠ .ne) (h : (t.fmt.decode a).isNan = true ∨ (t.fmt.decode b).isNan = true) :
    compareWord t p a b = (0, if p = .eq then signalling [t.fmt.decode a, t.fmt.decode b] else flagInvalid) := by
  rw [← Bool.or_eq_true] at h
  unfold compareWord floatCompare
  simp [h, hp, signals_eq]

theorem compareWord_numbers {p : Rel} (ha : (t.fmt.decode a).isNan = false) (hb : (t.fmt.decode b).isNan = false) :
    compareWord t p a b = (if p.holds ((t.fmt.decode a).compare (t.fmt.decode b)) then 1 else 0, 0) := by
  unfold compareWord floatCompare
  simp only [ha, hb, Bool.or_self, Bool.false_eq_true, if_false, Bool.toNat, Bool.cond_eq_ite]

theorem nan_or_numbers (u v : FVal) : (u.isNan = true ∨ v.isNan = true) ∨ u.isNan = false ∧ v.isNan = false := by
  cases u.isNan <;> cases v.isNan <;> decide

theorem compareWord_fst {p : Rel} (hp : p ≠ .ne) (a b : Nat) : (compareWord t p a b).1 =
    if (t.fmt.decode a).isNan = false ∧ (t.fmt.decode b).isNan = false ∧
      p.holds ((t.fmt.decode a).compare (t.fmt.decode b)) = true then 1 else 0 := by
  obtain h | ⟨ha, hb⟩ := nan_or_numbers (t.fmt.decode a) (t.fmt.decode b)
  · rw [compareWord_nan t hp h]
    refine (if_neg fun ⟨ha, hb, _⟩ => ?_).symm
    rw [ha, hb] at h
    exact absurd h (by decide)
  · rw [compareWord_numbers t ha hb]
    exact if_congr (by rw [ha, hb]; simp) rfl rfl

theorem compareWord_snd_eq (a b : Nat) : (compareWord t .eq a b).2 = signalling [t.fmt.decode a, t.fmt.decode b] := by
  obtain h | ⟨ha, hb⟩ := nan_or_numbers (t.fmt.decode a) (t.fmt.decode b)
  · rw [compareWord_nan t (by decide) h, if_pos rfl]
  · rw [compareWord_numbers t ha hb]
    refine (if_neg fun hmem => ?_).symm
    obtain heq | heq := List.mem_pair.mp hmem
    · rw [← heq] at ha
      cases ha
    · rw [← heq] at hb
      cases hb

theorem compareWord_snd_order {p : Rel} (hp : p ≠ .eq) (hne : p ≠ .ne) (a b : Nat) : (compareWord t p a b).2 =
    if (t.fmt.decode a).isNan = true ∨ (t.fmt.decode b).isNan = true then flagInvalid else 0 := by
  obtain h | ⟨ha, hb⟩ := nan_or_numbers (t.fmt.decode a) (t.fmt.decode b)
  · rw [compareWord_nan t hne h, if_pos h]
    exact if_neg hp
  · rw [compareWord_numbers t ha hb, ha, hb]
    rfl

end

theorem signalling_pair (u v : FVal) : signalling [u, v] = if u = .nan true ∨ v = .nan true then flagInvalid else 0 := by
  simp only [signalling, List.mem_pair, eq_comm]

/-- Settles O21: NaNs, the order by value and the zeros of both signs, each by its lemma. -/
theorem minMaxAndCompare : Obligations.MinMaxAndCompare := by
  intro t a b _ _ f va vb signals
  have hf : f.regular := fmt_regular t
  refine ⟨fun larger => ⟨floatMinMax_nan_nan larger, floatMinMax_nan_left larger, floatMinMax_nan_right larger, fun h => ?_, fun h => ?_⟩,
    fun ha hb => ⟨fun h => ?_, fun h => ?_, fun h0 h1 => ?_, fun h0 h1 => ?_, fun _ larger => ?_⟩,
    ?_, ?_, ?_, ?_, compareWord_snd_order t (by decide) (by decide) a b, compareWord_snd_order t (by decide) (by decide) a b,
    FFmt.decode_zero hf true, FFmt.decode_zero hf false⟩
  · rw [floatMinMax_snd, signalling_pair, if_pos h]
  · rw [floatMinMax_snd, signalling_pair, if_neg h]
  · exact floatMinMax_of_firstSmaller ha hb (firstSmaller_of_lt h)
  · exact floatMinMax_of_not_firstSmaller ha hb (firstSmaller_of_gt h)
  · exact floatMinMax_of_firstSmaller ha hb (h0 ▸ h1 ▸ firstSmaller_zero hf true false)
  · exact floatMinMax_of_not_firstSmaller ha hb (h0 ▸ h1 ▸ firstSmaller_zero hf false true)
  · rw [floatMinMax_numbers larger ha hb]
    exact ite_eq_or_eq _ _ _
  · rw [compareWord_fst t (by decide)]
    simp only [Rel.holds, beq_iff_eq]
    rfl
  · rw [compareWord_fst t (by decide)]
    simp only [Rel.holds, decide_eq_true_eq]
    rfl
  · rw [compareWord_fst t (by decide)]
    simp only [Rel.holds, decide_eq_true_eq]
    rfl
  · rw [compareWord_snd_eq, signalling_pair]

end Sys2Proof.Machine

namespace Sys2Proof.Laws.ScalarFloat
open Sys2Proof.Machine

/-- Settles O22: the one-hot class has the bit of the class of the fields. -/
theorem floatClass : Obligations.FloatClass := by
  intro d a t
  refine .of_pure_eq (exec_fcls d a t) fun i => ?_
  rw [Inst.setF_zero, floatClass_eq (fmt_regular t) (fmt_ieee t) (i.getF_lt t a)]
  refine congrArg (i.setS d) (BitVec.eq_of_toNat_eq ?_)
  rw [BitVec.toNat_ofNat, BitVec.toNat_shiftLeft, Nat.shiftLeft_eq]
  show _ = 1 % _ * 2 ^ t.fmt.classBit (i.getF t a) % _
  rw [Nat.one_mod_two_pow (by decide), Nat.one_mul]

end Sys2Proof.Laws.ScalarFloat
end

section
/-! The exact values of floating encodings, and sums, products, quotients, roots and fused products rounded once (R53, R63, R68,
R149 to R151). -/

namespace Sys2Proof.Machine

/-! ### Encodings by sign and magnitude -/

/-- The value of a sign and the bits below it (R52). -/
def FFmt.decodeOf (f : FFmt) (s : Bool) (l : Nat) : FVal :=
  let e := l / 2 ^ f.mbits
  let m := l % 2 ^ f.mbits
  match f.kind with
  | .ieee =>
    if e = 2 ^ f.ebits - 1 then if m = 0 then .inf s else .nan (m / 2 ^ (f.mbits - 1) == 0) else .fin s (f.number s e m)
  | .nanOnly => if e = 2 ^ f.ebits - 1 ∧ m = 2 ^ f.mbits - 1 then .nan false else .fin s (f.number s e m)
  | .finite => .fin s (f.number s e m)

/-- The number of the fields, by the exponent field (R51, R52). -/
theorem FFmt.fin_number (f : FFmt) (s : Bool) (e m : Nat) :
    (if e = 0 then FVal.fin s ⟨if s then -(m : Int) else m, 1 - (f.bias : Int) - f.mbits, 1⟩
      else .fin s ⟨if s then -((2 ^ f.mbits + m : Nat) : Int) else (2 ^ f.mbits + m : Nat), (e : Int) - f.bias - f.mbits, 1⟩)
    = .fin s (f.number s e m) := by
  unfold FFmt.number FFmt.significand FFmt.lastBit
  by_cases he : e = 0
  · simp [he]
  · rw [if_neg he, if_neg he, max_eq_left (by omega)]

theorem FFmt.decode_eq (f : FFmt) (a : Nat) : f.decode a = f.decodeOf (f.signBit a) (a % 2 ^ (f.ebits + f.mbits)) := by
  have he : a % 2 ^ (f.ebits + f.mbits) / 2 ^ f.mbits = a / 2 ^ f.mbits % 2 ^ f.ebits := by
    rw [Nat.add_comm, pow_add, Nat.mod_mul_right_div_self]
  have hm : a % 2 ^ (f.ebits + f.mbits) % 2 ^ f.mbits = a % 2 ^ f.mbits :=
    Nat.mod_mod_of_dvd _ (pow_dvd_pow 2 (Nat.le_add_left _ _))
  unfold FFmt.decodeOf
  dsimp only
  rw [he, hm, ← FFmt.fin_number]
  rfl

/-- A value with its sign changed; a NaN stays. -/
def FVal.negated (v : FVal) : FVal :=
  match v with
  | .fin s x => .fin (!s) x.neg
  | .inf s => .inf !s
  | .nan sg => .nan sg

theorem FVal.negated_fin (s : Bool) (x : Exact) : (FVal.fin s x).negated = .fin (!s) x.neg := rfl

theorem FVal.negated_inf (s : Bool) : (FVal.inf s).negated = .inf !s := rfl

theorem FVal.negated_nan (sg : Bool) : (FVal.nan sg).negated = .nan sg := rfl

theorem FFmt.number_not (f : FFmt) (s : Bool) (e m : Nat) : f.number (!s) e m = (f.number s e m).neg := by
  cases s <;> simp [FFmt.number, Exact.neg]

theorem FFmt.decodeOf_not (f : FFmt) (s : Bool) (l : Nat) : f.decodeOf (!s) l = (f.decodeOf s l).negated := by
  unfold FFmt.decodeOf
  cases f.kind <;>
    simp only [apply_ite FVal.negated, FVal.negated_fin, FVal.negated_inf, FVal.negated_nan, FFmt.number_not]

theorem FFmt.signBit_eq_testBit (f : FFmt) (a : Nat) : f.signBit a = a.testBit (f.ebits + f.mbits) := by
  rw [FFmt.signBit, Nat.testBit_eq_decide_div_mod_eq, Bool.eq_iff_iff, beq_iff_eq, decide_eq_true_iff]

theorem FFmt.testBit_floatNegBits (f : FFmt) (a j : Nat) : (floatNegBits f a).testBit j =
    (decide (j < f.width) && (a.testBit j ^^ decide (f.ebits + f.mbits = j))) := by
  rw [floatNegBits, Nat.testBit_mod_two_pow, Nat.testBit_xor, Nat.testBit_two_pow]

theorem FFmt.width_eq (f : FFmt) : f.width = f.ebits + f.mbits + 1 := by
  rw [FFmt.width]
  omega

/-- An encoding with its sign bit inverted stands for the value with its sign changed (R53). -/
theorem FFmt.decode_floatNegBits (f : FFmt) (a : Nat) : f.decode (floatNegBits f a) = (f.decode a).negated := by
  have hs : f.signBit (floatNegBits f a) = !f.signBit a := by
    simp [FFmt.signBit_eq_testBit, FFmt.testBit_floatNegBits, FFmt.width_eq]
  have hlow : floatNegBits f a % 2 ^ (f.ebits + f.mbits) = a % 2 ^ (f.ebits + f.mbits) := by
    refine Nat.eq_of_testBit_eq fun j => ?_
    rw [Nat.testBit_mod_two_pow, Nat.testBit_mod_two_pow, FFmt.testBit_floatNegBits]
    by_cases hj : j < f.ebits + f.mbits
    · simp [hj, hj.ne', show j < f.width by rw [FFmt.width_eq]; omega]
    · simp [hj]
  rw [FFmt.decode_eq, FFmt.decode_eq, hs, hlow, FFmt.decodeOf_not]

/-- An encoding has no more bits than its width. -/
theorem FFmt.decode_mod (f : FFmt) (a : Nat) : f.decode (a % 2 ^ f.width) = f.decode a := by
  have hs : f.signBit (a % 2 ^ f.width) = f.signBit a := by
    rw [FFmt.signBit_eq_testBit, FFmt.signBit_eq_testBit, Nat.testBit_mod_two_pow, FFmt.width_eq]
    simp
  have hlow : a % 2 ^ f.width % 2 ^ (f.ebits + f.mbits) = a % 2 ^ (f.ebits + f.mbits) :=
    Nat.mod_mod_of_dvd _ (pow_dvd_pow 2 (by rw [FFmt.width_eq]; omega))
  rw [FFmt.decode_eq, FFmt.decode_eq, hs, hlow]

/-- The three kinds of values of an encoding. -/
theorem FFmt.decode_cases (f : FFmt) (a : Nat) : (∃ e m, f.decode a = .fin (f.signBit a) (f.number (f.signBit a) e m)) ∨
    (f.decode a = .inf (f.signBit a) ∧ f.kind = .ieee) ∨ ∃ sg, f.decode a = .nan sg := by
  rw [FFmt.decode_eq]
  unfold FFmt.decodeOf
  cases hk : f.kind with
  | ieee =>
    dsimp only
    split_ifs
    · exact .inr (.inl ⟨rfl, rfl⟩)
    · exact .inr (.inr ⟨_, rfl⟩)
    · exact .inl ⟨_, _, rfl⟩
  | nanOnly =>
    dsimp only
    split_ifs
    · exact .inr (.inr ⟨_, rfl⟩)
    · exact .inl ⟨_, _, rfl⟩
  | finite => exact .inl ⟨_, _, rfl⟩

/-- A finite value has the sign bit of its encoding, and its number that sign. -/
theorem FFmt.decode_fin {f : FFmt} {a : Nat} {s : Bool} {x : Exact} (h : f.decode a = .fin s x) :
    s = f.signBit a ∧ ∃ e m, x = f.number s e m := by
  obtain ⟨e, m, hfin⟩ | ⟨hinf, -⟩ | ⟨sg, hnan⟩ := f.decode_cases a
  · obtain ⟨rfl, rfl⟩ := FVal.fin.inj (h.symm.trans hfin)
    exact ⟨rfl, e, m, rfl⟩
  · cases h.symm.trans hinf
  · cases h.symm.trans hnan

theorem FFmt.decode_inf {f : FFmt} {a : Nat} {s : Bool} (h : f.decode a = .inf s) : s = f.signBit a ∧ f.kind = .ieee := by
  obtain ⟨e, m, hfin⟩ | ⟨hinf, hk⟩ | ⟨sg, hnan⟩ := f.decode_cases a
  · cases h.symm.trans hfin
  · exact ⟨FVal.inf.inj (h.symm.trans hinf), hk⟩
  · cases h.symm.trans hnan

theorem FFmt.decode_den {f : FFmt} {a : Nat} {s : Bool} {x : Exact} (h : f.decode a = .fin s x) : 0 < x.den := by
  obtain ⟨-, e, m, rfl⟩ := FFmt.decode_fin h
  exact one_pos

theorem FFmt.decode_signed {f : FFmt} {a : Nat} {s : Bool} {x : Exact} (h : f.decode a = .fin s x) :
    x.rat = if s then -|x.rat| else |x.rat| := by
  obtain ⟨-, e, m, rfl⟩ := FFmt.decode_fin h
  rw [FFmt.abs_rat_number, FFmt.rat_number]

/-! ### The one rounding -/

/-- A result is an exact number rounded once. -/
def RoundedOnce (f : FFmt) (r : Round) (v : ℚ) (out : Flagged) : Prop :=
  ∃ e : Exact, 0 < e.den ∧ e.rat = v ∧ out = roundTo f r false e

/-- The exact sum of two finite numbers rounded once, and the sign of an exact zero (R53). -/
theorem roundSum_spec {f : FFmt} {r : Round} {x y : Exact} (hx : 0 < x.den) (hy : 0 < y.den) (s g : Bool) :
    (x.rat + y.rat ≠ 0 → RoundedOnce f r (x.rat + y.rat) (roundSum f r s x g y)) ∧
    (x.rat + y.rat = 0 → roundSum f r s x g y = (f.zero (if y.rat = 0 ∧ s = g then s else decide (r = .rdn)), 0)) := by
  have hz : (x.add y).isZero = true ↔ x.rat + y.rat = 0 := by
    rw [Exact.isZero_iff (Exact.den_add_pos hx hy), Exact.rat_add hx hy]
  unfold roundSum
  dsimp only
  refine ⟨fun h => ⟨x.add y, Exact.den_add_pos hx hy, Exact.rat_add hx hy, if_neg (mt hz.mp h)⟩, fun h => ?_⟩
  have hboth : (x.isZero && y.isZero && s == g) = true ↔ y.rat = 0 ∧ s = g := by
    rw [Bool.and_eq_true, Bool.and_eq_true, Exact.isZero_iff hx, Exact.isZero_iff hy, beq_iff_eq]
    constructor
    · rintro ⟨⟨-, h0⟩, hs⟩
      exact ⟨h0, hs⟩
    · rintro ⟨h0, hs⟩
      exact ⟨⟨by rwa [h0, add_zero] at h, h0⟩, hs⟩
  rw [if_pos (hz.mpr h)]
  by_cases hc : y.rat = 0 ∧ s = g
  · rw [if_pos (hboth.mpr hc), if_pos hc]
  · rw [if_neg (mt hboth.mp hc), if_neg hc]
    rfl

/-- The result of an operation with a NaN operand (R53, R68). -/
theorem nan_result (f : FFmt) (vs : List FVal) : (f.canonicalNan, signals vs) = (f.canonicalNan, signalling vs) := by
  rw [signals_eq]

/-! ### Sums (R53, R63, R68) -/

/-- The sum of two values rounded once. -/
def FVal.SumTo (f : FFmt) (r : Round) (u v : FVal) (out : Flagged) : Prop :=
  match u, v with
  | .fin s x, .fin g y => (x.rat + y.rat ≠ 0 → RoundedOnce f r (x.rat + y.rat) out) ∧
      (x.rat + y.rat = 0 → out = (f.zero (if x.rat = 0 ∧ s = g then s else decide (r = .rdn)), 0))
  | .inf s, .inf g => out = if s = g then (f.infinity s, 0) else (f.canonicalNan, flagInvalid)
  | .inf s, .fin _ _ => out = (f.infinity s, 0)
  | .fin _ _, .inf s => out = (f.infinity s, 0)
  | _, _ => out = (f.canonicalNan, signalling [u, v])

theorem floatAdd_sumTo (f : FFmt) (r : Round) (a b : Nat) : FVal.SumTo f r (f.decode a) (f.decode b) (floatAdd f r a b) := by
  unfold floatAdd
  cases ha : f.decode a with
  | fin s x =>
    cases hb : f.decode b with
    | fin g y =>
      obtain ⟨hne, h0⟩ := roundSum_spec (f := f) (r := r) (FFmt.decode_den ha) (FFmt.decode_den hb) s g
      refine ⟨hne, fun h => (h0 h).trans ?_⟩
      simp only [eq_neg_of_add_eq_zero_left h, neg_eq_zero]
    | inf g => rfl
    | nan sg => exact nan_result f _
  | inf s =>
    cases hb : f.decode b with
    | fin g y => rfl
    | inf g => simp [FVal.SumTo]
    | nan sg => exact nan_result f _
  | nan sg => cases hb : f.decode b <;> exact nan_result f _

theorem floatSub_sumTo (f : FFmt) (r : Round) (a b : Nat) :
    FVal.SumTo f r (f.decode a) (f.decode b).negated (floatSub f r a b) := by
  rw [← FFmt.decode_floatNegBits]
  exact floatAdd_sumTo f r a _

/-! ### Products and quotients (R63, R68) -/

/-- The product of two values rounded once. -/
def FVal.ProductTo (f : FFmt) (r : Round) (u v : FVal) (out : Flagged) : Prop :=
  match u, v with
  | .fin s x, .fin g y => (x.rat * y.rat ≠ 0 → RoundedOnce f r (x.rat * y.rat) out) ∧
      (x.rat * y.rat = 0 → out = (f.zero (s != g), 0))
  | .inf s, .inf g => out = (f.infinity (s != g), 0)
  | .inf s, .fin g y => out = if y.rat = 0 then (f.canonicalNan, flagInvalid) else (f.infinity (s != g), 0)
  | .fin g y, .inf s => out = if y.rat = 0 then (f.canonicalNan, flagInvalid) else (f.infinity (s != g), 0)
  | _, _ => out = (f.canonicalNan, signalling [u, v])

theorem Exact.ite_isZero {α : Type} {x : Exact} (hx : 0 < x.den) (p q : α) :
    (if x.isZero then p else q) = if x.rat = 0 then p else q := if_congr (Exact.isZero_iff hx) rfl rfl

theorem floatMul_productTo (f : FFmt) (r : Round) (a b : Nat) :
    FVal.ProductTo f r (f.decode a) (f.decode b) (floatMul f r a b) := by
  unfold floatMul
  cases ha : f.decode a with
  | fin s x =>
    cases hb : f.decode b with
    | fin g y =>
      have hx := FFmt.decode_den ha
      have hy := FFmt.decode_den hb
      have h0 : (x.isZero || y.isZero) = true ↔ x.rat * y.rat = 0 := by
        rw [Bool.or_eq_true, Exact.isZero_iff hx, Exact.isZero_iff hy, mul_eq_zero]
      exact ⟨fun h => ⟨x.mul y, Nat.mul_pos hx hy, Exact.rat_mul x y, if_neg (mt h0.mp h)⟩, fun h => if_pos (h0.mpr h)⟩
    | inf g => exact Exact.ite_isZero (FFmt.decode_den ha) _ _
    | nan sg => exact nan_result f _
  | inf s =>
    cases hb : f.decode b with
    | fin g y => exact Exact.ite_isZero (FFmt.decode_den hb) _ _
    | inf g => rfl
    | nan sg => exact nan_result f _
  | nan sg => cases hb : f.decode b <;> exact nan_result f _

/-- The quotient of two values rounded once. -/
def FVal.QuotientTo (f : FFmt) (r : Round) (u v : FVal) (out : Flagged) : Prop :=
  match u, v with
  | .fin s x, .fin g y => (y.rat ≠ 0 → x.rat ≠ 0 → RoundedOnce f r (x.rat / y.rat) out) ∧
      (y.rat ≠ 0 → x.rat = 0 → out = (f.zero (s != g), 0)) ∧
      (y.rat = 0 → out = if x.rat = 0 then (f.canonicalNan, flagInvalid) else (f.infinity (s != g), flagDivZero))
  | .inf _, .inf _ => out = (f.canonicalNan, flagInvalid)
  | .inf s, .fin g _ => out = (f.infinity (s != g), 0)
  | .fin s _, .inf g => out = (f.zero (s != g), 0)
  | _, _ => out = (f.canonicalNan, signalling [u, v])

theorem Exact.rat_div {x y : Exact} (hx : 0 < x.den) (hy : 0 < y.den) (h0 : y.rat ≠ 0) :
    0 < (x.div y).den ∧ (x.div y).rat = x.rat / y.rat := by
  have hn : y.num ≠ 0 := by
    rintro h
    exact h0 (by simp [Exact.rat, h])
  refine ⟨Nat.mul_pos hx (Int.natAbs_pos.mpr hn), ?_⟩
  have hnq : (y.num : ℚ) ≠ 0 := by exact_mod_cast hn
  have habs : (y.num.natAbs : ℚ) = y.num.sign * y.num := by
    rw [← Int.cast_natCast, ← Int.sign_mul_self_eq_natAbs, Int.cast_mul]
  have hsign : (y.num.sign : ℚ) ≠ 0 := by exact_mod_cast mt Int.sign_eq_zero_iff_zero.mp hn
  have hdx : (x.den : ℚ) ≠ 0 := by positivity
  have hdy : (y.den : ℚ) ≠ 0 := by positivity
  have hpow : (2 : ℚ) ^ y.exp ≠ 0 := by positivity
  simp only [Exact.rat, Exact.div]
  push_cast
  rw [habs, zpow_sub₀ two_ne_zero]
  field_simp

theorem floatDiv_quotientTo (f : FFmt) (r : Round) (a b : Nat) :
    FVal.QuotientTo f r (f.decode a) (f.decode b) (floatDiv f r a b) := by
  unfold floatDiv
  cases ha : f.decode a with
  | fin s x =>
    cases hb : f.decode b with
    | fin g y =>
      have hx := FFmt.decode_den ha
      have hy := FFmt.decode_den hb
      simp only [Exact.ite_isZero hx, Exact.ite_isZero hy]
      refine ⟨fun h0 hn => ?_, fun h0 hz => ?_, fun h0 => if_pos h0⟩
      · obtain ⟨hden, hrat⟩ := Exact.rat_div hx hy h0
        exact ⟨_, hden, hrat, by rw [if_neg h0, if_neg hn]⟩
      · rw [if_neg h0, if_pos hz]
    | inf g => rfl
    | nan sg => exact nan_result f _
  | inf s =>
    cases hb : f.decode b with
    | fin g y => rfl
    | inf g => rfl
    | nan sg => exact nan_result f _
  | nan sg => cases hb : f.decode b <;> exact nan_result f _

end Sys2Proof.Machine
end

section
/-! The square root as a number on the same side as the exact root of every number of two more mantissa bits (R63, R68). -/

namespace Sys2Proof.Machine

/-- The bit by bit root is the integer square root. -/
theorem isqrt_eq_sqrt (n k r : Nat) (hlo : r * r ≤ n) (hhi : n < (r + 2 ^ k) * (r + 2 ^ k)) : isqrt n k r = Nat.sqrt n := by
  induction k generalizing r with
  | zero => exact Nat.eq_sqrt.mpr ⟨hlo, hhi⟩
  | succ k ih =>
    unfold isqrt
    dsimp only
    split_ifs with h
    · exact ih _ h (by rwa [pow_succ, mul_two, ← Nat.add_assoc] at hhi)
    · exact ih _ hlo (not_le.mp h)

theorem isqrt_log2 (m : Nat) : isqrt m (m.log2 / 2 + 1) 0 = Nat.sqrt m := by
  refine isqrt_eq_sqrt m _ 0 (Nat.zero_le _) ?_
  calc m < 2 ^ (m.log2 + 1) := Nat.lt_log2_self
    _ ≤ 2 ^ (m.log2 / 2 + 1 + (m.log2 / 2 + 1)) := Nat.pow_le_pow_right two_pos (by omega)
    _ = (0 + 2 ^ (m.log2 / 2 + 1)) * (0 + 2 ^ (m.log2 / 2 + 1)) := by rw [Nat.zero_add, pow_add]

/-- The integer square root, and half a unit more where it is not exact. -/
def halfRoot (m : Nat) : ℚ := if Nat.sqrt m * Nat.sqrt m = m then (Nat.sqrt m : ℚ) else Nat.sqrt m + 1 / 2

theorem halfRoot_pos {m : Nat} (hm : 0 < m) : 0 < halfRoot m := by
  have hs : (0 : ℚ) < Nat.sqrt m := by exact_mod_cast Nat.sqrt_pos.mpr hm
  unfold halfRoot
  split_ifs <;> positivity

/-- A number is on the same side of `halfRoot m` as of the exact root of m, when it is an integer or is below the integer root. -/
theorem sq_compare_halfRoot {m : Nat} {w : ℚ} (h0 : 0 ≤ w) (hw : (∃ n : Nat, w = n) ∨ w < Nat.sqrt m) :
    (w ^ 2 < m ↔ w < halfRoot m) ∧ (w ^ 2 = m ↔ w = halfRoot m) := by
  have hs0 : (0 : ℚ) ≤ Nat.sqrt m := Nat.cast_nonneg _
  unfold halfRoot
  by_cases hsq : Nat.sqrt m * Nat.sqrt m = m
  · have hm : (m : ℚ) = (Nat.sqrt m : ℚ) ^ 2 := by rw [pow_two]; exact_mod_cast hsq.symm
    rw [if_pos hsq, hm]
    exact ⟨pow_lt_pow_iff_left₀ h0 hs0 two_ne_zero, pow_left_inj₀ h0 hs0 two_ne_zero⟩
  rw [if_neg hsq]
  obtain ⟨n, rfl⟩ | hlt := hw
  · have hle : n ^ 2 < m ↔ n ≤ Nat.sqrt m := by
      rw [pow_two]
      refine ⟨fun h => Nat.le_sqrt.mpr h.le, fun h => lt_of_le_of_ne (Nat.le_sqrt.mp h) ?_⟩
      rintro rfl
      exact hsq (by rw [Nat.sqrt_eq])
    have hne : n ^ 2 ≠ m := by
      rintro rfl
      exact hsq (by rw [Nat.sqrt_eq', pow_two])
    have hhalf : (n : ℚ) < Nat.sqrt m + 1 / 2 ↔ n ≤ Nat.sqrt m := by
      constructor
      · intro h
        have : (n : ℚ) < (Nat.sqrt m + 1 : Nat) := by push_cast; linarith
        exact Nat.lt_succ_iff.mp (by exact_mod_cast this)
      · intro h
        have : (n : ℚ) ≤ Nat.sqrt m := by exact_mod_cast h
        linarith
    have hodd : (n : ℚ) ≠ Nat.sqrt m + 1 / 2 := by
      intro h
      have : 2 * n = 2 * Nat.sqrt m + 1 := by
        have h2 : (2 : ℚ) * n = 2 * Nat.sqrt m + 1 := by rw [h]; ring
        exact_mod_cast h2
      omega
    refine ⟨?_, iff_of_false (by exact_mod_cast hne) hodd⟩
    rw [hhalf, ← hle]
    norm_cast
  · have hm : w ^ 2 < m := by
      calc w ^ 2 < (Nat.sqrt m : ℚ) ^ 2 := pow_lt_pow_left₀ hlt h0 two_ne_zero
        _ ≤ m := by exact_mod_cast Nat.sqrt_le' m
    have hw : w < Nat.sqrt m + 1 / 2 := by linarith
    exact ⟨iff_of_true hm hw, iff_of_false hm.ne hw.ne⟩

/-- The root of a positive number, by an even power of two apart from a number of 160 bits and more. -/
theorem sqrtExact_halfRoot {x : Exact} (hd : x.den = 1) (hx : 0 < x.num) :
    ∃ (m : Nat) (e : ℤ), 2 ^ 160 ≤ m ∧ x.rat = m * ((2 : ℚ) ^ e) ^ 2 ∧ (sqrtExact x).den = 1 ∧
      (sqrtExact x).rat = halfRoot m * 2 ^ e := by
  obtain ⟨num, exp, den⟩ := x
  obtain ⟨n, rfl⟩ : ∃ n : Nat, num = n := ⟨num.toNat, (Int.toNat_of_nonneg hx.le).symm⟩
  dsimp only at hd hx
  subst hd
  set sh : Nat := 160 + (if exp % 2 == 0 then 0 else 1) with hsh
  have heven : exp - sh = 2 * ((exp - sh) / 2) := by
    rw [hsh]
    by_cases h : exp % 2 = 0 <;> simp [h] <;> omega
  refine ⟨n * 2 ^ sh, (exp - sh) / 2, ?_, ?_, ?_, ?_⟩
  · calc 2 ^ 160 ≤ 2 ^ sh := Nat.pow_le_pow_right two_pos (by omega)
      _ ≤ n * 2 ^ sh := Nat.le_mul_of_pos_left _ (by exact_mod_cast hx)
  · rw [Exact.rat_den_one, ← zpow_natCast, ← zpow_mul, Nat.cast_ofNat, mul_comm _ (2 : ℤ), ← heven]
    push_cast
    rw [mul_assoc, ← zpow_natCast, ← zpow_add₀ two_ne_zero, add_sub_cancel]
  · unfold sqrtExact
    dsimp only
    split_ifs <;> rfl
  · unfold sqrtExact halfRoot
    dsimp only
    rw [Int.natAbs_natCast, ← hsh, isqrt_log2]
    split_ifs with h
    · rw [Exact.rat_den_one]
      simp
    · rw [Exact.rat_den_one, zpow_sub_one₀ two_ne_zero]
      push_cast
      ring

theorem Exact.rat_pos_iff {x : Exact} (hx : 0 < x.den) : 0 < x.num ↔ 0 < x.rat := by
  have h := Exact.rat_neg_iff (x := x.neg) hx
  rwa [Exact.rat_neg, Left.neg_neg_iff, Exact.neg, Left.neg_neg_iff] at h

/-- The root of a value rounded once: of a number on the same side as the exact root of every number of two more mantissa
bits. -/
def FVal.RootTo (f : FFmt) (r : Round) (u : FVal) (out : Flagged) : Prop :=
  match u with
  | .fin s x => (x.rat = 0 → out = (f.zero s, 0)) ∧ (x.rat < 0 → out = (f.canonicalNan, flagInvalid)) ∧
      (0 < x.rat → ∃ e : Exact, 0 < e.den ∧ 0 < e.rat ∧ out = roundTo f r false e ∧
        ∀ (n : ℕ) (k : ℤ), n < 2 ^ (f.mbits + 2) →
          ((n * (2 : ℚ) ^ k) ^ 2 < x.rat ↔ n * (2 : ℚ) ^ k < e.rat) ∧
        ((n * (2 : ℚ) ^ k) ^ 2 = x.rat ↔ n * (2 : ℚ) ^ k = e.rat))
  | .inf s => out = if s then (f.canonicalNan, flagInvalid) else (f.infinity false, 0)
  | .nan _ => out = (f.canonicalNan, signalling [u])

/-- A number of 54 bits at most is on the same side of `sqrtExact x` as of the exact root of x. -/
theorem sqrtExact_compare {m n : Nat} {e k : ℤ} (hm : 2 ^ 160 ≤ m) (hn : n < 2 ^ 54) :
    ((n * (2 : ℚ) ^ k) ^ 2 < m * ((2 : ℚ) ^ e) ^ 2 ↔ n * (2 : ℚ) ^ k < halfRoot m * 2 ^ e) ∧
    ((n * (2 : ℚ) ^ k) ^ 2 = m * ((2 : ℚ) ^ e) ^ 2 ↔ n * (2 : ℚ) ^ k = halfRoot m * 2 ^ e) := by
  have he : (0 : ℚ) < 2 ^ e := by positivity
  have hsplit : n * (2 : ℚ) ^ k = n * 2 ^ (k - e) * 2 ^ e := by
    rw [mul_assoc, ← zpow_add₀ two_ne_zero, sub_add_cancel]
  have hw : (∃ c : Nat, n * (2 : ℚ) ^ (k - e) = c) ∨ n * (2 : ℚ) ^ (k - e) < Nat.sqrt m := by
    by_cases hke : e ≤ k
    · refine .inl ⟨n * 2 ^ (k - e).toNat, ?_⟩
      push_cast
      rw [← zpow_natCast, Int.toNat_of_nonneg (sub_nonneg.mpr hke)]
    · right
      have hpow : (2 : ℚ) ^ (k - e) ≤ 1 := zpow_le_one_of_nonpos₀ one_le_two (by omega)
      have hroot : 2 ^ 54 ≤ Nat.sqrt m := Nat.le_sqrt.mpr (le_trans (by norm_num) hm)
      calc n * (2 : ℚ) ^ (k - e) ≤ n * 1 := mul_le_mul_of_nonneg_left hpow (Nat.cast_nonneg n)
        _ = n := mul_one _
        _ < Nat.sqrt m := by exact_mod_cast hn.trans_le hroot
  obtain ⟨hlt, heq⟩ := sq_compare_halfRoot (by positivity) hw
  rw [hsplit, mul_pow]
  exact ⟨(mul_lt_mul_iff_left₀ (by positivity)).trans (hlt.trans (mul_lt_mul_iff_left₀ he).symm),
    (mul_left_inj' (by positivity)).trans (heq.trans (mul_left_inj' he.ne').symm)⟩

/-- The flag of one NaN operand (R68). -/
theorem nan_flag (sg : Bool) : (if sg then flagInvalid else 0) = signalling [.nan sg] := by cases sg <;> simp [signalling]

theorem floatSqrt_rootTo {f : FFmt} (hf : f.mbits ≤ 52) (r : Round) (a : Nat) :
    FVal.RootTo f r (f.decode a) (floatSqrt f r a) := by
  unfold floatSqrt
  cases ha : f.decode a with
  | fin s x =>
    simp only [Exact.ite_isZero (FFmt.decode_den ha)]
    have hsign := FFmt.decode_signed ha
    refine ⟨fun h0 => if_pos h0, fun hneg => ?_, fun hpos => ?_⟩
    · have hs : s = true := by
        by_contra h
        rw [Bool.not_eq_true] at h
        rw [h] at hsign
        exact absurd (hsign ▸ abs_nonneg x.rat) hneg.not_ge
      rw [if_neg hneg.ne, if_pos hs]
    · have hs : s ≠ true := by
        intro h
        rw [if_pos h] at hsign
        linarith [abs_nonneg x.rat]
      obtain ⟨-, _, _, hx⟩ := FFmt.decode_fin ha
      obtain ⟨m, e, hm, hxr, hden, hrat⟩ := sqrtExact_halfRoot (by rw [hx]; rfl) ((Exact.rat_pos_iff (FFmt.decode_den ha)).mpr hpos)
      refine ⟨sqrtExact x, by rw [hden]; exact one_pos, ?_, by rw [if_neg hpos.ne', if_neg hs], fun n k hn => ?_⟩
      · rw [hrat]
        exact mul_pos (halfRoot_pos (lt_of_lt_of_le (by positivity) hm)) (by positivity)
      · rw [hxr, hrat]
        exact sqrtExact_compare hm (hn.trans_le (Nat.pow_le_pow_right two_pos (by omega)))
  | inf s => rfl
  | nan sg => exact congrArg (f.canonicalNan, ·) (nan_flag sg)

end Sys2Proof.Machine
end

section
/-! The fused product and sum rounded once (R53, R63, R68, R150). -/

namespace Sys2Proof.Machine

/-- The sign of a value that is no NaN. -/
def FVal.sign (v : FVal) : Bool :=
  match v with
  | .fin s _ => s
  | .inf s => s
  | .nan _ => false

theorem FFmt.decode_sign {f : FFmt} {a : Nat} (h : (f.decode a).isNan = false) : (f.decode a).sign = f.signBit a := by
  cases ha : f.decode a with
  | fin s x => exact (FFmt.decode_fin ha).1
  | inf s => exact (FFmt.decode_inf ha).1
  | nan sg => rw [ha] at h; cases h

/-- An infinity and a zero. -/
def FVal.InfZero (u v : FVal) : Prop := ∃ s g y, u = .inf s ∧ v = .fin g y ∧ y.rat = 0

/-- Whether the model takes a product for one of an infinity and a zero. -/
def FVal.prodInvalid (u v : FVal) : Bool :=
  match u, v with
  | .inf _, .fin _ y => y.isZero
  | .fin _ x, .inf _ => x.isZero
  | _, _ => false

theorem FVal.prodInvalid_iff (f : FFmt) (a b : Nat) : FVal.prodInvalid (f.decode a) (f.decode b) = true ↔
    FVal.InfZero (f.decode a) (f.decode b) ∨ FVal.InfZero (f.decode b) (f.decode a) := by
  cases ha : f.decode a <;> cases hb : f.decode b
  case inf.fin s g y => simp [FVal.prodInvalid, FVal.InfZero, Exact.isZero_iff (FFmt.decode_den hb)]
  case fin.inf s x g => simp [FVal.prodInvalid, FVal.InfZero, Exact.isZero_iff (FFmt.decode_den ha)]
  all_goals simp [FVal.prodInvalid, FVal.InfZero]

/-- A fused product and sum without an infinity times a zero, with `sp` the sign of the product. -/
def FVal.FusedValidTo (f : FFmt) (r : Round) (sp : Bool) (u v w : FVal) (out : Flagged) : Prop :=
  match u, v, w with
  | .fin _ x, .fin _ y, .fin g z => (x.rat * y.rat + z.rat ≠ 0 → RoundedOnce f r (x.rat * y.rat + z.rat) out) ∧
      (x.rat * y.rat + z.rat = 0 → out = (f.zero (if z.rat = 0 ∧ sp = g then sp else decide (r = .rdn)), 0))
  | .nan _, _, _ => out = (f.canonicalNan, signalling [u, v, w])
  | _, .nan _, _ => out = (f.canonicalNan, signalling [u, v, w])
  | _, _, .nan _ => out = (f.canonicalNan, signalling [u, v, w])
  | .fin _ _, .fin _ _, .inf g => out = (f.infinity g, 0)
  | _, _, .fin _ _ => out = (f.infinity sp, 0)
  | _, _, .inf g => out = if sp = g then (f.infinity sp, 0) else (f.canonicalNan, flagInvalid)

/-- The fused product and sum of three values rounded once. -/
def FVal.FusedTo (f : FFmt) (r : Round) (u v w : FVal) (out : Flagged) : Prop :=
  (FVal.InfZero u v ∨ FVal.InfZero v u → out = (f.canonicalNan, flagInvalid)) ∧
  (¬(FVal.InfZero u v ∨ FVal.InfZero v u) → FVal.FusedValidTo f r (u.sign != v.sign) u v w out)

theorem FVal.isNan_iff {v : FVal} : v.isNan = true ↔ ∃ sg, v = .nan sg := by cases v <;> simp [FVal.isNan]

theorem FVal.fusedValidTo_nan {f : FFmt} {r : Round} {sp : Bool} {u v w : FVal} {out : Flagged}
    (h : (u.isNan || v.isNan || w.isNan) = true) :
    FVal.FusedValidTo f r sp u v w out ↔ out = (f.canonicalNan, signalling [u, v, w]) := by
  rw [Bool.or_eq_true, Bool.or_eq_true] at h
  simp only [FVal.isNan_iff] at h
  obtain (⟨sg, rfl⟩ | ⟨sg, rfl⟩) | ⟨sg, rfl⟩ := h
  · exact Iff.rfl
  · cases u <;> exact Iff.rfl
  · cases u <;> cases v <;> exact Iff.rfl

/-- The model's fused product and sum of operands that are no NaN. -/
def fusedNumbers (f : FFmt) (r : Round) (sp : Bool) (u v w : FVal) : Flagged :=
  match u, v, w with
  | .fin _ x, .fin _ y, .fin g z => roundSum f r sp (x.mul y) g z
  | .fin _ _, .fin _ _, .inf g => (f.infinity g, 0)
  | _, _, .inf g => if sp == g then (f.infinity g, 0) else (f.canonicalNan, flagInvalid)
  | _, _, _ => (f.infinity sp, 0)

theorem floatFma_eq (f : FFmt) (r : Round) (a b c : Nat) : floatFma f r a b c =
    if FVal.prodInvalid (f.decode a) (f.decode b) then (f.canonicalNan, flagInvalid)
    else if (f.decode a).isNan || (f.decode b).isNan || (f.decode c).isNan then
      (f.canonicalNan, signals [f.decode a, f.decode b, f.decode c])
    else fusedNumbers f r (f.signBit a != f.signBit b) (f.decode a) (f.decode b) (f.decode c) := rfl

/-- An infinite product and an infinite addend. -/
theorem infinite_sum (f : FFmt) (s g : Bool) : (if s == g then (f.infinity g, (0 : BitVec 5)) else (f.canonicalNan, flagInvalid)) =
    if s = g then (f.infinity s, 0) else (f.canonicalNan, flagInvalid) := by
  by_cases h : s = g <;> simp [h]

theorem fusedNumbers_fusedValidTo {f : FFmt} {r : Round} {sp : Bool} {a b c : Nat}
    (h : ((f.decode a).isNan || (f.decode b).isNan || (f.decode c).isNan) = false) :
    FVal.FusedValidTo f r sp (f.decode a) (f.decode b) (f.decode c)
      (fusedNumbers f r sp (f.decode a) (f.decode b) (f.decode c)) := by
  cases ha : f.decode a <;> cases hb : f.decode b <;> cases hc : f.decode c
  case fin.fin.fin s x g y t z =>
    have hspec := roundSum_spec (f := f) (r := r) (x := x.mul y) (y := z)
      (Nat.mul_pos (FFmt.decode_den ha) (FFmt.decode_den hb)) (FFmt.decode_den hc) sp t
    rwa [Exact.rat_mul] at hspec
  case fin.inf.inf | inf.fin.inf | inf.inf.inf => exact infinite_sum f sp _
  case fin.fin.inf | fin.inf.fin | inf.fin.fin | inf.inf.fin => rfl
  all_goals
    rw [ha, hb, hc] at h
    exact absurd h.symm Bool.false_ne_true

theorem floatFma_fusedTo (f : FFmt) (r : Round) (a b c : Nat) :
    FVal.FusedTo f r (f.decode a) (f.decode b) (f.decode c) (floatFma f r a b c) := by
  have hinv := FVal.prodInvalid_iff f a b
  rw [floatFma_eq]
  refine ⟨fun h => if_pos (hinv.mpr h), fun h => ?_⟩
  rw [if_neg (mt hinv.mp h)]
  by_cases hnan : ((f.decode a).isNan || (f.decode b).isNan || (f.decode c).isNan) = true
  · rw [if_pos hnan, FVal.fusedValidTo_nan hnan]
    exact nan_result f _
  · rw [if_neg hnan]
    rw [Bool.not_eq_true] at hnan
    have hab := (Bool.or_eq_false_iff.mp hnan).1
    obtain ⟨hva, hvb⟩ := Bool.or_eq_false_iff.mp hab
    rw [FFmt.decode_sign hva, FFmt.decode_sign hvb]
    exact fusedNumbers_fusedValidTo hnan

theorem floatFnma_fusedTo (f : FFmt) (r : Round) (a b c : Nat) :
    FVal.FusedTo f r (f.decode a).negated (f.decode b) (f.decode c) (floatFnma f r a b c) := by
  rw [← FFmt.decode_floatNegBits]
  exact floatFma_fusedTo f r _ b c

end Sys2Proof.Machine
end

section
/-! Conversions between floating formats and to and from integers (R65 to R67). -/

namespace Sys2Proof.Machine

/-! ### Which conversions widen (R65) -/

theorem widens_narrow_float (q : NarrowFmt) (t : FloatTy) : widens q.fmt t.fmt = true := by
  cases t <;> cases q <;> decide +kernel

theorem widens_float_narrow (t : FloatTy) (q : NarrowFmt) : widens t.fmt q.fmt = false := by
  cases t <;> cases q <;> decide +kernel

theorem widens_float_float (t u : FloatTy) : widens t.fmt u.fmt = decide (t = u ∨ u = .f64 ∨ u = .f32 ∧ t ≠ .f64) := by
  cases t <;> cases u <;> decide +kernel

/-- The nine formats of R51. -/
def formats : List FFmt := [fmtF64, fmtF32, fmtBf16, fmtF16, fmtE4m3, fmtE5m2, fmtE2m3, fmtE3m2, fmtE2m1]

/-- A format that holds every finite value of one with infinities has infinities. -/
theorem widens_ieee : ∀ src ∈ formats, ∀ dst ∈ formats, src.kind = .ieee → widens src dst = true → dst.kind = .ieee := by
  decide +kernel

/-! ### A widening conversion is exact (R65) -/

section
variable {f src dst : FFmt} {x : Exact}

theorem widens_iff : widens src dst = true ↔
    src.mbits ≤ dst.mbits ∧ (1 : Int) - dst.bias - dst.mbits ≤ 1 - (src.bias : Int) - src.mbits ∧ src.greatest ≤ dst.greatest := by
  unfold widens
  rw [Bool.and_eq_true, Bool.and_eq_true, decide_eq_true_iff, decide_eq_true_iff, Bool.not_eq_true', ← Bool.not_eq_true,
    Exact.lt_iff one_pos one_pos, FFmt.rat_largest, FFmt.rat_largest, not_lt, and_assoc]

/-- A multiple of the unit of an exponent stays when it is rounded to that unit. -/
theorem FFmt.rounded_of_multiple (hx : 0 < x.den) (r : Round) {c : Nat} {b k : Int} (h : |x.rat| = c * 2 ^ b)
    (hk : k - f.mbits ≤ b) : (f.rounded r x k).1 * (2 : ℚ) ^ (k - f.mbits) = |x.rat| := by
  have hN : |x.rat| = ((c * 2 ^ (b - (k - f.mbits)).toNat : Nat) : ℚ) * 2 ^ (k - f.mbits) := by
    rw [Nat.cast_mul, mul_assoc, two_pow_mul_zpow, Int.toNat_of_nonneg (by omega), sub_add_cancel, h]
  rw [le_antisymm (FFmt.rounded_le_of_le hx r hN.le) (FFmt.le_rounded_of_le hx r hN.ge), hN]

theorem roundTo_widened (hs : src.regular) (hd : dst.regular) (hw : widens src dst = true) {e m : Nat}
    (hfin : src.finiteFields e m) (h0 : src.significand e m ≠ 0) (s : Bool) (r : Round) (sat : Bool) :
    ∃ y, (roundTo dst r sat (src.number s e m)).1 < 2 ^ dst.width ∧
      dst.decode (roundTo dst r sat (src.number s e m)).1 = .fin s y ∧ y.rat = (src.number s e m).rat ∧
      (roundTo dst r sat (src.number s e m)).2 = 0 := by
  obtain ⟨hmant, hexp, hgreat⟩ := widens_iff.mp hw
  set x := src.number s e m with hxdef
  have hx : 0 < x.den := one_pos
  have hne : x.rat ≠ 0 := FFmt.rat_number_ne_zero h0 s
  have habs : |x.rat| = src.significand e m * 2 ^ src.lastBit e := FFmt.abs_rat_number s e m
  have hneg : decide (x.num < 0) = s := FFmt.number_negative h0 s
  have hlead : x.log2 - dst.mbits ≤ src.lastBit e := by
    have hlow := (Exact.log2_spec hx hne).1
    have hup : |x.rat| < 2 ^ (((src.mbits + 1 : Nat) : Int) + src.lastBit e) := by
      rw [habs, ← two_pow_mul_zpow]
      gcongr
      exact FFmt.significand_lt hfin.1
    have := (zpow_lt_zpow_iff_right₀ one_lt_two).mp (hlow.trans_lt hup)
    push_cast at this
    omega
  have hmin : 1 - (dst.bias : Int) - dst.mbits ≤ src.lastBit e := by
    unfold FFmt.lastBit
    omega
  obtain ⟨y, hlt, hdec, hrat, hflag⟩ := roundTo_in_range_spec (f := dst) (r := r) (sat := sat) hx hne hd (by
    rw [FFmt.rounded_of_multiple hx r habs hlead, habs]
    exact ((FFmt.finiteFields_iff hs hfin.1).mp hfin).trans hgreat)
  have hround := FFmt.rounded_of_multiple (f := dst) hx r habs (k := max x.log2 (1 - (dst.bias : Int))) (by omega)
  have hyx : y.rat = x.rat := by
    rw [hrat]
    by_cases hn : x.num < 0
    · rw [if_pos hn, Int.cast_neg, neg_mul, Int.cast_natCast, hround, abs_of_neg ((Exact.rat_neg_iff hx).mp hn), neg_neg]
    · rw [if_neg hn, Int.cast_natCast, hround, abs_of_nonneg (not_lt.mp (mt (Exact.rat_neg_iff hx).mpr hn))]
  exact ⟨y, hlt, by rw [hdec, hneg], hyx, by rw [hflag, if_pos hyx]⟩

/-- A finite value is one of the format it is converted to by a widening conversion. -/
theorem convertValue_widened (hs : src.regular) (hd : dst.regular) (hw : widens src dst = true) {a : Nat} {s : Bool}
    (ha : src.decode a = .fin s x) (r : Round) (sat : Bool) :
    ∃ y, (convertValue dst r sat (.fin s x)).1 < 2 ^ dst.width ∧
      dst.decode (convertValue dst r sat (.fin s x)).1 = .fin s y ∧ y.rat = x.rat ∧ (convertValue dst r sat (.fin s x)).2 = 0 := by
  have hlt : a % 2 ^ src.width < 2 ^ src.width := Nat.mod_lt _ (Nat.two_pow_pos _)
  obtain ⟨e, m, hfin, -, rfl⟩ := FFmt.exists_fields_of_decode hs hlt ((FFmt.decode_mod src a).trans ha)
  unfold convertValue
  by_cases h0 : src.significand e m = 0
  · have hzero : (src.number s e m).rat = 0 := by
      rw [← abs_eq_zero, FFmt.abs_rat_number, h0, Nat.cast_zero, zero_mul]
    dsimp only
    rw [if_pos ((Exact.isZero_iff (x := src.number s e m) one_pos).mpr hzero)]
    refine ⟨_, FFmt.pack_lt (Nat.two_pow_pos _) (Nat.two_pow_pos _) s, FFmt.decode_zero hd s, ?_, rfl⟩
    rw [hzero, Exact.rat_den_one, Int.cast_zero, zero_mul]
  · dsimp only
    rw [if_neg (mt (Exact.isZero_iff (x := src.number s e m) one_pos).mp (FFmt.rat_number_ne_zero h0 s))]
    exact roundTo_widened hs hd hw hfin h0 s r sat

end

/-- What a conversion between two formats makes of a value (R65, R66). -/
def FVal.ConvertedTo (src dst : FFmt) (r : Round) (sat : Bool) (v : FVal) (out : Flagged) : Prop :=
  match v with
  | .nan sg => out = if dst.kind = .finite then (0, flagInvalid) else (dst.canonicalNan, signalling [.nan sg])
  | .inf s =>
    if widens src dst then out = (dst.infinity s, 0)
    else match dst.kind with
      | .ieee => out = (if sat then dst.largest s else dst.infinity s, 0)
      | .nanOnly => out = if sat then (dst.largest s, 0) else (dst.canonicalNan, flagInvalid)
      | .finite => out = (dst.largest s, flagInvalid)
  | .fin s x =>
    if widens src dst then ∃ y, out.1 < 2 ^ dst.width ∧ dst.decode out.1 = .fin s y ∧ y.rat = x.rat ∧ out.2 = 0
    else out = if x.rat = 0 then (dst.zero s, 0) else roundTo dst r sat x

theorem convertNan_eq (dst : FFmt) (sg : Bool) :
    convertNan dst sg = if dst.kind = .finite then (0, flagInvalid) else (dst.canonicalNan, signalling [.nan sg]) := by
  rw [← nan_flag]
  unfold convertNan
  cases dst.kind <;> rfl

theorem convertFloat_convertedTo {src dst : FFmt} (hs : src ∈ formats) (hd : dst ∈ formats) (r : Round) (sat : Bool) (a : Nat) :
    FVal.ConvertedTo src dst r sat (src.decode a) (convertFloat src dst r sat a) := by
  unfold convertFloat
  cases ha : src.decode a with
  | nan sg => exact convertNan_eq dst sg
  | inf s =>
    show if widens src dst then _ else _
    by_cases hw : widens src dst = true
    · rw [if_pos hw, hw, Bool.not_true, Bool.and_false]
      show convertInfinity dst false s = _
      rw [convertInfinity, widens_ieee src hs dst hd (FFmt.decode_inf ha).2 hw]
      rfl
    · rw [if_neg hw, (Bool.not_eq_true _).mp hw, Bool.not_false, Bool.and_true]
      show match dst.kind with | .ieee => _ | .nanOnly => _ | .finite => _
      unfold convertValue convertInfinity
      cases dst.kind <;> cases sat <;> rfl
  | fin s x =>
    show if widens src dst then _ else _
    by_cases hw : widens src dst = true
    · rw [if_pos hw]
      exact convertValue_widened (formats_regular hs) (formats_regular hd) hw ha r _
    · rw [if_neg hw, (Bool.not_eq_true _).mp hw, Bool.not_false, Bool.and_true]
      exact Exact.ite_isZero (FFmt.decode_den ha) _ _

/-! ### Integers (R65, R67) -/

/-- The integer that a value rounds to, clamped to a range (R67). -/
def FVal.ToIntegerTo (r : Round) (lo hi : ℤ) (v : FVal) (out : Int × BitVec 5) : Prop :=
  match v with
  | .nan _ => out = (0, flagInvalid)
  | .inf s => out = (if s then lo else hi, flagInvalid)
  | .fin _ y => ∃ q : ℤ, roundsTo r y.rat q ∧ out =
      if q < lo then (lo, flagInvalid) else if hi < q then (hi, flagInvalid)
      else (q, if (q : ℚ) = y.rat then 0 else flagInexact)

theorem intRange_eq (signed : Bool) (w : Nat) : intRange signed w =
    (if signed then -2 ^ (w - 1) else 0, if signed then 2 ^ (w - 1) - 1 else 2 ^ w - 1) := by
  cases signed <;> simp [intRange]

/-- The rounded integer of a finite value, and whether it is the value. -/
theorem roundQuotient_units {f : FFmt} {a : Nat} {s : Bool} {x : Exact} (ha : f.decode a = .fin s x) (r : Round) :
    let q := roundQuotient r s (x.units 0).1 (x.units 0).2
    let z : ℤ := if s then -(q.1 : ℤ) else q.1
    roundsTo r x.rat z ∧ (q.2 = true ↔ (z : ℚ) = x.rat) := by
  have hx := FFmt.decode_den ha
  have hd := Exact.units_snd_pos hx 0
  have hratio : ((x.units 0).1 : ℚ) / (x.units 0).2 = |x.rat| := by rw [Exact.units_ratio hx, zpow_zero, div_one]
  have hsign := FFmt.decode_signed ha
  intro q z
  have hround := roundQuotient_roundsTo r s (n := (x.units 0).1) hd
  rw [hratio, ← hsign] at hround
  refine ⟨hround, ?_⟩
  have hz : (z : ℚ) = if s then -(q.1 : ℚ) else q.1 := by cases s <;> simp [z]
  have hexact : q.2 = true ↔ (q.1 : ℚ) = |x.rat| := by
    rw [← hratio]
    refine ⟨roundQuotient_exact, fun h => (roundQuotient_exact_iff ..).mpr ?_⟩
    rw [eq_div_iff (by exact_mod_cast hd.ne')] at h
    exact ⟨_, (by exact_mod_cast h.symm.trans (mul_comm _ _))⟩
  rw [hexact, hz]
  conv_rhs => rw [hsign]
  cases s <;> simp

theorem floatToInt_toIntegerTo (f : FFmt) (signed : Bool) (w : Nat) (r : Round) (a : Nat) :
    FVal.ToIntegerTo r (if signed then -2 ^ (w - 1) else 0) (if signed then 2 ^ (w - 1) - 1 else 2 ^ w - 1) (f.decode a)
      (floatToInt f signed w r a) := by
  unfold floatToInt
  rw [intRange_eq]
  cases ha : f.decode a with
  | nan sg => rfl
  | inf s => rfl
  | fin s x =>
    obtain ⟨hround, hexact⟩ := roundQuotient_units ha r
    refine ⟨_, hround, ?_⟩
    simp only [← hexact]

theorem intToFloat_zero (f : FFmt) (r : Round) (sat : Bool) : intToFloat f r sat 0 = (f.zero false, 0) := if_pos rfl

theorem intToFloat_roundTo (f : FFmt) (r : Round) (sat : Bool) {z : ℤ} (hz : z ≠ 0) :
    ∃ e : Exact, 0 < e.den ∧ e.rat = z ∧ intToFloat f r sat z = roundTo f r sat e :=
  ⟨.ofInt z, one_pos, Exact.rat_ofInt z, if_neg hz⟩

end Sys2Proof.Machine
end

section
/-! The instructions of major 0x08 and what their operations compute (R149 to R152). -/

namespace Sys2Proof.Machine

/-! ### Sign bits -/

theorem FFmt.width_pred (f : FFmt) : f.ebits + f.mbits = f.width - 1 := by rw [FFmt.width_eq, Nat.add_sub_cancel]

theorem floatNegBits_eq {f : FFmt} {a : Nat} (ha : a < 2 ^ f.width) : floatNegBits f a = a ^^^ 2 ^ (f.width - 1) := by
  have hbit : 2 ^ (f.width - 1) < 2 ^ f.width := Nat.pow_lt_pow_right (by decide) (by rw [FFmt.width_eq]; omega)
  rw [floatNegBits, FFmt.width_pred, Nat.mod_eq_of_lt (Nat.xor_lt_two_pow ha hbit)]

theorem floatAbsBits_eq (f : FFmt) (a : Nat) : floatAbsBits f a = a % 2 ^ (f.width - 1) := by
  rw [floatAbsBits, FFmt.width_pred]

theorem floatSignBits_eq {f : FFmt} {b : Nat} (a : Nat) (hb : b < 2 ^ f.width) :
    floatSignBits f a b = a % 2 ^ (f.width - 1) + b / 2 ^ (f.width - 1) * 2 ^ (f.width - 1) := by
  have hlt : b / 2 ^ (f.width - 1) < 2 :=
    Nat.div_lt_of_lt_mul (by rwa [← pow_succ, Nat.sub_add_cancel (by rw [FFmt.width_eq]; omega)])
  rw [floatSignBits, floatAbsBits_eq, FFmt.width_pred, Nat.mod_eq_of_lt hlt]

/-! ### The instructions -/

section
variable (d a b : Reg) (t : FloatTy) (s : State)

theorem exec_fneg : Sys2Proof.Machine.exec (.fneg d a t) s = liftPure (fun i => i.setF d (floatNegBits t.fmt (i.getF t a), 0)) s := rfl

theorem exec_fabs : Sys2Proof.Machine.exec (.fabs d a t) s = liftPure (fun i => i.setF d (floatAbsBits t.fmt (i.getF t a), 0)) s := rfl

theorem exec_fsgn : Sys2Proof.Machine.exec (.fsgn d a b t) s =
    liftPure (fun i => i.setF d (floatSignBits t.fmt (i.getF t a) (i.getF t b), 0)) s := rfl

theorem fneg_runs : Runs (.fneg d a t) (fun i => i.setS d (BitVec.ofNat 64 (i.getF t a ^^^ 2 ^ (t.fmt.width - 1)))) :=
  .of_pure_eq (exec_fneg d a t) fun i => by rw [Inst.setF_zero, floatNegBits_eq (i.getF_lt t a)]

theorem fabs_runs : Runs (.fabs d a t) (fun i => i.setS d (BitVec.ofNat 64 (i.getF t a % 2 ^ (t.fmt.width - 1)))) :=
  .of_pure_eq (exec_fabs d a t) fun i => by rw [Inst.setF_zero, floatAbsBits_eq]

theorem fsgn_runs : Runs (.fsgn d a b t) (fun i => i.setS d (BitVec.ofNat 64 (i.getF t a % 2 ^ (t.fmt.width - 1)
    + i.getF t b / 2 ^ (t.fmt.width - 1) * 2 ^ (t.fmt.width - 1)))) :=
  .of_pure_eq (exec_fsgn d a b t) fun i => by rw [Inst.setF_zero, floatSignBits_eq _ (i.getF_lt t b)]

theorem fcls_runs : Runs (.fcls d a t) (fun i => i.setS d (BitVec.ofNat 64 (floatClass t.fmt (i.getF t a)))) :=
  .of_pure_eq (exec_fcls d a t) fun i => by rw [Inst.setF_zero]

end

theorem fmt_mbits_le (t : FloatTy) : t.fmt.mbits ≤ 52 := by cases t <;> decide

/-- Settles O20: each instruction applies the operation of its name, and each operation is exact but for one rounding. -/
theorem scalarFloatForms : Obligations.ScalarFloatForms := by
  unfold Obligations.ScalarFloatForms
  refine ⟨fun d a b r t u x sat => ⟨.of_pure fun _ => rfl, .of_pure fun _ => rfl, .of_pure fun _ => rfl, .of_pure fun _ => rfl,
    .of_pure fun _ => rfl, .of_pure fun _ => rfl, .of_pure fun _ => rfl, .of_pure fun _ => rfl, .of_pure fun _ => rfl,
    .of_pure fun _ => rfl, .of_pure fun _ => rfl, .of_pure fun _ => rfl, .of_pure fun _ => rfl, .of_pure fun _ => rfl,
    .of_pure fun _ => rfl, fneg_runs d a t, fabs_runs d a t, fsgn_runs d a b t, fcls_runs d a t⟩,
    fun t r sat => ⟨fun a b c => ⟨?_, ?_, ?_, ?_, ?_, ?_, ?_⟩, fun a x => ?_, fun z => ⟨?_, ?_⟩⟩,
    fun t u q => ⟨widens_narrow_float q t, widens_float_narrow t q, widens_float_float t u⟩,
    fun src hs dst hd r sat a => ?_⟩
  · exact floatAdd_sumTo t.fmt r a b
  · exact floatSub_sumTo t.fmt r a b
  · exact floatMul_productTo t.fmt r a b
  · exact floatDiv_quotientTo t.fmt r a b
  · exact floatSqrt_rootTo (fmt_mbits_le t) r a
  · exact floatFma_fusedTo t.fmt r a b c
  · exact floatFnma_fusedTo t.fmt r a b c
  · exact floatToInt_toIntegerTo t.fmt x.signed x.width r a
  · rintro rfl
    exact intToFloat_zero t.fmt r sat
  · exact intToFloat_roundTo t.fmt r sat
  · exact convertFloat_convertedTo hs hd r sat a

end Sys2Proof.Machine
end
